-- ==== Sys2Proof/Word.lean ====
section
/-! DEFINITION. The word types of the device and the plainest conversions between them (R4, R9, R26).
Everything that a test could show wrong stands in Decode.lean or under Machine/. -/

namespace Sys2Proof

/-- A 64-bit scalar register or grid cell (R9, R10). -/
abbrev Word := BitVec 64

/-- One byte of memory. -/
abbrev Byte := BitVec 8

/-- A 32-bit instruction word (R26). -/
abbrev IWord := BitVec 32

/-- The four stations of a core's dependency ring (R7, R27). -/
inductive Station where
  | s | v | m | c
deriving DecidableEq, Repr

/-- The nested scopes of R93. -/
inductive Scope where
  | core | cl | die | pkg | sys
deriving DecidableEq, Repr

/-- The eight access paths of R7 and R48, in code order. -/
inductive Path where
  | ls | cp | mt | md | rl | fs | ho | hs
deriving DecidableEq, Repr

/-- The five VSHUF patterns of R273, in code order. -/
inductive Shuf where
  | reverse | swap | zip | unzip | broadcast
deriving DecidableEq, Repr

/-- The dependency field's marks (R27): bit 3 WP, bit 2 WN, bit 1 SP, bit 0 SN of the four bits. -/
abbrev Dep := BitVec 4

/-- A scalar register number. -/
abbrev SReg := BitVec 5

/-- A grid operand: direction in bits 5:4, index in bits 3:0 (R10). -/
abbrev GOp := BitVec 6

/-- An even grid operand (R54): direction in bits 4:3, half the index in bits 2:0. -/
abbrev PairOp := BitVec 5

/-- A mask register number. -/
abbrev MReg := BitVec 3

end Sys2Proof
end

