-- ==== Sys2Proof/Machine/Store.lean ====
section
/-! DEFINITION. Sparse tables keyed by a natural number, and byte memory in one canonical form: addresses strictly
rising and no entry equal to what an unlisted address reads as. -/

namespace Sys2Proof.Machine

/-- A sparse table: the entries that differ from the reader's default, by rising key. -/
abbrev SMap (β : Type) := List (Nat × β)

/-- The entry of key `k`, if the table lists one. -/
def mget {β : Type} : SMap β → Nat → Option β
  | [], _ => none
  | (k, v) :: r, a => if a = k then some v else mget r a

/-- The table with `v` at key `a`. -/
def mput {β : Type} : SMap β → Nat → β → SMap β
  | [], a, v => [(a, v)]
  | (k, w) :: r, a, v =>
    if a < k then (a, v) :: (k, w) :: r
    else if a = k then (a, v) :: r
    else (k, w) :: mput r a v

/-- The table without key `a`. -/
def mdel {β : Type} : SMap β → Nat → SMap β
  | [], _ => []
  | (k, w) :: r, a => if a = k then mdel r a else (k, w) :: mdel r a

/-- The entry of key `a`, or the given default. -/
def mgetD {β : Type} (m : SMap β) (a : Nat) (d : β) : β := (mget m a).getD d

/-- The table with the entry of `a` (or the default) replaced by its image under `f`. -/
def mupd {β : Type} (m : SMap β) (a : Nat) (d : β) (f : β → β) : SMap β := mput m a (f (mgetD m a d))

/-- The keys rise strictly. -/
def msorted {β : Type} : SMap β → Bool
  | [] => true
  | [_] => true
  | (k, _) :: (l, w) :: r => decide (k < l) && msorted ((l, w) :: r)

/-- Byte memory. -/
abbrev Mem := List Host.Cell

/-- The byte `i` of a little-endian number. -/
def byteOf (v : Nat) (i : Nat) : Byte := BitVec.ofNat 8 (v / 2 ^ (8 * i))

/-- The physical address of the power control (R424), whose cap resets to 2,800 and enable to 1. -/
def powerCtl : Nat := 0x1FF71000000

/-- The first physical address of the 13 memory controllers' age caps (R401), 4,096 each. -/
def ageCaps : Nat := 0x1FF70000000

/-- What an unlisted location reads as. Firmware clears memory and the scratchpads reset to zero (R412, R146); the two
control areas that the spec resets to other values read as those (R401, R424). Host memory reads as zero (log entry 4). -/
def memDefault (a : Nat) : Byte :=
  if a = powerCtl then 0xF0 else if a = powerCtl + 1 then 0x1A
  else if ageCaps ≤ a ∧ a < ageCaps + 8 * 13 ∧ a % 8 = 1 then 0x10
  else 0

/-- The byte at a location. -/
def Mem.read (m : Mem) (a : Nat) : Byte := mgetD m a (memDefault a)

/-- The memory with byte `b` at location `a`, in canonical form. -/
def Mem.write (m : Mem) (a : Nat) (b : Byte) : Mem := if b = memDefault a then mdel m a else mput m a b

/-- The canonical form: rising addresses, no entry that equals the default. -/
def Mem.wf (m : Mem) : Bool := msorted m && m.all fun c => c.2 != memDefault c.1

/-- The `n` bytes from `a`, lowest first. -/
def Mem.readBytes (m : Mem) (a : Nat) : Nat → List Byte
  | 0 => []
  | n + 1 => m.read a :: Mem.readBytes m (a + 1) n

/-- The memory with the bytes written from `a` upward. -/
def Mem.writeBytes (m : Mem) (a : Nat) : List Byte → Mem
  | [] => m
  | b :: r => Mem.writeBytes (m.write a b) (a + 1) r

/-- The little-endian number of a byte list (R4). -/
def leNat : List Byte → Nat
  | [] => 0
  | b :: r => b.toNat + 256 * leNat r

/-- The `n` low bytes of a number, lowest first (R4). -/
def leBytes (v : Nat) : Nat → List Byte
  | 0 => []
  | n + 1 => BitVec.ofNat 8 v :: leBytes (v / 256) n

/-- The little-endian number of `n` bytes at `a`. -/
def Mem.readLE (m : Mem) (a n : Nat) : Nat := leNat (m.readBytes a n)

/-- The memory with the low `n` bytes of `v` at `a`. -/
def Mem.writeLE (m : Mem) (a n v : Nat) : Mem := m.writeBytes a (leBytes v n)

/-- The doubleword at `a`. -/
def Mem.read64 (m : Mem) (a : Nat) : Word := BitVec.ofNat 64 (m.readLE a 8)

/-- The memory with a doubleword at `a`. -/
def Mem.write64 (m : Mem) (a : Nat) (v : Word) : Mem := m.writeLE a 8 v.toNat

/-- Element `i` of a list, or the default. -/
def nthD {β : Type} (l : List β) (i : Nat) (d : β) : β := (l[i]?).getD d

/-- The bits of `v` from `lo`, `n` wide, as a number. -/
def bitsOf (v : Nat) (lo n : Nat) : Nat := v / 2 ^ lo % 2 ^ n

/-- Bit `i` of a 64-bit value. -/
def wbit (v : Word) (i : Nat) : Bool := v.getLsbD i

/-- The field of a 64-bit value from bit `lo`, `n` wide, as a number. -/
def wfld (v : Word) (lo n : Nat) : Nat := bitsOf v.toNat lo n

/-- Two byte ranges meet. -/
def meets (a n b m : Nat) : Bool := decide (a < b + m) && decide (b < a + n)

end Sys2Proof.Machine
end

