-- ==== Sys2Proof/Machine/Crypto.lean ====
section
/-! DEFINITION. The public functions that the spec takes from standards it names: SHAKE128 and SHAKE256 (FIPS 202: R411, R426),
XMSS-SHAKE_20_256 verification (RFC 8391: R411, R414), AES-256 and AES-XTS-256 (FIPS 197, IEEE 1619: R408). Log entry 105. -/

namespace Sys2Proof.Machine

/-- Two byte strings added bit by bit. -/
def xorBytes (a b : List Byte) : List Byte := List.zipWith (· ^^^ ·) a b

/-- The `n` bytes of a number, highest first. -/
def beBytes (v n : Nat) : List Byte := (leBytes v n).reverse

/-- Bytes `o` to `o + n − 1` of a string. -/
def span (bs : List Byte) (o n : Nat) : List Byte := (bs.drop o).take n

/-! ### SHAKE -/

/-- The round constants of Keccak-f[1600]. -/
def keccakRc : List Word :=
  [0x0000000000000001, 0x0000000000008082, 0x800000000000808A, 0x8000000080008000, 0x000000000000808B, 0x0000000080000001,
   0x8000000080008081, 0x8000000000008009, 0x000000000000008A, 0x0000000000000088, 0x0000000080008009, 0x000000008000000A,
   0x000000008000808B, 0x800000000000008B, 0x8000000000008089, 0x8000000000008003, 0x8000000000008002, 0x8000000000000080,
   0x000000000000800A, 0x800000008000000A, 0x8000000080008081, 0x8000000000008080, 0x0000000080000001, 0x8000000080008008]

/-- The rotation of lane x + 5y. -/
def keccakRot : List Nat :=
  [0, 1, 62, 28, 27, 36, 44, 6, 55, 20, 3, 10, 43, 25, 39, 41, 45, 15, 21, 8, 18, 2, 61, 56, 14]

/-- A lane of a state of 25. -/
def lane (a : List Word) (x y : Nat) : Word := nthD a (x % 5 + 5 * (y % 5)) 0

/-- A state from its lanes. -/
def lanes25 (f : Nat → Nat → Word) : List Word := (List.range 25).map fun i => f (i % 5) (i / 5)

/-- One round. -/
def keccakRound (a : List Word) (rc : Word) : List Word :=
  let c := (List.range 5).map fun x => lane a x 0 ^^^ lane a x 1 ^^^ lane a x 2 ^^^ lane a x 3 ^^^ lane a x 4
  let d := (List.range 5).map fun x => nthD c ((x + 4) % 5) 0 ^^^ (nthD c ((x + 1) % 5) 0).rotateLeft 1
  let t := lanes25 fun x y => (lane a x y ^^^ nthD d x 0).rotateLeft (nthD keccakRot (x + 5 * y) 0)
  -- lane (x, y) goes to (y, 2x + 3y): the lane at (x, y) comes from (x + 3y, x)
  let b := lanes25 fun x y => lane t (x + 3 * y) x
  let e := lanes25 fun x y => lane b x y ^^^ (~~~(lane b (x + 1) y) &&& lane b (x + 2) y)
  match e with
  | [] => []
  | h :: r => (h ^^^ rc) :: r

/-- The permutation. -/
def keccak (a : List Word) : List Word := keccakRc.foldl keccakRound a

/-- A block absorbed: its bytes added to the first lanes. -/
def absorb (a : List Word) (block : List Byte) : List Word :=
  keccak (a.mapIdx fun i w => w ^^^ BitVec.ofNat 64 (leNat (span block (8 * i) 8)))

/-- The padded message of a rate. -/
def shakePad (rate : Nat) (m : List Byte) : List Byte :=
  let k := rate - m.length % rate
  if k = 1 then m ++ [0x9F] else m ++ [0x1F] ++ List.replicate (k - 2) 0 ++ [0x80]

/-- SHAKE with a rate in bytes, to `n` bytes, at most the rate. -/
def shake (rate : Nat) (m : List Byte) (n : Nat) : List Byte :=
  let p := shakePad rate m
  let a := (List.range (p.length / rate)).foldl (fun a i => absorb a (span p (rate * i) rate)) (List.replicate 25 0)
  (a.flatMap fun w => leBytes w.toNat 8).take n

/-- SHAKE256 to 32 bytes (R411, R426). -/
def shake256 (m : List Byte) : List Byte := shake 136 m 32

/-- SHAKE128 to 32 bytes, the hash of XMSS-SHAKE_20_256. -/
def shake128 (m : List Byte) : List Byte := shake 168 m 32

/-! ### XMSS -/

/-- The keyed functions of RFC 8391 for n = 32. -/
def xmssF (key m : List Byte) : List Byte := shake128 (beBytes 0 32 ++ key ++ m)
def xmssH (key m : List Byte) : List Byte := shake128 (beBytes 1 32 ++ key ++ m)
def xmssMsg (key m : List Byte) : List Byte := shake128 (beBytes 2 32 ++ key ++ m)
def xmssPrf (key m : List Byte) : List Byte := shake128 (beBytes 3 32 ++ key ++ m)

/-- A hash address of layer 0 and tree 0: its type, three words, and the word that tells key from mask. -/
def xmssAdr (type a b c km : Nat) : List Byte :=
  beBytes 0 12 ++ beBytes type 4 ++ beBytes a 4 ++ beBytes b 4 ++ beBytes c 4 ++ beBytes km 4

/-- `n` links of a chain from link `i` on. -/
def wotsChain (seed : List Byte) (ots chain : Nat) : Nat → Nat → List Byte → List Byte
  | 0, _, x => x
  | n + 1, i, x =>
    let g (km : Nat) : List Byte := xmssPrf seed (xmssAdr 0 ots chain i km)
    wotsChain seed ots chain n (i + 1) (xmssF (g 0) (xorBytes x (g 1)))

/-- The digits of a string, four bits each, high ones first. -/
def nibbles (bs : List Byte) : List Nat := bs.flatMap fun b => [b.toNat / 16, b.toNat % 16]

/-- Two nodes hashed into their parent. -/
def randHash (seed : List Byte) (adr : Nat → List Byte) (l r : List Byte) : List Byte :=
  let g (km : Nat) : List Byte := xmssPrf seed (adr km)
  xmssH (g 0) (xorBytes l (g 1) ++ xorBytes r (g 2))

/-- One level of an L-tree: pairs hashed, a last odd node kept. -/
def ltreeLevel (seed : List Byte) (lt height : Nat) : Nat → List (List Byte) → List (List Byte)
  | i, a :: b :: r => randHash seed (xmssAdr 1 lt height i) a b :: ltreeLevel seed lt height (i + 1) r
  | _, l => l

/-- The root of an L-tree, over `fuel` levels at most. -/
def ltree (seed : List Byte) (lt : Nat) : Nat → Nat → List (List Byte) → List Byte
  | 0, _, l => l.headD []
  | fuel + 1, h, l => ltree seed lt fuel (h + 1) (ltreeLevel seed lt h 0 l)

/-- The root that a leaf and its authentication path give. -/
def treeRoot (seed : List Byte) : Nat → Nat → List (List Byte) → List Byte → List Byte
  | _, _, [], x => x
  | k, idx, a :: r, x =>
    let adr := xmssAdr 2 0 k (idx / 2)
    treeRoot seed (k + 1) (idx / 2) r (if idx % 2 = 0 then randHash seed adr x a else randHash seed adr a x)

/-- XMSS-SHAKE_20_256 verification (R411, R414): the key as OID, root and seed; the message; the signature as index, randomness,
WOTS+ signature and authentication path. -/
def xmssVerify (key m sig : List Byte) : Bool :=
  let root := span key 4 32
  let seed := span key 36 32
  let idx := leNat (span sig 0 4).reverse
  let d := nibbles (xmssMsg (span sig 4 32 ++ root ++ beBytes idx 32) m)
  let sum := (d.map (15 - ·)).sum * 16
  let ds := d ++ (nibbles (beBytes sum 2)).take 3
  let pk := ds.mapIdx fun i x => wotsChain seed idx i (15 - x) x (span sig (36 + 32 * i) 32)
  let path := (List.range 20).map fun i => span sig (2180 + 32 * i) 32
  decide (sig.length = 2820) && decide (idx < 2 ^ 20) && treeRoot seed 0 idx path (ltree seed idx 7 0 pk) == root

/-! ### AES -/

/-- A byte times x in the field of AES. -/
def xtime (a : Byte) : Byte := (a <<< 1) ^^^ (if a.getLsbD 7 then 0x1B else 0)

/-- The product of two bytes. -/
def gmul (a b : Byte) : Byte :=
  ((List.range 8).foldl (fun (acc : Byte × Byte) i => (if b.getLsbD i then acc.1 ^^^ acc.2 else acc.1, xtime acc.2)) (0, a)).1

/-- The inverse of a byte, its power 254; 0 stays. -/
def ginv (a : Byte) : Byte :=
  let p2 := gmul a a
  let p4 := gmul p2 p2
  let p8 := gmul p4 p4
  let p16 := gmul p8 p8
  let p32 := gmul p16 p16
  let p64 := gmul p32 p32
  let p128 := gmul p64 p64
  gmul p128 (gmul p64 (gmul p32 (gmul p16 (gmul p8 (gmul p4 p2)))))

/-- The substitution of a byte, and its inverse. -/
def sbox (a : Byte) : Byte :=
  let i := ginv a
  i ^^^ i.rotateLeft 1 ^^^ i.rotateLeft 2 ^^^ i.rotateLeft 3 ^^^ i.rotateLeft 4 ^^^ 0x63
def sboxInv (a : Byte) : Byte := ginv (a.rotateLeft 1 ^^^ a.rotateLeft 3 ^^^ a.rotateLeft 6 ^^^ 0x05)

/-- The words of the key schedule after the first eight, newest first: `n` more of them from word `i` on. -/
def aesExpand : Nat → Nat → Byte → List (List Byte) → List (List Byte)
  | 0, _, _, ws => ws
  | n + 1, i, rc, ws =>
    let t := ws.headD []
    let u :=
      if i % 8 = 0 then xorBytes ((t.drop 1 ++ t.take 1).map sbox) [rc, 0, 0, 0]
      else if i % 8 = 4 then t.map sbox else t
    aesExpand n (i + 1) (if i % 8 = 0 then xtime rc else rc) (xorBytes (nthD ws 7 []) u :: ws)

/-- The fifteen round keys of a 256-bit key. -/
def aesKeys (key : List Byte) : List (List Byte) :=
  let ws := (aesExpand 52 8 1 ((List.range 8).map fun i => span key (4 * i) 4).reverse).reverse.flatten
  (List.range 15).map fun i => span ws (16 * i) 16

/-- Byte `i` of the shifted rows: row i mod 4 by that many columns. -/
def shiftRows (x : List Byte) : List Byte := (List.range 16).map fun i => nthD x ((i + 4 * (i % 4)) % 16) 0
def unshiftRows (x : List Byte) : List Byte := (List.range 16).map fun i => nthD x ((i + 16 - 4 * (i % 4)) % 16) 0

/-- The columns times a matrix whose first row is `m`, each next row turned by one. -/
def mixColumns (m x : List Byte) : List Byte :=
  (List.range 16).map fun i =>
    (List.range 4).foldl (fun acc j => acc ^^^ gmul (nthD m ((j + 4 - i % 4) % 4) 0) (nthD x (i / 4 * 4 + j) 0)) 0

/-- AES-256 of a block. -/
def aesEncrypt (key x : List Byte) : List Byte :=
  let ks := aesKeys key
  let y := ((ks.drop 1).take 13).foldl (fun x k => xorBytes (mixColumns [2, 3, 1, 1] (shiftRows (x.map sbox))) k)
    (xorBytes x (ks.headD []))
  xorBytes (shiftRows (y.map sbox)) (nthD ks 14 [])

/-- Its inverse. -/
def aesDecrypt (key x : List Byte) : List Byte :=
  let ks := aesKeys key
  let y := (unshiftRows (xorBytes x (nthD ks 14 []))).map sboxInv
  let z := ((ks.drop 1).take 13).reverse.foldl
    (fun x k => (unshiftRows (mixColumns [14, 11, 13, 9] (xorBytes x k))).map sboxInv) y
  xorBytes z (ks.headD [])

/-- The tweak of block `j` of a data unit (IEEE 1619): the encrypted unit number times the `j`th power of x. -/
def xtsTweak (tk : List Byte) (unit j : Nat) : List Byte :=
  let step (t : Nat) : Nat := if 2 ^ 127 ≤ t then Nat.xor (2 * t % 2 ^ 128) 0x87 else 2 * t
  leBytes (j.repeat step (leNat (aesEncrypt tk (leBytes unit 16)))) 16

/-- AES-XTS-256 of block `j` of data unit `unit` (R408), and its inverse. -/
def xtsEncrypt (dk tk : List Byte) (unit j : Nat) (x : List Byte) : List Byte :=
  let t := xtsTweak tk unit j
  xorBytes (aesEncrypt dk (xorBytes x t)) t
def xtsDecrypt (dk tk : List Byte) (unit j : Nat) (x : List Byte) : List Byte :=
  let t := xtsTweak tk unit j
  xorBytes (aesDecrypt dk (xorBytes x t)) t

end Sys2Proof.Machine
end

