-- ==== Sys2Proof/Machine/Num.lean ====
section
/-! DEFINITION. Number formats and exact arithmetic (R159 to R175): decoding to exact values, the five rounding modes,
conversions, the pair and double-word algorithms. A finite value is an exact fraction; nothing is emulated by rounding
twice. -/

namespace Sys2Proof.Machine

/-- An exact finite value: a sign (kept for zeros), a numerator and a positive denominator. -/
structure Q where
  neg : Bool
  num : Nat
  den : Nat
deriving DecidableEq, Repr

/-- An exact value or a special one (R159, R160). -/
inductive Val where
  | nan (sig : Bool)
  | inf (neg : Bool)
  | fin (q : Q)
deriving DecidableEq, Repr

/-- The rounding modes of R164, in code order; codes 5 to 7 never reach a word (R16). -/
inductive Rnd where
  | rne | rtz | rdn | rup | rna
deriving DecidableEq, Repr

/-- The mode of a code (R16). -/
def rndOf (c : Nat) : Rnd := match c with | 0 => .rne | 1 => .rtz | 2 => .rdn | 3 => .rup | _ => .rna

/-- Flags in fpsr's order (R22): nv, dz, of, uf, nx, xe. -/
abbrev Fl := BitVec 6
def fNv : Fl := 1
def fDz : Fl := 2
def fOf : Fl := 4
def fUf : Fl := 8
def fNx : Fl := 16
def fXe : Fl := 32

/-- A flag when a condition holds. -/
def flIf (b : Bool) (f : Fl) : Fl := if b then f else 0

/-- Element widths by type code (R168). -/
def tyWidth (t : Nat) : Nat :=
  match t with
  | 0 => 64 | 1 => 32 | 2 => 16 | 3 => 16 | 4 => 8 | 5 => 8 | 6 => 8 | 7 => 64 | 8 => 32 | 9 => 16 | 10 => 8 | _ => 4

/-- Codes 0 to 5 are the floating-point formats (R159). -/
def isFloat (t : Nat) : Bool := decide (t < 6)

/-- Codes 7 to 11 are the integers (R161). -/
def isInt (t : Nat) : Bool := decide (7 ≤ t) && decide (t < 12)

/-- Fraction bits of a floating-point format (R159). -/
def fracBits (t : Nat) : Nat := match t with | 0 => 52 | 1 => 23 | 2 => 7 | 3 => 10 | 4 => 3 | _ => 2

/-- Exponent bias of a floating-point format (R159). -/
def bias (t : Nat) : Nat := match t with | 0 => 1023 | 1 => 127 | 2 => 127 | 3 => 15 | 4 => 7 | _ => 15

/-- The exponent of the largest finite value (R159). -/
def emax (t : Nat) : Int := match t with | 0 => 1023 | 1 => 127 | 2 => 127 | 3 => 15 | 4 => 8 | _ => 15

/-- The significand of the largest finite value, as an integer of f + 1 bits: FP8A stops at 1.75 (R159). -/
def maxSig (t : Nat) : Nat := if t = 4 then 14 else 2 ^ (fracBits t + 1) - 1

/-- The canonical NaN (R160). -/
def canonNaN (t : Nat) : Nat :=
  match t with | 0 => 0x7FF8000000000000 | 1 => 0x7FC00000 | 2 => 0x7FC0 | 3 => 0x7E00 | 4 => 0x7F | _ => 0x7E

/-- The encoding of an infinity; FP8A has none and gives its largest value (R164). -/
def infBits (t : Nat) (neg : Bool) : Nat :=
  (if neg then 2 ^ (tyWidth t - 1) else 0) +
  (if t = 4 then 0x7E else (2 ^ (tyWidth t - 1 - fracBits t) - 1) * 2 ^ fracBits t)

/-- The value ± n × 2^e as a fraction. -/
def qPow (neg : Bool) (n : Nat) (e : Int) : Q :=
  if 0 ≤ e then ⟨neg, n * 2 ^ e.toNat, 1⟩ else ⟨neg, n, 2 ^ (-e).toNat⟩

/-- The signed numerator. -/
def Q.int (q : Q) : Int := if q.neg then -(q.num : Int) else (q.num : Int)

/-- The fraction of a signed numerator, with the sign a zero takes. -/
def qOfInt (n : Int) (den : Nat) (zneg : Bool) : Q :=
  if n = 0 then ⟨zneg, 0, den⟩ else ⟨decide (n < 0), n.natAbs, den⟩

/-- The sum of two fractions over a common denominator, as a signed numerator and that denominator. -/
def qSum (a b : Q) : Int × Nat :=
  if a.den = b.den then (a.int + b.int, a.den)
  else if a.den % b.den = 0 then (a.int + b.int * (a.den / b.den : Nat), a.den)
  else if b.den % a.den = 0 then (a.int * (b.den / a.den : Nat) + b.int, b.den)
  else (a.int * b.den + b.int * a.den, a.den * b.den)

/-- The exact sum; an exact zero of opposite signs is +0, under RDN −0 (R164). -/
def qAdd (m : Rnd) (a b : Q) : Q :=
  let s := qSum a b
  qOfInt s.1 s.2 (if a.num = 0 ∧ b.num = 0 ∧ a.neg = b.neg then a.neg else m == .rdn)

/-- The exact product. -/
def qMul (a b : Q) : Q := ⟨a.neg != b.neg, a.num * b.num, a.den * b.den⟩

/-- The exact quotient by a nonzero divisor. -/
def qDiv (a b : Q) : Q := ⟨a.neg != b.neg, a.num * b.den, a.den * b.num⟩

/-- The negated value. -/
def qNeg (a : Q) : Q := { a with neg := !a.neg }

/-- a < b exactly. -/
def qLt (a b : Q) : Bool := decide (a.int * b.den < b.int * a.den)

/-- a = b exactly; the zeros are equal. -/
def qEq (a b : Q) : Bool := a.int * b.den == b.int * a.den

/-- The exponent of a positive fraction: the e with 2^e ≤ num / den < 2^(e + 1). -/
def qExp (num den : Nat) : Int :=
  let e : Int := (num.log2 : Int) - (den.log2 : Int)
  if 0 ≤ e then (if num < den * 2 ^ e.toNat then e - 1 else e)
  else (if num * 2 ^ (-e).toNat < den then e - 1 else e)

/-- The quotient of num / den by 2^k: whole part, twice the remainder, and the divisor that it is compared with. -/
def qUnits (num den : Nat) (k : Int) : Nat × Nat × Nat :=
  let n := if 0 ≤ k then num else num * 2 ^ (-k).toNat
  let d := if 0 ≤ k then den * 2 ^ k.toNat else den
  (n / d, 2 * (n % d), d)

/-- A magnitude rounded to a whole number of units 2^k under a mode; `st` says that the exact value lies a little above
num / den. The second part says that the result is not exact. -/
def rndUnits (m : Rnd) (neg : Bool) (num den : Nat) (st : Bool) (k : Int) : Nat × Bool :=
  let u := qUnits num den k
  let half := decide (u.2.2 < u.2.1) || (decide (u.2.1 = u.2.2) && st)
  let tie := decide (u.2.1 = u.2.2) && !st
  let inx := decide (u.2.1 ≠ 0) || st
  let up := match m with
    | .rne => half || (tie && decide (u.1 % 2 = 1))
    | .rna => half || tie
    | .rtz => false
    | .rdn => neg && inx
    | .rup => !neg && inx
  (if up then u.1 + 1 else u.1, inx)

/-- The overflow results of R164. -/
def overflowBits (t : Nat) (m : Rnd) (neg : Bool) : Nat :=
  let big := (if neg then 2 ^ (tyWidth t - 1) else 0) +
    (if t = 4 then 0x7E else (2 ^ (tyWidth t - 1 - fracBits t) - 1) * 2 ^ fracBits t - 1)
  match m with
  | .rne => infBits t neg
  | .rna => infBits t neg
  | .rtz => big
  | .rdn => if neg then infBits t neg else big
  | .rup => if neg then big else infBits t neg

/-- A fraction rounded into a floating-point format under a mode, with its flags (R164, R165). -/
def rndQ (t : Nat) (m : Rnd) (q : Q) (st : Bool) : Nat × Fl :=
  let sign := if q.neg then 2 ^ (tyWidth t - 1) else 0
  if q.num = 0 ∧ !st then (sign, 0)
  else
    let f := fracBits t
    let emin : Int := 1 - (bias t : Int)
    let e := qExp q.num q.den
    let r1 := rndUnits m q.neg q.num q.den st (e - f)
    if (maxSig t : Int) * 2 ^ (emax t - e).toNat < (r1.1 : Int) * 2 ^ (e - emax t).toNat then
      (overflowBits t m q.neg, fOf ||| fNx)
    else
      let tiny := decide (e < emin) && !(decide (e = emin - 1) && decide (r1.1 = 2 ^ (f + 1)))
      let k := if e < emin then emin - f else e - f
      let r := rndUnits m q.neg q.num q.den st k
      let body :=
        if r.1 < 2 ^ f then r.1
        else if r.1 < 2 ^ (f + 1) then ((k + f + bias t).toNat) * 2 ^ f + (r.1 - 2 ^ f)
        else ((k + 1 + f + bias t).toNat) * 2 ^ f
      (sign + body, flIf r.2 fNx ||| flIf (tiny && r.2) fUf)

/-- A bit pattern is a NaN, an infinity, or a finite value of a floating-point format (R159, R160). -/
def decFloat (t b : Nat) : Val :=
  let f := fracBits t
  let eb := tyWidth t - 1 - f
  let neg := bitsOf b (tyWidth t - 1) 1 == 1
  let E := bitsOf b f eb
  let F := bitsOf b 0 f
  if t = 4 ∧ E = 15 ∧ F = 7 then .nan false
  else if t ≠ 4 ∧ E = 2 ^ eb - 1 then (if F = 0 then .inf neg else .nan (bitsOf F (f - 1) 1 == 0))
  else if E = 0 then .fin (qPow neg F (1 - (bias t : Int) - f))
  else .fin (qPow neg (2 ^ f + F) ((E : Int) - bias t - f))

/-- A TS8 byte in eighths (R162). -/
def ts8Eighths (b : Nat) : Int :=
  let term (s e : Nat) : Int := if e = 0 then 0 else (if s = 1 then -1 else 1) * (2 ^ (e - 1) : Nat)
  term (bitsOf b 7 1) (bitsOf b 4 3) + term (bitsOf b 3 1) (bitsOf b 0 3)

/-- A two's-complement number of `w` bits. -/
def sInt (w b : Nat) : Int := if b % 2 ^ w < 2 ^ (w - 1) then (b % 2 ^ w : Nat) else (b % 2 ^ w : Nat) - (2 ^ w : Nat)

/-- decode(t, b) (R168). -/
def decode_ (t b : Nat) : Val :=
  if isFloat t then decFloat t b
  else if t = 6 then .fin (qOfInt (ts8Eighths b) 8 false)
  else .fin (qOfInt (sInt (tyWidth t) b) 1 false)

/-- A signalling NaN, which raises nv as an arithmetic or conversion input (R160). -/
def Val.isSig : Val → Bool
  | .nan s => s
  | _ => false

/-- A NaN of either kind. -/
def Val.isNan : Val → Bool
  | .nan _ => true
  | _ => false

/-- An infinity. -/
def Val.isInf : Val → Bool
  | .inf _ => true
  | _ => false

/-- Finite. -/
def Val.isFin : Val → Bool
  | .fin _ => true
  | _ => false

/-- The sign. -/
def Val.neg : Val → Bool
  | .nan _ => false
  | .inf n => n
  | .fin q => q.neg

/-- Zero of either sign. -/
def Val.isZero : Val → Bool
  | .fin q => q.num == 0
  | _ => false

/-- The value with the other sign. -/
def Val.negate : Val → Val
  | .nan s => .nan s
  | .inf n => .inf !n
  | .fin q => .fin (qNeg q)

/-- A float result: a value rounded into `t` (R164); ∞ into FP8A overflows (R167). -/
def rndV (t : Nat) (m : Rnd) (v : Val) : Nat × Fl :=
  match v with
  | .nan s => (canonNaN t, flIf s fNv)
  | .inf n => (infBits t n, if t = 4 then fOf ||| fNx else 0)
  | .fin q => rndQ t m q false

/-- The exact sum with the IEEE specials: the flag says invalid (R164, R230). -/
def vAdd (m : Rnd) (a b : Val) : Val × Fl :=
  let nv := flIf (a.isSig || b.isSig) fNv
  match a, b with
  | .nan _, _ => (.nan false, nv)
  | _, .nan _ => (.nan false, nv)
  | .inf x, .inf y => if x = y then (.inf x, 0) else (.nan false, fNv)
  | .inf x, _ => (.inf x, 0)
  | _, .inf y => (.inf y, 0)
  | .fin x, .fin y => (.fin (qAdd m x y), 0)

/-- The exact product with the IEEE specials. -/
def vMul (a b : Val) : Val × Fl :=
  let nv := flIf (a.isSig || b.isSig) fNv
  match a, b with
  | .nan _, _ => (.nan false, nv)
  | _, .nan _ => (.nan false, nv)
  | .fin x, .fin y => (.fin (qMul x y), 0)
  | x, y => if x.isZero || y.isZero then (.nan false, fNv) else (.inf (x.neg != y.neg), 0)

/-- The exact quotient with the IEEE specials (R230). -/
def vDiv (a b : Val) : Val × Fl :=
  let nv := flIf (a.isSig || b.isSig) fNv
  match a, b with
  | .nan _, _ => (.nan false, nv)
  | _, .nan _ => (.nan false, nv)
  | .inf _, .inf _ => (.nan false, fNv)
  | .inf x, y => (.inf (x != y.neg), 0)
  | .fin x, .inf y => (.fin ⟨x.neg != y, 0, 1⟩, 0)
  | .fin x, .fin y =>
    if y.num = 0 then (if x.num = 0 then (.nan false, fNv) else (.inf (x.neg != y.neg), fDz))
    else (.fin (qDiv x y), 0)

/-- a × b + c exactly (R265): an invalid product counts even beside a quiet NaN addend (R160). -/
def vFma (m : Rnd) (a b c : Val) : Val × Fl :=
  let p := vMul a b
  match c with
  | .nan s => (.nan false, p.2 ||| flIf s fNv)
  | _ =>
    let r := vAdd m p.1 c
    (r.1, p.2 ||| r.2)

/-- The whole square root, by digits from the top: Newton's iteration from above with a bound on its steps. -/
def isqrtGo (n : Nat) : Nat → Nat → Nat
  | 0, x => x
  | k + 1, x =>
    let y := (x + n / x) / 2
    if y < x then isqrtGo n k y else x

/-- ⌊√n⌋. -/
def isqrt (n : Nat) : Nat := if n = 0 then 0 else isqrtGo n (n.log2 + 2) (2 ^ (n.log2 / 2 + 1))

/-- The square root of a value, rounded (R230): √(−0) = −0, a negative value is invalid. -/
def rndSqrt (t : Nat) (m : Rnd) (v : Val) : Nat × Fl :=
  match v with
  | .nan s => (canonNaN t, flIf s fNv)
  | .inf n => if n then (canonNaN t, fNv) else (infBits t false, 0)
  | .fin q =>
    if q.num = 0 then rndQ t m q false
    else if q.neg then (canonNaN t, fNv)
    else
      -- √(num / den) = √(num × den × 4^160) / (den × 2^160), to a whole number and a remainder
      let n := q.num * q.den * 4 ^ 160
      let r := isqrt n
      rndQ t m ⟨false, r, q.den * 2 ^ 160⟩ (decide (r * r ≠ n))

/-- A subnormal bit pattern. -/
def isSubn (t b : Nat) : Bool :=
  bitsOf b (fracBits t) (tyWidth t - 1 - fracBits t) == 0 && bitsOf b 0 (fracBits t) != 0

/-- The zero of the same sign. -/
def zeroLike (t b : Nat) : Nat := bitsOf b (tyWidth t - 1) 1 * 2 ^ (tyWidth t - 1)

/-- An input of a non-pair word under ftz (R165). -/
def ftzIn (ftz : Bool) (t b : Nat) : Nat := if ftz && isFloat t && isSubn t b then zeroLike t b else b

/-- A result of a non-pair word under ftz: a flushed result sets uf and nx (R165). -/
def ftzOut (ftz : Bool) (t : Nat) (r : Nat × Fl) : Nat × Fl :=
  if ftz && isFloat t && isSubn t r.1 then (zeroLike t r.1, r.2 ||| fUf ||| fNx) else r

/-- An integer in the two's complement of `w` bits. -/
def ofInt (w : Nat) (n : Int) : Nat := (n % (2 ^ w : Nat)).toNat

/-- A value rounded to an integer under a mode, and whether it was not exact. -/
def rndInt (m : Rnd) (q : Q) : Int × Bool :=
  let r := rndUnits m q.neg q.num q.den false 0
  (if q.neg then -(r.1 : Int) else r.1, r.2)

/-- Clamped to a signed type of `w` bits. -/
def clampS (w : Nat) (n : Int) : Int :=
  if n < -(2 ^ (w - 1) : Nat) then -(2 ^ (w - 1) : Nat) else if (2 ^ (w - 1) : Nat) ≤ n then (2 ^ (w - 1) : Nat) - 1 else n

/-- The canonical TS8 encoding of `n` eighths, by the rules of R162 in order. -/
def ts8Enc (n : Int) : Option Nat :=
  let key (b : Nat) : Nat :=
    let e1 := bitsOf b 4 3
    let e2 := bitsOf b 0 3
    let terms := (if e1 = 0 then 0 else 1) + (if e2 = 0 then 0 else 1)
    (((terms * 2 + (if e2 ≤ e1 then 0 else 1)) * 2 + (if e2 = 0 ∧ bitsOf b 3 1 = 1 then 1 else 0)) * 8 + e1) * 256 + b
  ((List.range 256).filter fun b => ts8Eighths b == n).foldl (fun best b =>
    match best with
    | none => some b
    | some c => if key b < key c then some b else some c) none

/-- The magnitudes of TS8 in eighths, rising. -/
def ts8Mags : List Nat := (List.range 129).filter fun n => (ts8Enc n).isSome

/-- A value converted into TS8 (R167): rounded on the format's values and the next one after 16, which is 16.125 (129 eighths; log
entry 87), then clamped. -/
def cvtTs8 (m : Rnd) (v : Val) : Nat × Fl :=
  match v with
  | .nan _ => (0, fNv)
  | .inf n => (if n then 0xFF else 0x77, fNv)
  | .fin q =>
    if 129 * q.den ≤ 8 * q.num then (if q.neg then 0xFF else 0x77, fNv)
    else
      let lo := (ts8Mags.filter fun n => n * q.den ≤ 8 * q.num).foldl Nat.max 0
      let hi := (ts8Mags.filter fun n => 8 * q.num ≤ n * q.den).foldl Nat.min 129
      let exact := decide (lo = hi)
      let dlo := 8 * q.num - lo * q.den
      let dhi := hi * q.den - 8 * q.num
      let up := match m with
        | .rne => decide (dhi < dlo)
        | .rna => decide (dhi ≤ dlo)
        | .rtz => false
        | .rdn => q.neg
        | .rup => !q.neg
      let n := if exact then lo else if up then hi else lo
      let s : Int := if q.neg then -(n : Int) else n
      if n = 129 then (if q.neg then 0xFF else 0x77, fNv) else ((ts8Enc s).getD 0, flIf (!exact) fNx)

/-- cvt(x, t, m): an exact value converted into format `t`, with its flags (R167). `fromInt` marks an unscaled integer
source, whose clamping sets no flag. TS8 into an integer format has no row in R167: it is treated as a float source
(log entry 113). -/
def cvt (fromInt : Bool) (t : Nat) (m : Rnd) (v : Val) : Nat × Fl :=
  if isFloat t then rndV t m v
  else if t = 6 then cvtTs8 m v
  else
    let w := tyWidth t
    match v with
    | .nan _ => (0, fNv)
    | .inf n => (ofInt w (if n then -(2 ^ (w - 1) : Nat) else (2 ^ (w - 1) : Nat) - 1), fNv)
    | .fin q =>
      let r := rndInt m q
      let c := clampS w r.1
      (ofInt w c, if fromInt then 0 else if c = r.1 then flIf r.2 fNx else fNv)

/-- The block scale of a code: BF16 or E8M0 (R163). -/
def scaleVal (e8m0 : Bool) (b : Nat) : Val :=
  if e8m0 then (if b = 0xFF then .nan false else .fin (qPow false 1 ((b : Int) - 127))) else decFloat 2 b

/-- twosum(a, b, t, m) on finite values: hi, lo, hi's overflow flags, and whether lo was rounded (R168, R169). -/
def twosum (t : Nat) (m : Rnd) (a b : Q) : Nat × Nat × Fl :=
  let s := qAdd m a b
  let h := rndQ t m s false
  match decFloat t h.1 with
  | .fin hq =>
    let l := qAdd .rne s (qNeg hq)
    let r := rndQ t .rne l false
    (h.1, if l.num = 0 then 0 else r.1, 0)
  | _ => (h.1, 0, h.2)

/-- twoprod(a, b, t, m) on finite values: hi, lo, overflow flags, and whether lo is inexact (R168, R170). -/
def twoprod (t : Nat) (m : Rnd) (a b : Q) : Nat × Nat × Fl × Bool :=
  let s := qMul a b
  let h := rndQ t m s false
  match decFloat t h.1 with
  | .fin hq =>
    let l := qAdd .rne s (qNeg hq)
    let r := rndQ t .rne l false
    (h.1, if l.num = 0 then 0 else r.1, 0, !(decide ((r.2 &&& fNx) = 0)))
  | _ => (h.1, 0, h.2, false)

/-- The finite value of a bit pattern; the callers have excluded the specials. -/
def finQ (t b : Nat) : Q :=
  match decFloat t b with
  | .fin q => q
  | _ => ⟨false, 0, 1⟩

/-- The exact value of a double word. -/
def pairQ (t h l : Nat) : Q := qAdd .rne (finQ t h) (finQ t l)

/-- nx of a double-word result: it differs from the exact value (R174). -/
def dwNx (t : Nat) (h l : Nat) (exact : Q) : Fl := flIf (!(qEq (pairQ t h l) exact)) fNx

/-- A rounded sum inside a double-word algorithm: bits, and whether it overflowed. -/
def rneAdd (t a b : Nat) : Nat × Bool :=
  let r := rndQ t .rne (qAdd .rne (finQ t a) (finQ t b)) false
  (r.1, !(decFloat t r.1).isFin)

/-- The algorithm of dwadd on finite halves (R172): hi, lo, whether a step overflowed. -/
def dwaddFin (t xh xl yh yl : Nat) : Nat × Nat × Bool :=
  let s := twosum t .rne (finQ t xh) (finQ t yh)
  let th := twosum t .rne (finQ t xl) (finQ t yl)
  let c := rneAdd t s.2.1 th.1
  let v := twosum t .rne (finQ t s.1) (finQ t c.1)
  let w := rneAdd t th.2.1 v.2.1
  let z := twosum t .rne (finQ t v.1) (finQ t w.1)
  (z.1, z.2.1, !((decFloat t s.1).isFin && (decFloat t th.1).isFin && (decFloat t v.1).isFin &&
    (decFloat t z.1).isFin) || c.2 || w.2)

/-- The algorithm of dwmul on finite halves (R172). -/
def dwmulFin (t xh xl yh yl : Nat) : Nat × Nat × Bool :=
  let c := twoprod t .rne (finQ t xh) (finQ t yh)
  let t0 := rndQ t .rne (qMul (finQ t xl) (finQ t yl)) false
  let t1 := rndQ t .rne (qAdd .rne (qMul (finQ t xh) (finQ t yl)) (finQ t t0.1)) false
  let c2 := rndQ t .rne (qAdd .rne (qMul (finQ t xl) (finQ t yh)) (finQ t t1.1)) false
  let c3 := rneAdd t c.2.1 c2.1
  let z := twosum t .rne (finQ t c.1) (finQ t c3.1)
  (z.1, z.2.1, !((decFloat t c.1).isFin && (decFloat t t0.1).isFin && (decFloat t t1.1).isFin &&
    (decFloat t c2.1).isFin && (decFloat t z.1).isFin) || c3.2)

/-- The specials of R174 around an algorithm on finite halves: `s` is the leading value computed with IEEE specials, `fin`
the algorithm, `exact` the exact value of the operation. -/
def dwSpecial (t : Nat) (halves los : List Nat) (s : Val × Fl) (fin : Nat × Nat × Bool) (exact : Q) :
    Nat × Nat × Fl :=
  let vs := halves.map (decFloat t)
  let loInf := los.any fun b => (decFloat t b).isInf
  if vs.any Val.isNan || loInf then
    (canonNaN t, canonNaN t, flIf (loInf || vs.any Val.isSig) fNv)
  else
    let r := rndV t .rne s.1
    match decFloat t r.1 with
    | .nan _ => (canonNaN t, canonNaN t, s.2)
    | .inf n => (infBits t n, 0, flIf (vs.all Val.isFin) (fOf ||| fNx))
    | .fin _ =>
      if fin.2.2 then (infBits t s.1.neg, 0, fOf ||| fNx)
      else (fin.1, fin.2.1, dwNx t fin.1 fin.2.1 exact)

/-- dwadd of one lane with its flags (R172, R174). -/
def dwadd (t xh xl yh yl : Nat) : Nat × Nat × Fl :=
  dwSpecial t [xh, xl, yh, yl] [xl, yl] (vAdd .rne (decFloat t xh) (decFloat t yh)) (dwaddFin t xh xl yh yl)
    (qAdd .rne (pairQ t xh xl) (pairQ t yh yl))

/-- dwmul of one lane with its flags (R172, R174). -/
def dwmul (t xh xl yh yl : Nat) : Nat × Nat × Fl :=
  dwSpecial t [xh, xl, yh, yl] [xl, yl] (vMul (decFloat t xh) (decFloat t yh)) (dwmulFin t xh xl yh yl)
    (qMul (pairQ t xh xl) (pairQ t yh yl))

/-- dwnorm of one lane with its flags (R172, R174). -/
def dwnorm (t xh xl : Nat) : Nat × Nat × Fl :=
  let z := twosum t .rne (finQ t xh) (finQ t xl)
  dwSpecial t [xh, xl] [xl] (vAdd .rne (decFloat t xh) (decFloat t xl))
    (z.1, z.2.1, !(decFloat t z.1).isFin) (pairQ t xh xl)

end Sys2Proof.Machine
end

