-- ==== Sys2Proof/Machine/Flags.lean ====
section
/-! DEFINITION. Floating-point results with their flags, as the scalar and grid words use them (R160, R164, R165, R230,
R231, R265, R266): inputs flushed under ftz, one exact operation, one rounding, the result flushed. -/

namespace Sys2Proof.Machine

/-- An input element (R165). -/
def fIn (ftz : Bool) (t b : Nat) : Val := decode_ t (ftzIn ftz t b)

/-- A rounded result with the flags of the operation before it (R164, R165). -/
def fOut (ftz : Bool) (t : Nat) (m : Rnd) (r : Val × Fl) : Nat × Fl :=
  let o := ftzOut ftz t (rndV t m r.1)
  (o.1, o.2 ||| r.2)

/-- a + b (R230, R265). -/
def fAdd (t : Nat) (m : Rnd) (ftz : Bool) (a b : Nat) : Nat × Fl := fOut ftz t m (vAdd m (fIn ftz t a) (fIn ftz t b))

/-- a − b. -/
def fSub (t : Nat) (m : Rnd) (ftz : Bool) (a b : Nat) : Nat × Fl :=
  fOut ftz t m (vAdd m (fIn ftz t a) (fIn ftz t b).negate)

/-- a × b. -/
def fMul (t : Nat) (m : Rnd) (ftz : Bool) (a b : Nat) : Nat × Fl := fOut ftz t m (vMul (fIn ftz t a) (fIn ftz t b))

/-- a / b. -/
def fDiv (t : Nat) (m : Rnd) (ftz : Bool) (a b : Nat) : Nat × Fl := fOut ftz t m (vDiv (fIn ftz t a) (fIn ftz t b))

/-- √a. -/
def fSqrt (t : Nat) (m : Rnd) (ftz : Bool) (a : Nat) : Nat × Fl := ftzOut ftz t (rndSqrt t m (fIn ftz t a))

/-- ± a × b ± c with one rounding (R265). -/
def fFma (t : Nat) (m : Rnd) (ftz : Bool) (negP negC : Bool) (a b c : Nat) : Nat × Fl :=
  let x := fIn ftz t a
  let z := fIn ftz t c
  fOut ftz t m (vFma m (if negP then x.negate else x) (fIn ftz t b) (if negC then z.negate else z))

/-- x < y for values that are not NaN, −0 below +0 when `zeros` (R231, R266). -/
def vLt (zeros : Bool) (x y : Val) : Bool :=
  match x, y with
  | .inf a, .inf b => a && !b
  | .inf a, _ => a
  | _, .inf b => !b
  | .fin a, .fin b => qLt a b || (zeros && a.num == 0 && b.num == 0 && a.neg && !b.neg)
  | _, _ => false

/-- The smaller, or the larger, operand's bits (R231, R266). -/
def fMinMax (t : Nat) (ftz larger : Bool) (a b : Nat) : Nat × Fl :=
  let x := fIn ftz t a
  let y := fIn ftz t b
  let nv := flIf (x.isSig || y.isSig) fNv
  let fa := ftzIn ftz t a
  let fb := ftzIn ftz t b
  if x.isNan && y.isNan then (canonNaN t, nv)
  else if x.isNan then (fb, nv)
  else if y.isNan then (fa, nv)
  else if larger then (if vLt true x y then fb else fa, nv)
  else (if vLt true y x then fb else fa, nv)

/-- x == y, with its flag (R231). -/
def fCmpEq (t : Nat) (ftz : Bool) (a b : Nat) : Bool × Fl :=
  let x := fIn ftz t a
  let y := fIn ftz t b
  if x.isNan || y.isNan then (false, flIf (x.isSig || y.isSig) fNv)
  else (!(vLt false x y) && !(vLt false y x), 0)

/-- x < y, or x ≤ y, with its flag (R231). -/
def fCmpLt (t : Nat) (ftz orEq : Bool) (a b : Nat) : Bool × Fl :=
  let x := fIn ftz t a
  let y := fIn ftz t b
  if x.isNan || y.isNan then (false, fNv)
  else (if orEq then !(vLt false y x) else vLt false x y, 0)

end Sys2Proof.Machine
end

