-- ==== Sys2Proof/Machine/Sfu.lean ====
section
/-! DEFINITION. The special functions (R267), each rounded from its exact mathematical value: exact cases exactly, every
other value from an approximation far finer than the formats can tell (log entry 43), which is never itself a value or a
tie of the format. -/

namespace Sys2Proof.Machine

/-- The bits of the fixed-point approximations. -/
def sfBits : Nat := 512

/-- One, in fixed point. -/
def sfOne : Nat := 2 ^ sfBits

/-- 2 atanh(1/q)'s half: Σ 1 / ((2k + 1) q^(2k+1)) with z = 1 / q given as a fixed-point number. -/
def atanhSum (z z2 : Nat) : Nat → Nat → Nat → Nat
  | 0, _, _ => 0
  | n + 1, k, pw => pw / (2 * k + 1) + atanhSum z z2 n (k + 1) (pw * z2 / sfOne)

/-- atanh of a fixed-point number up to 1/3. -/
def sfAtanh (z : Nat) : Nat := atanhSum z (z * z / sfOne) 170 0 z

/-- ln 2. -/
def sfLn2 : Nat := 2 * sfAtanh (sfOne / 3)

/-- The exponential series of a fixed-point number below 1. -/
def expSum (r : Nat) : Nat → Nat → Nat → Nat
  | 0, _, _ => 0
  | n + 1, k, term => term + expSum r n (k + 1) (term * r / sfOne / (k + 1))

/-- 2^f for a fixed-point f below 1. -/
def sfPow2 (f : Nat) : Nat := expSum (f * sfLn2 / sfOne) 120 0 sfOne

/-- 2^x for a rational x between −1,100 and 1,100, as a fraction. -/
def pow2Q (x : Q) : Q :=
  let n := x.num * sfOne / x.den
  let fx : Int := if x.neg then -(n : Int) else n
  let k := fx / (sfOne : Int)
  let f := (fx % (sfOne : Int)).toNat
  let p := qPow false 1 k
  ⟨false, sfPow2 f * p.num, sfOne * p.den⟩

/-- x / ln 2 for a rational. -/
def overLn2 (x : Q) : Q := ⟨x.neg, x.num * sfOne, x.den * sfLn2⟩

/-- |x| as a fraction compared with a whole number. -/
def qAbsGe (x : Q) (n : Nat) : Bool := decide (n * x.den ≤ x.num)

/-- |x| below 2^−60. -/
def qTiny (x : Q) : Bool := decide (x.num * 2 ^ 60 < x.den)

/-- A whole number. -/
def qWhole (x : Q) : Bool := x.num % x.den == 0

/-- Just above or below a whole or half: n/d ± 2^−300. -/
def near (n d : Nat) (below : Bool) : Q :=
  if below then ⟨false, n * 2 ^ 300 - d, d * 2 ^ 300⟩ else ⟨false, n * 2 ^ 300 + d, d * 2 ^ 300⟩

/-- An inexact result, rounded. -/
def sfRound (t : Nat) (m : Rnd) (q : Q) : Nat × Fl := rndQ t m q true

/-- A NaN input (R267). -/
def sfNan (t : Nat) (sig : Bool) : Nat × Fl := (canonNaN t, flIf sig fNv)

/-- 2^a (R267): exact for whole a in range. -/
def sfExp2 (t : Nat) (m : Rnd) (v : Val) : Nat × Fl :=
  match v with
  | .nan g => sfNan t g
  | .inf n => if n then (0, 0) else (infBits t false, 0)
  | .fin q =>
    if qAbsGe q 1024 then sfRound t m (qPow false 1 (if q.neg then -1024 else 1024))
    else if qWhole q then rndQ t m (qPow false 1 (if q.neg then -(q.num / q.den : Nat) else (q.num / q.den : Nat))) false
    else if qTiny q then sfRound t m (near 1 1 q.neg)
    else sfRound t m (pow2Q q)

/-- log2 a (R267). -/
def sfLog2 (t : Nat) (m : Rnd) (v : Val) : Nat × Fl :=
  match v with
  | .nan g => sfNan t g
  | .inf n => if n then (canonNaN t, fNv) else (infBits t false, 0)
  | .fin q =>
    if q.num = 0 then (infBits t true, fDz)
    else if q.neg then (canonNaN t, fNv)
    else
      let e := qExp q.num q.den
      let p := qPow false 1 e
      -- the significand in [1, 2), as num / den
      let num := q.num * p.den
      let den := q.den * p.num
      if num = den then rndQ t m (qOfInt e 1 false) false
      else
        let ln := 2 * sfAtanh ((num - den) * sfOne / (num + den))
        let frac := ln * sfOne / sfLn2
        let x : Int := e * (sfOne : Int) + frac
        sfRound t m (qOfInt x sfOne false)

/-- 1 / √a (R267). -/
def sfRsq (t : Nat) (m : Rnd) (v : Val) : Nat × Fl :=
  match v with
  | .nan g => sfNan t g
  | .inf n => if n then (canonNaN t, fNv) else (0, 0)
  | .fin q =>
    if q.num = 0 then (infBits t q.neg, fDz)
    else if q.neg then (canonNaN t, fNv)
    else
      -- √(den / num) = √(den × num × 4^200) / (num × 2^200)
      let n := q.num * q.den * 4 ^ 200
      let r := isqrt n
      rndQ t m ⟨false, r, q.num * 2 ^ 200⟩ (decide (r * r ≠ n))

/-- 1 / a (R267). -/
def sfRcp (t : Nat) (m : Rnd) (v : Val) : Nat × Fl :=
  match v with
  | .nan g => sfNan t g
  | .inf n => rndQ t m ⟨n, 0, 1⟩ false
  | .fin q => if q.num = 0 then (infBits t q.neg, fDz) else rndQ t m ⟨q.neg, q.den, q.num⟩ false

/-- e^−|x| as a fixed-point number. -/
def sfExpNeg (x : Q) : Nat :=
  let y := pow2Q { overLn2 x with neg := true }
  y.num * sfOne / y.den

/-- tanh a (R267): odd; next to a for tiny a, next to 1 for large. -/
def sfTanh (t : Nat) (m : Rnd) (v : Val) : Nat × Fl :=
  match v with
  | .nan g => sfNan t g
  | .inf n => rndQ t m ⟨n, 1, 1⟩ false
  | .fin q =>
    if q.num = 0 then rndQ t m q false
    else if qTiny q then sfRound t m ⟨q.neg, q.num * (2 ^ 100 - 1), q.den * 2 ^ 100⟩
    else if qAbsGe q 100 then sfRound t m { near 1 1 true with neg := q.neg }
    else
      let e := sfExpNeg ⟨false, 2 * q.num, q.den⟩
      sfRound t m ⟨q.neg, sfOne - e, sfOne + e⟩

/-- 1 / (1 + e^−a) (R267). -/
def sfSigm (t : Nat) (m : Rnd) (v : Val) : Nat × Fl :=
  match v with
  | .nan g => sfNan t g
  | .inf n => if n then (0, 0) else rndQ t m ⟨false, 1, 1⟩ false
  | .fin q =>
    if q.num = 0 then rndQ t m ⟨false, 1, 2⟩ false
    else if qTiny q then sfRound t m (near 1 2 q.neg)
    else if qAbsGe q 200 then (if q.neg then sfRound t m ⟨false, 1, 2 ^ 280⟩ else sfRound t m (near 1 1 true))
    else
      let e := sfExpNeg q
      if q.neg then sfRound t m ⟨false, e, sfOne + e⟩ else sfRound t m ⟨false, sfOne, sfOne + e⟩

end Sys2Proof.Machine
end

