-- ==== Sys2Proof/Syntax.lean ====
section
/-! DEFINITION. The instruction type: one constructor for each of the 296 rows of spec/opcode_table.json.
The 218 device words and the three Hostel words (R333) carry the fields of their encoding, `p` being the
dependency field of R27. The 75 rows without an encoding are the package's own steps; their operands name
the context (`k` = 4 × core + berth), unit or written value that the step is about. -/

namespace Sys2Proof

/-- What a holder asks of a sector's home (R363). -/
inductive ReqKind where
  | read | readExcl | upgrade | evict
deriving DecidableEq, Repr

/-- The access of a home request (R363): its physical address, and the bytes the host's request writes there. -/
structure HomeLine where
  pa : Nat
  bytes : List Byte
deriving DecidableEq, Repr

/-- A peer's launch packet (R358): its 32-byte record, and the memory writes the same port brought before it (R356). -/
structure PeerLaunch where
  record : List Byte
  writes : List (Nat × List Byte)
deriving DecidableEq, Repr

/-- The operations of a Hostel hart's AMO (R390). -/
inductive HAmo where
  | swap | add | xor | and | or | min | max | minu | maxu
deriving DecidableEq, Repr

/-- The kinds of access a Hostel hart makes (R390), with the register that a load, AMO, lr or sc writes, and whether a load
extends its sign. -/
inductive HAccess where
  | load (rd : BitVec 5) (sgn : Bool)
  | store
  | amo (op : HAmo) (rd : BitVec 5)
  | lr (rd : BitVec 5)
  | sc (rd : BitVec 5)
  | fetch
deriving DecidableEq, Repr

/-- One constructor per row of the table of operations and events. -/
inductive Instr where
  /-- ADD (R224): Lands the 64-bit sum of two scalar registers in sd. -/
  | add (p : Dep) (d a b : SReg)
  /-- SUB (R224): Lands sa minus sb modulo 2^64 in sd. -/
  | sub (p : Dep) (d a b : SReg)
  /-- MUL (R224): Lands the low 64 bits of the product in sd. -/
  | mul (p : Dep) (d a b : SReg)
  /-- MULH (R224): Lands the high 64 bits of the signed 128-bit product in sd. -/
  | mulh (p : Dep) (d a b : SReg)
  /-- MULHU (R224): Lands the high 64 bits of the unsigned 128-bit product in sd. -/
  | mulhu (p : Dep) (d a b : SReg)
  /-- DIV (R225): Signed division truncated toward zero; never traps, with defined results for zero and overflow. -/
  | div (p : Dep) (d a b : SReg)
  /-- DIVU (R225): Unsigned division; division by zero gives all ones. -/
  | divu (p : Dep) (d a b : SReg)
  /-- REM (R225): Signed remainder whose sign follows the dividend. -/
  | rem (p : Dep) (d a b : SReg)
  /-- REMU (R225): Unsigned remainder; by zero it gives the dividend. -/
  | remu (p : Dep) (d a b : SReg)
  /-- AND (R224): Lands the bitwise AND of two registers. -/
  | and (p : Dep) (d a b : SReg)
  /-- OR (R224): Lands the bitwise OR of two registers. -/
  | or (p : Dep) (d a b : SReg)
  /-- XOR (R224): Lands the bitwise XOR of two registers. -/
  | xor (p : Dep) (d a b : SReg)
  /-- SLL (R224): Shifts left by sb[5:0]. -/
  | sll (p : Dep) (d a b : SReg)
  /-- SRL (R224): Logical right shift by sb[5:0]. -/
  | srl (p : Dep) (d a b : SReg)
  /-- SRA (R224): Arithmetic right shift by sb[5:0]. -/
  | sra (p : Dep) (d a b : SReg)
  /-- SLT (R224): Lands 1 if sa is signed-less than sb, else 0. -/
  | slt (p : Dep) (d a b : SReg)
  /-- SLTU (R224): Lands 1 if sa is unsigned-less than sb, else 0. -/
  | sltu (p : Dep) (d a b : SReg)
  /-- MIN (R224): Lands the signed minimum. -/
  | min (p : Dep) (d a b : SReg)
  /-- MAX (R224): Lands the signed maximum. -/
  | max (p : Dep) (d a b : SReg)
  /-- MINU (R224): Lands the unsigned minimum. -/
  | minu (p : Dep) (d a b : SReg)
  /-- MAXU (R224): Lands the unsigned maximum. -/
  | maxu (p : Dep) (d a b : SReg)
  /-- CLZ (R224): Lands the count of leading zero bits. -/
  | clz (p : Dep) (d a : SReg)
  /-- CTZ (R224): Lands the count of trailing zero bits. -/
  | ctz (p : Dep) (d a : SReg)
  /-- POPC (R224): Lands the count of one bits. -/
  | popc (p : Dep) (d a : SReg)
  /-- NOP (R229): Writes nothing; with dependency bits it is a pure synchronisation step on S. -/
  | nop (p : Dep)
  /-- ADDI (R226): Adds the sign-extended 12-bit immediate. -/
  | addi (p : Dep) (d a : SReg) (i : BitVec 12)
  /-- ANDI (R226): ANDs with the sign-extended immediate. -/
  | andi (p : Dep) (d a : SReg) (i : BitVec 12)
  /-- ORI (R226): ORs with the sign-extended immediate. -/
  | ori (p : Dep) (d a : SReg) (i : BitVec 12)
  /-- XORI (R226): XORs with the sign-extended immediate. -/
  | xori (p : Dep) (d a : SReg) (i : BitVec 12)
  /-- SLTI (R226): Lands 1 if sa is signed-less than the immediate. -/
  | slti (p : Dep) (d a : SReg) (i : BitVec 12)
  /-- SLLI (R227): Shifts left by an immediate 0–63. -/
  | slli (p : Dep) (d a : SReg) (h : BitVec 6)
  /-- SRLI (R227): Logical right shift by an immediate. -/
  | srli (p : Dep) (d a : SReg) (h : BitVec 6)
  /-- SRAI (R227): Arithmetic right shift by an immediate. -/
  | srai (p : Dep) (d a : SReg) (h : BitVec 6)
  /-- LUI (R228): Lands sext(imm17) times 4,096. -/
  | lui (p : Dep) (d : SReg) (i : BitVec 17)
  /-- AUIPC (R228): Lands the word's address plus sext(imm17) times 4,096. -/
  | auipc (p : Dep) (d : SReg) (i : BitVec 17)
  /-- FADD (R230): FP64 addition rounded under vt.rnd. -/
  | fadd (p : Dep) (d a b : SReg)
  /-- FSUB (R230): FP64 subtraction. -/
  | fsub (p : Dep) (d a b : SReg)
  /-- FMUL (R230): FP64 multiplication. -/
  | fmul (p : Dep) (d a b : SReg)
  /-- FDIV (R230): FP64 division on the shared divider. -/
  | fdiv (p : Dep) (d a b : SReg)
  /-- FSQRT (R230): FP64 square root on the shared divider. -/
  | fsqrt (p : Dep) (d a : SReg)
  /-- FMIN (R231): Lands the smaller FP64 operand with NaN and signed-zero rules. -/
  | fmin (p : Dep) (d a b : SReg)
  /-- FMAX (R231): Lands the larger FP64 operand. -/
  | fmax (p : Dep) (d a b : SReg)
  /-- FCMPEQ (R231): Lands 1 if the FP64 operands are equal. -/
  | fcmpeq (p : Dep) (d a b : SReg)
  /-- FCMPLT (R231): Lands 1 if sa is less than sb as FP64. -/
  | fcmplt (p : Dep) (d a b : SReg)
  /-- FCVTI (R230): Converts FP64 to INT64 with saturation. -/
  | fcvti (p : Dep) (d a : SReg)
  /-- FCVTF (R230): Converts a signed INT64 to FP64. -/
  | fcvtf (p : Dep) (d a : SReg)
  /-- BEQ (R232): Branches if the registers are equal. -/
  | beq (p : Dep) (a b : SReg) (o : BitVec 12)
  /-- BNE (R232): Branches if the registers differ. -/
  | bne (p : Dep) (a b : SReg) (o : BitVec 12)
  /-- BLT (R232): Branches if signed less. -/
  | blt (p : Dep) (a b : SReg) (o : BitVec 12)
  /-- BGE (R232): Branches if signed greater or equal. -/
  | bge (p : Dep) (a b : SReg) (o : BitVec 12)
  /-- BLTU (R232): Branches if unsigned less. -/
  | bltu (p : Dep) (a b : SReg) (o : BitVec 12)
  /-- BGEU (R232): Branches if unsigned greater or equal. -/
  | bgeu (p : Dep) (a b : SReg) (o : BitVec 12)
  /-- JAL (R233): Jumps by a word offset and lands the link address in sd. -/
  | jal (p : Dep) (d : SReg) (o : BitVec 17)
  /-- JALR (R233): Jumps to sa plus an immediate and lands the link address. -/
  | jalr (p : Dep) (d a : SReg) (i : BitVec 12)
  /-- LB (R243): Loads a sign-extended byte, counted in lc. -/
  | lb (p : Dep) (d a : SReg) (i : BitVec 9)
  /-- LBU (R243): Loads a zero-extended byte. -/
  | lbu (p : Dep) (d a : SReg) (i : BitVec 9)
  /-- LH (R243): Loads a sign-extended halfword. -/
  | lh (p : Dep) (d a : SReg) (i : BitVec 9)
  /-- LHU (R243): Loads a zero-extended halfword. -/
  | lhu (p : Dep) (d a : SReg) (i : BitVec 9)
  /-- LW (R243): Loads a sign-extended word. -/
  | lw (p : Dep) (d a : SReg) (i : BitVec 9)
  /-- LWU (R243): Loads a zero-extended word. -/
  | lwu (p : Dep) (d a : SReg) (i : BitVec 9)
  /-- LD (R243): Loads a doubleword. -/
  | ld (p : Dep) (d a : SReg) (i : BitVec 9)
  /-- SB (R244): Stores the low byte, counted in sc. -/
  | sb (p : Dep) (d a : SReg) (i : BitVec 9)
  /-- SH (R244): Stores the low halfword. -/
  | sh (p : Dep) (d a : SReg) (i : BitVec 9)
  /-- SW (R244): Stores the low word. -/
  | sw (p : Dep) (d a : SReg) (i : BitVec 9)
  /-- SD (R244): Stores a doubleword. -/
  | sd (p : Dep) (d a : SReg) (i : BitVec 9)
  /-- LDA (R245): Load-acquire of 1, 2, 4 or 8 bytes at a scope; holds later LS issue until it lands. -/
  | lda (p : Dep) (d a : SReg) (sc : Scope) (z : BitVec 2)
  /-- STL (R245): Store-release of 1, 2, 4 or 8 bytes at a scope. -/
  | stl (p : Dep) (a b : SReg) (sc : Scope) (z : BitVec 2)
  /-- LFE (R246): Waits for a full granule, then reads 8 bytes and keeps the bit; acquire at .cl. -/
  | lfe (p : Dep) (d a : SReg) (i : BitVec 9)
  /-- LFEC (R246): Waits for a full granule, then reads and clears its bit in one step. -/
  | lfec (p : Dep) (d a : SReg) (i : BitVec 9)
  /-- SFE (R246): Writes 8 bytes and sets the granule's bit in one step; release at .cl. -/
  | sfe (p : Dep) (d a : SReg) (i : BitVec 9)
  /-- FECLR (R246): Clears the full-empty bits of every granule in a byte range. -/
  | feclr (p : Dep) (d a : SReg) (i : BitVec 9)
  /-- FEPOLL (R246): Lands 1 if the granule is full, 0 if empty, without waiting. -/
  | fepoll (p : Dep) (d a : SReg) (i : BitVec 9)
  /-- AMOADD (R247): Atomically adds to a doubleword and lands the old value. -/
  | amoadd (p : Dep) (d a b : SReg) (ar : Bool) (sc : Scope)
  /-- AMOAND (R247): Atomic AND returning the old value. -/
  | amoand (p : Dep) (d a b : SReg) (ar : Bool) (sc : Scope)
  /-- AMOOR (R247): Atomic OR returning the old value. -/
  | amoor (p : Dep) (d a b : SReg) (ar : Bool) (sc : Scope)
  /-- AMOXOR (R247): Atomic XOR returning the old value. -/
  | amoxor (p : Dep) (d a b : SReg) (ar : Bool) (sc : Scope)
  /-- AMOMIN (R247): Atomic signed minimum returning the old value. -/
  | amomin (p : Dep) (d a b : SReg) (ar : Bool) (sc : Scope)
  /-- AMOMAX (R247): Atomic signed maximum returning the old value. -/
  | amomax (p : Dep) (d a b : SReg) (ar : Bool) (sc : Scope)
  /-- AMOSWAP (R247): Atomic swap returning the old value. -/
  | amoswap (p : Dep) (d a b : SReg) (ar : Bool) (sc : Scope)
  /-- AMOCAS (R247): Atomic compare-and-swap against sd, returning the old value. -/
  | amocas (p : Dep) (d a b : SReg) (ar : Bool) (sc : Scope)
  /-- FSH (R248): Ships a routine to the cellar processor of the addressed sector and lands its result. -/
  | fsh (p : Dep) (d a b : SReg) (n : BitVec 7)
  /-- FENCE (R98): Stalls S until earlier LS accesses have taken effect and visible writes reach the scope. -/
  | fence (p : Dep) (sc : Scope)
  /-- XFENCE (R100): Stalls S until path-A accesses have taken effect and are visible to path B. -/
  | xfence (p : Dep) (x y : Path)
  /-- MKFENCE (R250): Puts markers into the named station queues and stalls S until each reaches its head. -/
  | mkfence (p : Dep) (l : BitVec 3)
  /-- WAITC (R251): Stalls S until every outstanding-operation counter is at or below its threshold. -/
  | waitc (p : Dep) (t c s l : BitVec 3)
  /-- SSET (R257): Writes a stream generator's configuration at forwarding and resets its position. -/
  | sset (p : Dep) (n : BitVec 2) (a b : SReg)
  /-- SBIND (R258): Binds a generator to grid row h(12+n). -/
  | sbind (p : Dep) (n : BitVec 2)
  /-- SUNBIND (R258): Releases a generator's binding; the row's contents reappear. -/
  | sunbind (p : Dep) (n : BitVec 2)
  /-- VCFG (R264): Writes vt whole from the immediate. -/
  | vcfg (p : Dep) (i : BitVec 10)
  /-- VLD (R253): Loads one 16-cell grid operand from memory, converting in own scratchpad; q bit 9 is the no-allocate hint. -/
  | vld (p : Dep) (g : GOp) (a : SReg) (n : Bool) (i : BitVec 9)
  /-- VLD_FE_KEEP (R254): Grid load that waits until every touched granule is full and keeps the bits. -/
  | vldFeKeep (p : Dep) (g : GOp) (a : SReg) (i : BitVec 9)
  /-- VLD_FE_CLEAR (R254): Grid load that waits until every touched granule is full and clears them all as it reads. -/
  | vldFeClear (p : Dep) (g : GOp) (a : SReg) (i : BitVec 9)
  /-- VST (R253): Stores one grid operand to memory, converting in own scratchpad; q bit 9 is the no-allocate hint. -/
  | vst (p : Dep) (g : GOp) (a : SReg) (n : Bool) (i : BitVec 9)
  /-- VLDS (R255): Strided grid load of active cells. -/
  | vlds (p : Dep) (g : GOp) (a b : SReg)
  /-- VSTS (R255): Strided grid store of active cells. -/
  | vsts (p : Dep) (g : GOp) (a b : SReg)
  /-- VLDX (R255): Gather load addressed by an h or v index operand. -/
  | vldx (p : Dep) (g : GOp) (a : SReg) (x : BitVec 5)
  /-- VSTX (R255): Scatter store addressed by an index operand, in ascending cell order. -/
  | vstx (p : Dep) (g : GOp) (a : SReg) (x : BitVec 5)
  /-- VBCAST (R255): Loads one doubleword into every active cell. -/
  | vbcast (p : Dep) (g : GOp) (a : SReg)
  /-- VFADD (R265): Element-wise float addition. -/
  | vfadd (p : Dep) (g a b : GOp)
  /-- VFSUB (R265): Element-wise float subtraction. -/
  | vfsub (p : Dep) (g a b : GOp)
  /-- VFMUL (R265): Element-wise float multiplication. -/
  | vfmul (p : Dep) (g a b : GOp)
  /-- VFMA (R265): Fused multiply-add with gd as addend. -/
  | vfma (p : Dep) (g a b : GOp)
  /-- VFMS (R265): Fused multiply-subtract of gd. -/
  | vfms (p : Dep) (g a b : GOp)
  /-- VFNMA (R265): Negated fused multiply plus gd. -/
  | vfnma (p : Dep) (g a b : GOp)
  /-- VFDIV (R265): Element-wise float division on the V divider. -/
  | vfdiv (p : Dep) (g a b : GOp)
  /-- VFSQRT (R265): Element-wise float square root on the V divider. -/
  | vfsqrt (p : Dep) (g a : GOp)
  /-- VFMIN (R266): Element-wise float minimum. -/
  | vfmin (p : Dep) (g a b : GOp)
  /-- VFMAX (R266): Element-wise float maximum. -/
  | vfmax (p : Dep) (g a b : GOp)
  /-- VFABS (R265): Clears each element's sign bit. -/
  | vfabs (p : Dep) (g a : GOp)
  /-- VFNEG (R265): Inverts each element's sign bit. -/
  | vfneg (p : Dep) (g a : GOp)
  /-- VEXP2 (R267): SFU request: correctly rounded 2^a per element. -/
  | vexp2 (p : Dep) (g a : GOp)
  /-- VLOG2 (R267): SFU request: log2 per element. -/
  | vlog2 (p : Dep) (g a : GOp)
  /-- VRSQ (R267): SFU request: reciprocal square root per element. -/
  | vrsq (p : Dep) (g a : GOp)
  /-- VRCP (R267): SFU request: reciprocal per element. -/
  | vrcp (p : Dep) (g a : GOp)
  /-- VTANH (R267): SFU request: tanh per element. -/
  | vtanh (p : Dep) (g a : GOp)
  /-- VSIGM (R267): SFU request: logistic sigmoid per element. -/
  | vsigm (p : Dep) (g a : GOp)
  /-- VADD (R268): Element-wise integer addition modulo 2^w. -/
  | vadd (p : Dep) (g a b : GOp)
  /-- VSUB (R268): Element-wise integer subtraction. -/
  | vsub (p : Dep) (g a b : GOp)
  /-- VMUL (R268): Element-wise low product. -/
  | vmul (p : Dep) (g a b : GOp)
  /-- VMULH (R268): Element-wise high half of the signed product. -/
  | vmulh (p : Dep) (g a b : GOp)
  /-- VMIN (R268): Element-wise signed minimum. -/
  | vmin (p : Dep) (g a b : GOp)
  /-- VMAX (R268): Element-wise signed maximum. -/
  | vmax (p : Dep) (g a b : GOp)
  /-- VMINU (R268): Element-wise unsigned minimum. -/
  | vminu (p : Dep) (g a b : GOp)
  /-- VMAXU (R268): Element-wise unsigned maximum. -/
  | vmaxu (p : Dep) (g a b : GOp)
  /-- VADDS (R268): Element-wise saturating signed addition. -/
  | vadds (p : Dep) (g a b : GOp)
  /-- VSUBS (R268): Element-wise saturating signed subtraction. -/
  | vsubs (p : Dep) (g a b : GOp)
  /-- VAND (R269): Element-wise bitwise AND. -/
  | vand (p : Dep) (g a b : GOp)
  /-- VOR (R269): Element-wise bitwise OR. -/
  | vor (p : Dep) (g a b : GOp)
  /-- VXOR (R269): Element-wise bitwise XOR. -/
  | vxor (p : Dep) (g a b : GOp)
  /-- VSLL (R269): Element-wise left shift by gb elements. -/
  | vsll (p : Dep) (g a b : GOp)
  /-- VSRL (R269): Element-wise logical right shift. -/
  | vsrl (p : Dep) (g a b : GOp)
  /-- VSRA (R269): Element-wise arithmetic right shift. -/
  | vsra (p : Dep) (g a b : GOp)
  /-- VCMPEQ (R270): Writes mask bits for element equality. -/
  | vcmpeq (p : Dep) (m : MReg) (a b : GOp)
  /-- VCMPLT (R270): Writes mask bits for element less-than. -/
  | vcmplt (p : Dep) (m : MReg) (a b : GOp)
  /-- VCMPLE (R270): Writes mask bits for element less-or-equal. -/
  | vcmple (p : Dep) (m : MReg) (a b : GOp)
  /-- MAND (R271): ANDs two masks. -/
  | mand (p : Dep) (d a b : MReg)
  /-- MOR (R271): ORs two masks. -/
  | mor (p : Dep) (d a b : MReg)
  /-- MNOT (R271): Inverts a mask. -/
  | mnot (p : Dep) (d a : MReg)
  /-- MPOPC (R271): Lands the count of set mask bits below n in a scalar register. -/
  | mpopc (p : Dep) (d : SReg) (a : MReg)
  /-- VPERM (R272): Permutes elements of ga by indices in gb modulo n. -/
  | vperm (p : Dep) (g a b : GOp)
  /-- VPERM2 (R272): Permutes from the 2n-element table ga, next(ga). -/
  | vperm2 (p : Dep) (g : GOp) (a : PairOp) (b : GOp)
  /-- VSHUF (R273): Rearranges elements by a fixed pattern code. -/
  | vshuf (p : Dep) (g a : GOp) (c : Shuf)
  /-- VSLIDE (R274): Slides elements by a signed count, filling with zeros. -/
  | vslide (p : Dep) (g a : GOp) (k : BitVec 6)
  /-- VMOV (R274): Copies unmasked elements as raw bits. -/
  | vmov (p : Dep) (g a : GOp)
  /-- VSPLAT (R275): Writes a scalar into every unmasked element. -/
  | vsplat (p : Dep) (g : GOp) (a : SReg)
  /-- VEXT (R275): Lands one grid element in a scalar register, counted in lc. -/
  | vext (p : Dep) (g : GOp) (d b : SReg)
  /-- VINS (R275): Writes a scalar into one selected grid element. -/
  | vins (p : Dep) (g : GOp) (a b : SReg)
  /-- VCVT (R276): Converts elements between equal-width types. -/
  | vcvt (p : Dep) (g a : GOp) (t : BitVec 4)
  /-- VPACK (R276): Converts several wider operands into one narrower operand. -/
  | vpack (p : Dep) (g a : GOp) (t : BitVec 4)
  /-- VWIDEN (R276): Converts one narrow operand into several wider operands. -/
  | vwiden (p : Dep) (g a : GOp) (t : BitVec 4)
  /-- VREDSUM (R277): Reduces elements by a fixed pairwise sum tree into element 0. -/
  | vredsum (p : Dep) (g a : GOp)
  /-- VREDMAX (R277): Reduces elements to their maximum. -/
  | vredmax (p : Dep) (g a : GOp)
  /-- VREDMIN (R277): Reduces elements to their minimum. -/
  | vredmin (p : Dep) (g a : GOp)
  /-- XADD (R282): Two-sum per lane into a result pair. -/
  | xadd (p : Dep) (g : PairOp) (a b : GOp)
  /-- XSUB (R282): Exact difference per lane into a pair. -/
  | xsub (p : Dep) (g : PairOp) (a b : GOp)
  /-- XMUL (R282): Two-product per lane into a pair. -/
  | xmul (p : Dep) (g : PairOp) (a b : GOp)
  /-- XFMA (R283): Fused multiply-add into a pair keeping the rounded residual. -/
  | xfma (p : Dep) (g : PairOp) (a b : GOp)
  /-- XRED (R284): Reduces a pair by the fixed dwadd tree into lane 0. -/
  | xred (p : Dep) (g a : PairOp)
  /-- DWADD (R285): Double-word addition of pairs. -/
  | dwadd (p : Dep) (g a b : PairOp)
  /-- DWSUB (R285): Double-word subtraction of pairs. -/
  | dwsub (p : Dep) (g a b : PairOp)
  /-- DWMUL (R285): Double-word multiplication of pairs. -/
  | dwmul (p : Dep) (g a b : PairOp)
  /-- DWNORM (R286): Normalises a pair by two-sum. -/
  | dwnorm (p : Dep) (g a : PairOp)
  /-- DWRND (R287): Rounds each pair lane to a single value. -/
  | dwrnd (p : Dep) (g : GOp) (a : PairOp)
  /-- SLDEP (R288): Deposits lane 0 of a pair into a slice-table slot as one 16-byte store. -/
  | sldep (p : Dep) (g : PairOp) (a b : SReg)
  /-- SLMERGE (R290): Folds slice slots in ascending order by dwadd into lane 0 of a pair. -/
  | slmerge (p : Dep) (g : PairOp) (a b : SReg)
  /-- MSET (R294): Writes a matrix setup register whole at forwarding. -/
  | mset (p : Dep) (a b : SReg) (r : BitVec 4)
  /-- MBALLOC (R185): Allocates the lowest run of free accumulator banks to a group and returns the first. -/
  | mballoc (p : Dep) (a b : SReg) (c : BitVec 3)
  /-- MBFREE (R185): Frees a range of accumulator banks. -/
  | mbfree (p : Dep) (a b : SReg) (c : BitVec 3)
  /-- MZERO (R185): Writes +0 into every cell of a range of banks. -/
  | mzero (p : Dep) (a b : SReg) (c : BitVec 3)
  /-- MMAC (R185): Accumulates A times B into accumulator banks chunk by chunk. -/
  | mmac (p : Dep) (a b : SReg) (c : BitVec 3)
  /-- MDRAIN (R189): Writes tile rows through the row-to-core map and posts band arrivals. -/
  | mdrain (p : Dep) (a b : SReg) (c : BitVec 3)
  /-- MFILL (R185): Reads rows from memory on MT into accumulator banks. -/
  | mfill (p : Dep) (a b : SReg) (c : BitVec 3)
  /-- MSTAT (R184): Returns and clears the matrix port status after earlier commands are accepted. -/
  | mstat (p : Dep) (a : SReg)
  /-- CSET (R294): Writes a copy setup register whole at forwarding. -/
  | cset (p : Dep) (a b : SReg) (r : BitVec 3)
  /-- COPY (R306): Copies rows on the CP path, converting or keyed, and posts its arrival. -/
  | copy (p : Dep) (a b : SReg)
  /-- CFILL (R309): Fills destination rows with an address-aligned 8-byte pattern. -/
  | cfill (p : Dep) (a b : SReg)
  /-- RSEND (R197): Takes a permit and sends scratchpad bytes on an outbound relay channel. -/
  | rsend (p : Dep) (a b : SReg)
  /-- RPERMIT (R199): Frees held slots and returns permits to the channel's sender. -/
  | rpermit (p : Dep) (a b : SReg)
  /-- RSTAT (R200): Returns a relay channel's status in sa. -/
  | rstat (p : Dep) (a b : SReg)
  /-- MSGW (R316): Copies a message into another core's scratchpad, then posts a waiting-task arrival. -/
  | msgw (p : Dep) (d a b : SReg)
  /-- WTARM (R317): Arms a waiting-task entry with a threshold and continuation record. -/
  | wtarm (p : Dep) (d a b : SReg)
  /-- WTDIS (R317): Disarms a waiting-task entry and lands its counter. -/
  | wtdis (p : Dep) (d a : SReg)
  /-- CNTWAIT (R317): Blocks until a waiting-task counter reaches a threshold. -/
  | cntwait (p : Dep) (d a b : SReg)
  /-- SPAWN (R319): Pushes a continuation record to the local ready list or die run queue. -/
  | spawn (p : Dep) (a : SReg)
  /-- JOINDEC (R320): Atomically decrements a record's join counter and pushes it at zero. -/
  | joindec (p : Dep) (d a : SReg)
  /-- RETIRE (R321): Drains the context's work, fences and ends the thread, freeing its berth. -/
  | retire (p : Dep)
  /-- YIELD (R322): Gives up the sequencer while staying ready. -/
  | yield (p : Dep)
  /-- GNEW (R324): Allocates the lowest free group at a home and lands its handle. -/
  | gnew (p : Dep) (d a : SReg)
  /-- GJOIN (R324): Makes the context a member of a group. -/
  | gjoin (p : Dep) (a : SReg)
  /-- GLEAVE (R324): Removes the context from a group, counting as arrived where required. -/
  | gleave (p : Dep) (a : SReg)
  /-- GBAR (R324): Counts an arrival and blocks until the phase completes. -/
  | gbar (p : Dep) (d a : SReg)
  /-- GBCFG (R324): Sets a group's barrier mode and count. -/
  | gbcfg (p : Dep) (a b : SReg)
  /-- GFREE (R324): Dissolves a group and removes its members. -/
  | gfree (p : Dep) (a : SReg)
  /-- GETID (R237): Lands an identity field such as core, berth or thread. -/
  | getid (p : Dep) (d : SReg) (f : BitVec 3)
  /-- RDCSR (R238): Lands the value of a CSR. -/
  | rdcsr (p : Dep) (d : SReg) (c : BitVec 8)
  /-- WRCSR (R239): Writes a writable CSR such as fpsr. -/
  | wrcsr (p : Dep) (a : SReg) (c : BitVec 8)
  /-- EMIT (R209): Presents a token id to the token post and lands the post's result. -/
  | emit (p : Dep) (d a b : SReg)
  /-- FWAIT (R326): Parks the context on its serving context's future and frees the berth. -/
  | fwait (p : Dep) (a : SReg)
  /-- PXLOOK (R219): Matches a token prefix against the prefix index and pins the matched blocks. -/
  | pxlook (p : Dep) (d a : SReg)
  /-- PXINS (R220): Inserts or refreshes blocks in the prefix index. -/
  | pxins (p : Dep) (d a : SReg)
  /-- PXREL (R220): Releases pins and references taken by an earlier PXLOOK. -/
  | pxrel (p : Dep) (d a : SReg)
  /-- CAPLD (R328): Privileged load of a capability register from a scalar. -/
  | capld (p : Dep) (a : SReg) (n : BitVec 3)
  /-- CAPCLR (R328): Privileged clear of a capability register to null. -/
  | capclr (p : Dep) (n : BitVec 3)
  /-- CSAVE (R329): Writes the context's trap-entry state to a save area and sets ctl.saved. -/
  | csave (p : Dep) (a : SReg)
  /-- CRESTORE (R387): Checks and loads a save area into the executing context and invalidates the area. -/
  | crestore (p : Dep) (a : SReg)
  /-- TLBINV (R330): Drops this core's translations of one page. -/
  | tlbinv (p : Dep) (a : SReg)
  /-- TLBFLUSH (R330): Drops every cached translation in a scope. -/
  | tlbflush (p : Dep) (sc : Scope)
  /-- ERET (R331): Returns from the handler, replays the load list and resumes suspended entries. -/
  | eret (p : Dep)
  /-- CWB (R252): Writes back a dirty L1 line. -/
  | cwb (p : Dep) (a : SReg) (i : BitVec 12)
  /-- CINV (R252): Writes back and evicts an L1 line. -/
  | cinv (p : Dep) (a : SReg) (i : BitVec 12)
  /-- PREF (R252): Prefetches a line into L1 in shared state. -/
  | pref (p : Dep) (a : SReg) (i : BitVec 12)
  /-- TRAP (R332): Retires and enters the software-trap handler with a code. -/
  | trap (p : Dep) (c : BitVec 8)
  /-- BREAK (R332): Raises the breakpoint trap at itself. -/
  | brk (p : Dep)
  /-- WFE (R332): Makes the berth not ready until a core event. -/
  | wfe (p : Dep)
  /-- SLD (R235): Loads 8 bytes of spill memory into a scalar register. -/
  | sld (p : Dep) (d : SReg) (o : BitVec 14)
  /-- SST (R235): Stores a scalar register to spill memory. -/
  | sst (p : Dep) (d : SReg) (o : BitVec 14)
  /-- GSLD (R235): Loads a 128-byte grid row from spill memory at V. -/
  | gsld (p : Dep) (n : BitVec 4) (o : BitVec 14)
  /-- GSST (R235): Stores a grid row to spill memory at V. -/
  | gsst (p : Dep) (n : BitVec 4) (o : BitVec 14)
  /-- FDONE (R334): Hostel instruction completing a future with a reply descriptor. -/
  | fdone (d a : SReg)
  /-- FPOLL (R335): Hostel instruction reading a future entry's state. -/
  | fpoll (d a : SReg)
  /-- SBOX (R336): Hostel instruction replacing the hart's sandbox windows. -/
  | sbox (a b : SReg)
  /-- STATION_START (R78): A V, M or C station starts the head entry of a berth queue once its tokens and resources are
  available. -/
  | stationStart (k : Nat) (st : Station)
  /-- LANDING (R32): A pending register write takes effect at its landing cycle or when its data arrives, pushing any tokens. -/
  | landing (k id : Nat)
  /-- STORE_TAKES_EFFECT (R92): A store is written into L1 or its target and its sc count finishes. -/
  | storeTakesEffect (k id : Nat)
  /-- PAGE_WALK_COMPLETE (R370): A TLB miss walk ends with a translation or a fault and issue resumes. -/
  | pageWalkComplete (k : Nat)
  /-- SEQUENCER_SWITCH (R140): The sequencer leaves the running berth, for example after 1,024 cycles, and picks the
  longest-ready berth. -/
  | sequencerSwitch (core : Nat)
  /-- LAUNCH_STATUS_REPORT (R124): Once every core has taken the wake, the hub writes the code to the slot and status word. -/
  | launchStatusReport (slot : BitVec 3) (code : Byte) (env : Nat) (status : Word)
  /-- RUN_QUEUE_POP (R134): A core with a free berth and no launch work pops a fitting record from the die run queue. -/
  | runQueuePop (core : Nat)
  /-- LOCAL_READY_LIST_TAKE (R137): When a berth frees, the core takes the first fitting record from its local ready list. -/
  | localReadyListTake (core : Nat)
  /-- WAITING_TASK_ARRIVAL (R137): Arrivals to a waiting-task entry are summed and applied in one step. -/
  | waitingTaskArrival (core : Nat) (entry : BitVec 6) (n : Nat)
  /-- SFU_REQUEST_ACCEPT (R138): The cluster SFU queue accepts a VSF request when it has room. -/
  | sfuRequestAccept (k id : Nat)
  /-- MATRIX_COMMAND_ACCEPT (R182): The engine accepts a command into its input queue, or the port refuses it. -/
  | matrixCommandAccept (k : Nat)
  /-- MATRIX_COMMAND_START (R191): The engine takes the next issuer's head command in round-robin after its checks. -/
  | matrixCommandStart (e : Nat)
  /-- MATRIX_COMMAND_COMPLETE (R185): A matrix command finishes its last chunk or row and completes. -/
  | matrixCommandComplete (e : Nat)
  /-- COPY_COMPLETE (R306): A COPY or CFILL writes its last granule, posts its arrival and completes. -/
  | copyComplete (k id : Nat)
  /-- RELAY_ARRIVAL (R198): An RSEND's data is written into the next slot and its arrival is posted. -/
  | relayArrival (ch : Nat)
  /-- PERMIT_RETURN (R199): Returned permits reach the sender and the RPERMIT completes. -/
  | permitReturn (ch : Nat)
  /-- MSGW_ARRIVAL (R316): An MSGW's data is written into the target scratchpad and its arrival applied. -/
  | msgwArrival (k id : Nat)
  /-- FUTURE_TIMEOUT (R211): A pending future's timer reaches 0 and the timeout sequence is injected. -/
  | futureTimeout (fut : BitVec 16)
  /-- SNOOP_INVALIDATION (R362): An invalidation or snoop reaches a die agent and the cores its signature names. -/
  | snoopInvalidation (h : Nat) (pa : Nat) (inval : Bool)
  /-- REGISTER_WRITE (R349): A write to a configuration register with no behaviour of its own. -/
  | registerWrite (off : Nat) (bytes : List Byte)
  /-- BIAS_FLIP_COMPLETE (R365): Once all copies are recalled the flip sets bias and clears busy. -/
  | biasFlipComplete (frame : Nat)
  /-- PREEMPTION_HALT (R385): Each targeted context is brought to a halt within the bound of R2. -/
  | preemptionHalt (k core : Nat)
  /-- FSH_AT_CELLAR (R404): A cellar processor runs a shipped routine on the sector and returns its result. -/
  | fshAtCellar (k id : Nat)
  /-- TRAP_ENTRY (R379): After the drain of R83 the context enters its handler with cause, tval and tinfo set. -/
  | trapEntry (k : Nat) (cause : BitVec 8) (tval tinfo epc : Word)
  /-- ASYNC_TRAP_ENTRY (R380): A pending asynchronous cause is taken at the next instruction boundary. -/
  | asyncTrapEntry (k : Nat)
  /-- DEADLOCK_PROBE (R141): A context blocked for 10 µs sends a probe that may find a closed set. -/
  | deadlockProbe (k : Nat)
  /-- LAUNCH_SLOT_DOORBELL (R352): A doorbell write submits the slot's wake to the hub. -/
  | launchSlotDoorbell (slot : BitVec 3) (v : Word)
  /-- SLICE_BOUNDARY (R129): At each multiple of L µs the earliest resident team of an oversubscribed launch is swapped out. -/
  | sliceBoundary
  /-- DRAIN_BAND_ARRIVAL (R189): When every row of a drain band is written, the band's arrival is posted. -/
  | drainBandArrival (core : Nat) (akind : BitVec 2) (went : BitVec 6) (winc : BitVec 16) (off len : Nat)
  /-- ENGINE_FAULT (R192): A fault in a tile fetch, fill, drain or copy suspends the command and posts a fault record. -/
  | engineFault (k : Nat) (st : Station) (id : Nat) (cause : BitVec 8) (wr grow : Bool) (va progress : Word)
  /-- RELAY_DESCRIPTOR_WRITE (R194): A write to a disabled channel descriptor is checked and applied or refused. -/
  | relayDescriptorWrite (ch : Nat) (hi : Bool) (v : Word)
  /-- RELAY_CHANNEL_ENABLE (R195): A write setting en checks the whole descriptor and resets the channel counts. -/
  | relayChannelEnable (ch : Nat) (v : Word)
  /-- RELAY_CHANNEL_DISABLE (R195): A write clearing en zeroes the counts and traps waiting RSENDs. -/
  | relayChannelDisable (ch : Nat) (v : Word)
  /-- BANK_FORMAT_WRITE (R148): A write to a bank format register is applied or refused, setting err. -/
  | bankFormatWrite (core bank : Nat) (v : Word)
  /-- MAILBOX_POST (R393): The token post posts a call record to an eligible Hostel mailbox, retrying while none is free. -/
  | mailboxPost
  /-- FUTURE_COMPLETION (R211): A completion reaches its future entry and its reply is injected or it is dropped. -/
  | futureCompletion (fut gen : BitVec 16) (ids : List (BitVec 32))
  /-- INJECTION_RETRY (R215): An injection held on a translation fault is retried after the driver returns. -/
  | injectionRetry (fut : BitVec 16)
  /-- CONTINUATION_PUSH_RETRY (R132): The token post retries a held push to a full die run queue. -/
  | continuationPushRetry
  /-- FUTURE_SERVICE_MESSAGE (R398): An Ultra Ethernet message to resource 0 is checked and applied as a completion. -/
  | futureServiceMessage (port : BitVec 2) (payload : List Byte)
  /-- RUN_QUEUE_WINDOW_PUSH (R354): A 32-byte write to a BAR2 window pushes a record or is refused with a code. -/
  | runQueueWindowPush (q : BitVec 5) (off : Nat) (bytes : List Byte)
  /-- UALINK_LAUNCH_PACKET (R358): A peer's launch packet is checked against the access-control table and pushed or dropped. -/
  | ualinkLaunchPacket (peer : BitVec 10) (q : BitVec 5) (packet : PeerLaunch)
  /-- RUN_QUEUE_CONFIG_WRITE (R349): A run-queue configuration write takes effect only on an empty unpopped queue, else is
  discarded. -/
  | runQueueConfigWrite (q : BitVec 5) (hi : Bool) (v : Word)
  /-- SLICE_LENGTH_WRITE (R129): A new slice length applies from the first multiple of it after the write. -/
  | sliceLengthWrite (v : BitVec 32)
  /-- VOCAB_SLOT_LOAD (R208): Setting the resident bit makes the hub check the vocabulary descriptor. -/
  | vocabSlotLoad (slot : BitVec 3)
  /-- HOST_WINDOW_ACCESS (R348): A host access through BAR4 reaches a scratchpad or format window on HS. -/
  | hostWindowAccess (off : Nat) (wr : Bool) (bytes : List Byte)
  /-- HOME_REQUEST (R363): A coherence request reaches a sector's home and is served in arrival order. -/
  | homeRequest (h : Nat) (kind : ReqKind) (line : HomeLine)
  /-- WRITE_BACK_ARRIVAL (R363): A write-back reaches the home, possibly caught by an outstanding snoop. -/
  | writeBackArrival (h pa : Nat)
  /-- BIAS_FLIP_REQUEST (R365): A compare-and-swap that sets req unlike bias starts a bias flip. -/
  | biasFlipRequest (frame : Nat) (old new : Word)
  /-- FRAME_GEN_CHANGE (R371): A compare-and-swap raising a frame's gen fences off old translations. -/
  | frameGenChange (frame : Nat) (old new : Word)
  /-- MIGRATION_OPEN (R376): The page agent takes a free frame and opens a dual-home window for a hot region. -/
  | migrationOpen (region die : Nat)
  /-- MIGRATION_SWITCH (R376): After the copy the agent fences off, remaps and switches the region to the new frame. -/
  | migrationSwitch (region : Nat)
  /-- GROW_REQUEST (R378): The page agent applies a grow request, mapping a pool frame or answering empty or malformed. -/
  | growRequest (k : Nat)
  /-- CELLAR_LOAD (R405): Setting go installs a staged routine in every cellar or refuses it. -/
  | cellarLoad
  /-- KEY_INSTALL (R406): A key request with operation 1 installs a key pair into a handle. -/
  | keyInstall
  /-- KEY_ERASE (R406): A key request with operation 2 erases a handle's keys. -/
  | keyErase
  /-- TENSOR_LAYOUT_VALIDATE (R407): Setting valid makes the agent check a tensor layout record. -/
  | tensorLayoutValidate (h : Nat)
  /-- IMAGE_LOAD_REQUEST (R414): Firmware checks and writes a Kolys image and records its placement. -/
  | imageLoadRequest
  /-- DRIVE_DMA (R394): An NVMe drive DMA reaches device memory coherently or is refused. -/
  | driveDma (pa : Nat) (wr : Bool) (bytes : List Byte)
  /-- MAILBOX_CONFIG_WRITE (R392): A WARL write to mbbase or mbcfg is applied or ignored. -/
  | mailboxConfigWrite (hart : Nat) (cfg : Bool) (v : Word)
  /-- FCSIGN_WRITE (R397): A write to fcsign reads back the future capability with its check filled. -/
  | fcsignWrite (hart : Nat) (v : Word)
  /-- CAPSIGN_WRITE (R381): A write to capsign reads back the capability with its engine check filled. -/
  | capsignWrite (k : Nat) (v : Word)
  /-- CTL_WRITE (R381): A privileged write of ctl sets erc and clears saved. -/
  | ctlWrite (k : Nat) (v : Word)
  /-- AFPOP_KEEP (R373): A write to afpop with bit 0 clear discards the head record and keeps its held access. -/
  | afpopKeep (k : Nat)
  /-- AFPOP_DROP (R373): A write to afpop with bit 0 set discards the head record and drops its held access. -/
  | afpopDrop (k : Nat)
  /-- PREEMPTION_REQUEST (R385): A write to preq requests pre-emption of a range of cores and berths. -/
  | preemptionRequest (core : Nat) (v : Word)
  /-- WINDOW_CONFIG_WRITE (R419): A write to an error window configuration is applied or discarded. -/
  | windowConfigWrite (cls : Nat) (v : Word)
  /-- LINK_CRC_FAILURE (R421): A die-link CRC failure starts a replay and counts toward a lasting lane. -/
  | linkCrcFailure (link : Nat) (dir : Bool) (lane : Nat)
  /-- LANE_REPAIR_SWITCH (R421): At a replay-idle point both link ends switch to the spare lane. -/
  | laneRepairSwitch (link : Nat) (dir : Bool)
  /-- POWER_CONTROL_WRITE (R424): A write to the power control is applied or discarded. -/
  | powerControlWrite (v : Word)
  /-- POWER_CAP_STEP (R425): Every 10 µs the hub compares power with the cap and takes one throttle step. -/
  | powerCapStep
  /-- QUOTE_REQUEST (R426): An MCTP nonce is answered with an XMSS-signed quote after reserving an index. -/
  | quoteRequest (nonce : List Byte)
  /-- PACKAGE_RESET (R410): The boot ROM verifies a firmware slot and jumps to it, or enters recovery. -/
  | packageReset
  /-- HOSTEL_ACCESS (R390): A Hostel hart makes an ordinary load, store, AMO or fetch, checked against its sandbox windows in
  U-mode and VU-mode and ordered by RVWMO. -/
  | hostelAccess (hart : Nat) (kind : HAccess) (va : Word) (size : Nat) (v : Word)
  /-- PORT_LANE_ERROR (R420): An error event on a lane of a UALink or Ultra Ethernet port is counted and may make the lane
  lasting, retraining the port at a lower width. -/
  | portLaneError (unit lane : Nat)
  /-- WFE_END_WITHOUT_EVENT (R332): A WFE wait ends of itself with no event, and the berth becomes ready again. -/
  | wfeEndWithoutEvent (k : Nat)
deriving DecidableEq, Repr

end Sys2Proof
end

