-- ==== Sys2Proof/Config.lean ====
section
/-! DEFINITION. What an implementation fixes and the spec leaves open: free values and the functions that the spec names
without an algorithm. None has a body: nothing can be proved of one. -/

namespace Sys2Proof.Config

/-- A value that the spec leaves open, by how many were taken before it (log entry 3). -/
opaque freeWord : Nat → Word

/-- The 16-bit check of bits [63:16] of a capability under the key of engine `e` after the package's reset number `n`, which sets
the keys afresh (R17). -/
opaque capCheck : (n e : Nat) → (bits : BitVec 48) → BitVec 16

/-- The check of a future capability under the hub's future key, which changes at each package reset (R397). -/
opaque futCheck : (n : Nat) → (id gen : BitVec 16) → BitVec 16

/-- The XMSS signature by the package's identity key with an index (R426). -/
opaque xmssSign : Nat → List Byte → List Byte

/-- The part number, revision and die presence of the identity region (R349): the byte at an offset. -/
opaque identityByte : Nat → Byte

/-- The hub address that amifelia gives to BAR 0, 2 or 4 (R348). -/
opaque hubBar : Nat → Nat

/-- The next lower width that a port's standard allows (R420), in lanes. -/
opaque lowerWidth : Nat → Nat

end Sys2Proof.Config
end

