-- ==== Sys2Proof/Machine/Context.lean ====
section
/-! DEFINITION. The state of one context (R8 to R25, R381) and of the work it has outstanding: station queue entries
(R77), writes that have not landed (R32), stores that have not taken effect (R92), asynchronous fault records (R384). -/

namespace Sys2Proof.Machine

/-- The destinations of `land` (R32). -/
inductive Dst where
  | s (r : SReg)
  | cell (n : BitVec 8)
  | mask (r : MReg)
  | vt
  | fpsr
deriving DecidableEq, Repr

/-- One write of `land` (R32): a cell write keeps the bits outside `m`. -/
inductive Wr where
  | s (r : SReg) (v : Word)
  | cell (n : BitVec 8) (m v : Word)
  | mask (r : MReg) (v : BitVec 256)
  | vt (v : BitVec 12)
  | fpsr (v : Word)
  | csr (n : Nat) (v : Word)
deriving DecidableEq, Repr

/-- The outstanding-operation counters (R19). -/
inductive Ctr where
  | lc | sc | cc | tc
deriving DecidableEq, Repr

/-- The atomic operations of R247. -/
inductive AmoOp where
  | add | and | or | xor | min | max | swap | cas
deriving DecidableEq, Repr

/-- One translated unit of access (R90): its virtual address, the location it names, its width in bytes, and for device
memory the generation of the translation (R371). -/
structure Acc where
  va : Word
  loc : Nat
  len : Nat
  gen : BitVec 12
  dev : Bool
deriving DecidableEq, Repr, Inhabited

/-- What a load does at its landing, the moment it takes effect (R92). -/
inductive Act where
  /-- The values are already in the writes. -/
  | vals
  /-- A scalar load of `size` bytes (R243, R245). -/
  | load (size : Nat) (sgn : Bool) (d : SReg)
  /-- LFE and LFEC (R246). -/
  | lfe (clear : Bool) (d : SReg)
  /-- FEPOLL (R246). -/
  | fepoll (core off : Nat) (d : SReg)
  /-- An atomic (R247): `b` is the operand, `c` the compare value. -/
  | amo (op : AmoOp) (b c : Word) (d : SReg)
  /-- A shipped routine (R248); the cellar has run it when `res` is present. -/
  | fsh (n : BitVec 7) (x y : Word) (d : SReg) (res : Option Word)
  /-- A grid load: unit `i` of the accesses fills the cell under the bit mask (R253, R255). -/
  | cells (cs : List (BitVec 8 × Word))
  /-- VBCAST: one doubleword into every listed cell (R255). -/
  | bcast (cs : List (BitVec 8 × Word))
  /-- A converting grid load: the element writes are formed at the landing from bank `b` of `core` (R149). -/
  | conv (core bank fmt off : Nat) (ty rnd : Nat) (ftz : Bool) (cells : List (BitVec 8)) (mk : BitVec 256)
  /-- A grid load that waits for the full-empty bits of its granules, numbered over all cores (R254). -/
  | fecells (clear : Bool) (grans : List Nat) (cs : List (BitVec 8 × Word))
  /-- The converting form of the same (R149, R254). -/
  | feconv (clear : Bool) (grans : List Nat) (core bank fmt off : Nat) (ty rnd : Nat) (ftz : Bool)
      (cells : List (BitVec 8)) (mk : BitVec 256)
  /-- A stream pop of `n` elements of type `ty` by generator `g` for queue entry `entry` (R259, R260). -/
  | pop (g : Nat) (entry : Nat) (n ty : Nat)
  /-- SLMERGE over the slots' accesses (R290). -/
  | slmerge (g : PairOp) (ty rnd : Nat)
  /-- The result of a unit outside the core, which some other step delivers (R315). -/
  | remote
deriving DecidableEq, Repr

/-- A word whose register writes have not all landed (R32), from its issue or forwarding on (R80). -/
structure Pend where
  id : Nat
  st : Station
  pc : Word
  word : Option Instr
  x : Word
  y : Word
  /-- The landing cycle; none until the word has started at its station and its data is on the way. -/
  due : Option Nat
  /-- A fixed-latency write or an accepted SFU request, which lands at trap entry (R83). -/
  fixed : Bool
  act : Act
  dsts : List Dst
  wr : List Wr
  flags : BitVec 6
  accs : List Acc
  ctr : Option Ctr
  /-- The queues that get a token when the word completes (R28). -/
  push : List Nat
  acq : Bool
  rel : Bool
  /-- The word holds the V queue of its berth until it lands (R254). -/
  holdV : Bool
  /-- Refused late and held (R373). -/
  late : Bool
  /-- Kept after a late refusal: it is performed again with a new walk (R373). -/
  anew : Bool
deriving DecidableEq, Repr

/-- What a store does beside its bytes. -/
inductive StKind where
  | plain
  /-- SFE: sets the granule's bit (R246). -/
  | sfe (core off : Nat)
  /-- FECLR: clears the bits of the granules that the range touches (R246). -/
  | feclr (core off len : Nat)
  /-- A write to a bank format register (R148). -/
  | fmt (core bank : Nat)
  /-- An append, which advances its generator by `n` elements (R261). -/
  | append (g n : Nat)
  /-- CWB and CINV (R252). -/
  | cache
  /-- MSGW: source, target core and offset, length, entry, increment (R316). -/
  | msgw (core off len entry incr : Nat)
deriving DecidableEq, Repr

/-- One unit of a store: the bits of `val` under `mask` go to the access. -/
structure StPart where
  acc : Acc
  mask : Word
  val : Word
deriving DecidableEq, Repr

/-- A store that has not taken effect (R92). -/
structure PStore where
  id : Nat
  st : Station
  pc : Word
  word : Option Instr
  x : Word
  due : Option Nat
  parts : List StPart
  kind : StKind
  push : List Nat
  rel : Bool
  late : Bool
  /-- Kept after a late refusal (R373). -/
  anew : Bool
deriving DecidableEq, Repr

/-- A pop that a forwarded word waits for (R260): generator, and its row once it has arrived. -/
structure PopIn where
  g : Nat
  /-- The elements that the pop covers. -/
  n : Nat
  data : Option (List Word)
deriving DecidableEq, Repr

/-- The append that a forwarded word will make (R261): generator, elements, covered bits, accesses. -/
structure AppOut where
  g : Nat
  n : Nat
  bits : Nat
  accs : List Acc
deriving DecidableEq, Repr

/-- A stream generator (R15, R259). -/
structure Gen where
  base : BitVec 57
  stride : BitVec 32
  count : BitVec 32
  pos : BitVec 32
  dir : Bool
  type : BitVec 4
  bound : Bool
  /-- The issue position P of R259. -/
  ipos : BitVec 32
deriving DecidableEq, Repr

/-- An entry of a station queue (R77); `word = none` is the marker of MKFENCE (R250). -/
structure QEntry where
  id : Nat
  pc : Word
  /-- The dependency field of the word (R27). -/
  p : Dep
  word : Option Instr
  x : Word
  y : Word
  accs : List Acc
  pops : List PopIn
  app : Option AppOut
  /-- Which generators were bound when S forwarded the word, and which of them were append streams (R258). -/
  bound : List Bool
  appd : List Bool
  /-- What SSET, SBIND or SUNBIND found in its generator, which a dropped word puts back (R33). -/
  gold : Option Gen
  ftz : Bool
  /-- The cycle in which the entry was forwarded, and in which it became the head of its queue (R78). -/
  at_ : Nat
  headAt : Nat
  /-- The setup registers as S forwarded the command (R18), and its capability (R293). -/
  setup : List Word
  cap : Word
  /-- Progress: chunks, rows, or row and granule (R384). -/
  prog : Word
  /-- What a copy's progress does not show of its offset: the multiple of 2^32. -/
  far : Nat
  /-- A suspended command whose fault awaits the handler (R192, R310). -/
  susp : Bool
  /-- Whether privileged code forwarded the entry: its accesses are made as privileged ones (R369). -/
  priv : Bool
  /-- The engine has checked and begun the command (R183, R308). -/
  begun : Bool
deriving DecidableEq, Repr

/-- One asynchronous fault record (R384), and for a late refusal the id of the held access. -/
structure Afr where
  w0 : Word
  w1 : Word
  w2 : Word
  w3 : Word
  held : Option Nat
  entry : Option Nat
deriving DecidableEq, Repr

/-- What a translation is for: an access, or the line of a CWB or CINV, which needs no right (R252). -/
inductive Want where
  | read | write | fetch | cache
deriving DecidableEq, Repr

/-- Why a berth is not ready (R140). -/
inductive Block where
  | none
  /-- A WP or WN wait at S (R20). -/
  | tokens (p : Dep)
  /-- A serialising word, LFE or LFEC holds the context until its landing (R79, R246, R315). -/
  | landing (id : Nat)
  /-- S holds until V has started and checked the word (R241, R256). -/
  | vstart (id : Nat)
  /-- CNTWAIT (R317). -/
  | cntwait (id entry : Nat) (thr : Nat)
  /-- GBAR (R324): the home, group, phase and arrival number. -/
  | gbar (id home num : Nat) (phase : Nat)
  /-- A TLB miss walk (R241): the address, what it is for, and the lane that its trap reports. -/
  | walk (va : Word) (want : Want) (lane : Nat)
  | wfe
  /-- Waiting for the RSEND at the head of the C queue (R140). -/
  | rsend
  /-- Halted by pre-emption for a swap (R129). -/
  | halted
deriving DecidableEq, Repr

/-- The state as it stood at trap entry, which CSAVE writes (R329): what the handler's own words change, and the number of the
first word after the entry. Words before that one go on changing both states. -/
structure Entry where
  id : Nat
  regs : Vector Word 32
  grid : Vector Word 256
  masks : Vector (BitVec 256) 8
  gens : Vector Gen 4
  vt : BitVec 12
  ms : Vector Word 16
  cs : Vector Word 7
  toks : Vector Nat 8
  fpsr : Word
  erc : Bool
  spill : Mem
  mport : Word
  retired : Word
  scr0 : Word
  scr1 : Word
  root : Word
  asid : Word
  tvec : Word
  derr : Word
deriving DecidableEq, Repr

/-- A context (R8). -/
structure Ctx where
  /-- Which thread this is, over the life of the machine: what group membership follows (R139). -/
  uid : Nat
  regs : Vector Word 32
  grid : Vector Word 256
  masks : Vector (BitVec 256) 8
  caps : Vector Word 8
  gens : Vector Gen 4
  vt : BitVec 12
  ms : Vector Word 16
  cs : Vector Word 7
  lc : Nat
  sc : Nat
  cc : Nat
  tc : Nat
  toks : Vector Nat 8
  fpsr : Word
  erc : Bool
  priv : Bool
  saved : Bool
  pc : Word
  rows : Nat
  gran : Nat
  spill : Mem
  mport : Word
  retired : Word
  tvec : Word
  epc : Word
  cause : Word
  tval : Word
  tinfo : Word
  scr0 : Word
  scr1 : Word
  root : Word
  asid : Word
  derr : Word
  capsign : Word
  env : Nat
  prio : Nat
  /-- GETID fields 4 to 7 (R237). -/
  thread : Word
  team : Word
  first : Word
  count : Word
  /-- The launch that made the context; none for a continuation. -/
  launch : Option Nat
  nextId : Nat
  pend : List Pend
  stores : List PStore
  vq : List QEntry
  mq : List QEntry
  cq : List QEntry
  /-- The V word that has started and is being performed, and the commands the engines hold. -/
  active : Option QEntry
  mact : Option QEntry
  cact : Option QEntry
  /-- Commands accepted by the matrix engine's input queue, first issued first (R182). -/
  min : List QEntry
  replay : List Pend
  afr : List Afr
  /-- Records that wait at their engine or core for a place (R373, R384). -/
  afrWait : List Afr
  /-- The requesting core of a pre-emption whose cause 20 has not been taken (R385). -/
  preempt : Option Word
  /-- The wait in which a pre-emption halted the context, which goes on at the ERET (R385). -/
  hwait : Block
  block : Block
  blockedAt : Nat
  /-- Since when S has held the context's next word (R77), while it does. -/
  heldAt : Option Nat
  readyAt : Nat
  /-- Token pushes that found their queue at 15 (R28): station and queue. -/
  owed : List (Station × Nat)
  /-- V, M and C words that have completed and whose pushes wait for those of the station's earlier words (R28): station,
  id and queues. -/
  done : List (Station × Nat × List Nat)
  /-- Spill writes of the current cycle, which are made at its end (R87): word, offset and bytes. -/
  spillW : List (Nat × Nat × List Byte)
  /-- The counters and token counts at the start of the current cycle, which RDCSR samples (R238). -/
  cnt0 : Word
  tok0 : Word
  /-- The state at the latest trap entry, while its handler runs. -/
  entry : Option Entry
  /-- The number of the first word of the handler that runs; none in the program. -/
  hid : Option Nat
deriving DecidableEq, Repr

/-- The generator after reset (R15). -/
def Gen.reset : Gen :=
  { base := 0, stride := 0, count := 0, pos := 0, dir := false, type := 0, bound := false, ipos := 0 }

/-- The 256 ones of m0 (R14). -/
def maskOnes : BitVec 256 := BitVec.allOnes 256

/-- A context at its reset values (R8 to R25, R113): all zero but m0, the grid's cells too, for which no value is given (log
entry 94). -/
def Ctx.reset : Ctx :=
  { uid := 0, regs := Vector.replicate 32 0, grid := Vector.replicate 256 0,
    masks := (Vector.replicate 8 0).set 0 maskOnes, caps := Vector.replicate 8 0,
    gens := Vector.replicate 4 Gen.reset, vt := 0, ms := Vector.replicate 16 0, cs := Vector.replicate 7 0,
    lc := 0, sc := 0, cc := 0, tc := 0, toks := Vector.replicate 8 0, fpsr := 0,
    erc := false, priv := false, saved := false, pc := 0, rows := 0, gran := 0, spill := [],
    mport := 0, retired := 0, tvec := 0, epc := 0, cause := 0, tval := 0, tinfo := 0, scr0 := 0, scr1 := 0,
    root := 0, asid := 0, derr := 0, capsign := 0, env := 0, prio := 0,
    thread := BitVec.allOnes 64, team := BitVec.allOnes 64, first := BitVec.allOnes 64, count := BitVec.allOnes 64,
    launch := none, nextId := 0, pend := [], stores := [], vq := [], mq := [], cq := [], active := none, mact := none,
    cact := none, min := [], replay := [], afr := [], afrWait := [], preempt := none, hwait := .none, block := .none,
    blockedAt := 0, heldAt := none, readyAt := 0, owed := [], done := [], spillW := [], cnt0 := 0, tok0 := 0, entry := none,
    hid := none }

end Sys2Proof.Machine
end

