-- ==== Sys2Proof/Machine/Units.lean ====
section
/-! DEFINITION. The state of the units outside the contexts: cores (R137, R140, R241), matrix engines (R181 to R192), the
copy engines (R311), relay channels (R193 to R201), launches and teams (R123 to R129), run queues (R132), groups (R139),
the token post, futures and prefix index (R206 to R221), the home agents (R361 to R367), the Hostel (R389 to R393). -/

namespace Sys2Proof.Machine

/-- A continuation record (R131). -/
structure Rec where
  code : Word
  frame : Word
  join : BitVec 32
  flags : Byte
  rows : Byte
  gran : BitVec 16
  parent : Word
deriving DecidableEq, Repr, Inhabited

/-- A record with the environment it carries (R350). -/
structure QRec where
  r : Rec
  env : Nat
deriving DecidableEq, Repr, Inhabited

/-- A waiting-task entry (R137). -/
structure WtEntry where
  counter : Nat
  thr : Nat
  armed : Bool
  qr : Option QRec
deriving DecidableEq, Repr

/-- The waiting-task entry after reset: counter 0, disarmed (R137). -/
def WtEntry.reset : WtEntry := { counter := 0, thr := 0, armed := false, qr := none }

/-- A place of a local ready list (R137): the record, and the entry that fired it (none for a local spawn). -/
structure Ready where
  qr : QRec
  entry : Option Nat
deriving DecidableEq, Repr

/-- A cached translation (R370): the page's first address and size, the frame and what the leaf entry allows. -/
structure Tlb where
  asid : Nat
  base : Nat
  size : Nat
  pa : Nat
  gen : BitVec 12
  r : Bool
  w : Bool
  x : Bool
  u : Bool
deriving DecidableEq, Repr, Inhabited

/-- A core (R7, R140): the running berth, the marks of what has issued or started in the current cycle, the dividers, the
local ready list, the translations. -/
structure Core where
  run : Option Nat
  runAt : Nat
  /-- One more than the cycle in which S, V, M and C last issued or started a word. -/
  sAt : Nat
  vAt : Nat
  mAt : Nat
  cAt : Nat
  /-- The cycles from which the dividers of S and V accept a word (R223, R78). -/
  sdiv : Nat
  vdiv : Nat
  ready : List Ready
  tlb : List Tlb
  /-- The bank locks: bank and the command that holds it (R105), see `copyHolder`, `drainHolder`, `sendHolder`. -/
  locks : List (Nat × Nat)
  /-- The berth's key whose COPY or CFILL runs on the copy engine (R311), and the cycle from which it moves its next granule:
  none once the last one is written. -/
  copying : Option Nat
  copyAt : Option Nat
  /-- The running berth's last word found a counter at 63 or a queue full (R140). -/
  full : Bool
  /-- The signature bits of the core's L1 (R362). -/
  sig : List Nat
deriving DecidableEq, Repr

/-- A core after reset. -/
def Core.reset : Core :=
  { run := none, runAt := 0, sAt := 0, vAt := 0, mAt := 0, cAt := 0, sdiv := 0, vdiv := 0, ready := [], tlb := [],
    locks := [], copying := none, copyAt := none, full := false, sig := [] }

/-- A group (R139): members with the mark of those that joined while a phase was open, and the arrivals. -/
structure Group where
  live : Bool
  fixed : Bool
  n : Nat
  phase : Nat
  isOpen : Bool
  need : Nat
  members : List (Nat × Bool)
  arr : List Nat
  next : List Nat
deriving DecidableEq, Repr

/-- A free group. -/
def Group.reset : Group :=
  { live := false, fixed := false, n := 0, phase := 0, isOpen := false, need := 0, members := [], arr := [], next := [] }

/-- A die run queue's contents and window status (R132, R354). -/
structure RunQ where
  items : List QRec
  /-- The place of the head in the queue's memory, and the window's accepted and refused counts and latest code. -/
  head : Nat
  acc : BitVec 16
  ref : BitVec 16
  code : Byte
deriving DecidableEq, Repr

/-- An empty run queue. -/
def RunQ.reset : RunQ := { items := [], head := 0, acc := 0, ref := 0, code := 0 }

/-- The pop count of a die (R135): the level popped last and the consecutive pops from it. -/
structure DiePop where
  level : Nat
  run : Nat
deriving DecidableEq, Repr

/-- A resident team (R127): its number, when it was admitted, its threads that have not ended. -/
structure Team where
  num : Nat
  at_ : Nat
  left : List Nat
deriving DecidableEq, Repr

/-- A launch (R123 to R129). -/
structure Launch where
  id : Nat
  slot : BitVec 3
  hdr : Word
  args : Word
  first : Nat
  count : Nat
  threads : Nat
  status : Word
  save : Word
  env : Nat
  entry : Word
  rows : Nat
  gran : Nat
  scratch : Nat
  prio : Nat
  cap : Nat
  /-- The first team never admitted, the swapped-out teams in waiting order, the resident teams by admission. -/
  fresh : Nat
  swapped : List Nat
  resident : List Team
  /-- Threads that have ended, bits 8 to 10 of the status word. -/
  ended : Nat
  bits : Nat
  /-- The threads that ended before their team was swapped out: they have no save area to restore. -/
  gone : List Nat
  /-- The team whose contexts have been halted and are about to be saved (R129). -/
  leaving : Option Nat
  /-- The code has been written to the status word. -/
  reported : Bool
  /-- The cycle of the next try of an admission or swap that a generation refused (R371). -/
  again : Option Nat
deriving DecidableEq, Repr

/-- A matrix engine (R181, R191): bank owners, the rotation of issuers, the command in service. -/
structure Engine where
  /-- For each allocated bank, its owner: gdie × 4,096 + group. -/
  owner : SMap Nat
  /-- The issuers in rotation order, each by its context's identity (`Ctx.uid`), which a save and restore keeps. -/
  rot : List Nat
  /-- The issuer whose command is in service (its berth's key), with the cycle from which it goes on or may complete. -/
  serving : Option Nat
  doneAt : Nat
  /-- Whether the command in service has had its whole effect. -/
  ran : Bool
deriving DecidableEq, Repr

/-- An engine after reset. -/
def Engine.reset : Engine := { owner := [], rot := [], serving := none, doneAt := 0, ran := false }

/-- An RSEND that has started and not arrived (R198): who sent it, where its bytes come from, the slot of a send that
outlived its enablement (R195), the descriptor it started under. -/
structure RelaySend where
  ctx : Nat
  id : Nat
  src : Nat
  len : Nat
  slot : Option Nat
  d0 : Word
  d1 : Word
deriving DecidableEq, Repr

/-- A relay channel (R194, R195): descriptor doublewords, counts, sends and permits in flight, its owners (R201). -/
structure Channel where
  d0 : Word
  d1 : Word
  permits : Nat
  /-- The cycle of the latest return of permits and how many came in it: an RSEND takes them from the next cycle on (R199). -/
  backAt : Nat
  backN : Nat
  held : Nat
  next : Nat
  seq : BitVec 16
  sends : List RelaySend
  /-- Permits in flight: the returning context, its word, the count, and whether they still belong to the enablement. -/
  returns : List (Nat × Nat × Nat × Bool)
  sender : Option Nat
  receiver : Option Nat
deriving DecidableEq, Repr

/-- A channel after reset (R194). -/
def Channel.reset : Channel :=
  { d0 := 0, d1 := 0, permits := 0, backAt := 0, backN := 0, held := 0, next := 0, seq := 0, sends := [], returns := [],
    sender := none, receiver := none }

/-- The states of a future entry (R211). -/
inductive FutState where
  | free | pending | done
deriving DecidableEq, Repr

/-- A future entry (R211, R215): the parked record with the die of its core. -/
structure Future where
  state : FutState
  gen : BitVec 16
  desc : Word
  env : Nat
  /-- The cycle at which the timer reaches 0; none while no timer runs. -/
  timer : Option Nat
  parked : Option (QRec × Nat)
  /-- An injection held on a translation fault: the ids and whether it is the timeout sequence (R215). -/
  inj : Option (List (BitVec 32) × Bool)
  /-- The cycle of the next try of an injection that a generation refused (R371). -/
  again : Option Nat
deriving DecidableEq, Repr

/-- A future entry after reset. -/
def Future.reset : Future :=
  { state := .free, gen := 0, desc := 0, env := 0, timer := none, parked := none, inj := none, again := none }

/-- A prefix index entry (R218). -/
structure Prefix where
  valid : Bool
  hash : Word
  vocab : Nat
  asid : Nat
  block : Word
  pins : Nat
  stamp : Nat
deriving DecidableEq, Repr

/-- An empty prefix index entry. -/
def Prefix.reset : Prefix :=
  { valid := false, hash := 0, vocab := 0, asid := 0, block := 0, pins := 0, stamp := 0 }

/-- A call record waiting for a mailbox (R212): its 64 bytes. -/
structure Call where
  bytes : List Byte
deriving DecidableEq, Repr

/-- A Hostel hart (R389 to R393): its integer registers, its mode, its CSRs (log entry 89), the sandbox windows and the mailbox
configuration. -/
structure Hart where
  x : Vector Word 32
  pc : Word
  /-- 3 M, 1 S or HS, 0 U; with `virt`, VS and VU. -/
  mode : Nat
  virt : Bool
  satp : Word
  vsatp : Word
  hgatp : Word
  mepc : Word
  mcause : Word
  mtval : Word
  mtval2 : Word
  mtvec : Word
  mscratch : Word
  mstatus : Word
  mie : Word
  /-- The bits of mip that software sets; bit 16 stands in `mbirq`. -/
  mip : Word
  medeleg : Word
  mideleg : Word
  sepc : Word
  scause : Word
  stval : Word
  stvec : Word
  sscratch : Word
  hstatus : Word
  hedeleg : Word
  hideleg : Word
  htval : Word
  vsstatus : Word
  vsepc : Word
  vscause : Word
  vstval : Word
  vstvec : Word
  vsscratch : Word
  /-- The reservation of an lr: its location and size (R110). -/
  resv : Option (Nat × Nat)
  /-- Windows: base, exclusive limit, permission bits (R336). -/
  windows : List (Word × Word × Byte)
  boxed : Bool
  mbbase : Word
  mbcfg : Word
  mbirq : Bool
  fcsign : Word
deriving DecidableEq, Repr

/-- A hart after reset. -/
def Hart.reset : Hart :=
  { x := Vector.replicate 32 0, pc := 0, mode := 3, virt := false, satp := 0, vsatp := 0, hgatp := 0, mepc := 0, mcause := 0,
    mtval := 0, mtval2 := 0, mtvec := 0, mscratch := 0, mstatus := 0, mie := 0, mip := 0, medeleg := 0, mideleg := 0x1444,
    sepc := 0, scause := 0, stval := 0, stvec := 0, sscratch := 0, hstatus := 0, hedeleg := 0, hideleg := 0, htval := 0,
    vsstatus := 0, vsepc := 0, vscause := 0, vstval := 0, vstvec := 0, vsscratch := 0, resv := none, windows := [],
    boxed := false, mbbase := 0, mbcfg := 0, mbirq := false, fcsign := 0 }

/-- An access of a hart that waits for its sector (R363, R390). -/
structure Hop where
  hart : Nat
  kind : HAccess
  va : Word
  size : Nat
  v : Word
deriving DecidableEq, Repr

/-- The MOESI states of a sector at a holder (R361). -/
inductive Moesi where
  | m | o | e | s | i
deriving DecidableEq, Repr

/-- A request at a sector's home (R363): where it is served, its sector, the holder that asks (6 for the page agent's recall,
R365), and whether it needs the only copy. -/
structure Ask where
  /-- The home (R361): the die or the hub, and the slice there. -/
  home : Nat × Nat
  sec : Nat
  who : Nat
  excl : Bool
  /-- What the host writes with it: location and bytes (R111, R367). -/
  pa : Nat
  bytes : List Byte
  /-- The cycle of its arrival. -/
  at_ : Nat
  /-- It does not wait for a bias flip to end (R365). -/
  adm : Bool
  /-- It is being served, and the holders whose answers are still to come. -/
  begun : Bool
  acks : List Nat
  /-- A caught write-back has answered it; the writer's empty reply closes it (R363). -/
  granted : Bool
deriving DecidableEq, Repr

/-- A dual-home window (R376): the region's new frame, its die, the leaf line that maps the region and the generation it has there,
the lines copied, whether the old generation is fenced off, and the cycle of the next step. -/
structure Window where
  frame : Nat
  die : Nat
  line : Nat
  gen : Nat
  copied : Nat
  fenced : Bool
  due : Nat
deriving DecidableEq, Repr

/-- What firmware keeps of the role placed on a core (R416): the address space and the extents of text, const, data. -/
structure Role where
  index : Byte
  asid : Nat
  text : Nat × Nat
  const : Nat × Nat
  data : Nat × Nat
deriving DecidableEq, Repr

/-- Boot and attestation state (R410 to R413, R426): the boot status, fuses, the two firmware slots, the running container,
the image key and flag, the last image accepted, and the next index of the identity key in non-volatile memory. -/
structure Boot where
  /-- 0 ROM, 1 firmware running, 2 ready, 3 recovery; the reason in recovery; the slot B; the security version (R412). -/
  phase : Nat
  fail : Nat
  slot : Bool
  fwver : Nat
  fuseDigest : List Byte
  fuseMin : Nat
  slotA : List Byte
  slotB : List Byte
  running : List Byte
  imageKey : List Byte
  signedOnly : Bool
  lastImage : List Byte
  /-- The bytes of the running image load that have been stored (R414). -/
  loaded : Nat
  nextIndex : Nat
  /-- Writes to non-volatile memory fail (R426). -/
  nvBroken : Bool
  /-- The quotes sent over MCTP, in order (R426). -/
  quotes : List (List Byte)
  /-- Units that non-volatile memory marks for retirement at the next reset: class, data unit, index (R420). -/
  marked : List (Nat × Nat × Nat)
  /-- The cores that fail the self-test (R412). -/
  faulty : List Nat
deriving DecidableEq, Repr

/-- A die link's repair state (R421): lanes switched to spares, lasting lanes that wait (lane number, 2^16 more in the
second direction), and the cycles from which no replay of a direction is outstanding. -/
structure Link where
  spared : List Nat
  waiting : List Nat
  idle0 : Nat
  idle1 : Nat
  /-- By direction: how many flits have been sent, and how many the receiver has delivered in order, which is where a replay
  goes on. -/
  sent0 : Nat
  sent1 : Nat
  good0 : Nat
  good1 : Nat
deriving DecidableEq, Repr

/-- A link after reset. -/
def Link.reset : Link :=
  { spared := [], waiting := [], idle0 := 0, idle1 := 0, sent0 := 0, sent1 := 0, good0 := 0, good1 := 0 }

/-- A protected unit of storage with an uncorrectable error (R418): where it lies, the data unit and, where the error is an event of
one, the bank that it counts for; once a read has met it, until the end of that cycle, the consumers that have counted it. -/
structure Bad where
  loc : Nat
  size : Nat
  unit : Nat
  bank : Option Nat
  met : Option (List Nat)
deriving DecidableEq, Repr

/-- What happens to the package by itself or from outside with no row of the table (R410, R412, R417 to R421): inputs of a run. -/
inductive Incident where
  /-- A correctable error in data unit `u`, of its bank or link lane if it is an event of one (R417 to R419). -/
  | corrected (u : Nat) (bank : Option Nat)
  /-- An uncorrectable error strikes the protected unit at a location, in the storage or cache of data unit `u` (R418). -/
  | upset (loc u : Nat) (bank : Option Nat)
  /-- An error event on a compute core or Hostel hart (R419). -/
  | core (u idx : Nat)
  /-- Flits are sent on a die link's direction; an outstanding replay fails (R417, R421). -/
  | flits (u : Nat) (dir : Bool) (n : Nat)
  | replayFails (u : Nat) (dir : Bool)
  /-- Firmware raises the fused minimum security version (R410). -/
  | fuse (n : Nat)
  /-- A core fails the self-test of the next bring-up (R412). -/
  | faulty (core : Nat)
deriving DecidableEq, Repr

/-- Power management (R422 to R425): throttle levels by island, where those of islands 20 and 23 count the operating points
taken off, and the islands of the steps in force, newest first. -/
structure Power where
  level : SMap Nat
  steps : List Nat
deriving DecidableEq, Repr

end Sys2Proof.Machine
end

