-- ==== Sys2Proof/Machine/State.lean ====
section
/-! DEFINITION. The state of the package as plain data, the reasons a step can stop, and the state after reset. -/

namespace Sys2Proof.Machine

/-- Why the machine stops. No state that a run reaches raises one of these: each names a turn that the scheduler never
gives. Raising one where the hardware goes on is safe: a true claim may become unprovable. -/
inductive Fault where
  /-- A V word was asked to start with no entry made active: raised by every V meaning in the start turn. Safe. -/
  | noActiveEntry
  /-- An engine word was asked to run with no command at the engine: raised by the M and C meanings. Safe. -/
  | noCommand
  /-- A step named a context that no berth holds: raised by the steps of a context. Safe. -/
  | noContext
deriving DecidableEq, Repr

/-- Why the model gives no meaning. -/
inductive Refusal where
  /-- The instruction has no meaning yet: raised by an arm of `exec` only. Safe. -/
  | notModelled (mnemonic : String)
deriving DecidableEq, Repr

/-- Whose step comes next: the scheduler's choice, a word that has just started at its station, a matrix command in
service at an engine, a copy command at a core's engine, or a Hostel hart. -/
inductive Turn where
  | sched
  | start (st : Station)
  | engine (e : Nat)
  | copy
  | hart (h : Nat)
deriving DecidableEq, Repr

/-- What stays with the engines when a context is saved (R386): who it was and its commands. -/
structure Saved where
  uid : Nat
  /-- The core on which it was saved: a CNTWAIT goes on waiting there (R130). -/
  core : Nat
  launch : Option Nat
  env : Nat
  nextId : Nat
  vq : List QEntry
  mq : List QEntry
  cq : List QEntry
  atM : Option QEntry
  atC : Option QEntry
  atE : List QEntry
  block : Block
  /-- The load replay list with the parts that the area does not show. -/
  replay : List Pend
  afr : List Afr
  /-- Writes that were outside the core at the save. -/
  remote : List Pend
  stores : List PStore
  /-- Token pushes that wait for room or for earlier words (R20, R28). -/
  owed : List (Station × Nat)
  done : List (Station × Nat × List Nat)
deriving DecidableEq, Repr

/-- The whole machine. -/
structure State where
  /-- The core cycle; the hub clock in µs is `now / 1800`. -/
  now : Nat
  turn : Turn
  /-- Steps due at a cycle, in the order in which they are taken: inputs from outside and the units' own timers. -/
  agenda : List (Nat × Instr)
  /-- The variable latencies still to come (log entry 2): the model's own field. -/
  delays : List Nat
  /-- How many free values have been taken (log entry 3): the model's own field. -/
  freeN : Nat
  /-- The focused berth's key (4 × core + berth), whether a context lives there, and that context. -/
  key : Nat
  live : Bool
  ctx : Ctx
  /-- The other contexts, by key. -/
  parked : SMap Ctx
  nextUid : Nat
  saved : SMap Saved
  cores : SMap Core
  wt : SMap WtEntry
  /-- Arrivals of the current cycle by entry (64 × core + entry), still to be applied in one step (R137). -/
  arrivals : SMap Nat
  /-- Memory and scratchpads by location: a physical address, or a scratchpad's global window address. -/
  mem : Mem
  /-- The full granules: 32,768 × core + granule, rising (R151). -/
  fe : List Nat
  /-- Bank format registers: 16 × core + bank (R148). -/
  fmts : SMap Word
  engines : SMap Engine
  /-- The SFU queues: by cluster, the cycles at which accepted requests leave (R138). -/
  sfu : SMap (List Nat)
  channels : SMap Channel
  groups : SMap Group
  runqs : SMap RunQ
  pops : SMap DiePop
  launches : List Launch
  nextLaunch : Nat
  /-- Status words to be written that a generation refused (R371): the cycle of the next try, environment, address, value. -/
  lateStatus : List (Nat × Nat × Word × Nat)
  /-- Doorbells whose checks a generation refused (R371): the cycle of the next try, slot, value. -/
  lateDoors : List (Nat × Nat × Word)
  /-- BAR0's configuration space by offset (R349). -/
  cfg : Mem
  futures : SMap Future
  index : SMap Prefix
  stamp : Nat
  /-- The descriptors whose call in progress has lost bytes (R209): address space and address. -/
  cut : List (Nat × Nat)
  /-- The page faults of injections, posted to the driver: environment, cause, address (R215). -/
  envFaults : List (Nat × Nat × Word)
  /-- The hub's free-block list (R221). -/
  freeBlocks : List Word
  /-- Call records waiting for a mailbox, and pushes held for a full run queue with their die (R212, R132). -/
  calls : List Call
  held : List (QRec × Nat)
  harts : SMap Hart
  /-- The cycles at which a hart takes its next word (R333): an input, as the spec gives the harts' words no timing. -/
  hartDue : List (Nat × Nat)
  /-- The harts' accesses that wait for a sector's home, in order (R363); writes on their way to a region of the hub: BAR, offset,
  bytes (R348, R351). -/
  hops : List Hop
  posted : List (Nat × Nat × List Byte)
  /-- The completion of the host's latest access to BAR4: whether it was supported, and the bytes read (R348). -/
  reply : Option (Bool × List Byte)
  /-- The completion of the latest drive access: whether it was supported, and the bytes read (R394, R395). -/
  driveReply : Option (Bool × List Byte)
  /-- How many package resets there have been: each sets the keys of capabilities afresh (R17, R397). -/
  resets : Nat
  /-- The hub's counters by their number in R417, saturating. -/
  counters : SMap Nat
  /-- The directories: by sector number (pa / 64), the six holders' states (R361); the requests at the homes that are not yet
  served, in arrival order (R363). -/
  dir : SMap (List Moesi)
  asks : List Ask
  /-- Frames whose bias flips, dual-home windows by region, counts of host regions (R365, R374, R376). -/
  flips : List Nat
  windows : SMap Window
  hostHot : SMap Nat
  /-- The cellar processors' routine table (R402), the key table (R406). -/
  cellars : SMap (List IWord)
  keys : SMap (List Byte × List Byte)
  roles : SMap Role
  boot : Boot
  /-- What befalls the package with no row of the table, by the cycle in which it does: an input. -/
  incidents : List (Nat × Incident)
  /-- Protected units with an uncorrectable error that no read has met, or that one of this cycle has (R418), and the errors that
  each hart has consumed, for the health log. -/
  bad : List Bad
  hartErrs : SMap Nat
  /-- The double traps that the hub has counted: cause and epc, oldest first (R379). -/
  doubled : List (Word × Word)
  /-- Event stamps by unit: class, data unit and index packed (R419). -/
  stamps : SMap (List Nat)
  /-- The die links by data unit (R421). -/
  links : SMap Link
  /-- The widths of the UALink and Ultra Ethernet ports that have retrained, by data unit (R420). -/
  widths : SMap Nat
  /-- Lanes, banks and cores that are lasting; cores, engines and harts retired at this reset (R419, R420). -/
  lasting : List (Nat × Nat × Nat)
  retiredCores : List Nat
  retiredEngines : List Nat
  retiredHarts : List Nat
  power : Power
deriving DecidableEq, Repr

/-- The package at reset: everything empty or zero (log entry 101), and the boot ROM's run (R410) the first step due. -/
def State.reset : State :=
  { now := 0, turn := .sched, agenda := [(0, .packageReset)], delays := [], freeN := 0,
    key := 0, live := false, ctx := Ctx.reset, parked := [], nextUid := 1, saved := [],
    cores := [], wt := [], arrivals := [], mem := [], fe := [], fmts := [], engines := [], sfu := [],
    channels := [], groups := [], runqs := [], pops := [], launches := [], nextLaunch := 1,
    lateStatus := [], lateDoors := [], cfg := [],
    futures := [], index := [], stamp := 0, cut := [], envFaults := [], freeBlocks := [], calls := [], held := [],
    harts := [], hartDue := [], hops := [], posted := [], reply := none, driveReply := none, resets := 0, counters := [],
    dir := [], asks := [], flips := [], windows := [], hostHot := [], cellars := [], keys := [], roles := [],
    boot := { phase := 0, fail := 0, slot := false, fwver := 0, fuseDigest := List.replicate 32 0, fuseMin := 0,
              slotA := [], slotB := [], running := [], imageKey := [], signedOnly := false, lastImage := [], loaded := 0,
              nextIndex := 0, nvBroken := false, quotes := [], marked := [], faulty := [] },
    incidents := [], bad := [], hartErrs := [], doubled := [], stamps := [], links := [], widths := [], lasting := [],
    retiredCores := [], retiredEngines := [], retiredHarts := [],
    power := { level := [], steps := [] } }

end Sys2Proof.Machine
end

