-- ==== Sys2Proof/Machine/Landing.lean ====
section
/-! DEFINITION. A context's registers, token queues, counters and pending writes: reading and writing (R9, R10, R13,
R14), the ring's pushes and pops (R20, R27 to R29), the landing of writes in issue order (R32, R82). -/

namespace Sys2Proof.Machine

/-- X[r]: s0 reads as zero (R9). -/
def Ctx.reg (c : Ctx) (r : SReg) : Word := if r = 0 then 0 else c.regs[r.toNat]'(by have := r.isLt; omega)

/-- A landed scalar write: s0 discards it (R9). -/
def Ctx.setReg (c : Ctx) (r : SReg) (v : Word) : Ctx :=
  if r = 0 then c
  else
    let regs := c.regs.set r.toNat v (by have := r.isLt; omega)
    { c with regs := regs }

/-- Cell `n` (16 × row + column): rows at or above A read as zero (R13). -/
def Ctx.cell (c : Ctx) (n : BitVec 8) : Word :=
  if n.toNat / 16 < c.rows then c.grid[n.toNat]'(by have := n.isLt; omega) else 0

/-- A landed cell write under a bit mask: the other bits keep their values (R14, R32). -/
def Ctx.setCell (c : Ctx) (n : BitVec 8) (m v : Word) : Ctx :=
  let old := c.grid[n.toNat]'(by have := n.isLt; omega)
  let grid := c.grid.set n.toNat ((old &&& ~~~m) ||| (v &&& m)) (by have := n.isLt; omega)
  { c with grid := grid }

/-- Mask `r`: m0 reads as all ones (R14). -/
def Ctx.mask (c : Ctx) (r : MReg) : BitVec 256 :=
  if r = 0 then maskOnes else c.masks[r.toNat]'(by have := r.isLt; omega)

/-- A landed mask write: m0 discards it (R14). -/
def Ctx.setMask (c : Ctx) (r : MReg) (v : BitVec 256) : Ctx :=
  if r = 0 then c
  else
    let masks := c.masks.set r.toNat v (by have := r.isLt; omega)
    { c with masks := masks }

/-- Generator `n`, or the reset generator beyond q3. -/
def Ctx.gen (c : Ctx) (n : Nat) : Gen := if h : n < 4 then c.gens[n] else Gen.reset

/-- The context with generator `n` replaced. -/
def Ctx.setGen (c : Ctx) (n : Nat) (g : Gen) : Ctx :=
  if h : n < 4 then { c with gens := c.gens.set n g } else c

/-- Capability register `n`. -/
def Ctx.capReg (c : Ctx) (n : BitVec 3) : Word := c.caps[n.toNat]'(by have := n.isLt; omega)

/-- A capability register write (R328). -/
def Ctx.setCap (c : Ctx) (n : BitVec 3) (v : Word) : Ctx :=
  let caps := c.caps.set n.toNat v (by have := n.isLt; omega)
  { c with caps := caps }

/-- The writable bits of fpsr (R22). -/
def fpsrMask : Word := 0x13F

/-- The value a written privileged CSR takes (R381): tvec is word aligned, asid has 20 bits. -/
def Ctx.setCsr (c : Ctx) (n : Nat) (v : Word) : Ctx :=
  match n with
  | 0x80 => { c with tvec := v &&& ~~~3#64 }
  | 0x81 => { c with epc := v }
  | 0x85 => { c with scr0 := v }
  | 0x86 => { c with scr1 := v }
  | 0x88 => { c with root := v }
  | 0x89 => { c with asid := v &&& 0xFFFFF#64 }
  | 0x91 => { c with derr := v }
  | 0x92 => { c with capsign := v }
  | _ => c

/-- One write takes effect (R32). -/
def Ctx.applyWr (c : Ctx) : Wr → Ctx
  | .s r v => c.setReg r v
  | .cell n m v => c.setCell n m v
  | .mask r v => c.setMask r v
  | .vt v => { c with vt := v }
  | .fpsr v => { c with fpsr := v &&& fpsrMask }
  | .csr n v => c.setCsr n v

/-- The destination that a write is ordered on by R82; flags and CSRs are ordered by their landing alone (R22). -/
def Wr.dst : Wr → Option Dst
  | .s r _ => some (.s r)
  | .cell n _ _ => some (.cell n)
  | .mask r _ => some (.mask r)
  | .vt _ => some .vt
  | .fpsr _ => none
  | .csr _ _ => none

/-- The pending destination of a scalar register: s0 is never pending (R24). -/
def dstS (r : SReg) : List Dst := if r = 0 then [] else [.s r]

/-- The pending destination of a mask: m0 is never pending (R24). -/
def dstM (r : MReg) : List Dst := if r = 0 then [] else [.mask r]

/-- A word earlier than `id` has a write to `d` pending (R80). -/
def Ctx.pendingBefore (c : Ctx) (id : Nat) (d : Dst) : Bool :=
  c.pend.any fun p => decide (p.id < id) && p.dsts.contains d

/-- The first of `ds` that is pending for the word `id`. -/
def Ctx.firstPending (c : Ctx) (id : Nat) (ds : List Dst) : Option Dst := ds.find? (c.pendingBefore id)

/-- The early read among `ds` that traps: none unless ctl.erc = 1 (R24). -/
def Ctx.early (c : Ctx) (id : Nat) (ds : List Dst) : Option Dst := if c.erc then c.firstPending id ds else none

/-- The report of an early read in tval (R382); a scalar number above 15 stands in [4:0] (log entry 20). -/
def earlyTval : Dst → Word
  | .s r => r.zeroExtend 64
  | .cell n => 0x20#64 ||| BitVec.ofNat 64 (n.toNat % 16) ||| BitVec.ofNat 64 (256 * (n.toNat / 16))
  | .mask r => 0x40#64 ||| r.zeroExtend 64
  | .vt => 0x60
  | .fpsr => 0x80

/-- Token queue `q` in the order of R20. -/
def Ctx.tok (c : Ctx) (q : Nat) : Nat := if h : q < 8 then c.toks[q] else 0

/-- The context with token queue `q` at `n`. -/
def Ctx.setTok (c : Ctx) (q n : Nat) : Ctx := if h : q < 8 then { c with toks := c.toks.set q n } else c

/-- The queues that WP and WN pop at a station (R27). -/
def waitsOf (st : Station) (p : Dep) : List Nat :=
  let (a, b) := match st with | .s => (6, 1) | .v => (0, 3) | .m => (2, 5) | .c => (4, 7)
  (if p.getLsbD 3 then [a] else []) ++ (if p.getLsbD 2 then [b] else [])

/-- The queues that SP and SN push at a station (R27). -/
def pushesOf (st : Station) (p : Dep) : List Nat :=
  let (a, b) := match st with | .s => (7, 0) | .v => (1, 2) | .m => (3, 4) | .c => (5, 6)
  (if p.getLsbD 1 then [a] else []) ++ (if p.getLsbD 0 then [b] else [])

/-- Every queue that the word waits on holds a token (R27). -/
def Ctx.canPop (c : Ctx) (st : Station) (p : Dep) : Bool := (waitsOf st p).all fun q => decide (1 ≤ c.tok q)

/-- One push; a queue at 15 leaves it owed by the station (R20, R28). -/
def Ctx.push1 (c : Ctx) (st : Station) (q : Nat) : Ctx :=
  if c.tok q < 15 then c.setTok q (c.tok q + 1) else { c with owed := c.owed ++ [(st, q)] }

/-- The owed pushes are made as far as their queues have room, oldest first (R28). -/
def Ctx.settle (c : Ctx) : Ctx := c.owed.foldl (fun c o => c.push1 o.1 o.2) { c with owed := [] }

/-- The word's tokens are popped together (R27). -/
def Ctx.popToks (c : Ctx) (st : Station) (p : Dep) : Ctx :=
  match waitsOf st p with
  | [] => c
  | qs => (qs.foldl (fun c q => c.setTok q (c.tok q - 1)) c).settle

/-- The station that pushes into a queue (R20). -/
def pusherOf (q : Nat) : Station :=
  match q with | 0 => .s | 1 => .v | 2 => .v | 3 => .m | 4 => .m | 5 => .c | 6 => .c | _ => .s

/-- The tokens of a word that traps are returned (R29); where an owed push has refilled the queue to 15 meanwhile, that push
is owed again (log entry 75). -/
def Ctx.returnToks (c : Ctx) (st : Station) (p : Dep) : Ctx :=
  (waitsOf st p).foldl (fun c q => if c.tok q < 15 then c.setTok q (c.tok q + 1)
    else { c with owed := (pusherOf q, q) :: c.owed }) c

/-- The station starts nothing while a push of its own is owed (R28). -/
def Ctx.owes (c : Ctx) (st : Station) : Bool := c.owed.any fun o => o.1 == st

/-- The state at trap entry changes with a word `id` from before the entry (R329). -/
def Ctx.older (c : Ctx) (id : Nat) (f : Entry → Entry) : Ctx :=
  match c.entry with
  | some e => if id < e.id then { c with entry := some (f e) } else c
  | none => c

/-- The state at trap entry with one token more in each of the queues, or one fewer (R20). -/
def Entry.push (qs : List Nat) (e : Entry) : Entry :=
  match qs with
  | [] => e
  | _ => { e with toks := Vector.ofFn fun i => Nat.min 15 (e.toks[i] + qs.count i.val) }
def Entry.pop (qs : List Nat) (e : Entry) : Entry :=
  match qs with
  | [] => e
  | _ => { e with toks := Vector.ofFn fun i => e.toks[i] - qs.count i.val }

/-- A word of the station earlier than `id` has pushes still to make (R28: the pushes of V, M and C follow their queue
order); a word has its record from its forwarding to its completion. -/
def Ctx.pushBefore (c : Ctx) (st : Station) (id : Nat) : Bool :=
  (c.pend.any fun p => p.st == st && decide (p.id < id) && !p.push.isEmpty) ||
  (c.stores.any fun p => p.st == st && decide (p.id < id) && !p.push.isEmpty)

/-- A waiting push in its station's order. -/
def insDone (d : Station × Nat × List Nat) : List (Station × Nat × List Nat) → List (Station × Nat × List Nat)
  | [] => [d]
  | x :: r => if x.2.1 ≤ d.2.1 then x :: insDone d r else d :: x :: r

/-- Pushes of completed words whose turn has come. -/
def Ctx.flush (c : Ctx) : Ctx :=
  c.done.foldl (fun c d => if c.pushBefore d.1 d.2.1 then { c with done := c.done ++ [d] }
    else (d.2.2.foldl (fun c q => c.push1 d.1 q) c).older d.2.1 (Entry.push d.2.2)) { c with done := [] }

/-- A word completes and makes its pushes (R28): at S at once, at V, M and C in queue order. -/
def Ctx.complete (c : Ctx) (st : Station) (id : Nat) (qs : List Nat) : Ctx :=
  match st with
  | .s => (qs.foldl (fun c q => c.push1 .s q) c).older id (Entry.push qs)
  | _ => if qs.isEmpty then c.flush else ({ c with done := insDone (st, id, qs) c.done } : Ctx).flush

/-- The spill writes of the cycle are made (R87). -/
def Ctx.flushSpill (c : Ctx) : Ctx :=
  c.spillW.foldl (fun c x => ({ c with spill := c.spill.writeBytes x.2.1 x.2.2 } : Ctx).older x.1 fun e =>
    { e with spill := e.spill.writeBytes x.2.1 x.2.2 }) { c with spillW := [] }

/-- A spill write of word `id`, which is made at the end of the cycle (R87); of two in one cycle the later made stays (log entry
80). -/
def Ctx.spillPut (c : Ctx) (id o : Nat) (bs : List Byte) : Ctx := { c with spillW := c.spillW ++ [(id, o, bs)] }

/-- The value of a counter (R19). -/
def Ctx.ctr (c : Ctx) : Ctr → Nat
  | .lc => c.lc | .sc => c.sc | .cc => c.cc | .tc => c.tc

/-- The context with a counter set. -/
def Ctx.setCtr (c : Ctx) (k : Ctr) (n : Nat) : Ctx :=
  match k with
  | .lc => { c with lc := n } | .sc => { c with sc := n } | .cc => { c with cc := n } | .tc => { c with tc := n }

/-- An operation is counted (R19). -/
def Ctx.incCtr (c : Ctx) (k : Ctr) : Ctx := c.setCtr k (c.ctr k + 1)

/-- An operation has finished (R19). -/
def Ctx.decCtr (c : Ctx) (k : Ctr) : Ctx := c.setCtr k (c.ctr k - 1)

/-- The counter of an optional class. -/
def Ctx.decCtr? (c : Ctx) : Option Ctr → Ctx
  | none => c
  | some k => c.decCtr k

/-- The pending word `id`. -/
def Ctx.pendOf (c : Ctx) (id : Nat) : Option Pend := c.pend.find? fun p => p.id == id

/-- The context without the pending word `id`. -/
def Ctx.dropPend (c : Ctx) (id : Nat) : Ctx := { c with pend := c.pend.filter fun p => p.id != id }

/-- The context with the pending word replaced under its id. -/
def Ctx.setPend (c : Ctx) (q : Pend) : Ctx :=
  { c with pend := c.pend.map fun p => if p.id == q.id then q else p }

/-- A write of word `id` may land: it is still the word's own, and no earlier word's write to it is pending (R82). -/
def Ctx.mayLand (c : Ctx) (p : Pend) (w : Wr) : Bool :=
  match w.dst with
  | none => true
  | some d => !(c.pendingBefore p.id d)

/-- The writes of a word that still belong to it: a write replaced at a trap entry is gone (R82, R83). -/
def Pend.own (p : Pend) : List Wr :=
  p.wr.filter fun w => match w.dst with
    | none => true
    | some (.s r) => decide (r ≠ 0) && p.dsts.contains (.s r)
    | some (.mask r) => decide (r ≠ 0) && p.dsts.contains (.mask r)
    | some d => p.dsts.contains d

/-- A write of the state at trap entry (R329). -/
def Entry.applyWr (e : Entry) : Wr → Entry
  | .s r v => if r = 0 then e else { e with regs := e.regs.set r.toNat v (by have := r.isLt; omega) }
  | .cell n m v =>
    let old := e.grid[n.toNat]'(by have := n.isLt; omega)
    { e with grid := e.grid.set n.toNat ((old &&& ~~~m) ||| (v &&& m)) (by have := n.isLt; omega) }
  | .mask r v => if r = 0 then e else { e with masks := e.masks.set r.toNat v (by have := r.isLt; omega) }
  | .vt v => { e with vt := v }
  | .fpsr v => { e with fpsr := v &&& fpsrMask }
  | .csr _ _ => e

/-- A write of word `id` lands (R32), in the state at trap entry too where the word is older (R329). -/
def Ctx.landWr (c : Ctx) (id : Nat) (w : Wr) : Ctx := (c.applyWr w).older id fun e => e.applyWr w

/-- The flags of word `id` land (R22). -/
def Ctx.landFlags (c : Ctx) (id : Nat) (fl : BitVec 6) : Ctx :=
  ({ c with fpsr := c.fpsr ||| fl.zeroExtend 64 } : Ctx).older id fun e => { e with fpsr := e.fpsr ||| fl.zeroExtend 64 }

/-- The flags that a word raises are pending until they land with its result (R24, R79). -/
def flagDst (fl : BitVec 6) : List Dst := if fl = 0 then [] else [.fpsr]

/-- A word whose values are known lands what it may; when nothing is left it completes: its flags land with its
result, its counter falls, its tokens are pushed (R19, R28, R79). -/
def Ctx.landVals (c : Ctx) (p : Pend) : Ctx :=
  let go := p.own.filter (c.mayLand p)
  let rest := p.own.filter fun w => !(c.mayLand p w)
  let c1 := go.foldl (fun c w => c.landWr p.id w) c
  match rest with
  | [] =>
    (((c1.dropPend p.id).decCtr? p.ctr).landFlags p.id p.flags).complete p.st p.id p.push
  | _ => c1.setPend { p with wr := rest, dsts := rest.filterMap Wr.dst ++ flagDst p.flags, act := .vals, accs := [] }

/-- A new pending word with the fields that most words leave at their defaults. -/
def Pend.mk0 (id : Nat) (st : Station) (pc : Word) : Pend :=
  { id := id, st := st, pc := pc, word := none, x := 0, y := 0, due := none, fixed := false, act := .vals,
    dsts := [], wr := [], flags := 0, accs := [], ctr := none, push := [], acq := false, rel := false,
    holdV := false, late := false, anew := false }

/-- The wait of a context: where a pre-emption has halted it, the wait it was halted in. -/
def Ctx.waitNow (c : Ctx) : Block := if c.hwait = .none then c.block else c.hwait

/-- The context with its wait replaced, where it stands. -/
def Ctx.setWait (c : Ctx) (b : Block) : Ctx := if c.hwait = .none then { c with block := b } else { c with hwait := b }

/-- The word has its result. -/
def Pend.result (p : Pend) (v : Word) (due : Option Nat) : Pend :=
  { p with act := .vals, due := due, wr := p.wr.map fun w => match w with | .s d _ => .s d v | w => w }

/-- A wait has its result: it lands at the word's completion, and the berth is ready (R139, R317); while a handler runs, it is kept
for the return (R315). -/
def Ctx.waitDone (c : Ctx) (now id : Nat) (v : Word) : Ctx :=
  let f (p : Pend) : Pend := if p.id == id then p.result v (some now) else p
  ({ c with readyAt := now, pend := c.pend.map f, replay := c.replay.map f } : Ctx).setWait (.landing id)

/-- A held word is one of S that counts nowhere: its request left the core and its result has not come (R315). -/
def Pend.out (p : Pend) (now : Nat) : Bool :=
  p.ctr.isNone && p.st == .s && !p.fixed && (p.act == .remote || (p.act == .vals && p.due.any fun t => decide (now < t)))

/-- The results that have come to held words by `now` are recorded (R315). -/
def Ctx.record (c : Ctx) (now : Nat) : Ctx :=
  { c with replay := c.replay.map fun p =>
      if p.ctr.isNone && p.act == .vals && (p.due.any fun t => decide (t ≤ now)) then { p with due := none } else p }

end Sys2Proof.Machine
end

