-- ==== Sys2Proof/WellFormed.lean ====
section
/-! DEFINITION. Which terms of `Instr` stand for something the spec describes: the one reserved setup register,
and the ranges of the operands that the steps without an encoding carry. -/

namespace Sys2Proof

/-- The number of compute cores (R1). -/
def numCores : Nat := 1280

/-- The number of contexts: four berths on each core (R7). -/
def numContexts : Nat := 4 * numCores

/-- The number of matrix engines (R181). -/
def numEngines : Nat := 160

/-- The number of relay channels: two pairs, two directions, 32 channels each (R193). -/
def numChannels : Nat := 128

/-- The number of Hostel harts (R389). -/
def numHarts : Nat := 64

/-- The well-formed instructions and steps: CPY kind 0x07 is no setup register (R18), and a step names a unit that
exists (R1, R181, R193, R361, R389, R419). -/
def Instr.wf : Instr → Bool
  | .cset _ _ _ r => r != 7
  | .stationStart k st => decide (k < numContexts) && st != .s
  | .landing k _ | .storeTakesEffect k _ | .pageWalkComplete k | .trapEntry k _ _ _ _ | .asyncTrapEntry k
  | .deadlockProbe k | .sfuRequestAccept k _ | .matrixCommandAccept k | .copyComplete k _ | .msgwArrival k _
  | .growRequest k | .fshAtCellar k _ | .capsignWrite k _ | .ctlWrite k _ | .afpopKeep k | .afpopDrop k
  | .preemptionHalt k _ | .wfeEndWithoutEvent k => decide (k < numContexts)
  | .engineFault k st _ _ _ _ _ _ => decide (k < numContexts) && (st == .m || st == .c)
  | .sequencerSwitch core | .runQueuePop core | .localReadyListTake core | .waitingTaskArrival core _ _
  | .drainBandArrival core _ _ _ _ _ | .preemptionRequest core _ => decide (core < numCores)
  | .bankFormatWrite core bank _ => decide (core < numCores) && decide (bank < 16)
  | .matrixCommandStart e | .matrixCommandComplete e => decide (e < numEngines)
  | .relayArrival ch | .permitReturn ch | .relayDescriptorWrite ch _ _ | .relayChannelEnable ch _
  | .relayChannelDisable ch _ => decide (ch < numChannels)
  | .homeRequest h _ l => decide (h < 6) && decide (l.pa % 64 + l.bytes.length ≤ 64)
  | .writeBackArrival h _ => decide (h < 6)
  | .snoopInvalidation h _ _ => decide (h < 6)
  | .migrationOpen _ die => decide (die < 4)
  | .mailboxConfigWrite hart _ _ | .fcsignWrite hart _ | .hostelAccess hart _ _ _ _ => decide (hart < numHarts)
  | .windowConfigWrite cls _ => decide (cls < 3)
  | .linkCrcFailure link _ _ | .laneRepairSwitch link _ => decide (26 ≤ link) && decide (link ≤ 33)
  | .portLaneError unit _ => decide (34 ≤ unit) && decide (unit ≤ 53)
  | .tensorLayoutValidate h => decide (h < 4096)
  | .quoteRequest nonce => decide (nonce.length = 32)
  | _ => true

end Sys2Proof
end

