-- ==== Sys2Proof/Machine/Focus.lean ====
section
/-! DEFINITION. The parts of the package seen from one step: contexts by key, cores, the cluster and die of a core (R1,
R93), counters, free values and variable latencies. -/

namespace Sys2Proof.Machine

/-- The outcome of a meaning. -/
abbrev Res := Host.Outcome State Fault Refusal

/-- The context of berth `k`, if one lives there. -/
def State.ctxAt (s : State) (k : Nat) : Option Ctx := if k = s.key then (if s.live then some s.ctx else none) else mget s.parked k

/-- The package with the context of berth `k` replaced. -/
def State.putCtx (s : State) (k : Nat) (c : Ctx) : State :=
  if k = s.key then { s with ctx := c, live := true } else { s with parked := mput s.parked k c }

/-- The package with the context of berth `k`, if any, changed. -/
def State.updCtx (s : State) (k : Nat) (f : Ctx → Ctx) : State :=
  match s.ctxAt k with
  | none => s
  | some c => s.putCtx k (f c)

/-- The package with berth `k` empty. -/
def State.delCtx (s : State) (k : Nat) : State :=
  if k = s.key then { s with live := false, ctx := Ctx.reset } else { s with parked := mdel s.parked k }

/-- The package with berth `k` focused: the same contexts, `k`'s in `ctx`. -/
def State.focus (s : State) (k : Nat) : State :=
  if k = s.key then s
  else
    let parked := if s.live then mput s.parked s.key s.ctx else s.parked
    match mget parked k with
    | some c => { s with key := k, live := true, ctx := c, parked := mdel parked k }
    | none => { s with key := k, live := false, ctx := Ctx.reset, parked := parked }

/-- The keys of the berths with contexts, rising within the parked ones. -/
def State.liveKeys (s : State) : List Nat :=
  let ks := s.parked.map Prod.fst
  if s.live then ks.filter (· < s.key) ++ s.key :: ks.filter (s.key < ·) else ks

/-- The berth of a context by its uid. -/
def State.berthOf (s : State) (uid : Nat) : Option Nat :=
  s.liveKeys.find? fun k => match s.ctxAt k with | some c => c.uid == uid | none => false

/-- Core `n`. -/
def State.coreAt (s : State) (n : Nat) : Core := mgetD s.cores n Core.reset

/-- The package with core `n` changed. -/
def State.updCore (s : State) (n : Nat) (f : Core → Core) : State := { s with cores := mupd s.cores n Core.reset f }

/-- The core of the focused berth. -/
def State.core (s : State) : Nat := s.key / 4

/-- The die of a core: 0 F0, 1 F1, 2 A0, 3 A1 (R1, R59). -/
def dieOf (core : Nat) : Nat := if core < 384 then 0 else if core < 768 then 1 else if core < 1024 then 2 else 3

/-- The cluster of a core (R1). -/
def clusterOf (core : Nat) : Nat := core / 8

/-- The cores of the scope instance around `core` (R93), as a test. -/
def inScope (sc : Scope) (core other : Nat) : Bool :=
  match sc with
  | .core => core == other
  | .cl => clusterOf core == clusterOf other
  | .die => dieOf core == dieOf other
  | .pkg => true
  | .sys => true

/-- A hub counter at byte offset `off` of the counter region adds `n`, saturating (R417). -/
def State.count (s : State) (off n : Nat) : State :=
  { s with counters := mupd s.counters off 0 fun v => Nat.min (v + n) (2 ^ 64 - 1) }

/-- The next variable latency, 0 when none is listed (log entry 2). -/
def State.delay (s : State) : Nat × State :=
  match s.delays with
  | [] => (0, s)
  | d :: r => (d, { s with delays := r })

/-- A fresh free value (log entry 3). -/
def State.free (s : State) : Word × State := (Config.freeWord s.freeN, { s with freeN := s.freeN + 1 })

/-- The hub clock in µs at 1.8 GHz (R417). -/
def State.hubUs (s : State) : Nat := s.now / 1800

/-- A step due at cycle `t`, after those already due then. -/
def State.at_ (s : State) (t : Nat) (i : Instr) : State :=
  let rec ins : List (Nat × Instr) → List (Nat × Instr)
    | [] => [(t, i)]
    | (u, j) :: r => if t < u then (t, i) :: (u, j) :: r else (u, j) :: ins r
  { s with agenda := ins s.agenda }

/-- The full-empty bit of a granule (R151). -/
def State.isFull (s : State) (core gran : Nat) : Bool := s.fe.contains (32768 * core + gran)

/-- The full-empty bit set. -/
def State.setFull (s : State) (core gran : Nat) : State :=
  let n := 32768 * core + gran
  if s.fe.contains n then s else { s with fe := s.fe.filter (· < n) ++ n :: s.fe.filter (n < ·) }

/-- The full-empty bit cleared. -/
def State.clrFull (s : State) (core gran : Nat) : State := { s with fe := s.fe.filter (· != 32768 * core + gran) }

/-- A bank format register: reset to raw (R148). -/
def State.fmtReg (s : State) (core bank : Nat) : Word := mgetD s.fmts (16 * core + bank) 0xF

/-- A WFE's wait ends (R332): the word completes, and the berth is ready. -/
def Ctx.wfeEnd (c : Ctx) (now : Nat) : Ctx :=
  if c.block = .wfe then
    let isWfe (p : Pend) : Bool := match p.word with | some (.wfe _) => p.act == .remote | _ => false
    let pend := c.pend.map fun (p : Pend) => if isWfe p then { p with act := .vals, due := some now } else p
    { c with block := .none, readyAt := now, pend := pend }
  else c

/-- An event on a core ends the waits of its WFEs (R332). -/
def State.coreEvent (s : State) (core : Nat) : State :=
  (List.range 4).foldl (fun s b => s.updCtx (4 * core + b) fun c => c.wfeEnd s.now) s

/-- A full-empty set, which is an event for WFE on the owning core (R151, R332). -/
def State.feSet (s : State) (core gran : Nat) : State := (s.setFull core gran).coreEvent core

/-- An arrival is posted to a waiting-task entry; the arrivals of one cycle are summed (R137). -/
def State.postArrival (s : State) (core entry n : Nat) : State :=
  { s with arrivals := mupd s.arrivals (64 * core + entry) 0 (· + n) }

/-- The doubleword at configuration offset `off`. -/
def State.cfg64 (s : State) (off : Nat) : Word := s.cfg.read64 off

/-- The little-endian number of `n` bytes at configuration offset `off`. -/
def State.cfgLE (s : State) (off n : Nat) : Nat := s.cfg.readLE off n

end Sys2Proof.Machine
end

