-- ==== Sys2Proof/Machine/Operands.lean ====
section
/-! DEFINITION. Grid operands: the cells a field names (R10), the packing of elements in cells (R11), masks (R14), the rows
an operand touches (R13), pairs (R84), and the pending destinations they give (R24). -/

namespace Sys2Proof.Machine

/-- The four directions, and the index, of a grid operand (R10). -/
def gDir (g : GOp) : Nat := g.toNat / 16
def gIdx (g : GOp) : Nat := g.toNat % 16

/-- The row of element j (R10). -/
def gRow (g : GOp) (j : Nat) : Nat := if gDir g = 0 then gIdx g else j

/-- The column of element j (R10). -/
def gCol (g : GOp) (j : Nat) : Nat :=
  match gDir g with
  | 0 => j
  | 1 => gIdx g
  | 2 => (j + gIdx g) % 16
  | _ => (gIdx g + 16 - j) % 16

/-- cell(g, j) as 16 × row + column (R10, R34). -/
def cellNo (g : GOp) (j : Nat) : BitVec 8 := BitVec.ofNat 8 (16 * gRow g j + gCol g j)

/-- The 16 cells of an operand, in order. -/
def gCells (g : GOp) : List (BitVec 8) := (List.range 16).map (cellNo g)

/-- next(g) (R34). -/
def gNext (g : GOp) : GOp := g + 1

/-- The first half of a pair operand (R54, R84). -/
def pairLo (p : PairOp) : GOp := (p.extractLsb' 3 2 ++ p.extractLsb' 0 3 ++ 0#1 : BitVec 6)

/-- The h operand of row `n`. -/
def hRow (n : Nat) : GOp := BitVec.ofNat 6 (n % 16)

/-- An h operand. -/
def isH (g : GOp) : Bool := gDir g == 0

/-- The operand touches a row at or above A (R13). -/
def beyond (rows : Nat) (g : GOp) : Bool := if isH g then decide (rows ≤ gIdx g) else decide (rows < 16)

/-- The 16 cells' values: rows at or above A read as zero (R13). -/
def Ctx.readOp (c : Ctx) (g : GOp) : List Word := (gCells g).map c.cell

/-- Pending destinations of a grid operand's cells (R24, R80). -/
def dstG (g : GOp) : List Dst := (gCells g).map Dst.cell

/-- Elements per cell (R11). -/
def perCell (t : Nat) : Nat := 64 / tyWidth t

/-- Elements per vector (R11). -/
def perVec (t : Nat) : Nat := 1024 / tyWidth t

/-- The elements of one cell, least significant first (R11). -/
def cellElems (t : Nat) (w : Word) : List Nat :=
  (List.range (perCell t)).map fun s => bitsOf w.toNat (s * tyWidth t) (tyWidth t)

/-- The elements of an operand's cells in element order (R11). -/
def elems (t : Nat) (ws : List Word) : List Nat := ws.flatMap (cellElems t)

/-- A cell from its elements (R11). -/
def packCell (t : Nat) (es : List Nat) : Word :=
  BitVec.ofNat 64 (es.foldr (fun e acc => e % 2 ^ tyWidth t + acc * 2 ^ tyWidth t) 0)

/-- The cells of a list of elements, `n` cells from the front. -/
def packN (t : Nat) : Nat → List Nat → List Word
  | 0, _ => []
  | n + 1, es => packCell t (es.take (perCell t)) :: packN t n (es.drop (perCell t))

/-- The 16 cells of a vector's elements. -/
def pack (t : Nat) (es : List Nat) : List Word := packN t 16 es

/-- The bits of cell `j` that the mask governs for elements of type `t` (R14). -/
def cellMask (t : Nat) (m : BitVec 256) (j : Nat) : Word :=
  packCell t ((List.range (perCell t)).map fun s =>
    if m.getLsbD (j * perCell t + s) then 2 ^ tyWidth t - 1 else 0)

/-- Any element of cell `j` is unmasked (R255). -/
def cellActive (t : Nat) (m : BitVec 256) (j : Nat) : Bool := cellMask t m j != 0

/-- The writes of a whole vector to an operand under a mask (R14, R32): no write is made to a cell without an active
element. -/
def vecWrites (t : Nat) (m : BitVec 256) (g : GOp) (ws : List Word) : List Wr :=
  (List.range 16).filterMap fun j =>
    let cm := cellMask t m j
    if cm = 0 then none else some (.cell (cellNo g j) cm (nthD ws j 0))

/-- The writes of whole cells to an operand, whatever the mask. -/
def rawWrites (g : GOp) (ws : List Word) : List Wr :=
  (List.range 16).map fun j => .cell (cellNo g j) (BitVec.allOnes 64) (nthD ws j 0)

/-- vt's fields (R16). -/
def vtType (v : BitVec 12) : Nat := (v.extractLsb' 0 4).toNat
def vtMask (v : BitVec 12) : MReg := v.extractLsb' 4 3
def vtRnd (v : BitVec 12) : Rnd := rndOf (v.extractLsb' 7 3).toNat

/-- fpsr.ftz (R22). -/
def Ctx.ftz (c : Ctx) : Bool := c.fpsr.getLsbD 8

/-- mask(): the mask that vt.mask names (R34). -/
def Ctx.vtMask (c : Ctx) : BitVec 256 := c.mask (Machine.vtMask c.vt)

/-- The bits of a mask at and above `n` are zero (R14). -/
def maskLow (n : Nat) (m : BitVec 256) : BitVec 256 := m &&& BitVec.ofNat 256 (2 ^ n - 1)

/-- A mask from its elements' bits. -/
def maskOf (bs : List Bool) : BitVec 256 := BitVec.ofNat 256 (bs.foldr (fun b acc => b.toNat + 2 * acc) 0)

end Sys2Proof.Machine
end

