-- ==== Sys2Proof/Machine/Forward.lean ====
section
/-! DEFINITION. What S sends with a word of V, M or C as it forwards it (R18, R77, R80): its station, the registers whose values go
with it, the rows that may pop or append (R258 to R261), the destinations that become pending, its counter (R19). -/

namespace Sys2Proof.Machine

/-- The counter in which a forwarded word counts (R19). -/
def ctrOf : Instr → Option Ctr
  | .vld .. | .vldFeKeep .. | .vldFeClear .. | .vlds .. | .vldx .. | .vbcast .. | .vext .. | .slmerge ..
  | .vexp2 .. | .vlog2 .. | .vrsq .. | .vrcp .. | .vtanh .. | .vsigm .. => some .lc
  | .vst .. | .vsts .. | .vstx .. | .sldep .. => some .sc
  | .copy .. | .cfill .. | .rsend .. | .rpermit .. => some .cc
  | .mballoc .. | .mbfree .. | .mzero .. | .mmac .. | .mdrain .. | .mfill .. | .mstat .. => some .tc
  | _ => none

/-- The words that may raise flags, known before they start: fpsr is pending from their forwarding (R22, R24, log entry 93). -/
def mayFlag : Instr → Bool
  | .vfadd .. | .vfsub .. | .vfmul .. | .vfma .. | .vfms .. | .vfnma .. | .vfdiv .. | .vfsqrt .. | .vfmin .. | .vfmax ..
  | .vexp2 .. | .vlog2 .. | .vrsq .. | .vrcp .. | .vtanh .. | .vsigm .. | .vcmpeq .. | .vcmplt .. | .vcmple ..
  | .vcvt .. | .vpack .. | .vwiden .. | .vredsum .. | .vredmax .. | .vredmin ..
  | .xadd .. | .xsub .. | .xmul .. | .xfma .. | .xred .. | .dwadd .. | .dwsub .. | .dwmul .. | .dwnorm .. | .dwrnd ..
  | .slmerge .. => true
  | _ => false

/-- The generator that a bound stream row stands for (R15). -/
def genRow (bound : List Bool) (g : GOp) : Option Nat :=
  if isH g && decide (12 ≤ gIdx g) && nthD bound (gIdx g - 12) false then some (gIdx g - 12) else none

/-- Which generators are bound, and which of the bound ones append, now. -/
def Ctx.boundNow (c : Ctx) : List Bool := c.gens.toList.map (·.bound)
def Ctx.appdNow (c : Ctx) : List Bool := c.gens.toList.map (·.dir)

/-- The bits that generator `g`'s next transfer covers, and its address (R259). -/
def Gen.next (g : Gen) : Nat × Nat × Word :=
  let per := perVec g.type.toNat
  let n := Nat.min per (g.count.toNat - g.ipos.toNat)
  (n, n * tyWidth g.type.toNat,
   g.base.zeroExtend 64 + BitVec.ofNat 64 (g.ipos.toNat / per) * g.stride.signExtend 64)

/-- The two halves of a pair operand. -/
def halves (g : PairOp) : List GOp := [pairLo g, gNext (pairLo g)]

/-- `r` operands from `g` on, as far as they exist. -/
def run (g : GOp) (r : Nat) : List GOp := (List.range (Nat.min r (16 - gIdx g))).map fun i => g + BitVec.ofNat 6 i

/-- How many operands VWIDEN writes (R276); a code or a width relation that it does not have names the first alone. -/
def widenRows (t : Nat) (ty : BitVec 4) : Nat := if 12 ≤ ty.toNat then 1 else Nat.max 1 (tyWidth t / tyWidth ty.toNat)

/-- What S needs to know of a word to forward it. -/
structure Fwd where
  st : Station := .v
  /-- The registers whose values go with the word, and all scalar sources. -/
  x : SReg := 0
  y : SReg := 0
  scal : List SReg := []
  /-- The single grid operands that may pop, and the one that may append. -/
  pops : List GOp := []
  app : Option GOp := none
  dsts : List Dst := []
  /-- S then holds until V has started the word and made its checks (R241). -/
  hold : Bool := false

/-- A grid load with its address in a register, a word from single operands to `g`, and an engine command with two registers. -/
def ldForm (g : GOp) (a : SReg) : Fwd := { x := a, scal := [a], dsts := dstG g }
def moveForm (g : GOp) (srcs : List GOp) : Fwd := { pops := srcs, app := some g, dsts := dstG g }
def engForm (st : Station) (a b : SReg) : Fwd := { st := st, x := a, y := b, scal := [a, b] }

/-- What S knows of each word that it forwards; the words not listed have V as their station and no operands of this kind. -/
def fwdOf : Instr → Fwd
  | .vcfg .. => { dsts := [.vt] }
  | .sset _ _ a b => { scal := [a, b] }
  | .vld _ g a _ _ => ldForm g a
  | .vldFeKeep _ g a _ => ldForm g a
  | .vldFeClear _ g a _ => ldForm g a
  | .vst _ _ a _ _ => { x := a, scal := [a] }
  | .vlds _ g a b => { x := a, y := b, scal := [a, b], dsts := dstG g }
  | .vsts _ _ a b => { x := a, y := b, scal := [a, b] }
  | .vldx _ g a _ => ldForm g a
  | .vstx _ _ a _ => { x := a, scal := [a] }
  | .vbcast _ g a => ldForm g a
  | .vfadd _ g a b => moveForm g [a, b]
  | .vfsub _ g a b => moveForm g [a, b]
  | .vfmul _ g a b => moveForm g [a, b]
  | .vfma _ g a b => moveForm g [a, b]
  | .vfms _ g a b => moveForm g [a, b]
  | .vfnma _ g a b => moveForm g [a, b]
  | .vfdiv _ g a b => moveForm g [a, b]
  | .vfmin _ g a b => moveForm g [a, b]
  | .vfmax _ g a b => moveForm g [a, b]
  | .vadd _ g a b => moveForm g [a, b]
  | .vsub _ g a b => moveForm g [a, b]
  | .vmul _ g a b => moveForm g [a, b]
  | .vmulh _ g a b => moveForm g [a, b]
  | .vmin _ g a b => moveForm g [a, b]
  | .vmax _ g a b => moveForm g [a, b]
  | .vminu _ g a b => moveForm g [a, b]
  | .vmaxu _ g a b => moveForm g [a, b]
  | .vadds _ g a b => moveForm g [a, b]
  | .vsubs _ g a b => moveForm g [a, b]
  | .vand _ g a b => moveForm g [a, b]
  | .vor _ g a b => moveForm g [a, b]
  | .vxor _ g a b => moveForm g [a, b]
  | .vsll _ g a b => moveForm g [a, b]
  | .vsrl _ g a b => moveForm g [a, b]
  | .vsra _ g a b => moveForm g [a, b]
  | .vperm _ g a b => moveForm g [a, b]
  | .vfsqrt _ g a => moveForm g [a]
  | .vfabs _ g a => moveForm g [a]
  | .vfneg _ g a => moveForm g [a]
  | .vexp2 _ g a => moveForm g [a]
  | .vlog2 _ g a => moveForm g [a]
  | .vrsq _ g a => moveForm g [a]
  | .vrcp _ g a => moveForm g [a]
  | .vtanh _ g a => moveForm g [a]
  | .vsigm _ g a => moveForm g [a]
  | .vmov _ g a => moveForm g [a]
  | .vredsum _ g a => moveForm g [a]
  | .vredmax _ g a => moveForm g [a]
  | .vredmin _ g a => moveForm g [a]
  | .vshuf _ g a _ => moveForm g [a]
  | .vslide _ g a _ => moveForm g [a]
  | .vcvt _ g a _ => moveForm g [a]
  | .vperm2 _ g _ b => moveForm g [b]
  | .vcmpeq _ d a b => { pops := [a, b], dsts := dstM d }
  | .vcmplt _ d a b => { pops := [a, b], dsts := dstM d }
  | .vcmple _ d a b => { pops := [a, b], dsts := dstM d }
  | .mand _ d _ _ => { dsts := dstM d }
  | .mor _ d _ _ => { dsts := dstM d }
  | .mnot _ d _ => { dsts := dstM d }
  | .mpopc _ d _ => { dsts := dstS d }
  | .vsplat _ g a => { x := a, scal := [a], app := some g, dsts := dstG g }
  | .vext _ g d b => { x := b, scal := [b], pops := [g], dsts := dstS d }
  | .vins _ g a b => { x := a, y := b, scal := [a, b], dsts := dstG g }
  | .vpack _ g _ _ => { dsts := dstG g }
  | .vwiden _ g _ ty => { dsts := (run g (widenRows 0 ty)).flatMap dstG }
  | .xadd _ g _ _ => { dsts := (halves g).flatMap dstG }
  | .xsub _ g _ _ => { dsts := (halves g).flatMap dstG }
  | .xmul _ g _ _ => { dsts := (halves g).flatMap dstG }
  | .xfma _ g _ _ => { dsts := (halves g).flatMap dstG }
  | .dwadd _ g _ _ => { dsts := (halves g).flatMap dstG }
  | .dwsub _ g _ _ => { dsts := (halves g).flatMap dstG }
  | .dwmul _ g _ _ => { dsts := (halves g).flatMap dstG }
  | .xred _ g _ => { dsts := (halves g).flatMap dstG }
  | .dwnorm _ g _ => { dsts := (halves g).flatMap dstG }
  | .dwrnd _ g _ => { dsts := dstG g }
  | .gsld _ n _ => { dsts := dstG (hRow n.toNat) }
  | .sldep _ _ a b => { x := a, y := b, scal := [a, b] }
  | .slmerge _ g a b => { x := a, y := b, scal := [a, b], dsts := (halves g).flatMap dstG }
  | .mset _ a b _ => { st := .m, scal := [a, b] }
  | .mballoc _ a b _ => { engForm .m a b with dsts := dstS a }
  | .mbfree _ a b _ => engForm .m a b
  | .mzero _ a b _ => engForm .m a b
  | .mmac _ a b _ => engForm .m a b
  | .mdrain _ a b _ => engForm .m a b
  | .mfill _ a b _ => engForm .m a b
  | .mstat _ a => { st := .m, dsts := dstS a }
  | .cset _ a b _ => { st := .c, scal := [a, b] }
  | .copy _ a b => engForm .c a b
  | .cfill _ a b => engForm .c a b
  | .rsend _ a b => engForm .c a b
  | .rpermit _ a b => engForm .c a b
  | .rstat _ a b => { engForm .c a b with dsts := dstS a }
  | _ => {}

/-- The generators that the word pops under a binding (R260): one pop for each row, whatever number of operands names it; and
the one that it appends to (R261). -/
def Fwd.popsOf (f : Fwd) (bound appd : List Bool) : List Nat :=
  ((f.pops.filterMap (genRow bound)).filter fun g => !(nthD appd g false)).foldl
    (fun acc g => if acc.contains g then acc else acc ++ [g]) []
def Fwd.appOf (f : Fwd) (bound appd : List Bool) : Option Nat := (f.app.bind (genRow bound)).filter fun g => nthD appd g false

/-- The generators that the word pops now. -/
def Fwd.popGens (f : Fwd) (c : Ctx) : List Nat := f.popsOf c.boundNow c.appdNow

/-- How many of them make an access (R259). -/
def Fwd.popCount (f : Fwd) (c : Ctx) : Nat := ((f.popGens c).filter fun g => decide ((c.gen g).next.1 ≠ 0)).length

/-- The generator that the word appends to (R261). -/
def Fwd.appGen (f : Fwd) (c : Ctx) : Option Nat := f.appOf c.boundNow c.appdNow

/-- The queue entry of a word that S forwards with the values `x` and `y` of its two registers (R18, R77). -/
def Ctx.entryOf (c : Ctx) (now id : Nat) (i : Instr) (p : Dep) (st : Station) (x y : Word) (ps : List PopIn) (app : Option AppOut)
    (accs : List Acc) : QEntry :=
  { id := id, pc := c.pc, p := p, word := some i, x := x, y := y, accs := accs, pops := ps, app := app,
    bound := c.boundNow, appd := c.appdNow, gold := none, ftz := c.ftz, at_ := now, headAt := now,
    setup := match st with | .m => c.ms.toList | .c => c.cs.toList ++ [0] | _ => [], cap := 0, prog := 0, susp := false,
    priv := c.priv, far := 0, begun := false }

/-- Its pending record (R80): its destinations, and the flags that it may raise. -/
def Ctx.recordOf (c : Ctx) (id : Nat) (i : Instr) (p : Dep) (st : Station) (x y : Word) (dsts : List Dst) : Pend :=
  { Pend.mk0 id st c.pc with
    word := some i, x := x, y := y, dsts := dsts ++ (if mayFlag i then [.fpsr] else []), push := pushesOf st p,
    ctr := if ctrOf i = some .lc then some .lc else none }

end Sys2Proof.Machine
end

