-- ==== Sys2Proof/Decode.lean ====
section
/-! DEFINITION. Decoding and encoding of instruction words, from the formats of R35, the major map of R38 and
the function tables R40 to R61, and the Hostel's custom-0 words of R333. `decode` is total: a word it answers
`none` for raises the illegal-instruction trap (R39). -/

namespace Sys2Proof

/-- The field of `n` bits of `w` that starts at bit `lo`. -/
def fld (w : IWord) (lo n : Nat) : BitVec n := w.extractLsb' lo n

/-- Four bytes, lowest address first, as one little-endian word (R26). -/
def wordOfBytes (b0 b1 b2 b3 : Byte) : IWord := b3 ++ b2 ++ b1 ++ b0

/-- The four bytes of a word, lowest address first (R26). -/
def bytesOfWord (w : IWord) : List Byte := [fld w 0 8, fld w 8 8, fld w 16 8, fld w 24 8]

/-- The scope codes of R44: 0 to 4; 5 to 7 are illegal. -/
def scopeOf (c : BitVec 3) : Option Scope :=
  match c.toNat with
  | 0 => some .core | 1 => some .cl | 2 => some .die | 3 => some .pkg | 4 => some .sys
  | _ => none

/-- The code of a scope (R44). -/
def scopeCode : Scope → BitVec 3
  | .core => 0 | .cl => 1 | .die => 2 | .pkg => 3 | .sys => 4

/-- The path codes of R48: 0 to 7; 8 to 15 are illegal. -/
def pathOf (c : BitVec 4) : Option Path :=
  match c.toNat with
  | 0 => some .ls | 1 => some .cp | 2 => some .mt | 3 => some .md
  | 4 => some .rl | 5 => some .fs | 6 => some .ho | 7 => some .hs
  | _ => none

/-- The code of a path (R48). -/
def pathCode : Path → BitVec 4
  | .ls => 0 | .cp => 1 | .mt => 2 | .md => 3 | .rl => 4 | .fs => 5 | .ho => 6 | .hs => 7

/-- The VSHUF pattern codes of R273: 0 to 4; 5 to 63 are illegal. -/
def shufOf (c : BitVec 6) : Option Shuf :=
  match c.toNat with
  | 0 => some .reverse | 1 => some .swap | 2 => some .zip | 3 => some .unzip | 4 => some .broadcast
  | _ => none

/-- The code of a VSHUF pattern (R273). -/
def shufCode : Shuf → BitVec 6
  | .reverse => 0 | .swap => 1 | .zip => 2 | .unzip => 3 | .broadcast => 4

/-- One bit as a truth value. -/
def bit1 (b : BitVec 1) : Bool := b == 1

/-- A truth value as one bit. -/
def ofBit (b : Bool) : BitVec 1 := if b then 1 else 0

/-- ALU, major 0x02 (R40): CLZ, CTZ and POPC require sb = 0. -/
def decAlu (p : Dep) (d a b : SReg) (fn : Nat) : Option Instr :=
  match fn with
  | 0 => some (.add p d a b)
  | 1 => some (.sub p d a b)
  | 2 => some (.mul p d a b)
  | 3 => some (.mulh p d a b)
  | 4 => some (.mulhu p d a b)
  | 5 => some (.div p d a b)
  | 6 => some (.divu p d a b)
  | 7 => some (.rem p d a b)
  | 8 => some (.remu p d a b)
  | 9 => some (.and p d a b)
  | 10 => some (.or p d a b)
  | 11 => some (.xor p d a b)
  | 12 => some (.sll p d a b)
  | 13 => some (.srl p d a b)
  | 14 => some (.sra p d a b)
  | 15 => some (.slt p d a b)
  | 16 => some (.sltu p d a b)
  | 17 => some (.min p d a b)
  | 18 => some (.max p d a b)
  | 19 => some (.minu p d a b)
  | 20 => some (.maxu p d a b)
  | 21 => if b = 0 then some (.clz p d a) else none
  | 22 => if b = 0 then some (.ctz p d a) else none
  | 23 => if b = 0 then some (.popc p d a) else none
  | _ => none

/-- FPS, major 0x0B (R42): FSQRT, FCVTI and FCVTF require sb = 0. -/
def decFps (p : Dep) (d a b : SReg) (fn : Nat) : Option Instr :=
  match fn with
  | 0 => some (.fadd p d a b)
  | 1 => some (.fsub p d a b)
  | 2 => some (.fmul p d a b)
  | 3 => some (.fdiv p d a b)
  | 4 => if b = 0 then some (.fsqrt p d a) else none
  | 5 => some (.fmin p d a b)
  | 6 => some (.fmax p d a b)
  | 7 => some (.fcmpeq p d a b)
  | 8 => some (.fcmplt p d a b)
  | 9 => if b = 0 then some (.fcvti p d a) else none
  | 10 => if b = 0 then some (.fcvtf p d a) else none
  | _ => none

/-- SHI, major 0x07 (R41): bits [11:10] select, [9:6] are zero. -/
def decShi (p : Dep) (d a : SReg) (i : BitVec 12) : Option Instr :=
  if i.extractLsb' 6 4 = 0#4 then
    match (i.extractLsb' 10 2).toNat with
    | 0 => some (.slli p d a (i.extractLsb' 0 6))
    | 1 => some (.srli p d a (i.extractLsb' 0 6))
    | 2 => some (.srai p d a (i.extractLsb' 0 6))
    | _ => none
  else none

/-- LOAD, major 0x14 (R43), by sz. -/
def decLoad (p : Dep) (d a : SReg) (i : BitVec 9) (fn : Nat) : Option Instr :=
  match fn with
  | 0 => some (.lb p d a i)
  | 1 => some (.lbu p d a i)
  | 2 => some (.lh p d a i)
  | 3 => some (.lhu p d a i)
  | 4 => some (.lw p d a i)
  | 5 => some (.lwu p d a i)
  | 6 => some (.ld p d a i)
  | _ => none

/-- STORE, major 0x15 (R43), by sz. -/
def decStore (p : Dep) (d a : SReg) (i : BitVec 9) (fn : Nat) : Option Instr :=
  match fn with
  | 0 => some (.sb p d a i)
  | 2 => some (.sh p d a i)
  | 4 => some (.sw p d a i)
  | 6 => some (.sd p d a i)
  | _ => none

/-- SYNCM, major 0x16 (R44): op [6:5], scope [4:2], size [1:0]. -/
def decSyncm (p : Dep) (d a b : SReg) (fn : BitVec 7) : Option Instr :=
  match (fn.extractLsb' 5 2).toNat, scopeOf (fn.extractLsb' 2 3) with
  | 0, some sc => if b = 0 then some (.lda p d a sc (fn.extractLsb' 0 2)) else none
  | 1, some sc => if d = 0 then some (.stl p a b sc (fn.extractLsb' 0 2)) else none
  | _, _ => none

/-- FE, major 0x17 (R45), by sz. -/
def decFe (p : Dep) (d a : SReg) (i : BitVec 9) (fn : Nat) : Option Instr :=
  match fn with
  | 0 => some (.lfe p d a i)
  | 1 => some (.lfec p d a i)
  | 2 => some (.sfe p d a i)
  | 3 => some (.feclr p d a i)
  | 4 => some (.fepoll p d a i)
  | _ => none

/-- AMO, major 0x18 (R46): op [6:4], acqrel [3], scope [2:0]. -/
def decAmo (p : Dep) (d a b : SReg) (fn : BitVec 7) : Option Instr :=
  match scopeOf (fn.extractLsb' 0 3) with
  | none => none
  | some sc =>
    let ar := bit1 (fn.extractLsb' 3 1)
    match (fn.extractLsb' 4 3).toNat with
    | 0 => some (.amoadd p d a b ar sc)
    | 1 => some (.amoand p d a b ar sc)
    | 2 => some (.amoor p d a b ar sc)
    | 3 => some (.amoxor p d a b ar sc)
    | 4 => some (.amomin p d a b ar sc)
    | 5 => some (.amomax p d a b ar sc)
    | 6 => some (.amoswap p d a b ar sc)
    | _ => some (.amocas p d a b ar sc)

/-- FENCE, major 0x1A (R48): sd and sa are zero; fn12[11:8] selects FENCE or XFENCE. -/
def decFence (p : Dep) (d a : SReg) (f : BitVec 12) : Option Instr :=
  if d = 0 ∧ a = 0 then
    match (f.extractLsb' 8 4).toNat with
    | 0 => if f.extractLsb' 3 5 = 0#5 then (scopeOf (f.extractLsb' 0 3)).map (.fence p) else none
    | 1 =>
      match pathOf (f.extractLsb' 4 4), pathOf (f.extractLsb' 0 4) with
      | some x, some y => some (.xfence p x y)
      | _, _ => none
    | _ => none
  else none

/-- WAITS, major 0x1B (R49): MKFENCE and WAITC. -/
def decWaits (p : Dep) (d a : SReg) (f : BitVec 12) : Option Instr :=
  match (f.extractLsb' 8 4).toNat with
  | 0 => if d = 0 ∧ a = 0 ∧ f.extractLsb' 3 5 = 0#5 then some (.mkfence p (f.extractLsb' 0 3)) else none
  | 1 =>
    if f.extractLsb' 6 2 = 0#2 ∧ a.extractLsb' 3 2 = 0#2 ∧ d.extractLsb' 3 2 = 0#2 then
      some (.waitc p (d.extractLsb' 0 3) (a.extractLsb' 0 3) (f.extractLsb' 3 3) (f.extractLsb' 0 3))
    else none
  | _ => none

/-- STREAM, major 0x1C (R50): the generator in gd[1:0], gd[5:2] zero. -/
def decStream (p : Dep) (g : GOp) (a b : SReg) (fn : Nat) : Option Instr :=
  if g.extractLsb' 2 4 = 0#4 then
    match fn with
    | 0 => some (.sset p (g.extractLsb' 0 2) a b)
    | 1 => if a = 0 ∧ b = 0 then some (.sbind p (g.extractLsb' 0 2)) else none
    | 2 => if a = 0 ∧ b = 0 then some (.sunbind p (g.extractLsb' 0 2)) else none
    | _ => none
  else none

/-- VCFG, major 0x1D (R16, R50): sd, sa and imm12[11:10] are zero. -/
def decVcfg (p : Dep) (d a : SReg) (i : BitVec 12) : Option Instr :=
  if d = 0 ∧ a = 0 ∧ i.extractLsb' 10 2 = 0#2 then some (.vcfg p (i.extractLsb' 0 10)) else none

/-- VLD, major 0x1E (R51), by q. -/
def decVld (p : Dep) (g : GOp) (a : SReg) (q : BitVec 2) (i : BitVec 9) : Option Instr :=
  match q.toNat with
  | 0 => some (.vld p g a false i)
  | 1 => some (.vld p g a true i)
  | 2 => some (.vldFeKeep p g a i)
  | _ => some (.vldFeClear p g a i)

/-- VST, major 0x1F (R51), by q; 0b10 and 0b11 are illegal. -/
def decVst (p : Dep) (g : GOp) (a : SReg) (q : BitVec 2) (i : BitVec 9) : Option Instr :=
  match q.toNat with
  | 0 => some (.vst p g a false i)
  | 1 => some (.vst p g a true i)
  | _ => none

/-- VMEMX, major 0x20 (R52). -/
def decVmemx (p : Dep) (g : GOp) (a b : SReg) (fn : Nat) : Option Instr :=
  match fn with
  | 0 => some (.vlds p g a b)
  | 1 => some (.vsts p g a b)
  | 2 => some (.vldx p g a b)
  | 3 => some (.vstx p g a b)
  | 4 => if b = 0 then some (.vbcast p g a) else none
  | _ => none

/-- The even-index pair operand of a grid field (R54): none when the index is odd. -/
def evenOp (g : GOp) : Option PairOp :=
  if g.extractLsb' 0 1 = 0#1 then some (g.extractLsb' 1 5) else none

/-- The grid field of a pair operand (R54). -/
def pairField (g : PairOp) : GOp := g ++ 0#1

/-- VFA, major 0x21 (R53). -/
def decVfa (p : Dep) (g a b : GOp) (fn : Nat) : Option Instr :=
  match fn with
  | 0 => some (.vfadd p g a b)
  | 1 => some (.vfsub p g a b)
  | 2 => some (.vfmul p g a b)
  | 3 => some (.vfma p g a b)
  | 4 => some (.vfms p g a b)
  | 5 => some (.vfnma p g a b)
  | 6 => some (.vfdiv p g a b)
  | 7 => if b = 0 then some (.vfsqrt p g a) else none
  | 8 => some (.vfmin p g a b)
  | 9 => some (.vfmax p g a b)
  | 10 => if b = 0 then some (.vfabs p g a) else none
  | 11 => if b = 0 then some (.vfneg p g a) else none
  | _ => none

/-- VSF, major 0x22 (R53): all unary. -/
def decVsf (p : Dep) (g a b : GOp) (fn : Nat) : Option Instr :=
  match fn with
  | 0 => if b = 0 then some (.vexp2 p g a) else none
  | 1 => if b = 0 then some (.vlog2 p g a) else none
  | 2 => if b = 0 then some (.vrsq p g a) else none
  | 3 => if b = 0 then some (.vrcp p g a) else none
  | 4 => if b = 0 then some (.vtanh p g a) else none
  | 5 => if b = 0 then some (.vsigm p g a) else none
  | _ => none

/-- VIA, major 0x23 (R53). -/
def decVia (p : Dep) (g a b : GOp) (fn : Nat) : Option Instr :=
  match fn with
  | 0 => some (.vadd p g a b)
  | 1 => some (.vsub p g a b)
  | 2 => some (.vmul p g a b)
  | 3 => some (.vmulh p g a b)
  | 4 => some (.vmin p g a b)
  | 5 => some (.vmax p g a b)
  | 6 => some (.vminu p g a b)
  | 7 => some (.vmaxu p g a b)
  | 8 => some (.vadds p g a b)
  | 9 => some (.vsubs p g a b)
  | _ => none

/-- VLG, major 0x24 (R53). -/
def decVlg (p : Dep) (g a b : GOp) (fn : Nat) : Option Instr :=
  match fn with
  | 0 => some (.vand p g a b)
  | 1 => some (.vor p g a b)
  | 2 => some (.vxor p g a b)
  | 3 => some (.vsll p g a b)
  | 4 => some (.vsrl p g a b)
  | 5 => some (.vsra p g a b)
  | _ => none

/-- A mask field: the number in the low three bits, the upper three zero (R53). -/
def maskOf (g : GOp) : Option MReg :=
  if g.extractLsb' 3 3 = 0#3 then some (g.extractLsb' 0 3) else none

/-- The field of a mask number (R53). -/
def maskField (m : MReg) : GOp := 0#3 ++ m

/-- VCM, major 0x25 (R53): compares and mask words. -/
def decVcm (p : Dep) (g a b : GOp) (fn : Nat) : Option Instr :=
  match fn with
  | 0 => (maskOf g).map (.vcmpeq p · a b)
  | 1 => (maskOf g).map (.vcmplt p · a b)
  | 2 => (maskOf g).map (.vcmple p · a b)
  | 3 =>
    match maskOf g, maskOf a, maskOf b with
    | some d, some x, some y => some (.mand p d x y)
    | _, _, _ => none
  | 4 =>
    match maskOf g, maskOf a, maskOf b with
    | some d, some x, some y => some (.mor p d x y)
    | _, _, _ => none
  | 5 =>
    match maskOf g, maskOf a with
    | some d, some x => if b = 0 then some (.mnot p d x) else none
    | _, _ => none
  | 6 =>
    match maskOf a with
    | some x => if g.extractLsb' 5 1 = 0#1 ∧ b = 0 then some (.mpopc p (g.extractLsb' 0 5) x) else none
    | none => none
  | _ => none

/-- VPM, major 0x26 (R53): permutes and moves. -/
def decVpm (p : Dep) (g a b : GOp) (fn : Nat) : Option Instr :=
  match fn with
  | 0 => some (.vperm p g a b)
  | 1 => (evenOp a).map (.vperm2 p g · b)
  | 2 => (shufOf b).map (.vshuf p g a)
  | 3 => some (.vslide p g a b)
  | 4 => if b = 0 then some (.vmov p g a) else none
  | _ => none

/-- VSC, major 0x27 (R53): scalar exchange. In VEXT the sa field names the destination. -/
def decVsc (p : Dep) (g : GOp) (a b : SReg) (fn : Nat) : Option Instr :=
  match fn with
  | 0 => if b = 0 then some (.vsplat p g a) else none
  | 1 => some (.vext p g a b)
  | 2 => some (.vins p g a b)
  | _ => none

/-- VCV, major 0x28 (R53): gb[3:0] is the source type code, gb[5:4] zero. -/
def decVcv (p : Dep) (g a b : GOp) (fn : Nat) : Option Instr :=
  if b.extractLsb' 4 2 = 0#2 then
    match fn with
    | 0 => some (.vcvt p g a (b.extractLsb' 0 4))
    | 1 => some (.vpack p g a (b.extractLsb' 0 4))
    | 2 => some (.vwiden p g a (b.extractLsb' 0 4))
    | _ => none
  else none

/-- VRD, major 0x29 (R53): all unary. -/
def decVrd (p : Dep) (g a b : GOp) (fn : Nat) : Option Instr :=
  match fn with
  | 0 => if b = 0 then some (.vredsum p g a) else none
  | 1 => if b = 0 then some (.vredmax p g a) else none
  | 2 => if b = 0 then some (.vredmin p g a) else none
  | _ => none

/-- XP, major 0x2A (R54): gd even; XRED's ga even too and its gb zero. -/
def decXp (p : Dep) (g a b : GOp) (fn : Nat) : Option Instr :=
  match fn with
  | 0 => (evenOp g).map (.xadd p · a b)
  | 1 => (evenOp g).map (.xsub p · a b)
  | 2 => (evenOp g).map (.xmul p · a b)
  | 3 => (evenOp g).map (.xfma p · a b)
  | 4 =>
    match evenOp g, evenOp a with
    | some d, some x => if b = 0 then some (.xred p d x) else none
    | _, _ => none
  | _ => none

/-- Three even operands, as DWADD, DWSUB and DWMUL need them (R54). -/
def even3 (g a b : GOp) (mk : PairOp → PairOp → PairOp → Instr) : Option Instr :=
  match evenOp g, evenOp a, evenOp b with
  | some d, some x, some y => some (mk d x y)
  | _, _, _ => none

/-- DW, major 0x2B (R54). -/
def decDw (p : Dep) (g a b : GOp) (fn : Nat) : Option Instr :=
  match fn with
  | 0 => even3 g a b (.dwadd p)
  | 1 => even3 g a b (.dwsub p)
  | 2 => even3 g a b (.dwmul p)
  | 3 =>
    match evenOp g, evenOp a with
    | some d, some x => if b = 0 then some (.dwnorm p d x) else none
    | _, _ => none
  | 4 =>
    match evenOp a with
    | some x => if b = 0 then some (.dwrnd p g x) else none
    | none => none
  | _ => none

/-- SLC, major 0x2C (R54). -/
def decSlc (p : Dep) (g : GOp) (a b : SReg) (fn : Nat) : Option Instr :=
  match fn with
  | 0 => (evenOp g).map (.sldep p · a b)
  | 1 => (evenOp g).map (.slmerge p · a b)
  | _ => none

/-- MAT, major 0x2D (R55), by kind. -/
def decMat (p : Dep) (a b : SReg) (c : BitVec 3) (kind : BitVec 6) : Option Instr :=
  if kind.extractLsb' 4 2 = 0#2 then
    if c = 0 then some (.mset p a b (kind.extractLsb' 0 4)) else none
  else
    match kind.toNat with
    | 0x10 => some (.mballoc p a b c)
    | 0x11 => some (.mbfree p a b c)
    | 0x12 => some (.mzero p a b c)
    | 0x13 => some (.mmac p a b c)
    | 0x14 => some (.mdrain p a b c)
    | 0x15 => some (.mfill p a b c)
    | 0x16 => if b = 0 ∧ c = 0 then some (.mstat p a) else none
    | _ => none

/-- CPY, major 0x2E (R56), by kind; kind 0x07 is reserved and c is zero. -/
def decCpy (p : Dep) (a b : SReg) (c : BitVec 3) (kind : BitVec 6) : Option Instr :=
  if c = 0 then
    if kind.extractLsb' 3 3 = 0#3 then
      if kind.extractLsb' 0 3 = 7#3 then none else some (.cset p a b (kind.extractLsb' 0 3))
    else
      match kind.toNat with
      | 0x08 => some (.copy p a b)
      | 0x09 => some (.cfill p a b)
      | _ => none
  else none

/-- RLY, major 0x2F (R57), by kind; c is zero. -/
def decRly (p : Dep) (a b : SReg) (c : BitVec 3) (kind : Nat) : Option Instr :=
  if c = 0 then
    match kind with
    | 0 => some (.rsend p a b)
    | 1 => some (.rpermit p a b)
    | 2 => some (.rstat p a b)
    | _ => none
  else none

/-- MSG, major 0x30 (R58, R314). -/
def decMsg (p : Dep) (d a b : SReg) (fn : Nat) : Option Instr :=
  match fn with
  | 0 => some (.msgw p d a b)
  | 1 => some (.wtarm p d a b)
  | 2 => if b = 0 then some (.wtdis p d a) else none
  | 3 => some (.cntwait p d a b)
  | _ => none

/-- TASK, major 0x31 (R58, R314). -/
def decTask (p : Dep) (d a b : SReg) (fn : Nat) : Option Instr :=
  match fn with
  | 0 => if d = 0 ∧ b = 0 then some (.spawn p a) else none
  | 1 => if b = 0 then some (.joindec p d a) else none
  | 2 => if d = 0 ∧ a = 0 ∧ b = 0 then some (.retire p) else none
  | 3 => if d = 0 ∧ a = 0 ∧ b = 0 then some (.yield p) else none
  | _ => none

/-- GRP, major 0x32 (R58, R314). -/
def decGrp (p : Dep) (d a b : SReg) (fn : Nat) : Option Instr :=
  match fn with
  | 0 => if b = 0 then some (.gnew p d a) else none
  | 1 => if d = 0 ∧ b = 0 then some (.gjoin p a) else none
  | 2 => if d = 0 ∧ b = 0 then some (.gleave p a) else none
  | 3 => if b = 0 then some (.gbar p d a) else none
  | 4 => if d = 0 then some (.gbcfg p a b) else none
  | 5 => if d = 0 ∧ b = 0 then some (.gfree p a) else none
  | _ => none

/-- ID, major 0x33 (R59). -/
def decId (p : Dep) (d a : SReg) (f : BitVec 12) : Option Instr :=
  match (f.extractLsb' 8 4).toNat with
  | 0 => if a = 0 ∧ f.extractLsb' 3 5 = 0#5 then some (.getid p d (f.extractLsb' 0 3)) else none
  | 1 => if a = 0 then some (.rdcsr p d (f.extractLsb' 0 8)) else none
  | 2 => if d = 0 then some (.wrcsr p a (f.extractLsb' 0 8)) else none
  | _ => none

/-- SRV, major 0x34 (R58, R314). -/
def decSrv (p : Dep) (d a b : SReg) (fn : Nat) : Option Instr :=
  match fn with
  | 0 => some (.emit p d a b)
  | 1 => if d = 0 ∧ b = 0 then some (.fwait p a) else none
  | 2 => if b = 0 then some (.pxlook p d a) else none
  | 3 => if b = 0 then some (.pxins p d a) else none
  | 4 => if b = 0 then some (.pxrel p d a) else none
  | _ => none

/-- PRIV, major 0x35 (R60): sd zero, unused fn12 bits zero. -/
def decPriv (p : Dep) (d a : SReg) (f : BitVec 12) : Option Instr :=
  if d = 0 then
    match (f.extractLsb' 8 4).toNat with
    | 0 => if f.extractLsb' 3 5 = 0#5 then some (.capld p a (f.extractLsb' 0 3)) else none
    | 1 => if a = 0 ∧ f.extractLsb' 3 5 = 0#5 then some (.capclr p (f.extractLsb' 0 3)) else none
    | 2 => if f.extractLsb' 0 8 = 0#8 then some (.csave p a) else none
    | 3 => if f.extractLsb' 0 8 = 0#8 then some (.crestore p a) else none
    | 4 => if f.extractLsb' 0 8 = 0#8 then some (.tlbinv p a) else none
    | 5 => if a = 0 ∧ f.extractLsb' 3 5 = 0#5 then (scopeOf (f.extractLsb' 0 3)).map (.tlbflush p) else none
    | 6 => if a = 0 ∧ f.extractLsb' 0 8 = 0#8 then some (.eret p) else none
    | _ => none
  else none

/-- CACHE, major 0x36 (R61): the sd field selects. -/
def decCache (p : Dep) (d a : SReg) (i : BitVec 12) : Option Instr :=
  match d.toNat with
  | 0 => some (.cwb p a i)
  | 1 => some (.cinv p a i)
  | 2 => some (.pref p a i)
  | _ => none

/-- TRAPS, major 0x37 (R61). -/
def decTraps (p : Dep) (d a : SReg) (f : BitVec 12) : Option Instr :=
  if d = 0 ∧ a = 0 then
    match (f.extractLsb' 8 4).toNat with
    | 0 => some (.trap p (f.extractLsb' 0 8))
    | 1 => if f.extractLsb' 0 8 = 0#8 then some (.brk p) else none
    | 2 => if f.extractLsb' 0 8 = 0#8 then some (.wfe p) else none
    | _ => none
  else none

/-- SPILL, major 0x38 (R61): op selects; SLD and SST need dst[5] = 0, the grid forms an h operand. -/
def decSpill (p : Dep) (dst : BitVec 6) (op : Nat) (o : BitVec 14) : Option Instr :=
  match op with
  | 0 => if dst.extractLsb' 5 1 = 0#1 then some (.sld p (dst.extractLsb' 0 5) o) else none
  | 1 => if dst.extractLsb' 5 1 = 0#1 then some (.sst p (dst.extractLsb' 0 5) o) else none
  | 2 => if dst.extractLsb' 4 2 = 0#2 then some (.gsld p (dst.extractLsb' 0 4) o) else none
  | 3 => if dst.extractLsb' 4 2 = 0#2 then some (.gsst p (dst.extractLsb' 0 4) o) else none
  | _ => none

/-- Decodes one device word by its major (R30, R38). `none` is the illegal-instruction trap of R39. -/
def decode (w : IWord) : Option Instr :=
  let p : Dep := fld w 28 4
  -- the fields of formats F-R, F-I, F-U, F-B, F-J, F-M, F-S (R35)
  let d : SReg := fld w 17 5
  let a : SReg := fld w 12 5
  let b : SReg := fld w 7 5
  let fn7 := fld w 0 7
  let i12 := fld w 0 12
  let i17 := fld w 0 17
  let sz := (fld w 9 3).toNat
  let i9 := fld w 0 9
  -- the fields of formats F-G, F-GM, F-GS, F-P (R35)
  let g : GOp := fld w 16 6
  let ga : GOp := fld w 10 6
  let gb : GOp := fld w 4 6
  let fn4 := (fld w 0 4).toNat
  let sa : SReg := fld w 11 5
  let sb : SReg := fld w 6 5
  let fn6 := (fld w 0 6).toNat
  let q := fld w 9 2
  -- the fields of format F-E (R35)
  let kind := fld w 3 6
  let c := fld w 9 3
  match (fld w 22 6).toNat with
  | 0x01 => if fld w 0 22 = 0#22 then some (.nop p) else none
  | 0x02 => decAlu p d a b fn7.toNat
  | 0x03 => some (.addi p d a i12)
  | 0x04 => some (.andi p d a i12)
  | 0x05 => some (.ori p d a i12)
  | 0x06 => some (.xori p d a i12)
  | 0x07 => decShi p d a i12
  | 0x08 => some (.slti p d a i12)
  | 0x09 => some (.lui p d i17)
  | 0x0A => some (.auipc p d i17)
  | 0x0B => decFps p d a b fn7.toNat
  | 0x0C => some (.beq p d a i12)
  | 0x0D => some (.bne p d a i12)
  | 0x0E => some (.blt p d a i12)
  | 0x0F => some (.bge p d a i12)
  | 0x10 => some (.bltu p d a i12)
  | 0x11 => some (.bgeu p d a i12)
  | 0x12 => some (.jal p d i17)
  | 0x13 => some (.jalr p d a i12)
  | 0x14 => decLoad p d a i9 sz
  | 0x15 => decStore p d a i9 sz
  | 0x16 => decSyncm p d a b fn7
  | 0x17 => decFe p d a i9 sz
  | 0x18 => decAmo p d a b fn7
  | 0x19 => some (.fsh p d a b fn7)
  | 0x1A => decFence p d a i12
  | 0x1B => decWaits p d a i12
  | 0x1C => decStream p g sa sb fn6
  | 0x1D => decVcfg p d a i12
  | 0x1E => decVld p g sa q i9
  | 0x1F => decVst p g sa q i9
  | 0x20 => decVmemx p g sa sb fn6
  | 0x21 => decVfa p g ga gb fn4
  | 0x22 => decVsf p g ga gb fn4
  | 0x23 => decVia p g ga gb fn4
  | 0x24 => decVlg p g ga gb fn4
  | 0x25 => decVcm p g ga gb fn4
  | 0x26 => decVpm p g ga gb fn4
  | 0x27 => decVsc p g sa sb fn6
  | 0x28 => decVcv p g ga gb fn4
  | 0x29 => decVrd p g ga gb fn4
  | 0x2A => decXp p g ga gb fn4
  | 0x2B => decDw p g ga gb fn4
  | 0x2C => decSlc p g sa sb fn6
  | 0x2D => if fld w 0 3 = 0#3 then decMat p d a c kind else none
  | 0x2E => if fld w 0 3 = 0#3 then decCpy p d a c kind else none
  | 0x2F => if fld w 0 3 = 0#3 then decRly p d a c kind.toNat else none
  | 0x30 => decMsg p d a b fn7.toNat
  | 0x31 => decTask p d a b fn7.toNat
  | 0x32 => decGrp p d a b fn7.toNat
  | 0x33 => decId p d a i12
  | 0x34 => decSrv p d a b fn7.toNat
  | 0x35 => decPriv p d a i12
  | 0x36 => decCache p d a i12
  | 0x37 => decTraps p d a i12
  | 0x38 => decSpill p g (fld w 14 2).toNat (fld w 0 14)
  | _ => none

/-- Decodes a Hostel custom-0 word (R333): funct7 zero, and the unused register field zero. -/
def decodeHostel (w : IWord) : Option Instr :=
  if fld w 0 7 = 0b0001011#7 ∧ fld w 25 7 = 0#7 then
    match (fld w 12 3).toNat with
    | 0 => if fld w 20 5 = 0#5 then some (.fdone (fld w 7 5) (fld w 15 5)) else none
    | 1 => if fld w 20 5 = 0#5 then some (.fpoll (fld w 7 5) (fld w 15 5)) else none
    | 2 => if fld w 7 5 = 0#5 then some (.sbox (fld w 15 5) (fld w 20 5)) else none
    | _ => none
  else none

/-- Decodes the four bytes at a core's program counter (R26). -/
def decodeBytes : List Byte → Option Instr
  | b0 :: b1 :: b2 :: b3 :: _ => decode (wordOfBytes b0 b1 b2 b3)
  | _ => none

/-- Decodes the four bytes at a hart's program counter (R333). -/
def decodeHostelBytes : List Byte → Option Instr
  | b0 :: b1 :: b2 :: b3 :: _ => decodeHostel (wordOfBytes b0 b1 b2 b3)
  | _ => none

/-- The host's table question: the instruction whose 32 bits are `w`. A word that no core decodes is read as a
Hostel hart reads it. -/
def decodeTableWord (nbits w : Nat) : Option Instr :=
  if nbits = 32 then
    let bytes := bytesOfWord (BitVec.ofNat 32 w)
    match decodeBytes bytes with
    | some i => some i
    | none => decodeHostelBytes bytes
  else none

/-! ### The encoder, from the same tables -/

/-- Format F-R (R35). -/
def encR (p : Dep) (m : BitVec 6) (d a b : SReg) (fn : BitVec 7) : IWord := p ++ m ++ d ++ a ++ b ++ fn
/-- Formats F-I, F-B and F-S (R35). -/
def encI (p : Dep) (m : BitVec 6) (d a : SReg) (i : BitVec 12) : IWord := p ++ m ++ d ++ a ++ i
/-- Formats F-U and F-J (R35). -/
def encU (p : Dep) (m : BitVec 6) (d : SReg) (i : BitVec 17) : IWord := p ++ m ++ d ++ i
/-- Format F-M (R35). -/
def encM (p : Dep) (m : BitVec 6) (d a : SReg) (sz : BitVec 3) (i : BitVec 9) : IWord := p ++ m ++ d ++ a ++ sz ++ i
/-- Format F-G (R35). -/
def encG (p : Dep) (m : BitVec 6) (g a b : GOp) (fn : BitVec 4) : IWord := p ++ m ++ g ++ a ++ b ++ fn
/-- Format F-GM (R35). -/
def encGM (p : Dep) (m : BitVec 6) (g : GOp) (a : SReg) (q : BitVec 2) (i : BitVec 9) : IWord := p ++ m ++ g ++ a ++ q ++ i
/-- Format F-GS (R35). -/
def encGS (p : Dep) (m : BitVec 6) (g : GOp) (a b : SReg) (fn : BitVec 6) : IWord := p ++ m ++ g ++ a ++ b ++ fn
/-- Format F-E (R35). -/
def encE (p : Dep) (m : BitVec 6) (a b : SReg) (c : BitVec 3) (kind : BitVec 6) : IWord := p ++ m ++ a ++ b ++ c ++ kind ++ 0#3
/-- Format F-P (R35). -/
def encP (p : Dep) (m : BitVec 6) (dst : BitVec 6) (op : BitVec 2) (o : BitVec 14) : IWord := p ++ m ++ dst ++ op ++ o
/-- The Hostel's R-type custom-0 layout (R333). -/
def encH (f : BitVec 3) (d a b : SReg) : IWord := 0#7 ++ b ++ a ++ f ++ d ++ 0b0001011#7

/-- The word of an instruction (R35 to R61, R333); the steps that have no encoding have no word. -/
def encode : Instr → Option IWord
  | .add p d a b => some (encR p 0x02 d a b 0)
  | .sub p d a b => some (encR p 0x02 d a b 1)
  | .mul p d a b => some (encR p 0x02 d a b 2)
  | .mulh p d a b => some (encR p 0x02 d a b 3)
  | .mulhu p d a b => some (encR p 0x02 d a b 4)
  | .div p d a b => some (encR p 0x02 d a b 5)
  | .divu p d a b => some (encR p 0x02 d a b 6)
  | .rem p d a b => some (encR p 0x02 d a b 7)
  | .remu p d a b => some (encR p 0x02 d a b 8)
  | .and p d a b => some (encR p 0x02 d a b 9)
  | .or p d a b => some (encR p 0x02 d a b 10)
  | .xor p d a b => some (encR p 0x02 d a b 11)
  | .sll p d a b => some (encR p 0x02 d a b 12)
  | .srl p d a b => some (encR p 0x02 d a b 13)
  | .sra p d a b => some (encR p 0x02 d a b 14)
  | .slt p d a b => some (encR p 0x02 d a b 15)
  | .sltu p d a b => some (encR p 0x02 d a b 16)
  | .min p d a b => some (encR p 0x02 d a b 17)
  | .max p d a b => some (encR p 0x02 d a b 18)
  | .minu p d a b => some (encR p 0x02 d a b 19)
  | .maxu p d a b => some (encR p 0x02 d a b 20)
  | .clz p d a => some (encR p 0x02 d a 0 21)
  | .ctz p d a => some (encR p 0x02 d a 0 22)
  | .popc p d a => some (encR p 0x02 d a 0 23)
  | .nop p => some (encU p 0x01 0 0)
  | .addi p d a i => some (encI p 0x03 d a i)
  | .andi p d a i => some (encI p 0x04 d a i)
  | .ori p d a i => some (encI p 0x05 d a i)
  | .xori p d a i => some (encI p 0x06 d a i)
  | .slti p d a i => some (encI p 0x08 d a i)
  | .slli p d a h => some (encI p 0x07 d a (0#2 ++ 0#4 ++ h))
  | .srli p d a h => some (encI p 0x07 d a (1#2 ++ 0#4 ++ h))
  | .srai p d a h => some (encI p 0x07 d a (2#2 ++ 0#4 ++ h))
  | .lui p d i => some (encU p 0x09 d i)
  | .auipc p d i => some (encU p 0x0A d i)
  | .fadd p d a b => some (encR p 0x0B d a b 0)
  | .fsub p d a b => some (encR p 0x0B d a b 1)
  | .fmul p d a b => some (encR p 0x0B d a b 2)
  | .fdiv p d a b => some (encR p 0x0B d a b 3)
  | .fsqrt p d a => some (encR p 0x0B d a 0 4)
  | .fmin p d a b => some (encR p 0x0B d a b 5)
  | .fmax p d a b => some (encR p 0x0B d a b 6)
  | .fcmpeq p d a b => some (encR p 0x0B d a b 7)
  | .fcmplt p d a b => some (encR p 0x0B d a b 8)
  | .fcvti p d a => some (encR p 0x0B d a 0 9)
  | .fcvtf p d a => some (encR p 0x0B d a 0 10)
  | .beq p a b o => some (encI p 0x0C a b o)
  | .bne p a b o => some (encI p 0x0D a b o)
  | .blt p a b o => some (encI p 0x0E a b o)
  | .bge p a b o => some (encI p 0x0F a b o)
  | .bltu p a b o => some (encI p 0x10 a b o)
  | .bgeu p a b o => some (encI p 0x11 a b o)
  | .jal p d o => some (encU p 0x12 d o)
  | .jalr p d a i => some (encI p 0x13 d a i)
  | .lb p d a i => some (encM p 0x14 d a 0 i)
  | .lbu p d a i => some (encM p 0x14 d a 1 i)
  | .lh p d a i => some (encM p 0x14 d a 2 i)
  | .lhu p d a i => some (encM p 0x14 d a 3 i)
  | .lw p d a i => some (encM p 0x14 d a 4 i)
  | .lwu p d a i => some (encM p 0x14 d a 5 i)
  | .ld p d a i => some (encM p 0x14 d a 6 i)
  | .sb p d a i => some (encM p 0x15 d a 0 i)
  | .sh p d a i => some (encM p 0x15 d a 2 i)
  | .sw p d a i => some (encM p 0x15 d a 4 i)
  | .sd p d a i => some (encM p 0x15 d a 6 i)
  | .lda p d a sc z => some (encR p 0x16 d a 0 (0#2 ++ scopeCode sc ++ z))
  | .stl p a b sc z => some (encR p 0x16 0 a b (1#2 ++ scopeCode sc ++ z))
  | .lfe p d a i => some (encM p 0x17 d a 0 i)
  | .lfec p d a i => some (encM p 0x17 d a 1 i)
  | .sfe p d a i => some (encM p 0x17 d a 2 i)
  | .feclr p d a i => some (encM p 0x17 d a 3 i)
  | .fepoll p d a i => some (encM p 0x17 d a 4 i)
  | .amoadd p d a b ar sc => some (encR p 0x18 d a b (0#3 ++ ofBit ar ++ scopeCode sc))
  | .amoand p d a b ar sc => some (encR p 0x18 d a b (1#3 ++ ofBit ar ++ scopeCode sc))
  | .amoor p d a b ar sc => some (encR p 0x18 d a b (2#3 ++ ofBit ar ++ scopeCode sc))
  | .amoxor p d a b ar sc => some (encR p 0x18 d a b (3#3 ++ ofBit ar ++ scopeCode sc))
  | .amomin p d a b ar sc => some (encR p 0x18 d a b (4#3 ++ ofBit ar ++ scopeCode sc))
  | .amomax p d a b ar sc => some (encR p 0x18 d a b (5#3 ++ ofBit ar ++ scopeCode sc))
  | .amoswap p d a b ar sc => some (encR p 0x18 d a b (6#3 ++ ofBit ar ++ scopeCode sc))
  | .amocas p d a b ar sc => some (encR p 0x18 d a b (7#3 ++ ofBit ar ++ scopeCode sc))
  | .fsh p d a b n => some (encR p 0x19 d a b n)
  | .fence p sc => some (encI p 0x1A 0 0 (0#9 ++ scopeCode sc))
  | .xfence p x y => some (encI p 0x1A 0 0 (1#4 ++ pathCode x ++ pathCode y))
  | .mkfence p l => some (encI p 0x1B 0 0 (0#9 ++ l))
  | .waitc p t c s l => some (encI p 0x1B (0#2 ++ t) (0#2 ++ c) (1#4 ++ 0#2 ++ s ++ l))
  | .sset p n a b => some (encGS p 0x1C (0#4 ++ n) a b 0)
  | .sbind p n => some (encGS p 0x1C (0#4 ++ n) 0 0 1)
  | .sunbind p n => some (encGS p 0x1C (0#4 ++ n) 0 0 2)
  | .vcfg p i => some (encI p 0x1D 0 0 (0#2 ++ i))
  | .vld p g a n i => some (encGM p 0x1E g a (0#1 ++ ofBit n) i)
  | .vldFeKeep p g a i => some (encGM p 0x1E g a 2 i)
  | .vldFeClear p g a i => some (encGM p 0x1E g a 3 i)
  | .vst p g a n i => some (encGM p 0x1F g a (0#1 ++ ofBit n) i)
  | .vlds p g a b => some (encGS p 0x20 g a b 0)
  | .vsts p g a b => some (encGS p 0x20 g a b 1)
  | .vldx p g a b => some (encGS p 0x20 g a b 2)
  | .vstx p g a b => some (encGS p 0x20 g a b 3)
  | .vbcast p g a => some (encGS p 0x20 g a 0 4)
  | .vfadd p g a b => some (encG p 0x21 g a b 0)
  | .vfsub p g a b => some (encG p 0x21 g a b 1)
  | .vfmul p g a b => some (encG p 0x21 g a b 2)
  | .vfma p g a b => some (encG p 0x21 g a b 3)
  | .vfms p g a b => some (encG p 0x21 g a b 4)
  | .vfnma p g a b => some (encG p 0x21 g a b 5)
  | .vfdiv p g a b => some (encG p 0x21 g a b 6)
  | .vfsqrt p g a => some (encG p 0x21 g a 0 7)
  | .vfmin p g a b => some (encG p 0x21 g a b 8)
  | .vfmax p g a b => some (encG p 0x21 g a b 9)
  | .vfabs p g a => some (encG p 0x21 g a 0 10)
  | .vfneg p g a => some (encG p 0x21 g a 0 11)
  | .vexp2 p g a => some (encG p 0x22 g a 0 0)
  | .vlog2 p g a => some (encG p 0x22 g a 0 1)
  | .vrsq p g a => some (encG p 0x22 g a 0 2)
  | .vrcp p g a => some (encG p 0x22 g a 0 3)
  | .vtanh p g a => some (encG p 0x22 g a 0 4)
  | .vsigm p g a => some (encG p 0x22 g a 0 5)
  | .vadd p g a b => some (encG p 0x23 g a b 0)
  | .vsub p g a b => some (encG p 0x23 g a b 1)
  | .vmul p g a b => some (encG p 0x23 g a b 2)
  | .vmulh p g a b => some (encG p 0x23 g a b 3)
  | .vmin p g a b => some (encG p 0x23 g a b 4)
  | .vmax p g a b => some (encG p 0x23 g a b 5)
  | .vminu p g a b => some (encG p 0x23 g a b 6)
  | .vmaxu p g a b => some (encG p 0x23 g a b 7)
  | .vadds p g a b => some (encG p 0x23 g a b 8)
  | .vsubs p g a b => some (encG p 0x23 g a b 9)
  | .vand p g a b => some (encG p 0x24 g a b 0)
  | .vor p g a b => some (encG p 0x24 g a b 1)
  | .vxor p g a b => some (encG p 0x24 g a b 2)
  | .vsll p g a b => some (encG p 0x24 g a b 3)
  | .vsrl p g a b => some (encG p 0x24 g a b 4)
  | .vsra p g a b => some (encG p 0x24 g a b 5)
  | .vcmpeq p m a b => some (encG p 0x25 (maskField m) a b 0)
  | .vcmplt p m a b => some (encG p 0x25 (maskField m) a b 1)
  | .vcmple p m a b => some (encG p 0x25 (maskField m) a b 2)
  | .mand p d a b => some (encG p 0x25 (maskField d) (maskField a) (maskField b) 3)
  | .mor p d a b => some (encG p 0x25 (maskField d) (maskField a) (maskField b) 4)
  | .mnot p d a => some (encG p 0x25 (maskField d) (maskField a) 0 5)
  | .mpopc p d a => some (encG p 0x25 (0#1 ++ d) (maskField a) 0 6)
  | .vperm p g a b => some (encG p 0x26 g a b 0)
  | .vperm2 p g a b => some (encG p 0x26 g (pairField a) b 1)
  | .vshuf p g a c => some (encG p 0x26 g a (shufCode c) 2)
  | .vslide p g a k => some (encG p 0x26 g a k 3)
  | .vmov p g a => some (encG p 0x26 g a 0 4)
  | .vsplat p g a => some (encGS p 0x27 g a 0 0)
  | .vext p g d b => some (encGS p 0x27 g d b 1)
  | .vins p g a b => some (encGS p 0x27 g a b 2)
  | .vcvt p g a t => some (encG p 0x28 g a (0#2 ++ t) 0)
  | .vpack p g a t => some (encG p 0x28 g a (0#2 ++ t) 1)
  | .vwiden p g a t => some (encG p 0x28 g a (0#2 ++ t) 2)
  | .vredsum p g a => some (encG p 0x29 g a 0 0)
  | .vredmax p g a => some (encG p 0x29 g a 0 1)
  | .vredmin p g a => some (encG p 0x29 g a 0 2)
  | .xadd p g a b => some (encG p 0x2A (pairField g) a b 0)
  | .xsub p g a b => some (encG p 0x2A (pairField g) a b 1)
  | .xmul p g a b => some (encG p 0x2A (pairField g) a b 2)
  | .xfma p g a b => some (encG p 0x2A (pairField g) a b 3)
  | .xred p g a => some (encG p 0x2A (pairField g) (pairField a) 0 4)
  | .dwadd p g a b => some (encG p 0x2B (pairField g) (pairField a) (pairField b) 0)
  | .dwsub p g a b => some (encG p 0x2B (pairField g) (pairField a) (pairField b) 1)
  | .dwmul p g a b => some (encG p 0x2B (pairField g) (pairField a) (pairField b) 2)
  | .dwnorm p g a => some (encG p 0x2B (pairField g) (pairField a) 0 3)
  | .dwrnd p g a => some (encG p 0x2B g (pairField a) 0 4)
  | .sldep p g a b => some (encGS p 0x2C (pairField g) a b 0)
  | .slmerge p g a b => some (encGS p 0x2C (pairField g) a b 1)
  | .mset p a b r => some (encE p 0x2D a b 0 (0#2 ++ r))
  | .mballoc p a b c => some (encE p 0x2D a b c 0x10)
  | .mbfree p a b c => some (encE p 0x2D a b c 0x11)
  | .mzero p a b c => some (encE p 0x2D a b c 0x12)
  | .mmac p a b c => some (encE p 0x2D a b c 0x13)
  | .mdrain p a b c => some (encE p 0x2D a b c 0x14)
  | .mfill p a b c => some (encE p 0x2D a b c 0x15)
  | .mstat p a => some (encE p 0x2D a 0 0 0x16)
  | .cset p a b r => some (encE p 0x2E a b 0 (0#3 ++ r))
  | .copy p a b => some (encE p 0x2E a b 0 0x08)
  | .cfill p a b => some (encE p 0x2E a b 0 0x09)
  | .rsend p a b => some (encE p 0x2F a b 0 0)
  | .rpermit p a b => some (encE p 0x2F a b 0 1)
  | .rstat p a b => some (encE p 0x2F a b 0 2)
  | .msgw p d a b => some (encR p 0x30 d a b 0)
  | .wtarm p d a b => some (encR p 0x30 d a b 1)
  | .wtdis p d a => some (encR p 0x30 d a 0 2)
  | .cntwait p d a b => some (encR p 0x30 d a b 3)
  | .spawn p a => some (encR p 0x31 0 a 0 0)
  | .joindec p d a => some (encR p 0x31 d a 0 1)
  | .retire p => some (encR p 0x31 0 0 0 2)
  | .yield p => some (encR p 0x31 0 0 0 3)
  | .gnew p d a => some (encR p 0x32 d a 0 0)
  | .gjoin p a => some (encR p 0x32 0 a 0 1)
  | .gleave p a => some (encR p 0x32 0 a 0 2)
  | .gbar p d a => some (encR p 0x32 d a 0 3)
  | .gbcfg p a b => some (encR p 0x32 0 a b 4)
  | .gfree p a => some (encR p 0x32 0 a 0 5)
  | .getid p d f => some (encI p 0x33 d 0 (0#9 ++ f))
  | .rdcsr p d c => some (encI p 0x33 d 0 (1#4 ++ c))
  | .wrcsr p a c => some (encI p 0x33 0 a (2#4 ++ c))
  | .emit p d a b => some (encR p 0x34 d a b 0)
  | .fwait p a => some (encR p 0x34 0 a 0 1)
  | .pxlook p d a => some (encR p 0x34 d a 0 2)
  | .pxins p d a => some (encR p 0x34 d a 0 3)
  | .pxrel p d a => some (encR p 0x34 d a 0 4)
  | .capld p a n => some (encI p 0x35 0 a (0#9 ++ n))
  | .capclr p n => some (encI p 0x35 0 0 (1#4 ++ 0#5 ++ n))
  | .csave p a => some (encI p 0x35 0 a 0x200)
  | .crestore p a => some (encI p 0x35 0 a 0x300)
  | .tlbinv p a => some (encI p 0x35 0 a 0x400)
  | .tlbflush p sc => some (encI p 0x35 0 0 (5#4 ++ 0#5 ++ scopeCode sc))
  | .eret p => some (encI p 0x35 0 0 0x600)
  | .cwb p a i => some (encI p 0x36 0 a i)
  | .cinv p a i => some (encI p 0x36 1 a i)
  | .pref p a i => some (encI p 0x36 2 a i)
  | .trap p c => some (encI p 0x37 0 0 (0#4 ++ c))
  | .brk p => some (encI p 0x37 0 0 0x100)
  | .wfe p => some (encI p 0x37 0 0 0x200)
  | .sld p d o => some (encP p 0x38 (0#1 ++ d) 0 o)
  | .sst p d o => some (encP p 0x38 (0#1 ++ d) 1 o)
  | .gsld p n o => some (encP p 0x38 (0#2 ++ n) 2 o)
  | .gsst p n o => some (encP p 0x38 (0#2 ++ n) 3 o)
  | .fdone d a => some (encH 0 d a 0)
  | .fpoll d a => some (encH 1 d a 0)
  | .sbox a b => some (encH 2 0 a b)
  | .stationStart _ _ => none
  | .landing _ _ => none
  | .storeTakesEffect _ _ => none
  | .pageWalkComplete _ => none
  | .trapEntry _ _ _ _ _ => none
  | .asyncTrapEntry _ => none
  | .sequencerSwitch _ => none
  | .deadlockProbe _ => none
  | .launchSlotDoorbell _ _ => none
  | .launchStatusReport _ _ _ _ => none
  | .sliceBoundary => none
  | .runQueuePop _ => none
  | .localReadyListTake _ => none
  | .waitingTaskArrival _ _ _ => none
  | .sfuRequestAccept _ _ => none
  | .matrixCommandAccept _ => none
  | .matrixCommandStart _ => none
  | .matrixCommandComplete _ => none
  | .drainBandArrival _ _ _ _ _ _ => none
  | .engineFault _ _ _ _ _ _ _ _ => none
  | .copyComplete _ _ => none
  | .relayArrival _ => none
  | .permitReturn _ => none
  | .relayDescriptorWrite _ _ _ => none
  | .relayChannelEnable _ _ => none
  | .relayChannelDisable _ _ => none
  | .msgwArrival _ _ => none
  | .bankFormatWrite _ _ _ => none
  | .mailboxPost => none
  | .futureCompletion _ _ _ => none
  | .futureTimeout _ => none
  | .injectionRetry _ => none
  | .continuationPushRetry => none
  | .futureServiceMessage _ _ => none
  | .runQueueWindowPush _ _ _ => none
  | .ualinkLaunchPacket _ _ _ => none
  | .runQueueConfigWrite _ _ _ => none
  | .sliceLengthWrite _ => none
  | .vocabSlotLoad _ => none
  | .registerWrite _ _ => none
  | .hostWindowAccess _ _ _ => none
  | .homeRequest _ _ _ => none
  | .snoopInvalidation _ _ _ => none
  | .writeBackArrival _ _ => none
  | .biasFlipRequest _ _ _ => none
  | .biasFlipComplete _ => none
  | .frameGenChange _ _ _ => none
  | .migrationOpen _ _ => none
  | .migrationSwitch _ => none
  | .growRequest _ => none
  | .fshAtCellar _ _ => none
  | .cellarLoad => none
  | .keyInstall => none
  | .keyErase => none
  | .tensorLayoutValidate _ => none
  | .imageLoadRequest => none
  | .driveDma _ _ _ => none
  | .mailboxConfigWrite _ _ _ => none
  | .fcsignWrite _ _ => none
  | .capsignWrite _ _ => none
  | .ctlWrite _ _ => none
  | .afpopKeep _ => none
  | .afpopDrop _ => none
  | .preemptionRequest _ _ => none
  | .preemptionHalt _ _ => none
  | .windowConfigWrite _ _ => none
  | .linkCrcFailure _ _ _ => none
  | .laneRepairSwitch _ _ => none
  | .powerControlWrite _ => none
  | .powerCapStep => none
  | .quoteRequest _ => none
  | .packageReset => none
  | .hostelAccess _ _ _ _ _ => none
  | .portLaneError _ _ => none
  | .wfeEndWithoutEvent _ => none

end Sys2Proof
end

