-- ==== Sys2Proof/Machine/Map.lean ====
section
/-! DEFINITION. The address map: the device windows (R143, R144) and the physical ranges (R360). -/

namespace Sys2Proof.Machine

/-- The first window address (R143). -/
def winBase : Nat := 0x01FF800000000000

/-- The window location of scratchpad offset `off` of core `c` (R144). -/
def spadLoc (c off : Nat) : Nat := winBase + c * 0x80000 + off

/-- What a virtual address names for an access by `core` (R143, R144). -/
inductive Place where
  | trans
  | spad (core off : Nat)
  | fmt (core off : Nat)
  | unmapped
deriving DecidableEq, Repr

/-- The window that an address lies in (R144). -/
def placeOf (core a : Nat) : Place :=
  if a < winBase then .trans
  else if a < winBase + numCores * 0x80000 then .spad ((a - winBase) / 0x80000) ((a - winBase) % 0x80000)
  else if 0x01FF900000000000 ≤ a ∧ a < 0x01FF900000000000 + numCores * 0x1000 then
    let o := (a - 0x01FF900000000000) % 0x1000
    if o < 128 then .fmt ((a - 0x01FF900000000000) / 0x1000) o else .unmapped
  else if 0x01FFFFFFFFF7F000 ≤ a ∧ a < 0x01FFFFFFFFF7F000 + 128 then .fmt core (a - 0x01FFFFFFFFF7F000)
  else if 0x01FFFFFFFFF80000 ≤ a ∧ a < 0x0200000000000000 then .spad core (a - 0x01FFFFFFFFF80000)
  else .unmapped

/-- Device memory of R360. -/
def isDevice (pa : Nat) : Bool := decide (pa < 0xC000000000) || (decide (0x10000000000 ≤ pa) && decide (pa < 0x20000000000))

/-- Host memory of R360: bit 51. -/
def isHost (pa : Nat) : Bool := decide (2 ^ 51 ≤ pa) && decide (pa < 2 ^ 52)

/-- A physical address that a unit holds in a field of 64 bits: 52 of them are its address, so no store without addresses is reached
(R157, R360, log entry 103). -/
def phys (pa : Nat) : Nat := pa % 2 ^ 52

/-- The range is memory of R360. -/
def memRange (pa n : Nat) : Bool := (isDevice pa && isDevice (pa + (n - 1))) || (isHost pa && isHost (pa + (n - 1)))

/-- HBM4E of R360. -/
def isHbm (pa : Nat) : Bool := decide (pa < 0xC000000000)

end Sys2Proof.Machine
end

