-- ==== Sys2Proof/Machine/Bars.lean ====
section
/-! DEFINITION. The hub's regions as they are read and addressed (R348, R349, R354): BAR0's configuration space, BAR2's run-queue
windows, BAR4's device windows. The host names them by offset; the Hostel, and a kernel into whose address space one is mapped,
by the hub address that amifelia gives them. -/

namespace Sys2Proof.Machine

/-- The sizes of BAR0, BAR2 and BAR4 (R348). -/
def barSize (b : Nat) : Nat := if b = 0 then 2 ^ 20 else if b = 2 then 4096 else 2 ^ 30

/-- The BAR and the offset in it that a location names (R348). The hub addresses lie outside device memory (R360), as amifelia
chooses them (log entry 88). -/
def barOf (loc : Nat) : Option (Nat × Nat) :=
  if isDevice loc || decide (2 ^ 52 ≤ loc) then none
  else [0, 2, 4].findSome? fun b =>
    if Config.hubBar b ≤ loc ∧ loc < Config.hubBar b + barSize b then some (b, loc - Config.hubBar b) else none

/-- The boot status (R412). -/
def Boot.status (b : Boot) : Nat := b.phase + 16 * b.fail + (if b.slot then 256 else 0) + 65536 * b.fwver

/-- A byte of the identity region (R349, R412, R416). -/
def State.identity (s : State) (off : Nat) : Byte :=
  if 0x40 ≤ off ∧ off < 0x48 then byteOf s.boot.status (off - 0x40)
  else if 0x800 ≤ off ∧ off < 0x800 + numCores then
    match mget s.roles (off - 0x800) with | some r => r.index | none => 0xFF
  else Config.identityByte off

/-- The channel and doubleword of an offset in the relay descriptors (R349): none past channel 31. -/
def relayReg (o : Nat) : Option (Nat × Bool) :=
  let n := o % 0x400 / 16
  if n < 32 then some (64 * (o / 0x800) + 32 * (o / 0x400 % 2) + n, o % 16 / 8 == 1) else none

/-- A byte of the counter region (R417). -/
def State.counterByte (s : State) (o : Nat) : Byte :=
  if o < 8 then byteOf s.hubUs o
  else if o < 0x20 ∨ 0x8000 ≤ o then s.cfg.read (0x40000 + o)
  else byteOf (mgetD s.counters (o / 8 * 8) 0) (o % 8)

/-- A byte of BAR0 as it is read (R349): a doorbell is write only (R352), an unlisted offset reads as zero. -/
def State.bar0Byte (s : State) (off : Nat) : Byte :=
  if off < 0x1000 then s.identity off
  else if off < 0x1200 then (if off % 64 < 56 then s.cfg.read off else 0)
  else if 0x10000 ≤ off ∧ off < 0x11000 then
    match relayReg (off - 0x10000) with
    | some (ch, hi) =>
      let c := mgetD s.channels ch Channel.reset
      byteOf (if hi then c.d1 else c.d0).toNat (off % 8)
    | none => 0
  else if 0x40000 ≤ off ∧ off < 0x49000 then s.counterByte (off - 0x40000)
  else if (0x2000 ≤ off ∧ off < 0x2200) ∨ (0x3000 ≤ off ∧ off < 0x3010) ∨ (0x20000 ≤ off ∧ off < 0x20400) ∨
      (0x30000 ≤ off ∧ off < 0x30800) ∨ (0x80000 ≤ off ∧ off < 0xC0000) then s.cfg.read off
  else 0

/-- The status of a run-queue window (R354). -/
def RunQ.status (r : RunQ) : Nat := r.acc.toNat + 2 ^ 16 * r.ref.toNat + 2 ^ 32 * r.code.toNat

/-- A byte of BAR2 as it is read (R354): only the status of a window holds anything. -/
def State.bar2Byte (s : State) (off : Nat) : Byte :=
  let o := off % 64
  if off / 64 < 32 ∧ 32 ≤ o ∧ o < 40 then byteOf (mgetD s.runqs (off / 64) RunQ.reset).status (o - 32) else 0

/-- What an access to BAR4 reaches (R348): bytes of the scratchpads, or a whole format register (R145). -/
inductive Bar4 where
  | spad (loc : Nat)
  | fmt (core bank : Nat)
  | none
deriving DecidableEq, Repr

/-- The windows judge an access of `n` bytes by R145. -/
def bar4At (off n : Nat) : Bar4 :=
  let o := off - 0x30000000
  if n = 0 then .none
  else if off + n ≤ numCores * 0x80000 then .spad (spadLoc 0 off)
  else if 0x30000000 ≤ off ∧ o < numCores * 0x1000 ∧ o % 0x1000 < 128 ∧ o % 8 = 0 ∧ n = 8 then .fmt (o / 0x1000) (o % 0x1000 / 8)
  else .none

/-- The bytes of a read in a BAR; one that is not allowed has none that the spec states (log entry 3). -/
def State.barRead (s : State) (b off n : Nat) : List Byte :=
  if b = 0 then (List.range n).map fun i => s.bar0Byte (off + i)
  else if b = 2 then (List.range n).map fun i => s.bar2Byte (off + i)
  else match bar4At off n with
    | .spad loc => s.mem.readBytes loc n
    | .fmt core bank => leBytes (s.fmtReg core bank).toNat 8
    | .none => leBytes (Config.freeWord s.freeN).toNat n

/-- The bytes at a location: memory, or one of the hub's regions. -/
def State.locBytes (s : State) (loc n : Nat) : List Byte :=
  match barOf loc with
  | some (b, off) => s.barRead b off n
  | none => s.mem.readBytes loc n

end Sys2Proof.Machine
end

