-- ==== Sys2Proof/Machine/Agent.lean ====
section
/-! DEFINITION. The page agent's registers that act in the step of the write itself: page state records with bias flips and
generations (R364 to R366, R371), tensor layout records (R407), the power control (R424). -/

namespace Sys2Proof.Machine

/-- The page state record of frame `f`. -/
def recOf (f : Nat) : Nat := 0x1FE00000000 + 8 * f

/-- The record's value. -/
def State.pageState (s : State) (f : Nat) : Nat := s.mem.readLE (recOf f) 8

/-- A write to a sector ends the reservations of the harts in it (R110, R363). -/
def State.dropResv (s : State) (sec : Nat) : State :=
  let f (t : Hart) : Hart :=
    match t.resv with
    | some (pa, n) => if meets pa n (64 * sec) 64 then { t with resv := none } else t
    | none => t
  { s with harts := s.harts.map fun (x : Nat × Hart) => (x.1, f x.2) }

/-- A write of `n` bytes ends the reservations of the harts in its sectors (R110), by whomever it is made. -/
def State.dropResvs (s : State) (loc n : Nat) : State :=
  if s.harts.all fun x => x.2.resv.isNone then s
  else ((List.range ((loc + (n - 1)) / 64 - loc / 64 + 1)).map (loc / 64 + ·)).foldl State.dropResv s

/-! ### Homes -/

/-- The home of the line at `pa` (R361): the die whose memory it is in, or 4 for the hub, and the die agent, which is an L2
slice. -/
def homeOf (pa : Nat) : Nat × Nat :=
  let x := Nat.xor (Nat.xor (bitsOf pa 7 13) (bitsOf pa 20 13)) (bitsOf pa 33 13)
  if isHbm pa then
    let k := pa / 2 ^ 36
    if k < 2 then (0, x % 48) else if k < 4 then (1, x % 48) else if k < 8 then (2, x % 32) else (3, x % 32)
  else (4, 0)

/-- The six holders' states of a sector (R361). -/
def State.dirAt (s : State) (sec : Nat) : List Moesi := mgetD s.dir sec (List.replicate 6 .i)

/-- The state of a holder. -/
def State.dirOf (s : State) (sec h : Nat) : Moesi := nthD (s.dirAt sec) h .i

/-- The package with a holder's state replaced. -/
def State.setDir (s : State) (sec h : Nat) (st : Moesi) : State := { s with dir := mput s.dir sec ((s.dirAt sec).set h st) }

/-- The signature bit of the 64-byte block at `pa` (R362). -/
def sigBit (pa : Nat) : Nat :=
  Nat.xor (Nat.xor (bitsOf pa 6 12) (bitsOf pa 18 12)) (Nat.xor (bitsOf pa 30 12) (bitsOf pa 42 10))

/-- A holder's copy allows the access without a request: a write needs the only copy (R363). -/
def State.holds (s : State) (sec h : Nat) (excl : Bool) : Bool :=
  match s.dirOf sec h with
  | .m => true
  | .e => true
  | .o => !excl
  | .s => !excl
  | .i => false

/-- The cores of a die whose signature names the block at `pa`, but for core `but`, lose what they hold of it, in ascending order
(R362). -/
def State.invalidate (s : State) (die : Nat) (but : Option Nat) (pa : Nat) : State :=
  { s with cores := s.cores.map fun (c : Nat × Core) =>
      (c.1, if dieOf c.1 = die ∧ c.1 < numCores ∧ but ≠ some c.1 then { c.2 with sig := c.2.sig.filter (· != sigBit pa) }
        else c.2) }

/-- The location is host memory, or device memory in host bias, which devices reach through the host (R364). -/
def State.viaHost (s : State) (pa : Nat) : Bool := isHost pa || s.pageState (pa / 4096) % 2 == 1

/-- A holder gives up its copy of a sector, or with a read's snoop its sole ownership (R361, R362): the snoop leaves the cores their
copies. The host gives up its copy of a sector that it has from its home whatever the request is (R364, R367). -/
def State.surrender (s : State) (sec j : Nat) (excl : Bool) : State :=
  if excl ∨ (j = 5 ∧ !(s.viaHost (64 * sec))) then
    ((if j < 4 then s.invalidate j none (64 * sec) else if j = 4 then s.dropResv sec else s).setDir sec j .i)
  else s.setDir sec j (match s.dirOf sec j with | .m => .o | .e => .s | x => x)

/-- A sector is taken from its home, every copy recalled: by a cellar processor (R106), or for a write of the page agent. -/
def State.takeSector (s : State) (sec : Nat) : State :=
  ((List.range 6).filter fun j => s.dirOf sec j != .i).foldl (fun s j => s.surrender sec j true) s

/-- The agent writes bytes of its area or of a page table (R364, R374, R378): every copy of them is recalled, and no reservation
outlives the write (R110). -/
def State.agentBytes (s : State) (loc : Nat) (bs : List Byte) : State :=
  let secs := (List.range ((loc + (bs.length - 1)) / 64 - loc / 64 + 1)).map (loc / 64 + ·)
  let s1 := secs.foldl State.takeSector s
  { s1 with mem := s1.mem.writeBytes loc bs, harts := (s1.dropResvs loc bs.length).harts }

/-- The agent writes a field. -/
def State.agentPut (s : State) (loc n v : Nat) : State := s.agentBytes loc (leBytes v n)

/-- The agent writes a record. -/
def State.setPageState (s : State) (f v : Nat) : State := s.agentPut (recOf f) 8 v

/-- The access is to memory, which the homes keep coherent: not to a scratchpad (R361), nor to one of the hub's regions. -/
def Acc.cached (a : Acc) : Bool := decide (a.loc < 2 ^ 52) && (barOf a.loc).isNone

/-- The sectors of accesses to memory (R361). -/
def sectorsOf (accs : List Acc) : List Nat :=
  (accs.filter Acc.cached).flatMap fun a =>
    (List.range ((a.loc + (a.len - 1)) / 64 - a.loc / 64 + 1)).map fun i => a.loc / 64 + i

/-- A sector is free for a holder's request to be served at once: nothing is at its home, and its frame does not flip (R365). -/
def State.idle (s : State) (sec : Nat) : Bool := !(s.asks.any fun a => a.sec == sec) && !(s.flips.contains (sec / 64))

/-- The holder lacks one of the sectors: its request for it goes to the home, and the access waits for the grant (R363). -/
def State.blocked (s : State) (h : Nat) (excl : Bool) (secs : List Nat) : Bool := secs.any fun x => !(s.holds x h excl)

/-- The holders that lose a flipping frame (R365): the devices where the host gains it, else the host. -/
def State.losers (s : State) (f : Nat) : List Nat := if s.pageState f % 2 = 0 then [0, 1, 2, 3, 4] else [5]

/-- A request for a sector, as it arrives. -/
def State.newAsk (s : State) (who pa : Nat) (excl : Bool) (bytes : List Byte) : Ask :=
  { home := homeOf pa, sec := pa / 64, who := who, excl := excl, pa := pa, bytes := bytes, at_ := s.now,
    adm := !(s.flips.contains (pa / 4096)) || who == 5 || who == 6, begun := false, acks := [], granted := false }

/-- The recalls that frame `f` still needs: a sector that a loser holds, with no recall of it under way (R365, R366). -/
def State.recalls (s : State) (f : Nat) : List Ask :=
  (s.dir.filter fun e => e.1 / 64 == f && ((s.losers f).any fun h => s.dirOf e.1 h != .i) &&
    !(s.asks.any fun a => a.sec == e.1 && a.who == 6)).map fun e => s.newAsk 6 (64 * e.1) true []

/-- The end of a flip is looked for later. -/
def State.flipLater (s : State) (f : Nat) : State :=
  let d := s.delay
  d.2.at_ (d.2.now + 1 + d.1) (.biasFlipComplete f)

/-- A flip starts (R365): busy is set, new device requests wait, and the copies of the side that loses the frame are recalled. -/
def State.flipStart (s : State) (f : Nat) : State :=
  let v := s.pageState f
  if v % 2 ≠ v / 2 % 2 ∧ v / 4 % 2 = 0 ∧ v / 8 % 2 = 0 then
    let s1 := s.setPageState f (v + 4)
    ({ s1 with flips := s1.flips ++ [f], asks := s1.asks ++ s1.recalls f } : State).flipLater f
  else s

/-- BIAS_FLIP_COMPLETE (R365, R366): once no request that was admitted is at the frame's homes and the losers hold nothing of it,
bias takes the other value, busy clears, the requests that waited proceed, and a request changed meanwhile starts a new flip.
Before that the flip goes on: what the losers have come to hold again is recalled. -/
def State.flipEnd (s : State) (f : Nat) : State :=
  if s.flips.contains f then
    if (s.asks.any fun a => a.sec / 64 == f && a.adm) || !(s.recalls f).isEmpty then
      ({ s with asks := s.asks ++ s.recalls f } : State).flipLater f
    else
      let v := s.pageState f
      (({ s with flips := s.flips.filter (· != f),
                 asks := s.asks.map fun a => if a.sec / 64 == f then { a with adm := true } else a } : State).setPageState f
        (v / 8 * 8 + v / 2 % 2 * 2 + (1 - v % 2))).flipStart f
  else s

/-! ### Page state records -/

/-- A write of a page state record (R364): req and gen take the written bits, the other fields are put back and the
event counted; a request unlike bias starts a flip. -/
def State.pageRecWrite (s : State) (f old new : Nat) : State :=
  let keep := new / 2 % 2 * 2 + new / 16 % 4096 * 16
  let ro := old % 2 + old / 4 % 4 * 4
  let s1 := s.setPageState f (keep + ro)
  let s2 := if new ≠ keep + ro then s1.count 0x188 1 else s1
  s2.flipStart f

/-- The tensor layout record of handle `h` (R407). -/
def tensorRec (h : Nat) : Nat := 0x1FF61000000 + 64 * h

/-- A tensor layout record fails in the cases of R407. -/
def State.tensorBad (s : State) (h : Nat) : Bool :=
  let b := tensorRec h
  let base := s.mem.readLE b 8
  let rows := s.mem.readLE (b + 8) 4
  let rlen := s.mem.readLE (b + 12) 4
  let stride := sInt64 (s.mem.readLE (b + 16) 8)
  let fmt := (s.mem.read (b + 28)).toNat
  decide (base % 128 ≠ 0) || decide (rlen % 128 ≠ 0) || decide (stride % 128 ≠ 0) ||
  (decide (1 < rows) && decide (stride.natAbs < rlen)) || decide (rows = 0) ||
  (decide (12 ≤ fmt) && decide (fmt < 15)) || decide (15 < fmt) ||
  decide (s.mem.readLE (b + 24) 4 / 2 ^ 20 ≠ 0) || decide (s.mem.readLE (b + 29) 1 / 2 ≠ 0) ||
  decide (s.mem.readLE (b + 30) 2 ≠ 0) || decide (s.mem.readLE (b + 40) 8 ≠ 0) || decide (s.mem.readLE (b + 48) 8 ≠ 0) ||
  decide (s.mem.readLE (b + 56) 8 ≠ 0)
where
  /-- A signed doubleword. -/
  sInt64 (v : Nat) : Int := if v < 2 ^ 63 then v else (v : Int) - (2 ^ 64 : Nat)

/-- The agent checks a record whose valid bit was set: one that fails loses it and is counted (R407). -/
def State.tensorValidate (s : State) (h : Nat) : State :=
  if (s.mem.read (tensorRec h + 29)).toNat % 2 = 1 ∧ s.tensorBad h then
    ({ s with mem := s.mem.write (tensorRec h + 29) (s.mem.read (tensorRec h + 29) &&& 0xFE) } : State).count 0x1A0 1
  else s

/-- A write of the power control (R424): discarded and counted when the cap is out of range or a reserved bit is set; the
measured fields are put back; with capping off every throttle returns to 0 (R425). -/
def State.powerWrite (s : State) (v : Nat) : State :=
  let old := s.mem.readLE powerCtl 8
  let cap := v % 4096
  if cap < 600 ∨ 2800 < cap ∨ v / 2 ^ 13 % 8 ≠ 0 ∨ v / 2 ^ 28 % 16 ≠ 0 ∨ v / 2 ^ 40 ≠ 0 then s.count 0x188 1
  else
    let ro := old / 2 ^ 16 % 4096 * 2 ^ 16 + old / 2 ^ 32 % 256 * 2 ^ 32
    let s1 : State := { s with mem := s.mem.writeLE powerCtl 8 (v % 2 ^ 13 + ro) }
    let s2 := if v / 2 ^ 13 ≠ old / 2 ^ 13 then s1.count 0x188 1 else s1
    if v / 4096 % 2 = 0 then { s2 with power := { s2.power with level := [], steps := [] } } else s2

end Sys2Proof.Machine
end

