-- ==== Sys2Proof/Machine/Health.lean ====
section
/-! DEFINITION. Error events (R417 to R420): the windowed count that makes a unit lasting, the health log, the marks that
the next reset acts on. -/

namespace Sys2Proof.Machine

/-- The window configuration of a class: events and window in µs; the reset values where none was written (R419). -/
def State.windowCfg (s : State) (cls : Nat) : Nat × Nat :=
  let v := s.cfgLE (0x40008 + 8 * cls) 8
  if v = 0 then (16, 86400 * 1000000) else (bitsOf v 0 8, bitsOf v 8 24 * 1000000)

/-- The offset of health log entry `i` (R417). -/
def logOff (i : Nat) : Nat := 0x48000 + 16 * i

/-- The log entry of a unit, if one stands. -/
def State.logFind (s : State) (cls u idx : Nat) : Option Nat :=
  (List.range 256).find? fun i =>
    s.cfgLE (logOff i + 1) 1 ≠ 0 ∧ s.cfgLE (logOff i) 1 = cls ∧ s.cfgLE (logOff i + 2) 2 = u ∧ s.cfgLE (logOff i + 4) 4 = idx

/-- Where a new entry goes (R421): the first free one, else the oldest in state 2 or 4. -/
def State.logPlace (s : State) : Option Nat :=
  match (List.range 256).find? fun i => s.cfgLE (logOff i + 1) 1 = 0 with
  | some i => some i
  | none =>
    ((List.range 256).filter fun i => s.cfgLE (logOff i + 1) 1 = 2 ∨ s.cfgLE (logOff i + 1) 1 = 4).foldl
      (fun best i => match best with
        | none => some i
        | some j => if s.cfgLE (logOff i + 8) 8 < s.cfgLE (logOff j + 8) 8 then some i else some j) none

/-- A state change of a unit is logged (R421): in its own entry, or in a new one. -/
def State.log (s : State) (cls st u idx : Nat) : State :=
  match (match s.logFind cls u idx with | some i => some i | none => s.logPlace) with
  | none => s
  | some i =>
    let entry := leBytes cls 1 ++ leBytes st 1 ++ leBytes u 2 ++ leBytes idx 4 ++ leBytes s.hubUs 8
    { s with cfg := s.cfg.writeBytes (logOff i) entry }

/-- What becomes of a unit that turns lasting (R420): a die link's lane waits for its spare, a bank or core is marked for
retirement. A port's lane is dealt with by its own step. -/
def State.makeLasting (s : State) (cls u idx : Nat) : State :=
  let s := { s with lasting := s.lasting ++ [(cls, u, idx)] }
  if cls = 0 then
    let s := s.log 0 1 u idx
    if 26 ≤ u ∧ u ≤ 33 then
      { s with links := mupd s.links u Link.reset fun l =>
        { l with waiting := l.waiting ++ [idx] } }
    else s
  else
    let s := s.log cls 3 u idx
    { s with boot := { s.boot with marked := s.boot.marked ++ [(cls, u, idx)] } }

/-- One event on unit `idx` of class `cls` within data unit `u` (R419): stamped, and judged against the class count. -/
def State.errorEvent (s : State) (cls u idx : Nat) : State :=
  let key := (cls * 64 + u) * 2 ^ 32 + idx
  let ts := (s.hubUs :: mgetD s.stamps key []).take 255
  let s := { s with stamps := mput s.stamps key ts }
  let w := s.windowCfg cls
  if w.1 ≤ (ts.filter fun t => s.hubUs ≤ t + w.2).length ∧ !(s.lasting.contains (cls, u, idx)) then
    s.makeLasting cls u idx
  else s

/-- The first location of the accumulator stores: 4 MiB for each engine (log entry 44). -/
def accBase : Nat := 2 ^ 60

/-- The data unit of a location (R417): a stack, LPDDR-6, the scratchpads of a die, or its accumulator stores. -/
def unitOf (loc : Nat) : Nat :=
  if loc < 0xC000000000 then loc / 0x1000000000
  else if loc < 2 ^ 52 then 12
  else if accBase ≤ loc then 21 + dieOf (8 * ((loc - accBase) / 2 ^ 22))
  else 17 + dieOf ((loc - 0x01FF800000000000) / 0x80000)

/-- The bank of a location within its data unit: a scratchpad bank of R146, or the channel of R400 (log entry 40). -/
def bankOf (loc : Nat) : Nat :=
  if loc < 0xC000000000 then Nat.xor (bitsOf loc 8 6) (bitsOf loc 14 6)
  else if loc < 2 ^ 52 then Nat.xor (bitsOf loc 8 4) (bitsOf loc 12 4)
  else if accBase ≤ loc then (loc - accBase) / 16384
  else (loc - 0x01FF800000000000) / 0x8000

/-- The protected unit of a location (R418): a sector of memory, a scratchpad granule, an accumulator row. -/
def protUnit (loc : Nat) : Nat × Nat :=
  if loc < 2 ^ 52 then (loc / 64 * 64, 64) else if accBase ≤ loc then (loc / 512 * 512, 512) else (loc / 16 * 16, 16)

/-- An uncorrectable error strikes: the storage's own, or that of a cache's copy (log entry 53). -/
def State.upset (s : State) (loc u : Nat) (bank : Option Nat) : State :=
  let p := protUnit loc
  if s.bad.any fun b => b.loc == p.1 && b.met.isNone then s
  else { s with bad := s.bad.filter (fun b => b.loc != p.1) ++ [⟨p.1, p.2, u, bank, none⟩] }

/-- A correctable error (R417 to R419): corrected in place, counted, and an event of its bank. -/
def State.corrected (s : State) (u : Nat) (bank : Option Nat) : State :=
  let s1 := s.count (0x1000 + 16 * u) 1
  match bank with
  | some b => s1.errorEvent 1 u b
  | none => s1

/-- The number of a hart among the consumers of lost data. -/
def hartKey (h : Nat) : Nat := 2 ^ 20 + h

/-- A count of lost units, which saturates (R381). -/
def satAdd (v : Word) (n : Nat) : Word := BitVec.ofNat 64 (Nat.min (v.toNat + n) (2 ^ 64 - 1))

/-- A consumer counts a lost unit (R418): a context in its derr, a hart in the log. -/
def State.countLost (s : State) (k : Nat) : State :=
  if 2 ^ 20 ≤ k then { s with hartErrs := mupd s.hartErrs (k - 2 ^ 20) 0 (· + 1) }
  else s.updCtx k fun c => { c with derr := satAdd c.derr 1 }

/-- A read by the consumers `ks` meets a bad unit (R418): the unit is rewritten as zeros, a lost full-empty bit reads as empty, the
event is counted once, and each consumer counts it; another read of that cycle counts for its own consumers only. -/
def State.meetBad (s : State) (ks : List Nat) (b : Bad) : State :=
  let s1 :=
    if b.met.isSome then s
    else
      let s := { s with mem := s.mem.writeBytes b.loc (List.replicate b.size 0) }
      let s := if 2 ^ 52 ≤ b.loc ∧ b.loc < accBase then s.clrFull ((b.loc - 0x01FF800000000000) / 0x80000)
        ((b.loc - 0x01FF800000000000) % 0x80000 / 16) else s
      let s := s.count (0x1008 + 16 * b.unit) 1
      match b.bank with
      | some i => s.errorEvent 1 b.unit i
      | none => s
  let old := b.met.getD []
  let new := (ks.filter fun k => !(old.contains k)).eraseDups
  let s2 := { s1 with bad := s1.bad.map fun x => if x == b then { b with met := some (old ++ new) } else x }
  new.foldl State.countLost s2

/-- A read of `n` bytes at `loc`, attributed to the consumers `ks`, meets the uncorrectable errors there (R418). -/
def State.scrub (s : State) (ks : List Nat) (loc n : Nat) : State :=
  match s.bad.filter fun b => meets b.loc b.size loc n with
  | [] => s
  | hit => hit.foldl (fun s b => s.meetBad ks b) s

/-- A read by word `id` of berth `k`: a word older than the trap entry counts in the derr of that entry too (R329, R418). -/
def State.scrubFor (s : State) (k id loc n : Nat) : State :=
  let s1 := s.scrub [k] loc n
  let lost (s : State) : Nat := (s.ctxAt k).elim 0 fun c => c.derr.toNat
  if lost s = lost s1 then s1
  else s1.updCtx k fun c => c.older id fun e => { e with derr := satAdd e.derr (lost s1 - lost s) }

end Sys2Proof.Machine
end

