-- ==== Sys2Proof/Machine/Homes.lean ====
section
/-! DEFINITION. Writes to memory with the page agent's reserved area (R364); access counters and the opening of a migration (R374
to R376); requests at the homes and what their grant leaves at the holders (R361 to R363). Memory is one image: what a holder's
copy would hold is what memory reads as (log entry 53). -/

namespace Sys2Proof.Machine

/-! ### Writes to memory -/

/-- The reserved page-agent area (R360). -/
def reserved (loc : Nat) : Bool := decide (0x1FE00000000 ≤ loc) && decide (loc < 0x20000000000)

/-- The page agent applies a write of one doubleword of the reserved area (R364): fields marked RO are put back and the
event counted, a request starts its step. -/
def State.agentWord (s : State) (d old new : Nat) : State :=
  let raw (s : State) (v : Nat) : State := { s with mem := s.mem.writeLE d 8 v }
  if d < 0x1FF00000000 then
    -- page state records
    if old = new then s else s.pageRecWrite ((d - 0x1FE00000000) / 8) old new
  else if d = 0x1FF50010000 then
    let s1 := raw s (new % 256 + old / 256 % 2 * 256 + old / 65536 % 65536 * 65536)
    let s2 := if new / 256 ≠ old / 256 then s1.count 0x188 1 else s1
    if new / 128 % 2 = 1 ∧ old / 128 % 2 = 0 then s2.at_ s.now .cellarLoad else s2
  else if d = 0x1FF60000000 then
    let s1 := raw s new
    if new / 65536 % 256 = 0 then s1
    else if new / 65536 % 256 = 2 then s1.at_ s.now .keyErase else s1.at_ s.now .keyInstall
  else if 0x1FF61000000 ≤ d ∧ d < 0x1FF61000000 + 64 * 4096 then
    let s1 := raw s new
    if d % 64 = 24 ∧ new / 2 ^ 40 % 2 = 1 ∧ old / 2 ^ 40 % 2 = 0 then
      s1.tensorValidate ((d - 0x1FF61000000) / 64)
    else s1
  else if 0x1FF00000000 ≤ d ∧ d < 0x1FF40000000 ∧ d % 32 ≠ 16 then (if old = new then s else s.count 0x188 1)
  else if ageCaps ≤ d ∧ d < ageCaps + 8 * 13 then
    let s1 := raw s (new % 65536)
    if new / 65536 ≠ 0 then s1.count 0x188 1 else s1
  else if d = powerCtl then s.powerWrite new
  else if 0x1FF71000100 ≤ d ∧ d < 0x1FF71000100 + 8 * 24 then (if old = new then s else s.count 0x188 1)
  else if 0x1FF80000000 ≤ d ∧ d < 0x1FF80000040 then
    if s.mem.readLE 0x1FF80000014 1 ≠ 0 ∧ s.mem.readLE 0x1FF80000015 1 = 0 then s.count 0x1A8 1
    else
      let s1 := raw s new
      if d = 0x1FF80000010 ∧ new / 2 ^ 32 % 256 ≠ 0 then s1.at_ s.now .imageLoadRequest else s1
  else raw s new

/-- The doublewords that a byte range touches. -/
def dwordsOf (loc n : Nat) : List Nat :=
  (List.range ((loc + n + 7) / 8 - loc / 8)).map fun i => 8 * (loc / 8 + i)

/-- A write to a region in its dual-home window is mirrored into the new frame (R376, R402). -/
def State.mirror (s : State) (loc : Nat) (bs : List Byte) : State :=
  s.windows.foldl (fun s w =>
    let lo := 65536 * w.1
    let a := Nat.max lo loc
    if meets loc bs.length lo 65536 then
      { s with mem := s.mem.writeBytes (w.2.frame + (a - lo)) ((bs.drop (a - loc)).take (lo + 65536 - a)) }
    else s) s

/-- A write of bytes takes effect at a location. A write that covers a bad unit whole replaces it (R418); a write in the
reserved area is the page agent's (R364); one to a region of the hub goes there (R348, R351). -/
def State.memWrite (s : State) (loc : Nat) (bs : List Byte) : State :=
  if reserved loc then
    let raw := s.mem.writeBytes loc bs
    (dwordsOf loc bs.length).foldl (fun s d => s.agentWord d (s.mem.readLE d 8) (raw.readLE d 8)) (s.dropResvs loc bs.length)
  else
    match barOf loc with
    | some (b, off) => { s with posted := s.posted ++ [(b, off, bs)] }
    | none =>
      ({ s with mem := s.mem.writeBytes loc bs, harts := (s.dropResvs loc bs.length).harts,
                bad := s.bad.filter fun b => decide (b.loc < loc) || decide (loc + bs.length < b.loc + b.size) } : State).mirror loc bs

/-! ### Access counters -/

/-- The 64 KiB region's counter record (R374). -/
def ctrRec (region : Nat) : Nat := 0x1FF00000000 + 32 * region

/-- The migration controls (R374). -/
def migCtl : Nat := 0x1FF40000000

/-- A notification record is posted, or dropped for a full ring (R374). -/
def State.notify (s : State) (region type who count : Nat) : State :=
  let size := s.mem.readLE (migCtl + 16) 4
  let prod := s.mem.readLE (migCtl + 20) 4
  let cons := s.mem.readLE (migCtl + 24) 4
  if size ≤ (prod + 2 ^ 32 - cons) % 2 ^ 32 then
    s.agentPut (migCtl + 28) 4 (Nat.min (s.mem.readLE (migCtl + 28) 4 + 1) (2 ^ 32 - 1))
  else
    let rec_ := leBytes (65536 * region) 8 ++ leBytes type 1 ++ leBytes who 1 ++ leBytes count 2 ++ leBytes 0 4
    (s.memWrite (phys (s.mem.readLE (migCtl + 8) 8 + 16 * (prod % size))) rec_).agentPut (migCtl + 20) 4 ((prod + 1) % 2 ^ 32)

/-- The die that holds a frame (R360); none for the hub's memory. -/
def dieHolding (pa : Nat) : Option Nat :=
  if isHbm pa then some (if pa / 2 ^ 36 < 2 then 0 else if pa / 2 ^ 36 < 4 then 1 else if pa / 2 ^ 36 < 8 then 2 else 3)
  else none

/-- The frames of a region, as numbers of 4 KiB. -/
def regionFrames (region : Nat) : List Nat := (List.range 16).map (16 * region + ·)

/-- The die controls' fields (R374). -/
def dieCtl (d : Nat) : Nat := migCtl + 64 + 32 * d

/-- The counter of a holder in a region's record (R374). -/
def State.hits (s : State) (region j : Nat) : Nat := s.mem.readLE (ctrRec region + 2 * j) 2

/-- The count of die `h` calls for the region (R375): the threshold is reached, and twice the count of the die that holds it. -/
def State.calledFor (s : State) (region h : Nat) : Bool :=
  let t := s.mem.readLE migCtl 4
  let own := dieHolding (65536 * region)
  decide (t ≠ 0) && decide (h < 4) && decide (t ≤ s.hits region h) && decide (own ≠ some h) &&
  decide (2 * (match own with | some d => s.hits region d | none => 0) ≤ s.hits region h)

/-- A frame's record has the greatest generation (R375). -/
def State.genSpent (s : State) (f : Nat) : Bool := s.pageState f / 16 % 4096 == 4095

/-- The conditions under which the region may go to the die (R375). -/
def State.mayMigrate (s : State) (region die : Nat) : Bool :=
  decide (s.mem.readLE (ctrRec region + 16) 8 ≠ 0) &&
  (regionFrames region).all (fun f => s.pageState f % 16 == 0 && !(s.genSpent f)) &&
  decide (s.mem.readLE (dieCtl die + 8) 4 ≠ 0) &&
  decide (s.mem.readLE (dieCtl die + 24) 4 < s.mem.readLE (dieCtl die + 28) 4)

/-- The counters of all six holders are cleared (R375). -/
def State.clearHits (s : State) (region : Nat) : State := s.agentPut (ctrRec region) 12 0

/-- MIGRATION_OPEN (R375, R376, step 1): where the count calls for it and every condition holds, a frame leaves the die's free
array, dual is set in the region's records, and the counters are cleared. -/
def State.migrationOpen (s : State) (region die : Nat) : State :=
  if s.calledFor region die = false ∨ s.mayMigrate region die = false ∨ (mget s.windows region).isSome = true then s
  else
    let n := s.mem.readLE (dieCtl die + 8) 4
    let f := phys (s.mem.readLE (phys (s.mem.readLE (dieCtl die) 8 + 8 * (n - 1))) 8)
    let line := phys (s.mem.readLE (ctrRec region + 16) 8)
    let gen := s.pageState (16 * region) / 16 % 4096
    let s1 := s.agentPut (dieCtl die + 8) 4 (n - 1)
    let s2 := (regionFrames region).foldl (fun s x => s.setPageState x (s.pageState x + 8)) s1
    let t := s2.delay
    let w : Window := { frame := f, die := die, line := line, gen := gen, copied := 0, fenced := false, due := s.now + 1 + t.1 }
    ({ t.2 with windows := mput t.2.windows region w } : State).clearHits region

/-- A counter of a region has been raised (R375). -/
def State.hotRegion (s : State) (region h : Nat) : State :=
  if h = 5 then
    let th := s.mem.readLE (migCtl + 4) 4
    if th ≠ 0 ∧ th ≤ s.hits region 5 then (s.notify region 3 5 (s.hits region 5)).agentPut (ctrRec region + 10) 2 0 else s
  else if s.calledFor region h = false then s
  else if (regionFrames region).any fun f => s.pageState f % 2 == 1 then (s.notify region 2 h (s.hits region h)).clearHits region
  else if (regionFrames region).any s.genSpent then (s.notify region 4 h (s.hits region h)).clearHits region
  else s.migrationOpen region h

/-- A request that reaches a home is counted (R374). -/
def State.countAccess (s : State) (h pa : Nat) : State :=
  let region := pa / 65536
  if isHost pa then
    if h = 5 then s
    else
      let n := Nat.min (mgetD s.hostHot region 0 + 1) 65535
      let tab := if s.hostHot.length < 1024 ∨ (mget s.hostHot region).isSome = true then s.hostHot
        else match s.hostHot.foldl (fun (b : Option (Nat × Nat)) x => match b with
            | none => some x
            | some y => if x.2 < y.2 then some x else some y) none with
          | some y => mdel s.hostHot y.1
          | none => s.hostHot
      let s1 : State := { s with hostHot := mput tab region n }
      let t := s.mem.readLE migCtl 4
      if t ≠ 0 ∧ n = t then s1.notify region 1 h n else s1
  else if !(isDevice pa) then s
  else
    let o := ctrRec region + 2 * h
    (s.agentPut o 2 (Nat.min (s.mem.readLE o 2 + 1) 65535)).hotRegion region h

/-! ### Holders -/

/-- The holders that must answer before a request is granted (R363 to R365): the host whenever it has a copy from the home
(R364). -/
def State.needs (s : State) (a : Ask) : List Nat :=
  let owns (j : Nat) : Bool := match s.dirOf a.sec j with | .m => true | .o => true | .e => true | .s => j == 5 | .i => false
  if a.who = 6 then (s.losers (a.sec / 64)).filter fun j => s.dirOf a.sec j != .i
  else
    let l := (List.range 6).filter fun j => j != a.who && (if a.excl then s.dirOf a.sec j != .i else owns j)
    if a.who ≠ 5 ∧ s.viaHost a.pa ∧ !(l.contains 5) then l ++ [5] else l

/-- The state that a granted holder takes (R363): M for the only copy, E for a read that finds no other, else S. -/
def State.take (s : State) (sec h : Nat) (excl : Bool) : State :=
  if excl then s.setDir sec h .m
  else if (List.range 6).all fun j => j == h || s.dirOf sec j == .i then s.setDir sec h .e
  else if s.dirOf sec h = .i then s.setDir sec h .s
  else s

/-- The list without the first occurrence of a request. -/
def dropAsk (a : Ask) : List Ask → List Ask
  | [] => []
  | b :: r => if b = a then r else b :: dropAsk a r

/-- A request changed where it stands. -/
def putAsk (a b : Ask) : List Ask → List Ask
  | [] => []
  | x :: r => if x = a then b :: r else x :: putAsk a b r

/-- The same-cycle requests of a sector stand in ascending holder number (R363). -/
def insAsk (a : Ask) : List Ask → List Ask
  | [] => [a]
  | b :: r =>
    if b.sec = a.sec ∧ b.at_ = a.at_ ∧ !b.begun ∧ a.who < b.who then a :: b :: r else b :: insAsk a r

/-- A holder's requests for the sectors that it lacks are counted and stand at their homes, each once (R363, R374). -/
def State.queueAsks (s : State) (h : Nat) (excl : Bool) (secs : List Nat) : State :=
  secs.foldl (fun s x =>
    if s.holds x h excl ∨ (s.asks.any fun a => a.sec == x && a.who == h && (a.excl || !excl)) = true then s
    else
      let s1 := s.countAccess h (64 * x)
      { s1 with asks := insAsk (s1.newAsk h (64 * x) excl []) s1.asks }) s

/-- A holder writes a sector of which it has the only copy (R361). -/
def State.dirty (s : State) (h sec : Nat) : State := if s.dirOf sec h = .e then s.setDir sec h .m else s

/-- A holder's access to sectors that it has (R361): a write leaves them modified. -/
def State.ownAll (s : State) (h : Nat) (excl : Bool) (secs : List Nat) : State :=
  if excl then secs.foldl (fun s x => s.dirty h x) s else s

end Sys2Proof.Machine
end

