-- ==== Sys2Proof/Machine/Mmu.lean ====
section
/-! DEFINITION. Addresses: page tables and walks (R368 to R370), generations (R371),
grow requests (R378), and the checks of R240 in their order. -/

namespace Sys2Proof.Machine

/-- A trap's cause code and report (R382). -/
structure Trap where
  cause : Nat
  tval : Word
  tinfo : Word
deriving DecidableEq, Repr

/-- The page state record of a frame (R364). -/
def pageRec (pa : Nat) : Nat := 0x1FE00000000 + 8 * (pa / 4096)

/-- The current generation of the frame of `pa` (R364, R371). -/
def State.frameGen (s : State) (pa : Nat) : BitVec 12 := BitVec.ofNat 12 (s.mem.readLE (pageRec pa) 8 / 16)

/-- How a walk ends (R370). -/
inductive Walk where
  | leaf (t : Tlb)
  /-- A grow-on-demand entry: its location and the descriptor it names (R369, R378). -/
  | grow (pte : Nat) (desc : Nat)
  | page
  | malformed
deriving DecidableEq, Repr

/-- A field of a page-table entry. -/
def pteFld (e lo n : Nat) : Nat := bitsOf e lo n

/-- The leaf entry's translation of the page at `base` (R369). -/
def leafTlb (e asid base size : Nat) : Tlb :=
  { asid := asid, base := base, size := size, pa := pteFld e 20 40 * 4096, gen := BitVec.ofNat 12 (pteFld e 8 12),
    r := pteFld e 2 1 == 1, w := pteFld e 3 1 == 1, x := pteFld e 4 1 == 1, u := pteFld e 5 1 == 1 }

/-- The 16 entries of a 64 KiB group agree (R368). -/
def groupOk (mem : Mem) (line : Nat) : Bool :=
  let e0 := mem.readLE line 8
  pteFld e0 20 40 % 16 == 0 &&
  (List.range 16).all fun i => mem.readLE (line + 8 * i) 8 == e0 + i * 2 ^ 20

/-- The end of a walk at a valid leaf (R368 to R370). -/
def leafEnd (mem : Mem) (asid va level loc e : Nat) : Walk :=
  let size := if level = 2 then 2 ^ 30 else if level = 1 then 2 ^ 21 else 4096
  let pa := pteFld e 20 40 * 4096
  if pteFld e 60 4 ≠ 0 ∨ level = 3 ∨ pa % size ≠ 0 ∨ !(isDevice pa || isHost pa) ∨
      (pteFld e 3 1 = 1 ∧ pteFld e 2 1 = 0) ∨ (level ≠ 0 ∧ pteFld e 6 1 = 1) then .malformed
  else if pteFld e 6 1 = 1 then
    if groupOk mem (loc / 128 * 128) then
      .leaf (leafTlb (mem.readLE (loc / 128 * 128) 8) asid (va / 65536 * 65536) 65536)
    else .malformed
  else .leaf (leafTlb e asid (va / size * size) size)

/-- The walk from the table at `tab` at `level` down (R368 to R370). -/
def walkFrom (mem : Mem) (asid va : Nat) : Nat → Nat → Walk
  | level, tab =>
    let lo := if level = 3 then 42 else if level = 2 then 30 else if level = 1 then 21 else 12
    let n := if level = 3 then 15 else if level = 2 then 12 else 9
    let loc := tab + 8 * bitsOf va lo n
    let e := mem.readLE loc 8
    if !(isDevice tab) ∨ tab % (8 * 2 ^ n) ≠ 0 then .malformed
    else if pteFld e 0 1 = 0 then
      if level = 0 ∧ pteFld e 7 1 = 1 then .grow loc (e / 256 * 256) else .page
    else if pteFld e 1 1 = 1 then leafEnd mem asid va level loc e
    else match level with
      | 0 => .malformed
      | l + 1 =>
        if pteFld e 2 18 ≠ 0 ∨ pteFld e 60 4 ≠ 0 then .malformed
        else walkFrom mem asid va l (pteFld e 20 40 * 4096)

/-- The four-level walk of R368. -/
def State.walk (s : State) (root asid va : Nat) : Walk := walkFrom s.mem asid va 3 root

/-- The locations that a walk reads (R361, R368): its entries, and the line of a 64 KiB page. -/
def walkReads (mem : Mem) (va : Nat) : Nat → Nat → List Nat
  | level, tab =>
    let lo := if level = 3 then 42 else if level = 2 then 30 else if level = 1 then 21 else 12
    let n := if level = 3 then 15 else if level = 2 then 12 else 9
    let loc := tab + 8 * bitsOf va lo n
    let e := mem.readLE loc 8
    if !(isDevice tab) ∨ tab % (8 * 2 ^ n) ≠ 0 then []
    else if pteFld e 0 1 = 0 then [loc]
    else if pteFld e 1 1 = 1 then (if level = 0 ∧ pteFld e 6 1 = 1 then [loc / 128 * 128, loc / 128 * 128 + 64] else [loc])
    else match level with
      | 0 => [loc]
      | l + 1 => if pteFld e 2 18 ≠ 0 ∨ pteFld e 60 4 ≠ 0 then [loc] else loc :: walkReads mem va l (pteFld e 20 40 * 4096)

/-- The sectors that a walk reads. -/
def State.walkSecs (s : State) (root va : Nat) : List Nat := (walkReads s.mem va 3 root).map (· / 64)

/-- A walk's reads meet uncorrectable errors (R418); they are no context's accesses (R89). -/
def State.walkScrub (s : State) (root va : Nat) : State := (walkReads s.mem va 3 root).foldl (fun s a => s.scrub [] a 8) s

/-- The leaf allows the access (R369, R370); unprivileged code needs u. -/
def Tlb.allows (t : Tlb) (w : Want) (priv : Bool) : Bool :=
  match w with
  | .cache => true
  | .read => t.r && (priv || t.u)
  | .write => t.r && t.w && (priv || t.u)
  | .fetch => t.x && (priv || t.u)

/-- The cached translation of `va` in a core (R370). -/
def Core.tlbFind (c : Core) (asid va : Nat) : Option Tlb :=
  c.tlb.find? fun t => t.asid == asid && decide (t.base ≤ va) && decide (va < t.base + t.size)

/-- tinfo of codes 11 and 12 (R382): write, the cause's own bit, the cell or lane. -/
def faultInfo (w : Want) (bit1 : Bool) (lane : Nat) : Word :=
  BitVec.ofNat 64 ((if w = .write then 1 else 0) + (if bit1 then 2 else 0) + 4 * (lane % 64))

/-- A translation's result. -/
inductive Xl where
  | ok (pa : Nat) (gen : BitVec 12)
  | miss
  | fault (cause : Nat) (bit1 : Bool)
  | grow (pte desc : Nat)
deriving DecidableEq, Repr

/-- What a translation gives for one address (R240). -/
def Tlb.use (t : Tlb) (va : Nat) (w : Want) (priv : Bool) : Xl :=
  if t.allows w priv then .ok (t.pa + (va - t.base)) t.gen else .fault 12 false

/-- Translation at S: the core's TLB, a miss where it has no entry (R241). -/
def State.xlateS (s : State) (va : Nat) (w : Want) : Xl :=
  match (s.coreAt s.core).tlbFind s.ctx.asid.toNat va with
  | some t => t.use va w s.ctx.priv
  | none => .miss

/-- What a walk gives for one address. -/
def Walk.use (w : Walk) (va : Nat) (want : Want) (priv : Bool) : Xl :=
  match w with
  | .leaf t => t.use va want priv
  | .grow pte desc => if want = .write then .grow pte desc else .fault 11 false
  | .page => .fault 11 false
  | .malformed => .fault 12 true

/-- Translation by the core's TLB where it holds the page, else by a walk, whose sectors the die has from the homes: it is tried
again where it lacks one (R361, R365). -/
def State.xlateIn (s : State) (core root asid va : Nat) (want : Want) (priv : Bool) : State × Xl :=
  match (s.coreAt core).tlbFind asid va with
  | some t => (s, t.use va want priv)
  | none =>
    let secs := s.walkSecs root va
    if s.blocked (dieOf core) false secs then (s.queueAsks (dieOf core) false secs, .miss)
    else
      let s1 := s.walkScrub root va
      (s1, (s1.walk root asid va).use va want priv)

/-- A privileged walk of the hub's units, with no TLB (R215): where the frame's generation is another one, the access is refused and
made again (R371). -/
def State.xlateHub (s : State) (root asid va : Nat) (want : Want) (priv : Bool) : Xl :=
  if va < winBase then
    match (s.walk root asid va).use va want priv with
    | .ok pa gen => if isDevice pa && s.frameGen pa != gen then .miss else .ok pa gen
    | x => x
  else .fault 12 false

/-- The page agent's answer to a grow request (R378). -/
inductive GrowAns where
  | mapped | empty | malformed
  /-- An access of the agent was refused by its generation (R371): it is made again. -/
  | later
deriving DecidableEq, Repr

/-- The 16 entries that map a region to frame `f` (R378). -/
def growLine (f : Nat) (gen : BitVec 12) : List Byte :=
  (List.range 16).flatMap fun i => leBytes (0x6F + 256 * gen.toNat + (f / 4096 + i) * 2 ^ 20) 8

/-- A 64 KiB-aligned frame of device memory outside the reserved area (R360, R378). -/
def goodFrame (f : Nat) : Bool := f % 65536 == 0 && isDevice f && decide (f < 0x1FE00000000)

/-- The page agent applies a grow request (R378): the entry's location, the descriptor, the address space that holds it. -/
def State.growApply (s : State) (root asid pte desc : Nat) : State × GrowAns :=
  let line := pte / 128 * 128
  if pteFld (s.mem.readLE pte 8) 0 1 = 1 then (s, .mapped)
  else
    match s.xlateHub root asid (desc + 32) .read true with
    | .miss => (s, .later)
    | .ok pc _ =>
      let n := s.mem.readLE pc 4
      if n = 0 then (s, .empty)
      else
        match s.xlateHub root asid (desc + 24) .read true with
        | .miss => (s, .later)
        | .ok pp _ =>
          match s.xlateHub root asid (s.mem.readLE pp 8 + 8 * (n - 1)) .read true with
          | .miss => (s, .later)
          | .ok pf _ =>
            let f := s.mem.readLE pf 8
            if goodFrame f then
              ((s.agentBytes line (growLine f (s.frameGen f))).agentPut pc 4 (n - 1), .mapped)
            else (s, .malformed)
          | _ => (s, .malformed)
        | _ => (s, .malformed)
    | _ => (s, .malformed)

/-- Translation inside a unit: a grow entry met by a write is applied at once (R207). A miss is tried again. -/
def State.xlateGrow (s : State) (core root asid va : Nat) (want : Want) (priv : Bool) : State × Xl :=
  match s.xlateIn core root asid va want priv with
  | (s1, .grow pte desc) =>
    match s1.growApply root asid pte desc with
    | (s', .mapped) => (s', (s'.walk root asid va).use va want priv)
    | (s', .empty) => (s', .fault 11 true)
    | (s', .malformed) => (s', .fault 12 true)
    | (s', .later) => (s', .miss)
  | x => x

/-- Which windows a word may use (R145, R242). -/
inductive Win where
  | spad
  /-- Also the format registers (8-byte LD, SD, LDA, STL). -/
  | spadFmt
  /-- A scratchpad window and nothing else (R151). -/
  | spadOnly
  /-- No window (FSH). -/
  | none
deriving DecidableEq, Repr

/-- The window check of R240 for an access at `p`; a format window accepts only aligned ones (R145). -/
def Win.allows (w : Win) (p : Place) : Bool :=
  match p, w with
  | .trans, .spadOnly => false
  | .trans, _ => true
  | .spad _ _, .none => false
  | .spad _ _, _ => true
  | .fmt _ off, .spadFmt => off % 8 == 0
  | .fmt _ _, _ => false
  | .unmapped, _ => false

/-- The window check of R240 for the last byte of an access. -/
def Win.allowsEnd (w : Win) (p : Place) : Bool :=
  match p, w with
  | .fmt _ _, .spadFmt => true
  | p, w => w.allows p

/-- Conditions 1 to 3 of R240 for `size` bytes at `a` with alignment `al`, by `core`; `lane` is reported in tinfo. -/
def precheck (core : Nat) (a : Word) (size al : Nat) (w : Win) (lane : Nat) : Option Trap :=
  let n := a.toNat
  if 2 ^ 57 ≤ n + (size - 1) then some ⟨8, a, BitVec.ofNat 64 lane⟩
  else if !(w.allows (placeOf core n) && w.allowsEnd (placeOf core (n + (size - 1)))) then
    some ⟨9, a, BitVec.ofNat 64 lane⟩
  else if n % al ≠ 0 then some ⟨10, a, BitVec.ofNat 64 lane⟩
  else none

/-- What a checked address gives: an access, a trap, or a TLB miss. -/
inductive Chk where
  | ok (acc : Acc)
  | trap (t : Trap)
  | miss
deriving DecidableEq, Repr

/-- The access that a translation gives. -/
def Xl.chk (x : Xl) (a : Word) (len : Nat) (want : Want) (lane : Nat) : Chk :=
  match x with
  | .ok pa gen => .ok ⟨a, pa, len, gen, isDevice pa⟩
  | .miss => .miss
  | .fault c b => .trap ⟨c, a, faultInfo want b lane⟩
  | .grow _ _ => .miss

/-- The access of `len` bytes at `a`, translated by `x` where it is not in a window. -/
def chkWith (core : Nat) (a : Word) (len : Nat) (want : Want) (lane : Nat) (x : Xl) : Chk :=
  match placeOf core a.toNat with
  | .trans => x.chk a len want lane
  | .spad c off => .ok ⟨a, spadLoc c off, len, 0, false⟩
  | .fmt c off => .ok ⟨a, 0x01FF900000000000 + c * 0x1000 + off, len, 0, false⟩
  | .unmapped => .trap ⟨9, a, BitVec.ofNat 64 lane⟩

/-- All checks of R240 for an aligned access of the focused context at S. -/
def State.chkS (s : State) (a : Word) (len al : Nat) (want : Want) (w : Win) (lane : Nat) : Chk :=
  match precheck s.core a len al w lane with
  | some t => .trap t
  | none => chkWith s.core a len want lane (s.xlateS a.toNat want)

/-- The same at V, translated by a walk (R241), with the state after any grow request. -/
def State.chkV (s : State) (a : Word) (len al : Nat) (want : Want) (w : Win) (lane : Nat) : State × Chk :=
  match precheck s.core a len al w lane with
  | some t => (s, .trap t)
  | none =>
    match placeOf s.core a.toNat with
    | .trans =>
      let r := s.xlateGrow s.core s.ctx.root.toNat s.ctx.asid.toNat a.toNat want s.ctx.priv
      (r.1, r.2.chk a len want lane)
    | _ => (s, chkWith s.core a len want lane .miss)

/-- An access still names what its translation said: device memory is compared with the frame's generation (R371). -/
def State.genOk (s : State) (a : Acc) : Bool := !a.dev || s.frameGen a.loc == a.gen

/-- A refused access is walked again (R371): its new form, or the fault of the new walk. -/
def State.rewalk (s : State) (c : Ctx) (core : Nat) (a : Acc) (want : Want) : State × Option Acc × Option Trap :=
  let s := s.updCore core fun k => { k with tlb := k.tlb.filter fun t =>
    !(t.asid == c.asid.toNat && decide (t.base ≤ a.va.toNat) && decide (a.va.toNat < t.base + t.size)) }
  let r := s.xlateGrow core c.root.toNat c.asid.toNat a.va.toNat want c.priv
  match r.2 with
  | .ok pa gen => (r.1, some { a with loc := pa, gen := gen, dev := isDevice pa }, none)
  | .fault cz b => (r.1, none, some ⟨cz, a.va, faultInfo want b 0⟩)
  | _ => (r.1, none, none)

end Sys2Proof.Machine
end

