-- ==== Sys2Proof/Machine/Lsu.lean ====
section
/-! DEFINITION. Accesses taking effect: writes to memory with the page agent's reserved area (R364), loads at their landing
(R92), stores by kind, the order of one context's LS accesses (R95 to R97), full-empty waits (R152), late refusals (R373). -/

namespace Sys2Proof.Machine

/-- A location is a bank format register (R144). -/
def isFmtLoc (loc : Nat) : Bool := decide (0x01FF900000000000 ≤ loc)

/-- The bytes that an access reads, as a number (R90). -/
def State.accRead (s : State) (a : Acc) : Nat :=
  if isFmtLoc a.loc then
    (s.fmtReg ((a.loc - 0x01FF900000000000) / 0x1000) (a.loc % 0x1000 / 8)).toNat
  else match barOf a.loc with
    | some (b, off) => leNat (s.barRead b off a.len)
    | none => s.mem.readLE a.loc a.len

/-- Two accesses touch a common byte. -/
def Acc.overlaps (a b : Acc) : Bool := meets a.loc a.len b.loc b.len

/-- Some pair of the two lists overlaps. -/
def accsMeet (xs ys : List Acc) : Bool := xs.any fun a => ys.any fun b => a.overlaps b

/-- The accesses of a store. -/
def PStore.accs (p : PStore) : List Acc :=
  p.parts.map (·.acc) ++
  match p.kind with
  | .feclr core off len => [⟨0, spadLoc core off, len, 0, false⟩]
  | .msgw core off len _ _ => if len = 0 then [] else [⟨0, spadLoc core off, len, 0, false⟩]
  | _ => []


/-- The LS accesses of a queue entry that has not started (R89). -/
def QEntry.lsAccs (e : QEntry) : List Acc := e.accs ++ (match e.app with | some a => a.accs | none => [])

/-- A queued VLD that waits on full-empty bits is an acquire (R106). -/
def QEntry.isAcq (e : QEntry) : Bool :=
  match e.word with
  | some (.vldFeKeep ..) => true
  | some (.vldFeClear ..) => true
  | _ => false

/-- Accesses widened to whole granules (R151). -/
def granAccs (as : List Acc) : List Acc :=
  as.map fun a => { a with loc := a.loc / 16 * 16, len := (a.loc + a.len + 15) / 16 * 16 - a.loc / 16 * 16 }

/-- A granule by its number over all cores. -/
def granAcc (g : Nat) : Acc := ⟨0, winBase + 16 * g, 16, 0, false⟩

/-- The granules whose full-empty bits a pending word reads or clears (R152): those of a masked load too. -/
def Pend.bits (p : Pend) : List Acc :=
  match p.act with
  | .lfe .. => granAccs p.accs
  | .fepoll .. => granAccs p.accs
  | .fecells _ gs _ => gs.map granAcc
  | .feconv _ gs .. => gs.map granAcc
  | _ => []

/-- A pending word that is an LS access not yet made (R89); a shipped routine is on the FS path. -/
def Pend.isLs (p : Pend) : Bool := (!p.accs.isEmpty || !p.bits.isEmpty) && (match p.act with | .fsh .. => false | _ => true)

/-- The granules whose full-empty bits a store sets or clears (R152). -/
def PStore.bits (p : PStore) : List Acc :=
  match p.kind with
  | .sfe .. => granAccs p.accs
  | .feclr .. => granAccs p.accs
  | .msgw core off len _ _ => if len = 0 then [] else [⟨0, spadLoc core off, len, 0, false⟩]
  | _ => []

/-- The granules whose full-empty bits a queued word will read (R152, R254). -/
def QEntry.bits (e : QEntry) : List Acc := if e.isAcq then granAccs e.lsAccs else []

/-- An LS access as the order rules see it: its word, bytes, full-empty bits, whether it is a release, the queues it pushes. -/
structure LsAcc where
  id : Nat
  accs : List Acc
  bits : List Acc
  rel : Bool
  push : List Nat

/-- The access of a pending word, and of a store. -/
def Pend.ls (p : Pend) : LsAcc := ⟨p.id, p.accs, p.bits, p.rel, p.push⟩
def PStore.ls (p : PStore) : LsAcc := ⟨p.id, p.accs, p.bits, p.rel, p.push⟩

/-- The dependency field of a word (R27). -/
def depOf (w : Option Instr) : Dep :=
  match w with
  | none => 0
  | some i => match encode i with | some b => b.extractLsb' 28 4 | none => 0

/-- A word that waited for a token acquires what the token's word released (R102). -/
def popsToken (st : Station) (w : Option Instr) : Bool := !(waitsOf st (depOf w)).isEmpty

/-- The context's entry `id` stands still (R385, R386): its program is halted for pre-emption or runs that handler, or its
state has been saved. -/
def Ctx.stopped (c : Ctx) (id : Nat) : Bool :=
  c.saved || c.block == .halted || c.preempt.isSome && !c.priv ||
  (c.priv && c.cause == 20 && match c.entry with | some e => decide (id < e.id) | none => false)

/-- A word between `old` and `new` waits at V for a token that word `old` pushes: it acquires what `old` releases (R102). -/
def Ctx.tokenBetween (c : Ctx) (push : List Nat) (old new : Nat) : Bool :=
  !push.isEmpty && c.vq.any fun e => decide (old < e.id) && decide (e.id < new) && (waitsOf .v e.p).any push.contains

/-- The V words that need no token that has still to come. -/
def Ctx.vOpen (c : Ctx) : List QEntry := c.vq.takeWhile fun e => c.canPop .v e.p

/-- The V words that a word which pushes into `qs` waits for (R102): not one that waits for its token, nor one behind it. -/
def Ctx.vAhead (c : Ctx) (qs : List Nat) : List QEntry :=
  c.vq.takeWhile fun e => c.canPop .v e.p || !((waitsOf .v e.p).any qs.contains)

/-- Access `x` must wait for an earlier one of its context (R95 to R97, R102, R104, R152): one to a common byte or bit, an
acquire that has not taken effect, one that a token orders, or, for a release or a word that pushes a token, any. `ord` says of
which words the program order counts; one held after a late refusal has no place of its own until its new walk (R373). -/
def Ctx.lsHeldBy (c : Ctx) (ord : Nat → Bool) (x : LsAcc) : Bool :=
  let common (as bs : List Acc) : Bool := accsMeet as x.accs || accsMeet bs x.bits
  let all : Bool := x.rel || !x.push.isEmpty
  let load (p : Pend) : Bool := decide (p.id < x.id) && p.isLs &&
    (if p.late && !(ord p.id) then false
     else common p.accs p.bits ||
      (ord p.id && (all || p.acq || popsToken p.st p.word || c.tokenBetween p.push p.id x.id)))
  c.pend.any load ||
  (c.replay.any fun p => ord p.id && load p) ||
  (c.stores.any fun p => decide (p.id < x.id) &&
    (if p.late && !(ord p.id) then false
     else common p.accs p.bits || (ord p.id && (all || popsToken p.st p.word || c.tokenBetween p.push p.id x.id)))) ||
  (c.vq.any fun e => decide (e.id < x.id) && !e.lsAccs.isEmpty &&
    (common e.lsAccs e.bits || (ord e.id && (x.rel || e.isAcq ||
      (!(waitsOf .v e.p).isEmpty && !((waitsOf .v e.p).any x.push.contains)))))) ||
  (!x.push.isEmpty && (c.vAhead x.push).any fun e => decide (e.id < x.id) && !e.lsAccs.isEmpty && ord e.id)

/-- What a trap's entry left standing and only the return sets going (R83, R373): the replay list, an access held after a late
refusal, a V word that waits for a token or stands still, and what the orders put behind one of these. -/
def Ctx.stuck (c : Ctx) (h : Nat) : List Nat :=
  let xs : List (LsAcc × Bool × (Ctx → Ctx)) :=
    (c.replay.map fun p => (p.ls, true, fun k => { k with replay := k.replay ++ [p] })) ++
    ((c.pend.filter Pend.isLs).map fun p => (p.ls, p.late, fun k => { k with pend := k.pend ++ [p] })) ++
    (c.stores.map fun p => (p.ls, p.late, fun k => { k with stores := k.stores ++ [p] })) ++
    (c.vq.map fun e => (⟨e.id, e.lsAccs, e.bits, false, pushesOf .v e.p⟩,
      c.stopped e.id || !(c.vOpen.any fun v => v.id == e.id), fun k => { k with vq := k.vq ++ [e] }))
  let ids := (List.range h).filter fun i => xs.any fun x => x.1.id == i
  (ids.foldl (fun (acc : List Nat × Ctx) i =>
    (xs.filter fun x => x.1.id == i).foldl (fun acc x =>
      if x.2.1 || acc.2.lsHeldBy (fun _ => true) x.1 then (acc.1 ++ [i], x.2.2 acc.2) else acc) acc)
    ([], { c with pend := [], stores := [], vq := [], replay := [] })).1

/-- The words from before a handler of which the program order counts for its words (R98, log entry 79): all but those that only
its return sets going. -/
def Ctx.orders (c : Ctx) (new : Nat) : Nat → Bool :=
  match c.hid with
  | some h =>
    if h ≤ new then
      let st := c.stuck h
      fun old => decide (h ≤ old) || !(st.contains old)
    else fun _ => true
  | none => fun _ => true

/-- Access `x` must wait for an earlier one of its context. -/
def Ctx.lsHeld (c : Ctx) (x : LsAcc) : Bool := c.lsHeldBy (c.orders x.id) x

/-- The holder of a bank lock (R105): a context's COPY or CFILL, a context's MDRAIN, a channel's RSEND. -/
def copyHolder (uid : Nat) : Nat := 4 * uid
def drainHolder (uid : Nat) : Nat := 4 * uid + 1
def sendHolder (ch : Nat) : Nat := 4 * ch + 2

/-- The lock is one of a context's commands, which end with it. -/
def heldBy (uid : Nat) (l : Nat × Nat) : Bool := l.2 == copyHolder uid || l.2 == drainHolder uid

/-- The banks of a list of scratchpad accesses: core and bank (R105). -/
def banksOf (as : List Acc) : List (Nat × Nat) :=
  (as.flatMap fun a =>
    let o := a.loc - winBase
    if a.len = 0 then [] else (List.range ((o + a.len - 1) / 0x8000 - o / 0x8000 + 1)).map fun i =>
      ((o / 0x8000 + i) / 16, (o / 0x8000 + i) % 16)).eraseDups

/-- A bank of the list is locked by another command than the holder's. -/
def State.banksLocked (s : State) (holder : Nat) (bs : List (Nat × Nat)) : Bool :=
  bs.any fun b => (s.coreAt b.1).locks.any fun l => l.1 == b.2 && l.2 != holder

/-- The banks are locked for a command (R105). -/
def State.lockBanks (s : State) (holder : Nat) (bs : List (Nat × Nat)) : State :=
  bs.foldl (fun s b => s.updCore b.1 fun c => { c with locks := c.locks ++ [(b.2, holder)] }) s

/-- The locks that `f` names end, on every core. -/
def State.unlockIf (s : State) (f : Nat × Nat → Bool) : State :=
  { s with cores := s.cores.map fun (c : Nat × Core) => (c.1, { c.2 with locks := c.2.locks.filter fun l => !(f l) }) }

/-- A command's locks end. -/
def State.unlockBanks (s : State) (holder : Nat) : State := s.unlockIf fun l => l.2 == holder

/-- One send's locks end: no two sends of a core in flight share a bank. -/
def State.unlockSend (s : State) (holder : Nat) (bs : List (Nat × Nat)) : State :=
  bs.foldl (fun s b => s.updCore b.1 fun c => { c with locks := c.locks.filter fun l => l != (b.2, holder) }) s

/-- A lock of those that `f` names is on a bank of the core's own scratchpad that the accesses reach. -/
def State.lockedIf (s : State) (f : Nat × Nat → Bool) (core : Nat) (accs : List Acc) : Bool :=
  match (s.coreAt core).locks.filter f with
  | [] => false
  | ls => accs.any fun a =>
    let o := a.loc - spadLoc core 0
    decide (spadLoc core 0 ≤ a.loc) && decide (o < 0x80000) &&
      ls.any fun l => decide (o / 0x8000 ≤ l.1) && decide (l.1 ≤ (o + (a.len - 1)) / 0x8000)

/-- A locked bank of the core's own scratchpad holds the access (R105). -/
def State.locked (s : State) (core : Nat) (accs : List Acc) : Bool := s.lockedIf (fun _ => true) core accs

/-- A locked bank holds a relay's arrival: another command's lock, but not a send's, which only reads (log entry 99). -/
def State.arrivalLocked (s : State) (core : Nat) (accs : List Acc) : Bool := s.lockedIf (fun l => l.2 % 4 != 2) core accs

/-- The command that holds a bank stands still: it is suspended, halted, or saved with its context (R105, R192, R310, R386). -/
def State.holderStands (s : State) (holder : Nat) : Bool :=
  if 2 ≤ holder % 4 then false
  else
    match s.liveKeys.findSome? fun k => match s.ctxAt k with
      | some c => if c.uid = holder / 4 then some c else none
      | none => none with
    | none => true
    | some c => (c.cact.toList ++ c.min).any fun e => e.begun && (e.susp || c.stopped e.id) &&
        ((match e.word with | some (.mdrain ..) => true | _ => false) == (holder % 4 == 1))

/-- An access cannot take effect until a handler returns or a context is restored: the orders put it behind what stands, or a
command that stands has locked its bank. -/
def State.stands (s : State) (core : Nat) (c : Ctx) (x : LsAcc) (accs : List Acc) : Bool :=
  c.lsHeld x || s.lockedIf (fun l => s.holderStands l.2) core accs

/-- Stores from before the handler still drain (R83): its first word waits for them. -/
def State.draining (s : State) (core : Nat) (c : Ctx) : Bool :=
  match c.hid with
  | none => false
  | some h => c.stores.any fun p => decide (p.id < h) && !p.late && p.due.isSome && !(s.stands core c p.ls p.accs)

/-- What a landing needs beside its cycle: full granules, a cellar's result. -/
def State.actReady (s : State) (p : Pend) : Bool :=
  match p.act with
  | .lfe _ _ => p.accs.all fun a => s.isFull ((a.loc - winBase) / 0x80000) ((a.loc - winBase) % 0x80000 / 16)
  | .fecells _ gs _ => gs.all (s.isFull 0)
  | .feconv _ gs .. => gs.all (s.isFull 0)
  | .fsh _ _ _ _ r => r.isSome
  | .remote => false
  | _ => true

/-- A core's accesses need no request to a home: its die holds their sectors (R361, R363). -/
def State.coheres (s : State) (core : Nat) (excl : Bool) (accs : List Acc) : Bool :=
  (sectorsOf accs).all fun x => s.holds x (dieOf core) excl

/-- A pending word writes memory when it takes effect. -/
def Pend.excl (p : Pend) : Bool := match p.act with | .amo .. => true | _ => false

/-- A store writes the accesses it names; a message reads them (R316). -/
def PStore.excl (p : PStore) : Bool := match p.kind with | .msgw .. => false | _ => true

/-- The memory that a store's effect reaches through its core's cache. -/
def PStore.cached (p : PStore) : List Acc := p.parts.map (·.acc)

/-- But for its sectors, the word's access may take effect, or its known values land, at this cycle (R92): a load takes effect as
its write lands, so not before an earlier word's write to a destination of its own has landed (R82). -/
def State.landReady (s : State) (core : Nat) (c : Ctx) (p : Pend) : Bool :=
  match p.due with
  | none => false
  | some t =>
    decide (t ≤ s.now) && !p.late && s.actReady p &&
    (!p.isLs || (!(c.lsHeld p.ls) && !(s.locked core (p.accs ++ p.bits)))) &&
    (match p.act with
     | .vals => p.own.isEmpty || p.own.any (c.mayLand p)
     | _ => p.dsts.all fun d => d == .fpsr || !(c.pendingBefore p.id d))

/-- The word's access may take effect now (R92): its die holds its sectors too (R363). -/
def State.landable (s : State) (core : Nat) (c : Ctx) (p : Pend) : Bool :=
  s.landReady core c p && (!p.isLs || s.coheres core p.excl p.accs)

/-- The result of an atomic (R247). -/
def amoNew (op : AmoOp) (old b c : Word) : Word :=
  match op with
  | .add => old + b
  | .and => old &&& b
  | .or => old ||| b
  | .xor => old ^^^ b
  | .min => if old.sle b then old else b
  | .max => if b.sle old then old else b
  | .swap => b
  | .cas => if old = c then b else old

/-- A loaded value extended to 64 bits (R243). -/
def extLoad (size : Nat) (sgn : Bool) (v : Nat) : Word :=
  if sgn then BitVec.ofInt 64 (sInt (8 * size) v) else BitVec.ofNat 64 v

/-- The scale of block `j` of a bank, read raw at the format's scale base modulo the scratchpad (R148). -/
def State.blockScale (s : State) (core fmt j : Nat) : Val :=
  let e8 := bitsOf fmt 6 1 == 1
  let o := (bitsOf fmt 12 19 + (if e8 then j else 2 * j)) % 0x80000
  if e8 then scaleVal true (s.mem.read (spadLoc core o)).toNat
  else scaleVal false ((s.mem.read (spadLoc core o)).toNat + 256 * (s.mem.read (spadLoc core ((o + 1) % 0x80000))).toNat)

/-- Elements per scale block of a format register; 0 for none (R148). -/
def blkSize (fmt : Nat) : Nat := match bitsOf fmt 4 2 with | 0 => 0 | 1 => 32 | 2 => 64 | _ => 128

/-- The `w` bits of memory from bit `b` after location `loc`. -/
def State.memBits (s : State) (loc b w : Nat) : Nat :=
  bitsOf (s.mem.readLE (loc + b / 8) ((b % 8 + w + 7) / 8)) (b % 8) w

/-- The value of element `i` of a bank under its format, times its block's scale, with the product's flags (R149, R163). -/
def State.bankElem (s : State) (core bank fmt i : Nat) : Val × Fl :=
  let enc := bitsOf fmt 0 4
  let w := tyWidth enc
  let v := decode_ enc (s.memBits (spadLoc core (0x8000 * bank)) (i * w) w)
  if blkSize fmt = 0 then (v, flIf v.isSig fNv) else vMul v (s.blockScale core fmt (i / blkSize fmt))

/-- The elements that a converting load forms, with their flags; masked-off elements are skipped (R149). -/
def State.convElems (s : State) (core bank fmt off ty : Nat) (m : Rnd) (mk : BitVec 256) : List Nat × Fl :=
  let enc := bitsOf fmt 0 4
  (List.range (perVec ty)).foldr (fun e acc =>
    if mk.getLsbD e then
      let v := s.bankElem core bank fmt (off * 8 / tyWidth enc + e)
      let r := cvt (isInt enc && blkSize fmt == 0) ty m v.1
      (r.1 :: acc.1, acc.2 ||| r.2 ||| v.2)
    else (0 :: acc.1, acc.2)) ([], 0)

/-- The element writes to listed cells under a mask. -/
def cellWrites (t : Nat) (mk : BitVec 256) (cells : List (BitVec 8)) (es : List Nat) : List Wr :=
  let ws := pack t es
  (List.range 16).filterMap fun j =>
    let cm := cellMask t mk j
    if cm = 0 then none else some (.cell (nthD cells j 0) cm (nthD ws j 0))

/-- The fold of the slots that SLMERGE read, in ascending order (R177). A single slot lands as it is, a NaN too: the pseudocode
and R290 say so where R160 and R174 could be read to make it canonical (log entry 112). -/
def slFold (t : Nat) : List (Nat × Nat) → Nat × Nat × Fl
  | [] => (0, 0, 0)
  | (h, l) :: r =>
    r.foldl (fun acc x =>
      let z := dwadd t acc.1 acc.2.1 x.1 x.2
      (z.1, z.2.1, acc.2.2 ||| z.2.2)) (h, l, 0)

/-- Pairs of successive list elements. -/
def pairUp : List Nat → List (Nat × Nat)
  | a :: b :: r => (a, b) :: pairUp r
  | _ => []

/-- A pair result in lane 0 of two operands, every other lane +0 (R176, R177). -/
def lane0Writes (t : Nat) (g : GOp) (h l : Nat) : List Wr :=
  rawWrites g (pack t (h :: List.replicate (perVec t - 1) 0)) ++
  rawWrites (gNext g) (pack t (l :: List.replicate (perVec t - 1) 0))

/-- A load takes effect: the values it lands, its flags, and the state after its own effect on memory and full-empty
bits (R92). -/
def State.resolve (s : State) (p : Pend) : State × List Wr × Fl :=
  let a0 := p.accs.headD ⟨0, 0, 0, 0, false⟩
  match p.act with
  | .vals => (s, p.wr, p.flags)
  | .remote => (s, p.wr, p.flags)
  | .load size sgn d => (s, [.s d (extLoad size sgn (s.accRead a0))], 0)
  | .lfe clear d =>
    let o := a0.loc - winBase
    let s1 := if clear then s.clrFull (o / 0x80000) (o % 0x80000 / 16) else s
    (s1, [.s d (BitVec.ofNat 64 (s.accRead a0))], 0)
  | .fepoll core off d => (s, [.s d (if s.isFull core (off / 16) then 1 else 0)], 0)
  | .amo op b c d =>
    let old := BitVec.ofNat 64 (s.accRead a0)
    (s.memWrite a0.loc (leBytes (amoNew op old b c).toNat 8), [.s d old], 0)
  | .fsh _ _ _ d r => (s, [.s d (r.getD 0)], 0)
  | .cells cs =>
    (s, (cs.zip p.accs).map fun x => .cell x.1.1 x.1.2 (BitVec.ofNat 64 (s.accRead x.2)), 0)
  | .bcast cs =>
    let v := BitVec.ofNat 64 (s.accRead a0)
    (s, cs.map fun x => .cell x.1 x.2 v, 0)
  | .conv core bank fmt off ty rnd _ cells msk =>
    let r := s.convElems core bank fmt off ty (rndOf rnd) msk
    (s, cellWrites ty msk cells r.1, r.2)
  | .fecells clear gs cs =>
    let s1 := if clear then gs.foldl (fun s g => s.clrFull 0 g) s else s
    (s1, (cs.zip p.accs).map fun x => .cell x.1.1 x.1.2 (BitVec.ofNat 64 (s.accRead x.2)), 0)
  | .feconv clear gs core bank fmt off ty rnd _ cells msk =>
    let s1 := if clear then gs.foldl (fun s g => s.clrFull 0 g) s else s
    let r := s.convElems core bank fmt off ty (rndOf rnd) msk
    (s1, cellWrites ty msk cells r.1, r.2)
  | .pop _ _ _ _ => (s, [], 0)
  | .slmerge g ty _ =>
    let r := slFold ty (pairUp (p.accs.map fun a => s.accRead a % 2 ^ tyWidth ty))
    (s, lane0Writes ty (pairLo g) r.1 r.2.1, r.2.2)

/-- A word of `n` low bits set. -/
def lowBits (n : Nat) : Nat := 2 ^ n - 1

/-- The row that a pop delivers: its first `n` elements' bytes, the rest zero (R259, R260). -/
def popRow (ty n : Nat) (ws : List Nat) : List Word :=
  let bits := n * tyWidth ty
  (List.range 16).map fun j => BitVec.ofNat 64 (nthD ws j 0 % 2 ^ (Nat.min 64 (bits - 64 * j)))

/-- A generator's pos advances by a transfer of word `id` (R260, R261), in the state at trap entry too (R329). -/
def Ctx.advance (c : Ctx) (id g n : Nat) : Ctx :=
  let f (x : Gen) : Gen := { x with pos := x.pos + BitVec.ofNat 32 n }
  (c.setGen g (f (c.gen g))).older id fun e => if h : g < 4 then { e with gens := e.gens.set g (f e.gens[g]) } else e

/-- A pop's data arrives: it goes to the waiting word, and the pos that the generator then holds advances (R260, log entry 77). -/
def Ctx.popArrive (c : Ctx) (g entry n : Nat) (row : List Word) : Ctx :=
  let fill (p : PopIn) : PopIn := if p.g == g && p.data.isNone then { p with data := some row } else p
  let c1 : Ctx := { c with vq := c.vq.map fun (e : QEntry) =>
    if e.id == entry then { e with pops := e.pops.map fill } else e }
  c1.advance entry g n

/-- The value of an instruction word, zero where the step has none. -/
def wordBits (w : Option Instr) : Word :=
  match w with
  | none => 0
  | some i => match encode i with | some b => b.zeroExtend 64 | none => 0

/-- A record is posted, or waits for a place among the eight (R384). -/
def Ctx.postAfr (c : Ctx) (r : Afr) : Ctx :=
  if c.afr.length < 8 then { c with afr := c.afr ++ [r] } else { c with afrWait := c.afrWait ++ [r] }

/-- The fault of a walk found the grow pool empty (R382, R384). -/
def Trap.poolEmpty (t : Trap) : Bool := t.cause == 11 && wbit t.tinfo 1

/-- A refused access whose new walk faults is held, and its record posted (R373, R384): its path (R48), 0 for LS and 5 for FS. No
station's queue has an entry of it. -/
def lateAfr (path : Nat) (wr : Bool) (t : Trap) (data word : Word) (id : Nat) : Afr :=
  { w0 := BitVec.ofNat 64 (path + 19 * 16 + (if wr then 4096 else 0) + (if t.poolEmpty then 8192 else 0)), w1 := t.tval, w2 := data,
    w3 := word, held := some id, entry := none }

/-- What the generations of a word's accesses allow (R371). -/
inductive Regen where
  | ok (accs : List Acc)
  /-- Refused again under the translation of the new walk: the word retries. -/
  | retry
  | late (t : Trap)
deriving DecidableEq, Repr

/-- Every access of the list is compared with its frame's record; a refused one is walked again (R371), as is one kept after a late
refusal (R373). -/
def State.regen (s : State) (c : Ctx) (core : Nat) (want : Want) (anew : Bool) : List Acc → State × Regen
  | [] => (s, .ok [])
  | a :: r =>
    if s.genOk a && !(anew && a.dev) then
      match s.regen c core want anew r with
      | (s1, .ok bs) => (s1, .ok (a :: bs))
      | x => x
    else
      match s.rewalk c core a want with
      | (s1, some b, _) =>
        if s1.genOk b then
          match s1.regen c core want anew r with
          | (s2, .ok bs) => (s2, .ok (b :: bs))
          | x => x
        else (s1, .retry)
      | (s1, none, some t) => (s1, .late t)
      | (s1, none, none) => (s1, .retry)

/-- A core's L1 takes copies of the blocks that the accesses name (R362); the scratchpads have none. A write leaves the die's copy
modified (R361), and removes those of the die's other cores whose signature names the block. -/
def State.takeCopies (s : State) (core : Nat) (excl : Bool) (accs : List Acc) : State :=
  match accs.filter Acc.cached with
  | [] => s
  | as =>
    let s1 := s.updCore core fun c =>
      { c with sig := as.foldl (fun l a => if l.contains (sigBit a.loc) then l else l ++ [sigBit a.loc]) c.sig }
    if excl then (sectorsOf as).foldl (fun s x => (s.dirty (dieOf core) x).invalidate (dieOf core) (some core) (64 * x)) s1 else s1

/-- One pending word of berth `k` takes effect and lands (R32, R92). -/
def State.landOne (s : State) (k : Nat) (c : Ctx) (p : Pend) : State :=
  let want := match p.act with | .amo .. => Want.write | _ => Want.read
  match s.regen c (k / 4) want p.anew p.accs with
  | (s1, .late t) =>
    if c.afr.length < 8 then
      s1.updCtx k fun c => (c.setPend { p with late := true, anew := false }).postAfr
        (lateAfr 0 (want == .write) t 0 (wordBits p.word) p.id)
    else s1.updCtx k fun c => c.setPend { p with due := some (s.now + 1) }
  | (s1, .retry) => s1.updCtx k fun c => c.setPend { p with due := some (s.now + 1) }
  | (s1, .ok accs) =>
    if !(s1.coheres (k / 4) p.excl accs) then s1.updCtx k fun c => c.setPend { p with accs := accs, due := some (s.now + 1) }
    else
    let s2 := (accs.foldl (fun s a => s.scrubFor k p.id a.loc a.len) s1).takeCopies (k / 4) p.excl accs
    let q := { p with accs := accs }
    if !(s2.actReady q) then s2.updCtx k fun c => c.setPend { q with due := some (s.now + 1) }
    else
    match p.act with
    | .pop g entry n ty =>
      let ws := accs.map s2.accRead
      s2.updCtx k fun c => (((c.dropPend p.id).decCtr .lc).popArrive g entry n (popRow ty n ws))
    | _ =>
      let r := s2.resolve q
      r.1.updCtx k fun c => c.landVals { q with wr := r.2.1, flags := q.flags ||| r.2.2, act := .vals, accs := [] }

/-- A store part goes to memory: the bits outside the mask keep their values (R149). -/
def State.partWrite (s : State) (p : StPart) : State :=
  if isFmtLoc p.acc.loc then s
  else
    let old := s.mem.readLE p.acc.loc p.acc.len
    let v := (BitVec.ofNat 64 old &&& ~~~p.mask) ||| (p.val &&& p.mask)
    s.memWrite p.acc.loc (leBytes v.toNat p.acc.len)

/-- A format register write is refused in the cases of R148. -/
def fmtRefused (v : Nat) : Bool :=
  decide (bitsOf v 7 5 ≠ 0) || decide (bitsOf v 31 32 ≠ 0) || (decide (12 ≤ bitsOf v 0 4) && decide (bitsOf v 0 4 < 15)) ||
  (decide (bitsOf v 4 2 ≠ 0) && decide (bitsOf v 0 4 = 15)) || (decide (bitsOf v 6 1 = 0) && decide (bitsOf v 12 19 % 2 = 1))

/-- A write to a bank format register is applied or refused (R148). -/
def State.fmtWrite (s : State) (core bank : Nat) (v : Word) : State :=
  let old := s.fmtReg core bank
  let new := if fmtRefused v.toNat then old ||| 0x8000000000000000#64
    else (v &&& 0x7FFFF07F#64) ||| (if v.getLsbD 63 then 0 else old &&& 0x8000000000000000#64)
  { s with fmts := mput s.fmts (16 * core + bank) new }

/-- The granules that a byte range of a scratchpad touches. -/
def granules (off len : Nat) : List Nat :=
  if len = 0 then [] else (List.range ((off + len - 1) / 16 - off / 16 + 1)).map fun i => off / 16 + i

/-- What a store does beside its bytes (R148, R246, R261). -/
def State.storeKind (s : State) (k : Nat) (p : PStore) : State :=
  match p.kind with
  | .sfe core off => s.feSet core (off / 16)
  | .feclr core off len => (granules off len).foldl (fun s g => s.clrFull core g) s
  | .fmt core bank => s.fmtWrite core bank ((p.parts.map StPart.val).headD 0)
  | .append g n => s.updCtx k fun c => c.advance p.id g n
  | _ => s

/-- The core and offset of a scratchpad location. -/
def spadOf (loc : Nat) : Nat × Nat := ((loc - winBase) / 0x80000, (loc - winBase) % 0x80000)

/-- 8-byte pieces of the own scratchpad. -/
def ownPieces (core off n : Nat) : List Acc :=
  (List.range n).map fun j => ⟨0, spadLoc core (off + 8 * j), 8, 0, false⟩

/-- The scales that the elements `i0` to `i0 + n − 1` of a bank use, as accesses (R148). -/
def scaleAccs (core fmt i0 n : Nat) : List Acc :=
  if blkSize fmt = 0 ∨ n = 0 then []
  else
    let w := if bitsOf fmt 6 1 = 1 then 1 else 2
    let b0 := i0 / blkSize fmt
    (List.range ((i0 + n - 1) / blkSize fmt - b0 + 1)).map fun k =>
      ⟨0, spadLoc core ((bitsOf fmt 12 19 + w * (b0 + k)) % 0x80000), w, 0, false⟩

/-- The full-empty granules that accesses to scratchpads touch, numbered over all cores (R151). -/
def granulesOf (accs : List Acc) : List Nat :=
  (accs.flatMap fun a => (granules (spadOf a.loc).2 a.len).map (32768 * (spadOf a.loc).1 + ·)).eraseDups

/-- The low `n` bytes as a bit mask. -/
def lowMask (n : Nat) : Word := BitVec.ofNat 64 (2 ^ (8 * n) - 1)

/-- The operands of MSGW (R316). -/
def msgwLen (d : Word) : Nat := wfld d 0 16
def msgwIncr (d : Word) : Nat := wfld d 16 16
def msgwOff (b : Word) : Nat := wfld b 0 19
def msgwCore (b : Word) : Nat := wfld b 19 11
def msgwEntry (b : Word) : Nat := wfld b 30 6

/-- A load that forms elements as it lands, and so may raise flags then (R149, R290). -/
def Act.mayFlag : Act → Bool
  | .conv .. => true
  | .feconv .. => true
  | .slmerge .. => true
  | _ => false

/-- A message's bytes are read and written granule by granule, ascending, each setting its bit; then its arrival is
posted (R316). -/
def State.msgwApply (s : State) (k id core off entry incr : Nat) : List Acc → Nat → State
  | [], _ => s.postArrival core entry incr
  | a :: r, i =>
    let s0 := s.scrubFor k id a.loc 16
    let s1 := s0.memWrite (spadLoc core (off + 16 * i)) (s0.mem.readBytes a.loc 16)
    (s1.feSet core (off / 16 + i)).msgwApply k id core off entry incr r (i + 1)

/-- But for its sectors, the store may take effect now (R92, R95 to R97, R102). -/
def State.storeReady (s : State) (core : Nat) (c : Ctx) (p : PStore) : Bool :=
  match p.due with
  | none => false
  | some t => decide (t ≤ s.now) && !p.late && !(c.lsHeld p.ls) && !(s.locked core p.accs)

/-- The store may take effect (R92): its die holds its sectors too (R363). -/
def State.storable (s : State) (core : Nat) (c : Ctx) (p : PStore) : Bool :=
  s.storeReady core c p && s.coheres core p.excl p.cached

/-- The context with the store replaced under its id. -/
def Ctx.setStore (c : Ctx) (p : PStore) : Ctx :=
  { c with stores := c.stores.map fun q => if q.id == p.id then p else q }

/-- A store of berth `k` takes effect: its sc count finishes and its tokens are pushed (R19, R28, R92). -/
def State.storeOne (s : State) (k : Nat) (c : Ctx) (p : PStore) : State :=
  match s.regen c (k / 4) (match p.kind with | .msgw .. => .read | _ => .write) p.anew (p.parts.map (·.acc)) with
  | (s1, .late t) =>
    if c.afr.length < 8 then
      s1.updCtx k fun c => (c.setStore { p with late := true, anew := false }).postAfr
        (lateAfr 0 (match p.kind with | .msgw .. => false | _ => true) t p.x (wordBits p.word) p.id)
    else s1.updCtx k fun c => c.setStore { p with due := some (s.now + 1) }
  | (s1, .retry) => s1.updCtx k fun c => c.setStore { p with due := some (s.now + 1) }
  | (s1, .ok accs) =>
    let parts := (p.parts.zip accs).map fun x => { x.1 with acc := x.2 }
    if !(s1.coheres (k / 4) p.excl accs) then s1.updCtx k fun c => c.setStore { p with parts := parts, due := some (s.now + 1) }
    else
    let s2 := match p.kind with
      | .msgw core off len entry incr => s1.msgwApply k p.id core off entry incr (accs.take (len / 16)) 0
      | _ => ((parts.foldl State.partWrite s1).takeCopies (k / 4) p.excl accs).storeKind k { p with parts := parts }
    s2.updCtx k fun c =>
      ((({ c with stores := c.stores.filter fun q => q.id != p.id } : Ctx).decCtr .sc).complete p.st p.id p.push)

end Sys2Proof.Machine
end

