-- ==== Sys2Proof/Machine/Coherence.lean ====
section
/-! DEFINITION. Coherence (R361 to R363, R365 to R367): requests at the homes, the holders' answers; the steps of
a migration (R376, R377). -/

namespace Sys2Proof.Machine

/-! ### Requests at the homes -/

/-- What a drive reads goes to it with the completion (R395). -/
def State.driveRead (s : State) (pa n : Nat) : State :=
  let s1 := s.scrub [] pa n
  { s1 with driveReply := some (true, (match s1.driveReply with | some r => r.2 | none => []) ++ s1.mem.readBytes pa n) }

/-- A request is granted (R363), and what the host writes with it takes effect (R111), or what it reads meets its errors (R418). -/
def State.grant (s : State) (a : Ask) : State :=
  let s1 := if a.who < 6 then s.take a.sec a.who a.excl else s
  if a.who = 7 ∧ a.excl = false then s1.driveRead a.pa a.bytes.length
  else if a.bytes.isEmpty then (if a.who = 5 then s1.scrub [] (64 * a.sec) 64 else s1)
  else s1.memWrite a.pa a.bytes

/-- The home of a sector is serving a request. -/
def State.serving (s : State) (sec : Nat) : Bool := s.asks.any fun a => a.sec == sec && a.begun

/-- A recall from the host, which waits while the host's own request for a sector of the line is in flight (R366). -/
def State.recallsHost (s : State) (b : Ask) : Bool := b.who == 6 && (s.losers (b.sec / 64)).contains 5

/-- The next request of each sector that can be served: the first admitted one, where none is being served. -/
def State.nextAsk (s : State) : Option Ask :=
  s.asks.find? fun a => a.adm && !a.begun && !(s.serving a.sec) &&
    ((s.asks.find? fun b => b.sec == a.sec && b.adm) == some a) &&
    !(s.recallsHost a && s.asks.any fun b => b.who == 5 && b.sec / 2 == a.sec / 2)

/-- A home begins to serve a request (R363): an invalidation or snoop goes to each holder that must answer. -/
def State.serve (s : State) (a : Ask) : State :=
  match s.needs a with
  | [] => ({ s with asks := dropAsk a s.asks } : State).grant a
  | js => js.foldl (fun s j =>
      let d := s.delay
      d.2.at_ (d.2.now + 1 + d.1) (.snoopInvalidation j a.pa a.excl))
      ({ s with asks := putAsk a { a with begun := true, acks := js } s.asks } : State)

/-- A request of the host meets the back-invalidations of a flip for its line (R366): it is served first, and they are sent
again. -/
def State.hostFirst (s : State) (a : Ask) : State :=
  let hit (b : Ask) : Bool := s.recallsHost b && b.sec / 2 == a.sec / 2
  match s.asks.filter hit with
  | [] => { s with asks := insAsk a s.asks }
  | hs =>
    { s with asks := insAsk a (s.asks.filter fun b => !(hit b)) ++ hs.map fun b => { b with begun := false, acks := [] },
             agenda := s.agenda.filter fun x => !(hs.any fun b => x.2 == .snoopInvalidation 5 b.pa true) }

/-- HOME_REQUEST (R363): counted, then served in arrival order behind what is at the sector's home. A device's request for a frame
whose bias flips waits (R365). The bytes are what the host writes. -/
def State.homeRequest (s : State) (h : Nat) (kind : ReqKind) (pa : Nat) (bs : List Byte) : State :=
  match kind with
  | .evict => s.setDir (pa / 64) h .i
  | _ =>
    let s1 := s.countAccess h pa
    let a := s1.newAsk h pa (match kind with | .read => false | _ => true) (if h = 5 then bs else [])
    if h = 5 then s1.hostFirst a else { s1 with asks := insAsk a s1.asks }

/-- SNOOP_INVALIDATION (R362, R363): a holder answers the home's invalidation or snoop; the last answer grants the request. One
that no request waits for only invalidates. -/
def State.snoopReply (s : State) (j pa : Nat) (inval : Bool) : State :=
  let sec := pa / 64
  match s.asks.find? fun a => a.sec == sec && a.begun && a.acks.contains j with
  | some a =>
    let s1 := if a.granted then s else s.surrender sec j a.excl
    let acks := a.acks.filter (· != j)
    if acks ≠ [] then { s1 with asks := putAsk a { a with acks := acks } s1.asks }
    else
      let s2 : State := { s1 with asks := dropAsk a s1.asks }
      if a.granted then s2 else s2.grant a
  | none => if inval then s.surrender sec j true else s

/-- WRITE_BACK_ARRIVAL (R363): the writer keeps nothing; where the home awaits no other answer to the request that snooped it, the
asker gets its grant, and the writer's empty reply closes the snoop. -/
def State.writeBack (s : State) (h pa : Nat) : State :=
  let sec := pa / 64
  let s1 := s.setDir sec h .i
  match s1.asks.find? fun a => a.sec == sec && a.begun && !a.granted && a.acks == [h] with
  | some a => ({ s1 with asks := putAsk a { a with granted := true } s1.asks } : State).grant a
  | none => s1

/-! ### Page state and migration -/

/-- A compare-and-swap on a page state record (R364): BIAS_FLIP_REQUEST and FRAME_GEN_CHANGE. -/
def State.pageCas (s : State) (f : Nat) (old new : Word) : State :=
  if s.pageState f = old.toNat then s.pageRecWrite f old.toNat new.toNat else s

/-- The leaf line of a region mapped to frame `fr` with generation `gen`, from the line it replaces (R376). -/
def remapLine (old : List Byte) (fr gen : Nat) : List Byte :=
  (List.range 16).flatMap fun i =>
    let e := leNat ((old.drop (8 * i)).take 8)
    leBytes (e % 256 + 256 * gen + (fr / 4096 + i) * 2 ^ 20 + e / 2 ^ 60 * 2 ^ 60) 8

/-- The leaf line maps the region to frame `fr` with generation `gen` (R376). -/
def lineMaps (line : List Byte) (fr gen : Nat) : Bool :=
  (List.range 16).all fun i =>
    let e := leNat ((line.drop (8 * i)).take 8)
    decide (pteFld e 0 2 = 3) && decide (pteFld e 20 40 = fr / 4096 + i) && decide (pteFld e 8 12 = gen)

/-- The agent copies the next line of a window (R376, step 3). -/
def State.copyLine (s : State) (region : Nat) (w : Window) : State :=
  let o := 128 * w.copied
  let s1 := s.scrub [] (65536 * region + o) 128
  let s2 := s1.agentBytes (w.frame + o) (s1.mem.readBytes (65536 * region + o) 128)
  { s2 with windows := mput s2.windows region { w with copied := w.copied + 1, due := s.now + 1 } }

/-- The old generation is fenced off (R376, step 4): the records take the next one while dual stays 1. -/
def State.fence (s : State) (region : Nat) (w : Window) : State :=
  let s1 := (regionFrames region).foldl (fun s f =>
    let v := s.pageState f
    s.setPageState f (v % 16 + 16 * ((v / 16 + 1) % 4096))) s
  { s1 with windows := mput s1.windows region { w with fenced := true, due := s.now + 1 } }

/-- The next step of a window before its switch (R376, steps 3 and 4). -/
def State.migrateOn (s : State) (region : Nat) : State :=
  match mget s.windows region with
  | none => s
  | some w => if w.copied < 512 then s.copyLine region w else if w.fenced then s else s.fence region w

/-- The window of a region is open and its copy done: MIGRATION_SWITCH can come (R376). -/
def Window.copyDone (w : Window) : Bool := decide (512 ≤ w.copied)

/-- What stays with the engines for an area (R386) goes with the frame that its first page lies in. -/
def moveSaved (old new : Nat) (m : SMap Saved) : SMap Saved :=
  m.foldl (fun r x => mput r (if old ≤ x.1 ∧ x.1 < old + 65536 then new + (x.1 - old) else x.1) x.2) []

/-- MIGRATION_SWITCH (R376, steps 4 to 6), after the copy: the old generation is fenced off, the leaf line is replaced where it
still holds the old frame and generation, and the region is served from its new frame; else the window ends and the frame goes
back. -/
def State.migrationSwitch (s : State) (region : Nat) : State :=
  match mget s.windows region with
  | none => s
  | some w =>
    if w.copyDone = false then s
    else
      let g := (w.gen + 1) % 4096
      let s1 := if w.fenced then s else s.fence region w
      let s2 := (regionFrames region).foldl (fun s f => s.setPageState f (s.pageState f - s.pageState f / 8 % 2 * 8))
        { s1 with windows := mdel s1.windows region }
      let d := dieCtl w.die
      let line := s2.mem.readBytes w.line 128
      if lineMaps line (65536 * region) w.gen then
        let s3 := s2.agentBytes w.line (remapLine line w.frame g)
        let s4 := (List.range 16).foldl (fun s i => s.setPageState (w.frame / 4096 + i) (16 * g)) s3
        let n := s4.mem.readLE (d + 24) 4
        let s5 := (s4.agentPut (phys (s4.mem.readLE (d + 16) 8 + 8 * n)) 8 (65536 * region)).agentPut (d + 24) 4 (n + 1)
        { s5 with saved := moveSaved (65536 * region) w.frame s5.saved }
      else
        let n := s2.mem.readLE (d + 8) 4
        ((s2.agentPut (phys (s2.mem.readLE d 8 + 8 * n)) 8 w.frame).agentPut (d + 8) 4 (n + 1)).count 0x190 1

end Sys2Proof.Machine
end

