-- ==== Sys2Proof/Machine/SaveArea.lean ====
section
/-! DEFINITION. The save area (R388): its bytes from a halted context, and a context from its bytes. An area is seen
through the locations of its 13 pages. -/

namespace Sys2Proof.Machine

/-- Z (R388). -/
def areaSize : Nat := 0xD000

/-- The counters in CSR form (R21); a count that replayed words take past 63 shows as 63 (log entry 91). -/
def Ctx.cntWord (c : Ctx) : Word := BitVec.ofNat 64 (Nat.min c.lc 63 + 64 * c.sc + 4096 * c.cc + 262144 * c.tc)

/-- The token counts in CSR form (R20). -/
def Ctx.tokWord (c : Ctx) : Word :=
  BitVec.ofNat 64 (((List.range 8).map fun q => c.tok q * 16 ^ q).foldl (· + ·) 0)

/-- The bindings in CSR form (R21). -/
def Ctx.sbindWord (c : Ctx) : Word :=
  BitVec.ofNat 64 (((List.range 4).map fun n => if (c.gen n).bound then 2 ^ n else 0).foldl (· + ·) 0)

/-- ctl in CSR form (R23). -/
def Ctx.ctlWord (c : Ctx) : Word :=
  BitVec.ofNat 64 (c.erc.toNat + 2 * c.priv.toNat + 4 * c.saved.toNat)

/-- `v` as 8 bytes. -/
def b8 (v : Word) : List Byte := leBytes v.toNat 8

/-- The state of a trap entry made now. -/
def Ctx.snapshot (c : Ctx) : Entry :=
  { id := c.nextId, regs := c.regs, grid := c.grid, masks := c.masks, gens := c.gens, vt := c.vt, ms := c.ms, cs := c.cs,
    toks := c.toks, fpsr := c.fpsr, erc := c.erc, spill := c.spill, mport := c.mport, retired := c.retired,
    scr0 := c.scr0, scr1 := c.scr1, root := c.root, asid := c.asid, tvec := c.tvec, derr := c.derr }

/-- The context with the state of a trap entry put back over its own. -/
def Ctx.withEntry (c : Ctx) (e : Entry) : Ctx :=
  { c with regs := e.regs, grid := e.grid, masks := e.masks, gens := e.gens, vt := e.vt, ms := e.ms, cs := e.cs,
           toks := e.toks, fpsr := e.fpsr, erc := e.erc, spill := e.spill, mport := e.mport, retired := e.retired,
           scr0 := e.scr0, scr1 := e.scr1, root := e.root, asid := e.asid, tvec := e.tvec, derr := e.derr }

/-- The state that the area shows (R329): as it stood at trap entry where a handler runs, else as it is. -/
def Ctx.image (c : Ctx) : Ctx :=
  let c1 := c.flushSpill
  match c1.entry with
  | some e => c1.withEntry e
  | none => c1

/-- A held entry is one whose request left the core (R315). -/
def Pend.held (p : Pend) : Bool := p.ctr.isNone

/-- The low 32 bits of an instruction word's encoding. -/
def wordNat (w : Option Instr) : Nat := (wordBits w).toNat % 2 ^ 32

/-- Which of its 16 cells a cell of a grid load's operand is. -/
def Pend.lane (p : Pend) (n : BitVec 8) : Nat :=
  match p.word with
  | some (.vldx _ g _ _) => (gCells g).findIdx (· == n)
  | some (.vlds _ g _ _) => (gCells g).findIdx (· == n)
  | some (.vld _ g _ _ _) => (gCells g).findIdx (· == n)
  | some (.vldFeKeep _ g _ _) => (gCells g).findIdx (· == n)
  | some (.vldFeClear _ g _ _) => (gCells g).findIdx (· == n)
  | _ => 16

/-- A load whose cells have addresses of their own (R255). -/
def Pend.indexed (p : Pend) : Bool :=
  match p.word with
  | some (.vldx ..) => true
  | some (.vlds ..) => true
  | _ => false

/-- The address of a replay entry (R388), virtual for a late refusal: that of a VLD is its cell 0's, whether the mask has it or
not. -/
def Pend.firstAt (p : Pend) : Nat :=
  let head := if p.late then ((p.accs.map (·.va.toNat)).headD 0) else ((p.accs.map (·.loc)).headD 0)
  match p.act with
  | .cells (c :: _) => if p.indexed then head else head - 8 * p.lane c.1
  | .fecells _ (g :: _) _ => winBase + 16 * g
  | .feconv _ (g :: _) .. => if p.accs.isEmpty then winBase + 16 * g else head
  | _ => head

/-- The first 13 bytes of a replay entry (R388). -/
def replayBytes (p : Pend) : List Byte :=
  let pop : Bool × Nat := match p.act with | .pop g _ _ _ => (true, g) | _ => (false, 0)
  let res : Bool := p.held && !p.wr.isEmpty && p.act == .vals && p.due.isNone
  let v : Nat :=
    if p.held then (match p.wr with | .s _ v :: _ => if res then v.toNat else 0 | _ => 0)
    else p.firstAt
  let sp := (pushesOf p.st 2).any p.push.contains
  let sn := (pushesOf p.st 1).any p.push.contains
  let flags := p.held.toNat + 2 * sp.toNat + 4 * sn.toNat + 8 * res.toNat + 16 * pop.1.toNat + 32 * pop.2 +
    128 * p.late.toNat
  leBytes v 8 ++ leBytes (wordNat p.word) 4 ++ leBytes flags 1

/-- The index block of a replay entry (R388): the translated cell addresses of a VLDX or VLDS by cell, virtual ones for a late
refusal as the entry's own (log entry 83), or an AMO's or FSH's scalar operands. -/
def indexBytes (p : Pend) : List Byte :=
  let cells : List Byte := match p.act with
    | .cells cs => (List.range 16).flatMap fun j =>
        leBytes (((cs.zip p.accs).find? fun x => p.lane x.1.1 == j).elim 0 fun x => if p.late then x.2.va.toNat else x.2.loc) 8
    | _ => []
  match p.word with
  | some (.vldx ..) => cells
  | some (.vlds ..) => cells
  | _ => match p.act with
    | .amo .. => b8 p.x ++ b8 p.y
    | .fsh .. => b8 p.x ++ b8 p.y
    | _ => []

/-- A queue entry (R388): the word, the two scalar operands, and for an engine entry its progress. -/
def queueBytes (engine : Bool) (e : QEntry) : List Byte :=
  leBytes (wordNat e.word) 4 ++ leBytes 0 4 ++ b8 e.x ++ b8 e.y ++ (if engine then b8 e.prog else b8 0)

/-- A generator's 32 bytes: base, stride, count, pos, then dir, type, bound (R388). -/
def genBytes (g : Gen) : List Byte :=
  leBytes g.base.toNat 8 ++ leBytes g.stride.toNat 4 ++ leBytes g.count.toNat 4 ++ leBytes g.pos.toNat 4 ++
  leBytes (g.dir.toNat + 2 * g.type.toNat + 32 * g.bound.toNat) 4 ++ leBytes 0 8

/-- The wait of a blocked context (R388): its code and operands. -/
def waitOf : Block → Nat × Nat × Nat
  | .cntwait _ e thr => (1, e, thr)
  | .gbar _ home num ph => (2, 4096 * home + num, ph)
  | _ => (0, 0, 0)

/-- The engine entries at and before the M station, oldest first. -/
def Ctx.mEntries (c : Ctx) : List QEntry := c.min ++ c.mact.toList ++ c.mq

/-- The engine entries at and before the C station, oldest first. -/
def Ctx.cEntries (c : Ctx) : List QEntry := c.cact.toList ++ c.cq

/-- The stores held after a late refusal (R373). -/
def Ctx.heldStores (c : Ctx) : List PStore := c.stores.filter (·.late)

/-- A matrix command proper, or MSTAT: what counts in tc (R19). -/
def isMatWord : Instr → Bool
  | .mballoc .. | .mbfree .. | .mzero .. | .mmac .. | .mdrain .. | .mfill .. | .mstat .. => true
  | _ => false

/-- The port status as it reads (R184), for an MSTAT or, with `queued`, for RDCSR and the save area: then M's own queue counts in
busy. An MSTAT is busy from its queueing to its landing. -/
def Ctx.portStatus (c : Ctx) (queued : Bool) : Word :=
  let mat (e : QEntry) : Bool := e.word.any isMatWord
  let stat (p : Pend) : Bool := p.due.isSome && match p.word with | some (.mstat ..) => true | _ => false
  let busy := !c.min.isEmpty || (queued && (c.mact.any mat || c.mq.any mat)) || c.pend.any stat
  (c.mport &&& ~~~5#64) ||| (if busy then 1 else 0) ||| (if c.min.any (·.susp) then 4 else 0)

/-- The pieces `f i x` at successive offsets. -/
def segs {β : Type} (base step : Nat) (f : β → List Byte) : Nat → List β → List (Nat × List Byte)
  | _, [] => []
  | i, x :: r => (base + step * i, f x) :: segs base step f (i + 1) r

/-- The area's pieces (R388): what is not listed is zero. `hw` is byte 7, `pc` the next word to issue. -/
def areaSegs (c0 : Ctx) (hw : Bool) (pc : Word) : List (Nat × List Byte) :=
  let c := c0.image
  let w := waitOf c.waitNow
  let held := c.heldStores
  let late := c.pend.filter (·.late)
  let rl := (c.replay ++ late).take 64
  [(0, leBytes 0x46535631 4 ++ leBytes 1 2 ++ leBytes 1 1 ++ leBytes hw.toNat 1 ++ b8 pc ++
      [BitVec.ofNat 8 c.rows, BitVec.ofNat 8 c.gran, BitVec.ofNat 8 c.prio, BitVec.ofNat 8 rl.length,
       BitVec.ofNat 8 c.vq.length, BitVec.ofNat 8 c.mEntries.length, BitVec.ofNat 8 c.cEntries.length,
       BitVec.ofNat 8 w.1] ++
      leBytes w.2.1 8 ++ leBytes w.2.2 8 ++ b8 c.thread ++ b8 c.team ++ b8 c.first ++ b8 c.count ++
      b8 c.root ++ b8 c.asid ++ b8 c.tvec ++ b8 c.scr0 ++ b8 c.scr1 ++ b8 c.derr ++
      [BitVec.ofNat 8 c.afr.length, BitVec.ofNat 8 held.length]),
   (0x300, b8 (c.vt.zeroExtend 64) ++ b8 c.fpsr ++ b8 (c.portStatus true) ++ b8 c.cntWord ++ b8 c.tokWord ++ b8 c.sbindWord ++
      b8 c.ctlWord ++ b8 c.retired)] ++
  segs 0x100 8 b8 0 c.regs.toList ++
  segs 0x200 32 (fun m => leBytes (BitVec.toNat m) 32) 0 ((List.range 8).map fun i => c.mask (BitVec.ofNat 3 i)) ++
  segs 0x340 32 genBytes 0 c.gens.toList ++
  segs 0x3C0 8 b8 0 c.cs.toList ++
  segs 0x400 8 b8 0 c.ms.toList ++
  segs 0x480 32 (fun (p : PStore) =>
    b8 ((p.parts.map (·.acc.va)).headD 0) ++ b8 p.x ++ leBytes (wordNat p.word) 4) 0 (held.take 8) ++
  segs 0x580 32 (fun (r : Afr) => b8 r.w0 ++ b8 r.w1 ++ b8 r.w2 ++ b8 r.w3) 0 c.afr ++
  segs 0x800 32 replayBytes 0 rl ++
  segs 0x1000 128 indexBytes 0 rl ++
  segs 0x3000 32 (queueBytes false) 0 (c.vq.take 16) ++
  segs 0x3200 32 (queueBytes true) 0 (c.mEntries.take 8) ++
  segs 0x3300 32 (queueBytes true) 0 (c.cEntries.take 8) ++
  segs 0x3400 128 (fun (q : QEntry) => (q.setup.take 16).flatMap b8) 0 (c.mEntries.take 8) ++
  segs 0x3800 64 (fun (q : QEntry) => (q.setup.take 8).flatMap b8) 0 (c.cEntries.take 8) ++
  segs 0x4000 8 b8 0 (c.grid.toList.take (16 * c.rows)) ++
  c.spill.map fun b => (0x5000 + b.1, [b.2])

/-- The location of area byte `off` through its pages. -/
def areaLoc (pages : List Nat) (off : Nat) : Nat := nthD pages (off / 4096) 0 + off % 4096

/-- The bytes of an area are written (R388): pages zeroed up to the end of the spill bytes, then the pieces. -/
def State.areaWrite (s : State) (pages : List Nat) (c : Ctx) (hw : Bool) (pc : Word) : State :=
  let n := 0x5000 + 1024 * c.gran
  let s1 := (List.range ((n + 4095) / 4096)).foldl (fun s i =>
    s.memWrite (areaLoc pages (4096 * i)) (List.replicate (Nat.min 4096 (n - 4096 * i)) 0)) s
  (areaSegs c hw pc).foldl (fun s g => s.memWrite (areaLoc pages g.1) g.2) s1

/-- A queue entry that only the area knows: no unit holds anything of it. Its pc is not in the area (log entry 41), and its wait
for a permit (R78) counts as the longest (log entry 117). -/
def blankEntry (id : Nat) : QEntry :=
  { id := id, pc := 0, p := 0, word := none, x := 0, y := 0, accs := [], pops := [], app := none,
    bound := [false, false, false, false], appd := [false, false, false, false], gold := none, ftz := false, at_ := 0, headAt := 0,
    setup := [], cap := 0, prog := 0, far := 0, susp := false, priv := false,
    begun := false }

/-- The issue positions from the landed ones and what is outstanding or to be replayed (R259, R261). -/
def Ctx.reIpos (c : Ctx) : Ctx :=
  { c with gens := Vector.ofFn fun i =>
      let g := c.gens[i]
      let pops := ((c.pend ++ c.replay).map fun p =>
        match p.act with | .pop k _ n _ => if k == i.val then n else 0 | _ => 0).foldl (· + ·) 0
      let stores := (c.stores.map fun p => match p.kind with | .append k n => if k == i.val then n else 0 | _ => 0).foldl
        (· + ·) 0
      let queued := (c.vq.map fun (e : QEntry) => match e.app with | some a => if a.g == i.val then a.n else 0 | none => 0).foldl
        (· + ·) 0
      { g with ipos := g.pos + BitVec.ofNat 32 (pops + stores + queued) } }

end Sys2Proof.Machine
end

