-- ==== Sys2Proof/Machine/Restore.lean ====
section
/-! DEFINITION. A context from the bytes of a save area (R387, R388). What stayed with the stations and engines at the save is bound
to the area where it was written (R386) and is taken from there; what they do not hold (an area that a driver has copied to another
place) is built again from the area's bytes alone, as S forwarded or issued it (log entry 83). -/

namespace Sys2Proof.Machine

/-- `n` bytes of an area as a number. -/
def State.areaLE (s : State) (pages : List Nat) (off n : Nat) : Nat := s.mem.readLE (areaLoc pages off) n

/-- A doubleword of an area. -/
def State.area64 (s : State) (pages : List Nat) (off : Nat) : Word := BitVec.ofNat 64 (s.areaLE pages off 8)

/-- The header is restorable (R387): magic, version, valid. -/
def State.areaValid (s : State) (pages : List Nat) : Bool :=
  s.areaLE pages 0 4 == 0x46535631 && s.areaLE pages 4 2 == 1 && s.areaLE pages 6 1 == 1

/-- The area was saved with this allocation (R387). -/
def State.areaFits (s : State) (pages : List Nat) (c : Ctx) : Bool :=
  s.areaLE pages 16 1 == c.rows && s.areaLE pages 17 1 == c.gran

/-- A generator from its bytes. -/
def State.areaGen (s : State) (pages : List Nat) (i : Nat) : Gen :=
  let o := 0x340 + 32 * i
  let f := s.areaLE pages (o + 20) 4
  let pos := BitVec.ofNat 32 (s.areaLE pages (o + 16) 4)
  { base := BitVec.ofNat 57 (s.areaLE pages o 8), stride := BitVec.ofNat 32 (s.areaLE pages (o + 8) 4),
    count := BitVec.ofNat 32 (s.areaLE pages (o + 12) 4), pos := pos, dir := f % 2 == 1,
    type := BitVec.ofNat 4 (f / 2), bound := f / 32 % 2 == 1, ipos := pos }

/-- The dependency field of an area's word. -/
def State.areaDep (s : State) (pages : List Nat) (o : Nat) : Dep := BitVec.ofNat 4 (s.areaLE pages o 4 / 2 ^ 28)

/-! ### Accesses of what is built again -/

/-- No location: an access whose address has no translation now, which its own walk must find (R371). -/
def noLoc : Nat := 2 ^ 59

/-- `n` bytes at a virtual address of the restored program on a core, as its tables translate them now; where they do not, the
access is walked again when it is made. -/
def State.areaVa (s : State) (c : Ctx) (core : Nat) (want : Want) (va : Word) (n : Nat) : Acc :=
  match placeOf core va.toNat with
  | .spad k off => ⟨va, spadLoc k off, n, 0, false⟩
  | .fmt k off => ⟨va, 0x01FF900000000000 + k * 0x1000 + off, n, 0, false⟩
  | _ =>
    match (s.walk c.root.toNat c.asid.toNat va.toNat).use va.toNat want false with
    | .ok pa gen => ⟨va, pa, n, gen, isDevice pa⟩
    | _ => ⟨va, noLoc, n, s.frameGen noLoc + 1, true⟩

/-- The 8-byte pieces of a transfer of `bits` bits, the access at each distance being `f` (R259). -/
def piecesOf (f : Nat → Nat → Acc) (bits : Nat) : List Acc :=
  let bytes := (bits + 7) / 8
  (List.range ((bytes + 7) / 8)).map fun i => f (8 * i) (Nat.min 8 (bytes - 8 * i))

/-- The accesses that S checks when it forwards a memory word (R241, R281): of a VLD or VST outside the own scratchpad, of a slice
word. -/
def State.areaAccs (s : State) (c : Ctx) (core : Nat) (i : Instr) (x y : Word) : List Acc :=
  let at_ (want : Want) (a : Word) (bits : Nat) : List Acc :=
    piecesOf (fun o n => s.areaVa c core want (a + BitVec.ofNat 64 o) n) bits
  let vm (want : Want) (imm : BitVec 9) : List Acc :=
    let va := x + imm.signExtend 64 * 128
    match placeOf core va.toNat with
    | .spad k _ => if k = core then [] else at_ want va 1024
    | _ => at_ want va 1024
  match i with
  | .vld _ _ _ _ o => vm .read o
  | .vldFeKeep _ _ _ o => vm .read o
  | .vldFeClear _ _ _ o => vm .read o
  | .vst _ _ _ _ o => vm .write o
  | .sldep .. => at_ .write (x + 16 * y) 128
  | .slmerge .. => at_ .read x (128 * Nat.min 4096 y.toNat)
  | _ => []

/-! ### The load replay list -/

/-- The access of a replay entry at a distance from its address (R388): the translated one, or for a late refusal one that is walked
again from the virtual address. -/
def State.areaAcc (s : State) (c : Ctx) (core : Nat) (late : Bool) (want : Want) (v o n : Nat) : Acc :=
  if late then s.areaVa c core want (BitVec.ofNat 64 (v + o)) n
  else ⟨0, v + o, n, s.frameGen (v + o), isDevice (v + o)⟩

/-- What a started VLD does at the location `loc` (R149, R253, R254): a bank of the core's own scratchpad under a format
converts. -/
def State.areaVld (s : State) (c : Ctx) (core : Nat) (g : GOp) (fe : Option Bool) (loc : Nat) (f : Nat → Nat → Acc) :
    Act × List Acc :=
  let o := spadOf loc
  let bank := o.2 / 0x8000
  let fmt := (s.fmtReg core bank).toNat
  let t := vtType c.vt
  let wb := tyWidth (bitsOf fmt 0 4)
  let b := o.2 % 0x8000
  let rnd := (c.vt.extractLsb' 7 3).toNat
  if winBase ≤ loc ∧ !isFmtLoc loc ∧ o.1 = core ∧ bitsOf fmt 0 4 ≠ 15 then
    let accs := ownPieces core o.2 (perVec t * wb / 64) ++ scaleAccs core fmt (b * 8 / wb) (perVec t)
    match fe with
    | some clear =>
      (.feconv clear (granulesOf (accs.take (perVec t * wb / 64))) core bank fmt b t rnd c.ftz (gCells g) c.vtMask, accs)
    | none => (.conv core bank fmt b t rnd c.ftz (gCells g) c.vtMask, accs)
  else
    let js := (List.range 16).filter (cellActive t c.vtMask)
    let cs := js.map fun j => (cellNo g j, cellMask t c.vtMask j)
    let accs := js.map fun j => f (8 * j) 8
    match fe with
    | some clear => (.fecells clear ((List.range 8).map ((loc - winBase) / 16 + ·)) cs, accs)
    | none => (.cells cs, accs)

/-- What the load of a replay entry does, from its word, its accesses `f`, its location and its index block (R388): its action, its
destinations and its accesses; none for a word that is no load. The registers and vt are the area's. -/
def State.areaLoad (s : State) (c : Ctx) (core : Nat) (i : Instr) (loc : Nat) (f : Nat → Nat → Acc) (ix : Nat → Nat → Acc)
    (x y : Word) : Option (Act × List Dst × List Acc) :=
  let one (n : Nat) (act : Act) (d : SReg) : Option (Act × List Dst × List Acc) := some (act, dstS d, [f 0 n])
  let amo (op : AmoOp) (d : SReg) : Option (Act × List Dst × List Acc) := one 8 (.amo op x y d) d
  let t := vtType c.vt
  let js := (List.range 16).filter (cellActive t c.vtMask)
  let vld (g : GOp) (fe : Option Bool) : Option (Act × List Dst × List Acc) :=
    let r := s.areaVld c core g fe loc f
    some (r.1, dstG g ++ (if r.1.mayFlag then [.fpsr] else []), r.2)
  let each (g : GOp) : Option (Act × List Dst × List Acc) :=
    some (.cells (js.map fun j => (cellNo g j, cellMask t c.vtMask j)), dstG g, js.map fun j => ix j 8)
  match i with
  | .lb _ d _ _ => one 1 (.load 1 true d) d
  | .lbu _ d _ _ => one 1 (.load 1 false d) d
  | .lh _ d _ _ => one 2 (.load 2 true d) d
  | .lhu _ d _ _ => one 2 (.load 2 false d) d
  | .lw _ d _ _ => one 4 (.load 4 true d) d
  | .lwu _ d _ _ => one 4 (.load 4 false d) d
  | .ld _ d _ _ => one 8 (.load 8 false d) d
  | .lda _ d _ _ z => one (2 ^ z.toNat) (.load (2 ^ z.toNat) false d) d
  | .lfe _ d _ _ => one 8 (.lfe false d) d
  | .lfec _ d _ _ => one 8 (.lfe true d) d
  | .fepoll _ d _ _ => one 1 (.fepoll (spadOf loc).1 (spadOf loc).2 d) d
  | .amoadd _ d _ _ _ _ => amo .add d
  | .amoand _ d _ _ _ _ => amo .and d
  | .amoor _ d _ _ _ _ => amo .or d
  | .amoxor _ d _ _ _ _ => amo .xor d
  | .amomin _ d _ _ _ _ => amo .min d
  | .amomax _ d _ _ _ _ => amo .max d
  | .amoswap _ d _ _ _ _ => amo .swap d
  | .amocas _ d _ _ _ _ => amo .cas d
  | .fsh _ d _ _ n => one 8 (.fsh n y x d none) d
  | .vld _ g _ _ _ => vld g none
  | .vldFeKeep _ g _ _ => vld g (some false)
  | .vldFeClear _ g _ _ => vld g (some true)
  | .vlds _ g _ _ => each g
  | .vldx _ g _ _ => each g
  | .vbcast _ g _ => some (.bcast (js.map fun j => (cellNo g j, cellMask t c.vtMask j)), dstG g, [f 0 8])
  | .slmerge _ g _ b =>
    some (.slmerge g t 0, (halves g).flatMap dstG ++ [.fpsr], piecesOf f (128 * Nat.min 4096 (c.reg b).toNat))
  | _ => none

/-- The destination of a word whose result a held entry keeps (R315). -/
def heldDst : Instr → SReg
  | .cntwait _ d _ _ => d
  | .wtdis _ d _ => d
  | .joindec _ d _ => d
  | .gnew _ d _ => d
  | .gbar _ d _ => d
  | .emit _ d _ _ => d
  | .pxlook _ d _ => d
  | .pxins _ d _ => d
  | .pxrel _ d _ => d
  | _ => 0

/-- A word that acquires at its landing (R96). -/
def acquires : Instr → Bool
  | .lda .. => true
  | .lfe .. => true
  | .lfec .. => true
  | .fepoll .. => true
  | .vldFeKeep .. => true
  | .vldFeClear .. => true
  | .amoadd _ _ _ _ ar _ => ar
  | .amoand _ _ _ _ ar _ => ar
  | .amoor _ _ _ _ ar _ => ar
  | .amoxor _ _ _ _ ar _ => ar
  | .amomin _ _ _ _ ar _ => ar
  | .amomax _ _ _ _ ar _ => ar
  | .amoswap _ _ _ _ ar _ => ar
  | .amocas _ _ _ _ ar _ => ar
  | _ => false

/-- An atomic (R247). -/
def isAmo : Instr → Bool
  | .amoadd .. => true
  | .amoand .. => true
  | .amoor .. => true
  | .amoxor .. => true
  | .amomin .. => true
  | .amomax .. => true
  | .amoswap .. => true
  | .amocas .. => true
  | _ => false

/-- The queue station of a load (R42). -/
def loadStation : Instr → Station
  | .vld .. => .v
  | .vldFeKeep .. => .v
  | .vldFeClear .. => .v
  | .vlds .. => .v
  | .vldx .. => .v
  | .vbcast .. => .v
  | _ => .s

/-- What a rebuilt pop feeds (R260): the queue entry's number, the elements, the place among its generator's transfers. -/
structure PopAt where
  entry : Nat
  n : Nat
  k : Nat
deriving DecidableEq, Repr

/-- Replay entry `i` of an area from its bytes alone (R387, R388); `pop` says where a stream pop belongs. -/
def State.areaPend (s : State) (pages : List Nat) (c : Ctx) (core id i : Nat) (pop : Nat → PopAt) : Option Pend :=
  let o := 0x800 + 32 * i
  let v := s.areaLE pages o 8
  let f := s.areaLE pages (o + 12) 1
  let late := f / 128 % 2 == 1
  let ixAt (j : Nat) : Nat := s.areaLE pages (0x1000 + 128 * i + 8 * j) 8
  match decode (BitVec.ofNat 32 (s.areaLE pages (o + 8) 4)) with
  | none => none
  | some w =>
    let st := (fwdOf w).st
    let st := if (fwdOf w).dsts.isEmpty ∧ f / 16 % 2 = 0 then Station.s else st
    let p := { Pend.mk0 (id + i) st 0 with
      word := some w, push := pushesOf st (BitVec.ofNat 4 (f / 2 % 2 * 2 + f / 4 % 2)), acq := acquires w,
      rel := acquires w && isAmo w, holdV := acquires w && st == Station.v, late := late }
    let want := if isAmo w then Want.write else Want.read
    let mk (o n : Nat) : Acc := s.areaAcc c core late want v o n
    if f % 2 = 1 then
      let d := heldDst w
      let q := { p with act := .remote, dsts := dstS d, wr := [.s d 0] }
      some (if f / 8 % 2 = 1 then q.result (BitVec.ofNat 64 v) none else q)
    else if f / 16 % 2 = 1 then
      let g := f / 32 % 4
      let a := pop i
      let ty := (c.gen g).type.toNat
      some { p with act := .pop g a.entry a.n ty, accs := piecesOf mk (a.n * tyWidth ty), ctr := some .lc }
    else
      (s.areaLoad c core w v mk (fun j n => s.areaAcc c core late want (ixAt j) 0 n) (BitVec.ofNat 64 (ixAt 0))
        (BitVec.ofNat 64 (ixAt 1))).map fun x =>
          { p with act := x.1, dsts := x.2.1, accs := x.2.2, ctr := some .lc, x := BitVec.ofNat 64 (ixAt 0),
                   y := BitVec.ofNat 64 (ixAt 1) }

/-- A distance applied to a number. -/
def moveBy (old new x : Nat) : Nat := ((x : Int) + (new : Int) - (old : Int)).toNat

/-- A replay entry with the area's address put over the one that was kept (R388): its pieces move with it. -/
def State.areaReplay (s : State) (pages : List Nat) (i : Nat) (p : Pend) : Pend :=
  let v := s.areaLE pages (0x800 + 32 * i) 8
  let f := s.areaLE pages (0x800 + 32 * i + 12) 1
  let ixAt (j : Nat) : Nat := s.areaLE pages (0x1000 + 128 * i + 8 * j) 8
  if f % 2 = 1 then
    if f / 8 % 2 = 1 then p.result (BitVec.ofNat 64 v) none else p
  else if p.indexed then
    match p.act with
    | .cells cs => { p with accs := (cs.zip p.accs).map fun x =>
        if p.late then { x.2 with va := BitVec.ofNat 64 (ixAt (p.lane x.1.1)) } else { x.2 with loc := ixAt (p.lane x.1.1) } }
    | _ => p
  else if p.late then { p with accs := p.accs.map fun a => { a with va := BitVec.ofNat 64 (moveBy p.firstAt v a.va.toNat) } }
  else { p with accs := p.accs.map fun a => { a with loc := moveBy p.firstAt v a.loc } }

/-! ### Held stores -/

/-- The bytes of a scalar store (R244 to R246). -/
def storeLen : Instr → Nat
  | .sb .. => 1
  | .sh .. => 2
  | .sw .. => 4
  | .sd .. => 8
  | .sfe .. => 8
  | .stl _ _ _ _ z => 2 ^ z.toNat
  | _ => 0

/-- Held store `i` of an area from its bytes alone (R373, R388): its address and data. What the entry does not show of a grid store,
its data beyond the first 8 bytes' place, is free (`fr`); an MSGW has its registers' values. -/
def State.areaStore (s : State) (pages : List Nat) (c : Ctx) (core id i : Nat) (fr : Nat → Word) : Option PStore :=
  let o := 0x480 + 32 * i
  let va := s.area64 pages o
  let x := s.area64 pages (o + 8)
  match decode (BitVec.ofNat 32 (s.areaLE pages (o + 16) 4)) with
  | none => none
  | some w =>
    let dep := s.areaDep pages (o + 16)
    let st : Station := if storeLen w ≠ 0 then .s else match w with | .msgw .. => .s | _ => .v
    let part (o n : Nat) (v : Word) : StPart := ⟨s.areaVa c core .write (va + BitVec.ofNat 64 o) n, lowMask n, v⟩
    let run (n : Nat) : List StPart := (List.range n).map fun j => part (8 * j) 8 (fr (16 * i + j))
    let p : PStore := { id := id + i, st := st, pc := 0, word := some w, x := x, due := some 0, parts := [], kind := .plain,
                        push := pushesOf st dep, rel := false, late := true, anew := false }
    if storeLen w ≠ 0 then
      some { p with parts := [part 0 (storeLen w) x], rel := match w with | .stl .. => true | .sfe .. => true | _ => false }
    else
      match w with
      | .vst .. => some { p with parts := run 16 }
      | .vsts .. => some { p with parts := run 1 }
      | .vstx .. => some { p with parts := run 1 }
      | .sldep .. => some { p with parts := run 2 }
      | .msgw _ d _ b =>
        let k := c.reg d
        let t := c.reg b
        some { p with
          parts := (List.range (Nat.max 1 (msgwLen k / 16))).map fun j =>
            ⟨s.areaVa c core .read (va + BitVec.ofNat 64 (16 * j)) 16, 0, 0⟩,
          kind := .msgw (msgwCore t) (msgwOff t) (msgwLen k) (msgwEntry t) (msgwIncr k), rel := true }
      | _ =>
        (Fwd.appGen (fwdOf w) c).map fun g =>
          let n := (c.gen g).next.1
          { p with parts := run ((n * tyWidth (c.gen g).type.toNat + 63) / 64), kind := .append g n }

/-- A held store that was kept, with the area's address and data put over its own. -/
def State.areaHeld (s : State) (pages : List Nat) (i : Nat) (p : PStore) : PStore :=
  let o := 0x480 + 32 * i
  let va := (s.area64 pages o).toNat
  let old := ((p.parts.map fun (q : StPart) => q.acc.va).headD 0).toNat
  let parts := p.parts.map fun (q : StPart) =>
    { q with acc := { q.acc with va := BitVec.ofNat 64 (moveBy old va q.acc.va.toNat) } }
  match p.word with
  | some w => if storeLen w = 0 then { p with parts := parts }
      else { p with x := s.area64 pages (o + 8), parts := parts.map fun q => { q with val := s.area64 pages (o + 8) } }
  | none => { p with parts := parts }

/-! ### The station queues -/

/-- The words of a queue. -/
def State.areaWords (s : State) (pages : List Nat) (base n : Nat) : List (Option Instr) :=
  (List.range n).map fun i => decode (BitVec.ofNat 32 (s.areaLE pages (base + 32 * i) 4))

/-- Which rows were bound as each word of the V queue was forwarded (R258): those bound now, less what its later words changed. -/
def boundsOf (now : List Bool) (ws : List (Option Instr)) : List (List Bool) :=
  (ws.foldr (fun w (acc : List Bool × List (List Bool)) =>
    let b := match w with
      | some (.sbind _ n) => acc.1.set n.toNat false
      | some (.sunbind _ n) => acc.1.set n.toNat true
      | _ => acc.1
    (b, b :: acc.2)) (now, [])).2

/-- The V queue's words with the generators that each pops and the one that it appends to (R260, R261). -/
def Ctx.flowOf (c : Ctx) (ws : List (Option Instr)) : List (List Nat × Option Nat) :=
  (ws.zip (boundsOf c.boundNow ws)).map fun x => match x.1 with
    | some i => ((fwdOf i).popsOf x.2 c.appdNow, (fwdOf i).appOf x.2 c.appdNow)
    | none => ([], none)

/-- A generator's transfer `k` after its pos (R259): the elements, the bits, the address. -/
def Gen.transferAt (g : Gen) (k : Nat) : Nat × Nat × Word :=
  Gen.next { g with ipos := BitVec.ofNat 32 (Nat.min g.count.toNat (g.pos.toNat + k * perVec g.type.toNat)) }

/-- How the words of the V queue that pop generator `g` stand (R260): those whose data has come, of which the area shows
nothing, then those whose pop is replayed, then those past the end of the stream. -/
def Ctx.popsCome (c : Ctx) (flow : List (List Nat × Option Nat)) (replayed g : Nat) : Nat :=
  let all := (flow.filter fun x => x.1.contains g).length
  if ((c.gen g).transferAt replayed).1 = 0 then 0 else all - replayed

/-- Where pop `k` of the replayed ones of generator `g` belongs. -/
def Ctx.popAt (c : Ctx) (flow : List (List Nat × Option Nat)) (id replayed g k : Nat) : PopAt :=
  let at_ := ((List.range flow.length).filter fun i => ((flow[i]?).map Prod.fst).any (·.contains g))
  { entry := id + nthD at_ (c.popsCome flow replayed g + k) flow.length, n := ((c.gen g).transferAt k).1, k := k }

/-- The pops of entry `i` of the V queue. -/
def Ctx.popIns (c : Ctx) (flow : List (List Nat × Option Nat)) (replayed : Nat → Nat) (i : Nat) (fr : Nat → Word) : List PopIn :=
  (((flow[i]?).map Prod.fst).getD []).map fun g =>
    let j := ((flow.take i).filter fun x => x.1.contains g).length
    let come := c.popsCome flow (replayed g) g
    if j < come then ⟨g, perVec (c.gen g).type.toNat, some ((List.range 16).map fun a => fr (64 * i + 16 * g + a))⟩
    else if j < come + replayed g then ⟨g, ((c.gen g).transferAt (j - come)).1, none⟩
    else ⟨g, 0, some (List.replicate 16 0)⟩

/-- The append of entry `i` of the V queue, behind `held` appends of its generator that are out. -/
def State.areaApp (s : State) (c : Ctx) (core : Nat) (flow : List (List Nat × Option Nat)) (held : Nat → Nat) (i : Nat) :
    Option AppOut :=
  ((flow[i]?).bind Prod.snd).map fun g =>
    let x := (c.gen g).transferAt (held g + ((flow.take i).filter fun y => y.2 == some g).length)
    ⟨g, x.1, x.2.1, piecesOf (fun o n => s.areaVa c core .write (x.2.2 + BitVec.ofNat 64 o) n) x.2.1⟩

/-- A queue entry with what the area shows put over what stayed with the station or engine (R386, R387). The cycle from which
its wait for a permit counts stays the one of before the save (log entry 117). -/
def State.areaQueue (s : State) (pages : List Nat) (o so sn : Nat) (engine : Bool) (e : QEntry) : QEntry :=
  { e with word := if s.areaLE pages o 4 = wordNat e.word then e.word else decode (BitVec.ofNat 32 (s.areaLE pages o 4)),
           x := s.area64 pages (o + 8), y := s.area64 pages (o + 16),
           prog := if engine then s.area64 pages (o + 24) else e.prog,
           setup := if engine then ((List.range sn).map fun i => s.area64 pages (so + 8 * i)) ++ e.setup.drop sn
             else e.setup }

/-- The capability that an engine command presents: that of the register it names. -/
def Ctx.capOf (c : Ctx) : Option Instr → Word
  | some (.mballoc _ _ _ n) => c.capReg n
  | some (.mbfree _ _ _ n) => c.capReg n
  | some (.mzero _ _ _ n) => c.capReg n
  | some (.mmac _ _ _ n) => c.capReg n
  | some (.mdrain _ _ _ n) => c.capReg n
  | some (.mfill _ _ _ n) => c.capReg n
  | _ => 0

/-- A queue entry from the area's bytes alone. A marker has no word; the pc is not in the area (log entry 41). -/
def State.areaEntry (s : State) (pages : List Nat) (c : Ctx) (core o id : Nat) (st : Station) (ps : List PopIn) (app : Option AppOut)
    (bound : List Bool) : QEntry :=
  let dep := s.areaDep pages o
  let x := s.area64 pages (o + 8)
  let y := s.area64 pages (o + 16)
  let prog := s.area64 pages (o + 24)
  match decode (BitVec.ofNat 32 (s.areaLE pages o 4)) with
  | none => { blankEntry id with p := dep }
  | some w =>
    { c.entryOf s.now id w dep st x y ps app (s.areaAccs c core w x y) with
      pc := 0, priv := false, bound := bound, cap := c.capOf (some w), prog := prog, begun := decide (prog ≠ 0) }

/-- The entries of one queue: those that stayed bound to the area, then those that only the area names. -/
def State.areaEntries (s : State) (pages : List Nat) (base sbase sn n : Nat) (engine : Bool) (old : List QEntry)
    (new : Nat → QEntry) : List QEntry :=
  (List.range n).map fun i =>
    s.areaQueue pages (base + 32 * i) (sbase + 8 * sn * i) sn engine ((old[i]?).getD (new i))

/-- The pending record of an entry that is built again (R80). -/
def Ctx.areaRecord (c : Ctx) (st : Station) (e : QEntry) : Option Pend :=
  e.word.map fun w => { c.recordOf e.id w e.p st e.x e.y (fwdOf w).dsts with pc := 0 }

/-- An entry of the area stands at its engine: it has made progress, or a fault record names it (R384). -/
def QEntry.atEngine (recs : List Nat) (e : QEntry) : Bool := e.begun || recs.contains e.id

/-- The wait of an area to which no unit's entries are bound, from its header (R388): that of its held entry. -/
def State.areaWait (s : State) (pages : List Nat) (reps : List Pend) : Block :=
  match reps.find? fun p => p.held && p.st == .s with
  | none => .none
  | some p =>
    let a := s.areaLE pages 24 8
    let b := s.areaLE pages 32 8
    if p.act == .vals then .landing p.id
    else match s.areaLE pages 23 1 with
      | 1 => .cntwait p.id a b
      | 2 => .gbar p.id (a / 4096) (a % 4096) b
      | _ => .none

/-- A held entry of the area has no result yet, and is no wait that goes on after the restore (R318, R324, R387). -/
def State.areaHeldOut (s : State) (pages : List Nat) : Bool :=
  s.areaLE pages 23 1 == 0 && (List.range (Nat.min 64 (s.areaLE pages 19 1))).any fun i =>
    s.areaLE pages (0x800 + 32 * i + 12) 1 % 16 / 8 == 0 && s.areaLE pages (0x800 + 32 * i + 12) 1 % 2 == 1

/-! ### Fault records -/

/-- Fault record `i` of an area (R384, R388). -/
def State.areaAfr (s : State) (pages : List Nat) (i : Nat) : Afr :=
  let g (o : Nat) : Word := s.area64 pages (0x580 + 32 * i + o)
  { w0 := g 0 &&& 0x1FFFF#64, w1 := g 8, w2 := g 16, w3 := g 24 &&& 0xFFFFFFFF#64, held := none, entry := none }

/-- The held access that each late-refusal record names: the first of its word that no earlier record has. -/
def bindHeld : List (Nat × Nat) → List Afr → List Afr
  | _, [] => []
  | cs, r :: rest =>
    if wfld r.w0 4 8 ≠ 19 then r :: bindHeld cs rest
    else
      match cs.find? fun x => x.2 == r.w3.toNat with
      | some x => { r with held := some x.1 } :: bindHeld (cs.filter fun y => y.1 != x.1) rest
      | none => r :: bindHeld cs rest

/-- The engine entry that a fault record names, by its path and its position in the station's queue (R48, R384). -/
def bindEntry (ms cs : List QEntry) (r : Afr) : Afr :=
  let e := match wfld r.w0 0 4 with
    | 1 => cs[wfld r.w0 14 3]?
    | 2 => ms[wfld r.w0 14 3]?
    | 3 => ms[wfld r.w0 14 3]?
    | _ => none
  if wfld r.w0 4 8 = 19 then r else { r with entry := e.map QEntry.id }

/-! ### The context -/

/-- The fields of an area that no unit holds a part of (R388): into `c`, whose berth, allocation and environment stay its own.
Reserved bits read as zero (R5). The area has no capability registers: those of `c` stay (log entry 92). -/
def State.areaFields (s : State) (pages : List Nat) (c : Ctx) : Ctx :=
  let g (o : Nat) : Word := s.area64 pages o
  let nl (o n : Nat) : Nat := s.areaLE pages o n
  let cnt := nl 0x318 8
  { c with
    regs := Vector.ofFn fun i => if i.val = 0 then 0 else g (0x100 + 8 * i.val),
    masks := Vector.ofFn fun i => BitVec.ofNat 256 (nl (0x200 + 32 * i.val) 32),
    grid := Vector.ofFn fun i => if i.val / 16 < c.rows then g (0x4000 + 8 * i.val) else 0,
    spill := (List.range (1024 * c.gran)).foldl (fun m i => m.write i (s.mem.read (areaLoc pages (0x5000 + i)))) [],
    vt := BitVec.ofNat 12 (nl 0x300 2 % 1024), fpsr := g 0x308 &&& fpsrMask, mport := g 0x310 &&& 0xFFFFFF0A#64,
    lc := bitsOf cnt 0 6, sc := bitsOf cnt 6 6, cc := bitsOf cnt 12 6, tc := bitsOf cnt 18 6,
    toks := Vector.ofFn fun i => bitsOf (nl 0x320 8) (4 * i.val) 4,
    erc := nl 0x330 1 % 2 == 1, retired := g 0x338,
    gens := Vector.ofFn fun i => { s.areaGen pages i.val with bound := nl 0x328 1 / 2 ^ i.val % 2 == 1 },
    cs := Vector.ofFn fun i => g (0x3C0 + 8 * i.val), ms := Vector.ofFn fun i => g (0x400 + 8 * i.val),
    prio := nl 18 1 % 8, thread := g 40, team := g 48, first := g 56, count := g 64, root := g 72,
    asid := g 80 &&& 0xFFFFF#64, tvec := g 88 &&& ~~~3#64, scr0 := g 96, scr1 := g 104, derr := g 112,
    priv := false, spillW := [], entry := none }

/-- How many queue entries and replay entries of each kind an area has. -/
def State.areaV (s : State) (pages : List Nat) : Nat := Nat.min 16 (s.areaLE pages 20 1)
def State.areaM (s : State) (pages : List Nat) : Nat := Nat.min 8 (s.areaLE pages 21 1)
def State.areaC (s : State) (pages : List Nat) : Nat := Nat.min 8 (s.areaLE pages 22 1)
def State.areaR (s : State) (pages : List Nat) : Nat := Nat.min 64 (s.areaLE pages 19 1)
def State.areaA (s : State) (pages : List Nat) : Nat := Nat.min 8 (s.areaLE pages 120 1)
def State.areaH (s : State) (pages : List Nat) : Nat := Nat.min 8 (s.areaLE pages 121 1)

/-- The generator of replay entry `i`, where it is a stream pop (R388). -/
def State.areaPopGen (s : State) (pages : List Nat) (i : Nat) : Option Nat :=
  let f := s.areaLE pages (0x800 + 32 * i + 12) 1
  if f % 2 = 0 ∧ f / 16 % 2 = 1 then some (f / 32 % 4) else none

/-- The numbers that the words of an area take: its held stores and replayed loads come before its queues (log entry 83). -/
def idHeld : Nat := 0
def idReplay : Nat := 8
def idV : Nat := 72
def idM : Nat := 88
def idC : Nat := 96
def idEnd : Nat := 104

/-- The context of an area whose entries stayed with the units, `v` (R386, R387). -/
def State.areaKept (s : State) (pages : List Nat) (c : Ctx) (core : Nat) (v : Saved) : Ctx :=
  let r := s.areaFields pages c
  let id := Nat.max c.nextId v.nextId
  let new (base n : Nat) (st : Station) (i : Nat) : QEntry :=
    s.areaEntry pages r core (base + 32 * i) (id + n + i) st [] none [false, false, false, false]
  let ms := s.areaEntries pages 0x3200 0x3400 16 (s.areaM pages) true (v.atE ++ v.atM.toList ++ v.mq) (new 0x3200 idM .m)
  let cs := s.areaEntries pages 0x3300 0x3800 8 (s.areaC pages) true (v.atC.toList ++ v.cq) (new 0x3300 idC .c)
  let ne := v.atE.length
  let nm := v.atM.toList.length
  let nc := v.atC.toList.length
  let reps := v.replay.mapIdx fun i p => s.areaReplay pages i p
  let held := (v.stores.filter (·.late)).mapIdx fun i p => s.areaHeld pages i p
  { r with
    uid := v.uid,
    vq := s.areaEntries pages 0x3000 0 0 (s.areaV pages) false v.vq (new 0x3000 idV .v),
    min := ms.take ne, mact := (ms.drop ne).head?.filter (fun _ => nm = 1), mq := ms.drop (ne + nm),
    cact := cs.head?.filter (fun _ => nc = 1), cq := cs.drop nc,
    pend := c.pend ++ v.remote ++ reps.filter (·.late), replay := reps.filter fun p => !p.late,
    stores := c.stores ++ v.stores.map fun p => (held.find? fun q => q.id == p.id).getD p,
    owed := v.owed, done := v.done,
    afr := (List.range (s.areaA pages)).map fun i =>
      { s.areaAfr pages i with held := ((v.afr[i]?).bind Afr.held), entry := ((v.afr[i]?).bind Afr.entry) },
    hwait := v.block, nextId := id + idEnd }

/-- The context of an area from its bytes alone, on a core (R387, log entry 83). -/
def State.areaBuilt (s : State) (pages : List Nat) (c : Ctx) (core : Nat) : Ctx :=
  let r := s.areaFields pages c
  let id := c.nextId
  let fr (n : Nat) : Word := Config.freeWord (s.freeN + n)
  let ws := s.areaWords pages 0x3000 (s.areaV pages)
  let flow := r.flowOf ws
  let bounds := boundsOf r.boundNow ws
  let popsOf (n : Nat) : List Nat := (List.range n).filterMap (s.areaPopGen pages)
  let replayed (g : Nat) : Nat := (popsOf (s.areaR pages)).count g
  let pop (i : Nat) : PopAt :=
    let g := (s.areaPopGen pages i).getD 0
    r.popAt flow (id + idV) (replayed g) g ((popsOf i).count g)
  let reps := (List.range (s.areaR pages)).filterMap fun i => s.areaPend pages r core (id + idReplay) i pop
  let stores := (List.range (s.areaH pages)).filterMap fun i => s.areaStore pages r core (id + idHeld) i fr
  let out (g : Nat) : Nat := (stores.filter fun p => match p.kind with | .append k _ => k == g | _ => false).length
  let vq := (List.range (s.areaV pages)).map fun i =>
    s.areaEntry pages r core (0x3000 + 32 * i) (id + idV + i) .v (r.popIns flow replayed i fun n => fr (128 + n))
      (s.areaApp r core flow out i) (nthD bounds i [])
  let old : List QEntry := []
  let ms := s.areaEntries pages 0x3200 0x3400 16 (s.areaM pages) true old fun i =>
    s.areaEntry pages r core (0x3200 + 32 * i) (id + idM + i) .m [] none []
  let cs := s.areaEntries pages 0x3300 0x3800 8 (s.areaC pages) true old fun i =>
    s.areaEntry pages r core (0x3300 + 32 * i) (id + idC + i) .c [] none []
  let late := reps.filter (·.late)
  let afr := (bindHeld (late.map (fun p => (p.id, wordNat p.word)) ++ stores.map fun p => (p.id, wordNat p.word))
    ((List.range (s.areaA pages)).map (s.areaAfr pages))).map (bindEntry ms cs)
  let recs := afr.filterMap Afr.entry
  let susp (e : QEntry) : QEntry := { e with susp := recs.contains e.id }
  let ne := (ms.takeWhile (QEntry.atEngine recs)).length
  let nc := ((cs.take 1).takeWhile (QEntry.atEngine recs)).length
  let reps0 := reps.filter fun p => !p.late
  { r with
    vq := vq, min := (ms.take ne).map susp, mact := none, mq := ms.drop ne,
    cact := ((cs.take nc).map susp).head?, cq := cs.drop nc,
    pend := c.pend ++ vq.filterMap (r.areaRecord .v) ++ ms.filterMap (r.areaRecord .m) ++ cs.filterMap (r.areaRecord .c) ++ late,
    replay := reps0, stores := c.stores ++ stores, owed := [], done := [], afr := afr,
    hwait := s.areaWait pages reps0, nextId := id + idEnd }

/-- The free values that an area built from its bytes alone may use. -/
def areaFree : Nat := 128 + 64 * 16

/-- The context of an area (R387), its issue positions following from pos, the replay list and the queues (R261). -/
def State.areaCtx (s : State) (pages : List Nat) (c : Ctx) (core : Nat) (sv : Option Saved) : Ctx :=
  let r := match sv with
    | some v => s.areaKept pages c core v
    | none => s.areaBuilt pages c core
  { r.reIpos with cnt0 := r.cntWord, tok0 := r.tokWord }

end Sys2Proof.Machine
end

