-- ==== Sys2Proof/Machine/Drain.lean ====
section
/-! DEFINITION. What lands before a handler or a save (R83, R385): fixed-latency writes, accepted SFU results and stores in
issue order, variable loads abandoned into the replay list; and the replay at the return (R331). -/

namespace Sys2Proof.Machine

/-- A list of numbers with `x` at its place in rising order. -/
def insNat (x : Nat) : List Nat → List Nat
  | [] => [x]
  | y :: r => if x ≤ y then x :: y :: r else y :: insNat x r

/-- The numbers of a list in rising order. -/
def sortNat (l : List Nat) : List Nat := l.foldr insNat []

/-- All writes of word `p` land now, later words' values staying over earlier ones (R83). -/
def Ctx.forceVals (c : Ctx) (p : Pend) : Ctx :=
  let ds := p.own.filterMap Wr.dst
  let c1 : Ctx := { c with
    pend := c.pend.map fun q => if q.id < p.id then { q with dsts := q.dsts.filter fun d => !(ds.contains d) } else q,
    replay := c.replay.map fun q => if q.id < p.id then { q with dsts := q.dsts.filter fun d => !(ds.contains d) } else q }
  let c2 := p.own.foldl (fun c w => c.landWr p.id w) c1
  (((c2.dropPend p.id).decCtr? p.ctr).landFlags p.id p.flags).complete p.st p.id p.push

/-- A load takes effect before a later access of its context, so an entry that performs the later one lands the load first. -/
def Ctx.before (c : Ctx) (p : Pend) (x : LsAcc) : Bool :=
  decide (p.id < x.id) && p.isLs &&
    (accsMeet p.accs x.accs || accsMeet p.bits x.bits || x.rel || !x.push.isEmpty || p.acq || c.tokenBetween p.push p.id x.id)

/-- The pending loads that arrive before the entry or halt (R83), latest first: a later word writes one of their destinations
with its value known, or the orders of R95 to R97 put them before a store that drains, or before another of them. -/
def Ctx.mustLand (c : Ctx) : List Nat :=
  let base (p : Pend) : Bool :=
    (c.pend.any fun q => decide (p.id < q.id) && q.act == .vals && q.due.isSome && q.dsts.any p.dsts.contains) ||
    (c.stores.any fun q => !q.late && c.before p q.ls)
  let ps := ((sortNat (c.pend.map (·.id))).reverse.filterMap c.pendOf).filter fun p => p.due.isSome && !p.late
  (ps.foldl (fun l p => if base p || l.any (fun q => c.before p q.ls) then p :: l else l) ([] : List Pend)).map (·.id)

/-- The pending word `p` at a trap entry or halt (R83): known values land, a load that has started is abandoned into the
replay list, a word whose result has not come enters it as held (R315), what has not started stays. -/
def State.drainPend (s : State) (k : Nat) (c : Ctx) (must : List Nat) (p : Pend) : State :=
  if p.late then s
  else if p.out s.now then s.putCtx k { c.dropPend p.id with replay := c.replay ++ [p] }
  else if p.due.isNone then s
  else if p.act == .vals then s.putCtx k (c.forceVals p)
  else if must.contains p.id && s.actReady p && !(p.isLs && c.lsHeld p.ls) && !(s.locked (k / 4) p.accs) &&
      !(s.blocked (dieOf (k / 4)) p.excl (sectorsOf p.accs)) then
    let s1 := (s.ownAll (dieOf (k / 4)) p.excl (sectorsOf p.accs)).landOne k c p
    match s1.ctxAt k with
    | none => s1
    | some c1 =>
      match c1.pendOf p.id with
      | some q => if q.act == .vals then s1.putCtx k (c1.forceVals q) else s1
      | none => s1
  else s.putCtx k { (c.dropPend p.id).decCtr? p.ctr with replay := c.replay ++ [p] }

/-- The word numbered `id` at a trap entry or halt: its pending writes, its stores. A store that the orders hold behind a load
of the replay list or a word that has not started is not performed before it, nor one to a locked bank: it stands until that
is (R97, R105, log entry 79). One whose sector the die lacks, or whose bank a live command locks, drains before the handler's first
word (R363). -/
def State.drainId (s : State) (k : Nat) (must : List Nat) (id : Nat) : State :=
  let s1 := match s.ctxAt k with
    | none => s
    | some c => match c.pendOf id with
      | none => s
      | some p => s.drainPend k c must p
  match s1.ctxAt k with
  | none => s1
  | some c => (c.stores.filter fun p => p.id == id && !p.late && p.due.isSome && !(c.lsHeld p.ls) &&
      !(s1.locked (k / 4) p.accs) && !(s1.blocked (dieOf (k / 4)) p.excl (sectorsOf p.cached))).foldl
      (fun s p => (s.ownAll (dieOf (k / 4)) p.excl (sectorsOf p.cached)).storeOne k c p) s1

/-- The drain of R83 for berth `k`, in issue order. -/
def State.drain (s : State) (k : Nat) : State :=
  match s.ctxAt k with
  | none => s
  | some c => (sortNat (c.pend.map (·.id) ++ c.stores.map (·.id))).foldl (fun s id => s.drainId k c.mustLand id) s

/-- The replay list is issued again (R83, R331): destinations pending, loads counted, tokens due at their landings; held
results land from their recorded values; accesses kept after a late refusal are performed again (R373). Counted on top of words
that are still out, they can take lc past 63 (log entry 91). -/
def Ctx.reissue (c : Ctx) (now : Nat) : Ctx :=
  let kept (id : Nat) : Bool := !(c.afr.any fun r => r.held == some id) && !(c.afrWait.any fun r => r.held == some id)
  let c1 := c.replay.foldl (fun c p => match p.ctr with | some k => c.incCtr k | none => c) c
  { c1 with
    replay := [],
    pend := (c1.replay.map fun p => { p with due :=
      if p.act == .remote then none else if p.ctr.isNone then some (Nat.max now (p.due.getD now)) else some now }) ++
      c1.pend.map fun p => if p.late && kept p.id then { p with late := false, anew := true, due := some now } else p,
    stores := c1.stores.map fun p => if p.late && kept p.id then { p with late := false, anew := true, due := some now } else p }

/-- Whether a fault record of an engine entry still stands (R384). -/
def Ctx.hasRecord (c : Ctx) (id : Nat) : Bool :=
  (c.afr.any fun r => r.entry == some id) || (c.afrWait.any fun r => r.entry == some id)

/-- A suspended engine entry resumes once its record is removed (R192, R310). -/
def Ctx.resume (c : Ctx) (e : QEntry) : QEntry := if e.susp && !(c.hasRecord e.id) then { e with susp := false } else e

/-- The wait that goes on after a handler: a landing that has been made meanwhile has ended. -/
def Ctx.waitAgain (c : Ctx) : Block :=
  match c.hwait with
  | .landing id => if (c.pendOf id).isSome then .landing id else .none
  | b => b

/-- A halted program goes on (R331, R388): its replay list is issued again, its suspended engine entries without a record go on,
and so does the wait it was halted in. -/
def Ctx.goOn (c : Ctx) (now : Nat) : Ctx :=
  let c1 := c.reissue now
  { c1 with hwait := .none, block := c1.waitAgain, min := c1.min.map c1.resume, cact := c1.cact.map c1.resume }

/-- The units that hold what stays with the engines at a save on a core (R386). -/
def Ctx.toSaved (c : Ctx) (core : Nat) : Saved :=
  { uid := c.uid, core := core, launch := c.launch, env := c.env, nextId := c.nextId, vq := c.vq, mq := c.mq, cq := c.cq,
    atM := c.mact, atC := c.cact, atE := c.min, block := c.waitNow, replay := c.replay ++ c.pend.filter (·.late), afr := c.afr,
    remote := c.pend.filter fun p => !p.late && p.due.isNone, stores := c.stores, owed := c.owed, done := c.done }

end Sys2Proof.Machine
end

