-- ==== Sys2Proof/Machine/Groups.lean ====
section
/-! DEFINITION. Groups and their barriers (R139, R323, R324): opening, arriving, joining, leaving and completing a phase.
A group is keyed by 4,096 × home + number. -/

namespace Sys2Proof.Machine

/-- The group of a key. -/
def State.group (s : State) (g : Nat) : Group := mgetD s.groups g Group.reset

/-- The package with a group replaced. -/
def State.setGroup (s : State) (g : Nat) (v : Group) : State := { s with groups := mput s.groups g v }

/-- The key of a handle (R323): none when the upper bits are nonzero, the home does not exist or the group is free. -/
def State.handle (s : State) (h : Word) : Option Nat :=
  let n := h.toNat
  let g := 4096 * bitsOf n 12 3 + bitsOf n 0 12
  if 2 ^ 15 ≤ n ∨ 4 < bitsOf n 12 3 ∨ (s.group g).live = false then none else some g

/-- The handle of a key (R323). -/
def handleOf (g : Nat) : Word := BitVec.ofNat 64 g

/-- The context `uid` is a member. -/
def Group.isMember (g : Group) (uid : Nat) : Bool := g.members.any fun m => m.1 == uid

/-- The context joined while the open phase was open. -/
def Group.isNew (g : Group) (uid : Nat) : Bool := g.members.any fun m => m.1 == uid && m.2

/-- How many arrivals the open phase needs: N in fixed mode, else the sample taken at its opening (R139). -/
def Group.needed (g : Group) : Nat := if g.fixed then g.n else g.need

/-- A phase opens (R139): the need is sampled, and every member is counted in it. -/
def Group.openPhase (g : Group) : Group :=
  { g with isOpen := true, need := g.members.length, members := g.members.map fun m => (m.1, false) }

/-- A result reaches a save area (R315): its held entry takes it, in the area's bytes too (R388), and the wait has ended. -/
def State.savedResult (s : State) (loc : Nat) (sv : Saved) (id : Nat) (v : Word) : State :=
  let o := loc + 0x800 + 32 * (sv.replay.findIdx fun p => p.id == id)
  let rep := sv.replay.map fun p => if p.id == id then p.result v none else p
  { s with mem := (s.mem.writeLE o 8 v.toNat).write (o + 12) (s.mem.read (o + 12) ||| 8),
           saved := mput s.saved loc { sv with replay := rep, block := .landing id } }

/-- The saved contexts among `uids` that wait for `phase` of the group: what happens to each (R139, R315). -/
def State.eachSaved (s : State) (gk phase : Nat) (uids : List Nat) (f : State → Nat → Saved → Nat → State) : State :=
  s.saved.foldl (fun s x =>
    match x.2.block with
    | .gbar id home num ph => if home * 4096 + num = gk ∧ ph = phase ∧ uids.contains x.2.uid then f s x.1 x.2 id else s
    | _ => s) s

/-- The contexts among `uids` that wait for `phase` of the group: the completed ones are released, with a group event on
their cores (R332); a saved one has its result written into its area (R315). -/
def State.release (s0 : State) (gk phase : Nat) (uids : List Nat) : State :=
  let s := s0.eachSaved gk phase uids fun s loc sv id => s.savedResult loc sv id (BitVec.ofNat 64 phase)
  s.liveKeys.foldl (fun s k =>
    match s.ctxAt k with
    | none => s
    | some c =>
      match c.waitNow with
      | .gbar id home num ph =>
        if home * 4096 + num = gk ∧ ph = phase ∧ uids.contains c.uid then
          (s.putCtx k (c.waitDone s.now id (BitVec.ofNat 64 phase))).coreEvent (k / 4)
        else s
      | _ => s) s

/-- Waiters beyond the need of a completed phase now wait for the next one (R139, R324), in a save area too. -/
def State.carry (s0 : State) (gk phase : Nat) (uids : List Nat) : State :=
  let next := (phase + 1) % 2 ^ 32
  let s := s0.eachSaved gk phase uids fun s loc sv id =>
    { s with mem := s.mem.writeLE (loc + 32) 8 next,
             saved := mput s.saved loc { sv with block := .gbar id (gk / 4096) (gk % 4096) next } }
  s.liveKeys.foldl (fun s k =>
    s.updCtx k fun c =>
      match c.waitNow with
      | .gbar id home num ph =>
        if home * 4096 + num = gk ∧ ph = phase ∧ uids.contains c.uid then
          c.setWait (.gbar id home num next)
        else c
      | _ => c) s

/-- Phases complete while the open one has its arrivals (R139): at most `fuel` of them. -/
def State.settleGroup : Nat → State → Nat → State
  | 0, s, _ => s
  | fuel + 1, s, gk =>
    let g := s.group gk
    if g.isOpen ∧ g.needed ≤ g.arr.length then
      let now := g.arr.take g.needed
      let late := g.arr.drop g.needed
      let s1 := (s.release gk g.phase now).carry gk g.phase late
      let g1 := { g with phase := (g.phase + 1) % 2 ^ 32, isOpen := false, arr := late ++ g.next, next := [] }
      let g2 := if g1.arr.isEmpty then { g1 with members := g1.members.map fun m => (m.1, false) } else g1.openPhase
      State.settleGroup fuel (s1.setGroup gk g2) gk
    else s

/-- Completion of every phase that has its arrivals. -/
def State.settle (s : State) (gk : Nat) : State :=
  State.settleGroup ((s.group gk).arr.length + (s.group gk).next.length + 1) s gk

/-- The phase toward which an arrival of the context counts (R139): the next one for a context that joined while a phase is
open. -/
def Group.phaseFor (g : Group) (uid : Nat) : Nat :=
  if g.isOpen && g.isNew uid then (g.phase + 1) % 2 ^ 32 else g.phase

/-- One arrival (R139); a phase opens at its first. -/
def State.arrive (s : State) (gk uid : Nat) : State :=
  let g := s.group gk
  if g.isOpen && g.isNew uid then s.setGroup gk { g with next := g.next ++ [uid] }
  else
    let g1 := if g.isOpen then g else g.openPhase
    (s.setGroup gk { g1 with arr := g1.arr ++ [uid] }).settle gk

/-- A context joins (R139, R324). -/
def State.join (s : State) (gk uid : Nat) : State :=
  let g := s.group gk
  if g.isMember uid then s else s.setGroup gk { g with members := g.members ++ [(uid, g.isOpen)] }

/-- A context leaves (R139): one counted in the open phase that has not arrived counts as arrived. -/
def State.leave (s : State) (gk uid : Nat) : State :=
  let g := s.group gk
  if !(g.isMember uid) then s
  else
    let g1 := { g with members := g.members.filter fun m => m.1 != uid }
    if g.isOpen && !(g.isNew uid) && !(g.arr.contains uid) then
      (s.setGroup gk { g1 with arr := g1.arr ++ [uid] }).settle gk
    else s.setGroup gk { g1 with next := g1.next.filter (· != uid) }

/-- A context that ends leaves every group (R321, R379). -/
def State.leaveAll (s : State) (uid : Nat) : State :=
  (s.groups.map Prod.fst).foldl (fun s gk => s.leave gk uid) s

/-- The deadlock trap withdraws an arrival (R324). -/
def State.withdraw (s : State) (gk uid : Nat) : State :=
  let g := s.group gk
  s.setGroup gk { g with arr := g.arr.filter (· != uid), next := g.next.filter (· != uid) }

/-- The mode is set, and applies at once to an open phase (R324). -/
def State.modeSet (s : State) (gk n : Nat) : State :=
  let g := s.group gk
  (s.setGroup gk { g with fixed := decide (n ≠ 0), n := n, need := g.members.length }).settle gk

/-- Some context is blocked in a GBAR on the group, here or in a save area (R324). -/
def State.hasWaiter (s : State) (gk : Nat) : Bool :=
  let waits (b : Block) : Bool := match b with | .gbar _ home num _ => home * 4096 + num == gk | _ => false
  (s.liveKeys.any fun k => match s.ctxAt k with | some c => waits c.waitNow | none => false) ||
  (s.saved.any fun x => waits x.2.block)

/-- The lowest free group at a home (R324). -/
def State.freeGroup (s : State) (home : Nat) : Option Nat :=
  ((List.range 4096).map (4096 * home + ·)).find? fun g => !(s.group g).live

end Sys2Proof.Machine
end

