-- ==== Sys2Proof/Machine/Tasks.lean ====
section
/-! DEFINITION. Threads: environments (R350), continuation records and run queues (R131 to R135), waiting-task entries and
ready lists (R137), the creation of contexts (R113), launches and teams (R123 to R130), the end of a context (R321, R379). -/

namespace Sys2Proof.Machine

/-- What an environment entry gives a context (R350). -/
structure EnvEntry where
  root : Word
  asid : Nat
  tvec : Word
deriving DecidableEq, Repr

/-- Environment entry `n`, if valid (R350). -/
def State.env (s : State) (n : Nat) : Option EnvEntry :=
  let b := 0x80000 + 64 * n
  if s.cfgLE (b + 12) 1 % 2 = 1 then
    some { root := s.cfg64 b, asid := s.cfgLE (b + 8) 4 % 2 ^ 20, tvec := s.cfg64 (b + 16) &&& ~~~3#64 }
  else none

/-- A continuation record from its 32 bytes (R131). -/
def recOfNat (n : Nat) : Rec :=
  { code := BitVec.ofNat 64 n, frame := BitVec.ofNat 64 (n / 2 ^ 64), join := BitVec.ofNat 32 (n / 2 ^ 128),
    flags := BitVec.ofNat 8 (n / 2 ^ 160), rows := BitVec.ofNat 8 (n / 2 ^ 168), gran := BitVec.ofNat 16 (n / 2 ^ 176),
    parent := BitVec.ofNat 64 (n / 2 ^ 192) }

/-- The 32 bytes of a record (R131). -/
def recBytes (r : Rec) : List Byte :=
  leBytes r.code.toNat 8 ++ leBytes r.frame.toNat 8 ++ leBytes r.join.toNat 4 ++ [r.flags, r.rows] ++
  leBytes r.gran.toNat 2 ++ leBytes r.parent.toNat 8

/-- A record is invalid (R131). -/
def Rec.bad (r : Rec) : Bool :=
  decide (r.code.toNat % 4 ≠ 0) || decide (r.flags.toNat / 16 ≠ 0) || decide (16 < r.rows.toNat) ||
  decide (32 < r.gran.toNat)

/-- A record's priority (R131). -/
def Rec.prio (r : Rec) : Nat := r.flags.toNat % 8

/-- A record's local bit (R131). -/
def Rec.isLocal (r : Rec) : Bool := r.flags.toNat / 8 % 2 == 1

/-- A grid request rounded up (R120). -/
def roundRows (g : Nat) : Nat := (g + 3) / 4 * 4

/-- The contexts of a core. -/
def State.coreCtxs (s : State) (core : Nat) : List Ctx := (List.range 4).filterMap fun b => s.ctxAt (4 * core + b)

/-- The scratchpad bytes that a context's launch asked for (R118). -/
def State.scratchOf (s : State) (c : Ctx) : Nat :=
  match c.launch with
  | none => 0
  | some l => (((s.launches.find? fun x => x.id == l).map Launch.scratch).getD 0)

/-- The lowest free berth of a core that is not retired (R127, R420). -/
def State.freeBerth (s : State) (core : Nat) : Option Nat :=
  if s.retiredCores.contains core then none
  else (List.range 4).find? fun b => (s.ctxAt (4 * core + b)).isNone

/-- A context of this size fits beside the resident ones (R120). -/
def State.fits (s : State) (core rows gran scratch : Nat) : Bool :=
  let cs := s.coreCtxs core
  (s.freeBerth core).isSome &&
  decide (((cs.map Ctx.rows).foldl (· + ·) 0) + rows ≤ 64) &&
  decide (((cs.map Ctx.gran).foldl (· + ·) 0) + gran ≤ 64) &&
  decide (((cs.map s.scratchOf).foldl (· + ·) 0) + scratch ≤ 524288)

/-- A fresh context with the state of R113, in environment `e` of number `env`. -/
def State.freshCtx (s : State) (env : Nat) (e : EnvEntry) (pc : Word) (rows gran prio : Nat) : Ctx :=
  { Ctx.reset with
    uid := s.nextUid, pc := pc, rows := rows, gran := gran, prio := prio, env := env, root := e.root,
    asid := BitVec.ofNat 64 e.asid, tvec := e.tvec, erc := s.cfgLE 0x3008 1 % 2 == 1, readyAt := s.now }

/-- A context takes the lowest free berth of a core. -/
def State.place (s : State) (core : Nat) (c : Ctx) : State :=
  match s.freeBerth core with
  | none => s
  | some b => { s.putCtx (4 * core + b) c with nextUid := s.nextUid + 1 }

/-- A record becomes a context (R113, R134, R350); one whose environment is not valid is discarded at creation. -/
def State.startRec (s : State) (core : Nat) (q : QRec) : State :=
  match s.env q.env with
  | none => s.count 0x1B0 1
  | some e =>
    let c := s.freshCtx q.env e q.r.code (roundRows q.r.rows.toNat) q.r.gran.toNat q.r.prio
    s.place core ((c.setReg 2 q.r.frame).setReg 3 q.r.parent)

/-- A record fits a free berth of the core (R120). -/
def State.recFits (s : State) (core : Nat) (q : QRec) : Bool := s.fits core (roundRows q.r.rows.toNat) q.r.gran.toNat 0

/-! ### Run queues -/

/-- The capacity of run queue `q` (R349). -/
def State.runqCap (s : State) (q : Nat) : Nat := s.cfgLE (0x2008 + 16 * q) 4

/-- Run queue `q` = 8 × die + level. -/
def State.runq (s : State) (q : Nat) : RunQ := mgetD s.runqs q RunQ.reset

/-- A push onto run queue `q` (R132); none when the queue is full. -/
def State.pushRunq (s : State) (q : Nat) (r : QRec) : Option State :=
  let cap := s.runqCap q
  let rq := s.runq q
  if cap ≤ rq.items.length then none
  else
    let base := s.cfgLE (0x2000 + 16 * q) 8
    let place := (rq.head + rq.items.length) % cap
    let bytes := recBytes r.r ++ leBytes r.env 2 ++ List.replicate 30 0
    let s1 := { s with runqs := mput s.runqs q { rq with items := rq.items ++ [r] } }
    some (s1.memWrite (phys (base + 64 * place)) bytes)

/-- The run queue of a record spawned on a core (R132). -/
def spawnQ (core : Nat) (r : Rec) : Nat := 8 * dieOf core + r.prio

/-- The places that local spawns hold on a core's ready list (R137). -/
def Core.localCount (c : Core) : Nat := (c.ready.filter fun r => r.entry.isNone).length

/-- A spawned record goes where R319 says; none when the run queue is full. -/
def State.pushSpawn (s : State) (core : Nat) (q : QRec) : Option State :=
  if q.r.isLocal && decide ((s.coreAt core).localCount < 16) then
    some (s.updCore core fun c => { c with ready := c.ready ++ [⟨q, none⟩] })
  else s.pushRunq (spawnQ core q.r) q

/-- A push by the token post (R132): a full queue leaves it held for a retry. -/
def State.pushPost (s : State) (q : QRec) (die : Nat) : State :=
  match s.pushRunq (8 * die + q.r.prio) q with
  | some s' => s'
  | none => { s with held := s.held ++ [(q, die)] }

/-- The level that the next pop of a die serves, and whether by the aging rule (R135). -/
def State.popLevel (s : State) (die : Nat) : Option (Nat × Bool) :=
  let full (l : Nat) : Bool := !(s.runq (8 * die + l)).items.isEmpty
  let down (n : Nat) : Option Nat := ((List.range n).reverse).find? full
  let p := mgetD s.pops die ⟨0, 0⟩
  match down 8, (if 64 ≤ p.run then down p.level else none) with
  | none, _ => none
  | some _, some lo => some (lo, true)
  | some hi, none => some (hi, false)

/-- The head of a run queue leaves it (R134, R135). -/
def State.popRunq (s : State) (die level : Nat) (aged : Bool) : State :=
  let q := 8 * die + level
  let rq := s.runq q
  let p := mgetD s.pops die ⟨0, 0⟩
  let p1 : DiePop := if aged then ⟨p.level, 0⟩ else if p.level = level then ⟨level, p.run + 1⟩ else ⟨level, 1⟩
  { s with runqs := mput s.runqs q { rq with items := rq.items.drop 1, head := (rq.head + 1) % Nat.max 1 (s.runqCap q) },
           pops := mput s.pops die p1 }

/-! ### Waiting-task entries -/

/-- Waiting-task entry `e` of a core (R137). -/
def State.wtAt (s : State) (core e : Nat) : WtEntry := mgetD s.wt (64 * core + e) WtEntry.reset

/-- A waiting-task entry replaced. -/
def State.setWt (s : State) (core e : Nat) (w : WtEntry) : State := { s with wt := mput s.wt (64 * core + e) w }

/-- The CNTWAITs of a core whose entry has reached their threshold end with the counter as compared (R317), those of contexts
saved there too (R130). -/
def State.wtWake (s : State) (core e : Nat) : State :=
  let n := (s.wtAt core e).counter
  let s1 := s.saved.foldl (fun s x =>
    match x.2.block with
    | .cntwait id e' thr => if x.2.core = core ∧ e' = e ∧ thr ≤ n then s.savedResult x.1 x.2 id (BitVec.ofNat 64 n) else s
    | _ => s) s
  (List.range 4).foldl (fun s b => s.updCtx (4 * core + b) fun c =>
    match c.waitNow with
    | .cntwait id e' thr => if e' = e ∧ thr ≤ n then c.waitDone s.now id (BitVec.ofNat 64 n) else c
    | _ => c) s1

/-- An armed entry that has reached its threshold fires, unless its earlier record is still on the ready list (R137). -/
def State.wtFire (s : State) (core e : Nat) : State :=
  let w := s.wtAt core e
  match w.qr with
  | some q =>
    if w.armed ∧ w.thr ≤ w.counter ∧ !((s.coreAt core).ready.any fun r => r.entry == some e) then
      (s.setWt core e { w with counter := w.counter - w.thr, armed := false, qr := none }).updCore core fun c =>
        { c with ready := c.ready ++ [⟨q, some e⟩] }
    else s
  | none => s

/-- The summed arrivals of one step (R137): the counter saturates, waits are compared, then the entry may fire; every
arrival is an event for WFE (R332). -/
def State.wtArrive (s : State) (core e n : Nat) : State :=
  let w := s.wtAt core e
  (((s.setWt core e { w with counter := Nat.min (w.counter + n) (2 ^ 32 - 1) }).wtWake core e).wtFire core e).coreEvent core

/-- The first record of a core's ready list that fits: highest priority first, then order of arrival (R137). -/
def State.readyPick (s : State) (core : Nat) : Option Ready :=
  ((s.coreAt core).ready.filter fun r => s.recFits core r.qr).foldl (fun best r => match best with
    | none => some r
    | some b => if b.qr.r.prio < r.qr.r.prio then some r else best) none

/-- The list without the first occurrence of a record. -/
def dropReady (r : Ready) : List Ready → List Ready
  | [] => []
  | x :: l => if x = r then l else x :: dropReady r l

/-- A record leaves the ready list and becomes a context; the entry that fired it may fire again (R137). -/
def State.readyTake (s : State) (core : Nat) (r : Ready) : State :=
  let s1 := (s.updCore core fun c => { c with ready := dropReady r c.ready }).startRec core r.qr
  match r.entry with
  | some e => s1.wtFire core e
  | none => s1

/-! ### Launches -/

/-- A translation by a unit of the hub, which applies a grow entry met by a write (R207, R215): a miss where an access is refused by
its generation, and is made again later (R371). -/
def State.hubXl (s0 : State) (root asid va : Nat) (want : Want) : State × Xl :=
  let s := s0.walkScrub root va
  match s.xlateHub root asid va want true with
  | .grow pte desc =>
    match s.growApply root asid pte desc with
    | (s', .mapped) => (s', s'.xlateHub root asid va want true)
    | (s', .empty) => (s', .fault 11 true)
    | (s', .malformed) => (s', .fault 12 true)
    | (s', .later) => (s', .miss)
  | x => (s, x)

/-- Why the hub has no location for an access: a fault, or a refusal by the generation (R371). -/
inductive HubNo where
  | fault | later
deriving DecidableEq, Repr

/-- The locations of pieces that the hub writes or reads at the addresses of a list: the first failure of one of them. -/
def State.hubLocs (s : State) (root asid : Nat) (want : Want) (vas : List Nat) : State × Except HubNo (List Nat) :=
  vas.foldl (fun acc va =>
    match acc.2 with
    | .error _ => acc
    | .ok ps =>
      if 2 ^ 57 ≤ va then (acc.1, .error .fault)
      else
        match acc.1.hubXl root asid va want with
        | (s1, .ok pa _) => (s1, .ok (ps ++ [pa]))
        | (s1, .miss) => (s1, .error .later)
        | (s1, _) => (s1, .error .fault)) (s, .ok [])

/-- The locations of the 8 bytes of a launch status word (R124), if each of them can be written. -/
def State.statusLocs (s : State) (e : EnvEntry) (status : Word) : State × Except HubNo (List Nat) :=
  s.hubLocs e.root.toNat e.asid .write ((List.range 8).map (status.toNat + ·))

/-- The launch status word takes a value through an environment (R124); a write that fails is dropped and counted, one refused
by the generation comes later (R371). -/
def State.statusWrite (s : State) (env : Nat) (status : Word) (v : Nat) : State :=
  match s.env env with
  | none => s.count 0x1B0 1
  | some e =>
    match s.statusLocs e status with
    | (s1, .ok ps) => (ps.zip (leBytes v 8)).foldl (fun s x => s.memWrite x.1 [x.2]) s1
    | (s1, .error .fault) => s1.count 0x1B0 1
    | (s1, .error .later) => { s1 with lateStatus := s1.lateStatus ++ [(s1.now + 1, env, status, v)] }

/-- A launch with bits of its status word set (R124): written at once after the code has been reported, else with it. -/
def State.launchBits (s : State) (l : Launch) (bits : Nat) : State :=
  let nb := l.bits ||| bits
  let l1 := { l with bits := nb }
  let s1 : State := { s with launches := s.launches.map fun (x : Launch) => if x.id == l.id then l1 else x }
  if nb ≠ l.bits ∧ l.reported then s1.statusWrite l.env l.status nb else s1

/-- Launches that have ended and been reported leave the hub. -/
def State.dropEnded (s : State) : State :=
  { s with launches := s.launches.filter fun l => !(l.reported && decide (l.bits / 256 % 2 = 1)) }

/-- A thread of a launch has ended (R124, R127): its team leaves with its last thread, the launch completes with its last. -/
def State.threadEnd (s : State) (lid t : Nat) (discarded : Bool) : State :=
  match s.launches.find? fun x => x.id == lid with
  | none => s
  | some l =>
    let res := (l.resident.map fun m => { m with left := m.left.filter (· != t) }).filter fun m => !m.left.isEmpty
    let l1 := { l with resident := res, ended := l.ended + 1, gone := l.gone ++ [t] }
    let s1 : State := { s with launches := s.launches.map fun (x : Launch) => if x.id == lid then l1 else x }
    (s1.launchBits l1 ((if discarded then 1024 else 0) ||| (if l1.ended = l.threads then 256 else 0))).dropEnded

/-- The number of a launch's teams (R125). -/
def Launch.teams (l : Launch) : Nat := (l.threads + l.count - 1) / l.count

/-- The threads of team `k` that have not ended, with their cores (R125). -/
def Launch.members (l : Launch) (k : Nat) : List (Nat × Nat) :=
  ((List.range l.count).map fun o => (k * l.count + o, l.first + o)).filter fun m =>
    decide (m.1 < l.threads) && !(l.gone.contains m.1)

/-- The team at the head of the waiting list (R127), and whether it was swapped out. -/
def Launch.head (l : Launch) : Option (Nat × Bool) :=
  if l.fresh < l.teams then some (l.fresh, false) else (l.swapped.head?).map (·, true)

/-- The launch with its head taken off the waiting list. -/
def Launch.dropHead (l : Launch) : Launch :=
  if l.fresh < l.teams then { l with fresh := l.fresh + 1 } else { l with swapped := l.swapped.drop 1 }

/-- A core has launch work (R134): a resident team's thread, or a waiting team with a thread on it. -/
def State.hasLaunchWork (s : State) (core : Nat) : Bool :=
  s.launches.any fun l =>
    decide (l.first ≤ core) && decide (core < l.first + l.count) &&
    (l.resident.any (fun m => m.left.any fun t => t % l.count == core - l.first) ||
     (decide (l.fresh < l.teams) && decide (l.fresh * l.count + (core - l.first) < l.threads)) ||
     l.swapped.any fun k => (l.members k).any fun m => m.2 == core)

/-- The pages of a save area (R129), if none of them faults. -/
def State.areaPages (s : State) (root asid va : Nat) (want : Want) : State × Except HubNo (List Nat) :=
  s.hubLocs root asid want ((List.range 13).map fun i => va + 4096 * i)

/-- The context that a launch creates for thread `t` (R113). -/
def State.launchCtx (s : State) (l : Launch) (e : EnvEntry) (t : Nat) : Ctx :=
  let c := s.freshCtx l.env e l.entry l.rows l.gran l.prio
  { (c.setReg 2 l.args).setReg 30 l.hdr with
    launch := some l.id, thread := BitVec.ofNat 64 t, team := BitVec.ofNat 64 (t / l.count),
    first := BitVec.ofNat 64 l.first, count := BitVec.ofNat 64 l.count }

/-- A restored context waits on (R130, R387): its barrier may have completed, its counter may have been reached. -/
def State.rewait (s : State) (k : Nat) : State :=
  match s.ctxAt k with
  | none => s
  | some c =>
    match c.waitNow with
    | .gbar id home num ph =>
      if (s.group (4096 * home + num)).phase = ph ∨ (s.group (4096 * home + num)).phase + 1 = ph then s
      else s.putCtx k (c.waitDone s.now id (BitVec.ofNat 64 ph))
    | .cntwait _ e _ => s.wtWake (k / 4) e
    | _ => s

/-- A restored context's commands are among their engines' issuers (R387): those that stayed with the engines have kept their place
in the rotation (R191), as the context keeps its name, and one that an engine does not know goes last (log entry 116). -/
def State.rebind (s : State) (k : Nat) : State :=
  match s.ctxAt k with
  | none => s
  | some c => c.min.foldl (fun s e =>
      { s with engines := mupd s.engines (wfld e.cap 40 12) Engine.reset fun g =>
        if g.rot.contains c.uid then g else { g with rot := g.rot ++ [c.uid] } }) s

/-- A context of a swapped-out thread comes back from its save area (R127, R388), its capability registers null (log entry 92);
the area's valid byte is cleared (log entry 97). -/
def State.restoreThread (s : State) (l : Launch) (core : Nat) (pages : List Nat) : State :=
  match s.freeBerth core with
  | none => s
  | some b =>
    let sv := mget s.saved (areaLoc pages 0)
    let c0 : Ctx := { Ctx.reset with uid := s.nextUid, rows := l.rows, gran := l.gran, env := l.env, launch := some l.id,
                                     readyAt := s.now }
    let c1 := s.areaCtx pages c0 core sv
    let c2 := { c1 with pc := s.area64 pages 8 }.goOn s.now
    let c3 := { c2 with cnt0 := c2.cntWord }
    let s1 := { s with saved := mdel s.saved (areaLoc pages 0), nextUid := s.nextUid + 1,
                       freeN := s.freeN + (if sv.isSome then 0 else areaFree), mem := s.mem.write (areaLoc pages 6) 0 }
    ((s1.putCtx (4 * core + b) c3).rebind (4 * core + b)).rewait (4 * core + b)

/-- The areas of a swapped-out team's threads, by core, if each can be reached. -/
def State.teamPages (s : State) (l : Launch) (e : EnvEntry) (want : Want) (ms : List (Nat × Nat)) :
    State × Except HubNo (List (Nat × Nat × List Nat)) :=
  ms.foldl (fun acc m =>
    match acc.2 with
    | .error _ => acc
    | .ok ps =>
      match acc.1.areaPages e.root.toNat e.asid (l.save.toNat + m.1 * areaSize) want with
      | (s1, .ok p) => (s1, .ok (ps ++ [(m.1, m.2, p)]))
      | (s1, .error x) => (s1, .error x)) (s, .ok [])

/-- The launch of number `lid` changed. -/
def State.updLaunch (s : State) (lid : Nat) (f : Launch → Launch) : State :=
  { s with launches := s.launches.map fun l => if l.id == lid then f l else l }

/-- The launch's admission or swap is tried again in the next cycle (R371). -/
def State.launchAgain (s : State) (lid : Nat) : State := s.updLaunch lid fun l => { l with again := some (s.now + 1) }

/-- The head team of a launch is admitted (R127): created, or restored from its areas; none when it must wait. -/
def State.admitHead (s : State) (l : Launch) : Option State :=
  match l.head with
  | none => none
  | some (k, old) =>
    let ms := l.members k
    if l.resident.length < l.cap ∧ ms.all fun m => s.fits m.2 l.rows l.gran l.scratch then
      let l1 := { l.dropHead with resident := l.resident ++ [⟨k, s.now, ms.map Prod.fst⟩] }
      let s1 : State := { s with launches := s.launches.map fun (x : Launch) => if x.id == l.id then l1 else x }
      match s.env l.env with
      | none => some (ms.foldl (fun s m => (s.count 0x1B0 1).threadEnd l.id m.1 true) s1)
      | some e =>
        if old then
          match s1.teamPages l e .read ms with
          | (s2, .ok ps) => some (ps.foldl (fun s p => s.restoreThread l p.2.1 p.2.2) s2)
          | (_, .error _) => none
        else some (ms.foldl (fun s m => s.place m.2 (s.launchCtx l e m.1)) s1)
    else none

/-- The head team of a launch could be restored but for an access that its generation refuses (R371). -/
def State.headLater (s : State) (l : Launch) : Bool :=
  match l.head, s.env l.env with
  | some (k, true), some e =>
    decide (l.resident.length < l.cap) && ((l.members k).all fun m => s.fits m.2 l.rows l.gran l.scratch) &&
    (match (s.teamPages l e .read (l.members k)).2 with | .error .later => true | _ => false)
  | _, _ => false

/-- Teams of one launch are admitted while they can be (R127). -/
def State.admitLaunch : Nat → State → Nat → State
  | 0, s, _ => s
  | fuel + 1, s, lid =>
    match s.launches.find? fun x => x.id == lid with
    | none => s
    | some l =>
      match s.admitHead l with
      | none => if s.headLater l then s.launchAgain lid else s
      | some s1 => State.admitLaunch fuel s1 lid

/-- Admission for every launch, in the order of acceptance (R127). -/
def State.admitAll (s : State) : State :=
  s.launches.foldl (fun s l => State.admitLaunch (l.teams + l.swapped.length) s l.id) s

/-! ### The end of a context -/

/-- The engines' service of a berth, the copy engine's and the end of its command are dropped. -/
def State.dropUnits (s : State) (k : Nat) : State :=
  let s1 : State := { s with
    engines := s.engines.map fun (e : Nat × Engine) =>
      (e.1, { e.2 with serving := if e.2.serving = some k then none else e.2.serving }),
    agenda := s.agenda.filter fun x => match x.2 with | .copyComplete j _ => j != k | _ => true }
  s1.updCore (k / 4) fun c =>
    { c with run := if c.run = some (k % 4) then none else c.run,
             copying := if c.copying = some k then none else c.copying }

/-- A context's accepted commands are cancelled, and it is no issuer any more (R191, R379). -/
def State.dropIssuer (s : State) (uid : Nat) : State :=
  { s with engines := s.engines.map (fun (e : Nat × Engine) => (e.1, { e.2 with rot := e.2.rot.filter (· != uid) })),
           saved := s.saved.filter fun x => x.2.uid != uid }

/-- A context ends (R128, R321, R379): its berth is free at once, its groups are left, its launch counts the thread, and
teams may be admitted. A context whose state was saved keeps its memberships and its commands' locks (R105, R139, R386). -/
def State.endCtx (s : State) (k : Nat) (discarded : Bool) : State :=
  match s.ctxAt k with
  | none => s
  | some c =>
    let s1 := (s.dropUnits k).delCtx k
    let s2 := if c.saved && !discarded then s1 else ((s1.leaveAll c.uid).unlockIf (heldBy c.uid)).dropIssuer c.uid
    let s3 := match c.launch with
      | none => s2
      | some l => s2.threadEnd l c.thread.toNat discarded
    s3.admitAll

/-- A double trap (R379): the context is discarded, and the hub counts the event with its cause and epc. -/
def State.discard (s : State) (k : Nat) (t : Trap) (epc : Word) : State :=
  ({ s.count 0x180 1 with doubled := s.doubled ++ [(BitVec.ofNat 64 t.cause, epc)] } : State).endCtx k true

end Sys2Proof.Machine
end

