-- ==== Sys2Proof/Machine/Channels.lean ====
section
/-! DEFINITION. The relay's channels as S and C see them (R193 to R197): their descriptors, and whether the RSEND at the head of
a berth's C queue starts, traps, or waits for a permit. A channel is numbered 64 × pair + 32 × direction + number, with
direction 0 for A→F. -/

namespace Sys2Proof.Machine

/-- The offset of an address in the core's own scratchpad, through either window (R144). -/
def ownOff (core : Nat) (va : Word) : Option Nat :=
  match placeOf core va.toNat with
  | .spad c off => if c = core then some off else none
  | _ => none

/-- The trap of a word that reports the word itself (codes 1 to 5 of R382). -/
def wordTrap (cause : Nat) (i : Instr) : Trap := ⟨cause, wordBits (some i), 0⟩

/-- A channel. -/
def State.channel (s : State) (ch : Nat) : Channel := mgetD s.channels ch Channel.reset

/-- The package with a channel replaced. -/
def State.setChannel (s : State) (ch : Nat) (c : Channel) : State := { s with channels := mput s.channels ch c }

/-- The fields of a descriptor (R194). -/
def Channel.senderCore (c : Channel) : Nat := wfld c.d0 0 11
def Channel.receiverCore (c : Channel) : Nat := wfld c.d0 11 11
def Channel.slots (c : Channel) : Nat := wfld c.d0 22 4
def Channel.en (c : Channel) : Bool := wbit c.d0 26
def Channel.ssize (c : Channel) : Nat := wfld c.d0 32 15

/-- The channel of number `n` that a core names, outbound or inbound (R193). -/
def chanOf (core n : Nat) (outbound : Bool) : Nat :=
  let d := dieOf core
  let toF := (d ≥ 2) == outbound
  64 * (d % 2) + (if toF then 0 else 32) + n

/-- The operands of an RSEND: channel and length (R196). -/
def QEntry.rsChan (e : QEntry) : Nat := wfld e.y 56 8
def QEntry.rsLen (e : QEntry) : Nat := wfld e.y 0 32

/-- The checks of R197 in their order. -/
def State.rsendCheck (s : State) (core : Nat) (i : Instr) (e : QEntry) : Option Trap :=
  let c := s.channel (chanOf core e.rsChan true)
  if 32 ≤ e.rsChan ∨ !c.en ∨ c.senderCore ≠ core then some (wordTrap 4 i)
  else if wfld e.y 32 24 ≠ 0 ∨ e.rsLen = 0 ∨ 16 * c.ssize < e.rsLen then some (wordTrap 4 i)
  else
    match ownOff core e.x with
    | none => some ⟨9, e.x, 0⟩
    | some off =>
      if 0x80000 < off + e.rsLen then some ⟨9, e.x, 0⟩
      else if e.x.toNat % 16 ≠ 0 then some ⟨10, e.x, 0⟩
      else none

/-- The permits that an RSEND can take now: one that came back in this cycle is there from the next on (R199). -/
def Channel.ready (c : Channel) (now : Nat) : Nat := c.permits - (if c.backAt = now then c.backN else 0)

/-- The source of an RSEND (R196). -/
def QEntry.rsAcc (e : QEntry) (core : Nat) : Acc := ⟨0, spadLoc core ((ownOff core e.x).getD 0), e.rsLen, 0, false⟩

/-- An RSEND at the head of its queue starts now (R197): its checks fail and it traps, or a permit is there and no other command
of the core holds its source (R105). -/
def State.rsendStarts (s : State) (core : Nat) (i : Instr) (e : QEntry) : Bool :=
  (s.rsendCheck core i e).isSome ||
  (decide (0 < (s.channel (chanOf core e.rsChan true)).ready s.now) && !(s.locked core [e.rsAcc core]))

/-- The channel on which the berth's RSEND waits for a permit (R197): the word stands at the head of its C queue with its token
waits met, passes its checks and finds no permit. -/
def State.rsendWait (s : State) (k : Nat) : Option (Nat × QEntry) :=
  match s.ctxAt k with
  | none => none
  | some c =>
    match c.cact, c.cq with
    | none, e :: _ =>
      match e.word with
      | some (.rsend p a b) =>
        let ch := chanOf (k / 4) e.rsChan true
        if e.at_ < s.now ∧ c.canPop .c e.p ∧ (s.rsendCheck (k / 4) (.rsend p a b) e).isNone ∧
            (s.channel ch).ready s.now = 0 then some (ch, e)
        else none
      | _ => none
    | _, _ => none

end Sys2Proof.Machine
end

