-- ==== Sys2Proof/Machine/Ops.lean ====
section
/-! DEFINITION. Taking a trap and returning from one (R33, R83, R379, R331), the issue of a word at S (R27 to R33, R77) and
the landings that S makes (R32, R79). -/

namespace Sys2Proof.Machine

/-! ### Traps -/

/-- The context at its handler's first word (R379). -/
def Ctx.enter (c : Ctx) (t : Trap) (epc : Word) : Ctx :=
  { c with
    entry := some c.snapshot, hid := some c.nextId,
    epc := epc, cause := BitVec.ofNat 64 t.cause, tval := t.tval, tinfo := t.tinfo, priv := true, pc := c.tvec,
    block := .none, heldAt := none }

/-- Taking an exception (R379): after the drain of R83 the saved registers are written and the handler entered. -/
def State.enter (s : State) (k : Nat) (t : Trap) (epc : Word) : State := (s.drain k).updCtx k fun c => c.enter t epc

/-- A synchronous trap of berth `k` (R379): in privileged code it is a double trap, which discards the context: the stores
that can drain have drained (R83), what stands is dropped with its outstanding work (log entry 6). -/
def State.takeTrap (s : State) (k : Nat) (t : Trap) (epc : Word) : State :=
  match s.ctxAt k with
  | none => s
  | some c => if c.priv then (s.drain k).discard k t epc else s.enter k t epc

/-- A trap with no report. -/
def trap0 (cause : Nat) : Trap := ⟨cause, 0, 0⟩

/-- The early-read trap (R24, R382). -/
def earlyTrap (d : Dst) : Trap := ⟨6, earlyTval d, 0⟩

/-- The return from an exception (R331): pc and mode, the replay list, the suspended engine entries. -/
def Ctx.eret (c : Ctx) (now : Nat) : Ctx :=
  { c.goOn now with pc := c.epc, priv := false, entry := none, hid := none }

/-! ### Issue at S -/

/-- What the body of an S word answers: done, with the next pc; the context has left its berth or entered a handler; a
trap; S holds the word and tries again; a TLB miss. -/
inductive Body where
  | done (s : State) (pc : Word)
  | left (s : State)
  | trap (t : Trap)
  | stall
  /-- The same, at a counter of 63 or a full queue, or for a word that a stalled RSEND can hold (R140). -/
  | hold (full rs : Bool)
  | walk (va : Word) (want : Want) (lane : Nat)
  /-- The die asks for sectors that it lacks, and S holds the word (R363). -/
  | ask (excl : Bool) (secs : List Nat)
deriving DecidableEq, Repr

/-- S has issued in this cycle. -/
def State.markS (s : State) : State := s.updCore s.core fun c => { c with sAt := s.now + 1, full := false }

/-- The focused context replaced. -/
def State.withCtx (s : State) (c : Ctx) : State := { s with ctx := c }

/-- The word retires (R21): the count, the number, the next pc. -/
def State.retire (s : State) (pc : Word) : State :=
  s.withCtx { s.ctx with pc := pc, retired := s.ctx.retired + 1, nextId := s.ctx.nextId + 1, heldAt := none }

/-- S holds the focused context's word from now on, or goes on holding it. -/
def State.heldS (s : State) : State := s.withCtx { s.ctx with heldAt := some (s.ctx.heldAt.getD s.now) }

/-- How the answer of a body ends the step: `s0` is the state before the word popped its tokens (R29). -/
def Body.finish (b : Body) (s0 : State) : Res :=
  match b with
  | .done s pc => .next ((s.retire pc).markS)
  | .left s => .next s
  | .trap t => .next ((s0.markS).takeTrap s0.key t s0.ctx.pc)
  | .stall => .next s0.markS.heldS
  | .hold full rs =>
    if rs && (s0.rsendWait s0.key).any fun x => !(s0.ctx.stopped x.2.id) then
      .next (s0.markS.withCtx { s0.ctx with block := .rsend, blockedAt := s0.now })
    else .next (s0.markS.heldS.updCore s0.core fun c => { c with full := full })
  | .walk va want lane => .next (s0.markS.withCtx { s0.ctx with block := .walk va want lane })
  | .ask excl secs => .next (s0.markS.heldS.queueAsks (dieOf s0.core) excl secs)

/-- A word of S (R27 to R33): a missing privilege traps, tokens unmet make the berth not ready, an owed push holds S, then
the word's own body runs on the state with its tokens popped. -/
def sWord (i : Instr) (p : Dep) (needsPriv : Bool) (s : State) (body : State → Body) : Res :=
  if !s.live then .fault .noContext
  else if needsPriv && !s.ctx.priv then Body.finish (.trap (wordTrap 2 i)) s
  else if s.ctx.owes .s then Body.finish .stall s
  else if !(s.ctx.canPop .s p) then .next (s.markS.withCtx { s.ctx with block := .tokens p, blockedAt := s.now })
  else (body (s.withCtx (s.ctx.popToks .s p))).finish s

/-- The next word's address. -/
def State.pc4 (s : State) : Word := s.ctx.pc + 4

/-- A word with no landing and no counter completes as it retires (R28). -/
def State.completeS (s : State) (p : Dep) : State := s.withCtx (s.ctx.complete .s s.ctx.nextId (pushesOf .s p))

/-- The same, as a body's answer. -/
def doneS (s : State) (p : Dep) : Body := .done (s.completeS p) s.pc4

/-- `land(d, v)` with a fixed latency at S (R32, R79). -/
def State.landS (s : State) (i : Instr) (p : Dep) (d : SReg) (v : Word) (fl : Fl) (lat : Nat) : State :=
  let q := { Pend.mk0 s.ctx.nextId .s s.ctx.pc with
    word := some i, due := some (s.now + lat), fixed := true, dsts := dstS d ++ (if fl = 0 then [] else [.fpsr]),
    wr := [.s d v], flags := fl, push := pushesOf .s p }
  s.withCtx { s.ctx with pend := s.ctx.pend ++ [q] }

/-- An early read among scalar sources traps (R24). -/
def State.earlyS (s : State) (rs : List SReg) : Option Dst := s.ctx.early s.ctx.nextId (rs.flatMap dstS)

/-- A word from scalar sources to a scalar destination with a fixed latency (R79, R222). -/
def sAlu (i : Instr) (p : Dep) (d : SReg) (srcs : List SReg) (lat : Nat) (f : State → Word × Fl) (s : State) : Res :=
  sWord i p false s fun s =>
    match s.earlyS srcs with
    | some e => .trap (earlyTrap e)
    | none =>
      let r := f s
      .done (s.landS i p d r.1 r.2 lat) s.pc4

/-- The context is held until word `id` lands (R79). -/
def State.holdFor (s : State) : State :=
  s.withCtx { s.ctx with block := .landing s.ctx.nextId, blockedAt := s.now }

/-- A word of the serialising class that acts on its own core's entries: a trap finds it complete (R315, R317). -/
def isOwnCore : Instr → Bool
  | .wtdis .. => true
  | .cntwait .. => true
  | _ => false

/-- A serialising word's result (R79, R315): it lands at its completion, and S issues nothing before. -/
def State.landSerial (s : State) (i : Instr) (p : Dep) (d : SReg) (v : Word) : State :=
  let t := s.delay
  let s1 := t.2
  let q := { Pend.mk0 s1.ctx.nextId .s s1.ctx.pc with
    word := some i, due := some (s1.now + 1 + t.1), fixed := isOwnCore i, dsts := dstS d, wr := [.s d v],
    push := pushesOf .s p }
  (s1.withCtx { s1.ctx with pend := s1.ctx.pend ++ [q] }).holdFor

/-- Every LS access of the context that its next word follows has taken effect (R98), but in a handler for what only its return
sets going (R83, R373, log entry 79). -/
def Ctx.lsQuiet (c : Ctx) : Bool :=
  let ord := c.orders c.nextId
  (c.stores.all fun p => !(ord p.id)) && (c.pend.all fun p => !p.isLs || !(ord p.id)) &&
  c.vq.all fun e => e.lsAccs.isEmpty || !(ord e.id)

/-- An LDA holds later LS words at S until it lands (R245). -/
def Ctx.ldaWait (c : Ctx) : Bool :=
  c.pend.any fun p => match p.word with | some (.lda ..) => true | _ => false

/-- One checked access at S (R240, R241) by lane `lane`, for a word's body. -/
def State.accessAt (s : State) (lane : Nat) (a : Word) (len al : Nat) (want : Want) (w : Win) (k : Acc → Body) : Body :=
  match s.chkS a len al want w lane with
  | .ok acc => k acc
  | .trap t => .trap t
  | .miss => .walk a want lane

/-- One checked access at S that is no lane's. -/
def State.access (s : State) (a : Word) (len al : Nat) (want : Want) (w : Win) (k : Acc → Body) : Body :=
  s.accessAt 0 a len al want w k

/-- Checked accesses at S of `n` pieces of `step` bytes from `a` on. -/
def State.accesses (s : State) (a : Word) (step al : Nat) (want : Want) (w : Win) : Nat → List Acc → (List Acc → Body) → Body
  | 0, acc, k => k acc.reverse
  | n + 1, acc, k =>
    s.access (a + BitVec.ofNat 64 (step * acc.length)) step al want w fun x =>
      s.accesses a step al want w n (x :: acc) k

end Sys2Proof.Machine
end

