-- ==== Sys2Proof/Machine/Scalar.lean ====
section
/-! DEFINITION. The scalar words of S: integer, FP64, branches and jumps, the scalar spill forms (R222 to R236). -/

namespace Sys2Proof.Machine

/-- 1 or 0. -/
def b2w (b : Bool) : Word := if b then 1 else 0

/-- A word from two scalar registers without flags (R224). -/
def alu2 (i : Instr) (p : Dep) (d a b : SReg) (lat : Nat) (f : Word → Word → Word) (s : State) : Res :=
  sAlu i p d [a, b] lat (fun s => (f (s.ctx.reg a) (s.ctx.reg b), 0)) s

/-- A word from one scalar register without flags. -/
def alu1 (i : Instr) (p : Dep) (d a : SReg) (lat : Nat) (f : Word → Word) (s : State) : Res :=
  sAlu i p d [a] lat (fun s => (f (s.ctx.reg a), 0)) s

/-- The shared divider has not yet accepted a word 8 cycles ago (R223). -/
def State.divBusy (s : State) : Bool := decide (s.now < (s.coreAt s.core).sdiv)

/-- The shared divider accepts a word (R223). -/
def State.takeDiv (s : State) : State := s.updCore s.core fun c => { c with sdiv := s.now + 8 }

/-- A division word (R223, R225): S holds it while the divider is busy. -/
def divWord (i : Instr) (p : Dep) (d a b : SReg) (f : Word → Word → Word) (s : State) : Res :=
  sWord i p false s fun s =>
    if s.divBusy then .hold true false
    else
      match s.earlyS [a, b] with
      | some e => .trap (earlyTrap e)
      | none => .done ((s.landS i p d (f (s.ctx.reg a) (s.ctx.reg b)) 0 22).takeDiv) s.pc4

/-- Signed division (R225). -/
def divS (a b : Word) : Word := if b = 0 then BitVec.allOnes 64 else a.sdiv b

/-- Unsigned division (R225). -/
def divU (a b : Word) : Word := if b = 0 then BitVec.allOnes 64 else a / b

/-- Signed remainder (R225). -/
def remS (a b : Word) : Word := if b = 0 then a else a.srem b

/-- Unsigned remainder (R225). -/
def remU (a b : Word) : Word := if b = 0 then a else a % b

/-- Leading zeros (R224). -/
def clz (a : Word) : Word := BitVec.ofNat 64 (if a = 0 then 64 else 63 - a.toNat.log2)

/-- Trailing zeros (R224). -/
def ctz (a : Word) : Word := BitVec.ofNat 64 (((List.range 64).find? fun i => wbit a i).getD 64)

/-- One bits (R224). -/
def popc (a : Word) : Word := BitVec.ofNat 64 ((List.range 64).filter fun i => wbit a i).length

/-- ADD (R224). -/
def execAdd (p : Dep) (d a b : SReg) (s : State) : Res :=
  alu2 (.add p d a b) p d a b 1 (fun a b => a + b) s

/-- SUB (R224). -/
def execSub (p : Dep) (d a b : SReg) (s : State) : Res :=
  alu2 (.sub p d a b) p d a b 1 (fun a b => a - b) s

/-- MUL (R224). -/
def execMul (p : Dep) (d a b : SReg) (s : State) : Res :=
  alu2 (.mul p d a b) p d a b 3 (fun a b => a * b) s

/-- MULH (R224). -/
def execMulh (p : Dep) (d a b : SReg) (s : State) : Res :=
  alu2 (.mulh p d a b) p d a b 3 (fun a b => BitVec.ofInt 64 (a.toInt * b.toInt / 2 ^ 64)) s

/-- MULHU (R224). -/
def execMulhu (p : Dep) (d a b : SReg) (s : State) : Res :=
  alu2 (.mulhu p d a b) p d a b 3 (fun a b => BitVec.ofNat 64 (a.toNat * b.toNat / 2 ^ 64)) s

/-- DIV (R224, R225). -/
def execDiv (p : Dep) (d a b : SReg) (s : State) : Res :=
  divWord (.div p d a b) p d a b divS s

/-- DIVU (R224, R225). -/
def execDivu (p : Dep) (d a b : SReg) (s : State) : Res :=
  divWord (.divu p d a b) p d a b divU s

/-- REM (R224, R225). -/
def execRem (p : Dep) (d a b : SReg) (s : State) : Res :=
  divWord (.rem p d a b) p d a b remS s

/-- REMU (R224, R225). -/
def execRemu (p : Dep) (d a b : SReg) (s : State) : Res :=
  divWord (.remu p d a b) p d a b remU s

/-- AND (R224). -/
def execAnd (p : Dep) (d a b : SReg) (s : State) : Res :=
  alu2 (.and p d a b) p d a b 1 (fun a b => a &&& b) s

/-- OR (R224). -/
def execOr (p : Dep) (d a b : SReg) (s : State) : Res :=
  alu2 (.or p d a b) p d a b 1 (fun a b => a ||| b) s

/-- XOR (R224). -/
def execXor (p : Dep) (d a b : SReg) (s : State) : Res :=
  alu2 (.xor p d a b) p d a b 1 (fun a b => a ^^^ b) s

/-- SLL (R224). -/
def execSll (p : Dep) (d a b : SReg) (s : State) : Res :=
  alu2 (.sll p d a b) p d a b 1 (fun a b => a <<< (b.toNat % 64)) s

/-- SRL (R224). -/
def execSrl (p : Dep) (d a b : SReg) (s : State) : Res :=
  alu2 (.srl p d a b) p d a b 1 (fun a b => a >>> (b.toNat % 64)) s

/-- SRA (R224). -/
def execSra (p : Dep) (d a b : SReg) (s : State) : Res :=
  alu2 (.sra p d a b) p d a b 1 (fun a b => a.sshiftRight (b.toNat % 64)) s

/-- SLT (R224). -/
def execSlt (p : Dep) (d a b : SReg) (s : State) : Res :=
  alu2 (.slt p d a b) p d a b 1 (fun a b => b2w (a.slt b)) s

/-- SLTU (R224). -/
def execSltu (p : Dep) (d a b : SReg) (s : State) : Res :=
  alu2 (.sltu p d a b) p d a b 1 (fun a b => b2w (a.ult b)) s

/-- MIN (R224). -/
def execMin (p : Dep) (d a b : SReg) (s : State) : Res :=
  alu2 (.min p d a b) p d a b 1 (fun a b => if a.sle b then a else b) s

/-- MAX (R224). -/
def execMax (p : Dep) (d a b : SReg) (s : State) : Res :=
  alu2 (.max p d a b) p d a b 1 (fun a b => if b.sle a then a else b) s

/-- MINU (R224). -/
def execMinu (p : Dep) (d a b : SReg) (s : State) : Res :=
  alu2 (.minu p d a b) p d a b 1 (fun a b => if a.ule b then a else b) s

/-- MAXU (R224). -/
def execMaxu (p : Dep) (d a b : SReg) (s : State) : Res :=
  alu2 (.maxu p d a b) p d a b 1 (fun a b => if b.ule a then a else b) s

/-- CLZ (R224). -/
def execClz (p : Dep) (d a : SReg) (s : State) : Res := alu1 (.clz p d a) p d a 1 clz s

/-- CTZ (R224). -/
def execCtz (p : Dep) (d a : SReg) (s : State) : Res := alu1 (.ctz p d a) p d a 1 ctz s

/-- POPC (R224). -/
def execPopc (p : Dep) (d a : SReg) (s : State) : Res := alu1 (.popc p d a) p d a 1 popc s

/-- NOP (R229): only its tokens. -/
def execNop (p : Dep) (s : State) : Res := sWord (.nop p) p false s fun s => doneS s p

/-- ADDI (R226). -/
def execAddi (p : Dep) (d a : SReg) (i : BitVec 12) (s : State) : Res :=
  alu1 (.addi p d a i) p d a 1 (fun a => a + i.signExtend 64) s

/-- ANDI (R226). -/
def execAndi (p : Dep) (d a : SReg) (i : BitVec 12) (s : State) : Res :=
  alu1 (.andi p d a i) p d a 1 (fun a => a &&& i.signExtend 64) s

/-- ORI (R226). -/
def execOri (p : Dep) (d a : SReg) (i : BitVec 12) (s : State) : Res :=
  alu1 (.ori p d a i) p d a 1 (fun a => a ||| i.signExtend 64) s

/-- XORI (R226). -/
def execXori (p : Dep) (d a : SReg) (i : BitVec 12) (s : State) : Res :=
  alu1 (.xori p d a i) p d a 1 (fun a => a ^^^ i.signExtend 64) s

/-- SLTI (R226). -/
def execSlti (p : Dep) (d a : SReg) (i : BitVec 12) (s : State) : Res :=
  alu1 (.slti p d a i) p d a 1 (fun a => b2w (a.slt (i.signExtend 64))) s

/-- SLLI (R227). -/
def execSlli (p : Dep) (d a : SReg) (h : BitVec 6) (s : State) : Res :=
  alu1 (.slli p d a h) p d a 1 (fun a => a <<< h.toNat) s

/-- SRLI (R227). -/
def execSrli (p : Dep) (d a : SReg) (h : BitVec 6) (s : State) : Res :=
  alu1 (.srli p d a h) p d a 1 (fun a => a >>> h.toNat) s

/-- SRAI (R227). -/
def execSrai (p : Dep) (d a : SReg) (h : BitVec 6) (s : State) : Res :=
  alu1 (.srai p d a h) p d a 1 (fun a => a.sshiftRight h.toNat) s

/-- LUI (R228). -/
def execLui (p : Dep) (d : SReg) (i : BitVec 17) (s : State) : Res :=
  sAlu (.lui p d i) p d [] 1 (fun _ => (i.signExtend 64 <<< 12, 0)) s

/-- AUIPC (R228): pc is the word's own address. -/
def execAuipc (p : Dep) (d : SReg) (i : BitVec 17) (s : State) : Res :=
  sAlu (.auipc p d i) p d [] 1 (fun s => (s.ctx.pc + (i.signExtend 64 <<< 12), 0)) s

/-! ### FP64 -/

/-- An FPS word (R230): scalar sources, and vt where the word rounds, are checked for early reads; `dv` marks the words of
the divider. -/
def fps (i : Instr) (p : Dep) (d : SReg) (srcs : List SReg) (vt dv : Bool) (lat : Nat)
    (f : Rnd → Bool → State → Word × Fl) (s : State) : Res :=
  sWord i p false s fun s =>
    if dv && s.divBusy then .hold true false else
    match s.ctx.early s.ctx.nextId (srcs.flatMap dstS ++ if vt then [.vt] else []) with
    | some e => .trap (earlyTrap e)
    | none =>
      let r := f (vtRnd s.ctx.vt) s.ctx.ftz s
      let s1 := s.landS i p d r.1 r.2 lat
      .done (if dv then s1.takeDiv else s1) s.pc4

/-- An FPS word of two operands. -/
def fps2 (i : Instr) (p : Dep) (d a b : SReg) (vt dv : Bool) (lat : Nat) (f : Rnd → Bool → Nat → Nat → Nat × Fl)
    (s : State) : Res :=
  fps i p d [a, b] vt dv lat (fun m z s =>
    let r := f m z (s.ctx.reg a).toNat (s.ctx.reg b).toNat
    (BitVec.ofNat 64 r.1, r.2)) s

/-- An FPS word of one operand. -/
def fps1 (i : Instr) (p : Dep) (d a : SReg) (dv : Bool) (lat : Nat) (f : Rnd → Bool → Nat → Nat × Fl) (s : State) : Res :=
  fps i p d [a] true dv lat (fun m z s =>
    let r := f m z (s.ctx.reg a).toNat
    (BitVec.ofNat 64 r.1, r.2)) s

/-- A comparison's result as 1 or 0. -/
def boolFl (r : Bool × Fl) : Nat × Fl := (r.1.toNat, r.2)

/-- FADD (R230). -/
def execFadd (p : Dep) (d a b : SReg) (s : State) : Res := fps2 (.fadd p d a b) p d a b true false 4 (fAdd 0) s

/-- FSUB (R230). -/
def execFsub (p : Dep) (d a b : SReg) (s : State) : Res := fps2 (.fsub p d a b) p d a b true false 4 (fSub 0) s

/-- FMUL (R230). -/
def execFmul (p : Dep) (d a b : SReg) (s : State) : Res := fps2 (.fmul p d a b) p d a b true false 4 (fMul 0) s

/-- FDIV (R230), on the shared divider (R223). -/
def execFdiv (p : Dep) (d a b : SReg) (s : State) : Res := fps2 (.fdiv p d a b) p d a b true true 14 (fDiv 0) s

/-- FSQRT (R230), on the shared divider (R223). -/
def execFsqrt (p : Dep) (d a : SReg) (s : State) : Res := fps1 (.fsqrt p d a) p d a true 18 (fSqrt 0) s

/-- FMIN (R231). -/
def execFmin (p : Dep) (d a b : SReg) (s : State) : Res :=
  fps2 (.fmin p d a b) p d a b false false 4 (fun _ z a b => fMinMax 0 z false a b) s

/-- FMAX (R231). -/
def execFmax (p : Dep) (d a b : SReg) (s : State) : Res :=
  fps2 (.fmax p d a b) p d a b false false 4 (fun _ z a b => fMinMax 0 z true a b) s

/-- FCMPEQ (R231). -/
def execFcmpeq (p : Dep) (d a b : SReg) (s : State) : Res :=
  fps2 (.fcmpeq p d a b) p d a b false false 4 (fun _ z a b => boolFl (fCmpEq 0 z a b)) s

/-- FCMPLT (R231). -/
def execFcmplt (p : Dep) (d a b : SReg) (s : State) : Res :=
  fps2 (.fcmplt p d a b) p d a b false false 4 (fun _ z a b => boolFl (fCmpLt 0 z false a b)) s

/-- FCVTI (R230, R167): saturating. -/
def execFcvti (p : Dep) (d a : SReg) (s : State) : Res :=
  fps1 (.fcvti p d a) p d a false 4 (fun m z a =>
    let x := fIn z 0 a
    let r := cvt false 7 m x
    (r.1, r.2 ||| flIf x.isSig fNv)) s

/-- FCVTF (R230): the signed integer rounded to FP64. -/
def execFcvtf (p : Dep) (d a : SReg) (s : State) : Res :=
  fps1 (.fcvtf p d a) p d a false 4 (fun m _ a => rndV 0 m (decode_ 7 a)) s

/-! ### Branches and jumps -/

/-- A branch (R232): it completes as it retires; where it goes is fetched after (R234). -/
def branch (i : Instr) (p : Dep) (a b : SReg) (o : BitVec 12) (c : Word → Word → Bool) (s : State) : Res :=
  sWord i p false s fun s =>
    match s.earlyS [a, b] with
    | some e => .trap (earlyTrap e)
    | none =>
      .done (s.completeS p) (if c (s.ctx.reg a) (s.ctx.reg b) then s.ctx.pc + (o.signExtend 64 <<< 2) else s.pc4)

/-- BEQ (R232). -/
def execBeq (p : Dep) (a b : SReg) (o : BitVec 12) (s : State) : Res :=
  branch (.beq p a b o) p a b o (fun a b => a == b) s

/-- BNE (R232). -/
def execBne (p : Dep) (a b : SReg) (o : BitVec 12) (s : State) : Res :=
  branch (.bne p a b o) p a b o (fun a b => a != b) s

/-- BLT (R232). -/
def execBlt (p : Dep) (a b : SReg) (o : BitVec 12) (s : State) : Res :=
  branch (.blt p a b o) p a b o (fun a b => a.slt b) s

/-- BGE (R232). -/
def execBge (p : Dep) (a b : SReg) (o : BitVec 12) (s : State) : Res :=
  branch (.bge p a b o) p a b o (fun a b => b.sle a) s

/-- BLTU (R232). -/
def execBltu (p : Dep) (a b : SReg) (o : BitVec 12) (s : State) : Res :=
  branch (.bltu p a b o) p a b o (fun a b => a.ult b) s

/-- BGEU (R232). -/
def execBgeu (p : Dep) (a b : SReg) (o : BitVec 12) (s : State) : Res :=
  branch (.bgeu p a b o) p a b o (fun a b => b.ule a) s

/-- JAL (R233). -/
def execJal (p : Dep) (d : SReg) (o : BitVec 17) (s : State) : Res :=
  sWord (.jal p d o) p false s fun s =>
    .done (s.landS (.jal p d o) p d s.pc4 0 1) (s.ctx.pc + (o.signExtend 64 <<< 2))

/-- JALR (R233): the target is read before the link is written. -/
def execJalr (p : Dep) (d a : SReg) (i : BitVec 12) (s : State) : Res :=
  sWord (.jalr p d a i) p false s fun s =>
    match s.earlyS [a] with
    | some e => .trap (earlyTrap e)
    | none => .done (s.landS (.jalr p d a i) p d s.pc4 0 1) (s.ctx.reg a + i.signExtend 64)

/-! ### Spill memory at S -/

/-- The byte that a spill word addresses (R87). -/
def spillOff (o : BitVec 14) : Nat := 8 * o.toNat

/-- The spill-range trap (R236): some byte lies at or above 1,024 × G. -/
def Ctx.spillBad (c : Ctx) (o : BitVec 14) (n : Nat) : Option Trap :=
  if 1024 * c.gran < spillOff o + n then some ⟨13, BitVec.ofNat 64 (spillOff o), 0⟩ else none

/-- SLD (R235). -/
def execSld (p : Dep) (d : SReg) (o : BitVec 14) (s : State) : Res :=
  sWord (.sld p d o) p false s fun s =>
    match s.ctx.spillBad o 8 with
    | some t => .trap t
    | none => .done (s.landS (.sld p d o) p d (s.ctx.spill.read64 (spillOff o)) 0 1) s.pc4

/-- SST (R235). -/
def execSst (p : Dep) (d : SReg) (o : BitVec 14) (s : State) : Res :=
  sWord (.sst p d o) p false s fun s =>
    match s.earlyS [d] with
    | some e => .trap (earlyTrap e)
    | none =>
      match s.ctx.spillBad o 8 with
      | some t => .trap t
      | none => doneS (s.withCtx (s.ctx.spillPut s.ctx.nextId (spillOff o) (b8 (s.ctx.reg d)))) p

end Sys2Proof.Machine
end

