-- ==== Sys2Proof/Machine/Memory.lean ====
section
/-! DEFINITION. The memory, full-empty, atomic, fence and cache words of S (R240 to R252, R95 to R106). -/

namespace Sys2Proof.Machine

/-- The byte address of a scaled offset (R36, R240). -/
def State.ea (s : State) (a : SReg) (size : Nat) (i : BitVec 9) : Word :=
  s.ctx.reg a + i.signExtend 64 * BitVec.ofNat 64 size

/-- A load leaves S (R92): its destination is pending, it counts in lc, its data arrives after a variable latency. -/
def State.issueLoad (s : State) (i : Instr) (p : Dep) (d : SReg) (x y : Word) (accs : List Acc) (act : Act)
    (acq rel : Bool) : State :=
  let t := s.delay
  let s1 := t.2
  let q := { Pend.mk0 s1.ctx.nextId .s s1.ctx.pc with
    word := some i, x := x, y := y, due := some (s1.now + 1 + t.1), act := act, dsts := dstS d, accs := accs,
    ctr := some .lc, push := pushesOf .s p, acq := acq, rel := rel }
  s1.withCtx { (s1.ctx.incCtr .lc) with pend := s1.ctx.pend ++ [q] }

/-- A store leaves S (R92): it counts in sc until it takes effect. -/
def State.issueStore (s : State) (i : Instr) (p : Dep) (x : Word) (parts : List StPart) (kind : StKind) (rel : Bool) : State :=
  let t := s.delay
  let s1 := t.2
  let q : PStore := { id := s1.ctx.nextId, st := .s, pc := s1.ctx.pc, word := some i, x := x, due := some (s1.now + 1 + t.1),
                      parts := parts, kind := kind, push := pushesOf .s p, rel := rel, late := false, anew := false }
  s1.withCtx { (s1.ctx.incCtr .sc) with stores := s1.ctx.stores ++ [q] }

/-- What a memory word at S needs (R19, R24, R245): no LDA is out before an LS word, its counter has room, no source is
early. -/
def countedWord (ls : Bool) (i : Instr) (p : Dep) (k : Ctr) (srcs : List SReg) (body : State → Body) (s : State) : Res :=
  sWord i p false s fun s =>
    if ls && s.ctx.ldaWait then .stall
    else if 63 ≤ s.ctx.ctr k then .hold true false
    else
      match s.earlyS srcs with
      | some e => .trap (earlyTrap e)
      | none => body s

/-- An LS word of S (R89). -/
def lsWord (i : Instr) (p : Dep) (k : Ctr) (srcs : List SReg) (body : State → Body) (s : State) : Res :=
  countedWord true i p k srcs body s

/-- The windows that an access of `n` bytes may use: 8-byte accesses reach the format registers (R242). -/
def winOf (n : Nat) : Win := if n = 8 then .spadFmt else .spad

/-- A scalar load of `n` bytes (R243). -/
def loadWord (i : Instr) (p : Dep) (d a : SReg) (o : BitVec 9) (n : Nat) (sgn : Bool) (s : State) : Res :=
  lsWord i p .lc [a] (fun s =>
    s.access (s.ea a n o) n n .read (winOf n) fun acc =>
      .done (s.issueLoad i p d 0 0 [acc] (.load n sgn d) false false) s.pc4) s

/-- The kind of a plain store: one to a format register is a format write (R144, R148). -/
def storeKindOf (acc : Acc) : StKind :=
  if isFmtLoc acc.loc then .fmt ((acc.loc - 0x01FF900000000000) / 0x1000) (acc.loc % 0x1000 / 8) else .plain

/-- A scalar store of `n` bytes (R244). -/
def storeWord (i : Instr) (p : Dep) (d a : SReg) (o : BitVec 9) (n : Nat) (s : State) : Res :=
  lsWord i p .sc [a, d] (fun s =>
    s.access (s.ea a n o) n n .write (winOf n) fun acc =>
      .done (s.issueStore i p (s.ctx.reg d) [⟨acc, lowMask n, s.ctx.reg d⟩] (storeKindOf acc) false) s.pc4) s

/-- LB (R243). -/
def execLb (p : Dep) (d a : SReg) (i : BitVec 9) (s : State) : Res := loadWord (.lb p d a i) p d a i 1 true s
/-- LBU (R243). -/
def execLbu (p : Dep) (d a : SReg) (i : BitVec 9) (s : State) : Res := loadWord (.lbu p d a i) p d a i 1 false s
/-- LH (R243). -/
def execLh (p : Dep) (d a : SReg) (i : BitVec 9) (s : State) : Res := loadWord (.lh p d a i) p d a i 2 true s
/-- LHU (R243). -/
def execLhu (p : Dep) (d a : SReg) (i : BitVec 9) (s : State) : Res := loadWord (.lhu p d a i) p d a i 2 false s
/-- LW (R243). -/
def execLw (p : Dep) (d a : SReg) (i : BitVec 9) (s : State) : Res := loadWord (.lw p d a i) p d a i 4 true s
/-- LWU (R243). -/
def execLwu (p : Dep) (d a : SReg) (i : BitVec 9) (s : State) : Res := loadWord (.lwu p d a i) p d a i 4 false s
/-- LD (R243). -/
def execLd (p : Dep) (d a : SReg) (i : BitVec 9) (s : State) : Res := loadWord (.ld p d a i) p d a i 8 false s
/-- SB (R244). -/
def execSb (p : Dep) (d a : SReg) (i : BitVec 9) (s : State) : Res := storeWord (.sb p d a i) p d a i 1 s
/-- SH (R244). -/
def execSh (p : Dep) (d a : SReg) (i : BitVec 9) (s : State) : Res := storeWord (.sh p d a i) p d a i 2 s
/-- SW (R244). -/
def execSw (p : Dep) (d a : SReg) (i : BitVec 9) (s : State) : Res := storeWord (.sw p d a i) p d a i 4 s
/-- SD (R244). -/
def execSd (p : Dep) (d a : SReg) (i : BitVec 9) (s : State) : Res := storeWord (.sd p d a i) p d a i 8 s

/-- LDA (R245): an acquire; later LS words of the context wait at S until it lands. -/
def execLda (p : Dep) (d a : SReg) (sc : Scope) (z : BitVec 2) (s : State) : Res :=
  lsWord (.lda p d a sc z) p .lc [a] (fun s =>
    s.access (s.ctx.reg a) (2 ^ z.toNat) (2 ^ z.toNat) .read (winOf (2 ^ z.toNat)) fun acc =>
      .done (s.issueLoad (.lda p d a sc z) p d 0 0 [acc] (.load (2 ^ z.toNat) false d) true false) s.pc4) s

/-- STL (R245): a release. -/
def execStl (p : Dep) (a b : SReg) (sc : Scope) (z : BitVec 2) (s : State) : Res :=
  lsWord (.stl p a b sc z) p .sc [a, b] (fun s =>
    s.access (s.ctx.reg a) (2 ^ z.toNat) (2 ^ z.toNat) .write (winOf (2 ^ z.toNat)) fun acc =>
      .done (s.issueStore (.stl p a b sc z) p (s.ctx.reg b) [⟨acc, lowMask (2 ^ z.toNat), s.ctx.reg b⟩]
        (storeKindOf acc) true) s.pc4) s

/-! ### Full-empty words -/

/-- LFE and LFEC (R246): the context is blocked until the granule is full and the word lands. -/
def lfeWord (i : Instr) (p : Dep) (d a : SReg) (o : BitVec 9) (clear : Bool) (s : State) : Res :=
  lsWord i p .lc [a] (fun s =>
    s.access (s.ea a 8 o) 8 8 .read .spadOnly fun acc =>
      .done ((s.issueLoad i p d 0 0 [acc] (.lfe clear d) true false).holdFor) s.pc4) s

/-- LFE (R246). -/
def execLfe (p : Dep) (d a : SReg) (i : BitVec 9) (s : State) : Res := lfeWord (.lfe p d a i) p d a i false s
/-- LFEC (R246). -/
def execLfec (p : Dep) (d a : SReg) (i : BitVec 9) (s : State) : Res := lfeWord (.lfec p d a i) p d a i true s

/-- SFE (R246): the bytes and the bit in one step, a release at .cl. -/
def execSfe (p : Dep) (d a : SReg) (i : BitVec 9) (s : State) : Res :=
  lsWord (.sfe p d a i) p .sc [a, d] (fun s =>
    s.access (s.ea a 8 i) 8 8 .write .spadOnly fun acc =>
      let o := spadOf acc.loc
      .done (s.issueStore (.sfe p d a i) p (s.ctx.reg d) [⟨acc, BitVec.allOnes 64, s.ctx.reg d⟩] (.sfe o.1 o.2) true)
        s.pc4) s

/-- FECLR (R246): the bits of every granule that the range touches; the range stays in one scratchpad window. -/
def execFeclr (p : Dep) (d a : SReg) (i : BitVec 9) (s : State) : Res :=
  lsWord (.feclr p d a i) p .sc [a, d] (fun s =>
    let va := s.ea a 8 i
    let n := (s.ctx.reg d).toNat
    match precheck s.core va (Nat.max 1 n) 1 .spadOnly 0 with
    | some t => .trap t
    | none =>
      match placeOf s.core va.toNat with
      | .spad core off =>
        if 0x80000 < off + n then .trap ⟨9, va, 0⟩
        else .done (s.issueStore (.feclr p d a i) p (s.ctx.reg d) [] (.feclr core off n) false) s.pc4
      | _ => .trap ⟨9, va, 0⟩) s

/-- FEPOLL (R246): the granule's bit, without waiting. -/
def execFepoll (p : Dep) (d a : SReg) (i : BitVec 9) (s : State) : Res :=
  lsWord (.fepoll p d a i) p .lc [a] (fun s =>
    s.access (s.ea a 8 i) 1 1 .read .spadOnly fun acc =>
      let o := spadOf acc.loc
      .done (s.issueLoad (.fepoll p d a i) p d 0 0 [acc] (.fepoll o.1 o.2 d) true false) s.pc4) s

/-! ### Atomics and function shipping -/

/-- An atomic (R247). With `ar` it is an acquire and a release. -/
def amoWord (i : Instr) (op : AmoOp) (p : Dep) (d a b : SReg) (ar : Bool) (s : State) : Res :=
  lsWord i p .lc (if op = .cas then [a, b, d] else [a, b]) (fun s =>
    s.access (s.ctx.reg a) 8 8 .write .spad fun acc =>
      .done (s.issueLoad i p d (s.ctx.reg b) (s.ctx.reg d) [acc] (.amo op (s.ctx.reg b) (s.ctx.reg d) d) ar ar) s.pc4) s

/-- AMOADD (R247). -/
def execAmoadd (p : Dep) (d a b : SReg) (ar : Bool) (sc : Scope) (s : State) : Res :=
  amoWord (.amoadd p d a b ar sc) .add p d a b ar s
/-- AMOAND (R247). -/
def execAmoand (p : Dep) (d a b : SReg) (ar : Bool) (sc : Scope) (s : State) : Res :=
  amoWord (.amoand p d a b ar sc) .and p d a b ar s
/-- AMOOR (R247). -/
def execAmoor (p : Dep) (d a b : SReg) (ar : Bool) (sc : Scope) (s : State) : Res :=
  amoWord (.amoor p d a b ar sc) .or p d a b ar s
/-- AMOXOR (R247). -/
def execAmoxor (p : Dep) (d a b : SReg) (ar : Bool) (sc : Scope) (s : State) : Res :=
  amoWord (.amoxor p d a b ar sc) .xor p d a b ar s
/-- AMOMIN (R247). -/
def execAmomin (p : Dep) (d a b : SReg) (ar : Bool) (sc : Scope) (s : State) : Res :=
  amoWord (.amomin p d a b ar sc) .min p d a b ar s
/-- AMOMAX (R247). -/
def execAmomax (p : Dep) (d a b : SReg) (ar : Bool) (sc : Scope) (s : State) : Res :=
  amoWord (.amomax p d a b ar sc) .max p d a b ar s
/-- AMOSWAP (R247). -/
def execAmoswap (p : Dep) (d a b : SReg) (ar : Bool) (sc : Scope) (s : State) : Res :=
  amoWord (.amoswap p d a b ar sc) .swap p d a b ar s
/-- AMOCAS (R247). -/
def execAmocas (p : Dep) (d a b : SReg) (ar : Bool) (sc : Scope) (s : State) : Res :=
  amoWord (.amocas p d a b ar sc) .cas p d a b ar s

/-- FSH (R248): the routine runs at the sector's cellar; the page must lie in HBM4E. It is no LS word, so an LDA does not hold
it (R242, R245). -/
def execFsh (p : Dep) (d a b : SReg) (n : BitVec 7) (s : State) : Res :=
  countedWord false (.fsh p d a b n) p .lc [a, b, d] (fun s =>
    s.access (s.ctx.reg a) 8 8 .write .none fun acc =>
      if !(isHbm acc.loc) then .trap ⟨12, s.ctx.reg a, faultInfo .write false 0⟩
      else .done (s.issueLoad (.fsh p d a b n) p d (s.ctx.reg b) (s.ctx.reg d) [acc]
        (.fsh n (s.ctx.reg d) (s.ctx.reg b) d none) false false) s.pc4) s

/-! ### Fences and waits -/

/-- S holds the word until `ready` holds, as at a counter of 63, then it completes (R98, R100, R249, R251); `rs` says when a
stalled RSEND holds it (R140). -/
def waitWord (i : Instr) (p : Dep) (ready rs : State → Bool) (s : State) : Res :=
  sWord i p false s fun s => if ready s then doneS s p else .hold true (rs s)

/-- FENCE (R98): every earlier LS access has taken effect; a write is visible everywhere when it takes effect. -/
def execFence (p : Dep) (sc : Scope) (s : State) : Res := waitWord (.fence p sc) p (fun s => s.ctx.lsQuiet) (fun _ => false) s

/-- A queued or running command of the context satisfies `f`. -/
def Ctx.anyEntry (c : Ctx) (f : Instr → Bool) : Bool :=
  (c.mEntries ++ c.cEntries).any fun e => match e.word with | some i => f i | none => false

/-- A relay transfer of the context is in flight (R198, R199). -/
def State.relayBusy (s : State) (uid : Nat) : Bool :=
  s.channels.any fun ch => (ch.2.sends.any fun x => x.ctx == uid) || ch.2.returns.any fun x => x.1 == uid

/-- Every access of the context on a path has taken effect (R89, R100); a compute context has none on HO and HS. -/
def State.pathQuiet (s : State) (x : Path) : Bool :=
  match x with
  | .ls => s.ctx.lsQuiet
  | .cp => !(s.ctx.anyEntry fun i => match i with | .copy .. => true | .cfill .. => true | _ => false)
  | .mt => !(s.ctx.anyEntry fun i => match i with | .mmac .. => true | .mfill .. => true | _ => false)
  | .md => !(s.ctx.anyEntry fun i => match i with | .mdrain .. => true | _ => false)
  | .rl => !(s.relayBusy s.ctx.uid) &&
      !(s.ctx.anyEntry fun i => match i with | .rsend .. => true | .rpermit .. => true | _ => false)
  | .fs => s.ctx.pend.all fun p => match p.act with | .fsh .. => false | _ => true
  | .ho => true
  | .hs => true

/-- What an XFENCE waits for (R100): the first path's accesses; the second's where the first is HO or HS; nothing for one
engine path twice. -/
def State.fencePath (s : State) (x y : Path) : Bool :=
  match x, y with
  | .ho, y => s.pathQuiet y
  | .hs, y => s.pathQuiet y
  | .cp, .cp => true
  | .mt, .mt => true
  | .md, .md => true
  | .rl, .rl => true
  | x, _ => s.pathQuiet x

/-- XFENCE (R100). -/
def execXfence (p : Dep) (x y : Path) (s : State) : Res :=
  let w := match x with | .ho => y | .hs => y | _ => x
  waitWord (.xfence p x y) p (fun s => s.fencePath x y) (fun _ => w == .rl || w == .cp) s

/-- The stations that MKFENCE names (R49). -/
def markList (l : BitVec 3) : List Station :=
  (if l.getLsbD 2 then [.v] else []) ++ (if l.getLsbD 1 then [.m] else []) ++ (if l.getLsbD 0 then [.c] else [])

/-- The queue of a station. -/
def Ctx.queue (c : Ctx) (st : Station) : List QEntry :=
  match st with | .s => [] | .v => c.vq | .m => c.mq | .c => c.cq

/-- The context with a station's queue replaced. -/
def Ctx.setQueue (c : Ctx) (st : Station) (q : List QEntry) : Ctx :=
  match st with | .s => c | .v => { c with vq := q } | .m => { c with mq := q } | .c => { c with cq := q }

/-- The places of a station's queue that a context holds (R77): a command of M or C keeps its place until it completes, as the
save area's eight places and three-bit positions show (R384, R388, log entry 76). -/
def Ctx.places (c : Ctx) (st : Station) : Nat :=
  match st with | .s => 0 | .v => c.vq.length | .m => c.mEntries.length | .c => c.cEntries.length

/-- The places of a station's queue (R77). -/
def queueCap (st : Station) : Nat := match st with | .v => 16 | _ => 8

/-- A marker of MKFENCE stands in some queue. -/
def Ctx.marked (c : Ctx) : Bool := (c.vq ++ c.mq ++ c.cq).any fun e => e.word.isNone

/-- The context without markers. -/
def Ctx.unmark (c : Ctx) : Ctx :=
  { c with vq := c.vq.filter (·.word.isSome), mq := c.mq.filter (·.word.isSome), cq := c.cq.filter (·.word.isSome) }

/-- Every earlier entry of a station's queue has completed, and the marker is at its head (R250). -/
def Ctx.markDone (c : Ctx) (st : Station) : Bool :=
  (match c.queue st with | e :: _ => e.word.isNone | [] => true) &&
  (c.pend.all fun p => p.st != st) && (c.stores.all fun p => p.st != st) && (c.done.all fun d => d.1 != st) &&
  (match st with
   | .s => true
   | .v => c.active.isNone
   | .m => c.mact.isNone && c.min.isEmpty
   | .c => c.cact.isNone && c.cc == 0)

/-- MKFENCE (R250): markers go into the named queues, and S holds until each has reached its head. -/
def execMkfence (p : Dep) (l : BitVec 3) (s : State) : Res :=
  if !s.live then .fault .noContext
  else if s.ctx.marked then
    (if (markList l).all s.ctx.markDone then doneS (s.withCtx s.ctx.unmark) p
     else .hold false (l.getLsbD 0) : Body).finish s
  else
    sWord (.mkfence p l) p false s fun s =>
      if l = 0 then doneS s p
      else if (markList l).any fun st => queueCap st ≤ s.ctx.places st then .hold true (l.getLsbD 0)
      else
        .left ((s.withCtx ((markList l).foldl (fun c st =>
          c.setQueue st (c.queue st ++ [{ blankEntry c.nextId with pc := c.pc, p := p, at_ := s.now }])) s.ctx)).markS)

/-- A threshold code's value (R49). -/
def thrOf (c : BitVec 3) : Nat := match c.toNat with | 0 => 0 | 1 => 1 | 2 => 2 | 3 => 4 | 4 => 8 | 5 => 16 | 6 => 32 | _ => 63

/-- The C words that count in cc and have not started (R19): they stay behind an RSEND that waits for its permit. -/
def Ctx.queuedCc (c : Ctx) : Nat :=
  (c.cq.filter fun e => match e.word with
    | some (.copy ..) => true
    | some (.cfill ..) => true
    | some (.rsend ..) => true
    | some (.rpermit ..) => true
    | _ => false).length

/-- WAITC (R251); a stalled RSEND holds it where what has started would not bring cc low enough (R140). -/
def execWaitc (p : Dep) (t c n l : BitVec 3) (s : State) : Res :=
  waitWord (.waitc p t c n l) p (fun s =>
    decide (s.ctx.lc ≤ thrOf l) && decide (s.ctx.sc ≤ thrOf n) && decide (s.ctx.cc ≤ thrOf c) &&
    decide (s.ctx.tc ≤ thrOf t)) (fun s => decide (thrOf c < s.ctx.queuedCc)) s

/-! ### Cache control -/

/-- CWB and CINV (R252): the address-form fault and the page fault, but no access fault; nothing on a window; else a count in sc
until the write-back is accepted. -/
def cacheWord (i : Instr) (p : Dep) (a : SReg) (o : BitVec 12) (s : State) : Res :=
  lsWord i p .sc [a] (fun s =>
    let va := s.ctx.reg a + o.signExtend 64
    if 2 ^ 57 ≤ va.toNat then .trap ⟨8, va, 0⟩
    else if winBase ≤ va.toNat then doneS s p
    else
      match s.xlateS va.toNat .cache, (s.walk s.ctx.root.toNat s.ctx.asid.toNat va.toNat).use va.toNat .cache s.ctx.priv with
      | .miss, .fault 12 _ => .done (s.issueStore i p 0 [] .cache false) s.pc4
      | .miss, _ => .walk va .cache 0
      | _, _ => .done (s.issueStore i p 0 [] .cache false) s.pc4) s

/-- CWB (R252). -/
def execCwb (p : Dep) (a : SReg) (i : BitVec 12) (s : State) : Res := cacheWord (.cwb p a i) p a i s
/-- CINV (R252). -/
def execCinv (p : Dep) (a : SReg) (i : BitVec 12) (s : State) : Res := cacheWord (.cinv p a i) p a i s

/-- PREF (R252): it changes no outcome and raises no fault. -/
def execPref (p : Dep) (a : SReg) (i : BitVec 12) (s : State) : Res :=
  sWord (.pref p a i) p false s fun s =>
    match s.earlyS [a] with
    | some e => .trap (earlyTrap e)
    | none => doneS s p

end Sys2Proof.Machine
end

