-- ==== Sys2Proof/Machine/Vops.lean ====
section
/-! DEFINITION. Words of the V, M and C stations: forwarding by S (R77), pops and appends (R258 to R261), the start at the
station with its checks in the order of R31, landing from the start (R79), a trap found at the start (R29, R33). -/

namespace Sys2Proof.Machine

/-! ### What a trap at the start undoes -/

/-- A dropped entry's counts and generator changes are undone (R33): a generator that SSET wrote is as it was, but for the
transfers that have landed since. -/
def Ctx.undo (c : Ctx) (e : QEntry) : Ctx :=
  let c1 := match e.word with | some i => c.decCtr? (ctrOf i) | none => c
  let c2 := if e.app.isSome then c1.decCtr .sc else c1
  let out := (c2.pend.filter fun p => match p.act with | .pop _ k _ _ => k == e.id | _ => false).length
  let c3 : Ctx := { c2 with
    lc := c2.lc - out,
    pend := c2.pend.filter fun p => !(p.id == e.id || (match p.act with | .pop _ k _ _ => k == e.id | _ => false)) }
  let c4 := e.pops.foldl (fun c p => if p.data.isSome ∧ p.n ≠ 0 then
    c.setGen p.g { c.gen p.g with pos := (c.gen p.g).pos - BitVec.ofNat 32 p.n } else c) c3
  match e.word, e.gold with
  | some (.sset _ n _ _), some g => c4.setGen n.toNat { g with pos := g.pos + (c4.gen n.toNat).pos }
  | some (.sbind _ n), some g => c4.setGen n.toNat { c4.gen n.toNat with bound := g.bound }
  | some (.sunbind _ n), some g => c4.setGen n.toNat { c4.gen n.toNat with bound := g.bound }
  | _, _ => c4

/-- A marked MKFENCE gives its tokens back, for it is executed again (R250). -/
def Ctx.unfence (c : Ctx) : Ctx :=
  match (c.vq ++ c.mq ++ c.cq).find? fun e => e.word.isNone with
  | none => c
  | some e => (c.unmark).returnToks .s e.p

/-- An abandoned wait (R29, R318, R324, R383): the pending word is withdrawn, and with it its count; its tokens return. -/
def State.abandon (s : State) (k : Nat) : State :=
  match s.ctxAt k with
  | none => s
  | some c =>
    let drop (c : Ctx) (id : Nat) : Ctx :=
      match c.pendOf id with
      | some p => if p.act == .vals then c else ((c.dropPend id).decCtr? p.ctr).returnToks .s (depOf p.word)
      | none => c
    match c.waitNow with
    | .gbar id home num _ => (s.putCtx k ((drop c id).setWait .none)).withdraw (4096 * home + num) c.uid
    | .cntwait id _ _ => s.putCtx k ((drop c id).setWait .none)
    | .landing id => s.putCtx k ((drop c id).setWait .none)
    | _ => s.putCtx k ((c.wfeEnd s.now).setWait .none)

/-- What S waits for at a trap of V, M or C: a GBAR's arrival has left the core and is never withdrawn, so its wait is kept for the
return (R315); any other wait is abandoned, for its word is executed again. -/
def State.standBy (s : State) (k : Nat) : State :=
  match s.ctxAt k with
  | none => s
  | some c => match c.waitNow with
    | .gbar .. => s.putCtx k { c with hwait := c.waitNow, block := .none }
    | _ => s.abandon k

/-- A trap of a word of V, M or C (R31, R33): it and the context's later queue entries are dropped with their counts undone, and
the saved pc is the word; `f` is what the station undoes. -/
def State.dropTrap (s : State) (k : Nat) (e : QEntry) (t : Trap) (f : Ctx → Ctx) : State :=
  let s1 := s.standBy k
  match s1.ctxAt k with
  | none => s1
  | some c0 =>
    let c := c0.unfence
    let later := (c.vq ++ c.mq ++ c.cq).filter fun (x : QEntry) => decide (e.id < x.id)
    let keep (q : List QEntry) : List QEntry := q.filter fun x => decide (x.id < e.id)
    let c1 : Ctx := { f c with vq := keep c.vq, mq := keep c.mq, cq := keep c.cq }
    let c2 := ((e :: later).reverse.foldl Ctx.undo c1).reIpos
    ({ s1.putCtx k c2 with turn := .sched } : State).takeTrap k t e.pc

/-- The station lets go of the word that has started there, and its tokens return (R29). -/
def Ctx.unstart (c : Ctx) (st : Station) (p : Dep) : Ctx :=
  let c1 := c.returnToks st p
  match st with
  | .v => { c1 with active := none }
  | .m => { c1 with mact := none }
  | .c => { c1 with cact := none }
  | .s => c1

/-- A trap found when a word starts at V, M or C (R29, R31, R33). -/
def State.startTrap (s : State) (k : Nat) (st : Station) (e : QEntry) (t : Trap) : State :=
  s.dropTrap k e t fun c => c.unstart st e.p

/-! ### Forwarding -/

/-- The frame of every forwarding (R28, R77): no live context is the scheduler's error, an owed push holds S. -/
def fWord (s : State) (body : State → Body) : Res :=
  if !s.live then .fault .noContext
  else if s.ctx.owes .s then Body.finish .stall s
  else (body s).finish s

/-- The accesses of a transfer of `bits` bits at `a`, 8 bytes at a time (R259, R241): the first failing check traps. -/
def State.transfer (s : State) (a : Word) (bits : Nat) (want : Want) (k : List Acc → Body) : Body :=
  if bits = 0 then k []
  else
    let bytes := (bits + 7) / 8
    match precheck s.core a bytes 16 .spad 0 with
    | some t => .trap t
    | none =>
      go a want k ((bytes + 7) / 8) 0 bytes []
where
  /-- The pieces from piece `i` on. -/
  go (a : Word) (want : Want) (k : List Acc → Body) : Nat → Nat → Nat → List Acc → Body
    | 0, _, _, acc => k acc.reverse
    | n + 1, i, left, acc =>
      s.access (a + BitVec.ofNat 64 (8 * i)) (Nat.min 8 left) 1 want .spad fun x =>
        go a want k n (i + 1) (left - 8) (x :: acc)

/-- A pop is issued for the word that will have number `entry` (R259, R260). -/
def State.issuePop (s : State) (i : Instr) (entry g : Nat) (accs : List Acc) (n : Nat) : State :=
  let t := s.delay
  let s1 := t.2
  let q := { Pend.mk0 s1.ctx.nextId .v s1.ctx.pc with
    word := some i, due := some (s1.now + 1 + t.1), act := .pop g entry n (s1.ctx.gen g).type.toNat, accs := accs,
    ctr := some .lc }
  let gn := s1.ctx.gen g
  let c1 := ((s1.ctx.incCtr .lc).setGen g { gn with ipos := gn.ipos + BitVec.ofNat 32 n })
  s1.withCtx { c1 with pend := c1.pend ++ [q], nextId := s1.ctx.nextId + 1 }

/-- The pops of a word's bound h sources (R260): one per row, whatever number of operands names it. -/
def State.forPops (s : State) (i : Instr) (entry : Nat) : List Nat → List PopIn → (State → List PopIn → Body) → Body
  | [], ps, k => k s ps
  | g :: r, ps, k =>
    let x := (s.ctx.gen g).next
    if x.1 = 0 then s.forPops i entry r (ps ++ [⟨g, 0, some (List.replicate 16 0)⟩]) k
    else s.transfer x.2.2 x.2.1 .read fun accs => (s.issuePop i entry g accs x.1).forPops i entry r (ps ++ [⟨g, x.1, none⟩]) k

/-- The append of a word's bound h destination (R261). -/
def State.forApp (s : State) (g : Option Nat) (k : State → Option AppOut → Body) : Body :=
  match g with
  | none => k s none
  | some n =>
    let gn := s.ctx.gen n
    let x := gn.next
    s.transfer x.2.2 x.2.1 .write fun accs =>
      k (s.withCtx ((s.ctx.incCtr .sc).setGen n { gn with ipos := gn.ipos + BitVec.ofNat 32 x.1 }))
        (some ⟨n, x.1, x.2.1, accs⟩)

/-- The queue entry of a word at its forwarding, and its pending record. -/
def State.enqueue (s : State) (i : Instr) (p : Dep) (st : Station) (x y : SReg) (dsts : List Dst) (ps : List PopIn)
    (app : Option AppOut) (accs : List Acc) : State :=
  let c := s.ctx
  let id := c.nextId
  let e := c.entryOf s.now id i p st (c.reg x) (c.reg y) ps app accs
  let q := c.recordOf id i p st (c.reg x) (c.reg y) dsts
  let c1 : Ctx := match ctrOf i with | some k => c.incCtr k | none => c
  let c2 := c1.setQueue st (c1.queue st ++ [e])
  s.withCtx { c2 with pend := c2.pend ++ [q] }

/-- S does not forward the word in this cycle (R19, R77, R245): an LDA is out before an LS word, the queue is full, a counter
has no room for the word and its transfers. Only where it does are the word's conditions found (R31). -/
def Fwd.held (f : Fwd) (i : Instr) (ls : Bool) (c : Ctx) : Option Body :=
  let np := f.popCount c
  let n := np + (if ctrOf i = some .lc then 1 else 0)
  let app := f.appGen c
  let appLs : Bool := match app with | some g => decide ((c.gen g).next.1 ≠ 0) | none => false
  if (ls || decide (np ≠ 0) || appLs) && c.ldaWait then some .stall
  else if queueCap f.st ≤ c.places f.st then some (.hold true (f.st == .c))
  else if (0 < n ∧ 63 < c.lc + n) ∨ (app.isSome ∧ 63 ≤ c.sc) then some (.hold true false)
  else if (match ctrOf i with | some k => decide (63 ≤ c.ctr k) | none => false) then some (.hold true false)
  else none

/-- The word goes into its queue, with its pops and its append (R77, R260, R261). -/
def forwardGo (i : Instr) (p : Dep) (f : Fwd) (accs : List Acc) (s : State) : Body :=
  s.forPops i (s.ctx.nextId + f.popCount s.ctx) (f.popGens s.ctx) [] fun s ps =>
    s.forApp (f.appGen s.ctx) fun s a =>
      let s1 := s.enqueue i p f.st f.x f.y f.dsts ps a accs
      .done (if f.hold then
        s1.withCtx { s1.ctx with block := .vstart s1.ctx.nextId, blockedAt := s1.now } else s1) s1.pc4

/-- Forwarding (R31, R77) of a word for which S makes the checks `chk` beside those of its scalar sources. -/
def forwardChk (i : Instr) (p : Dep) (f : Fwd) (ls : Bool) (chk : State → (List Acc → Body) → Body) (s : State) : Body :=
  match f.held i ls s.ctx with
  | some b => b
  | none =>
    match s.earlyS f.scal with
    | some e => .trap (earlyTrap e)
    | none => chk s fun accs => forwardGo i p f accs s

/-- Forwarding of a word with no further check. -/
def forward (i : Instr) (p : Dep) (s : State) : Body := forwardChk i p (fwdOf i) false (fun _ k => k []) s

/-! ### The start at V -/

/-- What a grid word's start checks and reads. -/
structure VSpec where
  /-- Single operands that may pop; operands that never do (pair halves, runs). -/
  srcs : List GOp := []
  fixedSrcs : List GOp := []
  /-- A single destination, which may append; destinations that never do. -/
  dst : Option GOp := none
  fixedDsts : List GOp := []
  /-- The destination is read too (an addend). -/
  addend : Bool := false
  /-- The destination keeps what the mask switches off. -/
  keeps : Bool := true
  /-- So do the destinations that never append. -/
  keepsFixed : Bool := false
  types : Nat → Bool := fun _ => true
  /-- Masks read beside vt.mask, and whether vt.mask is read. -/
  masks : List MReg := []
  useMask : Bool := true
  /-- Whether vt is read. -/
  useVt : Bool := true
  /-- The destination is written whole, whatever the mask (R277). -/
  whole : Bool := false

/-- An operand includes a cell of a row that was bound when S forwarded the word (R15). -/
def touchesBound (e : QEntry) (g : GOp) : Bool :=
  if isH g then (genRow e.bound g).isSome else e.bound.any id

/-- Condition 5 for a single source, a single destination (R15, R260, R261). -/
def srcBad (e : QEntry) (g : GOp) : Bool :=
  match genRow e.bound g with
  | some n => nthD e.appd n false
  | none => !isH g && touchesBound e g

def dstBad (e : QEntry) (addend : Bool) (g : GOp) : Bool :=
  match genRow e.bound g with
  | some n => addend || !(nthD e.appd n false)
  | none => !isH g && touchesBound e g

/-- Conditions 4 to 6 of R31 at the start of a grid word. -/
def VSpec.bad (sp : VSpec) (c : Ctx) (e : QEntry) : Option Nat :=
  if c.rows = 0 then some 3
  else if (sp.dst.toList ++ sp.fixedDsts).any (beyond c.rows) then some 3
  else if sp.srcs.any (srcBad e) || sp.dst.toList.any (dstBad e sp.addend) ||
      (sp.fixedSrcs ++ sp.fixedDsts).any (touchesBound e) then some 4
  else if !(sp.types (vtType c.vt)) then some 5
  else none

/-- The cells of a destination that a mask keeps in part or whole (R262). -/
def keptCells (t : Nat) (m : BitVec 256) (g : GOp) : List Dst :=
  ((List.range 16).filter fun j => cellMask t m j != BitVec.allOnes 64).map fun j => .cell (cellNo g j)

/-- What the start of a grid word reads (R262). -/
def VSpec.reads (sp : VSpec) (c : Ctx) (e : QEntry) : List Dst :=
  (if sp.useVt then [.vt] else []) ++
  (if sp.useMask then dstM (vtMask c.vt) else []) ++ sp.masks.flatMap dstM ++
  ((sp.srcs.filter fun g => (genRow e.bound g).isNone) ++ sp.fixedSrcs).flatMap dstG ++
  (if sp.addend then sp.dst.toList.flatMap dstG else []) ++
  (if sp.keeps then (sp.dst.toList.filter fun g => (genRow e.bound g).isNone).flatMap
    (keptCells (vtType c.vt) c.vtMask) else []) ++
  (if sp.keepsFixed then sp.fixedDsts.flatMap (keptCells (vtType c.vt) c.vtMask) else [])

/-- The 16 cells of a source at the start: the popped row where one was made (R260). -/
def Ctx.src (c : Ctx) (e : QEntry) (g : GOp) : List Word :=
  match genRow e.bound g with
  | some n =>
    match e.pops.find? fun p => p.g == n with
    | some p => p.data.getD (List.replicate 16 0)
    | none => c.readOp g
  | none => c.readOp g

/-- The word at V has started and been performed: nothing is active. -/
def State.vDone (s : State) (c : Ctx) : State := { s with ctx := { c with active := none }, turn := .sched }

/-- The parts of an append: the result's bits that the transfer covers and the mask allows (R261). -/
def appParts (t : Nat) (mk : BitVec 256) (a : AppOut) (g : GOp) (ws : List Wr) : List StPart :=
  a.accs.mapIdx fun j acc =>
    let w := ws.foldl (fun (r : Word × Word) w => match w with
      | .cell n m v => if n = cellNo g j then (r.1 ||| m, (r.2 &&& ~~~m) ||| (v &&& m)) else r
      | _ => r) (0, 0)
    ⟨acc, w.1 &&& cellMask t mk j &&& BitVec.ofNat 64 (2 ^ (Nat.min 64 (a.bits - 64 * j)) - 1), w.2⟩

/-- A destination other than a grid cell or the flags. -/
def Dst.plain : Dst → Bool
  | .cell _ => false
  | .fpsr => false
  | _ => true

/-- A started word's writes go on their way (R79): to the cells of `gs` and its other destinations after the latency, or to
the append's transfer, under the mask `mk`. The flags land with the result, and so does an SFU request finish (R138). -/
def Ctx.vLand (c : Ctx) (e : QEntry) (dst : Option GOp) (gs : List GOp) (mk : BitVec 256) (now lat : Nat) (ws : List Wr)
    (fl : Fl) : Ctx :=
  match e.app, dst with
  | some a, some g =>
    let st : PStore := { id := e.id, st := .v, pc := e.pc, word := e.word, x := 0, due := some (now + lat),
                         parts := appParts (vtType c.vt) mk a g ws, kind := .append a.g a.n, push := pushesOf .v e.p,
                         rel := false, late := false, anew := false }
    { c with stores := c.stores ++ [st],
             pend := c.pend.filterMap fun p => if p.id == e.id then
               (if fl = 0 ∧ p.ctr.isNone then none else
                 some { p with due := some (now + lat), fixed := true, flags := fl, push := [], dsts := flagDst fl }) else some p }
  | _, _ =>
    { c with pend := c.pend.map fun p => if p.id == e.id then
        { p with due := some (now + lat), fixed := true, act := .vals, wr := ws, flags := fl,
                 dsts := p.dsts.filter Dst.plain ++ gs.flatMap dstG ++ flagDst fl } else p }

/-- What a grid word's computation answers: its writes and flags, or a trap of condition 5 found in its values. -/
inductive VOut where
  | ok (ws : List Wr) (fl : Fl)
  | bad (cause : Nat)
deriving DecidableEq, Repr

/-- A grid word at its start (R31, R262). -/
def vStart (i : Instr) (spec : Ctx → VSpec) (lat : Nat) (f : Ctx → QEntry → VOut) (s : State) : Res :=
  match s.ctx.active with
  | none => .fault .noActiveEntry
  | some e =>
    let sp := spec s.ctx
    match sp.bad s.ctx e with
    | some z => .next (s.startTrap s.key .v e (wordTrap z i))
    | none =>
      match f s.ctx e with
      | .bad z => .next (s.startTrap s.key .v e (wordTrap z i))
      | .ok ws fl =>
        match s.ctx.early e.id (sp.reads s.ctx e) with
        | some d => .next (s.startTrap s.key .v e (earlyTrap d))
        | none => .next (s.vDone (s.ctx.vLand e sp.dst (sp.dst.toList ++ sp.fixedDsts)
          (if sp.whole then BitVec.allOnes 256 else s.ctx.vtMask) s.now lat ws fl))

/-- A grid word: forwarded by S, or started at V. -/
def gridWord (i : Instr) (p : Dep) (spec : Ctx → VSpec) (lat : Nat) (f : Ctx → QEntry → VOut) (s : State) : Res :=
  match s.turn with
  | .start .v => vStart i spec lat f s
  | _ => fWord s (forward i p)

/-- The element type, mask and mode in force (R262). -/
def Ctx.t (c : Ctx) : Nat := vtType c.vt
def Ctx.m (c : Ctx) : Rnd := vtRnd c.vt

/-- A word of single operands from `srcs` to `g`, computed on element lists; inactive elements are not formed. -/
def elemWord (i : Instr) (p : Dep) (g : GOp) (srcs : List GOp) (addend : Bool) (types : Nat → Bool) (lat : Nat)
    (f : Nat → Rnd → Bool → List Nat → Nat × Fl) (s : State) : Res :=
  gridWord i p
    (fun _ => { srcs := srcs, dst := some g, addend := addend, types := types }) lat
    (fun c e =>
      let t := c.t
      let ins := (srcs ++ if addend then [g] else []).map fun o => elems t (c.src e o)
      let r := (List.range (perVec t)).map fun j =>
        if c.vtMask.getLsbD j then f t c.m c.ftz (ins.map fun l => nthD l j 0) else (0, 0)
      .ok (vecWrites t c.vtMask g (pack t (r.map Prod.fst))) (r.foldl (fun a x => a ||| x.2) 0)) s

end Sys2Proof.Machine
end

