-- ==== Sys2Proof/Machine/GridVector.lean ====
section
/-! DEFINITION. The grid-vector words (R262 to R277) and the generator words (R257, R258). -/

namespace Sys2Proof.Machine

/-- The types of R263. -/
def tyVfa (t : Nat) : Bool := decide (t < 4)
def tyVsf (t : Nat) : Bool := decide (1 ≤ t) && decide (t < 4)
def tyVrd (t : Nat) : Bool := tyVfa t || isInt t
def tyAny (_ : Nat) : Bool := true

/-- The first, second and third inputs of an element. -/
def in0 (l : List Nat) : Nat := nthD l 0 0
def in1 (l : List Nat) : Nat := nthD l 1 0
def in2 (l : List Nat) : Nat := nthD l 2 0

/-! ### VCFG and the generator words -/

/-- VCFG (R264, R16). -/
def execVcfg (p : Dep) (i : BitVec 10) (s : State) : Res :=
  gridWord (.vcfg p i) p (fun _ => { useVt := false, useMask := false, keeps := false }) 1
    (fun _ _ =>
      if 12 ≤ (i.extractLsb' 0 4).toNat ∨ 5 ≤ (i.extractLsb' 7 3).toNat then .bad 4
      else .ok [.vt (i.zeroExtend 12)] 0) s

/-- A generator word (R257): S makes its checks and its change at forwarding; at V it occupies an entry and completes. -/
def streamWord (i : Instr) (p : Dep) (n : BitVec 2) (chk : State → Option Nat) (f : Ctx → Gen → Gen)
    (s : State) : Res :=
  match s.turn with
  | .start .v =>
    match s.ctx.active with
    | none => .fault .noActiveEntry
    | some e => .next (s.vDone ((s.ctx.dropPend e.id).complete .v e.id (pushesOf .v e.p)))
  | _ =>
    fWord s fun s =>
      match (fwdOf i).held i false s.ctx, chk s with
      | some b, _ => b
      | none, some z => .trap (wordTrap z i)
      | none, none =>
        match forward i p s with
        | .done s1 pc =>
          let g := s1.ctx.gen n.toNat
          let vq := s1.ctx.vq.map fun e => if e.id == s1.ctx.nextId then { e with gold := some g } else e
          .done (s1.withCtx (({ s1.ctx with vq := vq } : Ctx).setGen n.toNat (f s1.ctx g)).reIpos) pc
        | b => b

/-- SSET (R257): pos starts at 0, and P counts the transfers that an earlier use of the generator still has out (R259, log
entry 77). -/
def execSset (p : Dep) (n : BitVec 2) (a b : SReg) (s : State) : Res :=
  let x := s.ctx.reg a
  let y := s.ctx.reg b
  streamWord (.sset p n a b) p n
    (fun s =>
      if s.ctx.rows = 0 then some 3
      else if 12 ≤ wfld x 58 4 ∨ wfld x 62 2 ≠ 0 ∨ wfld x 0 4 ≠ 0 ∨ wfld y 0 4 ≠ 0 ∨ (s.ctx.gen n.toNat).bound then some 4
      else none)
    (fun _ _ =>
      { base := BitVec.ofNat 57 x.toNat, stride := BitVec.ofNat 32 y.toNat, count := BitVec.ofNat 32 (wfld y 32 32),
        pos := 0, dir := wbit x 57, type := BitVec.ofNat 4 (wfld x 58 4), bound := false, ipos := 0 }) s

/-- SBIND (R258). -/
def execSbind (p : Dep) (n : BitVec 2) (s : State) : Res :=
  streamWord (.sbind p n) p n
    (fun s =>
      if s.ctx.rows ≤ 12 + n.toNat then some 3 else if (s.ctx.gen n.toNat).bound then some 4 else none)
    (fun _ g => { g with bound := true }) s

/-- SUNBIND (R258): nothing on an unbound generator. -/
def execSunbind (p : Dep) (n : BitVec 2) (s : State) : Res :=
  streamWord (.sunbind p n) p n (fun s => if s.ctx.rows = 0 then some 3 else none)
    (fun _ g => { g with bound := false }) s

/-! ### Float arithmetic -/

/-- VFADD (R265). -/
def execVfadd (p : Dep) (g a b : GOp) (s : State) : Res :=
  elemWord (.vfadd p g a b) p g [a, b] false tyVfa 4 (fun t m z l => fAdd t m z (in0 l) (in1 l)) s

/-- VFSUB (R265). -/
def execVfsub (p : Dep) (g a b : GOp) (s : State) : Res :=
  elemWord (.vfsub p g a b) p g [a, b] false tyVfa 4 (fun t m z l => fSub t m z (in0 l) (in1 l)) s

/-- VFMUL (R265). -/
def execVfmul (p : Dep) (g a b : GOp) (s : State) : Res :=
  elemWord (.vfmul p g a b) p g [a, b] false tyVfa 4 (fun t m z l => fMul t m z (in0 l) (in1 l)) s

/-- VFMA (R265). -/
def execVfma (p : Dep) (g a b : GOp) (s : State) : Res :=
  elemWord (.vfma p g a b) p g [a, b] true tyVfa 4 (fun t m z l => fFma t m z false false (in0 l) (in1 l) (in2 l)) s

/-- VFMS (R265). -/
def execVfms (p : Dep) (g a b : GOp) (s : State) : Res :=
  elemWord (.vfms p g a b) p g [a, b] true tyVfa 4 (fun t m z l => fFma t m z false true (in0 l) (in1 l) (in2 l)) s

/-- VFNMA (R265). -/
def execVfnma (p : Dep) (g a b : GOp) (s : State) : Res :=
  elemWord (.vfnma p g a b) p g [a, b] true tyVfa 4 (fun t m z l => fFma t m z true false (in0 l) (in1 l) (in2 l)) s

/-- VFDIV (R265). -/
def execVfdiv (p : Dep) (g a b : GOp) (s : State) : Res :=
  elemWord (.vfdiv p g a b) p g [a, b] false tyVfa 14 (fun t m z l => fDiv t m z (in0 l) (in1 l)) s

/-- VFSQRT (R265). -/
def execVfsqrt (p : Dep) (g a : GOp) (s : State) : Res :=
  elemWord (.vfsqrt p g a) p g [a] false tyVfa 18 (fun t m z l => fSqrt t m z (in0 l)) s

/-- VFMIN (R266). -/
def execVfmin (p : Dep) (g a b : GOp) (s : State) : Res :=
  elemWord (.vfmin p g a b) p g [a, b] false tyVfa 4 (fun t _ z l => fMinMax t z false (in0 l) (in1 l)) s

/-- VFMAX (R266). -/
def execVfmax (p : Dep) (g a b : GOp) (s : State) : Res :=
  elemWord (.vfmax p g a b) p g [a, b] false tyVfa 4 (fun t _ z l => fMinMax t z true (in0 l) (in1 l)) s

/-- VFABS (R265). -/
def execVfabs (p : Dep) (g a : GOp) (s : State) : Res :=
  elemWord (.vfabs p g a) p g [a] false tyVfa 1 (fun t _ _ l => (in0 l % 2 ^ (tyWidth t - 1), 0)) s

/-- VFNEG (R265). -/
def execVfneg (p : Dep) (g a : GOp) (s : State) : Res :=
  elemWord (.vfneg p g a) p g [a] false tyVfa 1 (fun t _ _ l => (Nat.xor (in0 l) (2 ^ (tyWidth t - 1)), 0)) s

/-! ### Special functions -/

/-- A VSF word (R267, R138): the request was accepted as the word started, and its result lands when it leaves the SFU. -/
def sfuWord (i : Instr) (p : Dep) (g a : GOp) (f : Nat → Rnd → Val → Nat × Fl) (s : State) : Res :=
  let leave := (mgetD s.sfu (clusterOf s.core) []).getLastD s.now
  let t := s.delay
  elemWord i p g [a] false tyVsf (leave - s.now + 8 + t.1)
    (fun t m z l => ftzOut z t (f t m (fIn z t (in0 l)))) (if s.turn = .start .v then t.2 else s)

/-- VEXP2 (R267). -/
def execVexp2 (p : Dep) (g a : GOp) (s : State) : Res := sfuWord (.vexp2 p g a) p g a sfExp2 s

/-- VLOG2 (R267). -/
def execVlog2 (p : Dep) (g a : GOp) (s : State) : Res := sfuWord (.vlog2 p g a) p g a sfLog2 s

/-- VRSQ (R267). -/
def execVrsq (p : Dep) (g a : GOp) (s : State) : Res := sfuWord (.vrsq p g a) p g a sfRsq s

/-- VRCP (R267). -/
def execVrcp (p : Dep) (g a : GOp) (s : State) : Res := sfuWord (.vrcp p g a) p g a sfRcp s

/-- VTANH (R267). -/
def execVtanh (p : Dep) (g a : GOp) (s : State) : Res := sfuWord (.vtanh p g a) p g a sfTanh s

/-- VSIGM (R267). -/
def execVsigm (p : Dep) (g a : GOp) (s : State) : Res := sfuWord (.vsigm p g a) p g a sfSigm s

/-! ### Integer arithmetic and logic -/

/-- A VIA or shift word (R268, R269): it sets no flag. -/
def intWord (i : Instr) (p : Dep) (g a b : GOp) (lat : Nat) (f : Nat → Nat → Nat → Nat) (s : State) : Res :=
  elemWord i p g [a, b] false isInt lat (fun t _ _ l => (f (tyWidth t) (in0 l) (in1 l), 0)) s

/-- A bitwise word (R269). -/
def bitWord (i : Instr) (p : Dep) (g a b : GOp) (f : Nat → Nat → Nat) (s : State) : Res :=
  elemWord i p g [a, b] false tyAny 1 (fun _ _ _ l => (f (in0 l) (in1 l), 0)) s

/-- VADD (R268). -/
def execVadd (p : Dep) (g a b : GOp) (s : State) : Res :=
  intWord (.vadd p g a b) p g a b 2 (fun w x y => (x + y) % 2 ^ w) s

/-- VSUB (R268). -/
def execVsub (p : Dep) (g a b : GOp) (s : State) : Res :=
  intWord (.vsub p g a b) p g a b 2 (fun w x y => (x + 2 ^ w - y) % 2 ^ w) s

/-- VMUL (R268). -/
def execVmul (p : Dep) (g a b : GOp) (s : State) : Res :=
  intWord (.vmul p g a b) p g a b 3 (fun w x y => x * y % 2 ^ w) s

/-- VMULH (R268). -/
def execVmulh (p : Dep) (g a b : GOp) (s : State) : Res :=
  intWord (.vmulh p g a b) p g a b 3 (fun w x y => ofInt w (sInt w x * sInt w y / (2 ^ w : Nat))) s

/-- VMIN (R268). -/
def execVmin (p : Dep) (g a b : GOp) (s : State) : Res :=
  intWord (.vmin p g a b) p g a b 2 (fun w x y => if sInt w x ≤ sInt w y then x else y) s

/-- VMAX (R268). -/
def execVmax (p : Dep) (g a b : GOp) (s : State) : Res :=
  intWord (.vmax p g a b) p g a b 2 (fun w x y => if sInt w y ≤ sInt w x then x else y) s

/-- VMINU (R268). -/
def execVminu (p : Dep) (g a b : GOp) (s : State) : Res :=
  intWord (.vminu p g a b) p g a b 2 (fun _ x y => if x ≤ y then x else y) s

/-- VMAXU (R268). -/
def execVmaxu (p : Dep) (g a b : GOp) (s : State) : Res :=
  intWord (.vmaxu p g a b) p g a b 2 (fun _ x y => if y ≤ x then x else y) s

/-- VADDS (R268). -/
def execVadds (p : Dep) (g a b : GOp) (s : State) : Res :=
  intWord (.vadds p g a b) p g a b 2 (fun w x y => ofInt w (clampS w (sInt w x + sInt w y))) s

/-- VSUBS (R268). -/
def execVsubs (p : Dep) (g a b : GOp) (s : State) : Res :=
  intWord (.vsubs p g a b) p g a b 2 (fun w x y => ofInt w (clampS w (sInt w x - sInt w y))) s

/-- VAND (R269). -/
def execVand (p : Dep) (g a b : GOp) (s : State) : Res :=
  bitWord (.vand p g a b) p g a b (fun x y => Nat.land x y) s

/-- VOR (R269). -/
def execVor (p : Dep) (g a b : GOp) (s : State) : Res :=
  bitWord (.vor p g a b) p g a b (fun x y => Nat.lor x y) s

/-- VXOR (R269). -/
def execVxor (p : Dep) (g a b : GOp) (s : State) : Res :=
  bitWord (.vxor p g a b) p g a b (fun x y => Nat.xor x y) s

/-- VSLL (R269). -/
def execVsll (p : Dep) (g a b : GOp) (s : State) : Res :=
  intWord (.vsll p g a b) p g a b 1 (fun w x k => x * 2 ^ (k % w) % 2 ^ w) s

/-- VSRL (R269). -/
def execVsrl (p : Dep) (g a b : GOp) (s : State) : Res :=
  intWord (.vsrl p g a b) p g a b 1 (fun w x k => x / 2 ^ (k % w)) s

/-- VSRA (R269). -/
def execVsra (p : Dep) (g a b : GOp) (s : State) : Res :=
  intWord (.vsra p g a b) p g a b 1 (fun w x k => ofInt w (sInt w x / (2 ^ (k % w) : Nat))) s

/-! ### Compares and masks -/

/-- Whether x < y, or x ≤ y, or x = y, for elements of a type, with its flag (R270). -/
def vCompare (eq orEq : Bool) (t : Nat) (ftz : Bool) (x y : Nat) : Bool × Fl :=
  if isFloat t then (if eq then fCmpEq t ftz x y else fCmpLt t ftz orEq x y)
  else if t = 6 then
    let a := ts8Eighths x
    let b := ts8Eighths y
    (if eq then a == b else if orEq then decide (a ≤ b) else decide (a < b), 0)
  else
    let a := sInt (tyWidth t) x
    let b := sInt (tyWidth t) y
    (if eq then a == b else if orEq then decide (a ≤ b) else decide (a < b), 0)

/-- A compare (R270): bits below n under the mask are written, the others below n keep their values, the rest are 0. -/
def cmpWord (i : Instr) (p : Dep) (d : MReg) (a b : GOp) (eq orEq : Bool) (s : State) : Res :=
  gridWord i p
    (fun c => { srcs := [a, b], keeps := false,
                masks := if maskLow (perVec c.t) c.vtMask = maskLow (perVec c.t) maskOnes then [] else [d] }) 2
    (fun c e =>
      let t := c.t
      let xs := elems t (c.src e a)
      let ys := elems t (c.src e b)
      let old := c.mask d
      let r := (List.range (perVec t)).map fun j =>
        if c.vtMask.getLsbD j then vCompare eq orEq t c.ftz (nthD xs j 0) (nthD ys j 0) else (old.getLsbD j, 0)
      .ok [.mask d (maskOf (r.map Prod.fst))] (r.foldl (fun x y => x ||| y.2) 0)) s

/-- VCMPEQ (R270). -/
def execVcmpeq (p : Dep) (m : MReg) (a b : GOp) (s : State) : Res := cmpWord (.vcmpeq p m a b) p m a b true false s
/-- VCMPLT (R270). -/
def execVcmplt (p : Dep) (m : MReg) (a b : GOp) (s : State) : Res := cmpWord (.vcmplt p m a b) p m a b false false s
/-- VCMPLE (R270). -/
def execVcmple (p : Dep) (m : MReg) (a b : GOp) (s : State) : Res := cmpWord (.vcmple p m a b) p m a b false true s

/-- A mask word (R271): n bits of vt.type, whatever vt.mask. -/
def maskWord (i : Instr) (p : Dep) (ms : List MReg) (lat : Nat) (f : Nat → Ctx → Wr) (s : State) : Res :=
  gridWord i p (fun _ => { masks := ms, useMask := false, keeps := false }) lat
    (fun c _ => .ok [f (perVec c.t) c] 0) s

/-- MAND (R271). -/
def execMand (p : Dep) (d a b : MReg) (s : State) : Res :=
  maskWord (.mand p d a b) p [a, b] 1 (fun n c => .mask d (maskLow n (c.mask a &&& c.mask b))) s
/-- MOR (R271). -/
def execMor (p : Dep) (d a b : MReg) (s : State) : Res :=
  maskWord (.mor p d a b) p [a, b] 1 (fun n c => .mask d (maskLow n (c.mask a ||| c.mask b))) s
/-- MNOT (R271). -/
def execMnot (p : Dep) (d a : MReg) (s : State) : Res :=
  maskWord (.mnot p d a) p [a] 1 (fun n c => .mask d (maskLow n (~~~(c.mask a)))) s
/-- MPOPC (R271). -/
def execMpopc (p : Dep) (d : SReg) (a : MReg) (s : State) : Res :=
  maskWord (.mpopc p d a) p [a] 2
    (fun n c => .s d (BitVec.ofNat 64 ((List.range n).filter fun j => (c.mask a).getLsbD j).length)) s

/-! ### Permutes and moves -/

/-- A word that moves raw elements of `ga` (R272 to R274): element j comes from `f n j` where that names one. -/
def moveWord (i : Instr) (p : Dep) (g a : GOp) (lat : Nat) (f : Nat → Nat → Option Nat) (s : State) : Res :=
  gridWord i p (fun _ => { srcs := [a], dst := some g }) lat
    (fun c e =>
      let t := c.t
      let n := perVec t
      let xs := elems t (c.src e a)
      let r := (List.range n).map fun j => match f n j with | some k => nthD xs k 0 | none => 0
      .ok (vecWrites t c.vtMask g (pack t r)) 0) s

/-- VPERM (R272). -/
def execVperm (p : Dep) (g a b : GOp) (s : State) : Res :=
  gridWord (.vperm p g a b) p
    (fun _ => { srcs := [a, b], dst := some g }) 2
    (fun c e =>
      let t := c.t
      let xs := elems t (c.src e a)
      let ix := elems t (c.src e b)
      let r := (List.range (perVec t)).map fun j => nthD xs (nthD ix j 0 % perVec t) 0
      .ok (vecWrites t c.vtMask g (pack t r)) 0) s

/-- VPERM2 (R272): the table is ga, then next(ga); neither pops. -/
def execVperm2 (p : Dep) (g : GOp) (a : PairOp) (b : GOp) (s : State) : Res :=
  gridWord (.vperm2 p g a b) p
    (fun _ => { srcs := [b], fixedSrcs := [pairLo a, gNext (pairLo a)], dst := some g }) 2
    (fun c e =>
      let t := c.t
      let xs := elems t (c.readOp (pairLo a) ++ c.readOp (gNext (pairLo a)))
      let ix := elems t (c.src e b)
      let r := (List.range (perVec t)).map fun j => nthD xs (nthD ix j 0 % (2 * perVec t)) 0
      .ok (vecWrites t c.vtMask g (pack t r)) 0) s

/-- Where element j comes from under a pattern (R273). -/
def shufFrom (k : Shuf) (n j : Nat) : Nat :=
  match k with
  | .reverse => n - 1 - j
  | .swap => if j % 2 = 0 then j + 1 else j - 1
  | .zip => if j % 2 = 0 then j / 2 else n / 2 + (j - 1) / 2
  | .unzip => if j < n / 2 then 2 * j else 2 * (j - n / 2) + 1
  | .broadcast => 0

/-- VSHUF (R273). -/
def execVshuf (p : Dep) (g a : GOp) (k : Shuf) (s : State) : Res :=
  moveWord (.vshuf p g a k) p g a 2 (fun n j => some (shufFrom k n j)) s

/-- VSLIDE (R274): zeros come in where no element stands. -/
def execVslide (p : Dep) (g a : GOp) (k : BitVec 6) (s : State) : Res :=
  moveWord (.vslide p g a k) p g a 2 (fun n j =>
    let x := (j : Int) - k.toInt
    if 0 ≤ x ∧ x < n then some x.toNat else none) s

/-- VMOV (R274). -/
def execVmov (p : Dep) (g a : GOp) (s : State) : Res := moveWord (.vmov p g a) p g a 1 (fun _ j => some j) s

/-! ### Scalar exchange -/

/-- VSPLAT (R275). -/
def execVsplat (p : Dep) (g : GOp) (a : SReg) (s : State) : Res :=
  gridWord (.vsplat p g a) p (fun _ => { dst := some g }) 1
    (fun c e =>
      let t := c.t
      .ok (vecWrites t c.vtMask g (pack t (List.replicate (perVec t) (e.x.toNat % 2 ^ tyWidth t)))) 0) s

/-- VEXT (R275): the element lands in a scalar register after a variable latency. -/
def execVext (p : Dep) (g : GOp) (d b : SReg) (s : State) : Res :=
  let t := s.delay
  gridWord (.vext p g d b) p
    (fun _ => { srcs := [g], useMask := false, keeps := false }) (6 + t.1)
    (fun c e =>
      let t := c.t
      if perVec t ≤ e.x.toNat then .bad 4
      else
        let v := nthD (elems t (c.src e g)) e.x.toNat 0
        .ok [.s d (if isInt t then BitVec.ofInt 64 (sInt (tyWidth t) v) else BitVec.ofNat 64 v)] 0)
    (if s.turn = .start .v then t.2 else s)

/-- VINS (R275): one element; the word reads its destination, so a bound row there is refused. -/
def execVins (p : Dep) (g : GOp) (a b : SReg) (s : State) : Res :=
  gridWord (.vins p g a b) p
    (fun _ => { dst := some g, addend := true, useMask := false, keeps := false }) 2
    (fun c e =>
      let t := c.t
      let k := e.y.toNat
      if perVec t ≤ k then .bad 4
      else
        .ok (vecWrites t (BitVec.ofNat 256 (2 ^ k)) g
          (pack t (List.replicate (perVec t) (e.x.toNat % 2 ^ tyWidth t)))) 0) s

/-! ### Conversions -/

/-- One element converted, with ftz on float inputs and outputs (R276). -/
def vcvtElem (s t : Nat) (m : Rnd) (ftz : Bool) (x : Nat) : Nat × Fl := ftzOut ftz t (cvt (isInt s) t m (fIn ftz s x))

/-- VCVT (R276): equal widths, under vt.mask. -/
def execVcvt (p : Dep) (g a : GOp) (ty : BitVec 4) (s : State) : Res :=
  gridWord (.vcvt p g a ty) p (fun _ => { srcs := [a], dst := some g }) 3
    (fun c e =>
      let t := c.t
      if 12 ≤ ty.toNat ∨ tyWidth ty.toNat ≠ tyWidth t then .bad 4
      else
        let xs := elems t (c.src e a)
        let r := (List.range (perVec t)).map fun j =>
          if c.vtMask.getLsbD j then vcvtElem ty.toNat t c.m c.ftz (nthD xs j 0) else (0, 0)
        .ok (vecWrites t c.vtMask g (pack t (r.map Prod.fst))) (r.foldl (fun x y => x ||| y.2) 0)) s

/-- VPACK (R276): several wider operands into one, whatever the mask; no stream row. -/
def execVpack (p : Dep) (g a : GOp) (ty : BitVec 4) (s : State) : Res :=
  gridWord (.vpack p g a ty) p
    (fun c => { fixedSrcs := run a (tyWidth ty.toNat / tyWidth c.t), fixedDsts := [g], useMask := false,
                keeps := false }) 3
    (fun c _ =>
      let t := c.t
      let r := tyWidth ty.toNat / tyWidth t
      if 12 ≤ ty.toNat ∨ tyWidth ty.toNat ≤ tyWidth t ∨ 16 < gIdx a + r then .bad 4
      else
        let xs := (run a r).flatMap fun o => elems ty.toNat (c.readOp o)
        let ys := xs.map (vcvtElem ty.toNat t c.m c.ftz)
        .ok (rawWrites g (pack t (ys.map Prod.fst))) (ys.foldl (fun x y => x ||| y.2) 0)) s

/-- VWIDEN (R276): one narrow operand into several wider ones, whatever the mask; no stream row. S does not know the vt of
its start: from the forwarding on the operands of the widest type are pending, from the start on those it writes (log
entry 42). -/
def execVwiden (p : Dep) (g a : GOp) (ty : BitVec 4) (s : State) : Res :=
  gridWord (.vwiden p g a ty) p
    (fun c => { fixedSrcs := [a], fixedDsts := run g (widenRows c.t ty), useMask := false, keeps := false }) 3
    (fun c _ =>
      let t := c.t
      let r := tyWidth t / tyWidth ty.toNat
      if 12 ≤ ty.toNat ∨ tyWidth t ≤ tyWidth ty.toNat ∨ 16 < gIdx g + r then .bad 4
      else
        let xs := elems ty.toNat (c.readOp a)
        let ys := xs.map (vcvtElem ty.toNat t c.m c.ftz)
        .ok ((run g r).mapIdx fun k o => rawWrites o (pack t (((ys.map Prod.fst).drop (k * perVec t)).take (perVec t)))).flatten
          (ys.foldl (fun x y => x ||| y.2) 0)) s

/-! ### Reductions -/

/-- One level of the fixed tree (R277). -/
def redLevel (f : Nat → Nat → Nat × Fl) : List (Option Nat) → List (Option Nat) × Fl
  | a :: b :: r =>
    let x := match a, b with
      | none, y => (y, 0)
      | x, none => (x, 0)
      | some x, some y => let z := f x y; (some z.1, z.2)
    let t := redLevel f r
    (x.1 :: t.1, x.2 ||| t.2)
  | l => (l, 0)

/-- The tree over a list whose length is a power of two (R277). -/
def redTree (f : Nat → Nat → Nat × Fl) : Nat → List (Option Nat) → Option Nat × Fl
  | 0, l => (l.headD none, 0)
  | n + 1, l =>
    let x := redLevel f l
    let y := redTree f n x.1
    (y.1, x.2 ||| y.2)

/-- The only element of a reduction, which no step of the tree computes with: a NaN still becomes canonical, a signalling one
sets nv, and ftz replaces a subnormal (R160, R165; log entry 86). -/
def redLone (t : Nat) (ftz : Bool) (b : Nat) : Nat × Fl :=
  if isFloat t then
    match decFloat t b with
    | .nan sig => (canonNaN t, flIf sig fNv)
    | _ => (ftzIn ftz t b, 0)
  else (b, 0)

/-- A reduction (R277): the result in element 0, every other element 0, whatever the mask. -/
def redWord (i : Instr) (p : Dep) (g a : GOp) (lat : Nat) (f : Nat → Rnd → Bool → Nat → Nat → Nat × Fl) (s : State) : Res :=
  gridWord i p
    (fun _ => { srcs := [a], dst := some g, types := tyVrd, keeps := false, whole := true }) lat
    (fun c e =>
      let t := c.t
      let n := perVec t
      let xs := elems t (c.src e a)
      let r : Nat × Fl := match (List.range n).filter fun j => c.vtMask.getLsbD j with
        | [j] => redLone t c.ftz (nthD xs j 0)
        | _ =>
          let z := redTree (f t c.m c.ftz) n.log2 ((List.range n).map fun j =>
            if c.vtMask.getLsbD j then some (nthD xs j 0) else none)
          (z.1.getD 0, z.2)
      .ok (rawWrites g (pack t (r.1 :: List.replicate (n - 1) 0))) r.2) s

/-- VREDSUM (R277). -/
def execVredsum (p : Dep) (g a : GOp) (s : State) : Res :=
  redWord (.vredsum p g a) p g a 8 (fun t m z x y =>
    if isFloat t then fAdd t m z x y else ((x + y) % 2 ^ tyWidth t, 0)) s

/-- VREDMAX (R277). -/
def execVredmax (p : Dep) (g a : GOp) (s : State) : Res :=
  redWord (.vredmax p g a) p g a 5 (fun t _ z x y =>
    if isFloat t then fMinMax t z true x y else (if sInt (tyWidth t) y ≤ sInt (tyWidth t) x then x else y, 0)) s

/-- VREDMIN (R277). -/
def execVredmin (p : Dep) (g a : GOp) (s : State) : Res :=
  redWord (.vredmin p g a) p g a 5 (fun t _ z x y =>
    if isFloat t then fMinMax t z false x y else (if sInt (tyWidth t) x ≤ sInt (tyWidth t) y then x else y, 0)) s

end Sys2Proof.Machine
end

