-- ==== Sys2Proof/Machine/GridMem.lean ====
section
/-! DEFINITION. The grid memory words (R253 to R256, R149), the spill words of the grid (R235, R236) and the slice words
(R288 to R291). -/

namespace Sys2Proof.Machine

/-- V has made the checks that S waits for (R241): the context is ready again. -/
def Ctx.vChecked (c : Ctx) (now id : Nat) : Ctx :=
  if c.waitNow = .vstart id then ({ c with readyAt := now } : Ctx).setWait .none else c

/-- What a memory word answers at its start: its trap, or the state with its access on the way. -/
inductive MemOut where
  | trap (s : State) (t : Trap)
  | ok (s : State)
  /-- A walk waits for a sector (R361): the word starts again in a later cycle. -/
  | again (s : State)

/-- The word that has started at V goes back to the head of its queue, its tokens returned. -/
def Ctx.requeue (c : Ctx) (e : QEntry) : Ctx :=
  let c1 := c.unstart .v e.p
  { c1 with vq := e :: c1.vq }

/-- A memory word at its start at V: conditions 4 to 7 of R31, then its own checks and access. -/
def memStart (i : Instr) (spec : Ctx → VSpec) (go : State → QEntry → MemOut) (s : State) : Res :=
  match s.ctx.active with
  | none => .fault .noActiveEntry
  | some e =>
    let sp := spec s.ctx
    match sp.bad s.ctx e with
    | some z => .next (s.startTrap s.key .v e (wordTrap z i))
    | none =>
      match s.ctx.early e.id (sp.reads s.ctx e) with
      | some d => .next (s.startTrap s.key .v e (earlyTrap d))
      | none =>
        match go s e with
        | .trap s1 t => .next (s1.startTrap s1.key .v e t)
        | .ok s1 => .next (s1.vDone (s1.ctx.vChecked s1.now e.id))
        | .again s1 => .next { s1.withCtx (s1.ctx.requeue e) with turn := .sched }

/-- A grid load leaves V (R253): it takes effect at its landing. -/
def State.vLoad (s : State) (e : QEntry) (act : Act) (accs : List Acc) (holdV : Bool) : State :=
  let t := s.delay
  let s1 := t.2
  s1.withCtx { s1.ctx with pend := s1.ctx.pend.map fun p => if p.id == e.id then
    { p with due := some (s1.now + 1 + t.1), act := act, accs := accs, holdV := holdV, acq := holdV,
             dsts := p.dsts.filter (· != .fpsr) ++ (if act.mayFlag then [.fpsr] else []) } else p }

/-- A grid store leaves V: its values were read now; the flags of a converting store, which has no register result, land in
the next cycle (log entry 78). -/
def State.vStore (s : State) (e : QEntry) (parts : List StPart) (fl : Fl) : State :=
  let t := s.delay
  let s1 := t.2
  let st : PStore := { id := e.id, st := .v, pc := e.pc, word := e.word, x := 0, due := some (s1.now + 1 + t.1),
                       parts := parts, kind := .plain, push := pushesOf .v e.p, rel := false, late := false, anew := false }
  let c := s1.ctx.dropPend e.id
  let fp := { Pend.mk0 e.id .v e.pc with due := some (s1.now + 1), fixed := true, dsts := [.fpsr], flags := fl }
  s1.withCtx { c with stores := c.stores ++ [st], pend := if fl = 0 then c.pend else c.pend ++ [fp] }

/-! ### VLD and VST -/

/-- What a VLD or VST has at its start (R253, R149): raw cells at checked accesses, or a bank's elements under a format. -/
inductive VmForm where
  | trap (t : Trap)
  | raw (accs : List Acc)
  | conv (bank fmt off : Nat) (accs : List Acc)

/-- The checks that V makes of an access in the own scratchpad (R241, R149). -/
def State.ownForm (s : State) (va : Word) (off : Nat) : VmForm :=
  let bank := off / 0x8000
  let o := off % 0x8000
  let fmt := (s.fmtReg s.core bank).toNat
  if bitsOf fmt 0 4 = 15 then
    if 2 ^ 57 ≤ va.toNat + 127 then .trap ⟨8, va, 0⟩
    else if 0x80000 < off + 128 then .trap ⟨9, va, 0⟩
    else if va.toNat % 16 ≠ 0 then .trap ⟨10, va, 0⟩
    else .raw (ownPieces s.core off 16)
  else
    let wb := tyWidth (bitsOf fmt 0 4)
    let n := perVec s.ctx.t
    if o * 8 % wb ≠ 0 ∨ 0x8000 < o + n * wb / 8 then .trap ⟨10, va, 0⟩
    else .conv bank fmt o (ownPieces s.core off (n * wb / 64) ++ scaleAccs s.core fmt (o * 8 / wb) n)

/-- The form of a started VLD or VST: accesses from its forwarding, or the own scratchpad's. -/
def State.vmForm (s : State) (e : QEntry) (va : Word) : VmForm :=
  match e.accs with
  | [] =>
    match placeOf s.core va.toNat with
    | .spad _ off => s.ownForm va off
    | _ => .trap ⟨9, va, 0⟩
  | as => .raw as

/-- The checks that S makes of a VLD or VST outside the own scratchpad (R241). -/
def State.vmCheck (s : State) (va : Word) (want : Want) (fe : Bool) (k : List Acc → Body) : Body :=
  match precheck s.core va 128 16 (if fe then .spadOnly else .spad) 0 with
  | some t => .trap t
  | none => s.transfer va 1024 want k

/-- Forwarding of a VLD or VST (R241): the own scratchpad is left to V, every other range is checked now. -/
def vmForward (i : Instr) (p : Dep) (imm : BitVec 9) (want : Want) (fe : Bool) (s : State) : Body :=
  let fw := fwdOf i
  let va := s.ea fw.x 128 imm
  match ownOff s.core va with
  | some _ => forwardChk i p { fw with hold := true } true (fun _ k => k []) s
  | none => forwardChk i p fw true (fun s k => s.vmCheck va want fe k) s

/-- The address of a VLD or VST from its entry. -/
def vmAddr (e : QEntry) (imm : BitVec 9) : Word := e.x + imm.signExtend 64 * 128

/-- What a grid load's mask leaves of its cells: numbers and bit masks, with their accesses. -/
def activeCells (t : Nat) (mk : BitVec 256) (g : GOp) (accs : List Acc) : List ((BitVec 8 × Word) × Acc) :=
  ((List.range 16).zip accs).filterMap fun x =>
    let cm := cellMask t mk x.1
    if cm = 0 then none else some ((cellNo g x.1, cm), x.2)

/-- A VLD (R253, R254, R149); `fe` waits for full granules, `clear` empties them. -/
def vldWord (i : Instr) (p : Dep) (g : GOp) (imm : BitVec 9) (fe clear : Bool) (s : State) : Res :=
  match s.turn with
  | .start .v =>
    memStart i (fun _ => { fixedDsts := [g], keeps := false }) (fun s e =>
      match s.vmForm e (vmAddr e imm) with
      | .trap t => .trap s t
      | .raw accs =>
        let xs := activeCells s.ctx.t s.ctx.vtMask g accs
        let cs := xs.map Prod.fst
        if fe then .ok (s.vLoad e (.fecells clear (granulesOf accs) cs) (xs.map Prod.snd) true)
        else .ok (s.vLoad e (.cells cs) (xs.map Prod.snd) false)
      | .conv bank fmt off accs =>
        let c := s.ctx
        let rnd := (c.vt.extractLsb' 7 3).toNat
        let gs := granulesOf (accs.take (perVec c.t * tyWidth (bitsOf fmt 0 4) / 64))
        if fe then .ok (s.vLoad e (.feconv clear gs s.core bank fmt off c.t rnd c.ftz (gCells g) c.vtMask) accs true)
        else .ok (s.vLoad e (.conv s.core bank fmt off c.t rnd c.ftz (gCells g) c.vtMask) accs false)) s
  | _ => fWord s (vmForward i p imm .read fe)

/-- VLD (R253). The no-allocate hint changes no outcome (R154). -/
def execVld (p : Dep) (g : GOp) (a : SReg) (n : Bool) (i : BitVec 9) (s : State) : Res :=
  vldWord (.vld p g a n i) p g i false false s
/-- VLD with q = 0b10 (R254). -/
def execVldFeKeep (p : Dep) (g : GOp) (a : SReg) (i : BitVec 9) (s : State) : Res :=
  vldWord (.vldFeKeep p g a i) p g i true false s
/-- VLD with q = 0b11 (R254). -/
def execVldFeClear (p : Dep) (g : GOp) (a : SReg) (i : BitVec 9) (s : State) : Res :=
  vldWord (.vldFeClear p g a i) p g i true true s

/-- One element of a converting VST (R149, R163): the quotient by its block's scale, rounded once. -/
def State.vstElem (s : State) (fmt i ty : Nat) (m : Rnd) (x : Nat) : Nat × Fl :=
  let enc := bitsOf fmt 0 4
  let v := decode_ ty x
  if blkSize fmt = 0 then
    let r := cvt (isInt ty) enc m v
    (r.1, r.2 ||| flIf v.isSig fNv)
  else
    let sc := s.blockScale s.core fmt (i / blkSize fmt)
    if !sc.isFin || sc.isZero then (if isFloat enc then canonNaN enc else 0, fNv)
    else
      let q := vDiv v sc
      let r := cvt false enc m q.1
      (r.1, r.2 ||| q.2)

/-- The parts of a converting VST: the unmasked elements' bits (R149). The block scale is read as the word starts in V, where no
bank lock and no earlier store of the context holds the reading: the spec does not say when it is read (log entry 111). -/
def State.vstParts (s : State) (g : GOp) (fmt off : Nat) (accs : List Acc) : List StPart × Fl :=
  let c := s.ctx
  let enc := bitsOf fmt 0 4
  let wb := tyWidth enc
  let xs := elems c.t (c.readOp g)
  let es := (List.range (perVec c.t)).map fun e =>
    if c.vtMask.getLsbD e then
      let r := s.vstElem fmt (off * 8 / wb + e) c.t c.m (nthD xs e 0)
      (2 ^ wb - 1, r.1, r.2)
    else (0, 0, (0 : Fl))
  let bits (f : Nat × Nat × Fl → Nat) : Nat := es.foldr (fun x acc => f x + acc * 2 ^ wb) 0
  let mk := bits fun x => x.1
  let vs := bits fun x => x.2.1
  ((accs.take (perVec c.t * wb / 64)).mapIdx fun j acc =>
    ⟨acc, BitVec.ofNat 64 (bitsOf mk (64 * j) 64), BitVec.ofNat 64 (bitsOf vs (64 * j) 64)⟩,
   es.foldl (fun a x => a ||| x.2.2) 0)

/-- VST (R253, R149): a source row at or above A stores zeros. -/
def execVst (p : Dep) (g : GOp) (a : SReg) (n : Bool) (i : BitVec 9) (s : State) : Res :=
  match s.turn with
  | .start .v =>
    memStart (.vst p g a n i) (fun _ => { fixedSrcs := [g], keeps := false }) (fun s e =>
      match s.vmForm e (vmAddr e i) with
      | .trap t => .trap s t
      | .raw accs =>
        let vs := s.ctx.readOp g
        .ok (s.vStore e ((accs.mapIdx fun j acc =>
          (⟨acc, cellMask s.ctx.t s.ctx.vtMask j, nthD vs j 0⟩ : StPart)).filter fun q => q.mask != 0) 0)
      | .conv _ fmt off accs =>
        let r := s.vstParts g fmt off accs
        .ok (s.vStore e (r.1.filter fun q => q.mask != 0) r.2)) s
  | _ => fWord s (vmForward (.vst p g a n i) p i .write false)

/-! ### Strided, indexed and broadcast forms -/

/-- The checks of the active cells in ascending order (R256): the first that fails names its lane; none where a walk waits. -/
def State.lanes (s : State) (want : Want) (addr : Nat → Word) :
    List Nat → List (Nat × Acc) → State × Option (Sum Trap (List (Nat × Acc)))
  | [], acc => (s, some (.inr acc.reverse))
  | j :: r, acc =>
    match s.chkV (addr j) 8 8 want .spad j with
    | (s1, .ok a) => s1.lanes want addr r ((j, a) :: acc)
    | (s1, .trap t) => (s1, some (.inl t))
    | (s1, .miss) => (s1, none)

/-- The cells of an operand in which some element is active (R255). -/
def Ctx.activeLanes (c : Ctx) : List Nat := (List.range 16).filter fun j => cellActive c.t c.vtMask j

/-- A VMEMX word (R255, R256): S holds until V has translated every active cell. -/
def vmemWord (i : Instr) (p : Dep) (spec : VSpec) (want : Want) (addr : Ctx → QEntry → Nat → Word)
    (go : State → QEntry → List (Nat × Acc) → State) (s : State) : Res :=
  match s.turn with
  | .start .v =>
    memStart i (fun _ => spec) (fun s e =>
      match s.lanes want (addr s.ctx e) s.ctx.activeLanes [] with
      | (s1, some (.inl t)) => .trap s1 t
      | (s1, some (.inr as)) => .ok (go s1 e as)
      | (s1, none) => .again s1) s
  | _ => fWord s (forwardChk i p { fwdOf i with hold := true } true (fun _ k => k []))

/-- The cells and accesses of a gather. -/
def gather (g : GOp) (s : State) (e : QEntry) (as : List (Nat × Acc)) : State :=
  s.vLoad e (.cells (as.map fun x => (cellNo g x.1, cellMask s.ctx.t s.ctx.vtMask x.1))) (as.map Prod.snd) false

/-- The parts of a scatter, ascending (R256). -/
def scatter (g : GOp) (s : State) (e : QEntry) (as : List (Nat × Acc)) : State :=
  let vs := s.ctx.readOp g
  s.vStore e (as.map fun x => ⟨x.2, cellMask s.ctx.t s.ctx.vtMask x.1, nthD vs x.1 0⟩) 0

/-- The address of cell j under a stride. -/
def strideAddr (_ : Ctx) (e : QEntry) (j : Nat) : Word := e.x + BitVec.ofNat 64 j * e.y

/-- The index operand of VLDX and VSTX: h or v (R255). -/
def ixOp (x : BitVec 5) : GOp := x.zeroExtend 6

/-- The address of cell j under an index operand. -/
def indexAddr (x : BitVec 5) (c : Ctx) (e : QEntry) (j : Nat) : Word := e.x + nthD (c.readOp (ixOp x)) j 0

/-- VLDS (R255). -/
def execVlds (p : Dep) (g : GOp) (a b : SReg) (s : State) : Res :=
  vmemWord (.vlds p g a b) p { fixedDsts := [g], keeps := false } .read
    strideAddr (gather g) s

/-- VSTS (R255). -/
def execVsts (p : Dep) (g : GOp) (a b : SReg) (s : State) : Res :=
  vmemWord (.vsts p g a b) p { fixedSrcs := [g], keeps := false } .write
    strideAddr (scatter g) s

/-- VLDX (R255). -/
def execVldx (p : Dep) (g : GOp) (a : SReg) (x : BitVec 5) (s : State) : Res :=
  vmemWord (.vldx p g a x) p
    { fixedSrcs := [ixOp x], fixedDsts := [g], keeps := false } .read (indexAddr x) (gather g) s

/-- VSTX (R255). -/
def execVstx (p : Dep) (g : GOp) (a : SReg) (x : BitVec 5) (s : State) : Res :=
  vmemWord (.vstx p g a x) p { fixedSrcs := [g, ixOp x], keeps := false } .write
    (indexAddr x) (scatter g) s

/-- VBCAST (R255): one read for every active cell. -/
def execVbcast (p : Dep) (g : GOp) (a : SReg) (s : State) : Res :=
  vmemWord (.vbcast p g a) p { fixedDsts := [g], keeps := false } .read
    (fun _ e _ => e.x)
    (fun s e as => s.vLoad e
      (.bcast (as.map fun x => (cellNo g x.1, cellMask s.ctx.t s.ctx.vtMask x.1))) ((as.map Prod.snd).take 1) false) s

/-! ### Spill words of the grid -/

/-- GSLD (R235, R236): the sixteen cells land after one cycle. -/
def execGsld (p : Dep) (n : BitVec 4) (o : BitVec 14) (s : State) : Res :=
  let g := hRow n.toNat
  match s.turn with
  | .start .v =>
    memStart (.gsld p n o) (fun _ => { fixedDsts := [g], useVt := false, useMask := false, keeps := false }) (fun s e =>
      match s.ctx.spillBad o 128 with
      | some t => .trap s t
      | none =>
        let ws := (List.range 16).map fun j => s.ctx.spill.read64 (spillOff o + 8 * j)
        .ok (s.withCtx (s.ctx.vLand e none [g] maskOnes s.now 1 (rawWrites g ws) 0))) s
  | _ => fWord s (forward (.gsld p n o) p)

/-- GSST (R235, R236, R87): its bytes are written at the end of the cycle. -/
def execGsst (p : Dep) (n : BitVec 4) (o : BitVec 14) (s : State) : Res :=
  let g := hRow n.toNat
  match s.turn with
  | .start .v =>
    memStart (.gsst p n o) (fun _ => { fixedSrcs := [g], useVt := false, useMask := false, keeps := false }) (fun s e =>
      match s.ctx.spillBad o 128 with
      | some t => .trap s t
      | none =>
        let bs := (s.ctx.readOp g).flatMap fun w => leBytes w.toNat 8
        .ok (s.withCtx (((s.ctx.dropPend e.id).spillPut e.id (spillOff o) bs).complete .v e.id (pushesOf .v e.p)))) s
  | _ => fWord s (forward (.gsst p n o) p)

/-! ### Slice words -/

/-- The types of the pair words (R279). -/
def tyPair (t : Nat) : Bool := decide (t < 2)

/-- The 16-byte slots from `a` on, in halves: a fault names its slot (R290, R382). -/
def State.slots (s : State) (a : Word) (want : Want) : Nat → List Acc → (List Acc → Body) → Body
  | 0, acc, k => k acc.reverse
  | n + 1, acc, k =>
    s.accessAt (acc.length / 2) (a + BitVec.ofNat 64 (8 * acc.length)) 8 1 want .spad fun x => s.slots a want n (x :: acc) k

/-- A slice word's forwarding (R281): the index or count, the early reads, the alignment, then the range. -/
def sliceForward (i : Instr) (p : Dep) (limit : Nat) (want : Want) (range : Word → Word → Word × Nat)
    (s : State) : Body :=
  let fw := fwdOf i
  match fw.held i true s.ctx with
  | some b => b
  | none =>
    if limit < (s.ctx.reg fw.y).toNat then .trap (wordTrap 4 i)
    else
      forwardChk i p fw true (fun s k =>
        let r := range (s.ctx.reg fw.x) (s.ctx.reg fw.y)
        if (s.ctx.reg fw.x).toNat % 16 ≠ 0 then .trap ⟨10, r.1, 0⟩ else s.slots r.1 want r.2 [] k) s

/-- SLDEP (R288): lane 0 of the pair into a slot, raw. R177 calls it two stores and R288 one atomic unit of 16 bytes: one store
of two parts that take effect in one step, counted once in sc (log entry 114). -/
def execSldep (p : Dep) (g : PairOp) (a b : SReg) (s : State) : Res :=
  match s.turn with
  | .start .v =>
    memStart (.sldep p g a b) (fun _ => { fixedSrcs := halves g, useMask := false, keeps := false, types := tyPair })
      (fun s e =>
        let lane (o : GOp) : Word := BitVec.ofNat 64 (in0 (elems s.ctx.t (s.ctx.readOp o)))
        .ok (s.vStore e ((e.accs.zip (halves g)).map fun x => ⟨x.1, BitVec.allOnes 64, lane x.2⟩) 0)) s
  | _ => fWord s (sliceForward (.sldep p g a b) p 4095 .write
      fun x y => (x + 16 * y, 2))

/-- SLMERGE (R290): the slots fold as the word lands. -/
def execSlmerge (p : Dep) (g : PairOp) (a b : SReg) (s : State) : Res :=
  match s.turn with
  | .start .v =>
    memStart (.slmerge p g a b) (fun _ => { fixedDsts := halves g, useMask := false, keeps := false, types := tyPair })
      (fun s e => .ok (s.vLoad e (.slmerge g s.ctx.t 0) e.accs false)) s
  | _ => fWord s (sliceForward (.slmerge p g a b) p 4096 .read
      fun x y => (x, 2 * y.toNat))

end Sys2Proof.Machine
end

