-- ==== Sys2Proof/Machine/Pairs.lean ====
section
/-! DEFINITION. The exact-pair and double-word words (R278 to R287, R168 to R176). -/

namespace Sys2Proof.Machine

/-- The sign bit of a float pattern inverted. -/
def flipSign (t x : Nat) : Nat := Nat.xor x (2 ^ (tyWidth t - 1))

/-- A float pattern that is a zero of either sign. -/
def isZeroBits (t x : Nat) : Bool := decide (x % 2 ^ (tyWidth t - 1) = 0)

/-- The pair of a special hi (R170): a NaN twice, or an infinity with +0. -/
def pairSpecial (t : Nat) (m : Rnd) (v : Val) (fl : Fl) : Nat × Nat × Fl :=
  match v with
  | .nan _ => (canonNaN t, canonNaN t, fl)
  | v => ((rndV t m v).1, 0, fl)

/-- The overflow flags of a rounded hi (R164, R170). -/
def overFl (fl : Fl) : Fl := flIf ((fl &&& fOf) != 0) (fOf ||| fNx)

/-- One lane of XADD (R282): hi, lo, flags. -/
def xaddLane (t : Nat) (m : Rnd) (x y : Nat) : Nat × Nat × Fl :=
  match decFloat t x, decFloat t y with
  | .fin a, .fin b =>
    let r := twosum t m a b
    (r.1, r.2.1, overFl (rndQ t m (qAdd m a b) false).2 ||| flIf (!(isZeroBits t r.2.1)) fNx)
  | u, v =>
    let r := vAdd m u v
    pairSpecial t m r.1 r.2

/-- One lane of XMUL (R282, R170). -/
def xmulLane (t : Nat) (m : Rnd) (x y : Nat) : Nat × Nat × Fl :=
  match decFloat t x, decFloat t y with
  | .fin a, .fin b =>
    let r := twoprod t m a b
    (r.1, r.2.1, overFl (rndQ t m (qMul a b) false).2 ||| flIf (!(isZeroBits t r.2.1)) fNx |||
      flIf r.2.2.2 (fXe ||| fNx))
  | u, v =>
    let r := vMul u v
    pairSpecial t m r.1 r.2

/-- One lane of XFMA (R283, R171). -/
def xfmaLane (t x y z : Nat) : Nat × Nat × Fl :=
  match decFloat t x, decFloat t y, decFloat t z with
  | .fin a, .fin b, .fin c =>
    let e := qAdd .rne (qMul a b) c
    let h := rndQ t .rne e false
    match decFloat t h.1 with
    | .fin hq =>
      let l := qAdd .rne e (qNeg hq)
      let r := rndQ t .rne l false
      let lo := if l.num = 0 then 0 else r.1
      let nx := decide (l.num ≠ 0) && (r.2 &&& fNx) != 0
      (h.1, lo, flIf (nx || !(isZeroBits t lo)) fNx ||| flIf (nx && (isSubn t lo || isZeroBits t lo)) fXe)
    | _ => (h.1, 0, fOf ||| fNx)
  | u, v, w =>
    let r := vFma .rne u v w
    pairSpecial t .rne r.1 r.2

/-- The lanes of two operands. -/
def lanes2 (t : Nat) (c : Ctx) (a b : GOp) : List (Nat × Nat) := (elems t (c.readOp a)).zip (elems t (c.readOp b))

/-- A word that writes a pair lane by lane (R279): masked-off lanes keep both halves and raise no flag. -/
def pairWord (i : Instr) (p : Dep) (g : PairOp) (srcs : List GOp) (addend : Bool) (lat : Nat)
    (f : Nat → Rnd → List Nat → Nat × Nat × Fl) (s : State) : Res :=
  gridWord i p
    (fun _ => { fixedSrcs := srcs ++ (if addend then [pairLo g] else []), fixedDsts := halves g, keeps := false,
                keepsFixed := true, types := tyPair }) lat
    (fun c _ =>
      let t := c.t
      let ins := (srcs ++ if addend then [pairLo g] else []).map fun o => elems t (c.readOp o)
      let r := (List.range (perVec t)).map fun j =>
        if c.vtMask.getLsbD j then f t c.m (ins.map fun l => nthD l j 0) else (0, 0, 0)
      .ok (vecWrites t c.vtMask (pairLo g) (pack t (r.map fun x => x.1)) ++
           vecWrites t c.vtMask (gNext (pairLo g)) (pack t (r.map fun x => x.2.1)))
        (r.foldl (fun a x => a ||| x.2.2) 0)) s

/-- XADD (R282). -/
def execXadd (p : Dep) (g : PairOp) (a b : GOp) (s : State) : Res :=
  pairWord (.xadd p g a b) p g [a, b] false 5 (fun t m l => xaddLane t m (in0 l) (in1 l)) s

/-- XSUB (R282). -/
def execXsub (p : Dep) (g : PairOp) (a b : GOp) (s : State) : Res :=
  pairWord (.xsub p g a b) p g [a, b] false 5 (fun t m l => xaddLane t m (in0 l) (flipSign t (in1 l))) s

/-- XMUL (R282). -/
def execXmul (p : Dep) (g : PairOp) (a b : GOp) (s : State) : Res :=
  pairWord (.xmul p g a b) p g [a, b] false 6 (fun t m l => xmulLane t m (in0 l) (in1 l)) s

/-- XFMA (R283): the addend is the hi half of the destination. -/
def execXfma (p : Dep) (g : PairOp) (a b : GOp) (s : State) : Res :=
  pairWord (.xfma p g a b) p g [a, b] true 6 (fun t _ l => xfmaLane t (in0 l) (in1 l) (in2 l)) s

/-- One level of the tree of R176. -/
def xredLevel (t : Nat) : List (Nat × Nat) → List (Nat × Nat) × Fl
  | a :: b :: r =>
    let z := dwadd t a.1 a.2 b.1 b.2
    let q := xredLevel t r
    ((z.1, z.2.1) :: q.1, z.2.2 ||| q.2)
  | l => (l, 0)

/-- The tree of R176, `n` levels. -/
def xredTree (t : Nat) : Nat → List (Nat × Nat) → Fl → List (Nat × Nat) × Fl
  | 0, l, fl => (l, fl)
  | n + 1, l, fl =>
    let q := xredLevel t l
    xredTree t n q.1 (fl ||| q.2)

/-- XRED (R284): lane 0 of the pair, every other lane +0. -/
def execXred (p : Dep) (g a : PairOp) (s : State) : Res :=
  gridWord (.xred p g a) p
    (fun _ => { fixedSrcs := halves a, fixedDsts := halves g, keeps := false, types := tyPair }) 20
    (fun c _ =>
      let t := c.t
      let l := (lanes2 t c (pairLo a) (gNext (pairLo a))).mapIdx fun j x => if c.vtMask.getLsbD j then x else (0, 0)
      let r := xredTree t (if t = 0 then 4 else 5) l 0
      let z := r.1.headD (0, 0)
      .ok (lane0Writes t (pairLo g) z.1 z.2) r.2) s

/-- A double-word word of two pairs (R285). -/
def dwWord (i : Instr) (p : Dep) (g a b : PairOp) (lat : Nat) (f : Nat → Nat → Nat → Nat → Nat → Nat × Nat × Fl)
    (s : State) : Res :=
  pairWord i p g (halves a ++ halves b) false lat
    (fun t _ l => f t (in0 l) (in1 l) (in2 l) (nthD l 3 0)) s

/-- DWADD (R285). -/
def execDwadd (p : Dep) (g a b : PairOp) (s : State) : Res :=
  dwWord (.dwadd p g a b) p g a b 10 dwadd s

/-- DWSUB (R285). -/
def execDwsub (p : Dep) (g a b : PairOp) (s : State) : Res :=
  dwWord (.dwsub p g a b) p g a b 10 (fun t xh xl yh yl => dwadd t xh xl (flipSign t yh) (flipSign t yl)) s

/-- DWMUL (R285). -/
def execDwmul (p : Dep) (g a b : PairOp) (s : State) : Res :=
  dwWord (.dwmul p g a b) p g a b 12 dwmul s

/-- DWNORM (R286). -/
def execDwnorm (p : Dep) (g a : PairOp) (s : State) : Res :=
  pairWord (.dwnorm p g a) p g (halves a) false 5 (fun t _ l => dwnorm t (in0 l) (in1 l)) s

/-- One lane of DWRND (R287, R175): the exact sum rounded once, subnormals kept. -/
def dwrndLane (t : Nat) (m : Rnd) (h l : Nat) : Nat × Fl :=
  let v := vAdd m (decFloat t h) (decFloat t l)
  let r := rndV t m v.1
  (r.1, r.2 ||| v.2)

/-- DWRND (R287). -/
def execDwrnd (p : Dep) (g : GOp) (a : PairOp) (s : State) : Res :=
  gridWord (.dwrnd p g a) p
    (fun _ => { fixedSrcs := halves a, fixedDsts := [g], keeps := false, keepsFixed := true, types := tyPair }) 5
    (fun c _ =>
      let t := c.t
      let r := (lanes2 t c (pairLo a) (gNext (pairLo a))).mapIdx fun j x =>
        if c.vtMask.getLsbD j then dwrndLane t c.m x.1 x.2 else (0, 0)
      .ok (vecWrites t c.vtMask g (pack t (r.map Prod.fst))) (r.foldl (fun a x => a ||| x.2) 0)) s

end Sys2Proof.Machine
end

