-- ==== Sys2Proof/Machine/Engine.lean ====
section
/-! DEFINITION. Accesses by the engines (R90, R158, R187, R310, R406 to R409): translated as they are reached, granule by
granule, in plain or keyed form; and the suspension of a command with its fault record (R192, R310, R384). -/

namespace Sys2Proof.Machine

/-- What one piece of an engine's work answers. -/
inductive Eng (β : Type) where
  | ok (v : β)
  | fault (t : Trap)
  /-- A translation was refused by the generation again (R371): the command tries again in the next cycle. -/
  | retry
deriving DecidableEq, Repr

/-- Who issued the command: the berth, whether privileged code did, and the key handle it presents (0 for none) with the
element type it takes the region to hold (15 for none, 16 where the type does not apply). -/
structure Issuer where
  k : Nat
  /-- The command. -/
  id : Nat
  priv : Bool
  handle : Nat := 0
  view : Nat := 15
deriving DecidableEq, Repr

/-- An engine's access to memory has its sector from the home, or asks for it and tries again (R363, R365). -/
def State.engOwn (s : State) (core pa n : Nat) (want : Want) : State × Eng Nat :=
  let secs := sectorsOf [⟨0, pa, n, 0, false⟩]
  if s.blocked (dieOf core) (want == .write) secs then (s.queueAsks (dieOf core) (want == .write) secs, .retry)
  else (s.ownAll (dieOf core) (want == .write) secs, .ok pa)

/-- The location of `n` bytes at `va`, within one page, for an engine (R240, R310, R371). -/
def State.engXl (s : State) (u : Issuer) (va : Word) (n : Nat) (want : Want) (win : Bool) : State × Eng Nat :=
  let core := u.k / 4
  match precheck core va n 1 (if win then .spad else .none) 0 with
  | some t => (s, .fault { t with tinfo := faultInfo want false 0 })
  | none =>
    match placeOf core va.toNat with
    | .spad c off => (s, .ok (spadLoc c off))
    | _ =>
      match s.ctxAt u.k with
      | none => (s, .retry)
      | some c =>
        let r := s.xlateGrow core c.root.toNat c.asid.toNat va.toNat want u.priv
        match r.2 with
        | .ok pa gen =>
          if r.1.genOk ⟨va, pa, n, gen, isDevice pa⟩ then r.1.engOwn core pa n want
          else
            match r.1.rewalk { c with priv := u.priv } core ⟨va, pa, n, gen, isDevice pa⟩ want with
            | (s1, some b, _) => if s1.genOk b then s1.engOwn core b.loc n want else (s1, .retry)
            | (s1, none, some t) => (s1, .fault t)
            | (s1, none, none) => (s1, .retry)
        | .fault z b => (r.1, .fault ⟨z, va, faultInfo want b 0⟩)
        | _ => (r.1, .retry)

/-- The row of a tensor layout record that covers an address (R407), and the offset within it. -/
def coverRow (base rows len : Nat) (stride : Int) (a : Nat) : Option (Nat × Nat) :=
  let d : Int := (a : Int) - base
  let r : Int := if rows = 1 ∨ stride = 0 then 0 else if 0 < stride then d / stride else -(d / -stride)
  let o := d - r * stride
  if 0 ≤ r ∧ r < rows ∧ 0 ≤ o ∧ o < len then some (r.toNat, o.toNat) else none

/-- The keys and the place in its data unit of a granule at `va` under a handle (R408): none is the access fault. -/
def State.keyAt (s : State) (u : Issuer) (asid : Nat) (va : Nat) : Option (List Byte × List Byte × Nat × Nat) :=
  let b := tensorRec u.handle
  let fmt := (s.mem.read (b + 28)).toNat
  let len := s.mem.readLE (b + 12) 4
  if (s.mem.read (b + 29)).toNat % 2 = 0 ∨ s.mem.readLE (b + 24) 4 % 2 ^ 20 ≠ asid ∨
      (fmt ≠ 15 ∧ u.view ≠ 16 ∧ fmt ≠ u.view) then none
  else
    match mget s.keys u.handle, coverRow (s.mem.readLE b 8) (s.mem.readLE (b + 8) 4) len
      (sInt 64 (s.mem.readLE (b + 16) 8)) va with
    | some ks, some (r, o) => some (ks.1, ks.2, s.mem.readLE (b + 32) 8 + r * (len / 128) + o / 128, va % 128 / 16)
    | _, _ => none

/-- The bytes of a piece of one granule as the command sees them: `n` bytes at `va`, at location `loc` (R158). -/
def State.engGet (s : State) (u : Issuer) (va loc n : Nat) : Option (List Byte) :=
  if u.handle = 0 then some (s.mem.readBytes loc n)
  else
    match s.ctxAt u.k with
    | none => none
    | some c =>
      match s.keyAt u c.asid.toNat (va / 16 * 16) with
      | none => none
      | some (dk, tk, unit, blk) =>
        let o := va % 16
        some (((xtsDecrypt dk tk unit blk (s.mem.readBytes (loc - o) 16)).drop o).take n)

/-- A granule piece read by an engine. -/
def State.engGran (s : State) (u : Issuer) (va : Word) (n : Nat) (win : Bool) : State × Eng (List Byte) :=
  match s.engXl u va n .read win with
  | (s1, .ok loc) =>
    let s2 := s1.scrubFor u.k u.id loc n
    match s2.engGet u va.toNat loc n with
    | some bs => (s2, .ok bs)
    | none => (s2, .fault ⟨12, va, faultInfo .read false 0⟩)
  | (s1, .fault t) => (s1, .fault t)
  | (s1, .retry) => (s1, .retry)

/-- `n` bytes at `va`, granule by granule (R90): `fuel` granules at most. -/
def State.engReadGo (win : Bool) (u : Issuer) : Nat → State → Word → Nat → List Byte → State × Eng (List Byte)
  | 0, s, _, _, acc => (s, .ok acc)
  | fuel + 1, s, va, n, acc =>
    if n = 0 then (s, .ok acc)
    else
      let m := Nat.min n (16 - va.toNat % 16)
      match s.engGran u va m win with
      | (s1, .ok bs) => State.engReadGo win u fuel s1 (va + BitVec.ofNat 64 m) (n - m) (acc ++ bs)
      | x => x

/-- A read by an engine. -/
def State.engRead (s : State) (u : Issuer) (va : Word) (n : Nat) (win : Bool) : State × Eng (List Byte) :=
  State.engReadGo win u (n / 16 + 2) s va n []

/-- A granule piece written by an engine; a presenting side encrypts the granule (R158, R408). -/
def State.engPut (s : State) (u : Issuer) (va : Word) (bs : List Byte) : State × Eng Nat :=
  match s.engXl u va bs.length .write true with
  | (s1, .ok loc) =>
    if u.handle = 0 then (s1.memWrite loc bs, .ok loc)
    else
      let bad : State × Eng Nat := (s1, .fault ⟨12, va, faultInfo .write false 0⟩)
      match s1.ctxAt u.k with
      | none => bad
      | some c =>
        match s1.keyAt u c.asid.toNat (va.toNat / 16 * 16) with
        | none => bad
        | some (dk, tk, unit, blk) =>
          let o := va.toNat % 16
          let old := xtsDecrypt dk tk unit blk (s1.mem.readBytes (loc - o) 16)
          let new := (old.take o ++ bs ++ old.drop (o + bs.length)).take 16
          (s1.memWrite (loc - o) (xtsEncrypt dk tk unit blk new), .ok loc)
  | x => x

/-- The asynchronous fault record of an engine's fault (R384): path, the entry's position in its station's queue, cause, address,
progress, command word. -/
def engAfr (path place : Nat) (t : Trap) (prog : Word) (word : Option Instr) (id : Nat) : Afr :=
  let wr := t.tinfo.getLsbD 0
  let grow := decide (t.cause = 11) && t.tinfo.getLsbD 1
  { w0 := BitVec.ofNat 64 (path + 16 * t.cause + (if wr then 4096 else 0) + (if grow then 8192 else 0) + 16384 * (place % 8)),
    w1 := t.tval, w2 := prog, w3 := wordBits word, held := none, entry := some id }

/-- The channel of a path code's number (R48): CP 1, MT 2, MD 3. -/
def pathCp : Nat := 1
def pathMt : Nat := 2
def pathMd : Nat := 3

/-- A signed 32-bit field as a number. -/
def sx32 (n : Nat) : Int := sInt 32 n

/-- An address with a signed byte distance added. -/
def addI (a : Word) (d : Int) : Word := a + BitVec.ofInt 64 d

end Sys2Proof.Machine
end

