-- ==== Sys2Proof/Machine/Matrix.lean ====
section
/-! DEFINITION. The matrix engines (R181 to R192, R294 to R301): setup, acceptance, the checks in the order of R183, the
seven commands, service and completion. -/

namespace Sys2Proof.Machine

/-! ### Setup values -/

/-- Setup register `r` of a command's snapshot (R18). -/
def QEntry.ms (e : QEntry) (r : Nat) : Nat := (nthD e.setup r 0).toNat

/-- M, N, K, the accumulator format, the first bank and the row offset (R295 to R297). -/
def QEntry.mM (e : QEntry) : Nat := bitsOf (e.ms 0) 0 8
def QEntry.mN (e : QEntry) : Nat := bitsOf (e.ms 0) 8 8
def QEntry.mK (e : QEntry) : Nat := bitsOf (e.ms 0) 16 13
def QEntry.mAcc (e : QEntry) : Nat := bitsOf (e.ms 1) 8 2
def QEntry.mBank (e : QEntry) : Nat := bitsOf (e.ms 4) 0 8
def QEntry.mRow (e : QEntry) : Nat := bitsOf (e.ms 4) 8 5

/-- Bytes of an accumulator element. -/
def accBytes (acc : Nat) : Nat := if acc = 1 then 8 else 4

/-- The element type of an accumulator format: FP32, FP64, INT32. -/
def accType (acc : Nat) : Nat := match acc with | 0 => 1 | 1 => 0 | _ => 8

/-- How many banks a tile spans (R181). -/
def QEntry.mBanks (e : QEntry) : Nat := (if e.mAcc = 1 then 2 else 1) * ((e.mRow + e.mM + 31) / 32)

/-- The bank of tile element (i, j), and its byte offset in the bank (R181). -/
def QEntry.tile (e : QEntry) (i j : Nat) : Nat × Nat :=
  let r := e.mRow + i
  if e.mAcc = 1 then (e.mBank + 2 * (r / 32) + j / 64, r % 32 * 512 + 8 * (j % 64))
  else (e.mBank + r / 32, r % 32 * 512 + 4 * j)

/-- The location of a bank's byte in an engine's store. -/
def accLoc (eng bank off : Nat) : Nat := accBase + eng * 2 ^ 22 + bank * 16384 + off

/-- An engine. -/
def State.engine (s : State) (e : Nat) : Engine := mgetD s.engines e Engine.reset

/-- The package with an engine changed. -/
def State.updEngine (s : State) (e : Nat) (f : Engine → Engine) : State := { s with engines := mupd s.engines e Engine.reset f }

/-- A bank is allocated (R188). -/
def Engine.has (g : Engine) (bank : Nat) : Bool := (mget g.owner bank).isSome

/-- The engine that a capability's object names. -/
def capObj (cap : Word) : Nat := wfld cap 40 12

/-! ### Checks -/

/-- A format combination of R186: A, B, accumulator. -/
def mmacFormats (a b acc : Nat) : Bool :=
  let f8 (t : Nat) : Bool := t == 4 || t == 5
  (a == 2 && b == 2 && acc == 0) || (a == 3 && b == 3 && acc == 0) || (f8 a && f8 b && acc == 0) ||
  (a == 10 && b == 10 && acc == 2) || ((f8 a || a == 10) && b == 6 && acc == 0) || (a == 10 && b == 6 && acc == 2) ||
  (f8 a && b == 11 && acc == 0) || (a == 1 && b == 1 && acc == 0) || (a == 0 && b == 0 && acc == 1)

/-- The shape, accumulator format and place are valid (R295 to R297, R300). -/
def QEntry.shapeOk (e : QEntry) : Bool :=
  decide (1 ≤ e.mM) && decide (e.mM ≤ 128) && decide (1 ≤ e.mN) && decide (e.mN ≤ 128) &&
  decide (e.mK % 32 = 0) && decide (32 ≤ e.mK) && decide (e.mK ≤ 4096) && decide (e.ms 0 / 2 ^ 29 = 0) &&
  decide (e.ms 1 / 2 ^ 15 = 0) && decide (e.mAcc ≠ 3) && decide (e.ms 4 / 2 ^ 13 = 0)

/-- The map entry of a band (R299): core, offset, arrival kind, entry, increment. -/
def QEntry.mapCore (e : QEntry) (b : Nat) : Nat := bitsOf (e.ms (8 + b)) 0 11
def QEntry.mapOff (e : QEntry) (b : Nat) : Nat := bitsOf (e.ms (8 + b)) 11 19
def QEntry.mapKind (e : QEntry) (b : Nat) : Nat := bitsOf (e.ms (8 + b)) 30 2
def QEntry.mapWent (e : QEntry) (b : Nat) : Nat := bitsOf (e.ms (8 + b)) 32 6
def QEntry.mapWinc (e : QEntry) (b : Nat) : Nat := bitsOf (e.ms (8 + b)) 38 16

/-- The bands that a drain touches (R189). -/
def QEntry.bands (e : QEntry) : Nat := (e.mM + 15) / 16

/-- The rows of a band. -/
def QEntry.bandRows (e : QEntry) (b : Nat) : Nat := Nat.min 16 (e.mM - 16 * b)

/-- The map entry of a band is valid (R299). -/
def QEntry.mapOk (e : QEntry) (b : Nat) : Bool :=
  decide (e.ms (8 + b) / 2 ^ 54 = 0) && decide (e.mapCore b < numCores) && decide (e.mapOff b % 16 = 0) &&
  decide (e.mapKind b ≠ 3) && !(decide (e.mapKind b = 2) && decide (e.mapWinc b = 0)) &&
  decide (e.mapOff b + e.bandRows b * e.mN * accBytes e.mAcc ≤ 524288)

/-- Elements per scale block of ms.fmt; 0 for none (R296). -/
def QEntry.mBlk (e : QEntry) : Nat := match bitsOf (e.ms 1) 10 2 with | 0 => 0 | 1 => 32 | 2 => 64 | _ => 128

/-- An MMAC's setup is valid (R186, R187, R295 to R298). -/
def QEntry.mmacOk (e : QEntry) : Bool :=
  let af := bitsOf (e.ms 1) 0 4
  let bf := bitsOf (e.ms 1) 4 4
  let as := wbit (nthD e.setup 1 0) 13
  let bs := wbit (nthD e.setup 1 0) 14
  let bf16 := !(wbit (nthD e.setup 1 0) 12)
  e.shapeOk && mmacFormats af bf e.mAcc &&
  decide (e.ms 2 / 2 ^ 32 = 0) && decide (e.ms 3 / 2 ^ 32 = 0) && decide (e.ms 6 / 2 ^ 12 = 0) &&
  decide (e.x.toNat % 16 = 0) && decide (e.y.toNat % 16 = 0) && decide (e.ms 3 % 16 = 0) &&
  (decide (e.mM ≤ 1) || decide (e.ms 2 % 16 = 0)) &&
  (decide (e.mBlk = 0) == !(as || bs)) && (decide (e.mBlk = 0) || decide (e.mK % e.mBlk = 0)) &&
  (!as || decide (tyWidth af ≤ 8)) && (!bs || decide (tyWidth bf ≤ 8)) &&
  (!(as && bf16) || decide ((addI e.x (sx32 (bitsOf (e.ms 5) 0 32))).toNat % 2 = 0)) &&
  (!(bs && bf16) || decide ((addI e.y (sx32 (bitsOf (e.ms 5) 32 32))).toNat % 2 = 0))

/-- The command's own setup is valid (code 5 of R183). -/
def QEntry.setupOk (e : QEntry) (i : Instr) : Bool :=
  match i with
  | .mballoc .. => decide (e.ms 7 / 2 ^ 15 = 0) && decide (bitsOf (e.ms 7) 12 3 ≤ 4)
  | .mmac .. => e.mmacOk
  | .mdrain .. => e.shapeOk && (List.range e.bands).all e.mapOk
  | .mfill .. => e.shapeOk && decide (e.ms 6 / 2 ^ 12 = 0) && decide (e.x.toNat % 16 = 0) && decide (e.y.toNat % 16 = 0)
  | _ => true

/-- The operands are in range (code 8 of R183, R300). -/
def QEntry.operandsOk (e : QEntry) (i : Instr) : Bool :=
  let countOk := decide (1 ≤ e.y.toNat) && decide (e.y.toNat ≤ 256)
  match i with
  | .mballoc .. => countOk
  | .mbfree .. => countOk && decide (e.x.toNat < 256)
  | .mzero .. => countOk && decide (e.x.toNat < 256)
  | .mdrain .. => decide (e.x.toNat < 2) && decide (e.y = 0)
  | _ => true

/-- The right that a command needs: its bit of the capability (R17). -/
def rightBit : Instr → Nat
  | .mballoc .. => 33
  | .mdrain .. => 34
  | .mbfree .. => 34
  | .mfill .. => 35
  | _ => 32

/-- The banks that a command names: the first, and one past the last (R181, R185). An FP64 tile counts both banks of each pair
as touched even where N is at most 64 (log entry 110). -/
def QEntry.span (e : QEntry) (i : Instr) : Nat × Nat :=
  match i with
  | .mballoc .. => (0, 0)
  | .mbfree .. => (e.x.toNat % 256, e.x.toNat % 256 + e.y.toNat % 512)
  | .mzero .. => (e.x.toNat % 256, e.x.toNat % 256 + e.y.toNat % 512)
  | _ => (e.mBank, e.mBank + e.mBanks)

/-- The count field of MBALLOC, MBFREE and MZERO is a count (R300). -/
def QEntry.countOk (e : QEntry) : Bool := decide (1 ≤ e.y.toNat % 512) && decide (e.y.toNat % 512 ≤ 256)

/-- The banks touched are known (R183): the setup or operand bits that fix them are valid, and they stay below 256. -/
def QEntry.spanKnown (e : QEntry) (i : Instr) : Bool :=
  decide ((e.span i).2 ≤ 256) &&
  match i with
  | .mbfree .. => e.countOk
  | .mdrain .. => decide (1 ≤ e.mM) && decide (e.mM ≤ 128) && decide (e.mAcc ≠ 3)
  | _ => true

/-- The banks of a span. -/
def spanBanks (sp : Nat × Nat) : List Nat := (List.range (sp.2 - sp.1)).map (sp.1 + ·)

/-- The lowest run of `n` free banks (R185). -/
def Engine.freeRun (g : Engine) (n : Nat) : Option Nat :=
  (List.range (257 - n)).find? fun b => (List.range n).all fun i => !(g.has (b + i))

/-- The owner check of R188. -/
def State.ownerBad (s : State) (g : Engine) (c : Ctx) (e : QEntry) (i : Instr) : Bool :=
  let own := 4096 * wfld e.cap 28 3 + wfld e.cap 16 12
  (spanBanks (e.span i)).any fun b =>
    match mget g.owner b with
    | none => false
    | some o => o != own || !((s.group own).isMember c.uid)

/-- The first check that fails, in the order of R183; 0 when none does. -/
def State.matCode (s : State) (en : Nat) (c : Ctx) (e : QEntry) (i : Instr) : Nat :=
  let g := s.engine en
  let drains : Bool := match i with | .mdrain .. => true | .mbfree .. => true | _ => false
  let needs : Bool := match i with | .mmac .. => true | .mzero .. => true | _ => false
  let alloc : Bool := match i with | .mballoc .. => true | _ => false
  if s.retiredEngines.contains en then 9
  else if wfld e.cap 52 4 ≠ 1 ∨ wbit e.cap 31 ∨ wfld e.cap 36 4 ≠ 0 ∨ wfld e.cap 56 8 ≠ 0 then 1
  else if Config.capCheck s.resets en (e.cap.extractLsb' 16 48) ≠ e.cap.extractLsb' 0 16 then 2
  else if !(wbit e.cap (rightBit i)) then 3
  else if drains && e.spanKnown i && s.ownerBad g c e i then 4
  else if !(e.setupOk i) then 5
  else if 256 < (e.span i).2 ∨ (needs && (spanBanks (e.span i)).any fun b => !(g.has b)) then 6
  else if alloc && e.countOk && (g.freeRun (e.y.toNat % 512)).isNone then 7
  else if !(e.operandsOk i) then 8
  else 0

/-! ### Port status -/

/-- A refusal in the port status (R184). -/
def portRefuse (v : Word) (code : Nat) : Word :=
  let n := Nat.min (wfld v 16 16 + 1) 65535
  BitVec.ofNat 64 (wfld v 0 1 + 2 + 4 * wfld v 2 6 + 256 * (code % 256) + 65536 * n)

/-! ### Completion -/

/-- A command completes (R185, R301): its result, if any, lands, tc falls, its tokens are pushed. -/
def Ctx.matDone (c : Ctx) (now id : Nat) (wr : List Wr) : Ctx :=
  match c.pendOf id with
  | none => c
  | some p => c.landVals { p with due := some now, ctr := some .tc, act := .vals, wr := wr }

/-- The result of a command in sa. -/
def QEntry.landSa (e : QEntry) (v : Word) : List Wr :=
  match e.word with
  | some (.mballoc _ a _ _) => [.s a v]
  | some (.mstat _ a) => [.s a v]
  | _ => []

/-- The port status changes with word `id`, in the state at trap entry too (R329). -/
def Ctx.setPort (c : Ctx) (id : Nat) (f : Word → Word) : Ctx :=
  ({ c with mport := f c.mport } : Ctx).older id fun e => { e with mport := f e.mport }

/-- A refused command (R183): it completes at once, an MBALLOC returns all ones, the code is posted. -/
def Ctx.matRefuse (c : Ctx) (now : Nat) (e : QEntry) (code : Nat) : Ctx :=
  let c1 := c.matDone now e.id (e.landSa (BitVec.allOnes 64))
  c1.setPort e.id (portRefuse · code)

/-! ### Acceptance and service -/

/-- The commands of a list that stand at an engine. -/
def countAt (en : Nat) (l : List QEntry) : Nat := (l.filter fun e => capObj e.cap == en).length

/-- The accepted commands of a context at an engine. -/
def Ctx.minAt (c : Ctx) (en : Nat) : Nat := countAt en c.min

/-- The same with the one that has started at M and that the port hands over (R182). -/
def Ctx.portAt (c : Ctx) (en : Nat) : Nat := c.minAt en + countAt en c.mact.toList

/-- The commands that an engine has accepted and not completed, those of swapped-out contexts among them (R182, R386): a context
that still has its berth counts once. -/
def State.allAt (s : State) (en : Nat) : Nat :=
  ((s.liveKeys.filterMap s.ctxAt).map fun (c : Ctx) => c.portAt en).foldl (· + ·) 0 +
  ((s.saved.filter fun x => (s.berthOf x.2.uid).isNone).map fun x =>
    countAt en x.2.atE + countAt en x.2.atM.toList).foldl (· + ·) 0

/-- The port refuses the capability itself: it names no engine (R182). -/
def portBad (cap : Word) : Bool := decide (wfld cap 52 4 ≠ 1) || decide (160 ≤ capObj cap)

/-- The engine has room for a command of the context: 4 of one, 128 in all (R182). -/
def State.portRoom (s : State) (c : Ctx) (e : QEntry) : Bool :=
  portBad e.cap || (decide (c.portAt (capObj e.cap) < 4) && decide (s.allAt (capObj e.cap) < 128))

/-- MATRIX_COMMAND_ACCEPT (R182): the port refuses a capability that names no engine; the engine accepts any other, for M has
started the entry only with room for it. -/
def State.matAccept (s : State) (k : Nat) : State :=
  match s.ctxAt k with
  | none => s
  | some c =>
    match c.mact with
    | none => s
    | some e =>
      if portBad e.cap then s.putCtx k ({ c with mact := none }.matRefuse s.now e 1)
      else
        (s.putCtx k { c with mact := none, min := c.min ++ [e] }).updEngine (capObj e.cap) fun g =>
          if g.rot.contains c.uid then g else { g with rot := g.rot ++ [c.uid] }

/-- A command that is never suspended: an accepted one completes before a save (R192, R313). -/
def QEntry.whole (e : QEntry) : Bool :=
  match e.word with
  | some (.mballoc ..) => true
  | some (.mbfree ..) => true
  | some (.mzero ..) => true
  | _ => false

/-- The first accepted command of a context at an engine (R191). -/
def Ctx.headAt (c : Ctx) (en : Nat) : Option QEntry := c.min.find? fun e => capObj e.cap == en

/-- Such a command stands first at its engine: a save waits for it. -/
def Ctx.mustFinish (c : Ctx) : Bool :=
  c.min.any fun e => e.whole && (c.headAt (capObj e.cap)).any fun x => x.id == e.id

/-- The path of a matrix command's accesses (R89): MT, MD, or none. -/
def QEntry.matPath (e : QEntry) : Nat :=
  match e.word with
  | some (.mmac ..) => 1
  | some (.mfill ..) => 1
  | some (.mdrain ..) => 2
  | _ => 0

/-- An earlier command of the context, at another engine, has accesses on the same path: the whole of it comes first (R101, log
entry 100). -/
def Ctx.pathHeld (c : Ctx) (e : QEntry) : Bool :=
  e.matPath != 0 && (c.min.takeWhile fun x => x.id != e.id).any fun x => x.matPath == e.matPath

/-- The scratchpad banks that a drain writes, by band (R105). -/
def QEntry.drainBanks (e : QEntry) : List (Nat × Nat) :=
  match e.word with
  | some (.mdrain ..) => banksOf ((List.range e.bands).map fun b =>
      ⟨0, spadLoc (e.mapCore b) (e.mapOff b), e.bandRows b * e.mN * accBytes e.mAcc, 0, false⟩)
  | _ => []

/-- The first command of berth `k` at engine `en`, where the engine can serve it (R182, R191); a drain waits for locked banks
of its own core (R105). -/
def State.matHead (s : State) (en k : Nat) : Option QEntry :=
  match s.ctxAt k with
  | none => none
  | some c =>
    match c.headAt en with
    | some e =>
      if !e.susp ∧ !(c.pathHeld e) ∧ (!(c.stopped e.id) || (e.whole && !c.saved)) ∧
          !(s.banksLocked (drainHolder c.uid) (e.drainBanks.filter fun b => b.1 == k / 4)) then some e
      else none
    | none => none

/-- The next issuer in rotation with a command to serve (R191). -/
def State.matPick (s : State) (en : Nat) : Option (Nat × QEntry) :=
  (s.engine en).rot.findSome? fun u => (s.berthOf u).bind fun k => (s.matHead en k).map (k, ·)

/-- An issuer has had its turn (R191): it comes after those that joined meanwhile, or leaves the rotation with no accepted command
left. -/
def Engine.rotate (g : Engine) (en : Nat) (c : Ctx) : Engine :=
  { g with rot := g.rot.filter (· != c.uid) ++ if c.minAt en = 0 then [] else [c.uid] }

/-- An accepted command leaves its engine. -/
def Ctx.leaveMin (c : Ctx) (id : Nat) : Ctx := { c with min := c.min.filter fun x => x.id != id }

/-- MATRIX_COMMAND_START (R183, R191): the next issuer's head command is checked; refused at once, or put in service, a drain
with its banks locked (R105). -/
def State.matStart (s : State) (en : Nat) : State :=
  match s.matPick en with
  | none => s
  | some (k, e) =>
    match s.ctxAt k, e.word with
    | some c, some i =>
      let code := if e.begun then 0 else s.matCode en c e i
      if code ≠ 0 then
        let c1 := (c.leaveMin e.id).matRefuse s.now e code
        (s.putCtx k c1).updEngine en fun g => g.rotate en c1
      else
        let s2 := (s.unlockBanks (drainHolder c.uid)).lockBanks (drainHolder c.uid) e.drainBanks
        { s2.updEngine en fun g => { g with serving := some k, ran := false } with turn := .engine en }
    | _, _ => s

/-- The command in service at an engine: its berth, context and entry. -/
def State.served (s : State) (en : Nat) : Option (Nat × Ctx × QEntry) :=
  match (s.engine en).serving with
  | none => none
  | some k =>
    match s.ctxAt k with
    | none => none
    | some c => (c.headAt en).map fun e => (k, c, e)

/-- How a command in service comes out of a chunk or row: its whole effect is made, with its result; it goes on from a progress
point; a fault suspends it at one; a translation was refused again (R371) and it tries again. -/
inductive MatOut where
  | done (s : State) (wr : List Wr)
  | more (s : State) (prog : Nat)
  | susp (s : State) (t : Trap) (prog : Nat)
  | retry (s : State) (prog : Nat)

/-- An accepted command of a context changed. -/
def Ctx.setMin (c : Ctx) (id : Nat) (f : QEntry → QEntry) : Ctx :=
  { c with min := c.min.map fun x => if x.id == id then f x else x }

/-- The command in service stands at a progress point (R384). -/
def QEntry.at_prog (e : QEntry) (susp : Bool) (n : Nat) : QEntry :=
  { e with susp := susp, begun := true, prog := BitVec.ofNat 64 n }

/-- The engine serves berth `k`'s command no longer, and its issuer has had its turn (R191). -/
def State.endTurn (s : State) (en k : Nat) : State :=
  s.updEngine en fun g => { (match s.ctxAt k with | some c => g.rotate en c | none => g) with serving := none, ran := false }

/-- The path of a matrix command's fault record (R48, R89, R384). -/
def matAfrPath (e : QEntry) : Nat := match e.word with | some (.mdrain ..) => pathMd | _ => pathMt

/-- The place of command `id` in M's queue (R384). -/
def Ctx.mPlace (c : Ctx) (id : Nat) : Nat := c.mEntries.findIdx fun x => x.id == id

/-- A command in service has run a chunk or row (R185, R192): it completes later, goes on, or is suspended with a fault record
and leaves the engine. Until one of these the engine serves no other (R191). -/
def matRan (en k : Nat) (e : QEntry) (o : MatOut) : State :=
  match o with
  | .done s wr =>
    let t := s.delay
    let s1 := t.2.updEngine en fun g => { g with ran := true, doneAt := s.now + 1 + t.1 }
    { s1.updCtx k fun c => { c with pend := c.pend.map fun p => if p.id == e.id then { p with wr := wr } else p } with
      turn := .sched }
  | .more s n =>
    let t := s.delay
    { (t.2.updCtx k fun c => c.setMin e.id (·.at_prog false n)).updEngine en fun g => { g with doneAt := s.now + 1 + t.1 } with
      turn := .sched }
  | .susp s t n =>
    let s1 := s.updCtx k fun c =>
      (c.setMin e.id (·.at_prog true n)).postAfr (engAfr (matAfrPath e) (c.mPlace e.id) t (BitVec.ofNat 64 n) e.word e.id)
    { s1.endTurn en k with turn := .sched }
  | .retry s n =>
    { (s.updCtx k fun c => c.setMin e.id (·.at_prog false n)).updEngine en fun g => { g with doneAt := s.now + 1 } with
      turn := .sched }

/-- MATRIX_COMMAND_COMPLETE (R185, R191): the command leaves the engine, its locks end. -/
def State.matComplete (s : State) (en : Nat) : State :=
  match s.served en with
  | none => s.updEngine en fun g => { g with serving := none, ran := false }
  | some (k, c, e) =>
    let wr := ((c.pendOf e.id).map Pend.wr).getD []
    let c1 := (c.leaveMin e.id).matDone s.now e.id wr
    let s1 := if e.drainBanks.isEmpty then s else s.unlockBanks (drainHolder c.uid)
    (s1.putCtx k c1).updEngine en fun g => { g.rotate en c1 with serving := none, ran := false }

/-- A halt takes the running command of berth `k` off its engine (R192, R313): one whose effect is whole completes, another is
suspended at the progress that it has made, without a record. -/
def State.matHalt (s : State) (en k : Nat) : State :=
  if (s.engine en).serving ≠ some k then s
  else if (s.engine en).ran then s.matComplete en
  else
    let stop (c : Ctx) : Ctx := match c.headAt en with
      | some x => c.setMin x.id fun e => { e with begun := true }
      | none => c
    (s.updCtx k stop).endTurn en k

/-- A halt suspends the accepted commands of its context, running or waiting their turn, but for those that are never suspended
(R192, R313). -/
def Ctx.suspendMin (c : Ctx) : Ctx := { c with min := c.min.map fun e => if e.whole then e else { e with susp := true } }

/-! ### The commands -/

/-- A matrix command: forwarded by S with its capability (R293), or performed at its engine. -/
def matWord (i : Instr) (p : Dep) (cap : BitVec 3)
    (eff : State → Nat → Issuer → QEntry → MatOut) (s : State) : Res :=
  match s.turn with
  | .engine en =>
    match s.served en with
    | none => .fault .noCommand
    | some (k, _, e) => .next (matRan en k e (eff s en { k := k, id := e.id, priv := e.priv } e))
  | _ =>
    fWord s fun s =>
      match forward i p s with
      | .done s1 pc =>
        let q := match s1.ctx.mq.reverse with
          | e :: r => ({ e with cap := s.ctx.capReg cap } :: r).reverse
          | [] => []
        .done (s1.withCtx { s1.ctx with mq := q }) pc
      | x => x

/-- MSET (R294): the register takes its value as S forwards the word; the entry completes when it starts. -/
def setupWord (i : Instr) (p : Dep) (st : Station) (a b : SReg) (f : Ctx → Word → Ctx) (s : State) : Res :=
  match s.turn with
  | .start _ =>
    match (if st = .m then s.ctx.mact else s.ctx.cact) with
    | none => .fault .noCommand
    | some e =>
      let c := if st = .m then { s.ctx with mact := none } else { s.ctx with cact := none }
      .next { s.withCtx ((c.dropPend e.id).complete st e.id (pushesOf st e.p)) with turn := .sched }
  | _ =>
    let v := (s.ctx.reg b).extractLsb' 0 32 ++ (s.ctx.reg a).extractLsb' 0 32
    fWord s fun s =>
      match forward i p s with
      | .done s1 pc => .done (s1.withCtx (f s1.ctx v)) pc
      | x => x

/-- MSET (R294). -/
def execMset (p : Dep) (a b : SReg) (r : BitVec 4) (s : State) : Res :=
  setupWord (.mset p a b r) p .m a b
    (fun c v => { c with ms := c.ms.set r.toNat v (by have := r.isLt; omega) }) s

/-- MBALLOC (R185, R188). -/
def execMballoc (p : Dep) (a b : SReg) (c : BitVec 3) (s : State) : Res :=
  matWord (.mballoc p a b c) p c (fun s en _ e =>
    let n := e.y.toNat
    match (s.engine en).freeRun n with
    | none => .done s (e.landSa (BitVec.allOnes 64))
    | some b0 =>
      let own := 4096 * bitsOf (e.ms 7) 12 3 + bitsOf (e.ms 7) 0 12
      .done (s.updEngine en fun g => { g with owner := (List.range n).foldl (fun m i => mput m (b0 + i) own) g.owner })
        (e.landSa (BitVec.ofNat 64 b0))) s

/-- MBFREE (R185): the contents stay. -/
def execMbfree (p : Dep) (a b : SReg) (c : BitVec 3) (s : State) : Res :=
  matWord (.mbfree p a b c) p c (fun s en _ e =>
    .done (s.updEngine en fun g => { g with owner := (spanBanks (e.x.toNat, e.x.toNat + e.y.toNat)).foldl mdel g.owner }) []) s

/-- MZERO (R185). -/
def execMzero (p : Dep) (a b : SReg) (c : BitVec 3) (s : State) : Res :=
  matWord (.mzero p a b c) p c (fun s en _ e =>
    .done ((spanBanks (e.x.toNat, e.x.toNat + e.y.toNat)).foldl (fun s b =>
      s.memWrite (accLoc en b 0) (List.replicate 16384 0)) s) []) s

/-! #### MMAC -/

/-- The elements of packed bytes (R187). -/
def unpack (t n : Nat) (bs : List Byte) : List Nat :=
  let v := leNat bs
  (List.range n).map fun i => bitsOf v (i * tyWidth t) (tyWidth t)

/-- Reads of several rows, each at its address; the first fault ends them. -/
def State.rowsRead (u : Issuer) (n : Nat) : State → List Word → List (List Byte) → State × Eng (List (List Byte))
  | s, [], acc => (s, .ok acc.reverse)
  | s, a :: r, acc =>
    match s.engRead u a n false with
    | (s1, .ok bs) => State.rowsRead u n s1 r (bs :: acc)
    | (s1, .fault t) => (s1, .fault t)
    | (s1, .retry) => (s1, .retry)

/-- A scale read from its bytes (R163, R298). -/
def scaleOf (e8 : Bool) (bs : List Byte) : Val := scaleVal e8 (leNat bs)

/-- The operands of chunk `j` (R187): A's rows and B's rows, scaled exactly. -/
def State.mmacFetch (s : State) (u : Issuer) (e : QEntry) (j : Nat) : State × Eng (List (List Val) × List (List Val)) :=
  let c := if e.mAcc = 1 then 4 else 32
  let af := bitsOf (e.ms 1) 0 4
  let bf := bitsOf (e.ms 1) 4 4
  let e8 := wbit (nthD e.setup 1 0) 12
  let ss := if e8 then 1 else 2
  let ua := { u with handle := bitsOf (e.ms 6) 0 12, view := af }
  let ub := { ua with view := bf }
  let rowA (i : Nat) : Word := addI e.x (i * sx32 (bitsOf (e.ms 2) 0 32) + (j * c * tyWidth af / 8 : Nat))
  let rowB (k : Nat) : Word := addI e.y (((j * c + k : Nat) : Int) * sx32 (bitsOf (e.ms 3) 0 32))
  let blk := Nat.max 1 e.mBlk
  let scA (i : Nat) : Word :=
    addI e.x (sx32 (bitsOf (e.ms 5) 0 32) + ((i * (e.mK / blk) + j * c / blk) * ss : Nat))
  let scB : Word := addI e.y (sx32 (bitsOf (e.ms 5) 32 32) + (j * c / blk * e.mN * ss : Nat))
  match s.rowsRead ua (c * tyWidth af / 8) ((List.range e.mM).map rowA) [] with
  | (s1, .ok as) =>
    match s1.rowsRead ub ((e.mN * tyWidth bf + 7) / 8) ((List.range c).map rowB) [] with
    | (s2, .ok bs) =>
      match s2.rowsRead ua ss (if wbit (nthD e.setup 1 0) 13 then (List.range e.mM).map scA else []) [] with
      | (s3, .ok sa) =>
        match s3.rowsRead ub (ss * e.mN) (if wbit (nthD e.setup 1 0) 14 then [scB] else []) [] with
        | (s4, .ok sb) =>
          let va := as.mapIdx fun i r => (unpack af c r).map fun x =>
            match sa[i]? with
            | some q => (vMul (decode_ af x) (scaleOf e8 q)).1
            | none => decode_ af x
          let sbs := sb.headD []
          let vb := bs.map fun r => (unpack bf e.mN r).mapIdx fun n x =>
            if sb.isEmpty then decode_ bf x
            else (vMul (decode_ bf x) (scaleOf e8 ((sbs.drop (ss * n)).take ss))).1
          (s4, .ok (va, vb))
        | (s4, .fault t) => (s4, .fault t)
        | (s4, .retry) => (s4, .retry)
      | (s3, .fault t) => (s3, .fault t)
      | (s3, .retry) => (s3, .retry)
    | (s2, .fault t) => (s2, .fault t)
    | (s2, .retry) => (s2, .retry)
  | (s1, .fault t) => (s1, .fault t)
  | (s1, .retry) => (s1, .retry)

/-- The exact sum of a chunk's products, with IEEE specials (R179, R180). -/
def chunkSum (xs ys : List Val) : Val :=
  let ps := (xs.zip ys).map fun x => (vMul x.1 x.2).1
  if ps.any Val.isNan then .nan false
  else
    let pos := ps.any fun v => v.isInf && !v.neg
    let neg := ps.any fun v => v.isInf && v.neg
    if pos && neg then .nan false
    else if pos then .inf false
    else if neg then .inf true
    else .fin (ps.foldl (fun a v => match v with | .fin q => qAdd .rne a q | _ => a) ⟨false, 0, 1⟩)

/-- One accumulator element after a chunk (R179, R180). An INT32 accumulator under a sum that is no number takes a free
value. -/
def accAdd (acc old : Nat) (sum : Val) (free : Word) : Nat :=
  if acc = 2 then
    match sum with
    | .fin q => ofInt 32 (sInt 32 old + (rndInt .rne q).1)
    | _ => free.toNat % 2 ^ 32
  else (rndV (accType acc) .rne (vAdd .rne (decFloat (accType acc) old) sum).1).1

/-- An element of the tile, read with its row's check bits (R418). -/
def State.tileRead (s : State) (en : Nat) (e : QEntry) (i j : Nat) : Nat :=
  let b := e.tile i j
  s.mem.readLE (accLoc en b.1 b.2) (accBytes e.mAcc)

/-- The rows of the tile are read through their check bits (R418). -/
def State.tileScrub (s : State) (u : Issuer) (en : Nat) (e : QEntry) (i : Nat) : State :=
  let row (j : Nat) : State → State := fun s =>
    let b := e.tile i j
    s.scrubFor u.k u.id (accLoc en b.1 (b.2 / 512 * 512)) 512
  if e.mAcc = 1 ∧ 64 < e.mN then row 64 (row 0 s) else row 0 s

/-- A chunk is added to the tile (R179). -/
def State.mmacAdd (s : State) (u : Issuer) (en : Nat) (e : QEntry) (va vb : List (List Val)) : State :=
  let cols := (List.range e.mN).map fun j => vb.map fun r => nthD r j (.nan false)
  (List.range e.mM).foldl (fun s i =>
    let s1 := s.tileScrub u en e i
    let xs := nthD va i []
    (List.range e.mN).foldl (fun s j =>
      let b := e.tile i j
      let sum := chunkSum xs (nthD cols j [])
      let fr : Word × State := if e.mAcc = 2 ∧ !sum.isFin then s.free else (0, s)
      { fr.2 with mem := fr.2.mem.writeLE (accLoc en b.1 b.2) (accBytes e.mAcc)
                    (accAdd e.mAcc (s.tileRead en e i j) sum fr.1) }) s1) s

/-- The chunks of an MMAC (R179). -/
def QEntry.chunks (e : QEntry) : Nat := e.mK / (if e.mAcc = 1 then 4 else 32)

/-- What is left after progress `n` of `all` (R192): the next point, or nothing. -/
def matNext (s : State) (n all : Nat) : MatOut := if n < all then .more s n else .done s []

/-- One chunk of an MMAC (R179, R192): its operands are fetched, then it is added whole. -/
def mmacChunk (u : Issuer) (en : Nat) (e : QEntry) (s : State) (j : Nat) : MatOut :=
  match s.mmacFetch u e j with
  | (s1, .ok (va, vb)) => matNext (s1.mmacAdd u en e va vb) (j + 1) e.chunks
  | (s1, .fault t) => .susp s1 t j
  | (s1, .retry) => .retry s1 j

/-- MMAC (R185 to R187, R179). -/
def execMmac (p : Dep) (a b : SReg) (c : BitVec 3) (s : State) : Res :=
  matWord (.mmac p a b c) p c (fun s en u e => mmacChunk u en e s e.prog.toNat) s

/-! #### MDRAIN and MFILL -/

/-- A band's arrival (R189, R151, R137). -/
def State.bandArrive (s : State) (core kind went winc off len : Nat) : State :=
  if kind = 1 then (granules off len).foldl (fun s g => s.feSet core g) s
  else if kind = 2 then s.postArrival core went winc
  else s

/-- accu in the issuer's port status (R190). -/
def State.setAccu (s : State) (k id : Nat) : State := s.updCtx k fun c => c.setPort id (· ||| 8)

/-- One row of a drain (R189, R190). -/
def State.drainRow (s : State) (u : Issuer) (en : Nat) (e : QEntry) (i : Nat) : State :=
  let es := accBytes e.mAcc
  let s1 := s.tileScrub u en e i
  let cells := (List.range e.mN).map fun j => (e.tile i j, (s1.engine en).has (e.tile i j).1)
  let bytes := cells.flatMap fun x => if x.2 then s1.mem.readBytes (accLoc en x.1.1 x.1.2) es else List.replicate es 0
  let s2 := if cells.all Prod.snd then s1 else s1.setAccu u.k e.id
  let s3 := if e.x.toNat % 2 = 1 then
      cells.foldl (fun s x => if x.2 then s.memWrite (accLoc en x.1.1 x.1.2) (List.replicate es 0) else s) s2
    else s2
  let b := i / 16
  let s4 := s3.memWrite (spadLoc (e.mapCore b) (e.mapOff b + i % 16 * (e.mN * es))) bytes
  if i % 16 = 15 ∨ i + 1 = e.mM then
    s4.bandArrive (e.mapCore b) (e.mapKind b) (e.mapWent b) (e.mapWinc b) (e.mapOff b) (e.bandRows b * e.mN * es)
  else s4

/-- MDRAIN (R189, R190), a row at a time. -/
def execMdrain (p : Dep) (a b : SReg) (c : BitVec 3) (s : State) : Res :=
  matWord (.mdrain p a b c) p c (fun s en u e =>
    matNext (s.drainRow u en e e.prog.toNat) (e.prog.toNat + 1) e.mM) s

/-- One row of a fill goes into the tile; unallocated banks discard it (R190). -/
def State.fillRow (s : State) (u : Issuer) (en : Nat) (e : QEntry) (i : Nat) (bs : List Byte) : State :=
  let es := accBytes e.mAcc
  (List.range e.mN).foldl (fun s j =>
    let b := e.tile i j
    if (s.engine en).has b.1 then s.memWrite (accLoc en b.1 b.2) ((bs.drop (es * j)).take es)
    else s.setAccu u.k e.id) s

/-- One row of a fill (R190, R192). -/
def fillOne (u : Issuer) (en : Nat) (e : QEntry) (s : State) (i : Nat) : MatOut :=
  match s.engRead u (addI e.x (i * sInt 64 e.y.toNat)) (e.mN * accBytes e.mAcc) false with
  | (s1, .ok bs) => matNext (s1.fillRow u en e i bs) (i + 1) e.mM
  | (s1, .fault t) => .susp s1 t i
  | (s1, .retry) => .retry s1 i

/-- MFILL (R185, R190). A keyed fill presents the accumulator's type to the layout record, which R408 does not name
(log entry 115). -/
def execMfill (p : Dep) (a b : SReg) (c : BitVec 3) (s : State) : Res :=
  matWord (.mfill p a b c) p c (fun s en u e =>
    fillOne { u with handle := bitsOf (e.ms 6) 0 12, view := accType e.mAcc } en e s e.prog.toNat) s

/-- MSTAT (R184): at M, with every earlier command accepted or refused; it reads and clears. -/
def execMstat (p : Dep) (a : SReg) (s : State) : Res :=
  match s.turn with
  | .start _ =>
    match s.ctx.mact with
    | none => .fault .noCommand
    | some e =>
      let t := s.delay
      let s1 := t.2
      let v := s1.ctx.portStatus false
      .next { s1.withCtx { s1.ctx.setPort e.id (· &&& 0xFFFF0000#64) with
        mact := none,
        pend := s1.ctx.pend.map fun q => if q.id == e.id then
          { q with due := some (s1.now + 1 + t.1), ctr := some .tc, wr := [.s a v] } else q } with turn := .sched }
  | _ => fWord s (forward (.mstat p a) p)

end Sys2Proof.Machine
end

