-- ==== Sys2Proof/Machine/Copy.lean ====
section
/-! DEFINITION. The copy engine (R302 to R311): setup, formats row by row, the checks at the start, the granules in their
order, suspension and completion. -/

namespace Sys2Proof.Machine

/-! ### Setup and formats -/

/-- Bytes per source row, rows, and the strides (R302). -/
def QEntry.cLen (e : QEntry) : Nat := bitsOf (e.ms 0) 0 32
def QEntry.cRows (e : QEntry) : Nat := bitsOf (e.ms 1) 0 32
def QEntry.cDs (e : QEntry) : Int := sx32 (bitsOf (e.ms 2) 0 32)
def QEntry.cSs (e : QEntry) : Int := sx32 (bitsOf (e.ms 3) 0 32)

/-- The key handle, and whether each side presents it (R303); CFILL has no source. -/
def QEntry.cHandle (e : QEntry) : Nat := bitsOf (e.ms 4) 0 12
def QEntry.cSrcKey (e : QEntry) (fill : Bool) : Bool := !fill && bitsOf (e.ms 4) 12 1 == 1
def QEntry.cDstKey (e : QEntry) : Bool := bitsOf (e.ms 4) 13 1 == 1

/-- The arrival: kind, entry, increment (R304). -/
def QEntry.cKind (e : QEntry) : Nat := bitsOf (e.ms 5) 0 2
def QEntry.cWent (e : QEntry) : Nat := bitsOf (e.ms 5) 2 6
def QEntry.cWinc (e : QEntry) : Nat := bitsOf (e.ms 5) 8 16

/-- The conversion mode, the explicit types, the rounding (R305). -/
def QEntry.cMode (e : QEntry) : Nat := bitsOf (e.ms 6) 0 2
def QEntry.cSenc (e : QEntry) : Nat := bitsOf (e.ms 6) 4 4
def QEntry.cDenc (e : QEntry) : Nat := bitsOf (e.ms 6) 8 4
def QEntry.cRnd (e : QEntry) : Nat := bitsOf (e.ms 6) 12 3

/-- The bank formats that the command keeps from its start (R150): they follow the setup registers. -/
def QEntry.cFmt (e : QEntry) (bank : Nat) : Nat := (nthD e.setup (8 + bank) 0xF).toNat

/-- The destination and source addresses of row `r` (R306). -/
def QEntry.dRow (e : QEntry) (r : Nat) : Word := addI e.x (r * e.cDs)
def QEntry.sRow (e : QEntry) (r : Nat) : Word := addI e.y (r * e.cSs)

/-- How a row is copied (R307): raw, or from one type to another, each side with its bank's format where it has one. -/
inductive RowForm where
  | raw
  | conv (senc denc : Nat) (sf df : Option Nat)
deriving DecidableEq, Repr

/-- The offset of a row of `n` bytes that lies in the own scratchpad, through either window (R307). -/
def ownRow (core : Nat) (va : Word) (n : Nat) : Option Nat :=
  (ownOff core va).filter fun o => decide (o + n ≤ 0x80000)

/-- The bytes of a converted row (R307). -/
def QEntry.convLen (e : QEntry) (se de : Nat) : Nat := e.cLen * 8 / tyWidth se * tyWidth de / 8

/-- The form of row `r` (R307); whether a destination row lies in the own scratchpad goes by its converted length (log entry
81). -/
def QEntry.rowForm (e : QEntry) (fill : Bool) (core r : Nat) : RowForm :=
  if fill then .raw
  else if e.cMode = 2 then .conv e.cSenc e.cDenc none none
  else if e.cMode = 1 then .raw
  else
    match ownRow core (e.sRow r) e.cLen, ownOff core (e.dRow r) with
    | some so, some d =>
      let fs := e.cFmt (so / 0x8000) % 2 ^ 31
      let fd := e.cFmt (d / 0x8000) % 2 ^ 31
      if fs % 16 = 15 ∨ fd % 16 = 15 ∨ fs = fd ∨ 0x80000 < d + e.convLen (fs % 16) (fd % 16) then .raw
      else .conv (fs % 16) (fd % 16) (some fs) (some fd)
    | _, _ => .raw

/-- The destination bytes of row `r`. -/
def QEntry.dLen (e : QEntry) (fill : Bool) (core r : Nat) : Nat :=
  match e.rowForm fill core r with
  | .raw => e.cLen
  | .conv se de _ _ => e.convLen se de

/-- The rows that move bytes. -/
def QEntry.liveRows (e : QEntry) : List Nat := if e.cLen = 0 then [] else List.range e.cRows

/-! ### The checks at the start -/

/-- Some byte of a range lies in the scratchpad windows (R144). -/
def touchesSpad (va : Word) (n : Nat) : Bool :=
  decide (n ≠ 0) && (meets va.toNat n winBase (numCores * 0x80000) || meets va.toNat n 0x01FFFFFFFFF80000 0x80000)

/-- Every byte of a range lies in the scratchpad windows. -/
def insideSpad (core : Nat) (va : Word) (n : Nat) : Bool :=
  n == 0 || match placeOf core va.toNat, placeOf core (va.toNat + (n - 1)) with
    | .spad .., .spad .. => true
    | _, _ => false

/-- Condition 1 of R308. -/
def QEntry.copyBad (e : QEntry) (fill : Bool) (core : Nat) : Bool :=
  let hi (r : Nat) : Bool := decide (e.ms r / 2 ^ 32 ≠ 0)
  hi 0 || hi 1 || hi 2 || (!fill && hi 3) || decide (e.ms 4 / 2 ^ 14 ≠ 0) || decide (e.ms 5 / 2 ^ 24 ≠ 0) ||
  (!fill && (decide (bitsOf (e.ms 6) 2 2 ≠ 0) || decide (e.ms 6 / 2 ^ 15 ≠ 0) || decide (e.cMode = 3) ||
    decide (4 < e.cRnd) || (decide (e.cMode = 2) && (decide (11 < e.cSenc) || decide (11 < e.cDenc))))) ||
  decide (e.cKind = 3) || (decide (e.cKind = 2) && decide (e.cWinc = 0)) ||
  (decide (e.cHandle ≠ 0) != (e.cSrcKey fill || e.cDstKey)) ||
  (e.cSrcKey fill && e.liveRows.any fun r => touchesSpad (e.sRow r) e.cLen) ||
  (e.cDstKey && e.liveRows.any fun r => touchesSpad (e.dRow r) (e.dLen fill core r)) ||
  (decide (e.cKind = 1) && e.liveRows.any fun r => !(insideSpad core (e.dRow r) (e.dLen fill core r)))

/-- A converting side misses its element boundary or leaves its bank (R308). -/
def sideBad (core : Nat) (va : Word) (w n : Nat) : Bool :=
  match placeOf core va.toNat with
  | .spad _ off => decide (off % 0x8000 * 8 % w ≠ 0) || decide (0x8000 < off % 0x8000 + n)
  | _ => false

/-- Condition 2 of R308: the address that the alignment trap reports. -/
def QEntry.copyMisaligned (e : QEntry) (fill : Bool) (core : Nat) : Option Word :=
  e.liveRows.findSome? fun r =>
    match e.rowForm fill core r with
    | .raw => none
    | .conv se de _ _ =>
      let ws := tyWidth se
      let wd := tyWidth de
      if e.cLen * 8 % ws ≠ 0 ∨ e.cLen * 8 / ws * wd % 8 ≠ 0 then some (e.dRow r)
      else if sideBad core (e.sRow r) ws e.cLen then some (e.sRow r)
      else if sideBad core (e.dRow r) wd (e.dLen fill core r) then some (e.dRow r)
      else none

/-- The scratchpad accesses of a command, row by row (R105). -/
def QEntry.copyAccs (e : QEntry) (fill : Bool) (core : Nat) : List Acc :=
  e.liveRows.flatMap fun r =>
    let side (va : Word) (n : Nat) : List Acc :=
      match placeOf core va.toNat with
      | .spad c off => if n = 0 then [] else [⟨va, spadLoc c off, n, 0, false⟩]
      | _ => []
    (if fill then [] else side (e.sRow r) e.cLen) ++ side (e.dRow r) (e.dLen fill core r)

/-! ### The granules -/

/-- One element through its scales into the destination type (R307, R163). -/
def copyElem (de : Nat) (m : Rnd) (v : Val) (ss ds : Option Val) : Nat :=
  let bad := match ds with | some d => !d.isFin || d.isZero | none => false
  if bad then (if isFloat de then canonNaN de else 0)
  else
    let x := match ss with | some q => (vMul v q).1 | none => v
    let y := match ds with | some d => (vDiv x d).1 | none => x
    (cvt false de m y).1

/-- The scale of an element of a side whose bank format has block scales (R148). -/
def State.sideScale (s : State) (core : Nat) (f : Option Nat) (off w i : Nat) : Option Val :=
  match f with
  | some fmt => if blkSize fmt = 0 then none else some (s.blockScale core fmt ((off % 0x8000 * 8 / w + i) / blkSize fmt))
  | none => none

/-- The issuer as each side presents itself (R303, R408). -/
def QEntry.side (e : QEntry) (k : Nat) (keyed : Bool) (view : Nat) : Issuer :=
  { k := k, id := e.id, priv := e.priv, handle := if keyed then e.cHandle else 0, view := view }

/-- The view of a keyed side (R409): explicit types, the bank's type under mode 0, none when raw. -/
def QEntry.keyView (e : QEntry) (core r : Nat) (dst : Bool) : Nat :=
  if e.cMode = 2 then (if dst then e.cDenc else e.cSenc)
  else if e.cMode = 0 then
    match ownRow core (e.sRow r) e.cLen, ownRow core (e.dRow r) e.cLen with
    | some o, _ => e.cFmt (o / 0x8000) % 16
    | none, some o => e.cFmt (o / 0x8000) % 16
    | none, none => 15
  else 15

/-- The bytes that feed destination bytes `off` to `off + m − 1` of row `r` (R306, R307, R309). -/
def State.copyFeed (s : State) (k : Nat) (e : QEntry) (fill : Bool) (r off m : Nat) : State × Eng (List Byte) :=
  let core := k / 4
  if fill then
    (s, .ok ((List.range m).map fun j => byteOf e.y.toNat ((e.dRow r).toNat + off + j - ((e.dRow r).toNat + off + j) / 8 * 8)))
  else
    let u := e.side k (e.cSrcKey fill) (e.keyView core r false)
    match e.rowForm fill core r with
    | .raw => s.engRead u (addI (e.sRow r) (off : Nat)) m true
    | .conv se de sf df =>
      let ws := tyWidth se
      let wd := tyWidth de
      let i0 := off * 8 / wd
      let i1 := ((off + m) * 8 - 1) / wd
      let s0 := i0 * ws / 8
      let s1 := ((i1 + 1) * ws + 7) / 8
      match s.engRead u (addI (e.sRow r) (s0 : Nat)) (s1 - s0) true with
      | (s2, .ok bs) =>
        let so := (ownOff core (e.sRow r)).getD 0
        let d := (ownOff core (e.dRow r)).getD 0
        let v := leNat bs
        let bits := (List.range (i1 + 1 - i0)).foldr (fun j acc =>
          let x := decode_ se (bitsOf v ((i0 + j) * ws - s0 * 8) ws)
          copyElem de (rndOf e.cRnd) x (s2.sideScale core sf so ws (i0 + j)) (s2.sideScale core df d wd (i0 + j)) +
            acc * 2 ^ wd) 0
        (s2, .ok (leBytes (bits / 2 ^ (off * 8 - i0 * wd)) m))
      | x => x

/-- The row after `r` in the order of R306. -/
def QEntry.nextRow (e : QEntry) (r : Nat) : Nat := if 0 ≤ e.cDs then r + 1 else r - 1

/-- How many rows follow `r` in the order of R306. -/
def QEntry.rowsAfter (e : QEntry) (r : Nat) : Nat := if 0 ≤ e.cDs then e.cRows - 1 - r else r

/-- One of `n` rows from row `r` on writes into the granule at address `g`; rows come in ascending address (R101). -/
def QEntry.writesGran (e : QEntry) (fill : Bool) (core g : Nat) : Nat → Nat → Bool
  | 0, _ => false
  | n + 1, r =>
    let a := (e.dRow r).toNat
    if g + 16 ≤ a then false
    else decide (g < a + e.dLen fill core r) || e.writesGran fill core g n (e.nextRow r)

/-- Row `r`'s write at `off` is this command's last write to its granule (R306). -/
def QEntry.lastWrite (e : QEntry) (fill : Bool) (core r off : Nat) : Bool :=
  !(e.writesGran fill core (((e.dRow r).toNat + off) / 16 * 16) (e.rowsAfter r) (e.nextRow r))

/-- Progress of a copy: the row and the offset of the next destination granule (R384), of which it shows 32 bits. -/
def copyProg (r off : Nat) : Word := BitVec.ofNat 64 (r + off * 2 ^ 32)

/-- The command stands at the granule at an offset of a row. -/
def QEntry.atGran (e : QEntry) (x : Nat × Nat) : QEntry := { e with prog := copyProg x.1 x.2, far := x.2 / 2 ^ 32 }

/-- The row and the offset at which it stands. -/
def QEntry.gran (e : QEntry) : Nat × Nat := (e.prog.toNat % 2 ^ 32, e.prog.toNat / 2 ^ 32 + 2 ^ 32 * e.far)

/-- A command that has moved nothing stands at its first row (R306). -/
def QEntry.atFirst (e : QEntry) : QEntry := e.atGran (if 0 ≤ e.cDs then 0 else e.cRows - 1, 0)

/-- What one granule's work answers: the row and offset of the next granule, if any is left; a fault; another try in the next
cycle (R310). -/
inductive CopyOut where
  | done (s : State) (next : Option (Nat × Nat))
  | susp (s : State) (t : Trap)
  | retry (s : State)

/-- The granule at `off` of row `r` is copied, and its bit set where it is the last write to it (R306). -/
def State.copyGran (s : State) (k : Nat) (e : QEntry) (fill : Bool) (r off : Nat) : CopyOut :=
  let core := k / 4
  let n := e.dLen fill core r
  let va := addI (e.dRow r) (off : Nat)
  let m := Nat.min (16 - va.toNat % 16) (n - off)
  match s.copyFeed k e fill r off m with
  | (s1, .fault t) => .susp s1 t
  | (s1, .retry) => .retry s1
  | (s1, .ok bs) =>
    match s1.engPut (e.side k e.cDstKey (if fill then 16 else e.keyView core r true)) va bs with
    | (s2, .fault t) => .susp s2 t
    | (s2, .retry) => .retry s2
    | (s2, .ok loc) =>
      let s3 := if e.cKind = 1 ∧ e.lastWrite fill core r off then s2.feSet (spadOf loc).1 ((spadOf loc).2 / 16) else s2
      .done s3 (if off + m < n then some (r, off + m)
        else if e.rowsAfter r = 0 then none else some (e.nextRow r, 0))

/-! ### Start, suspension and completion -/

/-- The engine holds the command with its progress (R384). -/
def Ctx.copyAtRow (c : Ctx) (e : QEntry) (susp : Bool) : Ctx := { c with cact := some { e with begun := true, susp := susp } }

/-- The core's copy engine after a step of berth `k`'s command: its next cycle, none once the last granule is written. -/
def State.copyRuns (s : State) (k : Nat) (next : Option Nat) : State :=
  { s.updCore (k / 4) fun c => { c with copying := some k, copyAt := next } with turn := .sched }

/-- The copy engine is free (R311). -/
def State.copyStops (s : State) (core : Nat) : State := s.updCore core fun c => { c with copying := none, copyAt := none }

/-- The last granule is written: the command completes later (R306). -/
def State.copyLast (s : State) (k : Nat) (e : QEntry) : State :=
  let t := s.delay
  ((t.2.updCtx k fun c => c.copyAtRow e false).copyRuns k none).at_ (s.now + 1 + t.1) (.copyComplete k e.id)

/-- The running command moves one granule (R306): then the next is due, the command completes later, or it leaves the engine
suspended with its record posted (R310). -/
def State.copyGo (s : State) (k : Nat) (e : QEntry) (fill : Bool) : State :=
  if e.cLen = 0 ∨ e.cRows = 0 then s.copyLast k e
  else
    match s.copyGran k e fill e.gran.1 e.gran.2 with
    | .done s1 none => s1.copyLast k e
    | .done s1 (some x) =>
      let t := s1.delay
      (t.2.updCtx k fun c => c.copyAtRow (e.atGran x) false).copyRuns k (some (s.now + 1 + t.1))
    | .susp s1 t =>
      { (s1.updCtx k fun c => (c.copyAtRow e true).postAfr (engAfr pathCp 0 t e.prog e.word e.id)).copyStops (k / 4) with
        turn := .sched }
    | .retry s1 => (s1.updCtx k fun c => c.copyAtRow e false).copyRuns k (some (s.now + 1))

/-- The command has the banks it names locked, from its start to its completion (R105); after a restore they are those that its
addresses name now. -/
def State.copyLock (s : State) (k uid : Nat) (e : QEntry) (fill : Bool) : State :=
  (s.unlockBanks (copyHolder uid)).lockBanks (copyHolder uid) (banksOf (e.copyAccs fill (k / 4)))

/-- COPY_COMPLETE (R306, R304): the arrival is posted, cc falls, the tokens are pushed, the locks end. -/
def State.copyDone (s : State) (k id : Nat) : State :=
  match s.ctxAt k with
  | none => s
  | some c =>
    match c.cact with
    | none => s
    | some e =>
      if e.id ≠ id then s
      else
        let core := k / 4
        let target := match placeOf core e.x.toNat with | .spad n _ => n | _ => core
        let s1 := if e.cKind = 2 then s.postArrival target e.cWent e.cWinc else s
        let c1 := ({ c with cact := none }.dropPend id).decCtr .cc
        ((s1.putCtx k (c1.complete .c id (pushesOf .c e.p))).unlockBanks (copyHolder c.uid)).copyStops core

/-- COPY or CFILL: forwarded by S, started and checked at C (R308), or resumed by the engine (R310). -/
def copyWord (i : Instr) (p : Dep) (fill : Bool) (s : State) : Res :=
  match s.turn with
  | .sched => fWord s (forward i p)
  | .copy =>
    match s.ctx.cact with
    | none => .fault .noCommand
    | some e =>
      let s1 := if (s.coreAt s.core).copying = some s.key then s else s.copyLock s.key s.ctx.uid e fill
      .next (s1.copyGo s.key e fill)
  | _ =>
    match s.ctx.cact with
    | none => .fault .noCommand
    | some e0 =>
      let e := { e0 with setup := e0.setup.take 8 ++ (List.range 16).map (s.fmtReg s.core) }
      if e.copyBad fill s.core then .next (s.startTrap s.key .c e (wordTrap 4 i))
      else
        match e.copyMisaligned fill s.core with
        | some va => .next (s.startTrap s.key .c e ⟨10, va, 0⟩)
        | none => .next ((s.copyLock s.key s.ctx.uid e fill).copyGo s.key e.atFirst fill)

/-- COPY (R306, R307). -/
def execCopy (p : Dep) (a b : SReg) (s : State) : Res := copyWord (.copy p a b) p false s

/-- CFILL (R309). -/
def execCfill (p : Dep) (a b : SReg) (s : State) : Res := copyWord (.cfill p a b) p true s

/-- CSET (R294). -/
def execCset (p : Dep) (a b : SReg) (r : BitVec 3) (s : State) : Res :=
  setupWord (.cset p a b r) p .c a b (fun c v => if h : r.toNat < 7 then { c with cs := c.cs.set r.toNat v } else c) s

end Sys2Proof.Machine
end

