-- ==== Sys2Proof/Machine/Threads.lean ====
section
/-! DEFINITION. Messages, waiting tasks, continuations and groups: the words of R314 to R324. -/

namespace Sys2Proof.Machine

/-- A word of the serialising class (R315) starts once every earlier LS access of the context has taken effect: then its value
checks, its early reads (R31), its body. -/
def tWord (i : Instr) (p : Dep) (srcs : List SReg) (bad : State → Bool) (body : State → Body) (s : State) : Res :=
  sWord i p false s fun s =>
    if s.ctx.ldaWait || !s.ctx.lsQuiet then .hold false false
    else if bad s then .trap (wordTrap 4 i)
    else
      match s.earlyS srcs with
      | some e => .trap (earlyTrap e)
      | none => body s

/-- Translated accesses that are made at once: compared with the frames' generations first (R371), and their sectors had from the
homes (R363). -/
def State.fresh (s : State) (want : Want) (accs : List Acc) (k : State → List Acc → Body) : Body :=
  match s.regen s.ctx s.core want false accs with
  | (s1, .ok bs) =>
    let excl := want == .write
    if s1.blocked (dieOf s.core) excl (sectorsOf bs) then .ask excl (sectorsOf bs)
    else k (s1.ownAll (dieOf s.core) excl (sectorsOf bs)) bs
  | (_, .retry) => .stall
  | (_, .late t) => .trap t

/-- The bytes of accesses made at once, as a number, with any uncorrectable error met (R418). -/
def State.readNow (s : State) (accs : List Acc) : State × Nat :=
  let s1 := accs.foldl (fun s a => s.scrub [s.key] a.loc a.len) s
  (s1, leNat (accs.flatMap fun a => s1.mem.readBytes a.loc a.len))

/-- The continuation record at `a` (R131): 8-byte aligned, in translated memory (R145). -/
def State.recordAt (s : State) (a : Word) (k : State → Rec → Body) : Body :=
  s.accesses a 8 8 .read .none 4 [] fun accs =>
    s.fresh .read accs fun s bs =>
      let r := s.readNow bs
      k r.1 (recOfNat r.2)

/-! ### Messages and waiting tasks -/

/-- The values for which MSGW raises the illegal-operand trap (R316). -/
def msgwBad (d b : Word) : Bool :=
  decide (msgwLen d % 16 ≠ 0) || decide (32768 < msgwLen d) || decide (msgwOff b % 16 ≠ 0) ||
  decide (524288 < msgwOff b + msgwLen d) || decide (numCores ≤ msgwCore b) || decide (wfld d 32 32 ≠ 0) ||
  decide (wfld b 36 28 ≠ 0)

/-- MSGW (R316): it does not hold issue; its copy and its arrival are one store on the LS path. -/
def execMsgw (p : Dep) (d a b : SReg) (s : State) : Res :=
  sWord (.msgw p d a b) p false s fun s =>
    let x := s.ctx.reg d
    let t := s.ctx.reg b
    if s.ctx.ldaWait then .stall
    else if 63 ≤ s.ctx.sc then .hold true false
    else if msgwBad x t then .trap (wordTrap 4 (.msgw p d a b))
    else
      match s.earlyS [a, b, d] with
      | some e => .trap (earlyTrap e)
      | none =>
        s.accesses (s.ctx.reg a) 16 16 .read .spad (Nat.max 1 (msgwLen x / 16)) [] fun accs =>
          .done (s.issueStore (.msgw p d a b) p 0 (accs.map fun c => ⟨c, 0, 0⟩)
            (.msgw (msgwCore t) (msgwOff t) (msgwLen x) (msgwEntry t) (msgwIncr x)) true) s.pc4

/-- The entry number of a waiting-task word (R317). -/
def wtEntry (a : Word) : Nat := wfld a 0 6

/-- The entry operand has reserved bits set. -/
def wtBad (a : Word) : Bool := decide (wfld a 6 58 ≠ 0)

/-- WTARM (R317): an armed entry is an illegal operand; the entry may fire at once. -/
def execWtarm (p : Dep) (d a b : SReg) (s : State) : Res :=
  tWord (.wtarm p d a b) p [a, b, d]
    (fun s => wtBad (s.ctx.reg a) || decide (wfld (s.ctx.reg d) 32 32 ≠ 0) ||
      (s.wtAt s.core (wtEntry (s.ctx.reg a))).armed)
    (fun s =>
      let e := wtEntry (s.ctx.reg a)
      let h := wfld (s.ctx.reg d) 0 32
      s.recordAt (s.ctx.reg b) fun s r =>
        if r.bad then .trap (wordTrap 4 (.wtarm p d a b))
        else
          let w := s.wtAt s.core e
          doneS ((s.setWt s.core e { w with thr := h, armed := true, qr := some ⟨r, s.ctx.env⟩ }).wtFire s.core e) p) s

/-- WTDIS (R317). -/
def execWtdis (p : Dep) (d a : SReg) (s : State) : Res :=
  tWord (.wtdis p d a) p [a] (fun s => wtBad (s.ctx.reg a))
    (fun s =>
      let e := wtEntry (s.ctx.reg a)
      let w := s.wtAt s.core e
      let s1 := s.setWt s.core e { w with armed := false, qr := none }
      .done (s1.landSerial (.wtdis p d a) p d (BitVec.ofNat 64 w.counter)) s1.pc4) s

/-- A word waits for a result from outside the core (R315): its destination is pending, and it is blocked. -/
def State.awaitRemote (s : State) (i : Instr) (p : Dep) (d : SReg) (b : Block) : State :=
  let q := { Pend.mk0 s.ctx.nextId .s s.ctx.pc with
    word := some i, act := .remote, dsts := dstS d, wr := [.s d 0], push := pushesOf .s p }
  s.withCtx { s.ctx with pend := s.ctx.pend ++ [q], block := b, blockedAt := s.now }

/-- CNTWAIT (R317). -/
def execCntwait (p : Dep) (d a b : SReg) (s : State) : Res :=
  tWord (.cntwait p d a b) p [a, b] (fun s => wtBad (s.ctx.reg a) || decide (wfld (s.ctx.reg b) 32 32 ≠ 0))
    (fun s =>
      let e := wtEntry (s.ctx.reg a)
      let h := wfld (s.ctx.reg b) 0 32
      let n := (s.wtAt s.core e).counter
      if h ≤ n then .done (s.landSerial (.cntwait p d a b) p d (BitVec.ofNat 64 n)) s.pc4
      else .done (s.awaitRemote (.cntwait p d a b) p d (.cntwait s.ctx.nextId e h)) s.pc4) s

/-! ### Continuations -/

/-- The queue-overflow trap of a record pushed on a core (R132). -/
def overflowTrap (core : Nat) (r : Rec) : Trap := ⟨14, BitVec.ofNat 64 (spawnQ core r), 0⟩

/-- SPAWN (R319). -/
def execSpawn (p : Dep) (a : SReg) (s : State) : Res :=
  tWord (.spawn p a) p [a] (fun _ => false)
    (fun s => s.recordAt (s.ctx.reg a) fun s r =>
      if r.bad then .trap (wordTrap 4 (.spawn p a))
      else
        match s.pushSpawn s.core ⟨r, s.ctx.env⟩ with
        | none => .trap (overflowTrap s.core r)
        | some s1 => doneS s1 p) s

/-- The join counter's byte offset in a record (R131). -/
def joinOff : Nat := 16

/-- JOINDEC's atomic step (R133, R320), the counter at location `loc`; none when the record cannot be pushed. -/
def State.joinStep (s : State) (loc : Nat) (r : Rec) : Option State :=
  let n := r.join.toNat
  if n = 0 then some (s.count (0x128 + 8 * dieOf s.core) 1)
  else
    let w (s : State) : State := s.memWrite loc (leBytes (n - 1) 4)
    if n = 1 then (s.pushSpawn s.core ⟨{ r with join := 0 }, s.ctx.env⟩).map w else some (w s)

/-- JOINDEC (R320). -/
def execJoindec (p : Dep) (d a : SReg) (s : State) : Res :=
  tWord (.joindec p d a) p [a] (fun _ => false)
    (fun s =>
      let va := s.ctx.reg a
      s.recordAt va fun s r =>
        s.access (va + BitVec.ofNat 64 joinOff) 4 4 .write .none fun acc =>
          s.fresh .write [acc] fun s bs =>
            if r.join = 1 ∧ r.bad then .trap (wordTrap 4 (.joindec p d a))
            else
              match s.joinStep ((bs.map (·.loc)).headD 0) r with
              | none => .trap (overflowTrap s.core r)
              | some s1 => .done (s1.landSerial (.joindec p d a) p d (r.join.zeroExtend 64)) s1.pc4) s

/-- No V, M or C word of the context is unfinished, and no load or store is out (R321). -/
def Ctx.drained (c : Ctx) : Bool :=
  c.vq.isEmpty && c.mq.isEmpty && c.cq.isEmpty && c.active.isNone && c.mact.isNone && c.cact.isNone && c.min.isEmpty &&
  (c.pend.all fun p => p.st == .s) && c.lc == 0 && c.sc == 0

/-- The LS accesses that have started have taken effect, but for those that the orders or a command that stands hold, which go with
the saved state: the fence of a save and of a saved context (R386, log entry 79). -/
def State.sQuiet (s : State) : Bool :=
  (s.ctx.stores.all fun p => p.late || s.stands s.core s.ctx p.ls p.accs) &&
  s.ctx.pend.all fun p => p.late || !p.isLs || s.stands s.core s.ctx p.ls p.accs

/-- Steps 1 and 2 of R321; a saved context skips the first (R386). -/
def State.mayRetire (s : State) : Bool := if s.ctx.saved then s.sQuiet else s.ctx.drained && s.ctx.lsQuiet

/-- RETIRE (R321). -/
def execRetire (p : Dep) (s : State) : Res :=
  sWord (.retire p) p false s fun s =>
    if s.mayRetire then .left (s.markS.endCtx s.key false) else .hold false (!s.ctx.saved)

/-- YIELD (R322). -/
def execYield (p : Dep) (s : State) : Res :=
  sWord (.yield p) p false s fun s =>
    doneS ((s.withCtx { s.ctx with readyAt := s.now }).updCore s.core fun c => { c with run := none }) p

/-! ### Groups -/

/-- A word on the group that `h` names (R323): a bad handle is an illegal operand. -/
def State.onGroup (s : State) (i : Instr) (h : Word) (k : Nat → Body) : Body :=
  match s.handle h with
  | none => .trap (wordTrap 4 i)
  | some g => k g

/-- GNEW (R324). -/
def execGnew (p : Dep) (d a : SReg) (s : State) : Res :=
  tWord (.gnew p d a) p [a] (fun s => decide (4 < (s.ctx.reg a).toNat))
    (fun s =>
      match s.freeGroup (s.ctx.reg a).toNat with
      | none => .done (s.landSerial (.gnew p d a) p d (BitVec.allOnes 64)) s.pc4
      | some g =>
        .done ((s.setGroup g { Group.reset with live := true }).landSerial (.gnew p d a) p d (handleOf g)) s.pc4) s

/-- The handle operand names no group. -/
def badHandle (a : SReg) (s : State) : Bool := (s.handle (s.ctx.reg a)).isNone

/-- GJOIN (R324): a die group is joined from its own die. -/
def execGjoin (p : Dep) (a : SReg) (s : State) : Res :=
  tWord (.gjoin p a) p [a]
    (fun s => match s.handle (s.ctx.reg a) with
      | none => true
      | some g => decide (g / 4096 < 4) && decide (g / 4096 ≠ dieOf s.core))
    (fun s => s.onGroup (.gjoin p a) (s.ctx.reg a) fun g => doneS (s.join g s.ctx.uid) p) s

/-- GLEAVE (R324). -/
def execGleave (p : Dep) (a : SReg) (s : State) : Res :=
  tWord (.gleave p a) p [a] (badHandle a)
    (fun s => s.onGroup (.gleave p a) (s.ctx.reg a) fun g => doneS (s.leave g s.ctx.uid) p) s

/-- GBAR (R324): the wait is entered, then the arrival counted, which may end it at once. -/
def execGbar (p : Dep) (d a : SReg) (s : State) : Res :=
  tWord (.gbar p d a) p [a]
    (fun s => match s.handle (s.ctx.reg a) with
      | none => true
      | some g => !(s.group g).isMember s.ctx.uid)
    (fun s => s.onGroup (.gbar p d a) (s.ctx.reg a) fun g =>
      let ph := (s.group g).phaseFor s.ctx.uid
      let s1 := s.awaitRemote (.gbar p d a) p d (.gbar s.ctx.nextId (g / 4096) (g % 4096) ph)
      .done (s1.arrive g s.ctx.uid) s.pc4) s

/-- GBCFG (R324). -/
def execGbcfg (p : Dep) (a b : SReg) (s : State) : Res :=
  tWord (.gbcfg p a b) p [a, b] (fun s => badHandle a s || decide (wfld (s.ctx.reg b) 32 32 ≠ 0))
    (fun s => s.onGroup (.gbcfg p a b) (s.ctx.reg a) fun g => doneS (s.modeSet g (wfld (s.ctx.reg b) 0 32)) p) s

/-- GFREE (R324): refused while a context is blocked on the group. -/
def execGfree (p : Dep) (a : SReg) (s : State) : Res :=
  tWord (.gfree p a) p [a]
    (fun s => match s.handle (s.ctx.reg a) with
      | none => true
      | some g => s.hasWaiter g)
    (fun s => s.onGroup (.gfree p a) (s.ctx.reg a) fun g => doneS (s.setGroup g Group.reset) p) s

end Sys2Proof.Machine
end

