-- ==== Sys2Proof/Machine/Serving.lean ====
section
/-! DEFINITION. The serving units (R206 to R221, R325 to R327): the hub's accesses through an environment (R215), the token
post, calls and futures, the prefix index. -/

namespace Sys2Proof.Machine

/-! ### Accesses by the hub -/

/-- Whose address space the hub uses (R215), and the berth to which a word's reads are attributed. -/
structure Hub where
  root : Nat
  asid : Nat
  ks : List Nat
deriving DecidableEq, Repr

/-- The hub's view of an environment (R350); none when its entry is not valid. -/
def State.hubOf (s : State) (env : Nat) (ks : List Nat) : Option Hub :=
  (s.env env).map fun e => { root := e.root.toNat, asid := e.asid, ks := ks }

/-- The location of `n` bytes at `va`, within one page (R215, R240). -/
def State.hubLoc (s : State) (h : Hub) (va : Word) (n : Nat) (want : Want) : State × Eng Nat :=
  match precheck 0 va n 1 .none 0 with
  | some t => (s, .fault t)
  | none =>
    match s.hubXl h.root h.asid va.toNat want with
    | (s1, .ok pa _) => (s1, .ok pa)
    | (s1, .fault z b) => (s1, .fault ⟨z, va, faultInfo want b 0⟩)
    | (s1, _) => (s1, .retry)

/-- The bytes from `va` to the end of its page, at most `n`. -/
def pagePart (va : Word) (n : Nat) : Nat := Nat.min n (4096 - va.toNat % 4096)

/-- `n` bytes at `va`, page by page. -/
def State.hubReadGo (h : Hub) : Nat → State → Word → Nat → List Byte → State × Eng (List Byte)
  | 0, s, _, _, acc => (s, .ok acc)
  | fuel + 1, s, va, n, acc =>
    if n = 0 then (s, .ok acc)
    else
      let m := pagePart va n
      match s.hubLoc h va m .read with
      | (s1, .ok pa) =>
        let s2 := s1.scrub h.ks pa m
        State.hubReadGo h fuel s2 (va + BitVec.ofNat 64 m) (n - m) (acc ++ s2.mem.readBytes pa m)
      | (s1, .fault t) => (s1, .fault t)
      | (s1, .retry) => (s1, .retry)

/-- A read by the hub. -/
def State.hubRead (s : State) (h : Hub) (va : Word) (n : Nat) : State × Eng (List Byte) :=
  State.hubReadGo h (n / 4096 + 2) s va n []

/-- Bytes written one by one, each at its own address. -/
def State.hubPuts (s : State) (h : Hub) : List (Word × Byte) → State × Eng Unit
  | [] => (s, .ok ())
  | (va, b) :: r =>
    match s.hubLoc h va 1 .write with
    | (s1, .ok pa) => (s1.memWrite pa [b]).hubPuts h r
    | (s1, .fault t) => (s1, .fault t)
    | (s1, .retry) => (s1, .retry)

/-- Bytes written to consecutive addresses. -/
def spread (va : Word) (bs : List Byte) : List (Word × Byte) := bs.mapIdx fun i b => (va + BitVec.ofNat 64 i, b)

/-- Bytes written to a ring from index `start` on (R206). -/
def ringPuts (base : Word) (size start : Nat) (bs : List Byte) : List (Word × Byte) :=
  bs.mapIdx fun i b => (base + BitVec.ofNat 64 ((start + i) % size), b)

/-- A continuation of the hub's work. -/
def Eng.andThen {α β : Type} (x : State × Eng α) (f : State → α → State × Eng β) : State × Eng β :=
  match x with
  | (s, .ok v) => f s v
  | (s, .fault t) => (s, .fault t)
  | (s, .retry) => (s, .retry)

/-! ### Descriptors and vocabularies -/

/-- A field of the descriptor at location `d` (R206). -/
def State.sd (s : State) (d off n : Nat) : Nat := s.mem.readLE (d + off) n

/-- A field of a descriptor is written. -/
def State.setSd (s : State) (d off n v : Nat) : State := s.memWrite (d + off) (leBytes v n)

/-- The configuration offset of a vocabulary slot (R349). -/
def vocOff (slot : Nat) : Nat := 0x20000 + 128 * slot

/-- A vocabulary slot is resident (R208). -/
def State.resident (s : State) (slot : Nat) : Bool := s.cfgLE (vocOff slot + 104) 1 % 2 == 1

/-- A power of two between two bounds. -/
def isPow2 (n lo hi : Nat) : Bool := 2 ^ n.log2 == n && decide (lo ≤ n) && decide (n ≤ hi)

/-- A serving word finds the descriptor unusable (R206). -/
def State.descBad (s : State) (d : Nat) : Bool :=
  decide (8 ≤ s.sd d 0 1) || decide (s.sd d 7 1 ≠ 0) || decide (s.sd d 60 4 ≠ 0) || decide (s.sd d 84 4 ≠ 0) ||
  decide (s.sd d 112 8 ≠ 0) || decide (s.sd d 120 8 ≠ 0) || !(s.resident (s.sd d 0 1 % 8)) ||
  !(isPow2 (s.sd d 48 4) 16 (2 ^ 24)) || !(isPow2 (s.sd d 72 4) 256 (2 ^ 30)) ||
  decide (s.sd d 96 4 < 64) || decide (2 ^ 20 < s.sd d 96 4)

/-- The location of a token's table entry (R208): the table and the pool stand at physical addresses. -/
def State.tokenEntry (s : State) (slot id : Nat) : Nat := phys (s.cfgLE (vocOff slot + 88) 8 + 8 * id)

/-- A token's bytes: where they lie, and how many there are. -/
def State.tokenRange (s : State) (slot id : Nat) : Nat × Nat :=
  let e := s.tokenEntry slot id
  (phys (s.cfgLE (vocOff slot + 96) 8 + s.mem.readLE e 4), Nat.min 32 (s.mem.readLE (e + 4) 1))

/-- A token's bytes (R208). -/
def State.tokenBytes (s : State) (slot id : Nat) : List Byte :=
  let r := s.tokenRange slot id
  s.mem.readBytes r.1 r.2

/-- The reads of a token's entry and bytes meet the errors there (R418). -/
def State.tokenScrub (s : State) (ks : List Nat) (slot id : Nat) : State :=
  let s1 := s.scrub ks (s.tokenEntry slot id) 8
  let r := s1.tokenRange slot id
  s1.scrub ks r.1 r.2

/-! ### From tokens to text -/

/-- The holdback state (R210): the held bytes, oldest first, and how many are still expected. -/
structure HoldBack where
  held : List Byte
  need : Nat
deriving DecidableEq, Repr

/-- U+FFFD in UTF-8. -/
def fffd : List Byte := [0xEF, 0xBF, 0xBD]

/-- The transition from hcount = 0 (R210). -/
def hold0 (x : Byte) : List Byte × HoldBack :=
  let n := x.toNat
  if n < 0x80 then ([x], ⟨[], 0⟩)
  else if 0xC2 ≤ n ∧ n < 0xE0 then ([], ⟨[x], 1⟩)
  else if 0xE0 ≤ n ∧ n < 0xF0 then ([], ⟨[x], 2⟩)
  else if 0xF0 ≤ n ∧ n < 0xF5 then ([], ⟨[x], 3⟩)
  else (fffd, ⟨[], 0⟩)

/-- The allowed range of a continuation byte: the second byte is limited by its lead (R210). -/
def contRange (held : List Byte) : Nat × Nat :=
  match held with
  | [l] => match l.toNat with
    | 0xE0 => (0xA0, 0xBF)
    | 0xED => (0x80, 0x9F)
    | 0xF0 => (0x90, 0xBF)
    | 0xF4 => (0x80, 0x8F)
    | _ => (0x80, 0xBF)
  | _ => (0x80, 0xBF)

/-- One byte through the holdback table (R210). -/
def holdStep (h : HoldBack) (x : Byte) : List Byte × HoldBack :=
  match h.held with
  | [] => hold0 x
  | _ =>
    let r := contRange h.held
    if r.1 ≤ x.toNat ∧ x.toNat ≤ r.2 then
      if h.need ≤ 1 then (h.held ++ [x], ⟨[], 0⟩) else ([], ⟨h.held ++ [x], h.need - 1⟩)
    else
      let n := hold0 x
      (fffd ++ n.1, n.2)

/-- The bytes of a token through the holdback table (R210). -/
def holdAll (h : HoldBack) (xs : List Byte) : List Byte × HoldBack :=
  xs.foldl (fun acc x => let r := holdStep acc.2 x; (acc.1 ++ r.1, r.2)) ([], h)

/-- The holdback state in a descriptor. -/
def State.holdOf (s : State) (d : Nat) : HoldBack :=
  ⟨s.mem.readBytes (d + 4) (Nat.min 3 (s.sd d 2 1)), s.sd d 3 1⟩

/-- The holdback state is written back. -/
def State.setHold (s : State) (d : Nat) (h : HoldBack) : State :=
  ((s.setSd d 2 1 h.held.length).setSd d 3 1 h.need).setSd d 4 3 (leNat h.held)

/-- Free bytes of the text ring (R206). -/
def State.textFree (s : State) (d : Nat) : Nat := s.sd d 72 4 - (s.sd d 76 4 + 2 ^ 32 - s.sd d 80 4) % 2 ^ 32

/-- Bytes are appended to the text ring, and tprod is advanced (R209). -/
def State.textPut (s : State) (h : Hub) (d : Nat) (bs : List Byte) : State × Eng Unit :=
  let p := s.sd d 76 4
  Eng.andThen (s.hubPuts h (ringPuts (BitVec.ofNat 64 (s.sd d 64 8)) (s.sd d 72 4) p bs)) fun s _ =>
    (s.setSd d 76 4 ((p + bs.length) % 2 ^ 32), .ok ())

/-- The result of EMIT (R209). -/
def emitResult (status bytes fut : Nat) : Word := BitVec.ofNat 64 (status + 256 * bytes + 2 ^ 32 * fut)

/-! ### Calls and futures -/

/-- A future entry (R211). -/
def State.future (s : State) (id : Nat) : Future := mgetD s.futures id Future.reset

/-- The package with a future entry replaced. -/
def State.setFuture (s : State) (id : Nat) (f : Future) : State := { s with futures := mput s.futures id f }

/-- The lowest free entry from `i` on (R212). -/
def State.freeFuture (s : State) : Nat → Nat → Option Nat
  | 0, _ => none
  | fuel + 1, i => if (s.future i).state = .free then some i else s.freeFuture fuel (i + 1)

/-- The next generation: 65,535 is followed by 1 (R211). -/
def nextGen (g : BitVec 16) : BitVec 16 := if g = 0xFFFF then 1 else g + 1

/-- A hart's mailbox accepts a call of a slot (R392, R393): how many records are pending there. -/
def State.mailboxRoom (s : State) (h slot : Nat) : Option Nat :=
  let t := mgetD s.harts h Hart.reset
  let n := (s.mem.readLE t.mbbase.toNat 4 + 2 ^ 32 - s.mem.readLE (t.mbbase.toNat + 4) 4) % 2 ^ 32
  if !(s.retiredHarts.contains h) && wbit t.mbcfg 16 && wbit t.mbcfg (8 + slot) && decide (n < 2 ^ wfld t.mbcfg 0 5) then some n
    else none

/-- The mailbox for a call of a slot (R393): fewest pending, then the lowest hart. -/
def State.mailboxFor (s : State) (slot : Nat) : Option Nat :=
  ((List.range 64).foldl (fun best h =>
    match s.mailboxRoom h slot, best with
    | some n, none => some (h, n)
    | some n, some (g, m) => if n < m then some (h, n) else some (g, m)
    | none, b => b) none).map Prod.fst

/-- A call record goes into a mailbox, if one can take it (R393). -/
def State.postCall (s : State) (c : Call) : Option State :=
  match s.mailboxFor ((nthD c.bytes 4 0).toNat % 8) with
  | none => none
  | some h =>
    let t := mgetD s.harts h Hart.reset
    let b := t.mbbase.toNat
    let p := s.mem.readLE b 4
    let s1 := s.memWrite (b + 64 + 64 * (p % 2 ^ wfld t.mbcfg 0 5)) c.bytes
    let s2 := s1.memWrite b (leBytes ((p + 1) % 2 ^ 32) 4)
    some { s2 with harts := mupd s2.harts h Hart.reset fun x => { x with mbirq := x.mbirq || wbit x.mbcfg 17 } }

/-- MAILBOX_POST (R393): waiting call records are posted in order; what is left is tried again 1 µs later. -/
def State.mailboxPost (s : State) : State :=
  let s1 := s.calls.foldl (fun s c =>
    match s.postCall c with
    | some s' => s'
    | none => { s with calls := s.calls ++ [c] }) { s with calls := [] }
  let due := s1.agenda.any fun e => match e.2 with | .mailboxPost => true | _ => false
  if s1.calls.isEmpty || due then s1 else s1.at_ (s.now + 1800) .mailboxPost

/-- The 64 bytes of a call record (R212). -/
def State.callRecord (s : State) (h : Hub) (va d fut : Nat) (gen : BitVec 16) : Call :=
  ⟨leBytes fut 2 ++ leBytes gen.toNat 2 ++ leBytes (s.sd d 0 1 % 8) 1 ++ leBytes (if s.cut.contains (h.asid, va) then 1 else 0) 1 ++
    leBytes 0 2 ++ leBytes (s.sd d 100 4) 4 ++ leBytes (s.sd d 108 4) 4 ++ leBytes va 8 ++ leBytes (s.sd d 88 8) 8 ++
    leBytes h.asid 4 ++ List.replicate 28 0⟩

/-- The call closes (R212): the lowest free entry is allocated, the record posted, the timer started. -/
def State.callClose (s : State) (h : Hub) (env va d : Nat) : State × Word :=
  match s.freeFuture 65535 1 with
  | none => (s, emitResult 5 0 0)
  | some id =>
    let f := s.future id
    let g := nextGen f.gen
    let tmo := s.sd d 108 4
    let s1 := ((s.setSd d 104 2 id).setSd d 106 2 g.toNat).setSd d 1 1 2
    let rec_ := s1.callRecord h va d id g
    let timer := if tmo = 0 then none else some (s.now + 1800 * tmo)
    let s2 := s1.setFuture id { f with state := .pending, gen := g, desc := BitVec.ofNat 64 va, env := env, timer := timer,
                                       parked := none, inj := none, again := none }
    let s3 := ({ s2 with calls := s2.calls ++ [rec_], cut := s2.cut.filter (· != (h.asid, va)) } : State).mailboxPost
    (s3, emitResult 2 0 id)

/-- The token post handles a token (R209): the descriptor at location `d` and address `va`. -/
def State.emit (s : State) (h : Hub) (env va d id : Nat) : State × Eng Word :=
  let slot := s.sd d 0 1 % 8
  let state := s.sd d 1 1
  let s := s.tokenScrub h.ks slot id
  let bs := s.tokenBytes slot id
  let hb := s.holdOf d
  if state = 2 then (s, .ok (emitResult 4 0 0))
  else if state = 0 ∧ id = s.cfgLE (vocOff slot + 4) 4 then
    let out := if hb.held.isEmpty then [] else fffd
    if s.textFree d < out.length then (s, .ok (emitResult 3 0 0))
    else
      Eng.andThen (s.textPut h d out) fun s _ =>
        let s1 := ((s.setHold d ⟨[], 0⟩).setSd d 1 1 1).setSd d 100 4 0
        ({ s1 with cut := s1.cut.filter (· != (h.asid, va)) }, .ok (emitResult 1 out.length 0))
  else if state = 1 ∧ id = s.cfgLE (vocOff slot + 8) 4 then
    let r := s.callClose h env va d
    (r.1, .ok r.2)
  else if state = 1 then
    let n := s.sd d 100 4
    let take := bs.take (s.sd d 96 4 - n)
    Eng.andThen (s.hubPuts h (spread (BitVec.ofNat 64 (s.sd d 88 8 + n)) take)) fun s _ =>
      let s1 := s.setSd d 100 4 (n + take.length)
      let lost := decide (take.length < bs.length) && !(s1.cut.contains (h.asid, va))
      (if lost then { s1 with cut := s1.cut ++ [(h.asid, va)] } else s1, .ok (emitResult 1 take.length 0))
  else if s.textFree d < 3 * (bs.length + 3) then (s, .ok (emitResult 3 0 0))
  else
    let r := holdAll hb bs
    Eng.andThen (s.textPut h d r.1) fun s _ => (s.setHold d r.2, .ok (emitResult 0 r.1.length 0))

/-- The timeout sequence of a vocabulary (R208, R214). -/
def State.timeoutIds (s : State) (slot : Nat) : List (BitVec 32) :=
  (List.range (Nat.min 16 (s.cfgLE (vocOff slot + 12) 4))).map fun i => BitVec.ofNat 32 (s.cfgLE (vocOff slot + 16 + 4 * i) 4)

/-- A reply, or with `timeout` the vocabulary's sequence, is injected into the prefill queue (R214): the descriptor's location,
or the fault of a translation (R215). -/
def State.inject (s : State) (f : Future) (ids : List (BitVec 32)) (timeout : Bool) : State × Eng Nat :=
  match s.hubOf f.env [] with
  | none => (s, .fault ⟨11, f.desc, faultInfo .write false 0⟩)
  | some h =>
    Eng.andThen (s.hubLoc h f.desc 256 .write) fun s d =>
      let ids := if timeout then s.timeoutIds (s.sd d 0 1 % 8) else ids
      let size := s.sd d 48 4
      let prod := s.sd d 52 4
      let room := size - (prod + 2 ^ 32 - s.sd d 56 4) % 2 ^ 32
      let take := ids.take room
      let puts := take.mapIdx fun i (v : BitVec 32) =>
        spread (BitVec.ofNat 64 (s.sd d 40 8 + 4 * ((prod + i) % size))) (leBytes v.toNat 4)
      Eng.andThen (s.hubPuts h puts.flatten) fun s _ =>
        let lost := ids.length - take.length
        ((s.setSd d 36 4 (Nat.min (s.sd d 36 4 + lost) (2 ^ 32 - 1))).setSd d 52 4 ((prod + take.length) % 2 ^ 32), .ok d)

/-- An entry is freed with the push of its continuation (R211), and its descriptor at `d` has no future any more. -/
def State.pushParked (s : State) (id d : Nat) (q : QRec) (die : Nat) : State :=
  let f := s.future id
  let s1 := (s.setSd d 104 2 0).setSd d 1 1 0
  let s2 := s1.setFuture id { f with state := .free, parked := none, timer := none, inj := none, again := none }
  let s3 := s2.pushPost q die
  if s2.held.isEmpty && !s3.held.isEmpty then s3.at_ (s.now + 1800) .continuationPushRetry else s3

/-- An injected entry is done, and its parked continuation is pushed (R211). -/
def State.resolveFuture (s : State) (id d : Nat) : State :=
  let f := s.future id
  let s1 := s.setFuture id { f with state := .done, timer := none, inj := none, again := none }
  match f.parked with
  | some (q, die) => s1.pushParked id d q die
  | none => s1

/-- A reply is injected and its entry resolved; or the injection is held on a fault, which is posted to the driver (R215). -/
def State.deliver (s : State) (id : Nat) (ids : List (BitVec 32)) (timeout : Bool) : State :=
  let f := s.future id
  match s.inject f ids timeout with
  | (s1, .ok d) => s1.resolveFuture id d
  | (_, .fault t) =>
    { s.setFuture id { f with timer := none, inj := some (ids, timeout), again := none } with
      envFaults := s.envFaults ++ [(f.env, t.cause, t.tval)] }
  | (_, .retry) =>
    s.setFuture id { f with timer := none, inj := some (ids, timeout), again := some (s.now + 1) }

/-- FUTURE_COMPLETION (R211, R214). -/
def State.complete (s : State) (id : Nat) (gen : BitVec 16) (ids : List (BitVec 32)) : State :=
  let f := s.future id
  if f.state ≠ .pending ∨ f.gen ≠ gen ∨ f.inj.isSome ∨ 4096 < ids.length then s.count 0x100 1 else s.deliver id ids false

/-- The entry's timer has reached 0 (R211). -/
def Future.expired (f : Future) (now : Nat) : Bool :=
  f.state == .pending && (match f.timer with | some t => decide (t ≤ now) | none => false)

/-- FUTURE_TIMEOUT (R211): the vocabulary's timeout sequence is injected. -/
def State.futureTimeout (s : State) (id : Nat) : State :=
  if (s.future id).expired s.now then (s.count 0x108 1).deliver id [] true else s

/-- INJECTION_RETRY (R215): the driver has returned. -/
def State.injectionRetry (s : State) (id : Nat) : State :=
  let f := s.future id
  match f.inj with
  | none => s
  | some (ids, timeout) => s.deliver id ids timeout

/-- CONTINUATION_PUSH_RETRY (R132): held pushes are tried again in order. -/
def State.pushRetry (s : State) : State :=
  let s1 := s.held.foldl (fun s h => s.pushPost h.1 h.2) { s with held := [] }
  if s1.held.isEmpty then s1 else s1.at_ (s.now + 1800) .continuationPushRetry

/-! ### The words of the token post -/

/-- What a hub unit's work answers, as a word's body: a fault is precise at the word (R315). -/
def Eng.body {α : Type} (x : State × Eng α) (k : State → α → Body) : Body :=
  match x with
  | (s, .ok v) => k s v
  | (_, .fault t) => .trap t
  | (_, .retry) => .stall

/-- A serving word's environment (R215): an entry that is no longer valid translates nothing. -/
def State.onHub (s : State) (va : Word) (k : Hub → Body) : Body :=
  match s.hubOf s.ctx.env [s.key] with
  | some h => k h
  | none => .trap ⟨11, va, 0⟩

/-- The descriptor at `va` (R206, R325): 256-byte aligned, in translated memory, writable; the post reads its first 128 bytes. -/
def State.onDesc (s : State) (i : Instr) (va : Word) (k : State → Hub → Nat → Body) : Body :=
  match precheck s.core va 256 256 .none 0 with
  | some t => .trap t
  | none => s.onHub va fun h => Eng.body (s.hubLoc h va 256 .write) fun s d =>
      let s1 := s.scrub [s.key] d 128
      if s1.descBad d then .trap (wordTrap 4 i) else k s1 h d

/-- EMIT (R325). -/
def execEmit (p : Dep) (d a b : SReg) (s : State) : Res :=
  let i := Instr.emit p d a b
  tWord i p [a, b] (fun s => decide (wfld (s.ctx.reg b) 32 32 ≠ 0))
    (fun s => s.onDesc i (s.ctx.reg a) fun s h t =>
      let id := wfld (s.ctx.reg b) 0 32
      if s.cfgLE (vocOff (s.sd t 0 1 % 8)) 4 ≤ id then .trap (wordTrap 4 i)
      else Eng.body (s.emit h s.ctx.env (s.ctx.reg a).toNat t id) fun s v => .done (s.landSerial i p d v) s.pc4) s

/-- The continuation that FWAIT forms (R213). -/
def State.fwaitRec (s : State) : QRec :=
  { r := { code := s.pc4, frame := s.ctx.reg 2, join := 0, flags := BitVec.ofNat 8 s.ctx.prio,
           rows := BitVec.ofNat 8 s.ctx.rows, gran := BitVec.ofNat 16 s.ctx.gran, parent := 0 },
    env := s.ctx.env }

/-- FWAIT (R326, R213): it drains as RETIRE does; then the entry takes the continuation, and the berth is free. The frame
pointer that it forms from s2 is no source operand, so a pending write of s2 is no early read (log entry 118). -/
def execFwait (p : Dep) (a : SReg) (s : State) : Res :=
  let i := Instr.fwait p a
  sWord i p false s fun s =>
    match s.earlyS [a] with
    | some e => .trap (earlyTrap e)
    | none =>
      if !s.mayRetire then .hold false (!s.ctx.saved)
      else s.onDesc i (s.ctx.reg a) fun s _ t =>
        let id := s.sd t 104 2
        let f := s.future id
        if id = 0 ∨ s.sd t 1 1 ≠ 2 ∨ f.state = .free ∨ f.parked.isSome then .trap (wordTrap 4 i)
        else
          let q := s.fwaitRec
          let die := dieOf s.core
          let s1 := if f.state = .pending then s.setFuture id { f with parked := some (q, die) } else s.pushParked id t q die
          .left (s1.markS.endCtx s.key false)

/-! ### The prefix index -/

/-- One step of the hash chain (R217). -/
def mixStep (h : Word) (id : BitVec 32) : Word :=
  let x := (h ^^^ id.zeroExtend 64) * 0xA24BAED4963EE407
  x ^^^ (x >>> 29)

/-- mix (R217). -/
def mix (h : Word) (ids : List (BitVec 32)) : Word :=
  let x := (ids.foldl mixStep h) * 0xD6E8FEB86659FD93
  x ^^^ (x >>> 32)

/-- 4-byte ids from bytes. -/
def idsOf : List Byte → List (BitVec 32)
  | a :: b :: c :: d :: r => BitVec.ofNat 32 (leNat [a, b, c, d]) :: idsOf r
  | _ => []

/-- A prefix index entry. -/
def State.pxAt (s : State) (i : Nat) : Prefix := mgetD s.index i Prefix.reset

/-- The package with an index entry replaced. -/
def State.setPx (s : State) (i : Nat) (e : Prefix) : State := { s with index := mput s.index i e }

/-- The lowest entry that satisfies `f`: where several are alike, R219 does not say which is compared (log entry 108). -/
def State.pxFind (s : State) (f : Prefix → Bool) : Option Nat := (List.range 64).find? fun i => f (s.pxAt i)

/-- A valid entry of this hash, vocabulary and address space (R219). -/
def pxMatch (hash : Word) (slot asid : Nat) (e : Prefix) : Bool :=
  e.valid && e.hash == hash && e.vocab == slot && e.asid == asid

/-- A block's reference count rises (R221); `d` is its header's location. -/
def State.refUp (s : State) (d : Nat) : State :=
  let v := s.mem.readLE (d + 64) 2
  if v % 4096 = 4095 then
    if v / 32768 = 1 then s else (s.memWrite (d + 64) (leBytes (v + 32768) 2)).count 0x118 1
  else s.memWrite (d + 64) (leBytes (v + 1) 2)

/-- A block's reference count falls (R221): to zero, the block goes on the free-block list. -/
def State.refDown (s : State) (d : Nat) (block : Word) : State :=
  let v := s.mem.readLE (d + 64) 2
  if v / 32768 = 1 then s
  else if v % 4096 = 0 then s.count 0x120 1
  else
    let s1 := s.memWrite (d + 64) (leBytes (v - 1) 2)
    if v % 4096 = 1 then { s1 with freeBlocks := s1.freeBlocks ++ [block] } else s1

/-- A prefix request block (R327). -/
structure PxReq where
  toks : Word
  n : Nat
  slot : Nat
  arr : Word
deriving DecidableEq, Repr

/-- A prefix word's request block: alignment, translation, reserved bytes, limits, the alignment of what it names. -/
def State.onPx (s : State) (i : Instr) (va : Word) (limit : Nat) (uses : Bool) (k : State → Hub → PxReq → Body) : Body :=
  match precheck s.core va 32 8 .none 0 with
  | some t => .trap t
  | none => s.onHub va fun h => Eng.body (s.hubRead h va 32) fun s bs =>
      let f (o n : Nat) : Nat := leNat ((bs.drop o).take n)
      let r : PxReq := ⟨BitVec.ofNat 64 (f 0 8), f 8 4, f 12 1 % 8, BitVec.ofNat 64 (f 16 8)⟩
      if limit < r.n ∨ f 13 3 ≠ 0 ∨ f 24 8 ≠ 0 ∨ (uses = true ∧ (8 ≤ f 12 1 ∨ s.resident r.slot = false)) then
        .trap (wordTrap 4 i)
      else if uses = true ∧ r.toks.toNat % 4 ≠ 0 then .trap ⟨10, r.toks, 0⟩
      else if r.arr.toNat % 8 ≠ 0 then .trap ⟨10, r.arr, 0⟩
      else k s h r

/-- The ids of block `i` of a request's token array. -/
def State.pxIds (s : State) (h : Hub) (r : PxReq) (i : Nat) : State × Eng (List (BitVec 32)) :=
  Eng.andThen (s.hubRead h (r.toks + BitVec.ofNat 64 (64 * i)) 64) fun s bs => (s, .ok (idsOf bs))

/-- The matched blocks among the next ones from block `i` on (R219): entry number, header location; and the collisions met. A header
is read to compare its ids, and written only where they match. -/
def State.pxScan (h : Hub) (r : PxReq) : Nat → State → Nat → Word → List (Nat × Nat) → State × Eng (List (Nat × Nat))
  | 0, s, _, _, acc => (s, .ok acc)
  | fuel + 1, s, i, hash, acc =>
    Eng.andThen (s.pxIds h r i) fun s ids =>
      let hash := mix hash ids
      match s.pxFind (pxMatch hash r.slot h.asid) with
      | none => (s, .ok acc)
      | some e =>
        Eng.andThen (s.hubRead h (s.pxAt e).block 64) fun s bs =>
          if idsOf bs = ids then
            Eng.andThen (s.hubLoc h (s.pxAt e).block 128 .write) fun s d => State.pxScan h r fuel s (i + 1) hash (acc ++ [(e, d)])
          else (s.count 0x110 1, .ok acc)

/-- The seed of a vocabulary's hash chain (R208). -/
def State.seed (s : State) (slot : Nat) : Word := s.cfg64 (vocOff slot + 80)

/-- PXLOOK (R219, R327). -/
def execPxlook (p : Dep) (d a : SReg) (s : State) : Res :=
  let i := Instr.pxlook p d a
  tWord i p [a] (fun _ => false)
    (fun s => s.onPx i (s.ctx.reg a) (2 ^ 20) true fun s h r =>
      Eng.body (State.pxScan h r (r.n / 16) s 0 (s.seed r.slot) []) fun s ms =>
        let puts := ms.mapIdx fun j (m : Nat × Nat) => spread (r.arr + BitVec.ofNat 64 (8 * j)) (b8 (s.pxAt m.1).block)
        Eng.body (s.hubPuts h puts.flatten) fun s _ =>
          let st := s.stamp + 1
          let s1 := ms.foldl (fun s m =>
            let e := s.pxAt m.1
            let s := if e.pins = 65535 then s.count 0x120 1 else s
            (s.setPx m.1 { e with pins := Nat.min 65535 (e.pins + 1), stamp := st }).refUp m.2) { s with stamp := st }
          .done (s1.landSerial i p d (BitVec.ofNat 64 ms.length)) s1.pc4) s

/-- The header of a block is written: its ids, vocabulary and hash (R216, R220). -/
def State.pxHeader (s : State) (d slot : Nat) (hash : Word) (ids : List (BitVec 32)) : State :=
  ((s.memWrite d (ids.flatMap fun v => leBytes v.toNat 4)).memWrite (d + 66) [BitVec.ofNat 8 slot]).memWrite (d + 72) (b8 hash)

/-- The lowest valid environment of an address space (R220: an evicted entry's block). -/
def State.hubOfAsid (s : State) (asid : Nat) : Option Hub :=
  (List.range 4096).findSome? fun n => (s.hubOf n []).filter fun h => h.asid == asid

/-- An entry is evicted: its block loses the index's reference (R220), where its address space still has an environment; a
fault is precise at the word (R315). -/
def State.pxEvict (s : State) (h : Hub) (e : Prefix) : State × Eng Unit :=
  match (if e.asid = h.asid then some h else s.hubOfAsid e.asid) with
  | none => (s.count 0x120 1, .ok ())
  | some g => Eng.andThen (s.hubLoc g e.block 128 .write) fun s d => (s.refDown d e.block, .ok ())

/-- Where a new entry goes: a free one, else the unpinned one with the oldest stamp, the lowest of equals (R220). -/
def State.pxPlace (s : State) : Option (Nat × Bool) :=
  match s.pxFind fun e => !e.valid with
  | some i => some (i, false)
  | none =>
    ((List.range 64).filter fun i => (s.pxAt i).pins == 0).foldl (fun best i => match best with
      | none => some (i, true)
      | some (j, b) => if (s.pxAt i).stamp < (s.pxAt j).stamp then some (i, true) else some (j, b)) none

/-- A verified entry for the hash among those listed (R220): its block's header holds the same ids. -/
def State.pxVerified (h : Hub) (ids : List (BitVec 32)) : List Nat → State → State × Eng (Option Nat)
  | [], s => (s, .ok none)
  | e :: r, s =>
    Eng.andThen (s.hubRead h (s.pxAt e).block 64) fun s bs =>
      if idsOf bs = ids then (s, .ok (some e)) else State.pxVerified h ids r s

/-- The blocks of a PXINS in order: header location, block address, hash, ids; `n` counts what has been inserted. -/
def State.pxInsert (h : Hub) (slot st : Nat) : List (Nat × Word × Word × List (BitVec 32)) → State → Nat → State × Eng Nat
  | [], s, n => (s, .ok n)
  | (d, block, hash, ids) :: r, s, n =>
    let s1 := s.pxHeader d slot hash ids
    Eng.andThen (State.pxVerified h ids ((List.range 64).filter fun i => pxMatch hash slot h.asid (s1.pxAt i)) s1) fun s old =>
      match old with
      | some e => State.pxInsert h slot st r (s.setPx e { s.pxAt e with stamp := st }) (n + 1)
      | none =>
        match s.pxPlace with
        | none => (s, .ok n)
        | some (e, evict) =>
          Eng.andThen (if evict then s.pxEvict h (s.pxAt e) else (s, .ok ())) fun s _ =>
            let x : Prefix := { valid := true, hash := hash, vocab := slot, asid := h.asid, block := block, pins := 0, stamp := st }
            let s1 := s.setPx e x
            State.pxInsert h slot st r (s1.refUp d) (n + 1)

/-- The blocks that a PXINS names, translated before any effect (R315, R327). -/
def State.pxBlocks (h : Hub) (r : PxReq) : Nat → State → Nat → Word → List (Nat × Word × Word × List (BitVec 32)) →
    State × Eng (Option (List (Nat × Word × Word × List (BitVec 32))))
  | 0, s, _, _, acc => (s, .ok (some acc))
  | fuel + 1, s, i, hash, acc =>
    Eng.andThen (s.pxIds h r i) fun s ids =>
      Eng.andThen (s.hubRead h (r.arr + BitVec.ofNat 64 (8 * i)) 8) fun s bs =>
        let block := BitVec.ofNat 64 (leNat bs)
        if block.toNat % 65536 ≠ 0 then (s, .ok none)
        else
          Eng.andThen (s.hubLoc h block 128 .write) fun s d =>
            let hash := mix hash ids
            State.pxBlocks h r fuel s (i + 1) hash (acc ++ [(d, block, hash, ids)])

/-- PXINS (R220, R327). -/
def execPxins (p : Dep) (d a : SReg) (s : State) : Res :=
  let i := Instr.pxins p d a
  tWord i p [a] (fun _ => false)
    (fun s => s.onPx i (s.ctx.reg a) (2 ^ 20) true fun s h r =>
      Eng.body (State.pxBlocks h r (r.n / 16) s 0 (s.seed r.slot) []) fun s x =>
        match x with
        | none => .trap (wordTrap 4 i)
        | some bs =>
          let st := s.stamp + 1
          Eng.body (State.pxInsert h r.slot st bs { s with stamp := st } 0) fun s n =>
            .done (s.landSerial i p d (BitVec.ofNat 64 n)) s.pc4) s

/-- The entries that PXREL's addresses name (R327), with the blocks' header locations; a miss is counted. -/
def State.pxNamed (h : Hub) (arr : Word) : Nat → State → Nat → List (Nat × Nat) → State × Eng (List (Nat × Nat))
  | 0, s, _, acc => (s, .ok acc)
  | n + 1, s, i, acc =>
    Eng.andThen (s.hubRead h (arr + BitVec.ofNat 64 (8 * i)) 8) fun s bs =>
      let block := BitVec.ofNat 64 (leNat bs)
      match s.pxFind fun e => e.valid && e.asid == h.asid && e.block == block with
      | none => State.pxNamed h arr n (s.count 0x120 1) (i + 1) acc
      | some e =>
        Eng.andThen (s.hubLoc h block 128 .write) fun s d => State.pxNamed h arr n s (i + 1) (acc ++ [(e, d)])

/-- PXREL (R220, R327). -/
def execPxrel (p : Dep) (d a : SReg) (s : State) : Res :=
  let i := Instr.pxrel p d a
  tWord i p [a] (fun _ => false)
    (fun s => s.onPx i (s.ctx.reg a) 64 false fun s h r =>
      Eng.body (State.pxNamed h r.arr r.n s 0 []) fun s ms =>
        let s1 := ms.foldl (fun s m =>
          let e := s.pxAt m.1
          let s := if e.pins = 0 then s.count 0x120 1 else s
          (s.setPx m.1 { e with pins := e.pins - 1 }).refDown m.2 e.block) s
        .done (s1.landSerial i p d (BitVec.ofNat 64 ms.length)) s1.pc4) s

end Sys2Proof.Machine
end

