-- ==== Sys2Proof/Machine/Relay.lean ====
section
/-! DEFINITION. The relay (R193 to R201): channels, descriptor writes, sends and arrivals, permits, status. -/

namespace Sys2Proof.Machine

/-- The sending and the receiving die of a channel (R193). -/
def chanDies (ch : Nat) : Nat × Nat :=
  let a := 2 + ch / 64
  let f := ch / 64
  if ch % 64 < 32 then (a, f) else (f, a)

/-! ### Descriptor writes -/

/-- A descriptor that a write may leave enabled (R194). -/
def chanBad (ch : Nat) (d0 d1 : Word) : Bool :=
  let slots := wfld d0 22 4
  let size := wfld d0 32 15
  let dies := chanDies ch
  decide (numCores ≤ wfld d0 0 11) || decide (numCores ≤ wfld d0 11 11) ||
  decide (dieOf (wfld d0 0 11) ≠ dies.1) || decide (dieOf (wfld d0 11 11) ≠ dies.2) ||
  decide (slots = 0) || decide (8 < slots) || decide (size = 0) || decide (16384 < size) ||
  decide (wfld d1 0 19 % 16 ≠ 0) || decide (524288 < wfld d1 0 19 + 16 * size * slots) ||
  (decide (wfld d1 19 2 = 2) && decide (wfld d1 27 16 = 0))

/-- Reserved bits or an invalid arrival kind (R194). -/
def chanReserved (d0 d1 : Word) : Bool :=
  decide (wfld d0 27 5 ≠ 0) || decide (wfld d0 47 16 ≠ 0) || decide (wfld d1 43 21 ≠ 0) || decide (wfld d1 19 2 = 3)

/-- The bits of a descriptor word that a write sets; bit 63 is err. -/
def chanKeep : Word := 0x7FFFFFFFFFFFFFFF

/-- RELAY_DESCRIPTOR_WRITE, RELAY_CHANNEL_ENABLE and RELAY_CHANNEL_DISABLE (R194, R195): one write of a descriptor word. -/
def State.chanWrite (s : State) (ch : Nat) (hi : Bool) (v : Word) : State :=
  let c := s.channel ch
  let old0 := c.d0 &&& chanKeep
  let d0 := if hi then old0 else v &&& chanKeep
  let d1 := if hi then v else c.d1
  let en := wbit d0 26
  let refused := chanReserved d0 d1 ||
    (en && (chanBad ch d0 d1 || (c.en && (decide (d0 ≠ old0) || decide (d1 ≠ c.d1)))))
  if refused then s.setChannel ch { c with d0 := c.d0 ||| ~~~chanKeep }
  else
    let err := if !hi && wbit v 63 then 0 else c.d0 &&& ~~~chanKeep
    let c1 := { c with d0 := d0 ||| err, d1 := d1 }
    if en && !c.en then
      s.setChannel ch { c1 with permits := wfld d0 22 4, backN := 0, held := 0, next := 0, seq := 0 }
    else if !en && c.en then
      let outs := c.sends.filter fun x => x.slot.isNone
      let old := c.sends.filter fun x => x.slot.isSome
      s.setChannel ch { c1 with
        permits := 0, backN := 0, held := 0, next := 0, seq := 0,
        sends := old ++ outs.mapIdx fun i x => { x with slot := some ((c.next + i) % Nat.max 1 c.slots) },
        returns := c.returns.map fun r => (r.1, r.2.1, r.2.2.1, false) }
    else s.setChannel ch c1

/-! ### Completion of a word whose context may be in a save area -/

/-- What a relay word's completion changes of a context (R19, R28). -/
def Ctx.relayEnd (c : Ctx) (id : Nat) : Ctx :=
  match c.pendOf id with
  | none => c
  | some p => ((c.dropPend id).decCtr .cc).complete .c id p.push

/-- The same of a context in a save area (R386): the counts in the area's bytes change, and pushes keep their station's order. -/
def State.relayEndSaved (s : State) (loc id : Nat) (sv : Saved) : State :=
  let cnt := s.mem.readLE (loc + 0x318) 8
  let tok := s.mem.readLE (loc + 0x320) 8
  let c := ({ Ctx.reset with
    cc := bitsOf cnt 12 6, toks := Vector.ofFn fun i => bitsOf tok (4 * i.val) 4, pend := sv.remote ++ sv.replay,
    stores := sv.stores, owed := sv.owed, done := sv.done } : Ctx).relayEnd id
  let m := (s.mem.writeLE (loc + 0x318) 8 (cnt - 4096 * bitsOf cnt 12 6 + 4096 * c.cc)).writeLE (loc + 0x320) 8 c.tokWord.toNat
  let sv1 : Saved := { sv with remote := sv.remote.filter fun q => q.id != id, owed := c.owed, done := c.done }
  { s with mem := m, saved := mput s.saved loc sv1 }

/-- A relay word of a context completes (R198, R199): cc falls and its tokens are pushed, in the context and, where its state has
been saved, in its save area (R386). -/
def State.relayDone (s : State) (uid id : Nat) : State :=
  let s1 := match s.berthOf uid with
    | some k => s.updCtx k fun c => c.relayEnd id
    | none => s
  match s1.saved.find? fun x => x.2.uid == uid && x.2.remote.any fun p => p.id == id with
  | none => s1
  | some (loc, sv) => s1.relayEndSaved loc id sv

/-! ### RSEND -/

/-- A send leaves for the other die (R197, R198): it takes a permit, and holds its source banks until it arrives (R105). -/
def State.rsendGo (s : State) (e : QEntry) : State :=
  let ch := chanOf s.core e.rsChan true
  let c := s.channel ch
  let t := s.delay
  let send : RelaySend :=
    { ctx := s.ctx.uid, id := e.id, src := (e.rsAcc s.core).loc, len := e.rsLen, slot := none, d0 := c.d0, d1 := c.d1 }
  let s1 := t.2.setChannel ch { c with permits := c.permits - 1, sends := c.sends ++ [send], sender := some s.ctx.uid }
  let w : Ctx := { s1.ctx with cact := none, block := if s1.ctx.block = .rsend then .none else s1.ctx.block }
  let s2 := s1.withCtx (if s1.ctx.block = .rsend then { w with readyAt := s1.now } else w)
  (s2.lockBanks (sendHolder ch) (banksOf [e.rsAcc s.core])).at_ (s.now + 1 + t.1) (.relayArrival ch)

/-- An RSEND starts at C (R197): its trap, or its send. -/
def execRsend (p : Dep) (a b : SReg) (s : State) : Res :=
  let i := Instr.rsend p a b
  match s.turn with
  | .sched => fWord s (forward i p)
  | _ =>
    match s.ctx.cact with
    | none => .fault .noCommand
    | some e =>
      match s.rsendCheck s.core i e with
      | some t => .next (s.startTrap s.key .c e t)
      | none => .next { s.rsendGo e with turn := .sched }

/-- RELAY_ARRIVAL (R198): the oldest send's bytes go into its slot, the counts move, the arrival is posted, the RSEND
completes, and its source is unlocked. A bank of the receiver that another command than a send has locked makes it wait
(R105, log entry 99). -/
def State.relayArrive (s : State) (ch : Nat) : State :=
  let c := s.channel ch
  match c.sends with
  | [] => s
  | x :: rest =>
    let size := wfld x.d0 32 15
    let slots := wfld x.d0 22 4
    let recv := wfld x.d0 11 11
    let slot := x.slot.getD c.next
    let off := wfld x.d1 0 19 + 16 * size * slot
    let dst : Acc := ⟨0, spadLoc recv off, x.len, 0, false⟩
    if s.arrivalLocked recv [dst] then s.at_ (s.now + 1) (.relayArrival ch)
    else
      let s0 := match s.berthOf x.ctx with | some k => s.scrubFor k x.id x.src x.len | none => s.scrub [] x.src x.len
      let s1 := s0.memWrite dst.loc (s0.mem.readBytes x.src x.len)
      let c1 := if x.slot.isSome then { c with sends := rest }
        else { c with sends := rest, next := (c.next + 1) % Nat.max 1 slots, held := c.held + 1, seq := c.seq + 1 }
      let s2 := s1.setChannel ch c1
      let s3 := s2.bandArrive recv (wfld x.d1 19 2) (wfld x.d1 21 6) (wfld x.d1 27 16) off x.len
      (s3.unlockSend (sendHolder ch) (banksOf [⟨0, x.src, x.len, 0, false⟩])).relayDone x.ctx x.id

/-! ### RPERMIT and RSTAT -/

/-- RPERMIT at C (R199). -/
def execRpermit (p : Dep) (a b : SReg) (s : State) : Res :=
  let i := Instr.rpermit p a b
  match s.turn with
  | .sched => fWord s (forward i p)
  | _ =>
    match s.ctx.cact with
    | none => .fault .noCommand
    | some e =>
      let n := e.x.toNat
      let ch := chanOf s.core n false
      let c := s.channel ch
      let count := e.y.toNat
      if 32 ≤ n ∨ !c.en ∨ c.receiverCore ≠ s.core ∨ count = 0 ∨ 8 < count ∨ c.held < count then
        .next (s.startTrap s.key .c e (wordTrap 4 i))
      else
        let t := s.delay
        let s1 := t.2.setChannel ch { c with
          held := c.held - count, returns := c.returns ++ [(s.ctx.uid, e.id, count, true)], receiver := some s.ctx.uid }
        .next { (s1.withCtx { s1.ctx with cact := none }).at_ (s.now + 1 + t.1) (.permitReturn ch) with turn := .sched }

/-- PERMIT_RETURN (R199): the permits reach the sender, unless the channel was disabled meanwhile (R195). -/
def State.permitBack (s : State) (ch : Nat) : State :=
  let c := s.channel ch
  match c.returns with
  | [] => s
  | (uid, id, n, valid) :: rest =>
    let back := if valid then n + (if c.backAt = s.now then c.backN else 0) else c.backN
    let s1 := (s.setChannel ch { c with
      returns := rest, permits := if valid then c.permits + n else c.permits,
      backAt := if valid then s.now else c.backAt, backN := back }).relayDone uid id
    if valid then s1.coreEvent c.senderCore else s1

/-- The first return of permits due on a channel is made now. -/
def State.permitNow (s : State) (ch : Nat) : State :=
  ({ s with agenda := s.agenda.eraseP fun x => x.2 == .permitReturn ch } : State).permitBack ch

/-- A halt completes the RPERMITs in flight of a context (R313), those before them on their channels first. -/
def State.permitsHalt (s : State) (uid : Nat) : State :=
  s.channels.foldl (fun s x =>
    let n := (x.2.returns.reverse.dropWhile fun r => r.1 != uid).length
    (List.range n).foldl (fun s _ => s.permitNow x.1) s) s

/-- An RSEND of a core waits for a permit on a channel (R200). -/
def State.rsendWaits (s : State) (core ch : Nat) : Bool :=
  (List.range 4).any fun b => (s.rsendWait (4 * core + b)).any fun x => x.1 == ch

/-- The status of a channel as a core reads it (R200). -/
def State.chanStatus (s : State) (core ch : Nat) (inbound : Bool) : Word :=
  let c := s.channel ch
  if (if inbound then c.receiverCore else c.senderCore) ≠ core then 0
  else
    let count := if inbound then c.held else c.permits
    let wait := !inbound && s.rsendWaits core ch
    BitVec.ofNat 64 (count + 16 * wait.toNat + (if inbound then 32 * c.next else 0) + 256 * c.slots + 4096 * c.en.toNat +
      65536 * c.seq.toNat)

/-- RSTAT at C (R200). -/
def execRstat (p : Dep) (a b : SReg) (s : State) : Res :=
  let i := Instr.rstat p a b
  match s.turn with
  | .sched => fWord s (forward i p)
  | _ =>
    match s.ctx.cact with
    | none => .fault .noCommand
    | some e =>
      let n := e.x.toNat
      let inbound := e.y.toNat == 1
      let ch := chanOf s.core n (!inbound)
      if 32 ≤ n ∨ 1 < e.y.toNat then .next (s.startTrap s.key .c e (wordTrap 4 i))
      else
        let v := s.chanStatus s.core ch inbound
        let t := s.delay
        let s1 := if inbound ∧ (s.channel ch).receiverCore = s.core then
            t.2.setChannel ch { s.channel ch with receiver := some s.ctx.uid }
          else t.2
        .next { s1.withCtx { s1.ctx with
          cact := none,
          pend := s1.ctx.pend.map fun q => if q.id == e.id then
            { q with due := some (s1.now + 1 + t.1), wr := [.s a v] } else q } with turn := .sched }

end Sys2Proof.Machine
end

