-- ==== Sys2Proof/Machine/System.lean ====
section
/-! DEFINITION. Identity, CSRs, capabilities, context save and restore, translation control, returns and traps: the words of
R237 to R239 and R328 to R332, asynchronous traps (R380, R384) and pre-emption (R385). -/

namespace Sys2Proof.Machine

/-! ### Identity and CSRs -/

/-- The value of GETID's field (R237). -/
def State.ident (s : State) (f : Nat) : Word :=
  match f with
  | 0 => BitVec.ofNat 64 s.core
  | 1 => BitVec.ofNat 64 (dieOf s.core)
  | 2 => BitVec.ofNat 64 (clusterOf s.core)
  | 3 => BitVec.ofNat 64 (s.key % 4)
  | 4 => s.ctx.thread
  | 5 => s.ctx.team
  | 6 => s.ctx.first
  | _ => s.ctx.count

/-- GETID (R237). -/
def execGetid (p : Dep) (d : SReg) (f : BitVec 3) (s : State) : Res :=
  sAlu (.getid p d f) p d [] 1 (fun s => (s.ident f.toNat, 0)) s

/-- alloc (R21): A, G and the berth. -/
def State.allocWord (s : State) : Word := BitVec.ofNat 64 (s.ctx.rows + 32 * s.ctx.gran + 2048 * (s.key % 4))

/-- The head asynchronous fault record's doubleword `i`, zero when there is none (R381). -/
def Ctx.afrWord (c : Ctx) (i : Nat) : Word :=
  match c.afr with
  | [] => 0
  | r :: _ => match i with | 0 => r.w0 | 1 => r.w1 | 2 => r.w2 | _ => r.w3

/-- The value of a CSR; none for a number that no table lists (R21, R381). -/
def State.csr (s : State) (n : Nat) : Option Word :=
  let c := s.ctx
  match n with
  | 0x00 => some c.fpsr
  | 0x01 => some (c.vt.zeroExtend 64)
  | 0x02 => some c.cnt0
  | 0x03 => some c.tok0
  | 0x04 => some (c.portStatus true)
  | 0x05 => some s.allocWord
  | 0x06 => some c.sbindWord
  | 0x08 => some (BitVec.ofNat 64 s.now)
  | 0x09 => some c.retired
  | 0x10 => some c.ctlWord
  | 0x80 => some c.tvec
  | 0x81 => some c.epc
  | 0x82 => some c.cause
  | 0x83 => some c.tval
  | 0x84 => some c.tinfo
  | 0x85 => some c.scr0
  | 0x86 => some c.scr1
  | 0x88 => some c.root
  | 0x89 => some c.asid
  | 0x8A => some (c.afrWord 0)
  | 0x8B => some (c.afrWord 1)
  | 0x8C => some (c.afrWord 2)
  | 0x8D => some (c.afrWord 3)
  | 0x8E => some 0
  | 0x90 => some 0
  | 0x91 => some c.derr
  | 0x92 => some c.capsign
  | _ => none

/-- What an RDCSR reads that can be pending (R24, R238). -/
def csrReads (n : Nat) : List Dst := if n = 0 then [.fpsr] else if n = 1 then [.vt] else []

/-- RDCSR (R238): the privileged range from unprivileged code, then a missing number, then an early read. -/
def execRdcsr (p : Dep) (d : SReg) (n : BitVec 8) (s : State) : Res :=
  let i := Instr.rdcsr p d n
  sWord i p false s fun s =>
    if 0x80 ≤ n.toNat ∧ s.ctx.priv = false then .trap (wordTrap 2 i)
    else
      match s.csr n.toNat with
      | none => .trap (wordTrap 1 i)
      | some v =>
        match s.ctx.early s.ctx.nextId (csrReads n.toNat) with
        | some e => .trap (earlyTrap e)
        | none => .done (s.landS i p d v 0 1) s.pc4

/-- The CSRs that a WRCSR may write: fpsr by any code, the others by privileged code (R239, R381). -/
def csrWritable (n : Nat) (priv : Bool) : Bool :=
  n == 0 || (priv && [0x10, 0x80, 0x81, 0x85, 0x86, 0x88, 0x89, 0x8E, 0x90, 0x91, 0x92].contains n)

/-- What capsign reads back after a write, under the keys of reset `n` (R17, R381). -/
def capSigned (n : Nat) (v : Word) : Word :=
  if wfld v 52 4 ≠ 1 ∨ 160 ≤ capObj v ∨ wbit v 31 ∨ wfld v 36 4 ≠ 0 ∨ wfld v 56 8 ≠ 0 then 0
  else (v &&& ~~~0xFFFF#64) ||| (Config.capCheck n (capObj v) (v.extractLsb' 16 48)).zeroExtend 64

/-- CAPSIGN_WRITE (R381). -/
def State.capsignWrite (s : State) (k : Nat) (v : Word) : State :=
  s.updCtx k fun c => { c with capsign := capSigned s.resets v }

/-- CTL_WRITE (R381, R386): erc takes the value, saved clears: the context goes on with its commands, and no area has them. -/
def State.ctlWrite (s : State) (k : Nat) (v : Word) : State :=
  let s1 : State := match s.ctxAt k with
    | some c => if c.saved then { s with saved := s.saved.filter fun x => x.2.uid != c.uid } else s
    | none => s
  s1.updCtx k fun c => { c with erc := wbit v 0, saved := false }

/-- The head record leaves, and one that waited takes a place (R384). -/
def Ctx.popAfr (c : Ctx) : Ctx :=
  { c with afr := c.afr.drop 1 ++ c.afrWait.take 1, afrWait := c.afrWait.drop 1 }

/-- AFPOP_KEEP (R373): the head record is discarded; its held access is performed again at the ERET. -/
def State.afpopKeep (s : State) (k : Nat) : State := s.updCtx k Ctx.popAfr

/-- A held access is dropped (R373): no memory access, its destination keeps its old value, its counter falls, its tokens
are pushed. -/
def Ctx.dropHeld (c : Ctx) (id : Nat) : Ctx :=
  match c.pend.find? fun p => p.id == id && p.late with
  | some p => ((c.dropPend id).decCtr? p.ctr).complete p.st id p.push
  | none =>
    match c.stores.find? fun p => p.id == id && p.late with
    | some p => ((({ c with stores := c.stores.filter fun q => q.id != id } : Ctx).decCtr .sc).complete p.st id p.push)
    | none => c

/-- AFPOP_DROP (R373). -/
def State.afpopDrop (s : State) (k : Nat) : State :=
  s.updCtx k fun c =>
    match (c.afr.head?).bind Afr.held with
    | some id => (c.popAfr).dropHeld id
    | none => c.popAfr

/-- The pre-emption bound in cycles (R2). -/
def preemptBound : Nat := 360

/-- The berths that a request names (R385): none when it is discarded. -/
def preqTargets (v : Word) : List Nat :=
  let first := wfld v 0 11
  let n := wfld v 11 11
  let mask := wfld v 22 4
  if n = 0 ∨ numCores < first + n ∨ wfld v 26 38 ≠ 0 then []
  else (List.range n).flatMap fun i =>
    ((List.range 4).filter fun b => mask / 2 ^ b % 2 == 1).map fun b => 4 * (first + i) + b

/-- PREEMPTION_REQUEST (R385): each targeted context halts within the bound. -/
def State.preemptRequest (s : State) (core : Nat) (v : Word) : State :=
  (preqTargets v).foldl (fun s k =>
    if (s.ctxAt k).isSome then
      let t := s.delay
      t.2.at_ (s.now + 1 + Nat.min t.1 (preemptBound - 2)) (.preemptionHalt k core)
    else s) s

/-- A CSR write's value that lands with latency 1 (R239). -/
def State.csrWr (s : State) (n : Nat) (v : Word) : List Wr :=
  if n = 0 then [.fpsr v]
  else if n = 0x92 then [.csr n (capSigned s.resets v)]
  else if n = 0x10 ∨ n = 0x8E ∨ n = 0x90 then []
  else [.csr n v]

/-- What a CSR write does beside its value (R373, R381, R385). -/
def State.csrAct (s : State) (n : Nat) (v : Word) : State :=
  match n with
  | 0x10 => s.ctlWrite s.key v
  | 0x8E => if wbit v 0 then s.afpopDrop s.key else s.afpopKeep s.key
  | 0x90 => s.preemptRequest s.core v
  | _ => s

/-- WRCSR (R239, R381). -/
def execWrcsr (p : Dep) (a : SReg) (n : BitVec 8) (s : State) : Res :=
  let i := Instr.wrcsr p a n
  sWord i p false s fun s =>
    if 0x80 ≤ n.toNat ∧ s.ctx.priv = false then .trap (wordTrap 2 i)
    else if csrWritable n.toNat s.ctx.priv = false then .trap (wordTrap 1 i)
    else
      match s.earlyS [a] with
      | some e => .trap (earlyTrap e)
      | none =>
        let v := s.ctx.reg a
        let s1 := s.csrAct n.toNat v
        let q := { Pend.mk0 s1.ctx.nextId .s s1.ctx.pc with
          word := some i, due := some (s1.now + 1), fixed := true, dsts := if n = 0 then [.fpsr] else [],
          wr := s.csrWr n.toNat v, push := pushesOf .s p }
        .done (s1.withCtx { s1.ctx with pend := s1.ctx.pend ++ [q] }) s1.pc4

/-! ### Privileged words -/

/-- CAPLD (R328). -/
def execCapld (p : Dep) (a : SReg) (n : BitVec 3) (s : State) : Res :=
  sWord (.capld p a n) p true s fun s =>
    match s.earlyS [a] with
    | some e => .trap (earlyTrap e)
    | none => doneS (s.withCtx (s.ctx.setCap n (s.ctx.reg a))) p

/-- CAPCLR (R328). -/
def execCapclr (p : Dep) (n : BitVec 3) (s : State) : Res :=
  sWord (.capclr p n) p true s fun s => doneS (s.withCtx (s.ctx.setCap n 0)) p

/-- The engine words of a berth at its halt (R313): its permits in flight and the commands with their whole effect complete;
a running MMAC, MDRAIN, MFILL, COPY or CFILL is suspended at its chunk, row or granule, without a record. -/
def State.haltEngines (s : State) (k : Nat) : State :=
  match s.ctxAt k with
  | none => s
  | some c =>
    let s1 := ((s.engines.map Prod.fst).foldl (fun s en => s.matHalt en k) (s.permitsHalt c.uid)).updCtx k Ctx.suspendMin
    let core := s1.coreAt (k / 4)
    if core.copying ≠ some k then s1
    else if core.copyAt.isNone then c.cact.elim s1 fun e =>
      { s1 with agenda := s1.agenda.eraseP fun x => x.2 == Instr.copyComplete k e.id }.copyDone k e.id
    else (s1.updCtx k fun c => { c with cact := c.cact.map fun e => { e with susp := true } }).copyStops (k / 4)

/-- The engines' entries are bound to an area's location (R386); what an earlier save had bound there is gone with its locks. -/
def State.bindArea (s : State) (loc : Nat) (sv : Saved) : State :=
  let s1 := match mget s.saved loc with
    | some old => if old.uid = sv.uid then s else s.unlockIf (heldBy old.uid)
    | none => s
  { s1 with saved := mput s1.saved loc sv }

/-- The pages that an area of `g` granules of spill covers (R388). -/
def areaPageCount (g : Nat) : Nat := (0x5000 + 1024 * g + 4095) / 4096

/-- CSAVE (R329, R386): once the handler's own accesses have taken effect and the accepted commands that are never suspended have
completed (R313), the area is written and the engines' entries are bound to it. -/
def execCsave (p : Dep) (a : SReg) (s : State) : Res :=
  sWord (.csave p a) p true s fun s =>
    match s.earlyS [a] with
    | some e => .trap (earlyTrap e)
    | none =>
      let va := s.ctx.reg a
      if s.ctx.ldaWait || !s.sQuiet || (s.haltEngines s.key).ctx.mustFinish then .hold false false
      else
        s.accesses va 4096 4096 .write .none (areaPageCount s.ctx.gran) [] fun accs =>
          s.fresh .write accs fun s bs =>
            let pages := bs.map (·.loc)
            let s1 := s.haltEngines s.key
            let c := s1.ctx.record s1.now
            let s2 := s1.areaWrite pages { c with priv := false, saved := false } false c.epc
            let s3 := s2.bindArea (areaLoc pages 0) (c.toSaved s1.core)
            doneS (s3.withCtx { s3.ctx with saved := true }) p

/-- The executing context takes the area's state (R387): epc is the header's pc, the wait goes on at the ERET, the engines'
entries are bound to this context, and the area is no longer valid. -/
def State.restoreInto (s : State) (pages : List Nat) : State :=
  let sv := mget s.saved (areaLoc pages 0)
  let s0 := s.leaveAll s.ctx.uid
  let c := s0.ctx
  let r := s0.areaCtx pages c s0.core sv
  let c1 : Ctx := { r with
    pc := c.pc, priv := true, epc := s0.area64 pages 8, saved := false, block := .none,
    hid := some r.nextId }
  let s1 := s0.withCtx c1
  let s2 := s1.memWrite (areaLoc pages 6) [0]
  let s3 : State := { s2 with saved := mdel s2.saved (areaLoc pages 0), freeN := s2.freeN + if sv.isSome then 0 else areaFree }
  (s3.rebind s3.key).rewait s3.key

/-- CRESTORE (R387): alignment, the header, the allocation, then the load. -/
def execCrestore (p : Dep) (a : SReg) (s : State) : Res :=
  let i := Instr.crestore p a
  sWord i p true s fun s =>
    match s.earlyS [a] with
    | some e => .trap (earlyTrap e)
    | none =>
      let va := s.ctx.reg a
      if s.ctx.ldaWait || !(s.ctx.drained && s.ctx.lsQuiet) then .hold false false
      else
        s.access va 4096 4096 .write .none fun h =>
          s.fresh .write [h] fun s hs =>
            let hp := hs.map (·.loc)
            if !(s.areaValid hp && s.areaFits hp s.ctx) then .trap (wordTrap 4 i)
            else
              s.accesses va 4096 4096 .read .none (areaPageCount s.ctx.gran) [] fun accs =>
                s.fresh .read accs fun s bs =>
                  let pages := bs.map (·.loc)
                  if s.areaHeldOut pages then .hold false false
                  else
                    let s1 := (bs.foldl (fun s a => s.scrub [s.key] a.loc a.len) s).restoreInto pages
                    doneS s1 p

/-- Some berth of the cores that `f` names waits for a walk (R330). -/
def State.walking (s : State) (f : Nat → Bool) : Bool :=
  s.liveKeys.any fun k => f (k / 4) && match s.ctxAt k with
    | some c => (match c.block with | .walk .. => true | _ => false)
    | none => false

/-- TLBINV (R330). -/
def execTlbinv (p : Dep) (a : SReg) (s : State) : Res :=
  sWord (.tlbinv p a) p true s fun s =>
    match s.earlyS [a] with
    | some e => .trap (earlyTrap e)
    | none =>
      let va := (s.ctx.reg a).toNat
      if s.walking (· == s.core) then .hold false false
      else doneS (s.updCore s.core fun c => { c with tlb := c.tlb.filter fun t =>
        !(decide (t.base ≤ va) && decide (va < t.base + t.size)) }) p

/-- TLBFLUSH (R330): the hub's units keep no translation beyond one word. -/
def execTlbflush (p : Dep) (sc : Scope) (s : State) : Res :=
  sWord (.tlbflush p sc) p true s fun s =>
    if s.walking (inScope sc s.core) then .hold false false
    else
      let drop (c : Nat × Core) : Nat × Core := if inScope sc s.core c.1 then (c.1, { c.2 with tlb := [] }) else c
      doneS { s with cores := s.cores.map drop } p

/-- ERET (R331). -/
def execEret (p : Dep) (s : State) : Res :=
  sWord (.eret p) p true s fun s =>
    let s1 := s.completeS p
    let c := s1.ctx.eret s1.now
    .done (s1.withCtx c) c.pc

/-! ### Trap words -/

/-- TRAP (R332): it retires, then its handler is entered with the next word's address. -/
def execTrap (p : Dep) (c : BitVec 8) (s : State) : Res :=
  sWord (.trap p c) p false s fun s =>
    let s1 := ((s.completeS p).retire s.pc4).markS
    .left (s1.takeTrap s1.key ⟨16, c.zeroExtend 64, 0⟩ s1.ctx.pc)

/-- BREAK (R332): it does not retire. -/
def execBrk (p : Dep) (s : State) : Res := sWord (.brk p) p false s fun _ => .trap (trap0 17)

/-- The context waits for an event (R332). -/
def State.awaitEvent (s : State) (i : Instr) (p : Dep) : State :=
  let q := { Pend.mk0 s.ctx.nextId .s s.ctx.pc with word := some i, act := .remote, push := pushesOf .s p }
  s.withCtx { s.ctx with pend := s.ctx.pend ++ [q], block := .wfe, blockedAt := s.now }

/-- WFE (R332). -/
def execWfe (p : Dep) (s : State) : Res :=
  sWord (.wfe p) p false s fun s => .done (s.awaitEvent (.wfe p) p) s.pc4

/-! ### Asynchronous traps and pre-emption -/

/-- The program stands at an instruction boundary (R130, R332, R380): waits that go on are kept, a WFE ends, a word that S
still holds is executed again. -/
def Ctx.atBoundary (now : Nat) (c0 : Ctx) : Ctx :=
  let c := (c0.unfence).wfeEnd now
  let keep : Block := match c.block with
    | .landing id => .landing id
    | .vstart id => .vstart id
    | .cntwait id e t => .cntwait id e t
    | .gbar id h n ph => .gbar id h n ph
    | .halted => c.hwait
    | _ => .none
  { c with hwait := keep, block := .none }

/-- The asynchronous cause to take next: the lowest pending code (R380); none while a team swap holds the program halted. -/
def Ctx.asyncCause (c : Ctx) : Option Nat :=
  if c.priv || (c.block == .halted && c.preempt.isNone) then none
  else if c.afr.any fun r => wfld r.w0 4 8 != 19 then some 18
  else if c.afr.any fun r => wfld r.w0 4 8 == 19 then some 19
  else if c.preempt.isSome then some 20
  else none

/-- ASYNC_TRAP_ENTRY (R380): the pending cause is taken at the boundary. -/
def State.asyncTrap (s : State) (k : Nat) : State :=
  match s.ctxAt k with
  | none => s
  | some c =>
    match c.asyncCause with
    | none => s
    | some z =>
      let t : Trap := if z = 20 then ⟨20, c.preempt.getD 0, 0⟩ else ⟨z, 0, BitVec.ofNat 64 c.afr.length⟩
      let s1 := if z = 20 then s.haltEngines k else s
      (s1.updCtx k fun c =>
        let c1 := c.atBoundary s.now
        if z = 20 then { c1 with preempt := none } else c1).enter k t c.pc

/-- The halt of R385, steps 1 to 5. -/
def State.halt (s : State) (k : Nat) : State :=
  let s1 := (s.haltEngines k).updCtx k (Ctx.atBoundary s.now)
  (s1.drain k).updCtx k fun c => { c with block := .halted }

/-- PREEMPTION_HALT (R385): cause 20 becomes pending; a program outside its handler is halted. -/
def State.preemptHalt (s : State) (k core : Nat) : State :=
  match s.ctxAt k with
  | none => s
  | some c =>
    let s1 := s.putCtx k { c with preempt := some (BitVec.ofNat 64 core) }
    if c.priv then s1 else s1.halt k

end Sys2Proof.Machine
end

