-- ==== Sys2Proof/Machine/Launches.lean ====
section
/-! DEFINITION. Work from outside and time-slicing: wakes and launch slots (R123 to R126, R351 to R353), slice boundaries
(R129, R130), run-queue windows and packets (R354 to R358). -/

namespace Sys2Proof.Machine

/-- The package with configuration bytes written. -/
def State.cfgPut (s : State) (off : Nat) (bs : List Byte) : State := { s with cfg := s.cfg.writeBytes off bs }

/-! ### Wakes -/

/-- The configuration offset of a launch slot (R349, R352). -/
def slotOff (slot : Nat) : Nat := 0x1000 + 64 * slot

/-- A slot is busy (R352). -/
def State.slotBusy (s : State) (slot : Nat) : Bool := s.cfgLE (slotOff slot + 48) 1 % 2 == 1

/-- The largest number of contexts that fit an empty core (R126). -/
def capacity (rows gran scratch : Nat) : Nat :=
  if 4 * rows ≤ 64 ∧ 4 * gran ≤ 64 ∧ 4 * scratch ≤ 524288 then 4
  else if 3 * rows ≤ 64 ∧ 3 * gran ≤ 64 ∧ 3 * scratch ≤ 524288 then 3
  else if 2 * rows ≤ 64 ∧ 2 * gran ≤ 64 ∧ 2 * scratch ≤ 524288 then 2
  else 1

/-- The header checks of R119 on its 64 bytes: the code of the first that fails, or 0. -/
def headerCode (bs : List Byte) : Nat :=
  let f (o n : Nat) : Nat := leNat ((bs.drop o).take n)
  if f 0 4 ≠ 0x4B484E31 ∨ f 4 2 ≠ 1 then 1
  else if 16 < f 6 1 then 2
  else if 32 < f 7 1 then 3
  else if 524288 < f 8 4 then 4
  else if 8 ≤ f 12 1 ∨ f 13 3 ≠ 0 ∨ f 24 40 ≠ 0 then 5
  else if f 16 8 % 4 ≠ 0 then 6
  else 0

/-- The role check of R124 and R416 fails on a core. -/
def State.roleBad (s : State) (asid hdr core : Nat) : Bool :=
  match mget s.roles core with
  | none => true
  | some r => decide (r.asid ≠ asid) || decide (hdr < r.const.1) || decide (r.const.1 + r.const.2 < hdr + 64)

/-- A wake's bytes (R123), and the launch that its header describes. -/
structure Wake where
  hdr : Word
  args : Word
  first : Nat
  count : Nat
  threads : Nat
  status : Word
  save : Word
  env : Nat
  reserved : Bool
deriving DecidableEq, Repr

/-- The wake in a slot (R123). -/
def State.wakeOf (s : State) (slot : Nat) : Wake :=
  let f (o n : Nat) : Nat := s.cfgLE (slotOff slot + o) n
  { hdr := BitVec.ofNat 64 (f 0 8), args := BitVec.ofNat 64 (f 8 8), first := f 16 2, count := f 18 2, threads := f 20 4,
    status := BitVec.ofNat 64 (f 24 8), save := BitVec.ofNat 64 (f 32 8), env := f 40 2 % 4096,
    reserved := decide (f 40 2 / 4096 ≠ 0) || decide (f 42 6 ≠ 0) }

/-- The launch that an accepted wake makes (R119, R125, R126). -/
def State.launchOf (s : State) (slot : Nat) (w : Wake) (bs : List Byte) : Launch :=
  let f (o n : Nat) : Nat := leNat ((bs.drop o).take n)
  { id := s.nextLaunch, slot := BitVec.ofNat 3 slot, hdr := w.hdr, args := w.args, first := w.first, count := w.count,
    threads := w.threads, status := w.status, save := w.save, env := w.env, entry := BitVec.ofNat 64 (f 16 8),
    rows := roundRows (f 6 1), gran := f 7 1, scratch := f 8 4, prio := f 12 1,
    cap := capacity (roundRows (f 6 1)) (f 7 1) (f 8 4), fresh := 0, swapped := [], resident := [], ended := 0, bits := 0,
    gone := [], leaving := none, reported := false, again := none }

/-- What the checks of a wake find (R124): its code, the launch, or that an access is refused by its generation (R371). -/
inductive WakeFound where
  | code (n : Nat)
  | launch (l : Launch)
  | later
deriving DecidableEq, Repr

/-- The status code of what was found: 0 for a launch. -/
def WakeFound.status : WakeFound → Nat
  | .code n => n
  | _ => 0

/-- The checks of a wake in the order of R124. -/
def State.wakeCheck (s : State) (slot : Nat) (w : Wake) : State × WakeFound :=
  if w.count = 0 ∨ numCores < w.first + w.count ∨ w.reserved = true then (s, .code 7)
  else if (List.range w.count).any fun o => s.retiredCores.contains (w.first + o) then (s, .code 10)
  else if w.threads = 0 then (s, .code 8)
  else
    match s.env w.env with
    | none => (s, .code 11)
    | some e =>
      match s.hubRead { root := e.root.toNat, asid := e.asid, ks := [] } w.hdr 64 with
      | (s1, .ok bs) =>
        match s1.statusLocs e w.status with
        | (s2, .error .fault) => (s2, .code 13)
        | (s2, .error .later) => (s2, .later)
        | (s2, .ok _) =>
          if headerCode bs ≠ 0 then (s2, .code (headerCode bs))
          else if (List.range w.count).any fun o => s2.roleBad e.asid w.hdr.toNat (w.first + o) then (s2, .code 12)
          else
            let l := s2.launchOf slot w bs
            if l.cap < l.teams ∧ (w.save = 0 ∨ w.save.toNat % 4096 ≠ 0) then (s2, .code 9) else (s2, .launch l)
      | (s1, .fault _) => (s1, .code 13)
      | (s1, .retry) => (s1, .later)

/-- LAUNCH_SLOT_DOORBELL (R352, R124): the wake is taken and checked; an accepted launch admits its first teams. One whose checks a
generation refuses is taken in the next cycle (R371). -/
def State.doorbell (s : State) (slot : Nat) (v : Word) : State :=
  let st := slotOff slot + 48
  if s.slotBusy slot then s.cfgPut st [s.cfg.read st ||| 2]
  else if wbit v 0 = false then s
  else
    let w := s.wakeOf slot
    let r := (s.cfgPut st [s.cfg.read st ||| 1]).wakeCheck slot w
    let reports (s1 : State) : State :=
      let t := s1.delay
      t.2.at_ (s.now + 1 + t.1) (.launchStatusReport (BitVec.ofNat 3 slot) (BitVec.ofNat 8 r.2.status) w.env w.status)
    match r.2 with
    | .code _ => reports r.1
    | .launch l =>
      let s1 : State := { r.1 with launches := r.1.launches ++ [l], nextLaunch := r.1.nextLaunch + 1 }
      reports (State.admitLaunch l.teams s1 l.id)
    | .later => { s with lateDoors := s.lateDoors ++ [(s.now + 1, slot, v)] }

/-- The first doorbell that a generation refused is taken again (R371). -/
def State.doorAgain (s : State) : State :=
  match s.lateDoors with
  | [] => s
  | (_, slot, v) :: r => ({ s with lateDoors := r } : State).doorbell slot v

/-- LAUNCH_STATUS_REPORT (R124): the code goes to the slot and, where it can, to the status word. -/
def State.statusReport (s : State) (slot code env : Nat) (status : Word) : State :=
  let st := slotOff slot + 48
  let s1 := s.cfgPut st [s.cfg.read st &&& 0xFE, BitVec.ofNat 8 code]
  match s1.launches.find? fun l => l.slot.toNat == slot && !l.reported with
  | some l =>
    if code = 0 then
      let f (x : Launch) : Launch := if x.id == l.id then { x with reported := true } else x
      ({ s1.statusWrite env status l.bits with launches := s1.launches.map f } : State).dropEnded
    else s1.statusWrite env status code
  | none => s1.statusWrite env status code

/-! ### Slices -/

/-- The slice length in µs (R129). -/
def State.sliceLen (s : State) : Nat := Nat.max 1 (s.cfgLE 0x3000 4)

/-- The next slice boundary's cycle (R129). -/
def State.nextSlice (s : State) : Nat := 1800 * ((s.hubUs / s.sliceLen + 1) * s.sliceLen)

/-- The agenda's slice boundary is the next multiple of the slice length. R129 says from when a new length applies, and not
whether multiples of the old one that come before still count: the model drops them at the write (log entry 109). -/
def State.setSlice (s : State) : State :=
  let keep : List (Nat × Instr) := s.agenda.filter fun e => match e.2 with | .sliceBoundary => false | _ => true
  ({ s with agenda := keep } : State).at_ s.nextSlice .sliceBoundary

/-- The berth of a launch's thread. -/
def State.threadAt (s : State) (lid t : Nat) : Option Nat :=
  s.liveKeys.find? fun k => match s.ctxAt k with
    | some c => c.launch == some lid && c.thread.toNat == t
    | none => false

/-- The hardware save of one halted thread (R129, R385, R386): written, and gone from its berth. -/
def State.swapThread (s : State) (lid t : Nat) (pages : List Nat) : State :=
  match s.threadAt lid t with
  | none => s
  | some k =>
    match s.ctxAt k with
    | none => s
    | some c =>
      let c1 := { c.record s.now with block := .none }
      (((s.areaWrite pages c1 true c.pc).bindArea (areaLoc pages 0) (c1.toSaved (k / 4))).dropUnits k).delCtx k

/-- The team that is swapped out (R129): admitted earliest, then the lower number. -/
def Launch.oldest (l : Launch) : Option Team :=
  l.resident.foldl (fun best t => match best with
    | none => some t
    | some b => if t.at_ < b.at_ ∨ (t.at_ = b.at_ ∧ t.num < b.num) then some t else some b) none

/-- The berths of a team's threads. -/
def State.teamKeys (s : State) (l : Launch) (m : Team) : List Nat := m.left.filterMap (s.threadAt l.id)

/-- Some context of the list runs its trap handler. -/
def State.anyPriv (s : State) (ks : List Nat) : Bool := ks.any fun k => (s.ctxAt k).any (·.priv)

/-- A halted context resumes as if it had not been halted (R129). -/
def Ctx.unhalt (c : Ctx) (now : Nat) : Ctx := if c.block = .halted ∧ c.preempt.isNone then c.goOn now else c

/-- A swap is cancelled (R129): the halted contexts resume, the event is counted. -/
def State.swapCancel (s : State) (l : Launch) (ks : List Nat) : State :=
  ((ks.foldl (fun s k => s.updCtx k (·.unhalt s.now)) s).updLaunch l.id fun l => { l with leaving := none }).count 0x1B0 1

/-- The halted team `m` is saved, or the swap cancelled (R129): a context that has entered its handler comes before a page that
faults (log entry 82). -/
def State.swapEnd (s : State) (l : Launch) (m : Team) : State :=
  let ms := m.left.map fun t => (t, l.first + t % l.count)
  let ks := s.teamKeys l m
  let cancel (s : State) : State :=
    let s1 := s.swapCancel l ks
    match s1.launches.find? fun x => x.id == l.id with
    | some l1 => s1.launchBits l1 512
    | none => s1
  if s.anyPriv ks then s.swapCancel l ks
  else
    match s.env l.env with
    | none => cancel s
    | some e =>
      match s.teamPages l e .write ms with
      | (s1, .error .fault) => cancel s1
      | (_, .error .later) => s.launchAgain l.id
      | (s1, .ok ps) =>
        let s2 := (ps.foldl (fun s p => s.swapThread l.id p.1 p.2.2) s1).updLaunch l.id fun x =>
          { x with resident := x.resident.filter fun y => y.num != m.num, swapped := x.swapped ++ [m.num], leaving := none }
        State.admitLaunch (l.teams + l.swapped.length + 1) s2 l.id

/-- The launch's halted team, when none of its contexts has a command to finish before the save (R313). -/
def State.swapReady (s : State) (l : Launch) : Option Team :=
  match l.leaving with
  | none => none
  | some n =>
    match l.resident.find? fun m => m.num == n with
    | none => none
    | some m =>
      if (l.again.any fun t => decide (s.now < t)) || (s.teamKeys l m).any fun k => (s.ctxAt k).any (·.mustFinish) then none
      else some m

/-- An admission that a generation refused is tried again (R371). -/
def State.admitAgain (s : State) (lid : Nat) : State :=
  match s.launches.find? fun l => l.id == lid with
  | none => s
  | some l =>
    State.admitLaunch (l.teams + l.swapped.length + 1) (s.updLaunch lid fun l => { l with again := none }) lid

/-- The first status write that a generation refused is tried again (R124, R371). -/
def State.statusAgain (s : State) : State :=
  match s.lateStatus with
  | [] => s
  | (_, env, status, v) :: r => ({ s with lateStatus := r } : State).statusWrite env status v

/-- A launch's halted team is saved once it can be. -/
def State.swapGo (s : State) (lid : Nat) : State :=
  match s.launches.find? fun l => l.id == lid with
  | none => s
  | some l => match s.swapReady l with
    | none => s
    | some m => s.swapEnd l m

/-- A swap of team `m` begins (R129): its contexts are halted, unless one runs its trap handler, which cancels it before any
page of a save area is looked at (log entry 82). -/
def State.swapTeam (s : State) (l : Launch) (m : Team) : State :=
  let ks := s.teamKeys l m
  if s.anyPriv ks then s.swapCancel l []
  else ((ks.foldl State.halt s).updLaunch l.id fun x => { x with leaving := some m.num }).swapGo l.id

/-- A boundary's steps for one launch (R129). -/
def State.sliceLaunch (s : State) (lid : Nat) : State :=
  match s.launches.find? fun l => l.id == lid with
  | none => s
  | some l =>
    if l.leaving.isSome ∨ (l.teams ≤ l.fresh ∧ l.swapped = []) then s
    else if l.cap ≤ l.resident.length then
      match l.oldest with
      | none => s
      | some m => s.swapTeam l m
    else State.admitLaunch (l.teams + l.swapped.length + 1) s lid

/-- SLICE_BOUNDARY (R129), in the order in which the launches were accepted. -/
def State.slice (s : State) : State := ((s.launches.map Launch.id).foldl State.sliceLaunch s).setSlice

/-! ### Records from outside -/

/-- A refusal at a window (R354). -/
def State.windowRefuse (s : State) (q code : Nat) : State :=
  let r := s.runq q
  { s with runqs := mput s.runqs q { r with ref := r.ref + 1, code := BitVec.ofNat 8 code } }

/-- The environment number of a queue's configuration (R349). -/
def State.runqEnv (s : State) (q : Nat) : Nat := s.cfgLE (0x2000 + 16 * q + 12) 2 % 4096

/-- RUN_QUEUE_WINDOW_PUSH (R354, R355). -/
def State.windowPush (s : State) (q off : Nat) (bs : List Byte) : State :=
  if off ≠ 0 ∨ bs.length ≠ 32 then s.windowRefuse q 3
  else
    let r := recOfNat (leNat bs)
    if r.bad then s.windowRefuse q 1
    else
      match s.pushRunq q ⟨r, s.runqEnv q⟩ with
      | none => s.windowRefuse q 2
      | some s1 =>
        let w := s1.runq q
        { s1 with runqs := mput s1.runqs q { w with acc := w.acc + 1 } }

/-- The lowest valid access-control entry of a peer (R357, R358). -/
def State.peerEntry (s : State) (peer : Nat) : Option Word :=
  (List.range 256).findSome? fun i =>
    let e := s.cfg64 (0x30000 + 8 * i)
    if wbit e 48 && wfld e 0 10 == peer then some e else none

/-- A peer's write to device memory, through the homes (R356, R363, log entry 90). -/
def State.peerWrite (s : State) (w : Nat × List Byte) : State :=
  if isDevice w.1 && isDevice (w.1 + (w.2.length - 1)) then
    (((List.range ((w.1 + (w.2.length - 1)) / 64 - w.1 / 64 + 1)).map (w.1 / 64 + ·)).foldl State.takeSector s).memWrite w.1 w.2
  else s

/-- UALINK_LAUNCH_PACKET (R356, R358): what the same peer wrote before on the same port is applied first; then the checks in their
order, each with its counter. -/
def State.peerPacket (s : State) (peer q : Nat) (bs : List Byte) (ws : List (Nat × List Byte)) : State :=
  let s := ws.foldl State.peerWrite s
  let r := recOfNat (leNat bs)
  match s.peerEntry peer with
  | none => s.count 0x148 1
  | some e =>
    if wbit e (16 + q) = false then s.count 0x150 1
    else if 4 ≤ r.prio ∧ wbit e 49 = false then s.count 0x158 1
    else if r.bad then s.count 0x160 1
    else
      match s.pushRunq q ⟨r, s.runqEnv q⟩ with
      | none => s.count 0x168 1
      | some s1 => s1

end Sys2Proof.Machine
end

