-- ==== Sys2Proof/Machine/Repair.lean ====
section
/-! DEFINITION. Window configurations (R419), the lanes of ports and die links (R420, R421), power islands, throttling and
the cap (R422 to R425). -/

namespace Sys2Proof.Machine

/-! ### Windows and lanes -/

/-- WINDOW_CONFIG_WRITE (R419): count 0, window 0 or a nonzero reserved bit discards the write. -/
def State.windowWrite (s : State) (cls : Nat) (v : Word) : State :=
  if 3 ≤ cls ∨ wfld v 0 8 = 0 ∨ wfld v 8 24 = 0 ∨ wfld v 32 32 ≠ 0 then s
  else { s with cfg := s.cfg.writeLE (0x40008 + 8 * cls) 8 v.toNat }

/-- A lane's index within its link: 2^16 more in the second direction. -/
def laneIdx (dir : Bool) (lane : Nat) : Nat := lane + if dir then 65536 else 0

/-- No replay of the direction is outstanding at `now` (R421). -/
def Link.quiet (l : Link) (dir : Bool) (now : Nat) : Bool := decide ((if dir then l.idle1 else l.idle0) ≤ now)

/-- A replay is outstanding until `till` at least. -/
def Link.replayTill (l : Link) (dir : Bool) (till : Nat) : Link :=
  if dir then { l with idle1 := Nat.max l.idle1 till } else { l with idle0 := Nat.max l.idle0 till }

/-- A replay that has completed has delivered what was sent, each flit once and in order (R421). -/
def Link.settle (l : Link) (now : Nat) : Link :=
  let l1 : Link := if l.quiet false now then { l with good0 := l.sent0 } else l
  if l.quiet true now then { l1 with good1 := l.sent1 } else l1

/-- `n` flits are sent: what is sent in a replay waits behind it for its delivery (R421). -/
def Link.send (l : Link) (dir : Bool) (n now : Nat) : Link :=
  (if dir then { l.settle now with sent1 := l.sent1 + n } else { l.settle now with sent0 := l.sent0 + n } : Link).settle now

/-- LINK_CRC_FAILURE (R421): the failure is counted on its lane, and a replay is outstanding until a later cycle: it sends
again from the receiver's last good flit on, so the failed flit stands with those that are still to be delivered. -/
def State.crcFailure (s : State) (u : Nat) (dir : Bool) (lane : Nat) : State :=
  if u < 26 ∨ 33 < u then s
  else
    let t := s.delay
    let s1 := (t.2.count (0x1000 + 16 * u) 1).errorEvent 0 u (laneIdx dir lane)
    { s1 with links := mupd s1.links u Link.reset fun l =>
        ((l.settle s.now).replayTill dir (s.now + 1 + t.1)).send dir 1 s.now }

/-- A replay fails (R417): it counts as uncorrectable, and a die link's is made once more. -/
def State.replayFails (s : State) (u : Nat) (dir : Bool) : State :=
  if u < 26 ∨ 53 < u then s
  else if u ≤ 33 then
    if (mgetD s.links u Link.reset).quiet dir s.now then s
    else
      let t := s.delay
      let s1 := t.2.count (0x1008 + 16 * u) 1
      { s1 with links := mupd s1.links u Link.reset fun l => l.replayTill dir (s.now + 1 + t.1) }
  else s.count (0x1008 + 16 * u) 1

/-- What befalls the package takes place. -/
def State.incidentGo (s : State) : State :=
  match s.incidents with
  | [] => s
  | (_, x) :: r =>
    let s := { s with incidents := r }
    match x with
    | .corrected u bank => if u < 26 then s.corrected u bank else s
    | .upset loc u bank => if u < 26 then s.upset loc u bank else s
    | .core u idx => s.errorEvent 2 u idx
    | .flits u dir n =>
      if u < 26 ∨ 33 < u then s else { s with links := mupd s.links u Link.reset fun l => l.send dir n s.now }
    | .replayFails u dir => s.replayFails u dir
    | .fuse n => { s with boot := { s.boot with fuseMin := Nat.max s.boot.fuseMin (Nat.min 64 n) } }
    | .faulty core => { s with boot := { s.boot with faulty := s.boot.faulty ++ [core] } }

/-- A lane of the direction `dir`. -/
def laneDir (dir : Bool) (x : Nat) : Bool := decide (65536 ≤ x) == dir

/-- The first lasting lane that waits in a direction, at a replay-idle point (R421). -/
def State.laneReady (s : State) (u : Nat) (dir : Bool) : Option Nat :=
  let l := mgetD s.links u Link.reset
  if l.quiet dir s.now then l.waiting.find? (laneDir dir) else none

/-- LANE_REPAIR_SWITCH (R421): the spare takes over between two flits; with no spare left the lane stays unrepaired. -/
def State.laneSwitch (s : State) (u : Nat) (dir : Bool) : State :=
  match s.laneReady u dir with
  | none => s
  | some x =>
    let l := (mgetD s.links u Link.reset).settle s.now
    let l1 := { l with waiting := l.waiting.filter (· != x) }
    if (l.spared.filter (laneDir dir)).length < 4 then
      ({ s with links := mput s.links u { l1 with spared := l1.spared ++ [x] } } : State).log 0 2 u x
    else ({ s with links := mput s.links u l1 } : State).log 0 5 u x

/-- The width of a port in lanes: 4 until it retrains (R420). -/
def State.width (s : State) (u : Nat) : Nat := mgetD s.widths u 4

/-- PORT_LANE_ERROR (R420): counted; a lane that turns lasting makes the port retrain at the next lower width. -/
def State.portLane (s : State) (u lane : Nat) : State :=
  if u < 34 ∨ 53 < u then s
  else
    let s1 := (s.count (0x1000 + 16 * u) 1).errorEvent 0 u lane
    if s.lasting.contains (0, u, lane) ∨ !(s1.lasting.contains (0, u, lane)) then s1
    else ({ s1 with widths := mput s1.widths u (Config.lowerWidth (s1.width u)) } : State).log 0 6 u lane

/-! ### Power -/

/-- The quadrant island of a core (R422). -/
def islandOf (core : Nat) : Nat :=
  let d := dieOf core
  let c := clusterOf core
  5 * d + if d < 2 then c % 48 / 12 else (c - 96) % 32 / 8

/-- The compute islands (R422). -/
def computeIslands : List Nat := (List.range 20).filter fun i => i % 5 != 4

/-- The level of an island. -/
def State.level (s : State) (i : Nat) : Nat := mgetD s.power.level i 0

/-- A core's S issues nothing in this cycle for its island's throttle (R423); a pre-emption request lifts it until its halt. -/
def State.throttled (s : State) (core : Nat) : Bool :=
  decide (8 - s.level (islandOf core) ≤ s.now % 8) &&
  !(s.agenda.any fun e => match e.2 with | .preemptionHalt k _ => k / 4 == core | _ => false)

/-- The location of island `i`'s average power (R424). -/
def islandMw (i : Nat) : Nat := 0x1FF71000100 + 8 * i

/-- The island of a list with the highest power, the lowest of equal ones (R425). -/
def State.hottest (s : State) (l : List Nat) : Option Nat :=
  l.foldl (fun b i => match b with
    | none => some i
    | some j => if s.mem.readLE (islandMw j) 8 < s.mem.readLE (islandMw i) 8 then some i else some j) none

/-- The measured powers, which the spec does not give, are free values (log entry 55). -/
def State.measure (s : State) : State :=
  let s1 := (List.range 24).foldl (fun s i =>
    let f := s.free
    { f.2 with mem := f.2.mem.writeLE (islandMw i) 8 (wfld f.1 0 32) }) s
  let f := s1.free
  let old := s1.mem.readLE powerCtl 8
  let hot := (s1.hottest (List.range 24)).getD 0
  { f.2 with mem := f.2.mem.writeLE powerCtl 8 (old % 2 ^ 16 + wfld f.1 0 12 * 2 ^ 16 + hot * 2 ^ 32) }

/-- One throttle step (R425). -/
def State.stepUp (s : State) : State :=
  let raise (i : Nat) : State :=
    { s with power := { level := mput s.power.level i (s.level i + 1), steps := i :: s.power.steps } }
  match s.hottest (computeIslands.filter fun i => decide (s.level i < 7)) with
  | some i => raise i
  | none => if s.level 20 < 3 then raise 20 else if s.level 23 < 1 then raise 23 else s

/-- The latest step in force is reversed (R425). -/
def State.stepDown (s : State) : State :=
  match s.power.steps with
  | [] => s
  | i :: r => { s with power := { level := mput s.power.level i (s.level i - 1), steps := r } }

/-- The comparison of R425 on the measured power. -/
def State.capCompare (s : State) : State :=
  let v := s.mem.readLE powerCtl 8
  let cap := v % 4096
  let avg := v / 2 ^ 16 % 4096
  if v / 4096 % 2 = 0 then s
  else if cap < avg then s.stepUp
  else if avg * 100 < cap * 95 then s.stepDown
  else s

/-- POWER_CAP_STEP (R425), every 10 µs. -/
def State.capStep (s : State) : State := s.measure.capCompare.at_ (s.now + 18000) .powerCapStep

end Sys2Proof.Machine
end

