-- ==== Sys2Proof/Machine/HostPort.lean ====
section
/-! DEFINITION. What reaches the hub's regions by a write (R348 to R354): BAR0's registers, each with its behaviour; BAR2's
run-queue windows; BAR4's device windows and the completion that the host sees. -/

namespace Sys2Proof.Machine

/-! ### Configuration registers -/

/-- RUN_QUEUE_CONFIG_WRITE (R349). -/
def State.runqConfig (s : State) (q : Nat) (hi : Bool) (v : Word) : State :=
  if (s.runq q).items.isEmpty then s.cfgPut (0x2000 + 16 * q + (if hi then 8 else 0)) (b8 v) else s.count 0x188 1

/-- SLICE_LENGTH_WRITE (R129): a length outside its range changes nothing (log entry 52). -/
def State.sliceWrite (s : State) (v : Nat) : State :=
  if v = 0 ∨ 2 ^ 24 ≤ v then s else (s.cfgPut 0x3000 (leBytes v 4)).setSlice

/-- A vocabulary slot descriptor fails its checks (R208). -/
def State.vocBad (s : State) (slot : Nat) : Bool :=
  let o := vocOff slot
  decide (2 ^ 21 < s.cfgLE o 4) || decide (s.cfgLE (o + 4) 4 = s.cfgLE (o + 8) 4) || decide (16 < s.cfgLE (o + 12) 4) ||
  decide (2 ≤ s.cfgLE (o + 104) 1) || decide (s.cfgLE (o + 105) 23 ≠ 0)

/-- VOCAB_SLOT_LOAD (R208): the resident bit is set, and cleared again when a check fails. -/
def State.vocLoad (s : State) (slot : Nat) : State :=
  let o := vocOff slot + 104
  let s1 := s.cfgPut o [s.cfg.read o ||| 1]
  if s1.vocBad slot then (s1.cfgPut o [s1.cfg.read o &&& 0xFE]).count 0x1B0 1 else s1

/-- One byte written to the configuration space where a write has no behaviour of its own (R349, R352, R357). -/
def State.cfgByte (s : State) (off : Nat) (b : Byte) : State :=
  if 0x1000 ≤ off ∧ off < 0x1200 then
    let slot := (off - 0x1000) / 64
    let o := off % 64
    let st := slotOff slot + 48
    if o < 48 then (if s.slotBusy slot then s.cfgPut st [s.cfg.read st ||| 2] else s.cfgPut off [b])
    else if o = 48 ∧ b.getLsbD 1 = true then s.cfgPut st [s.cfg.read st &&& 0xFD]
    else s
  else if off = 0x3008 then s.cfgPut off [b &&& 1]
  else if 0x20000 ≤ off ∧ off < 0x20400 then s.cfgPut off [b]
  else if 0x30000 ≤ off ∧ off < 0x30800 then
    let m : Byte := match off % 8 with | 1 => 3 | 6 => 3 | 7 => 0 | _ => 0xFF
    s.cfgPut off [b &&& m]
  else if 0x80000 ≤ off ∧ off < 0xC0000 then s.cfgPut off [b]
  else s

/-- A doubleword of BAR0 as it reads now, with the bytes that a write of `bs` at `off` covers replaced. -/
def State.barMerge (s : State) (d off : Nat) (bs : List Byte) : Word :=
  BitVec.ofNat 64 (leNat ((List.range 8).map fun i =>
    if off ≤ d + i then nthD bs (d + i - off) (s.bar0Byte (d + i)) else s.bar0Byte (d + i)))

/-- What a write of `bs` at `off` does in doubleword `d` of BAR0 beside its plain bytes (R129, R194, R208, R349, R352, R419). -/
def State.bar0Act (s : State) (off : Nat) (bs : List Byte) (d : Nat) : State :=
  let v := s.barMerge d off bs
  let hits (a n : Nat) : Bool := meets off bs.length a n
  if 0x1000 ≤ d ∧ d < 0x1200 then (if d % 64 = 56 then s.doorbell ((d - 0x1000) / 64) v else s)
  else if 0x2000 ≤ d ∧ d < 0x2200 then s.runqConfig ((d - 0x2000) / 16) (d % 16 == 8) v
  else if d = 0x3000 then (if hits d 4 then s.sliceWrite (wfld v 0 32) else s)
  else if 0x10000 ≤ d ∧ d < 0x11000 then
    match relayReg (d - 0x10000) with
    | some (ch, hi) =>
      s.chanWrite ch hi (if !hi && !(hits (d + 7) 1) then v &&& 0x7FFFFFFFFFFFFFFF#64 else v)
    | none => s
  else if 0x20000 ≤ d ∧ d < 0x20400 then
    if d % 128 = 104 ∧ hits d 1 ∧ wbit v 0 then s.vocLoad ((d - 0x20000) / 128) else s
  else if 0x40008 ≤ d ∧ d < 0x40020 then s.windowWrite ((d - 0x40008) / 8) v
  else s

/-- REGISTER_WRITE (R349): the plain bytes are stored, then each doubleword's behaviour follows, ascending. -/
def State.registerWrite (s : State) (off : Nat) (bs : List Byte) : State :=
  let s1 := (bs.mapIdx fun i b => (off + i, b)).foldl (fun s x => s.cfgByte x.1 x.2) s
  (dwordsOf off bs.length).foldl (fun s d => s.bar0Act off bs d) s1

/-! ### The windows -/

/-- A write through BAR4 (R348): one that the window does not accept changes nothing. -/
def State.bar4Write (s : State) (off : Nat) (bs : List Byte) : State :=
  match bar4At off bs.length with
  | .spad loc => s.memWrite loc bs
  | .fmt core bank => s.fmtWrite core bank (BitVec.ofNat 64 (leNat bs))
  | .none => s

/-- A write in one of the hub's regions (R348, R349, R354). -/
def State.barWrite (s : State) (b off : Nat) (bs : List Byte) : State :=
  if b = 0 then s.registerWrite off bs
  else if b = 2 then (if off / 64 < 32 then s.windowPush (off / 64) (off % 64) bs else s)
  else s.bar4Write off bs

/-- The first write on its way to a region arrives. -/
def State.postedGo (s : State) : State :=
  match s.posted with
  | [] => s
  | (b, off, bs) :: r => ({ s with posted := r } : State).barWrite b off bs

/-- HOST_WINDOW_ACCESS (R348): in aligned units of 8 bytes without an order among them (R90), here ascending in one step; a lock
does not hold the host (R105). Its completion says whether the window supports it, and carries what was read. -/
def State.hostWindow (s : State) (off : Nat) (wr : Bool) (bs : List Byte) : State :=
  let w := bar4At off bs.length
  if w = .none then { s with reply := some (false, []) }
  else if wr then { s.bar4Write off bs with reply := some (true, []) }
  else
    let s1 := match w with | .spad loc => s.scrub [] loc bs.length | _ => s
    { s1 with reply := some (true, s1.barRead 4 off bs.length) }

end Sys2Proof.Machine
end

