-- ==== Sys2Proof/Machine/Boot.lean ====
section
/-! DEFINITION. Package reset and the boot ROM (R410 to R412), Kolys images (R413 to R416, R121, R122), quotes (R426). -/

namespace Sys2Proof.Machine

/-! ### Firmware containers -/

/-- The number in bytes `o` to `o + n − 1` of a list. -/
def fld (bs : List Byte) (o n : Nat) : Nat := leNat ((bs.drop o).take n)

/-- The bytes `o` to `o + n − 1` of a list. -/
def part (bs : List Byte) (o n : Nat) : List Byte := (bs.drop o).take n

/-- Bytes of a list are present and zero. -/
def zeros (bs : List Byte) (o n : Nat) : Bool := (part bs o n).length == n && (part bs o n).all (· == 0)

/-- The size of a container's body (R411). -/
def bodySize (bs : List Byte) : Nat := fld bs 8 4

/-- The format checks of R411 fail. -/
def formatBad (bs : List Byte) : Bool :=
  decide (fld bs 0 4 ≠ 0x464E4657) || decide (fld bs 4 2 ≠ 1) || !(zeros bs 12 4) ||
  decide (bodySize bs < 4096) || decide (2 ^ 24 < bodySize bs) || decide (fld bs 16 8 % 4 ≠ 0) ||
  decide (bodySize bs ≤ fld bs 16 8) || decide (2 ≤ fld bs 160 1) || !(zeros bs 161 95) ||
  decide (bs.length < 256 + bodySize bs + 2820)

/-- The reason code of the first check of R411 that a container fails, or 0 (the order is log entry 54). -/
def containerFail (b : Boot) (bs : List Byte) : Nat :=
  if formatBad bs then 5
  else if fld bs 24 4 ≠ 9 then 2
  else if shake256 (part bs 24 68) ≠ b.fuseDigest then 1
  else if fld bs 6 2 < Nat.min 64 b.fuseMin then 3
  else if !(xmssVerify (part bs 24 68) (part bs 0 (256 + bodySize bs)) (part bs (256 + bodySize bs) 2820)) then 4
  else 0

/-! ### Package reset -/

/-- Steps that come from outside the package's own units: they are still to come after a reset. -/
def isInput (i : Instr) : Bool :=
  match i with
  | .launchSlotDoorbell .. => true
  | .futureServiceMessage .. => true
  | .runQueueWindowPush .. => true
  | .ualinkLaunchPacket .. => true
  | .runQueueConfigWrite .. => true
  | .sliceLengthWrite .. => true
  | .vocabSlotLoad .. => true
  | .registerWrite .. => true
  | .relayDescriptorWrite .. => true
  | .relayChannelEnable .. => true
  | .relayChannelDisable .. => true
  | .hostWindowAccess .. => true
  | .driveDma .. => true
  | .homeRequest .. => true
  | .hostelAccess .. => true
  | .windowConfigWrite .. => true
  | .linkCrcFailure .. => true
  | .portLaneError .. => true
  | .powerControlWrite .. => true
  | .quoteRequest .. => true
  | .packageReset => true
  | _ => false

/-- The package with every unit in its reset state (R412): fuses, non-volatile memory, the host's own memory and what is
still to come from outside stay; the hub clock starts at 0 (R417). -/
def State.cleared (s : State) : State :=
  { State.reset with
    agenda := (s.agenda.filter fun e => isInput e.2).map fun e => (e.1 - s.now, e.2)
    hartDue := s.hartDue.map fun e => (e.1 - s.now, e.2)
    incidents := s.incidents.map fun e => (e.1 - s.now, e.2)
    delays := s.delays, freeN := s.freeN, resets := s.resets + 1,
    mem := s.mem.filter fun c => decide (2 ^ 51 ≤ c.1) && decide (c.1 < 2 ^ 52),
    cfg := ((Mem.writeLE [] 0x3000 4 1000).writeLE 0x40008 8 (16 + 86400 * 256)).writeLE 0x40010 8 (16 + 86400 * 256)
      |>.writeLE 0x40018 8 (16 + 86400 * 256),
    boot := { s.boot with phase := 0, fail := 0, slot := false, fwver := 0, running := [], imageKey := [],
                          signedOnly := false, lastImage := [], loaded := 0 } }

/-- A unit that non-volatile memory marks is retired (R420): a core, the core of a scratchpad bank, or the engine of an
accumulator bank; the log says so. -/
def State.retireUnit (s : State) (m : Nat × Nat × Nat) : State :=
  let (cls, u, idx) := m
  let s := s.log cls 4 u idx
  if cls = 1 ∧ 17 ≤ u ∧ u ≤ 20 then { s with retiredCores := s.retiredCores ++ [idx / 16] }
  else if cls = 1 ∧ 21 ≤ u ∧ u ≤ 24 then { s with retiredEngines := s.retiredEngines ++ [idx / 256] }
  else if cls = 2 ∧ u = 25 then { s with retiredHarts := s.retiredHarts ++ [idx] }
  else if cls = 2 then { s with retiredCores := s.retiredCores ++ [idx] }
  else s

/-- The data unit of a core: its L1 and scratchpads (R417). -/
def coreUnit (core : Nat) : Nat := 17 + dieOf core

/-- Where the ROM puts a container of the Hostel's shared cache (R410): a free page of the hub's memory (log entry 104). -/
def cacheAt (v : Word) : Nat := 0x10000000000 + v.toNat % 2 ^ 39 / 4096 * 4096

/-- A container in the Hostel's shared cache, which holds its sectors. -/
def State.toCache (s : State) (loc : Nat) (bs : List Byte) : State :=
  { s with mem := s.mem.writeBytes loc bs,
           dir := ((List.range ((bs.length + 63) / 64)).map fun i => (loc / 64 + i, [.i, .i, .i, .i, .m, .i])) }

/-- The firmware brings the package up (R410, R412): the container copied into the Hostel's shared cache, hart 0 at its entry in
M-mode, the marked units and the cores that fail the self-test retired, the periodic steps of the hub set, phase 2. -/
def State.bringUp (s : State) (bs : List Byte) (slotB : Bool) : State :=
  let r := s.free
  let size := 256 + bodySize bs
  let h : Hart := { Hart.reset with pc := BitVec.ofNat 64 (cacheAt r.1 + 256 + fld bs 16 8) }
  let key := part bs 92 68
  let marked := s.boot.marked ++ s.boot.faulty.map fun c => (2, coreUnit c, c)
  let s1 := marked.foldl State.retireUnit ({ r.2 with harts := [(0, h)] }.toCache (cacheAt r.1) (part bs 0 (size + 2820)))
  let b : Boot := { s1.boot with phase := 2, slot := slotB, fwver := fld bs 6 2, running := part bs 0 size,
                                 imageKey := if key.all (· == 0) then [] else key,
                                 signedOnly := decide (fld bs 160 1 % 2 = 1) }
  ({ s1 with boot := b } : State).setSlice.at_ (s1.now + 18000) .powerCapStep

/-- PACKAGE_RESET (R410): slot A, then slot B; the first that passes runs, else recovery. -/
def State.boots (s : State) : State :=
  let s0 := s.cleared
  let fa := containerFail s0.boot s0.boot.slotA
  if fa = 0 then s0.bringUp s0.boot.slotA false
  else
    let fb := containerFail s0.boot s0.boot.slotB
    if fb = 0 then s0.bringUp s0.boot.slotB true
    else { s0 with boot := { s0.boot with phase := 3, fail := fb } }

/-! ### Kolys images -/

/-- A table or section of an image: its offset, size and alignment. -/
structure Part where
  off : Nat
  len : Nat
  al : Nat
deriving DecidableEq, Repr

/-- Entry `i` of the role, placement and edge tables (R121). -/
def roleAt (im : List Byte) (i : Nat) : List Byte := part im (fld im 16 8 + 64 * i) 64
def placeAt (im : List Byte) (i : Nat) : List Byte := part im (fld im 24 8 + 8 * i) 8
def edgeAt (im : List Byte) (i : Nat) : Nat × Nat :=
  (fld im (fld im 32 8 + 4 * i) 2, fld im (fld im 32 8 + 4 * i + 2) 2)

/-- The counts of an image's tables (R121). -/
def roleN (im : List Byte) : Nat := fld im 6 2
def placeN (im : List Byte) : Nat := fld im 8 4
def edgeN (im : List Byte) : Nat := fld im 12 4

/-- The tables and sections of an image (R121). -/
def imageParts (im : List Byte) : List Part :=
  [⟨0, 64, 8⟩, ⟨fld im 16 8, 64 * roleN im, 8⟩, ⟨fld im 24 8, 8 * placeN im, 8⟩, ⟨fld im 32 8, 4 * edgeN im, 8⟩] ++
  (if fld im 48 8 = 0 then [] else [⟨fld im 48 8, 2820, 1⟩]) ++
  (List.range (roleN im)).flatMap fun i =>
    let r := roleAt im i
    [⟨fld r 40 8, fld r 24 4, 1⟩, ⟨fld r 48 8, fld r 28 4, 1⟩, ⟨fld r 56 8, fld r 32 4, 1⟩]

/-- Two parts share a byte. -/
def Part.meets (a b : Part) : Bool :=
  decide (a.len ≠ 0) && decide (b.len ≠ 0) && decide (a.off < b.off + b.len) && decide (b.off < a.off + a.len)

/-- Some two parts of a list share a byte. -/
def anyMeet : List Part → Bool
  | [] => false
  | a :: r => r.any a.meets || anyMeet r

/-- The counts cannot be those of tables within `n` bytes. -/
def tablesTooBig (im : List Byte) (n : Nat) : Bool :=
  decide (n < 64 * roleN im) || decide (n < 8 * placeN im) || decide (n < 4 * edgeN im)

/-- Check 1 of R414: the reserved fields of every entry that lies in the image, whatever the later checks find. -/
def imageBad1 (im : List Byte) : Bool :=
  decide (fld im 0 4 ≠ 0x4B4C5953) || decide (fld im 4 2 ≠ 1) || decide (fld im 56 8 ≠ 0) ||
  (List.range (Nat.min (roleN im) im.length)).any (fun i => fld (roleAt im i) 36 4 != 0) ||
  (List.range (Nat.min (placeN im) im.length)).any (fun i => fld (placeAt im i) 6 2 != 0)

/-- Check 2 of R414. -/
def imageBad2 (im : List Byte) : Bool :=
  let n := Nat.min im.length (fld im 40 8)
  tablesTooBig im n || (imageParts im).any (fun p => decide (n < p.off + p.len) || decide (p.off % p.al ≠ 0)) ||
  anyMeet (imageParts im)

/-- Check 3 of R414. -/
def imageBad3 (b : Boot) (im : List Byte) : Bool :=
  let so := fld im 48 8
  if so = 0 then b.signedOnly
  else b.imageKey.isEmpty || !(xmssVerify b.imageKey (part im 0 so) (part im so 2820))

/-- A role name is ASCII padded with zero bytes (R121). -/
def nameBad : List Byte → Bool
  | [] => false
  | b :: r => if b = 0 then r.any (· != 0) else decide (128 ≤ b.toNat) || nameBad r

/-- Check 4 of R414: an empty role name fails it (log entry 95), a gap between text and const bytes does not (log entry 96). -/
def imageBad4 (im : List Byte) : Bool :=
  decide (roleN im = 0) || decide (64 < roleN im) || (part (roleAt im 0) 0 16 != [0x6D, 0x61, 0x69, 0x6E] ++ List.replicate 12 0) ||
  (List.range (roleN im)).any fun i =>
    let r := roleAt im i
    decide (fld r 16 8 % 4096 ≠ 0) || nameBad (part r 0 16) || fld r 0 1 == 0 ||
    decide (fld r 48 8 < fld r 40 8 + fld r 24 4) || decide (fld r 56 8 < fld r 48 8 + fld r 28 4)

/-- The placement entries: first core, count, role (R121). -/
def placements (im : List Byte) : List (Nat × Nat × Nat) :=
  (List.range (placeN im)).map fun i => (fld (placeAt im i) 0 2, fld (placeAt im i) 2 2, fld (placeAt im i) 4 2)

/-- Check 5 of R414. -/
def imageBad5 (im : List Byte) : Bool :=
  let ps := placements im
  ps.any (fun p => decide (numCores < p.1 + p.2.1) || p.2.1 == 0 || decide (roleN im ≤ p.2.2)) ||
  anyMeet (ps.map fun p => ⟨p.1, p.2.1, 1⟩)

/-- The place of a cluster on its die's grid (R415). -/
def gridOf (cluster : Nat) : Nat × Nat :=
  let l := if cluster < 48 then cluster else if cluster < 96 then cluster - 48
    else if cluster < 128 then cluster - 96 else cluster - 128
  (l % 8, l / 8)

/-- The bridge cores (R415). -/
def bridges : List Nat := [0, 384, 768, 1024]

/-- The distance between two numbers. -/
def dist (a b : Nat) : Nat := (a - b) + (b - a)

/-- Two cores are neighbours (R415). -/
def neighbours (a b : Nat) : Bool :=
  decide (a < numCores) && decide (b < numCores) &&
  (clusterOf a == clusterOf b ||
   (dieOf a == dieOf b &&
     dist (gridOf (clusterOf a)).1 (gridOf (clusterOf b)).1 + dist (gridOf (clusterOf a)).2 (gridOf (clusterOf b)).2 == 1) ||
   [(0, 384), (384, 0), (768, 1024), (1024, 768), (0, 768), (768, 0), (384, 1024), (1024, 384)].contains (a, b))

/-- A core's chain of edges ends at a bridge core that no edge targets, within `fuel` edges (R415). -/
def rooted (es : List (Nat × Nat)) : Nat → Nat → Bool
  | 0, _ => false
  | fuel + 1, c =>
    match es.find? fun e => e.2 == c with
    | none => bridges.contains c
    | some e => rooted es fuel e.1

/-- The second core of an edge is targeted once only. -/
def twiceTargeted : List (Nat × Nat) → Bool
  | [] => false
  | e :: r => (r.any fun f => f.2 == e.2) || twiceTargeted r

/-- Check 6 of R414: the boot tree breaks R415. -/
def treeBad (es : List (Nat × Nat)) (placed : List Nat) : Bool :=
  es.any (fun e => !(neighbours e.1 e.2)) || twiceTargeted es ||
  (placed ++ es.flatMap fun e => [e.1, e.2]).any fun c => !(rooted es (es.length + 1) c)

/-- The cores that an image places. -/
def placedCores (im : List Byte) : List Nat := (placements im).flatMap fun p => (List.range p.2.1).map (p.1 + ·)

/-- The edges of an image. -/
def edges (im : List Byte) : List (Nat × Nat) := (List.range (edgeN im)).map (edgeAt im)

/-- The refusal code of an image, or 0 (R414). -/
def imageCode (b : Boot) (im : List Byte) : Nat :=
  if imageBad1 im then 1
  else if imageBad2 im then 2
  else if imageBad3 b im then 3
  else if imageBad4 im then 4
  else if imageBad5 im then 5
  else if treeBad (edges im) (placedCores im) then 6
  else 0

/-- A page size rounded up (R122). -/
def upPage (n : Nat) : Nat := (n + 4095) / 4096 * 4096

/-- The extents of a role: text, const and data with their image bytes (R122). -/
def roleParts (r : List Byte) : List (Nat × Nat × Nat) :=
  let base := fld r 16 8
  let c := base + upPage (fld r 24 4)
  let d := c + upPage (fld r 28 4)
  [(base, fld r 24 4, fld r 40 8), (c, fld r 28 4, fld r 48 8), (d, fld r 32 4, fld r 56 8)]

/-- How the firmware's stores end: all made, stopped by a fault, or waiting for a home or a generation. -/
inductive LoadEnd where
  | done | fault | later
deriving DecidableEq, Repr

/-- The firmware's stores of the sections, byte by byte through the page tables of an address space, as HO stores (R414): each
has its sector from the home first (R363). The boot state counts those that are made. -/
def State.loadBytes (root asid : Nat) : List (Nat × Byte) → State → State × LoadEnd
  | [], s => (s, .done)
  | (va, b) :: r, s =>
    match s.hubXl root asid va .write with
    | (s1, .ok pa _) =>
      let secs := sectorsOf [⟨0, pa, 1, 0, false⟩]
      if s1.blocked 4 true secs then (s1.queueAsks 4 true secs, .later)
      else
        let s2 := (s1.ownAll 4 true secs).memWrite pa [b]
        State.loadBytes root asid r { s2 with boot := { s2.boot with loaded := s2.boot.loaded + 1 } }
    | (s1, .miss) => (s1, .later)
    | (s1, _) => (s1, .fault)

/-- The sections' bytes in order, with their addresses (R122, R414). -/
def loadList (im : List Byte) (ps : List (Nat × Nat × Nat)) : List (Nat × Byte) :=
  ps.flatMap fun p => (part im p.2.2 p.2.1).mapIdx fun i b => (p.1 + i, b)

/-- The environment that names an address space (R350). -/
def State.envOfAsid (s : State) (asid : Nat) : Option EnvEntry :=
  (List.range 4096).findSome? fun n => match s.env n with
    | some e => if e.asid = asid then some e else none
    | none => none

/-- The image load request (R413). -/
def imgReq : Nat := 0x1FF80000000

/-- The firmware ends a load (R413): the operation byte is zeroed, status and code are written. -/
def State.imageEnd (s : State) (status code : Byte) : State :=
  { s with mem := ((s.mem.write (imgReq + 22) code).write (imgReq + 20) 0).write (imgReq + 21) status,
           boot := { s.boot with loaded := 0 } }

/-- The image that a request names: nothing where the range is not all memory (R157, R360, log entry 103). -/
def State.imageAt (s : State) : List Byte :=
  let a := s.mem.readLE imgReq 8
  let n := s.mem.readLE (imgReq + 8) 8
  if memRange a n then s.mem.readBytes a n else []

/-- The placement is recorded (R416). -/
def State.placeRoles (s : State) (asid : Nat) (im : List Byte) : State :=
  (placements im).foldl (fun s p =>
    let ps := roleParts (roleAt im p.2.2)
    let e (i : Nat) : Nat × Nat := let x := nthD ps i (0, 0, 0); (x.1, x.2.1)
    let r : Role := { index := BitVec.ofNat 8 p.2.2, asid := asid, text := e 0, const := e 1, data := e 2 }
    (List.range p.2.1).foldl (fun s o => { s with roles := mput s.roles (p.1 + o) r }) s) s

/-- IMAGE_LOAD_REQUEST (R413, R414, R416): a load that waits goes on in the next cycle from where it stands. -/
def State.imageLoad (s : State) : State :=
  if s.mem.read (imgReq + 20) = 0 then s
  else if s.mem.read (imgReq + 20) ≠ 1 then s.imageEnd 2 1
  else
    let im := s.imageAt
    let asid := s.mem.readLE (imgReq + 16) 4 % 2 ^ 20
    let code := imageCode s.boot im
    if code ≠ 0 then s.imageEnd 2 (BitVec.ofNat 8 code)
    else
      match s.envOfAsid asid with
      | none => s.imageEnd 2 7
      | some e =>
        let bs := loadList im ((List.range (roleN im)).flatMap fun i => roleParts (roleAt im i))
        match State.loadBytes e.root.toNat asid (bs.drop s.boot.loaded) s with
        | (s1, .fault) => s1.imageEnd 2 7
        | (s1, .later) => s1.at_ (s1.now + 1) .imageLoadRequest
        | (s1, .done) =>
          let s2 := s1.placeRoles asid im
          ({ s2 with boot := { s2.boot with lastImage := im } } : State).imageEnd 1 0

/-! ### Quotes -/

/-- A list of exactly `n` bytes. -/
def padTo (n : Nat) (bs : List Byte) : List Byte := bs.take n ++ List.replicate (n - bs.length) 0

/-- The first 256 bytes of a quote (R426). -/
def quoteHead (b : Boot) (status idx : Nat) (nonce : List Byte) : List Byte :=
  leBytes 0x464E5154 4 ++ leBytes 1 2 ++ leBytes status 1 ++ leBytes b.status 1 ++ leBytes idx 4 ++ leBytes b.fwver 4 ++
  padTo 32 nonce ++ padTo 32 (shake256 b.running) ++
  (if b.lastImage.isEmpty then List.replicate 32 0 else padTo 32 (shake256 b.lastImage)) ++ List.replicate 144 0

/-- QUOTE_REQUEST (R426): the index is reserved in non-volatile memory before the signature is made. -/
def State.quote (s : State) (nonce : List Byte) : State :=
  let b := s.boot
  if b.phase ≠ 2 then s
  else if 2 ^ 20 ≤ b.nextIndex then
    { s with boot := { b with quotes := b.quotes ++ [quoteHead b 1 0 nonce ++ List.replicate 2820 0] } }
  else if b.nvBroken then
    { s with boot := { b with quotes := b.quotes ++ [quoteHead b 2 0 nonce ++ List.replicate 2820 0] } }
  else
    let h := quoteHead b 0 b.nextIndex nonce
    { s with boot := { b with nextIndex := b.nextIndex + 1,
                              quotes := b.quotes ++ [h ++ padTo 2820 (Config.xmssSign b.nextIndex h)] } }

end Sys2Proof.Machine
end

