-- ==== Sys2Proof/Machine/Cellars.lean ====
section
/-! DEFINITION. The cellar processors: the routine subset, its loading and its run on one sector (R402 to R405); key
requests (R406). -/

namespace Sys2Proof.Machine

/-! ### Routines -/

/-- The state of a routine (R403, R404): its private registers and the sector with its buffered stores. -/
structure Cell where
  x : Vector Word 32
  buf : List Byte
deriving DecidableEq, Repr

/-- A private register; s0 reads as zero. -/
def Cell.reg (c : Cell) (r : SReg) : Word := if r = 0 then 0 else c.x[r.toNat]'(by have := r.isLt; omega)

/-- A private register written; s0 discards it. -/
def Cell.put (c : Cell) (r : SReg) (v : Word) : Cell :=
  if r = 0 then c else { c with x := c.x.set r.toNat v (by have := r.isLt; omega) }

/-- What a word of a routine does: a register result, a taken branch over so many words, or an abort. -/
inductive CellOut where
  | go (c : Cell)
  | skip (n : Nat)
  | abort
deriving DecidableEq, Repr

/-- The sector offset of a memory word (R403); none where R404 aborts. -/
def Cell.off (c : Cell) (a : SReg) (i : BitVec 9) (size : Nat) : Option Nat :=
  let o := (c.reg a + i.signExtend 64 * BitVec.ofNat 64 size).toNat
  if 64 ≤ o ∨ o % size ≠ 0 then none else some o

/-- A load from the sector (R403, R404): it sees the routine's own stores. -/
def Cell.load (c : Cell) (d a : SReg) (i : BitVec 9) (size : Nat) (sgn : Bool) : CellOut :=
  match c.off a i size with
  | none => .abort
  | some o => .go (c.put d (extLoad size sgn (leNat ((c.buf.drop o).take size))))

/-- A store to the buffer (R404). -/
def Cell.store (c : Cell) (d a : SReg) (i : BitVec 9) (size : Nat) : CellOut :=
  match c.off a i size with
  | none => .abort
  | some o => .go { c with buf := c.buf.take o ++ leBytes (c.reg d).toNat size ++ c.buf.drop (o + size) }

/-- A branch of a routine: forward only (R403). -/
def Cell.branch (c : Cell) (o : BitVec 12) (taken : Bool) : CellOut := if taken then .skip (o.toNat - 1) else .go c

/-- One word of a routine; none for a word outside the subset of R403. -/
def cellWord (i : Instr) (c : Cell) : Option CellOut :=
  let r2 (d a b : SReg) (f : Word → Word → Word) : Option CellOut := some (.go (c.put d (f (c.reg a) (c.reg b))))
  let r1 (d a : SReg) (f : Word → Word) : Option CellOut := some (.go (c.put d (f (c.reg a))))
  let br (o : BitVec 12) (t : Bool) : Option CellOut := some (c.branch o t)
  match i with
  | .add 0 d a b => r2 d a b fun a b => a + b
  | .sub 0 d a b => r2 d a b fun a b => a - b
  | .mul 0 d a b => r2 d a b fun a b => a * b
  | .mulh 0 d a b => r2 d a b fun a b => BitVec.ofInt 64 (a.toInt * b.toInt / 2 ^ 64)
  | .mulhu 0 d a b => r2 d a b fun a b => BitVec.ofNat 64 (a.toNat * b.toNat / 2 ^ 64)
  | .and 0 d a b => r2 d a b fun a b => a &&& b
  | .or 0 d a b => r2 d a b fun a b => a ||| b
  | .xor 0 d a b => r2 d a b fun a b => a ^^^ b
  | .sll 0 d a b => r2 d a b fun a b => a <<< (b.toNat % 64)
  | .srl 0 d a b => r2 d a b fun a b => a >>> (b.toNat % 64)
  | .sra 0 d a b => r2 d a b fun a b => a.sshiftRight (b.toNat % 64)
  | .slt 0 d a b => r2 d a b fun a b => b2w (a.slt b)
  | .sltu 0 d a b => r2 d a b fun a b => b2w (a.ult b)
  | .min 0 d a b => r2 d a b fun a b => if a.sle b then a else b
  | .max 0 d a b => r2 d a b fun a b => if b.sle a then a else b
  | .minu 0 d a b => r2 d a b fun a b => if a.ule b then a else b
  | .maxu 0 d a b => r2 d a b fun a b => if b.ule a then a else b
  | .clz 0 d a => r1 d a clz
  | .ctz 0 d a => r1 d a ctz
  | .popc 0 d a => r1 d a popc
  | .nop 0 => some (.go c)
  | .addi 0 d a i => r1 d a fun a => a + i.signExtend 64
  | .andi 0 d a i => r1 d a fun a => a &&& i.signExtend 64
  | .ori 0 d a i => r1 d a fun a => a ||| i.signExtend 64
  | .xori 0 d a i => r1 d a fun a => a ^^^ i.signExtend 64
  | .slti 0 d a i => r1 d a fun a => b2w (a.slt (i.signExtend 64))
  | .slli 0 d a h => r1 d a fun a => a <<< h.toNat
  | .srli 0 d a h => r1 d a fun a => a >>> h.toNat
  | .srai 0 d a h => r1 d a fun a => a.sshiftRight h.toNat
  | .lui 0 d i => some (.go (c.put d (i.signExtend 64 <<< 12)))
  | .beq 0 a b o => br o (c.reg a == c.reg b)
  | .bne 0 a b o => br o (c.reg a != c.reg b)
  | .blt 0 a b o => br o ((c.reg a).slt (c.reg b))
  | .bge 0 a b o => br o ((c.reg b).sle (c.reg a))
  | .bltu 0 a b o => br o ((c.reg a).ult (c.reg b))
  | .bgeu 0 a b o => br o ((c.reg b).ule (c.reg a))
  | .lb 0 d a i => some (c.load d a i 1 true)
  | .lbu 0 d a i => some (c.load d a i 1 false)
  | .lh 0 d a i => some (c.load d a i 2 true)
  | .lhu 0 d a i => some (c.load d a i 2 false)
  | .lw 0 d a i => some (c.load d a i 4 true)
  | .lwu 0 d a i => some (c.load d a i 4 false)
  | .ld 0 d a i => some (c.load d a i 8 false)
  | .sb 0 d a i => some (c.store d a i 1)
  | .sh 0 d a i => some (c.store d a i 2)
  | .sw 0 d a i => some (c.store d a i 4)
  | .sd 0 d a i => some (c.store d a i 8)
  | _ => none

/-- The words of a routine in order, `n` of them skipped by a taken branch; none is an abort (R403, R404). -/
def cellRun : List IWord → Nat → Cell → Option Cell
  | [], _, c => some c
  | _ :: r, n + 1, c => cellRun r n c
  | w :: r, 0, c =>
    match (decode w).bind fun i => cellWord i c with
    | some (.go c1) => cellRun r 0 c1
    | some (.skip n) => cellRun r n c
    | some .abort => none
    | none => none

/-- The registers at a routine's entry (R403). -/
def cellEntry (off : Nat) (x y : Word) (buf : List Byte) : Cell :=
  { x := (((Vector.replicate 32 0).set 1 (BitVec.ofNat 64 off)).set 2 x).set 3 y, buf := buf }

/-- A routine runs on the sector of `loc` (R402, R404): the memory it leaves and the result that lands. -/
def State.cellarRun (s : State) (n : BitVec 7) (loc : Nat) (x y : Word) : State × Word :=
  let ws := mgetD s.cellars n.toNat []
  let sec := loc / 64 * 64
  if ws = [] then (s.count 0x198 1, 0x8000000000000000)
  else
    match cellRun ws 0 (cellEntry (loc % 64) x y (s.mem.readBytes sec 64)) with
    | none => (s.count 0x198 1, 0x8000000000000001)
    | some c => (if c.buf = s.mem.readBytes sec 64 then s else s.memWrite sec c.buf, c.reg 2)

/-- The new walk of a routine's request names memory that has no cellar (R240, R248). -/
def cellarOk (r : State × Regen) : State × Regen :=
  match r with
  | (s, .ok accs) =>
    match accs.find? fun a => !(isHbm a.loc) with
    | some a => (s, .late ⟨12, a.va, faultInfo .write false 0⟩)
    | none => r
  | _ => r

/-- FSH_AT_CELLAR (R404): an empty slot makes no access (R248); else the request's generation is compared (R371), then the routine
runs and its result is on the way. -/
def State.fshRun (s : State) (k id : Nat) : State :=
  match s.ctxAt k with
  | none => s
  | some c =>
    match c.pendOf id with
    | none => s
    | some p =>
      let lands (s1 : State) (d : SReg) (v : Word) : State := s1.updCtx k fun c =>
        c.setPend { p with act := .vals, wr := [.s d v], accs := [], due := some (s.now + 1) }
      match p.act with
      | .fsh n x y d none =>
        if mgetD s.cellars n.toNat [] = [] then
          let r := s.cellarRun n 0 x y
          lands r.1 d r.2
        else
          match cellarOk (s.regen c (k / 4) .write p.anew p.accs) with
          | (s1, .late t) =>
            if c.afr.length < 8 then
              s1.updCtx k fun c => (c.setPend { p with late := true, anew := false }).postAfr
                (lateAfr 5 true t 0 (wordBits p.word) id)
            else s1.updCtx k fun c => c.setPend { p with due := some (s.now + 1) }
          | (s1, .retry) => s1.updCtx k fun c => c.setPend { p with due := some (s.now + 1) }
          | (s1, .ok accs) =>
            let a := accs.headD ⟨0, 0, 0, 0, false⟩
            let s2 := (s1.takeSector (a.loc / 64)).scrub [k] (a.loc / 64 * 64) 64
            let r := s2.cellarRun n a.loc x y
            lands r.1 d r.2
      | _ => s

/-! ### Loading -/

/-- The word is in the subset of R403, at place `i` of a routine of `n` words. -/
def cellOk (n i : Nat) (w : IWord) : Bool :=
  match decode w with
  | none => false
  | some ins =>
    (cellWord ins ⟨Vector.replicate 32 0, List.replicate 64 0⟩).isSome &&
    match ins with
    | .beq _ _ _ o => decide (1 ≤ o.toNat) && decide (i + o.toNat ≤ n)
    | .bne _ _ _ o => decide (1 ≤ o.toNat) && decide (i + o.toNat ≤ n)
    | .blt _ _ _ o => decide (1 ≤ o.toNat) && decide (i + o.toNat ≤ n)
    | .bge _ _ _ o => decide (1 ≤ o.toNat) && decide (i + o.toNat ≤ n)
    | .bltu _ _ _ o => decide (1 ≤ o.toNat) && decide (i + o.toNat ≤ n)
    | .bgeu _ _ _ o => decide (1 ≤ o.toNat) && decide (i + o.toNat ≤ n)
    | _ => true

/-- The load control (R405). -/
def cellCtl : Nat := 0x1FF50010000

/-- The staging area of a slot (R405). -/
def staging (slot : Nat) : Nat := 0x1FF50000000 + 512 * slot

/-- The words of a staged image; none where the load is refused (R405). -/
def State.staged (s : State) (slot : Nat) : Option (List IWord) :=
  let b := staging slot
  let n := s.mem.readLE b 4
  let ws := (List.range n).map fun i => BitVec.ofNat 32 (s.mem.readLE (b + 256 + 4 * i) 4)
  if 64 < n ∨ (s.mem.readBytes (b + 4) 252).any (· != 0) ∨ (s.mem.readBytes (b + 256 + 4 * n) (256 - 4 * n)).any (· != 0) then
    none
  else if (ws.mapIdx fun i w => cellOk n i w).all id then some ws else none

/-- CELLAR_LOAD (R405): the staged routine replaces the slot whole in every cellar, or is refused; then go clears. -/
def State.cellarLoad (s : State) : State :=
  let v := s.mem.readLE cellCtl 8
  let slot := v % 128
  if v / 128 % 2 = 0 then s
  else
    match s.staged slot with
    | some ws =>
      let done := (v / 65536 + 1) % 65536
      let tab := if ws = [] then mdel s.cellars slot else mput s.cellars slot ws
      { s with cellars := tab, mem := s.mem.writeLE cellCtl 8 (slot + 65536 * done) }
    | none => { s with mem := s.mem.writeLE cellCtl 8 (slot + 256 + v / 65536 % 65536 * 65536) }

/-! ### Keys -/

/-- The key request record (R406). -/
def keyReq : Nat := 0x1FF60000000

/-- The agent ends a key request (R406): the key bytes and the operation are zeroed, the status is written. -/
def State.keyEnd (s : State) (status : Byte) : State :=
  { s with mem := ((s.mem.writeBytes (keyReq + 16) (List.replicate 64 0)).write (keyReq + 2) 0).write (keyReq + 3) status }

/-- A key request is refused whatever its operation (R406). -/
def State.keyBad (s : State) : Bool :=
  let h := s.mem.readLE keyReq 2
  decide (h = 0) || decide (4096 ≤ h) || (s.mem.readBytes (keyReq + 4) 12).any (· != 0) ||
  (s.mem.readBytes (keyReq + 80) 48).any (· != 0) || s.mem.readBytes (keyReq + 16) 32 == s.mem.readBytes (keyReq + 48) 32

/-- KEY_INSTALL (R406): the entry's keys are replaced whole; any operation other than install and erase is refused. -/
def State.keyInstall (s : State) : State :=
  let dk := s.mem.readBytes (keyReq + 16) 32
  let tk := s.mem.readBytes (keyReq + 48) 32
  if (s.mem.read (keyReq + 2)) = 0 then s
  else if s.keyBad ∨ s.mem.read (keyReq + 2) ≠ 1 then s.keyEnd 2
  else ({ s with keys := mput s.keys (s.mem.readLE keyReq 2) (dk, tk) } : State).keyEnd 1

/-- KEY_ERASE (R406): an empty entry is done too. -/
def State.keyErase (s : State) : State :=
  if (s.mem.read (keyReq + 2)) = 0 then s
  else if s.keyBad ∨ s.mem.read (keyReq + 2) ≠ 2 then s.keyEnd 2
  else ({ s with keys := mdel s.keys (s.mem.readLE keyReq 2) } : State).keyEnd 1

end Sys2Proof.Machine
end

