-- ==== Sys2Proof/Machine/Stations.lean ====
section
/-! DEFINITION. The start of a queue's head at V, M or C (R77, R78, R138, R197, R306), the end of a TLB miss walk (R241,
R370, R378), the sequencer's choice (R140), the creation of contexts from records (R134, R137). -/

namespace Sys2Proof.Machine

/-! ### Station starts -/

/-- A VSF word, which needs a place in the SFU's queue (R138). -/
def isVsf : Instr → Bool
  | .vexp2 .. => true
  | .vlog2 .. => true
  | .vrsq .. => true
  | .vrcp .. => true
  | .vtanh .. => true
  | .vsigm .. => true
  | _ => false

/-- A word of the V divider (R78). -/
def isVdiv : Instr → Bool
  | .vfdiv .. => true
  | .vfsqrt .. => true
  | _ => false

/-- COPY or CFILL, and whether it fills. -/
def isCopy : Instr → Option Bool
  | .copy .. => some false
  | .cfill .. => some true
  | _ => none

/-- The requests that a cluster's SFU still holds (R138). -/
def State.sfuHeld (s : State) (cl : Nat) : List Nat := (mgetD s.sfu cl []).filter (s.now < ·)

/-- The entry as it would start now: a copy keeps the bank formats of its start (R150). -/
def State.startForm (s : State) (core : Nat) (e : QEntry) : QEntry :=
  { e with setup := e.setup.take 8 ++ (List.range 16).map (s.fmtReg core) }

/-- The banks of its own core that a copy needs are free of other commands' locks (R105). -/
def State.copyFree (s : State) (k : Nat) (e : QEntry) (fill : Bool) : Bool :=
  match (s.coreAt (k / 4)).locks, s.ctxAt k with
  | [], _ => true
  | _, none => true
  | _, some c => !(s.banksLocked (copyHolder c.uid)
      ((banksOf ((s.startForm (k / 4) e).copyAccs fill (k / 4))).filter fun b => b.1 == k / 4))

/-- A matrix command waits at M for the engine's port instead of running there (R182). -/
def portWord : Instr → Bool
  | .mballoc .. => true
  | .mbfree .. => true
  | .mzero .. => true
  | .mmac .. => true
  | .mdrain .. => true
  | .mfill .. => true
  | _ => false

/-- The station's own conditions for the start of `i` (R78, R138, R182, R197, R260, R306). -/
def State.unitFree (s : State) (k : Nat) (c : Ctx) (st : Station) (e : QEntry) (i : Instr) : Bool :=
  let core := s.coreAt (k / 4)
  match st with
  | .s => false
  | .v =>
    decide (core.vAt ≤ s.now) && c.active.isNone && (e.pops.all fun p => p.data.isSome) && !(c.pend.any (·.holdV)) &&
    (!(isVdiv i) || decide (core.vdiv ≤ s.now)) &&
    (!(isVsf i) || decide ((s.sfuHeld (clusterOf (k / 4))).length < 16))
  | .m => decide (core.mAt ≤ s.now) && c.mact.isNone && (!(portWord i) || s.portRoom c e)
  | .c =>
    decide (core.cAt ≤ s.now) && c.cact.isNone && !(s.relayBusy c.uid) &&
    match i with
    | .copy .. => core.copying.isNone && s.copyFree k e false
    | .cfill .. => core.copying.isNone && s.copyFree k e true
    | .rsend p a b => s.rsendStarts (k / 4) (.rsend p a b) e
    | _ => true

/-- The head of the berth's queue at a station that can start now (R27, R28, R77, R78). -/
def State.startable (s : State) (k : Nat) (st : Station) : Option (QEntry × Instr) :=
  match s.ctxAt k with
  | none => none
  | some c =>
    match c.queue st with
    | [] => none
    | e :: _ =>
      match e.word with
      | none => none
      | some i =>
        if e.at_ < s.now ∧ c.canPop st e.p ∧ !(c.owes st) ∧ !(c.stopped e.id) ∧ s.unitFree k c st e i then some (e, i)
        else none

/-- What the station notes of a start (R78). -/
def Core.noteStart (c : Core) (now : Nat) (st : Station) (i : Instr) : Core :=
  match st with
  | .s => c
  | .v => { c with vAt := now + 1, vdiv := if isVdiv i then now + 8 else c.vdiv }
  | .m => { c with mAt := now + 1 }
  | .c => { c with cAt := now + 1 }

/-- The entry leaves its queue for the station, its tokens popped; the next one is the head from now on (R27, R78). -/
def Ctx.takeHead (c : Ctx) (now : Nat) (st : Station) (e : QEntry) : Ctx :=
  let rest := match c.queue st with | _ :: x :: r => { x with headAt := now } :: r | _ => []
  let c1 := ((c.popToks st e.p).older e.id (Entry.pop (waitsOf st e.p))).setQueue st rest
  match st with
  | .s => c1
  | .v => { c1 with active := some e }
  | .m => { c1 with mact := some e }
  | .c => { c1 with cact := some e }

/-- STATION_START (R77, R78): the head starts, and the word's own effect is the next step. -/
def State.stationStart (s : State) (k : Nat) (st : Station) : State :=
  match s.startable k st with
  | none => s
  | some (e, i) =>
    let s1 := (s.updCore (k / 4) fun c => c.noteStart s.now st i).updCtx k fun c => c.takeHead s.now st e
    if portWord i then s1 else { s1.focus k with turn := .start st }

/-- SFU_REQUEST_ACCEPT (R138): a request takes its place in the cluster's queue, and the word starts. -/
def State.sfuAccept (s : State) (k id : Nat) : State :=
  match s.startable k .v with
  | none => s
  | some (e, i) =>
    if e.id ≠ id ∨ !(isVsf i) then s
    else
      let cl := clusterOf (k / 4)
      let held := s.sfuHeld cl
      { s.stationStart k .v with sfu := mput s.sfu cl (held ++ [Nat.max s.now (held.getLastD s.now) + 16]) }

/-- The berths of a core with a start to make at a station. -/
def State.starters (s : State) (core : Nat) (st : Station) : List (Nat × QEntry × Instr) :=
  (List.range 4).filterMap fun b => (s.startable (4 * core + b) st).map (4 * core + b, ·)

/-- The station's choice among them: the head that has waited longest, then the lower berth (R78). -/
def State.startPick (s : State) (core : Nat) (st : Station) : Option (Nat × QEntry × Instr) :=
  (s.starters core st).foldl (fun b x => match b with
    | none => some x
    | some y => if x.2.1.headAt < y.2.1.headAt then some x else some y) none

/-! ### Copies -/

/-- The next granule of a berth's COPY or CFILL: of the running command when its cycle has come, of a suspended one whose record
is gone when the core's engine is free (R306, R310). -/
def State.copyTurn (s : State) (k : Nat) : Bool :=
  match s.ctxAt k with
  | none => false
  | some c =>
    match c.cact with
    | none => false
    | some e =>
      let core := s.coreAt (k / 4)
      match e.word.bind isCopy with
      | none => false
      | some fill =>
        if core.copying = some k then core.copyAt.any fun t => decide (t ≤ s.now)
        else e.begun && !e.susp && !(c.stopped e.id) && core.copying.isNone && decide (core.cAt ≤ s.now) && s.copyFree k e fill

/-! ### TLB miss walks -/

/-- A walk's translation enters the core's TLB (R370). -/
def State.tlbFill (s : State) (core : Nat) (t : Tlb) : State := s.updCore core fun c => { c with tlb := t :: c.tlb }

/-- The context's walk has ended: it issues the word again. -/
def State.walked (s : State) (k : Nat) : State := s.updCtx k fun c => { c with block := .none, readyAt := s.now }

/-- The walk goes on in the next cycle: an access of the agent was refused by its generation (R371). -/
def State.walkLater (s : State) (k : Nat) : State := s.updCtx k fun c => { c with blockedAt := s.now + 1 }

/-- The walk's fault is the word's trap (R234, R241, R382). -/
def State.walkTrap (s : State) (k : Nat) (c : Ctx) (t : Trap) : State := (s.walked k).takeTrap k t c.pc

/-- The trap of a fault met by a walk: a fetch reports the target and its own codes. -/
def walkFault (va : Word) (want : Want) (lane cause : Nat) (bit1 : Bool) : Trap :=
  if want = .fetch then ⟨7, va, if cause = 11 then 3 else 4⟩ else ⟨cause, va, faultInfo want bit1 lane⟩

/-- The grow request of a blocked walk, if its walk has met one (R378). -/
def State.growWanted (s : State) (k : Nat) : Option (Ctx × Word × Nat × Nat × Nat) :=
  match s.ctxAt k with
  | none => none
  | some c =>
    match c.block with
    | .walk va .write lane =>
      match s.walk c.root.toNat c.asid.toNat va.toNat with
      | .grow pte desc => some (c, va, lane, pte, desc)
      | _ => none
    | _ => none

/-- GROW_REQUEST (R378): the page agent's answer to a context's store. -/
def State.growRequest (s : State) (k : Nat) : State :=
  match s.growWanted k with
  | none => s
  | some (c, va, lane, pte, desc) =>
    match s.growApply c.root.toNat c.asid.toNat pte desc with
    | (s1, .mapped) => s1
    | (s1, .empty) => s1.walkTrap k c (walkFault va .write lane 11 true)
    | (s1, .malformed) => s1.walkTrap k c (walkFault va .write lane 12 true)
    | (s1, .later) => s1.walkLater k

/-- PAGE_WALK_COMPLETE (R370): the walk ends with a translation, or with the word's trap; where the die lacks a sector that it
reads, it asks for it (R361). -/
def State.walkComplete (s0 : State) (k : Nat) : State :=
  match s0.ctxAt k with
  | none => s0
  | some c =>
    match c.block with
    | .walk va want lane =>
      if s0.blocked (dieOf (k / 4)) false (s0.walkSecs c.root.toNat va.toNat) then
        s0.queueAsks (dieOf (k / 4)) false (s0.walkSecs c.root.toNat va.toNat)
      else
      let s := s0.walkScrub c.root.toNat va.toNat
      let w := s.walk c.root.toNat c.asid.toNat va.toNat
      match w.use va.toNat want c.priv with
      | .fault z b => if want = .cache ∧ z ≠ 11 then s.walked k else s.walkTrap k c (walkFault va want lane z b)
      | .grow pte desc =>
        match s.growApply c.root.toNat c.asid.toNat pte desc with
        | (s1, .mapped) => s1.walked k
        | (s1, .empty) => s1.walkTrap k c (walkFault va .write lane 11 true)
        | (s1, .malformed) => s1.walkTrap k c (walkFault va .write lane 12 true)
        | (s1, .later) => s1.walkLater k
      | _ =>
        match w with
        | .leaf t => (s.tlbFill (k / 4) t).walked k
        | _ => s.walked k
    | _ => s0

/-! ### Landings that end a wait -/

/-- LANDING (R32, R79): the word's write takes effect, and a context that waited for it goes on. -/
def State.land (s : State) (k id : Nat) : State :=
  match s.ctxAt k with
  | none => s
  | some c =>
    match c.pendOf id with
    | none => s
    | some p =>
      if s.landable (k / 4) c p then
        (s.landOne k c p).updCtx k fun c1 =>
          if c1.waitNow = .landing id ∧ (c1.pendOf id).isNone then { c1.setWait .none with readyAt := s.now } else c1
      else s

/-- STORE_TAKES_EFFECT (R92), for the stores numbered `id`. -/
def State.storeEffect (s : State) (k id : Nat) : State :=
  match s.ctxAt k with
  | none => s
  | some c =>
    match c.stores.find? fun p => p.id == id && s.storable (k / 4) c p with
    | none => s
    | some p => s.storeOne k c p

/-! ### The sequencer -/

/-- The berth is ready (R140): its tokens may have come. -/
def Ctx.isReady (c : Ctx) : Bool :=
  match c.block with
  | .none => true
  | .tokens p => c.canPop .s p
  | _ => false

/-- When the berth's current spell of readiness began: now, where its tokens have just come (R140). -/
def Ctx.readySince (c : Ctx) (now : Nat) : Nat := match c.block with | .tokens _ => now | _ => c.readyAt

/-- The ready berths of a core other than `b`. -/
def State.readyOthers (s : State) (core : Nat) (b : Option Nat) : List (Nat × Ctx) :=
  (List.range 4).filterMap fun x =>
    if b = some x then none
    else match s.ctxAt (4 * core + x) with
      | some c => if c.isReady then some (x, c) else none
      | none => none

/-- The choice of R140: the longest ready, then the higher priority, then the lower berth. -/
def pickReady (now : Nat) (l : List (Nat × Ctx)) : Option (Nat × Ctx) :=
  l.foldl (fun best x => match best with
    | none => some x
    | some y =>
      if x.2.readySince now < y.2.readySince now ∨
          (x.2.readySince now = y.2.readySince now ∧ y.2.prio < x.2.prio) then some x else some y) none

/-- The running berth of a core, if it can go on. -/
def State.runner (s : State) (core : Nat) : Option Nat :=
  match (s.coreAt core).run with
  | none => none
  | some b => match s.ctxAt (4 * core + b) with
    | some c => if c.isReady then some b else none
    | none => none

/-- The sequencer leaves the running berth (R140): it cannot go on, it found a counter or queue full, or its 1,024 cycles
are over, and another berth is ready: `runAt` is since when it has run while another was ready (log entry 98). -/
def State.mustSwitch (s : State) (core : Nat) : Bool :=
  let c := s.coreAt core
  match s.runner core with
  | none => !(s.readyOthers core none).isEmpty
  | some b => (c.full || decide (c.runAt + 1024 ≤ s.now)) && !(s.readyOthers core (some b)).isEmpty

/-- SEQUENCER_SWITCH (R140). -/
def State.switch (s : State) (core : Nat) : State :=
  if s.mustSwitch core then
    let old := (s.coreAt core).run
    match pickReady s.now (s.readyOthers core old) with
    | none =>
      match pickReady s.now (s.readyOthers core none) with
      | none => s
      | some (b, _) => s.updCore core fun c => { c with run := some b, runAt := s.now, full := false }
    | some (b, _) =>
      let s1 := match s.runner core with
        | some o => s.updCtx (4 * core + o) fun c => { c with readyAt := s.now }
        | none => s
      s1.updCore core fun c => { c with run := some b, runAt := s.now, full := false }
  else s

/-- The key of the berth from which a core's S issues now: none while it has issued in this cycle or its island's throttle
holds it (R77, R423). -/
def State.issuer (s : State) (core : Nat) : Option Nat :=
  if s.now < (s.coreAt core).sAt ∨ s.throttled core then none else (s.runner core).map (4 * core + ·)

/-! ### Contexts from records -/

/-- LOCAL_READY_LIST_TAKE (R137). -/
def State.takeReady (s : State) (core : Nat) : State :=
  match s.readyPick core with
  | none => s
  | some r => s.readyTake core r

/-- A core may pop its die's run queue (R134); the head record of the selected level fits. -/
def State.popOk (s : State) (core : Nat) : Option (Nat × Bool × QRec) :=
  if (s.freeBerth core).isNone || s.hasLaunchWork core || (s.readyPick core).isSome then none
  else
    match s.popLevel (dieOf core) with
    | none => none
    | some (l, aged) =>
      match (s.runq (8 * dieOf core + l)).items with
      | [] => none
      | q :: _ => if s.recFits core q then some (l, aged, q) else none

/-- RUN_QUEUE_POP (R134, R135). -/
def State.runPop (s : State) (core : Nat) : State :=
  match s.popOk core with
  | none => s
  | some (l, aged, q) => (s.popRunq (dieOf core) l aged).startRec core q

/-- The cores of a die. -/
def coresOf (die : Nat) : List Nat :=
  match die with
  | 0 => List.range 384
  | 1 => (List.range 384).map (384 + ·)
  | 2 => (List.range 256).map (768 + ·)
  | _ => (List.range 256).map (1024 + ·)

/-- The first core of a die that may pop. -/
def State.popper (s : State) (die : Nat) : Option Nat :=
  if (List.range 8).all fun l => (s.runq (8 * die + l)).items.isEmpty then none
  else (coresOf die).find? fun core => (s.popOk core).isSome

end Sys2Proof.Machine
end

