-- ==== Sys2Proof/Machine/Deadlock.lean ====
section
/-! DEFINITION. Deadlock detection (R141, R201, R383): what a blocked context awaits, who owns it, the closed set, the trap. -/

namespace Sys2Proof.Machine

/-- An awaited object (R383). -/
inductive Awaited where
  | gran (core off : Nat)
  | counter (core entry : Nat)
  | barrier (group phase : Nat)
  | queue (q : Nat)
  | permit (ch : Nat)
deriving DecidableEq, Repr

/-- The report of an awaited object (R383). -/
def Awaited.tval : Awaited → Word
  | .gran core off => BitVec.ofNat 64 (2 ^ 60 + spadLoc core (off / 16 * 16))
  | .counter core e => BitVec.ofNat 64 (2 * 2 ^ 60 + core + 2048 * e)
  | .barrier g ph => BitVec.ofNat 64 (3 * 2 ^ 60 + g + 65536 * (ph % 2 ^ 32))
  | .queue q => BitVec.ofNat 64 (4 * 2 ^ 60 + q)
  | .permit ch => BitVec.ofNat 64 (5 * 2 ^ 60 + ch % 32 + 32 * (ch / 64) + 64 * (ch / 32 % 2))

/-- The first granule that a waiting VLD still needs full (R254). -/
def State.feWanted (s : State) (p : Pend) : Option Awaited :=
  let first (gs : List Nat) : Option Awaited :=
    (gs.find? fun g => !(s.isFull 0 g)).map fun g => .gran (g / 32768) (g % 32768 * 16)
  match p.act with
  | .fecells _ gs _ => first gs
  | .feconv _ gs .. => first gs
  | _ => none

/-- Something of the context outside S can still go on by itself: an access or a result on its way, a word at a station or at an
engine, a head whose tokens are there. -/
def State.moving (s : State) (k : Nat) (c : Ctx) : Bool :=
  (c.pend.any fun p => p.due.any fun t => decide (s.now < t) || s.landable (k / 4) c p) ||
  (c.stores.any fun p => p.due.any fun t => decide (s.now < t) || s.storable (k / 4) c p) ||
  c.active.isSome || c.mact.isSome || c.cact.isSome || !c.min.isEmpty || s.relayBusy c.uid ||
  [Station.v, .m, .c].any fun st => match c.queue st with
    | [] => false
    | e :: _ => e.word.isSome && c.canPop st e.p && !(c.owes st) && !(st == .v && c.pend.any (·.holdV))

/-- S goes no further for the context: it has held a word for 10 µs (log entry 85), waits for V to check one, or for tokens. -/
def State.sHeld (s : State) (c : Ctx) : Bool :=
  match c.block with
  | .none => c.heldAt.any fun t => decide (t + 18000 ≤ s.now)
  | .vstart _ => true
  | .tokens _ => true
  | _ => false

/-- The waits at V, M and C of a context of which S goes no further while nothing of it can go on (R86, R254): the waiting entry,
whether it has popped its tokens, and the object. -/
def State.heldWaits (s : State) (k : Nat) (c : Ctx) : List (QEntry × Bool × Awaited) :=
  if s.sHeld c && !(s.moving k c) then
    (c.pend.filterMap fun p => if p.holdV then (s.feWanted p).map fun w =>
      ({ blankEntry p.id with pc := p.pc, p := depOf p.word, word := p.word }, true, w) else none) ++
    [Station.v, .m, .c].filterMap fun st => match c.queue st with
      | [] => none
      | e :: _ =>
        if e.word.isNone ∨ s.now ≤ e.at_ then none
        else ((waitsOf st e.p).find? fun q => c.tok q == 0).map fun q => (e, false, .queue q)
  else []

/-- The oldest of them. -/
def State.heldWait (s : State) (k : Nat) (c : Ctx) : Option (QEntry × Bool × Awaited) :=
  (s.heldWaits k c).foldl (fun b x => match b with
    | none => some x
    | some y => if x.1.id < y.1.id then some x else some y) none

/-- A word that has not completed carries a push into the queue (R141). -/
def Ctx.pushComing (c : Ctx) (q : Nat) : Bool :=
  (c.pend.any fun p => p.push.contains q) || (c.stores.any fun p => p.push.contains q) ||
  (c.done.any fun d => d.2.2.contains q) || (c.owed.any fun o => o.2 == q)

/-- The wait at V, M or C for which the context stands still: where S waits for tokens, that of a word which would push them. -/
def State.stationWait (s : State) (k : Nat) (c : Ctx) : Option (QEntry × Bool × Awaited) :=
  match c.block with
  | .none => s.heldWait k c
  | .vstart _ => s.heldWait k c
  | .tokens p => if ((waitsOf .s p).find? fun q => c.tok q == 0).any c.pushComing then s.heldWait k c else none
  | _ => none

/-- What the context of berth `k` awaits; none for one that is not blocked, or waits for something R141 does not name. -/
def State.awaited (s : State) (k : Nat) : Option Awaited :=
  match s.ctxAt k with
  | none => none
  | some c =>
    match s.stationWait k c with
    | some x => some x.2.2
    | none =>
    match c.block with
    | .tokens p => ((waitsOf .s p).find? fun q => c.tok q == 0).map .queue
    | .cntwait _ e _ => some (.counter (k / 4) e)
    | .gbar _ home num ph => some (.barrier (4096 * home + num) ph)
    | .rsend => (s.rsendWait k).map fun x => .permit x.1
    | .landing id => match c.pendOf id with
      | some p => match p.act with
        | .lfe _ _ =>
          let a := p.accs.headD ⟨0, 0, 0, 0, false⟩
          if s.actReady p then none else some (.gran (spadOf a.loc).1 (spadOf a.loc).2)
        | _ => none
      | none => none
    | _ => none

/-- A row of bytes reaches a granule of a core's scratchpad. -/
def hitsGran (own : Nat) (va : Word) (n core off : Nat) : Bool :=
  match placeOf own va.toNat with
  | .spad c o => c == core && decide (o < off / 16 * 16 + 16) && decide (off / 16 * 16 < o + n)
  | _ => false

/-- A queued or suspended engine command of the context that is not running satisfies `f` (R141). -/
def State.anyWaiting (s : State) (k : Nat) (c : Ctx) (f : QEntry → Instr → Bool) : Bool :=
  let running := if (s.coreAt (k / 4)).copying = some k then [] else c.cact.toList
  let inService (e : QEntry) : Bool := s.engines.any fun x => (s.served x.1).any fun y => y.1 == k && y.2.2.id == e.id
  (c.cq ++ running ++ c.mq ++ c.mact.toList ++ c.min.filter fun e => !(inService e)).any fun e =>
    match e.word with | some i => f e i | none => false

/-- The entry's target includes a granule (R141). -/
def QEntry.fills (own core off : Nat) (e : QEntry) (i : Instr) : Bool :=
  match i with
  | .copy .. => e.liveRows.any fun r => hitsGran own (e.dRow r) (e.dLen false own r) core off
  | .cfill .. => e.liveRows.any fun r => hitsGran own (e.dRow r) e.cLen core off
  | .mdrain .. => (List.range e.bands).any fun b =>
      e.mapCore b == core && decide (e.mapOff b < off / 16 * 16 + 16) &&
      decide (off / 16 * 16 < e.mapOff b + e.bandRows b * e.mN * accBytes e.mAcc)
  | _ => false

/-- The entry's arrival names a waiting-task entry (R141). -/
def QEntry.posts (own core n : Nat) (e : QEntry) (i : Instr) : Bool :=
  let target := match placeOf own e.x.toNat with | .spad c _ => c | _ => own
  match i with
  | .copy .. => e.cKind == 2 && e.cWent == n && target == core
  | .cfill .. => e.cKind == 2 && e.cWent == n && target == core
  | .mdrain .. => (List.range e.bands).any fun b => e.mapKind b == 2 && e.mapWent b == n && e.mapCore b == core
  | _ => false

/-- The commands that a save left queued or suspended (R386). -/
def Saved.commands (v : Saved) : List QEntry := v.cq ++ v.atC.toList ++ v.mq ++ v.atM.toList ++ v.atE

/-- The contexts with a waiting command that satisfies `f`, by uid: those that are swapped out too. -/
def State.commandOwners (s : State) (f : Nat → QEntry → Instr → Bool) : List Nat :=
  (s.liveKeys.filterMap fun k => match s.ctxAt k with
    | some c => if s.anyWaiting k c (f (k / 4)) then some c.uid else none
    | none => none) ++
  s.saved.filterMap fun x =>
    if (s.berthOf x.2.uid).isNone && x.2.commands.any fun e => e.word.any (f x.2.core e) then some x.2.uid else none

/-- The sender contexts of the enabled channels that satisfy `f`; none when one of them has no sender yet (R201). -/
def State.channelOwners (s : State) (f : Channel → Bool) : Option (List Nat) :=
  (s.channels.filter fun c => c.2.en && f c.2).foldl (fun acc c => match acc, c.2.sender with
    | some l, some u => some (l ++ [u])
    | _, _ => none) (some [])

/-- Owners by name, where there are any. -/
def named (l : List Nat) (ch : Option (List Nat)) : Option (List Nat) :=
  match ch with
  | none => none
  | some m => if (l ++ m).isEmpty then none else some (l ++ m)

/-- The context waits in a GBAR for the phase: at its berth, or in a save area. -/
def State.waitsAt (s : State) (g phase uid : Nat) : Bool :=
  let here (b : Block) : Bool := match b with | .gbar _ home num ph => home * 4096 + num == g && ph == phase | _ => false
  match s.berthOf uid with
  | some k => match s.ctxAt k with | some c => here c.waitNow | none => false
  | none => s.saved.any fun x => x.2.uid == uid && here x.2.block

/-- The owners of what a context awaits, by uid; none when the object has no nameable owner (R141). -/
def State.owners (s : State) (c : Ctx) (w : Awaited) : Option (List Nat) :=
  match w with
  | .gran core off =>
    named (s.commandOwners fun own e i => e.fills own core off i)
      (s.channelOwners fun x => x.receiverCore == core && decide (wfld x.d1 0 19 ≤ off) &&
        decide (off < wfld x.d1 0 19 + 16 * x.ssize * x.slots))
  | .counter core n =>
    named (s.commandOwners fun own e i => e.posts own core n i)
      (s.channelOwners fun x => x.receiverCore == core && wfld x.d1 19 2 == 2 && wfld x.d1 21 6 == n)
  | .barrier g ph =>
    let gr := s.group g
    let here := if ph = gr.phase then gr.arr else gr.next
    let away := gr.members.filter fun m => !(here.contains m.1)
    some (if away.isEmpty then here.filter (s.waitsAt g ph) else away.map Prod.fst)
  | .queue q => if c.pushComing q then none else some [c.uid]
  | .permit ch => (s.channel ch).receiver.map ([·])

/-- The probe's set (R141): the blocked contexts reached so far by key, those still to visit by uid; none where it is
dropped. -/
def State.probeGo (s : State) : Nat → List Nat → List Nat → Option (List Nat)
  | _, [], seen => some seen
  | 0, _, _ => none
  | fuel + 1, u :: todo, seen =>
    match s.berthOf u with
    | none => none
    | some k =>
      if seen.contains k then s.probeGo fuel todo seen
      else
        match s.ctxAt k, s.awaited k with
        | some c, some w =>
          match s.owners c w with
          | none => none
          | some l => s.probeGo fuel (l ++ todo) (seen ++ [k])
        | _, _ => none

/-- The least key of a set. -/
def leastKey : List Nat → Option Nat
  | [] => none
  | k :: r => match leastKey r with
    | some j => some (Nat.min k j)
    | none => some k

/-- The deadlock trap (R141, R382, R383): the wait is abandoned, and the saved pc is the blocked word, which the return
executes again. -/
def State.deadlockTrap (s : State) (k : Nat) (c : Ctx) (w : Awaited) : State :=
  let t : Trap := ⟨15, w.tval, 0⟩
  let inWait (id : Nat) : State :=
    match c.pendOf id with
    | none => s
    | some p =>
      let s1 := (s.abandon k).updCtx k fun c => { c with retired := c.retired - 1 }
      s1.takeTrap k t p.pc
  match s.stationWait k c with
  | some (e, popped, _) => s.dropTrap k e t fun c => if popped then c.returnToks .v e.p else c
  | none =>
  match c.block with
  | .none => s
  | .cntwait id _ _ => inWait id
  | .gbar id _ _ _ => inWait id
  | .landing id => inWait id
  | .rsend => match s.rsendWait k with
    | some x => s.dropTrap k x.2 t id
    | none => s
  | _ => (s.abandon k).takeTrap k t c.pc

/-- DEADLOCK_PROBE (R141): a closed set's lowest context takes the trap; else the timer starts again. -/
def State.deadlockProbe (s : State) (k : Nat) : State :=
  match s.ctxAt k with
  | none => s
  | some c =>
    let again (s : State) : State := s.updCtx k fun c => { c with blockedAt := s.now }
    match s.probeGo (16 * s.liveKeys.length * s.liveKeys.length + 16) [c.uid] [] with
    | none => again s
    | some set =>
      match leastKey set with
      | none => again s
      | some v =>
        match s.ctxAt v, s.awaited v with
        | some cv, some w => again (s.deadlockTrap v cv w)
        | _, _ => again s

/-- A resident context that has been blocked for 10 µs (R141). -/
def State.probeDue (s : State) (k : Nat) : Bool :=
  match s.ctxAt k with
  | none => false
  | some c => decide (c.blockedAt + 18000 ≤ s.now) && (s.awaited k).isSome

end Sys2Proof.Machine
end

