-- ==== Sys2Proof/Machine/Harts.lean ====
section
/-! DEFINITION. A Hostel hart (R389): its registers, its traps with their delegation, its CSRs and its address translation
by Sv57 and Sv57x4, from the RISC-V manuals that the rule's profile names (log entry 89). -/

namespace Sys2Proof.Machine

/-- Hart `h`. -/
def State.hartAt (s : State) (h : Nat) : Hart := mgetD s.harts h Hart.reset

/-- Hart `h` is one of the 64, firmware has released it (R410), and it is not retired (R420). -/
def State.hartRuns (s : State) (h : Nat) : Bool :=
  decide (h < 64) && (s.boot.phase == 1 || s.boot.phase == 2) && !(s.retiredHarts.contains h)

/-- The package with a hart replaced. -/
def State.setHart (s : State) (h : Nat) (t : Hart) : State := { s with harts := mput s.harts h t }

/-- x[r]: x0 reads as zero. -/
def Hart.reg (t : Hart) (r : BitVec 5) : Word := if r = 0 then 0 else t.x[r.toNat]'(by have := r.isLt; omega)

/-- A register write: x0 discards it. -/
def Hart.setReg (t : Hart) (r : BitVec 5) (v : Word) : Hart :=
  if r = 0 then t
  else
    let x := t.x.set r.toNat v (by have := r.isLt; omega)
    { t with x := x }

/-! ### Traps -/

/-- A hart's exception: its cause, the address or word it reports, and the guest physical address of a guest-page fault. -/
structure HTrap where
  cause : Nat
  tval : Word
  gpa : Nat
deriving DecidableEq, Repr

/-- Bits of a status word set from `v`: the bits of `m` take `v`'s, the rest stay. -/
def inBits (old m v : Word) : Word := (old &&& ~~~m) ||| (v &&& m)

/-- A bit as a word, at place `i`. -/
def atBit (b : Bool) (i : Nat) : Word := if b then BitVec.twoPow 64 i else 0

/-- The trap reports a guest virtual address. -/
def HTrap.gva (x : HTrap) (virt : Bool) : Bool := virt && [0, 1, 3, 4, 5, 6, 7, 12, 13, 15, 20, 21, 23].contains x.cause

/-- Where a trap vector leads: an interrupt's place in a vectored table. -/
def trapPc (tvec : Word) (irq : Bool) (cause : Nat) : Word :=
  (tvec &&& ~~~3#64) + (if irq && wfld tvec 0 2 == 1 then BitVec.ofNat 64 (4 * cause) else 0)

/-- The cause register's value. -/
def causeWord (irq : Bool) (cause : Nat) : Word := BitVec.ofNat 64 cause ||| atBit irq 63

/-- A trap into M-mode. -/
def Hart.trapM (t : Hart) (irq : Bool) (x : HTrap) : Hart :=
  let st := atBit (wbit t.mstatus 3) 7 ||| BitVec.ofNat 64 (2048 * t.mode) ||| atBit (x.gva t.virt) 38 ||| atBit t.virt 39
  { t with mepc := t.pc, mcause := causeWord irq x.cause, mtval := x.tval, mtval2 := BitVec.ofNat 64 (x.gpa / 4),
           mstatus := inBits t.mstatus 0xC000001888 st, mode := 3, virt := false, pc := trapPc t.mtvec irq x.cause }

/-- A trap into HS-mode. -/
def Hart.trapS (t : Hart) (irq : Bool) (x : HTrap) : Hart :=
  let st := atBit (wbit t.mstatus 1) 5 ||| atBit (t.mode != 0) 8
  let hs := atBit (x.gva t.virt) 6 ||| atBit t.virt 7 ||| atBit (if t.virt then t.mode != 0 else wbit t.hstatus 8) 8
  { t with sepc := t.pc, scause := causeWord irq x.cause, stval := x.tval, htval := BitVec.ofNat 64 (x.gpa / 4),
           mstatus := inBits t.mstatus 0x122 st, hstatus := inBits t.hstatus 0x1C0 hs, mode := 1, virt := false,
           pc := trapPc t.stvec irq x.cause }

/-- A trap into VS-mode, which sees its interrupts under the numbers of S-mode. -/
def Hart.trapVS (t : Hart) (irq : Bool) (x : HTrap) : Hart :=
  let cause := if irq ∧ (x.cause = 2 ∨ x.cause = 6 ∨ x.cause = 10) then x.cause - 1 else x.cause
  let st := atBit (wbit t.vsstatus 1) 5 ||| atBit (t.mode != 0) 8
  { t with vsepc := t.pc, vscause := causeWord irq cause, vstval := x.tval, vsstatus := inBits t.vsstatus 0x122 st, mode := 1,
           virt := true, pc := trapPc t.vstvec irq cause }

/-- A hart takes an exception (log entries 50, 89): in M-mode, or where it is delegated in HS- or VS-mode. -/
def Hart.trap (t : Hart) (x : HTrap) : Hart :=
  if t.mode = 3 ∨ wbit t.medeleg x.cause = false then t.trapM false x
  else if t.virt ∧ wbit t.hedeleg x.cause then t.trapVS false x
  else t.trapS false x

/-- The pending interrupts: MBI (R392) and those that software has set. -/
def Hart.pending (t : Hart) : Word := t.mip ||| atBit t.mbirq 16

/-- The first interrupt of a word in the order of priority. -/
def firstIrq (v : Word) : Option Nat := [11, 3, 7, 9, 1, 5, 12, 10, 2, 6, 13, 16].find? fun i => wbit v i

/-- The trap of the interrupt that is due, if one is: delegated ones to HS, and of those the guest's own to VS. -/
def Hart.irq (t : Hart) : Option Hart :=
  let p := t.pending &&& t.mie
  let m := p &&& ~~~t.mideleg
  let hs := p &&& t.mideleg &&& ~~~t.hideleg
  let vs := p &&& t.mideleg &&& t.hideleg
  let go (f : Hart → Bool → HTrap → Hart) (v : Word) (on : Bool) : Option Hart :=
    if on then (firstIrq v).map fun i => f t true ⟨i, 0, 0⟩ else none
  go Hart.trapM m (t.mode != 3 || wbit t.mstatus 3) <|>
  go Hart.trapS hs (t.mode != 3 && (t.virt || t.mode == 0 || wbit t.mstatus 1)) <|>
  go Hart.trapVS vs (t.virt && (t.mode == 0 || wbit t.vsstatus 1))

/-- The return from a trap in M-mode. -/
def Hart.mret (t : Hart) : Hart :=
  let mpp := wfld t.mstatus 11 2
  let st := atBit (wbit t.mstatus 7) 3 ||| atBit true 7 ||| (if mpp = 3 then t.mstatus &&& 0x20000 else 0)
  { t with pc := t.mepc, mode := mpp, virt := wbit t.mstatus 39 && mpp != 3, mstatus := inBits t.mstatus 0x8000021888 st }

/-- The return from a trap in HS-mode. -/
def Hart.sretS (t : Hart) : Hart :=
  { t with pc := t.sepc, mode := if wbit t.mstatus 8 then 1 else 0, virt := wbit t.hstatus 7,
           mstatus := inBits t.mstatus 0x20122 (atBit (wbit t.mstatus 5) 1 ||| atBit true 5), hstatus := inBits t.hstatus 0x80 0 }

/-- The return from a trap in VS-mode. -/
def Hart.sretVS (t : Hart) : Hart :=
  { t with pc := t.vsepc, mode := if wbit t.vsstatus 8 then 1 else 0,
           vsstatus := inBits t.vsstatus 0x122 (atBit (wbit t.vsstatus 5) 1 ||| atBit true 5) }

/-! ### CSRs -/

/-- The modes that reach the custom CSRs (R389). -/
def Hart.csrMode (t : Hart) : Bool := t.mode == 3 || (t.mode == 1 && !t.virt)

/-- The bits of sstatus and vsstatus; the read-only ones show 64-bit registers below. -/
def sstatusBits : Word := 0xC6722

/-- The CSR that a number names in the hart's mode: VS-mode's own under S-mode's numbers. -/
def Hart.csrName (t : Hart) (n : Nat) : Nat :=
  if t.virt ∧ [0x100, 0x104, 0x105, 0x140, 0x141, 0x142, 0x143, 0x144, 0x180].contains n then n + 0x100 else n

/-- Interrupt bits moved between their VS and S places. -/
def vsIrqs (v : Word) : Word := (v >>> 1) &&& 0x222

/-- A CSR as it reads; none for one that the model does not hold (log entry 89). -/
def Hart.csr (t : Hart) (h n : Nat) : Option Word :=
  match n with
  | 0x100 => some ((t.mstatus &&& sstatusBits) ||| 0x200000000)
  | 0x104 => some (t.mie &&& t.mideleg &&& 0x12222)
  | 0x105 => some t.stvec
  | 0x140 => some t.sscratch
  | 0x141 => some t.sepc
  | 0x142 => some t.scause
  | 0x143 => some t.stval
  | 0x144 => some (t.pending &&& t.mideleg &&& 0x12222)
  | 0x180 => some t.satp
  | 0x200 => some (t.vsstatus ||| 0x200000000)
  | 0x204 => some (vsIrqs (t.mie &&& t.hideleg))
  | 0x205 => some t.vstvec
  | 0x240 => some t.vsscratch
  | 0x241 => some t.vsepc
  | 0x242 => some t.vscause
  | 0x243 => some t.vstval
  | 0x244 => some (vsIrqs (t.pending &&& t.hideleg))
  | 0x280 => some t.vsatp
  | 0x300 => some (t.mstatus ||| 0xA00000000)
  | 0x302 => some t.medeleg
  | 0x303 => some t.mideleg
  | 0x304 => some t.mie
  | 0x305 => some t.mtvec
  | 0x340 => some t.mscratch
  | 0x341 => some t.mepc
  | 0x342 => some t.mcause
  | 0x343 => some t.mtval
  | 0x344 => some t.pending
  | 0x34B => some t.mtval2
  | 0x600 => some (t.hstatus ||| 0x200000000)
  | 0x602 => some t.hedeleg
  | 0x603 => some t.hideleg
  | 0x604 => some (t.mie &&& 0x1444)
  | 0x643 => some t.htval
  | 0x644 => some (t.pending &&& 0x1444)
  | 0x645 => some (t.mip &&& 0x444)
  | 0x680 => some t.hgatp
  | 0xF14 => some (BitVec.ofNat 64 h)
  | 0x5C0 => some t.mbbase
  | 0x5C1 => some t.mbcfg
  | 0x5C2 => some t.fcsign
  | _ => none

/-- The further CSRs of the profile, which the model does not hold: counters, F, V, state enables, AIA, debug (log entry 89). -/
def csrElse (n : Nat) : Bool :=
  [1, 2, 3, 8, 9, 0xA, 0xF, 0x106, 0x10A, 0x10C, 0x10D, 0x10E, 0x10F, 0x14D, 0x150, 0x151, 0x15C, 0x24D, 0x250, 0x251, 0x25C,
   0x301, 0x306, 0x308, 0x309, 0x30A, 0x30C, 0x30D, 0x30E, 0x30F, 0x320, 0x34A, 0x350, 0x351, 0x35C, 0x605, 0x606, 0x607, 0x608,
   0x609, 0x60A, 0x60C, 0x60D, 0x60E, 0x60F, 0x646, 0x647, 0x64A, 0x6A8, 0x747, 0x7A0, 0x7A1, 0x7A2, 0x7A3, 0xC20, 0xC21, 0xC22,
   0xDA0, 0xDB0, 0xE12, 0xEB0, 0xF11, 0xF12, 0xF13, 0xF15, 0xFB0].contains n ||
  (decide (0x323 ≤ n) && decide (n < 0x340)) || (decide (0xB00 ≤ n) && decide (n < 0xB20)) ||
  (decide (0xC00 ≤ n) && decide (n < 0xC20))

/-- Why the mode may not reach the CSR: an illegal instruction (R389 for the custom ones), or in a guest a virtual one. -/
def Hart.csrDenied (t : Hart) (n : Nat) (wr : Bool) : Option Nat :=
  let p := n / 256 % 4
  if 0x5C0 ≤ n ∧ n ≤ 0x5C2 then (if t.csrMode then none else some 2)
  else if wr ∧ n / 1024 = 3 then some 2
  else if p = 3 then (if t.mode = 3 then none else some 2)
  else if p = 2 then (if t.csrMode then (if n = 0x680 ∧ t.mode = 1 ∧ wbit t.mstatus 20 then some 2 else none)
    else some (if t.virt then 22 else 2))
  else if p = 1 ∧ t.mode = 0 then some (if t.virt then 22 else 2)
  else if n = 0x180 ∧ t.mode = 1 then
    if t.virt then (if wbit t.hstatus 20 then some 22 else none) else if wbit t.mstatus 20 then some 2 else none
  else none

/-- A translation register's new value: one that names no mode of the hart changes nothing. -/
def satpWrite (old v : Word) : Word := if wfld v 60 4 = 0 ∨ (8 ≤ wfld v 60 4 ∧ wfld v 60 4 ≤ 10) then v else old

/-- A write to one of the CSRs that the model holds, but for the mailbox and signing ones. MBI is cleared through mip, and through
sip where it is delegated (R392). -/
def Hart.csrPut (t : Hart) (n : Nat) (v : Word) : Hart :=
  match n with
  | 0x100 => { t with mstatus := inBits t.mstatus sstatusBits v }
  | 0x104 => { t with mie := inBits t.mie (t.mideleg &&& 0x12222) v }
  | 0x105 => { t with stvec := v &&& ~~~2#64 }
  | 0x140 => { t with sscratch := v }
  | 0x141 => { t with sepc := v &&& ~~~1#64 }
  | 0x142 => { t with scause := v }
  | 0x143 => { t with stval := v }
  | 0x144 => { t with mip := inBits t.mip (t.mideleg &&& 2) v, mbirq := t.mbirq && (wbit v 16 || !(wbit t.mideleg 16)) }
  | 0x180 => { t with satp := satpWrite t.satp v }
  | 0x200 => { t with vsstatus := v &&& sstatusBits }
  | 0x204 => { t with mie := inBits t.mie (t.hideleg &&& 0x444) (v <<< 1) }
  | 0x205 => { t with vstvec := v &&& ~~~2#64 }
  | 0x240 => { t with vsscratch := v }
  | 0x241 => { t with vsepc := v &&& ~~~1#64 }
  | 0x242 => { t with vscause := v }
  | 0x243 => { t with vstval := v }
  | 0x244 => { t with mip := inBits t.mip (t.hideleg &&& 4) (v <<< 1) }
  | 0x280 => { t with vsatp := satpWrite t.vsatp v }
  | 0x300 => { t with mstatus := inBits t.mstatus (if wfld v 11 2 = 2 then 0xC0007E67AA else 0xC0007E7FAA) v }
  | 0x302 => { t with medeleg := v &&& 0xF0B7FF }
  | 0x303 => { t with mideleg := (v &&& 0x12222) ||| 0x1444 }
  | 0x304 => { t with mie := v &&& 0x13EEE }
  | 0x305 => { t with mtvec := v &&& ~~~2#64 }
  | 0x340 => { t with mscratch := v }
  | 0x341 => { t with mepc := v &&& ~~~1#64 }
  | 0x342 => { t with mcause := v }
  | 0x343 => { t with mtval := v }
  | 0x344 => { t with mip := v &&& 0x666, mbirq := t.mbirq && wbit v 16 }
  | 0x34B => { t with mtval2 := v }
  | 0x600 => { t with hstatus := v &&& 0x7003C0 }
  | 0x602 => { t with hedeleg := v &&& 0xB1FF }
  | 0x603 => { t with hideleg := v &&& 0x444 }
  | 0x604 => { t with mie := inBits t.mie 0x1444 v }
  | 0x643 => { t with htval := v }
  | 0x644 => { t with mip := inBits t.mip 4 v }
  | 0x645 => { t with mip := inBits t.mip 0x444 v }
  | 0x680 => { t with hgatp := satpWrite t.hgatp v }
  | _ => t

/-! ### Translation -/

/-- Why a translation fails: by a page fault, by an access fault of the walk, or by a guest-page fault. -/
inductive HFault where
  | page
  | access
  | guest (gpa : Nat)
deriving DecidableEq, Repr

/-- What an access wants of a page: bit 0 to read, 1 to write, 2 to execute. -/
def leafGives (e want : Nat) : Bool := decide (Nat.land (bitsOf e 1 3) want = want)

/-- The walk of a radix table from level `level` down: `bits` index bits at this level and nine below; `get` reads an entry and
`ok` judges a leaf. The accessed bit must be set, and for a write the dirty bit (Svade). -/
def rvWalk (get : Nat → Except HFault Nat) (ok : Nat → Bool) (va : Nat) : Nat → Nat → Nat → Except HFault Nat
  | level, bits, tab =>
    match get (tab + 8 * bitsOf va (12 + 9 * level) bits) with
    | .error f => .error f
    | .ok e =>
      let pa := bitsOf e 10 44 * 4096
      let size := if e / 2 ^ 63 = 1 then 65536 else 4096 * 512 ^ level
      if e % 2 = 0 ∨ bitsOf e 1 2 = 2 ∨ bitsOf e 54 7 ≠ 0 ∨ bitsOf e 61 2 = 3 then .error .page
      else if bitsOf e 1 3 = 0 then
        match level with
        | 0 => .error .page
        | l + 1 => if bitsOf e 4 1 ≠ 0 ∨ bitsOf e 6 2 ≠ 0 ∨ bitsOf e 61 3 ≠ 0 then .error .page else rvWalk get ok va l 9 pa
      else if ok e = false ∨ (e / 2 ^ 63 = 1 ∧ (level ≠ 0 ∨ bitsOf e 10 4 ≠ 8)) ∨ (e / 2 ^ 63 = 0 ∧ pa % size ≠ 0) then .error .page
      else .ok (pa / size * size + va % size)

/-- An entry of a table in memory: nothing else holds one. -/
def State.pteAt (s : State) (pa : Nat) : Except HFault Nat :=
  if isDevice pa || isHost pa then .ok (s.mem.readLE pa 8) else .error .access

/-- The levels of a translation mode: Sv39, Sv48, Sv57. -/
def svLevels (atp : Word) : Nat := wfld atp 60 4 - 5

/-- The second stage (Sv57x4): the guest physical address through hgatp. -/
def State.gStage (s : State) (t : Hart) (want : Nat) (mxr : Bool) (gpa : Nat) : Except HFault Nat :=
  let n := svLevels t.hgatp
  if wfld t.hgatp 60 4 = 0 then .ok gpa
  else if 2 ^ (14 + 9 * n) ≤ gpa then .error (.guest gpa)
  else
    let gives (e : Nat) : Bool := leafGives e want || (mxr && want == 1 && bitsOf e 3 1 == 1)
    let ok (e : Nat) : Bool :=
      bitsOf e 4 1 == 1 && gives e && bitsOf e 6 1 == 1 && (Nat.land want 2 == 0 || bitsOf e 7 1 == 1)
    match rvWalk s.pteAt ok gpa (n - 1) 11 (wfld t.hgatp 0 44 / 4 * 16384) with
    | .error .page => .error (.guest gpa)
    | x => x

/-- The first stage through satp or vsatp, in the mode `mode`; without one, the address itself. -/
def rvStage1 (get : Nat → Except HFault Nat) (atp : Word) (mode want : Nat) (sum mxr : Bool) (va : Nat) : Except HFault Nat :=
  let n := svLevels atp
  let top := va / 2 ^ (11 + 9 * n)
  if wfld atp 60 4 = 0 then .ok va
  else if top ≠ 0 ∧ top ≠ 2 ^ (53 - 9 * n) - 1 then .error .page
  else
    let gives (e : Nat) : Bool := leafGives e want || (mxr && want == 1 && bitsOf e 3 1 == 1)
    let user (e : Nat) : Bool := if mode = 0 then bitsOf e 4 1 == 1 else bitsOf e 4 1 == 0 || (sum && want != 4)
    let ok (e : Nat) : Bool := gives e && user e && bitsOf e 6 1 == 1 && (Nat.land want 2 == 0 || bitsOf e 7 1 == 1)
    rvWalk get ok va (n - 1) 9 (wfld atp 0 44 * 4096)

/-- The address space of an access: MPRV gives M-mode's data accesses the mode of its return. -/
def Hart.space (t : Hart) (want : Nat) : Nat × Bool :=
  if t.mode = 3 ∧ wbit t.mstatus 17 ∧ want ≠ 4 then (wfld t.mstatus 11 2, wbit t.mstatus 39 && wfld t.mstatus 11 2 != 3)
  else (t.mode, t.virt)

/-- The physical address of an access (R389). -/
def State.hartXl (s : State) (t : Hart) (want : Nat) (va : Word) : Except HFault Nat :=
  let m := t.space want
  let mxr := wbit t.mstatus 19
  if m.1 = 3 then .ok va.toNat
  else if m.2 then
    let get (a : Nat) : Except HFault Nat := match s.gStage t 1 false a with | .ok pa => s.pteAt pa | .error f => .error f
    match rvStage1 get t.vsatp m.1 want (wbit t.vsstatus 18) (mxr || wbit t.vsstatus 19) va.toNat with
    | .ok gpa => s.gStage t want mxr gpa
    | .error f => .error f
  else rvStage1 s.pteAt t.satp m.1 want (wbit t.mstatus 18) mxr va.toNat

end Sys2Proof.Machine
end

