-- ==== Sys2Proof/Machine/Hostel.lean ====
section
/-! DEFINITION. The Hostel (R333 to R336, R389 to R399): a hart's translation and sandbox checks, its exceptions, the custom
instructions, its loads, stores and atomics, the mailbox and capability CSRs, drive DMA and the future service. -/

namespace Sys2Proof.Machine

/-! ### Accesses -/

/-- U-mode and VU-mode, whose accesses the windows check (R390). -/
def Hart.user (t : Hart) : Bool := t.mode == 0

/-- The rights of an access kind (R390): bit 0 read, 1 write, 2 execute. -/
def accessNeeds (k : HAccess) : Nat :=
  match k with | .load .. => 1 | .store => 2 | .amo .. => 3 | .lr .. => 3 | .sc .. => 3 | .fetch => 4

/-- What an access kind wants of its pages (R389). -/
def accessWant (k : HAccess) : Nat :=
  match k with | .load .. => 1 | .store => 2 | .amo .. => 3 | .lr .. => 1 | .sc .. => 2 | .fetch => 4

/-- An access lies within one window that has its rights, or is not checked (R390). -/
def Hart.boxOk (t : Hart) (k : HAccess) (va : Word) (n : Nat) : Bool :=
  !(t.boxed && t.user) || t.windows.any fun w =>
    decide (w.1.toNat ≤ va.toNat) && decide (va.toNat + n ≤ w.2.1.toNat) &&
    decide (Nat.land w.2.2.toNat (accessNeeds k) = accessNeeds k)

/-- The page fault and access fault codes of an access kind (R334, R390). -/
def hartFault (k : HAccess) (page : Bool) : Nat :=
  match k with
  | .fetch => if page then 12 else 1
  | .load .. => if page then 13 else 5
  | .lr .. => if page then 13 else 5
  | _ => if page then 15 else 7

/-- The exception of an access whose translation fails at `va` (R334, R389). -/
def hartTransTrap (k : HAccess) (va : Word) : HFault → HTrap
  | .page => ⟨hartFault k true, va, 0⟩
  | .access => ⟨hartFault k false, va, 0⟩
  | .guest gpa => ⟨hartFault k true + 8, va, gpa⟩

/-- The access writes memory, and so needs the only copy of its sectors (R363). -/
def accessWrites (k : HAccess) : Bool :=
  match k with | .store => true | .amo .. => true | .sc .. => true | _ => false

/-- The pages of a range: their parts' locations, or the exception of the first that has no translation. -/
def State.hartPages (s : State) (t : Hart) (k : HAccess) : Nat → Word → Nat → List (Nat × Nat) → Except HTrap (List (Nat × Nat))
  | 0, _, _, acc => .ok acc
  | fuel + 1, va, n, acc =>
    if n = 0 then .ok acc
    else
      match s.hartXl t (accessWant k) va with
      | .error f => .error (hartTransTrap k va f)
      | .ok pa => s.hartPages t k fuel (va + BitVec.ofNat 64 (pagePart va n)) (n - pagePart va n) (acc ++ [(pa, pagePart va n)])

/-- What a kind of access may do in a region of the hub (R145, R348): in the scratchpad windows anything but a fetch, an lr or an
sc; in a format window an ordinary load or store of its 8 bytes; BAR0 and BAR2 set no such limit. -/
def barAllows (k : HAccess) (b off n : Nat) : Bool :=
  if b = 4 then
    match bar4At off n, k with
    | .none, _ => false
    | _, .load .. => true
    | _, .store => true
    | .spad _, .amo .. => true
    | _, _ => false
  else true

/-- A part lies in memory or in one of the hub's regions, which allows it: nothing else is at a physical address (R157, R348,
R360). -/
def partOk (k : HAccess) (p : Nat × Nat) : Bool :=
  let last := p.1 + (p.2 - 1)
  (isDevice p.1 && isDevice last) || (isHost p.1 && isHost last) ||
  (match barOf p.1 with | some (b, off) => (barOf last).isSome && barAllows k b off p.2 | none => false)

/-- The sectors of an access's parts. -/
def partSectors (ps : List (Nat × Nat)) : List Nat := sectorsOf (ps.map fun p => ⟨0, p.1, p.2, 0, false⟩)

/-- A part in one of the hub's regions. -/
def inBar (p : Nat × Nat) : Bool := (barOf p.1).isSome

/-- The checks of an access of `n` bytes (R390): it is translated, then judged by the windows, then by its place. -/
def State.hartSee (s : State) (t : Hart) (k : HAccess) (va : Word) (n : Nat) : Except HTrap (List (Nat × Nat)) :=
  match s.hartPages t k (n / 4096 + 2) va n [] with
  | .error x => .error x
  | .ok ps => if t.boxOk k va n = false ∨ !(ps.all (partOk k)) then .error ⟨hartFault k false, va, 0⟩ else .ok ps

/-- What the checks of a hart's access give: the state in which the Hostel holds its sectors, with its parts; an exception; or a
wait for a sector's home (R363), or for the writes on their way to the region it reads. -/
inductive HartAcc where
  | ok (s : State) (ps : List (Nat × Nat))
  | trap (x : HTrap)
  | wait

/-- A hart's access passes its checks and gets its sectors. -/
def State.hartCheck (s : State) (t : Hart) (k : HAccess) (va : Word) (n : Nat) : HartAcc :=
  match s.hartSee t k va n with
  | .error x => .trap x
  | .ok ps =>
    if s.blocked 4 (accessWrites k) (partSectors ps) || (k != .store && !s.posted.isEmpty && ps.any inBar) then .wait
    else .ok (s.ownAll 4 (accessWrites k) (partSectors ps)) ps

/-- The bytes of the parts of an access by hart `h`, errors in them met (R418). -/
def State.partBytes (s : State) (h : Nat) (ps : List (Nat × Nat)) : State × List Byte :=
  let s1 := ps.foldl (fun s p => s.scrub [hartKey h] p.1 p.2) s
  (s1, ps.flatMap fun p => s1.locBytes p.1 p.2)

/-- Bytes written to an access's parts. -/
def State.partPut (s : State) (ps : List (Nat × Nat)) (bs : List Byte) : State :=
  (ps.foldl (fun (acc : State × List Byte) p => (acc.1.memWrite p.1 (acc.2.take p.2), acc.2.drop p.2)) (s, bs)).1

/-- What an AMO writes: at a scratchpad's bank at once, so that nothing comes between its read and its write (R145). -/
def State.partAtomic (s : State) (ps : List (Nat × Nat)) (bs : List Byte) : State :=
  match ps with
  | [(pa, n)] =>
    match barOf pa with
    | some (b, off) =>
      match bar4At off n with
      | .spad loc => if b = 4 then s.memWrite loc bs else s.partPut ps bs
      | _ => s.partPut ps bs
    | none => s.partPut ps bs
  | _ => s.partPut ps bs

/-- What a hart's read of `n` bytes gives (R390, R391). -/
inductive HartRead where
  | ok (s : State) (bs : List Byte)
  | trap (x : HTrap)
  | wait

/-- A hart's read of `n` bytes; of none, it checks nothing. -/
def State.hartRead (s : State) (h : Nat) (t : Hart) (va : Word) (n : Nat) : HartRead :=
  if n = 0 then .ok s []
  else
    match s.hartCheck t (.load 0 false) va n with
    | .trap x => .trap x
    | .wait => .wait
    | .ok s1 ps =>
      let r := s1.partBytes h ps
      .ok r.1 r.2

/-- The hart takes its word again in a later cycle. -/
def State.hartLater (s : State) (h : Nat) : State :=
  let rec ins : List (Nat × Nat) → List (Nat × Nat)
    | [] => [(s.now + 1, h)]
    | x :: r => if s.now + 1 < x.1 then (s.now + 1, h) :: x :: r else x :: ins r
  { s with hartDue := ins s.hartDue }

/-- The Hostel's requests for what a waiting access lacks stand at the homes (R363). -/
def State.hartAsks (s : State) (x : Hop) : State :=
  match s.hartSee (s.hartAt x.hart) x.kind x.va x.size with
  | .ok ps => s.queueAsks 4 (accessWrites x.kind) (partSectors ps)
  | .error _ => s

/-- A custom instruction of the hart whose turn it is: its next registers and the package after it, in which a reservation that the
word's own writes have ended stays ended (R110). -/
def hartWord (s : State) (f : Nat → Hart → State × Hart) : Res :=
  match s.turn with
  | .hart h =>
    let r := f h (s.hartAt h)
    .next { r.1.setHart h { r.2 with resv := (r.1.hartAt h).resv } with turn := .sched }
  | _ => .fault .noContext

/-- The hart goes on `len` bytes further with `v` in rd. -/
def Hart.goes (t : Hart) (len : Nat) (d : BitVec 5) (v : Word) : Hart := { t.setReg d v with pc := t.pc + BitVec.ofNat 64 len }

/-- The hart goes on at the next instruction with `v` in rd. -/
def Hart.done (t : Hart) (d : BitVec 5) (v : Word) : Hart := { t.setReg d v with pc := t.pc + 4 }

/-- A hart sees a range of `n` bytes that it does not yet read (R391): the exception of the first check that fails. -/
def State.hartSees (s : State) (t : Hart) (va : Word) (n : Nat) : Option HTrap :=
  if n = 0 then none else match s.hartSee t (.load 0 false) va n with | .error x => some x | .ok _ => none

/-- FDONE (R334, R391): the descriptor and its ids are translated and checked before anything is sent or rd is written; then a
count above 4,096 or an id address that is not aligned drops the descriptor (R214). Bytes [16:23] of the descriptor have no
meaning in R214 and are not looked at (log entry 119). -/
def execFdone (d a : BitVec 5) (s : State) : Res :=
  hartWord s fun h t =>
    let va := t.reg a
    if va.toNat % 8 ≠ 0 then (s, t.trap ⟨4, va, 0⟩)
    else
      match s.hartRead h t va 24 with
      | .trap x => (s, t.trap x)
      | .wait => ((s.hartAsks ⟨h, .load 0 false, va, 24, 0⟩).hartLater h, t)
      | .ok s1 bs =>
        let f (o n : Nat) : Nat := leNat ((bs.drop o).take n)
        let n := f 4 4
        let ids := BitVec.ofNat 64 (f 8 8)
        match s1.hartSees t ids (4 * n) with
        | some x => (s1, t.trap x)
        | none =>
          if 4096 < n ∨ ids.toNat % 4 ≠ 0 then (s1.count 0x100 1, t.done d 1)
          else
            match s1.hartRead h t ids (4 * n) with
            | .trap x => (s1, t.trap x)
            | .wait => ((s1.hartAsks ⟨h, .load 0 false, ids, 4 * n, 0⟩).hartLater h, t)
            | .ok s2 is => (s2.complete (f 0 2) (BitVec.ofNat 16 (f 2 2)) (idsOf is), t.done d 0)

/-- The number of a future's state (R335). -/
def FutState.code : FutState → Nat
  | .free => 0
  | .pending => 1
  | .done => 2

/-- What FPOLL reads of an entry (R335). -/
def Future.poll (f : Future) (gen : BitVec 16) : Word :=
  BitVec.ofNat 64 (f.state.code + (if f.gen = gen then 4 else 0) + (if f.parked.isSome then 8 else 0) + 65536 * f.gen.toNat)

/-- FPOLL (R335): with bits that must be zero set, the spec states no result (log entry 51). -/
def execFpoll (d a : BitVec 5) (s : State) : Res :=
  hartWord s fun _ t =>
    let v := t.reg a
    if wfld v 32 32 ≠ 0 then
      let r := s.free
      (r.2, t.done d r.1)
    else (s, t.done d ((s.future (wfld v 0 16)).poll (v.extractLsb' 16 16)))

/-- The window entries of a table (R336): none when one is malformed. -/
def boxEntries : Nat → List Byte → Option (List (Word × Word × Byte))
  | 0, _ => some []
  | n + 1, bs =>
    let f (o n : Nat) : Nat := leNat ((bs.drop o).take n)
    if 8 ≤ f 16 1 ∨ f 17 7 ≠ 0 then none
    else (boxEntries n (bs.drop 24)).map fun r => (BitVec.ofNat 64 (f 0 8), BitVec.ofNat 64 (f 8 8), nthD bs 16 0) :: r

/-- SBOX (R336, R391): M, HS and S modes only; a refused table leaves the windows as they are. -/
def execSbox (a b : BitVec 5) (s : State) : Res :=
  hartWord s fun h t =>
    let va := t.reg a
    let v := t.reg b
    let n := wfld v 0 5
    let bits := BitVec.zeroExtend 64 (encH 2 0 a b)
    if t.mode = 0 ∨ t.virt = true ∨ wfld v 6 58 ≠ 0 ∨ 16 < n then (s, t.trap ⟨2, bits, 0⟩)
    else if va.toNat % 64 ≠ 0 then (s, t.trap ⟨4, va, 0⟩)
    else
      match s.hartRead h t va (24 * n) with
      | .trap x => (s, t.trap x)
      | .wait => ((s.hartAsks ⟨h, .load 0 false, va, 24 * n, 0⟩).hartLater h, t)
      | .ok s1 bs =>
        match boxEntries n bs with
        | none => (s1, t.trap ⟨2, bits, 0⟩)
        | some ws => (s1, { t with windows := ws, boxed := wbit v 5, pc := t.pc + 4 })

/-! ### A hart's ordinary accesses and CSRs -/

/-- A value of `n` bytes as a register holds it. -/
def hartVal (n : Nat) (sgn : Bool) (bs : List Byte) : Word := extLoad n sgn (leNat bs)

/-- What an AMO leaves of `n` bytes, from the old value and the register's (R390). -/
def hamoNew (op : HAmo) (n : Nat) (old v : Word) : Word :=
  let b := extLoad n true (v.toNat % 2 ^ (8 * n))
  match op with
  | .swap => b
  | .add => old + b
  | .xor => old ^^^ b
  | .and => old &&& b
  | .or => old ||| b
  | .min => if old.sle b then old else b
  | .max => if b.sle old then old else b
  | .minu => if old.ule b then old else b
  | .maxu => if b.ule old then old else b

/-- How a hart's access ends: made, with the hart's registers after it; an exception; or a wait for a sector's home. -/
inductive HartDo where
  | done (s : State) (t : Hart)
  | trap (x : HTrap)
  | wait

/-- A hart's access is made (R110, R390): each in the hart's program order, which its fences and annotations cannot tell from
RVWMO's. An sc stores where the reservation still stands. -/
def State.hartDo (s : State) (h : Nat) (t : Hart) (k : HAccess) (va : Word) (n : Nat) (v : Word) : HartDo :=
  match s.hartCheck t k va n with
  | .trap x => .trap x
  | .wait => .wait
  | .ok s1 ps =>
    match k with
    | .store => .done (s1.partPut ps (leBytes v.toNat n)) t
    | .load rd sgn =>
      let r := s1.partBytes h ps
      .done r.1 (t.setReg rd (hartVal n sgn r.2))
    | .amo op rd =>
      let r := s1.partBytes h ps
      let old := hartVal n true r.2
      .done (r.1.partAtomic ps (leBytes (hamoNew op n old v).toNat n)) (t.setReg rd old)
    | .lr rd =>
      let r := s1.partBytes h ps
      .done r.1 { t.setReg rd (hartVal n true r.2) with resv := ps.head? }
    | .sc rd =>
      let t1 : Hart := { t with resv := none }
      if t.resv.isSome && t.resv == ps.head? then .done (s1.partPut ps (leBytes v.toNat n)) (t1.setReg rd 0)
      else .done s1 (t1.setReg rd 1)
    | .fetch => .done (s1.partBytes h ps).1 t

/-- An access of the list is made, or waits with the others (R363). -/
def State.hop (s : State) (x : Hop) : State :=
  match s.hartDo x.hart (s.hartAt x.hart) x.kind x.va x.size x.v with
  | .done s1 t => s1.setHart x.hart t
  | .trap y => s.setHart x.hart ((s.hartAt x.hart).trap y)
  | .wait => { s.hartAsks x with hops := s.hops ++ [x] }

/-- HOSTEL_ACCESS (R390): made now, or after the hart's accesses that wait; a hart that is held or retired makes none (R410,
R420). -/
def State.hostelAccess (s : State) (h : Nat) (k : HAccess) (va : Word) (n : Nat) (v : Word) : State :=
  let x : Hop := ⟨h, k, va, n, v⟩
  if !(s.hartRuns h) then s
  else if s.hops.any fun y => y.hart == h then { s with hops := s.hops ++ [x] } else s.hop x

/-- The first waiting access that can be made: each hart's in order. -/
def State.hopReady (s : State) : Option Hop :=
  s.hops.find? fun x => (s.hops.find? fun y => y.hart == x.hart) == some x &&
    (match s.hartCheck (s.hartAt x.hart) x.kind x.va x.size with | .wait => false | _ => true)

/-- A waiting access is made. -/
def State.hopGo (s : State) (x : Hop) : State := ({ s with hops := s.hops.erase x } : State).hop x

/-- MAILBOX_CONFIG_WRITE (R392): mbbase, or mbcfg with `cfg`. -/
def State.mailboxWrite (s : State) (h : Nat) (cfg : Bool) (v : Word) : State :=
  let t := s.hartAt h
  let en := wbit t.mbcfg 16
  if t.csrMode = false then s.setHart h (t.trap ⟨2, 0, 0⟩)
  else if cfg then
    let w := v &&& 0x3FF1F#64
    let bad := decide (16 < wfld w 0 5) || (en && decide (w ||| 0x10000#64 ≠ t.mbcfg)) ||
      (wbit w 16 && !(isDevice t.mbbase.toNat))
    if bad then s else s.setHart h { t with mbcfg := w }
  else
    let w := v &&& 0xFFFFFFFFFFFC0#64
    if en ∧ w ≠ t.mbbase then s else s.setHart h { t with mbbase := w }

/-- What fcsign reads back after a write, under the key of reset `n` (R397). -/
def futSigned (n : Nat) (v : Word) : Word :=
  if wfld v 48 16 ≠ 0 then 0
  else (v &&& 0xFFFFFFFF#64) ||| ((Config.futCheck n (v.extractLsb' 0 16) (v.extractLsb' 16 16)).zeroExtend 64 <<< 32)

/-- FCSIGN_WRITE (R397). -/
def State.fcsignWrite (s : State) (h : Nat) (v : Word) : State :=
  let t := s.hartAt h
  if t.csrMode = false then s.setHart h (t.trap ⟨2, 0, 0⟩) else s.setHart h { t with fcsign := futSigned s.resets v }

/-! ### Drives and the network -/

/-- The parts of a transfer by sector: where each begins, with its bytes. -/
def bySector (pa : Nat) (bs : List Byte) : List (Nat × List Byte) :=
  (List.range ((pa + (bs.length - 1)) / 64 - pa / 64 + 1)).map fun i =>
    let a := Nat.max pa (64 * (pa / 64 + i))
    (a, (bs.drop (a - pa)).take (64 * (pa / 64 + i + 1) - a))

/-- A drive's access at a free home (R395): a write recalls every copy, a read snoops the owners. -/
def State.driveAt (s : State) (pa : Nat) (wr : Bool) (bs : List Byte) : State :=
  let a := s.newAsk 7 pa wr bs
  ((s.needs a).foldl (fun s j => s.surrender a.sec j wr) s).grant a

/-- DRIVE_DMA (R394, R395): refused, with an unsupported-request completion, and counted for the reserved area, a host address or
an address outside R360; else each sector's part goes to its home, where it waits behind what is there. -/
def State.driveDma (s : State) (pa : Nat) (wr : Bool) (bs : List Byte) : State :=
  if (bySector pa bs).any fun x => !(isDevice x.1) || reserved x.1 then
    ({ s with driveReply := some (false, []) } : State).count 0x1A8 1
  else
    (bySector pa bs).foldl (fun s x =>
      if s.idle (x.1 / 64) then s.driveAt x.1 wr x.2 else { s with asks := insAsk (s.newAsk 7 x.1 wr x.2) s.asks })
      { s with driveReply := some (true, []) }

/-- FUTURE_SERVICE_MESSAGE (R398): the checks in their order, then the completion. -/
def State.serviceMessage (s : State) (bs : List Byte) : State :=
  let f (o n : Nat) : Nat := leNat ((bs.drop o).take n)
  let n := f 8 4
  let id := BitVec.ofNat 16 (f 0 2)
  let gen := BitVec.ofNat 16 (f 2 2)
  if bs.length ≠ 16 + 4 * n ∨ 4096 < n ∨ f 6 2 ≠ 0 ∨ f 12 4 ≠ 0 then s.count 0x170 1
  else if BitVec.ofNat 16 (f 4 2) ≠ Config.futCheck s.resets id gen then s.count 0x178 1
  else s.complete id.toNat gen (idsOf (bs.drop 16))

end Sys2Proof.Machine
end

