-- ==== Sys2Proof/Machine/Events.lean ====
section
/-! DEFINITION. The steps of the package that are no word of a program: each row of the table without an encoding, as the
operation that performs it. A step about a context, unit or entry that is not there changes nothing. -/

namespace Sys2Proof.Machine

/-- ENGINE_FAULT (R192, R310): the engine's command is suspended at its progress, and its fault record is posted (R384). -/
def State.engineFault (s : State) (k : Nat) (st : Station) (id : Nat) (t : Trap) (prog : Word) : State :=
  match s.ctxAt k with
  | none => s
  | some c =>
    let mark (e : QEntry) : QEntry := { e with susp := true, begun := true, prog := prog }
    match st with
    | .m =>
      match c.min.find? fun x => x.id == id with
      | some e =>
        if e.susp = false then
          let s1 := s.putCtx k ((c.setMin id mark).postAfr (engAfr (matAfrPath e) (c.mPlace id) t prog e.word id))
          if (s.engine (capObj e.cap)).serving = some k then s1.endTurn (capObj e.cap) k else s1
        else s
      | none => s
    | .c =>
      match c.cact with
      | some e =>
        if e.id = id ∧ e.susp = false then
          (s.putCtx k ({ c with cact := some (mark e) }.postAfr (engAfr pathCp 0 t prog e.word id))).updCore (k / 4) fun x =>
            if x.copying = some k then { x with copying := none, copyAt := none } else x
        else s
      | none => s
    | _ => s

/-- The enable bit of a relay descriptor (R194). -/
def enBit : Word := 0x4000000

/-- STATION_START (R78). -/
def execStationStart (k : Nat) (st : Station) (s : State) : Res := .next (s.stationStart k st)

/-- LANDING (R32). -/
def execLanding (k id : Nat) (s : State) : Res := .next (s.land k id)

/-- STORE_TAKES_EFFECT (R92). -/
def execStoreTakesEffect (k id : Nat) (s : State) : Res := .next (s.storeEffect k id)

/-- PAGE_WALK_COMPLETE (R370). -/
def execPageWalkComplete (k : Nat) (s : State) : Res := .next (s.walkComplete k)

/-- TRAP_ENTRY (R379). -/
def execTrapEntry (k : Nat) (cause : BitVec 8) (tval tinfo epc : Word) (s : State) : Res :=
  .next (s.takeTrap k ⟨cause.toNat, tval, tinfo⟩ epc)

/-- ASYNC_TRAP_ENTRY (R380). -/
def execAsyncTrapEntry (k : Nat) (s : State) : Res := .next (s.asyncTrap k)

/-- SEQUENCER_SWITCH (R140). -/
def execSequencerSwitch (core : Nat) (s : State) : Res := .next (s.switch core)

/-- DEADLOCK_PROBE (R141). -/
def execDeadlockProbe (k : Nat) (s : State) : Res := .next (s.deadlockProbe k)

/-- LAUNCH_SLOT_DOORBELL (R352). -/
def execLaunchSlotDoorbell (slot : BitVec 3) (v : Word) (s : State) : Res :=
  .next (s.doorbell slot.toNat v)

/-- LAUNCH_STATUS_REPORT (R124). -/
def execLaunchStatusReport (slot : BitVec 3) (code : Byte) (env : Nat) (status : Word) (s : State) : Res :=
  .next (s.statusReport slot.toNat code.toNat env status)

/-- SLICE_BOUNDARY (R129). -/
def execSliceBoundary (s : State) : Res := .next (s.slice)

/-- RUN_QUEUE_POP (R134). -/
def execRunQueuePop (core : Nat) (s : State) : Res := .next (s.runPop core)

/-- LOCAL_READY_LIST_TAKE (R137). -/
def execLocalReadyListTake (core : Nat) (s : State) : Res := .next (s.takeReady core)

/-- WAITING_TASK_ARRIVAL (R137). -/
def execWaitingTaskArrival (core : Nat) (entry : BitVec 6) (n : Nat) (s : State) : Res :=
  .next (({ s with arrivals := mdel s.arrivals (64 * core + entry.toNat) } : State).wtArrive core entry.toNat n)

/-- SFU_REQUEST_ACCEPT (R138). -/
def execSfuRequestAccept (k id : Nat) (s : State) : Res := .next (s.sfuAccept k id)

/-- MATRIX_COMMAND_ACCEPT (R182). -/
def execMatrixCommandAccept (k : Nat) (s : State) : Res := .next (s.matAccept k)

/-- MATRIX_COMMAND_START (R191). -/
def execMatrixCommandStart (e : Nat) (s : State) : Res := .next (s.matStart e)

/-- MATRIX_COMMAND_COMPLETE (R185). -/
def execMatrixCommandComplete (e : Nat) (s : State) : Res := .next (s.matComplete e)

/-- DRAIN_BAND_ARRIVAL (R189). -/
def execDrainBandArrival (core : Nat) (akind : BitVec 2) (went : BitVec 6) (winc : BitVec 16) (off len : Nat) (s : State) : Res :=
  .next (s.bandArrive core akind.toNat went.toNat winc.toNat off len)

/-- ENGINE_FAULT (R192). -/
def execEngineFault (k : Nat) (st : Station) (id : Nat) (cause : BitVec 8) (wr grow : Bool) (va progress : Word) (s : State) : Res :=
  .next (s.engineFault k st id ⟨cause.toNat, va, BitVec.ofNat 64 (wr.toNat + 2 * grow.toNat)⟩ progress)

/-- COPY_COMPLETE (R306). -/
def execCopyComplete (k id : Nat) (s : State) : Res := .next (s.copyDone k id)

/-- RELAY_ARRIVAL (R198). -/
def execRelayArrival (ch : Nat) (s : State) : Res := .next (s.relayArrive ch)

/-- PERMIT_RETURN (R199). -/
def execPermitReturn (ch : Nat) (s : State) : Res := .next (s.permitBack ch)

/-- RELAY_DESCRIPTOR_WRITE (R194). -/
def execRelayDescriptorWrite (ch : Nat) (hi : Bool) (v : Word) (s : State) : Res := .next (s.chanWrite ch hi v)

/-- RELAY_CHANNEL_ENABLE (R195). -/
def execRelayChannelEnable (ch : Nat) (v : Word) (s : State) : Res := .next (s.chanWrite ch false (v ||| enBit))

/-- RELAY_CHANNEL_DISABLE (R195). -/
def execRelayChannelDisable (ch : Nat) (v : Word) (s : State) : Res := .next (s.chanWrite ch false (v &&& ~~~enBit))

/-- MSGW_ARRIVAL (R316). -/
def execMsgwArrival (k id : Nat) (s : State) : Res := .next (s.storeEffect k id)

/-- BANK_FORMAT_WRITE (R148). -/
def execBankFormatWrite (core bank : Nat) (v : Word) (s : State) : Res := .next (s.fmtWrite core bank v)

/-- MAILBOX_POST (R393). -/
def execMailboxPost (s : State) : Res := .next (s.mailboxPost)

/-- FUTURE_COMPLETION (R211). -/
def execFutureCompletion (fut gen : BitVec 16) (ids : List (BitVec 32)) (s : State) : Res :=
  .next (s.complete fut.toNat gen ids)

/-- FUTURE_TIMEOUT (R211). -/
def execFutureTimeout (fut : BitVec 16) (s : State) : Res := .next (s.futureTimeout fut.toNat)

/-- INJECTION_RETRY (R215). -/
def execInjectionRetry (fut : BitVec 16) (s : State) : Res := .next (s.injectionRetry fut.toNat)

/-- CONTINUATION_PUSH_RETRY (R132). -/
def execContinuationPushRetry (s : State) : Res := .next (s.pushRetry)

/-- FUTURE_SERVICE_MESSAGE (R398). -/
def execFutureServiceMessage (_port : BitVec 2) (payload : List Byte) (s : State) : Res :=
  .next (s.serviceMessage payload)

/-- RUN_QUEUE_WINDOW_PUSH (R354): in recovery there is BAR0 only (R410). -/
def execRunQueueWindowPush (q : BitVec 5) (off : Nat) (bytes : List Byte) (s : State) : Res :=
  .next (if s.boot.phase = 3 then s else s.windowPush q.toNat off bytes)

/-- UALINK_LAUNCH_PACKET (R358). -/
def execUalinkLaunchPacket (peer : BitVec 10) (q : BitVec 5) (p : PeerLaunch) (s : State) : Res :=
  .next (s.peerPacket peer.toNat q.toNat p.record p.writes)

/-- RUN_QUEUE_CONFIG_WRITE (R349). -/
def execRunQueueConfigWrite (q : BitVec 5) (hi : Bool) (v : Word) (s : State) : Res :=
  .next (s.runqConfig q.toNat hi v)

/-- SLICE_LENGTH_WRITE (R129). -/
def execSliceLengthWrite (v : BitVec 32) (s : State) : Res := .next (s.sliceWrite v.toNat)

/-- VOCAB_SLOT_LOAD (R208). -/
def execVocabSlotLoad (slot : BitVec 3) (s : State) : Res := .next (s.vocLoad slot.toNat)

/-- REGISTER_WRITE (R349). -/
def execRegisterWrite (off : Nat) (bytes : List Byte) (s : State) : Res := .next (s.registerWrite off bytes)

/-- HOST_WINDOW_ACCESS (R348): in recovery there is BAR0 only (R410). -/
def execHostWindowAccess (off : Nat) (wr : Bool) (bytes : List Byte) (s : State) : Res :=
  .next (if s.boot.phase = 3 then { s with reply := some (false, []) } else s.hostWindow off wr bytes)

/-- HOME_REQUEST (R363). -/
def execHomeRequest (h : Nat) (kind : ReqKind) (line : HomeLine) (s : State) : Res :=
  .next (s.homeRequest h kind line.pa line.bytes)

/-- SNOOP_INVALIDATION (R362). -/
def execSnoopInvalidation (die : Nat) (pa : Nat) (inval : Bool) (s : State) : Res := .next (s.snoopReply die pa inval)

/-- WRITE_BACK_ARRIVAL (R363). -/
def execWriteBackArrival (h pa : Nat) (s : State) : Res := .next (s.writeBack h pa)

/-- BIAS_FLIP_REQUEST (R365). -/
def execBiasFlipRequest (frame : Nat) (old new : Word) (s : State) : Res := .next (s.pageCas frame old new)

/-- BIAS_FLIP_COMPLETE (R365). -/
def execBiasFlipComplete (frame : Nat) (s : State) : Res := .next (s.flipEnd frame)

/-- FRAME_GEN_CHANGE (R371). -/
def execFrameGenChange (frame : Nat) (old new : Word) (s : State) : Res := .next (s.pageCas frame old new)

/-- MIGRATION_OPEN (R376). -/
def execMigrationOpen (region die : Nat) (s : State) : Res := .next (s.migrationOpen region die)

/-- MIGRATION_SWITCH (R376). -/
def execMigrationSwitch (region : Nat) (s : State) : Res := .next (s.migrationSwitch region)

/-- GROW_REQUEST (R378). -/
def execGrowRequest (k : Nat) (s : State) : Res := .next (s.growRequest k)

/-- FSH_AT_CELLAR (R404). -/
def execFshAtCellar (k id : Nat) (s : State) : Res := .next (s.fshRun k id)

/-- CELLAR_LOAD (R405). -/
def execCellarLoad (s : State) : Res := .next (s.cellarLoad)

/-- KEY_INSTALL (R406). -/
def execKeyInstall (s : State) : Res := .next (s.keyInstall)

/-- KEY_ERASE (R406). -/
def execKeyErase (s : State) : Res := .next (s.keyErase)

/-- TENSOR_LAYOUT_VALIDATE (R407). -/
def execTensorLayoutValidate (h : Nat) (s : State) : Res := .next (s.tensorValidate h)

/-- IMAGE_LOAD_REQUEST (R414). -/
def execImageLoadRequest (s : State) : Res := .next (s.imageLoad)

/-- DRIVE_DMA (R394). -/
def execDriveDma (pa : Nat) (wr : Bool) (bytes : List Byte) (s : State) : Res := .next (s.driveDma pa wr bytes)

/-- MAILBOX_CONFIG_WRITE (R392). -/
def execMailboxConfigWrite (hart : Nat) (cfg : Bool) (v : Word) (s : State) : Res := .next (s.mailboxWrite hart cfg v)

/-- FCSIGN_WRITE (R397). -/
def execFcsignWrite (hart : Nat) (v : Word) (s : State) : Res := .next (s.fcsignWrite hart v)

/-- CAPSIGN_WRITE (R381). -/
def execCapsignWrite (k : Nat) (v : Word) (s : State) : Res := .next (s.capsignWrite k v)

/-- CTL_WRITE (R381). -/
def execCtlWrite (k : Nat) (v : Word) (s : State) : Res := .next (s.ctlWrite k v)

/-- AFPOP_KEEP (R373). -/
def execAfpopKeep (k : Nat) (s : State) : Res := .next (s.afpopKeep k)

/-- AFPOP_DROP (R373). -/
def execAfpopDrop (k : Nat) (s : State) : Res := .next (s.afpopDrop k)

/-- PREEMPTION_REQUEST (R385). -/
def execPreemptionRequest (core : Nat) (v : Word) (s : State) : Res := .next (s.preemptRequest core v)

/-- PREEMPTION_HALT (R385). -/
def execPreemptionHalt (k core : Nat) (s : State) : Res := .next (s.preemptHalt k core)

/-- WINDOW_CONFIG_WRITE (R419). -/
def execWindowConfigWrite (cls : Nat) (v : Word) (s : State) : Res := .next (s.windowWrite cls v)

/-- LINK_CRC_FAILURE (R421). -/
def execLinkCrcFailure (link : Nat) (dir : Bool) (lane : Nat) (s : State) : Res := .next (s.crcFailure link dir lane)

/-- LANE_REPAIR_SWITCH (R421). -/
def execLaneRepairSwitch (link : Nat) (dir : Bool) (s : State) : Res := .next (s.laneSwitch link dir)

/-- POWER_CONTROL_WRITE (R424). -/
def execPowerControlWrite (v : Word) (s : State) : Res := .next (s.powerWrite v.toNat)

/-- POWER_CAP_STEP (R425). -/
def execPowerCapStep (s : State) : Res := .next (s.capStep)

/-- QUOTE_REQUEST (R426). -/
def execQuoteRequest (nonce : List Byte) (s : State) : Res := .next (s.quote nonce)

/-- PACKAGE_RESET (R410). -/
def execPackageReset (s : State) : Res := .next (s.boots)

/-- HOSTEL_ACCESS (R390). -/
def execHostelAccess (hart : Nat) (kind : HAccess) (va : Word) (size : Nat) (v : Word) (s : State) : Res :=
  .next (s.hostelAccess hart kind va size v)

/-- PORT_LANE_ERROR (R420). -/
def execPortLaneError (unit lane : Nat) (s : State) : Res := .next (s.portLane unit lane)

/-- WFE_END_WITHOUT_EVENT (R332). -/
def execWfeEndWithoutEvent (k : Nat) (s : State) : Res := .next (s.updCtx k fun c => c.wfeEnd s.now)

end Sys2Proof.Machine
end

