-- ==== Sys2Proof/Machine/Dispatch.lean ====
section
/-! DEFINITION. The meaning of every row of the table: one call for each constructor of `Instr`. -/

namespace Sys2Proof.Machine

def exec (i : Instr) (s : State) : Host.Outcome State Fault Refusal :=
  match i with
  | .add p d a b => Sys2Proof.Machine.execAdd p d a b s
  | .sub p d a b => Sys2Proof.Machine.execSub p d a b s
  | .mul p d a b => Sys2Proof.Machine.execMul p d a b s
  | .mulh p d a b => Sys2Proof.Machine.execMulh p d a b s
  | .mulhu p d a b => Sys2Proof.Machine.execMulhu p d a b s
  | .div p d a b => Sys2Proof.Machine.execDiv p d a b s
  | .divu p d a b => Sys2Proof.Machine.execDivu p d a b s
  | .rem p d a b => Sys2Proof.Machine.execRem p d a b s
  | .remu p d a b => Sys2Proof.Machine.execRemu p d a b s
  | .and p d a b => Sys2Proof.Machine.execAnd p d a b s
  | .or p d a b => Sys2Proof.Machine.execOr p d a b s
  | .xor p d a b => Sys2Proof.Machine.execXor p d a b s
  | .sll p d a b => Sys2Proof.Machine.execSll p d a b s
  | .srl p d a b => Sys2Proof.Machine.execSrl p d a b s
  | .sra p d a b => Sys2Proof.Machine.execSra p d a b s
  | .slt p d a b => Sys2Proof.Machine.execSlt p d a b s
  | .sltu p d a b => Sys2Proof.Machine.execSltu p d a b s
  | .min p d a b => Sys2Proof.Machine.execMin p d a b s
  | .max p d a b => Sys2Proof.Machine.execMax p d a b s
  | .minu p d a b => Sys2Proof.Machine.execMinu p d a b s
  | .maxu p d a b => Sys2Proof.Machine.execMaxu p d a b s
  | .clz p d a => Sys2Proof.Machine.execClz p d a s
  | .ctz p d a => Sys2Proof.Machine.execCtz p d a s
  | .popc p d a => Sys2Proof.Machine.execPopc p d a s
  | .nop p => Sys2Proof.Machine.execNop p s
  | .addi p d a imm => Sys2Proof.Machine.execAddi p d a imm s
  | .andi p d a imm => Sys2Proof.Machine.execAndi p d a imm s
  | .ori p d a imm => Sys2Proof.Machine.execOri p d a imm s
  | .xori p d a imm => Sys2Proof.Machine.execXori p d a imm s
  | .slti p d a imm => Sys2Proof.Machine.execSlti p d a imm s
  | .slli p d a h => Sys2Proof.Machine.execSlli p d a h s
  | .srli p d a h => Sys2Proof.Machine.execSrli p d a h s
  | .srai p d a h => Sys2Proof.Machine.execSrai p d a h s
  | .lui p d imm => Sys2Proof.Machine.execLui p d imm s
  | .auipc p d imm => Sys2Proof.Machine.execAuipc p d imm s
  | .fadd p d a b => Sys2Proof.Machine.execFadd p d a b s
  | .fsub p d a b => Sys2Proof.Machine.execFsub p d a b s
  | .fmul p d a b => Sys2Proof.Machine.execFmul p d a b s
  | .fdiv p d a b => Sys2Proof.Machine.execFdiv p d a b s
  | .fsqrt p d a => Sys2Proof.Machine.execFsqrt p d a s
  | .fmin p d a b => Sys2Proof.Machine.execFmin p d a b s
  | .fmax p d a b => Sys2Proof.Machine.execFmax p d a b s
  | .fcmpeq p d a b => Sys2Proof.Machine.execFcmpeq p d a b s
  | .fcmplt p d a b => Sys2Proof.Machine.execFcmplt p d a b s
  | .fcvti p d a => Sys2Proof.Machine.execFcvti p d a s
  | .fcvtf p d a => Sys2Proof.Machine.execFcvtf p d a s
  | .beq p a b o => Sys2Proof.Machine.execBeq p a b o s
  | .bne p a b o => Sys2Proof.Machine.execBne p a b o s
  | .blt p a b o => Sys2Proof.Machine.execBlt p a b o s
  | .bge p a b o => Sys2Proof.Machine.execBge p a b o s
  | .bltu p a b o => Sys2Proof.Machine.execBltu p a b o s
  | .bgeu p a b o => Sys2Proof.Machine.execBgeu p a b o s
  | .jal p d o => Sys2Proof.Machine.execJal p d o s
  | .jalr p d a imm => Sys2Proof.Machine.execJalr p d a imm s
  | .lb p d a imm => Sys2Proof.Machine.execLb p d a imm s
  | .lbu p d a imm => Sys2Proof.Machine.execLbu p d a imm s
  | .lh p d a imm => Sys2Proof.Machine.execLh p d a imm s
  | .lhu p d a imm => Sys2Proof.Machine.execLhu p d a imm s
  | .lw p d a imm => Sys2Proof.Machine.execLw p d a imm s
  | .lwu p d a imm => Sys2Proof.Machine.execLwu p d a imm s
  | .ld p d a imm => Sys2Proof.Machine.execLd p d a imm s
  | .sb p d a imm => Sys2Proof.Machine.execSb p d a imm s
  | .sh p d a imm => Sys2Proof.Machine.execSh p d a imm s
  | .sw p d a imm => Sys2Proof.Machine.execSw p d a imm s
  | .sd p d a imm => Sys2Proof.Machine.execSd p d a imm s
  | .lda p d a sc z => Sys2Proof.Machine.execLda p d a sc z s
  | .stl p a b sc z => Sys2Proof.Machine.execStl p a b sc z s
  | .lfe p d a imm => Sys2Proof.Machine.execLfe p d a imm s
  | .lfec p d a imm => Sys2Proof.Machine.execLfec p d a imm s
  | .sfe p d a imm => Sys2Proof.Machine.execSfe p d a imm s
  | .feclr p d a imm => Sys2Proof.Machine.execFeclr p d a imm s
  | .fepoll p d a imm => Sys2Proof.Machine.execFepoll p d a imm s
  | .amoadd p d a b ar sc => Sys2Proof.Machine.execAmoadd p d a b ar sc s
  | .amoand p d a b ar sc => Sys2Proof.Machine.execAmoand p d a b ar sc s
  | .amoor p d a b ar sc => Sys2Proof.Machine.execAmoor p d a b ar sc s
  | .amoxor p d a b ar sc => Sys2Proof.Machine.execAmoxor p d a b ar sc s
  | .amomin p d a b ar sc => Sys2Proof.Machine.execAmomin p d a b ar sc s
  | .amomax p d a b ar sc => Sys2Proof.Machine.execAmomax p d a b ar sc s
  | .amoswap p d a b ar sc => Sys2Proof.Machine.execAmoswap p d a b ar sc s
  | .amocas p d a b ar sc => Sys2Proof.Machine.execAmocas p d a b ar sc s
  | .fsh p d a b n => Sys2Proof.Machine.execFsh p d a b n s
  | .fence p sc => Sys2Proof.Machine.execFence p sc s
  | .xfence p x y => Sys2Proof.Machine.execXfence p x y s
  | .mkfence p l => Sys2Proof.Machine.execMkfence p l s
  | .waitc p t c sv l => Sys2Proof.Machine.execWaitc p t c sv l s
  | .sset p n a b => Sys2Proof.Machine.execSset p n a b s
  | .sbind p n => Sys2Proof.Machine.execSbind p n s
  | .sunbind p n => Sys2Proof.Machine.execSunbind p n s
  | .vcfg p imm => Sys2Proof.Machine.execVcfg p imm s
  | .vld p g a n imm => Sys2Proof.Machine.execVld p g a n imm s
  | .vldFeKeep p g a imm => Sys2Proof.Machine.execVldFeKeep p g a imm s
  | .vldFeClear p g a imm => Sys2Proof.Machine.execVldFeClear p g a imm s
  | .vst p g a n imm => Sys2Proof.Machine.execVst p g a n imm s
  | .vlds p g a b => Sys2Proof.Machine.execVlds p g a b s
  | .vsts p g a b => Sys2Proof.Machine.execVsts p g a b s
  | .vldx p g a x => Sys2Proof.Machine.execVldx p g a x s
  | .vstx p g a x => Sys2Proof.Machine.execVstx p g a x s
  | .vbcast p g a => Sys2Proof.Machine.execVbcast p g a s
  | .vfadd p g a b => Sys2Proof.Machine.execVfadd p g a b s
  | .vfsub p g a b => Sys2Proof.Machine.execVfsub p g a b s
  | .vfmul p g a b => Sys2Proof.Machine.execVfmul p g a b s
  | .vfma p g a b => Sys2Proof.Machine.execVfma p g a b s
  | .vfms p g a b => Sys2Proof.Machine.execVfms p g a b s
  | .vfnma p g a b => Sys2Proof.Machine.execVfnma p g a b s
  | .vfdiv p g a b => Sys2Proof.Machine.execVfdiv p g a b s
  | .vfsqrt p g a => Sys2Proof.Machine.execVfsqrt p g a s
  | .vfmin p g a b => Sys2Proof.Machine.execVfmin p g a b s
  | .vfmax p g a b => Sys2Proof.Machine.execVfmax p g a b s
  | .vfabs p g a => Sys2Proof.Machine.execVfabs p g a s
  | .vfneg p g a => Sys2Proof.Machine.execVfneg p g a s
  | .vexp2 p g a => Sys2Proof.Machine.execVexp2 p g a s
  | .vlog2 p g a => Sys2Proof.Machine.execVlog2 p g a s
  | .vrsq p g a => Sys2Proof.Machine.execVrsq p g a s
  | .vrcp p g a => Sys2Proof.Machine.execVrcp p g a s
  | .vtanh p g a => Sys2Proof.Machine.execVtanh p g a s
  | .vsigm p g a => Sys2Proof.Machine.execVsigm p g a s
  | .vadd p g a b => Sys2Proof.Machine.execVadd p g a b s
  | .vsub p g a b => Sys2Proof.Machine.execVsub p g a b s
  | .vmul p g a b => Sys2Proof.Machine.execVmul p g a b s
  | .vmulh p g a b => Sys2Proof.Machine.execVmulh p g a b s
  | .vmin p g a b => Sys2Proof.Machine.execVmin p g a b s
  | .vmax p g a b => Sys2Proof.Machine.execVmax p g a b s
  | .vminu p g a b => Sys2Proof.Machine.execVminu p g a b s
  | .vmaxu p g a b => Sys2Proof.Machine.execVmaxu p g a b s
  | .vadds p g a b => Sys2Proof.Machine.execVadds p g a b s
  | .vsubs p g a b => Sys2Proof.Machine.execVsubs p g a b s
  | .vand p g a b => Sys2Proof.Machine.execVand p g a b s
  | .vor p g a b => Sys2Proof.Machine.execVor p g a b s
  | .vxor p g a b => Sys2Proof.Machine.execVxor p g a b s
  | .vsll p g a b => Sys2Proof.Machine.execVsll p g a b s
  | .vsrl p g a b => Sys2Proof.Machine.execVsrl p g a b s
  | .vsra p g a b => Sys2Proof.Machine.execVsra p g a b s
  | .vcmpeq p m a b => Sys2Proof.Machine.execVcmpeq p m a b s
  | .vcmplt p m a b => Sys2Proof.Machine.execVcmplt p m a b s
  | .vcmple p m a b => Sys2Proof.Machine.execVcmple p m a b s
  | .mand p d a b => Sys2Proof.Machine.execMand p d a b s
  | .mor p d a b => Sys2Proof.Machine.execMor p d a b s
  | .mnot p d a => Sys2Proof.Machine.execMnot p d a s
  | .mpopc p d a => Sys2Proof.Machine.execMpopc p d a s
  | .vperm p g a b => Sys2Proof.Machine.execVperm p g a b s
  | .vperm2 p g a b => Sys2Proof.Machine.execVperm2 p g a b s
  | .vshuf p g a c => Sys2Proof.Machine.execVshuf p g a c s
  | .vslide p g a k => Sys2Proof.Machine.execVslide p g a k s
  | .vmov p g a => Sys2Proof.Machine.execVmov p g a s
  | .vsplat p g a => Sys2Proof.Machine.execVsplat p g a s
  | .vext p g d b => Sys2Proof.Machine.execVext p g d b s
  | .vins p g a b => Sys2Proof.Machine.execVins p g a b s
  | .vcvt p g a t => Sys2Proof.Machine.execVcvt p g a t s
  | .vpack p g a t => Sys2Proof.Machine.execVpack p g a t s
  | .vwiden p g a t => Sys2Proof.Machine.execVwiden p g a t s
  | .vredsum p g a => Sys2Proof.Machine.execVredsum p g a s
  | .vredmax p g a => Sys2Proof.Machine.execVredmax p g a s
  | .vredmin p g a => Sys2Proof.Machine.execVredmin p g a s
  | .xadd p g a b => Sys2Proof.Machine.execXadd p g a b s
  | .xsub p g a b => Sys2Proof.Machine.execXsub p g a b s
  | .xmul p g a b => Sys2Proof.Machine.execXmul p g a b s
  | .xfma p g a b => Sys2Proof.Machine.execXfma p g a b s
  | .xred p g a => Sys2Proof.Machine.execXred p g a s
  | .dwadd p g a b => Sys2Proof.Machine.execDwadd p g a b s
  | .dwsub p g a b => Sys2Proof.Machine.execDwsub p g a b s
  | .dwmul p g a b => Sys2Proof.Machine.execDwmul p g a b s
  | .dwnorm p g a => Sys2Proof.Machine.execDwnorm p g a s
  | .dwrnd p g a => Sys2Proof.Machine.execDwrnd p g a s
  | .sldep p g a b => Sys2Proof.Machine.execSldep p g a b s
  | .slmerge p g a b => Sys2Proof.Machine.execSlmerge p g a b s
  | .mset p a b r => Sys2Proof.Machine.execMset p a b r s
  | .mballoc p a b c => Sys2Proof.Machine.execMballoc p a b c s
  | .mbfree p a b c => Sys2Proof.Machine.execMbfree p a b c s
  | .mzero p a b c => Sys2Proof.Machine.execMzero p a b c s
  | .mmac p a b c => Sys2Proof.Machine.execMmac p a b c s
  | .mdrain p a b c => Sys2Proof.Machine.execMdrain p a b c s
  | .mfill p a b c => Sys2Proof.Machine.execMfill p a b c s
  | .mstat p a => Sys2Proof.Machine.execMstat p a s
  | .cset p a b r => Sys2Proof.Machine.execCset p a b r s
  | .copy p a b => Sys2Proof.Machine.execCopy p a b s
  | .cfill p a b => Sys2Proof.Machine.execCfill p a b s
  | .rsend p a b => Sys2Proof.Machine.execRsend p a b s
  | .rpermit p a b => Sys2Proof.Machine.execRpermit p a b s
  | .rstat p a b => Sys2Proof.Machine.execRstat p a b s
  | .msgw p d a b => Sys2Proof.Machine.execMsgw p d a b s
  | .wtarm p d a b => Sys2Proof.Machine.execWtarm p d a b s
  | .wtdis p d a => Sys2Proof.Machine.execWtdis p d a s
  | .cntwait p d a b => Sys2Proof.Machine.execCntwait p d a b s
  | .spawn p a => Sys2Proof.Machine.execSpawn p a s
  | .joindec p d a => Sys2Proof.Machine.execJoindec p d a s
  | .retire p => Sys2Proof.Machine.execRetire p s
  | .yield p => Sys2Proof.Machine.execYield p s
  | .gnew p d a => Sys2Proof.Machine.execGnew p d a s
  | .gjoin p a => Sys2Proof.Machine.execGjoin p a s
  | .gleave p a => Sys2Proof.Machine.execGleave p a s
  | .gbar p d a => Sys2Proof.Machine.execGbar p d a s
  | .gbcfg p a b => Sys2Proof.Machine.execGbcfg p a b s
  | .gfree p a => Sys2Proof.Machine.execGfree p a s
  | .getid p d f => Sys2Proof.Machine.execGetid p d f s
  | .rdcsr p d c => Sys2Proof.Machine.execRdcsr p d c s
  | .wrcsr p a c => Sys2Proof.Machine.execWrcsr p a c s
  | .emit p d a b => Sys2Proof.Machine.execEmit p d a b s
  | .fwait p a => Sys2Proof.Machine.execFwait p a s
  | .pxlook p d a => Sys2Proof.Machine.execPxlook p d a s
  | .pxins p d a => Sys2Proof.Machine.execPxins p d a s
  | .pxrel p d a => Sys2Proof.Machine.execPxrel p d a s
  | .capld p a n => Sys2Proof.Machine.execCapld p a n s
  | .capclr p n => Sys2Proof.Machine.execCapclr p n s
  | .csave p a => Sys2Proof.Machine.execCsave p a s
  | .crestore p a => Sys2Proof.Machine.execCrestore p a s
  | .tlbinv p a => Sys2Proof.Machine.execTlbinv p a s
  | .tlbflush p sc => Sys2Proof.Machine.execTlbflush p sc s
  | .eret p => Sys2Proof.Machine.execEret p s
  | .cwb p a imm => Sys2Proof.Machine.execCwb p a imm s
  | .cinv p a imm => Sys2Proof.Machine.execCinv p a imm s
  | .pref p a imm => Sys2Proof.Machine.execPref p a imm s
  | .trap p c => Sys2Proof.Machine.execTrap p c s
  | .brk p => Sys2Proof.Machine.execBrk p s
  | .wfe p => Sys2Proof.Machine.execWfe p s
  | .sld p d o => Sys2Proof.Machine.execSld p d o s
  | .sst p d o => Sys2Proof.Machine.execSst p d o s
  | .gsld p n o => Sys2Proof.Machine.execGsld p n o s
  | .gsst p n o => Sys2Proof.Machine.execGsst p n o s
  | .fdone d a => Sys2Proof.Machine.execFdone d a s
  | .fpoll d a => Sys2Proof.Machine.execFpoll d a s
  | .sbox a b => Sys2Proof.Machine.execSbox a b s
  | .stationStart k st => Sys2Proof.Machine.execStationStart k st s
  | .landing k id => Sys2Proof.Machine.execLanding k id s
  | .storeTakesEffect k id => Sys2Proof.Machine.execStoreTakesEffect k id s
  | .pageWalkComplete k => Sys2Proof.Machine.execPageWalkComplete k s
  | .asyncTrapEntry k => Sys2Proof.Machine.execAsyncTrapEntry k s
  | .sequencerSwitch core => Sys2Proof.Machine.execSequencerSwitch core s
  | .deadlockProbe k => Sys2Proof.Machine.execDeadlockProbe k s
  | .launchStatusReport slot code env status => Sys2Proof.Machine.execLaunchStatusReport slot code env status s
  | .runQueuePop core => Sys2Proof.Machine.execRunQueuePop core s
  | .localReadyListTake core => Sys2Proof.Machine.execLocalReadyListTake core s
  | .waitingTaskArrival core entry n => Sys2Proof.Machine.execWaitingTaskArrival core entry n s
  | .sfuRequestAccept k id => Sys2Proof.Machine.execSfuRequestAccept k id s
  | .matrixCommandAccept k => Sys2Proof.Machine.execMatrixCommandAccept k s
  | .matrixCommandStart e => Sys2Proof.Machine.execMatrixCommandStart e s
  | .matrixCommandComplete e => Sys2Proof.Machine.execMatrixCommandComplete e s
  | .copyComplete k id => Sys2Proof.Machine.execCopyComplete k id s
  | .relayArrival ch => Sys2Proof.Machine.execRelayArrival ch s
  | .permitReturn ch => Sys2Proof.Machine.execPermitReturn ch s
  | .msgwArrival k id => Sys2Proof.Machine.execMsgwArrival k id s
  | .futureTimeout fut => Sys2Proof.Machine.execFutureTimeout fut s
  | .biasFlipComplete frame => Sys2Proof.Machine.execBiasFlipComplete frame s
  | .preemptionHalt k core => Sys2Proof.Machine.execPreemptionHalt k core s
  | .fshAtCellar k id => Sys2Proof.Machine.execFshAtCellar k id s
  | .trapEntry k cause tval tinfo epc => Sys2Proof.Machine.execTrapEntry k cause tval tinfo epc s
  | .launchSlotDoorbell slot v => Sys2Proof.Machine.execLaunchSlotDoorbell slot v s
  | .sliceBoundary => Sys2Proof.Machine.execSliceBoundary s
  | .drainBandArrival core akind went winc off len => Sys2Proof.Machine.execDrainBandArrival core akind went winc off len s
  | .engineFault k st id cause wr grow va progress => Sys2Proof.Machine.execEngineFault k st id cause wr grow va progress s
  | .relayDescriptorWrite ch hi v => Sys2Proof.Machine.execRelayDescriptorWrite ch hi v s
  | .relayChannelEnable ch v => Sys2Proof.Machine.execRelayChannelEnable ch v s
  | .relayChannelDisable ch v => Sys2Proof.Machine.execRelayChannelDisable ch v s
  | .bankFormatWrite core bank v => Sys2Proof.Machine.execBankFormatWrite core bank v s
  | .mailboxPost => Sys2Proof.Machine.execMailboxPost s
  | .futureCompletion fut gen ids => Sys2Proof.Machine.execFutureCompletion fut gen ids s
  | .injectionRetry fut => Sys2Proof.Machine.execInjectionRetry fut s
  | .continuationPushRetry => Sys2Proof.Machine.execContinuationPushRetry s
  | .futureServiceMessage port payload => Sys2Proof.Machine.execFutureServiceMessage port payload s
  | .runQueueWindowPush q off bytes => Sys2Proof.Machine.execRunQueueWindowPush q off bytes s
  | .ualinkLaunchPacket peer q packet => Sys2Proof.Machine.execUalinkLaunchPacket peer q packet s
  | .runQueueConfigWrite q hi v => Sys2Proof.Machine.execRunQueueConfigWrite q hi v s
  | .sliceLengthWrite v => Sys2Proof.Machine.execSliceLengthWrite v s
  | .vocabSlotLoad slot => Sys2Proof.Machine.execVocabSlotLoad slot s
  | .registerWrite off bytes => Sys2Proof.Machine.execRegisterWrite off bytes s
  | .hostWindowAccess off wr bytes => Sys2Proof.Machine.execHostWindowAccess off wr bytes s
  | .homeRequest h kind line => Sys2Proof.Machine.execHomeRequest h kind line s
  | .snoopInvalidation die pa inval => Sys2Proof.Machine.execSnoopInvalidation die pa inval s
  | .writeBackArrival h pa => Sys2Proof.Machine.execWriteBackArrival h pa s
  | .biasFlipRequest frame old new => Sys2Proof.Machine.execBiasFlipRequest frame old new s
  | .frameGenChange frame old new => Sys2Proof.Machine.execFrameGenChange frame old new s
  | .migrationOpen region die => Sys2Proof.Machine.execMigrationOpen region die s
  | .migrationSwitch region => Sys2Proof.Machine.execMigrationSwitch region s
  | .growRequest k => Sys2Proof.Machine.execGrowRequest k s
  | .cellarLoad => Sys2Proof.Machine.execCellarLoad s
  | .keyInstall => Sys2Proof.Machine.execKeyInstall s
  | .keyErase => Sys2Proof.Machine.execKeyErase s
  | .tensorLayoutValidate h => Sys2Proof.Machine.execTensorLayoutValidate h s
  | .imageLoadRequest => Sys2Proof.Machine.execImageLoadRequest s
  | .driveDma pa wr bytes => Sys2Proof.Machine.execDriveDma pa wr bytes s
  | .mailboxConfigWrite hart cfg v => Sys2Proof.Machine.execMailboxConfigWrite hart cfg v s
  | .fcsignWrite hart v => Sys2Proof.Machine.execFcsignWrite hart v s
  | .capsignWrite k v => Sys2Proof.Machine.execCapsignWrite k v s
  | .ctlWrite k v => Sys2Proof.Machine.execCtlWrite k v s
  | .afpopKeep k => Sys2Proof.Machine.execAfpopKeep k s
  | .afpopDrop k => Sys2Proof.Machine.execAfpopDrop k s
  | .preemptionRequest core v => Sys2Proof.Machine.execPreemptionRequest core v s
  | .windowConfigWrite cls v => Sys2Proof.Machine.execWindowConfigWrite cls v s
  | .linkCrcFailure link dir lane => Sys2Proof.Machine.execLinkCrcFailure link dir lane s
  | .laneRepairSwitch link dir => Sys2Proof.Machine.execLaneRepairSwitch link dir s
  | .powerControlWrite v => Sys2Proof.Machine.execPowerControlWrite v s
  | .powerCapStep => Sys2Proof.Machine.execPowerCapStep s
  | .quoteRequest nonce => Sys2Proof.Machine.execQuoteRequest nonce s
  | .packageReset => Sys2Proof.Machine.execPackageReset s
  | .hostelAccess hart kind va size v => Sys2Proof.Machine.execHostelAccess hart kind va size v s
  | .portLaneError unit lane => Sys2Proof.Machine.execPortLaneError unit lane s
  | .wfeEndWithoutEvent k => Sys2Proof.Machine.execWfeEndWithoutEvent k s

end Sys2Proof.Machine
end

