-- ==== Sys2Proof/Machine/Schedule.lean ====
section
/-! DEFINITION. Which row of the table the package performs next. Each step performs one; the steps of one cycle come in a
fixed order, which is one of the orders that the spec allows (log entry 1). -/

namespace Sys2Proof.Machine

/-- What the next step is. -/
inductive Job where
  /-- What befalls the package next. -/
  | incident
  /-- A due step of the agenda, by its place. -/
  | input (n : Nat) (i : Instr)
  /-- A hart's next word. -/
  | hart (h : Nat)
  /-- A step of a unit. -/
  | unit (i : Instr)
  | migrate (region : Nat)
  /-- A dual-home window's next line, or its fence (R376). -/
  | migrateOn (region : Nat)
  | lane (u : Nat) (dir : Bool)
  | grow (k : Nat)
  /-- A berth's COPY or CFILL moves its next granule. -/
  | copyOn (k : Nat)
  /-- An engine's command runs its next chunk or row. -/
  | engineOn (en : Nat)
  /-- A result reaches the save area at a location. -/
  | result (loc id : Nat)
  /-- A halted team's state is saved. -/
  | swap (lid : Nat)
  /-- An admission, a status write, a doorbell, an injection that a generation refused is tried again (R371). -/
  | admission (lid : Nat)
  | status
  | door
  | inject (id : Nat)
  /-- A berth takes a pending asynchronous trap. -/
  | async (k : Nat)
  /-- A blocked context sends its probe. -/
  | probe (k : Nat)
  /-- S issues the next word of a berth. -/
  | issue (k : Nat)
  /-- A core's die asks the homes for the sectors of an access (R363). -/
  | ask (core : Nat) (excl : Bool) (secs : List Nat)
  /-- A home begins to serve a request (R363). -/
  | serve (a : Ask)
  /-- A hart's access that waited is made (R363, R390). -/
  | hop (x : Hop)
  /-- A write arrives at a region of the hub (R348). -/
  | posted
  /-- The cycle is over. -/
  | tick
deriving DecidableEq, Repr

/-- The first context that gives an answer, by key. -/
def State.firstCtx {β : Type} (s : State) (f : Nat → Ctx → Option β) : Option β :=
  s.liveKeys.findSome? fun k => match s.ctxAt k with | some c => f k c | none => none

/-- The earlier of two dated candidates, the first where they are equal. -/
def earlier {β : Type} (a : Option (Nat × β)) (b : Nat × β) : Option (Nat × β) :=
  match a with
  | none => some b
  | some x => if b.1 < x.1 then some b else some x

/-- The earliest dated candidate of a list. -/
def earliest {β : Type} (l : List (Nat × β)) : Option β := (l.foldl earlier none).map Prod.snd

/-- The service order of an access that arrived at the banks in cycle `t` (R147): earlier arrivals first; in one cycle V, then S,
then engines and the relay, then remote cores and the host. -/
def bankDate (t : Nat) (cls : Nat) : Nat := 4 * t + cls

/-- The class of an LS access by a station of a core: one to another core's scratchpad is a remote one there (R147). -/
def lsClass (core : Nat) (st : Station) (accs : List Acc) : Nat :=
  if accs.any fun a => decide (winBase ≤ a.loc) && decide (a.loc < winBase + 0x80000 * numCores) && (spadOf a.loc).1 != core then 3
  else if st = .v then 0
  else 1

/-- The landings that can be made now, by service order (R32, R147). -/
def State.landings (s : State) : List (Nat × Job) :=
  s.liveKeys.flatMap fun k => match s.ctxAt k with
    | some c => (c.pend.filter (s.landable (k / 4) c)).map fun p =>
        (bankDate (p.due.getD 0) (lsClass (k / 4) p.st p.accs), .unit (.landing k p.id))
    | none => []

/-- The stores (R92) and messages (R316) that can take effect now, by service order (R147). -/
def State.effects (s : State) : List (Nat × Job) :=
  s.liveKeys.flatMap fun k => match s.ctxAt k with
    | some c => (c.stores.filter (s.storable (k / 4) c)).map fun p =>
        (bankDate (p.due.getD 0) (lsClass (k / 4) p.st p.accs),
         .unit (match p.kind with | .msgw .. => .msgwArrival k p.id | _ => .storeTakesEffect k p.id))
    | none => []

/-- A shipped routine that has not run, and its sector (R248). -/
def Pend.fshSector (p : Pend) : Option Nat :=
  match p.act with
  | .fsh _ _ _ _ none => some ((p.accs.map (·.loc)).headD 0 / 64)
  | _ => none

/-- A shipped routine whose request has reached its cellar (R404): one context's routines on one sector run in program order
(R91), and those of all in arrival order with the other requests at the sector's home (R106, R363). -/
def State.fshPick (s : State) : Option (Nat × Nat) :=
  s.firstCtx fun k c => (c.pend.find? fun p => !p.late && (match p.due with | some t => decide (t ≤ s.now) | none => false) &&
    match p.fshSector with
    | some x => !(c.pend.any fun q => decide (q.id < p.id) && q.fshSector == some x) && !(s.flips.contains (x / 64)) &&
        !(s.asks.any fun a => a.sec == x && (a.begun || p.due.any fun t => decide (a.at_ < t)))
    | none => false).map fun p => (k, p.id)

/-- A core's die lacks one of the sectors and has not asked for it. -/
def State.unasked (s : State) (core : Nat) (excl : Bool) (accs : List Acc) : Bool :=
  (sectorsOf accs).any fun x => !(s.holds x (dieOf core) excl) &&
    !(s.asks.any fun a => a.sec == x && a.who == dieOf core && (a.excl || !excl))

/-- The requests of a context's accesses that can take effect but for sectors that they lack, dated by arrival (R363). -/
def State.lacks (s : State) (k : Nat) (c : Ctx) : List (Nat × Job) :=
  let core := k / 4
  (c.pend.filterMap fun p => if p.isLs && s.unasked core p.excl p.accs && s.landReady core c p then
    some (p.due.getD 0, .ask core p.excl (sectorsOf p.accs)) else none) ++
  c.stores.filterMap fun p => if s.unasked core p.excl p.cached && s.storeReady core c p then
    some (p.due.getD 0, .ask core p.excl (sectorsOf p.cached)) else none

/-- A core's access asks for what it lacks (R363): in arrival order, those of one cycle in ascending core number (R362). -/
def State.askJob (s : State) : Option Job :=
  earliest (s.liveKeys.flatMap fun k => match s.ctxAt k with | some c => s.lacks k c | none => [])

/-- The port hands the command that has started at M over (R182). -/
def Ctx.atPort (c : Ctx) : Bool := c.mact.any fun e => e.word.any portWord

/-- The engines' next steps (R191), by service order (R147). -/
def State.engineJobs (s : State) : List (Nat × Job) :=
  s.engines.filterMap fun e =>
    if s.now < e.2.doneAt then none
    else if e.2.serving.isSome then
      some (bankDate e.2.doneAt 2, if e.2.ran then .unit (.matrixCommandComplete e.1) else .engineOn e.1)
    else (s.matPick e.1).map fun _ => (bankDate s.now 2, .unit (.matrixCommandStart e.1))

/-- The cores with contexts, each once and rising. -/
def State.busyCores (s : State) : List Nat :=
  s.liveKeys.foldl (fun l k => if l.getLast? = some (k / 4) then l else l ++ [k / 4]) []

/-- A station's next start (R78). -/
def State.startJob (s : State) : Option Job :=
  s.busyCores.findSome? fun core => [Station.v, .m, .c].findSome? fun st =>
    (s.startPick core st).map fun x =>
      if st = .v ∧ isVsf x.2.2 = true then .unit (.sfuRequestAccept x.1 x.2.1.id) else .unit (.stationStart x.1 st)

/-- A berth blocked in a TLB miss walk (R241), which waits for the sectors that it lacks (R361). -/
def State.walkJob (s : State) : Option Job :=
  s.firstCtx fun k c => match c.block with
    | .walk va _ _ =>
      let accs := (walkReads s.mem va.toNat 3 c.root.toNat).map fun a => (⟨0, a, 8, 0, false⟩ : Acc)
      if s.now < c.blockedAt then none
      else if s.coheres (k / 4) false accs then some (if (s.growWanted k).isSome then .grow k else .unit (.pageWalkComplete k))
      else if s.unasked (k / 4) false accs then some (.unit (.pageWalkComplete k))
      else none
    | _ => none

/-- The class of a step of the agenda that reaches a scratchpad: the relay, a drain's band, the host (R147); and, after a cycle's
accesses, a holder's loss of a sector. -/
def inputClass : Instr → Option Nat
  | .relayArrival .. => some 2
  | .drainBandArrival .. => some 2
  | .hostWindowAccess .. => some 3
  | .snoopInvalidation .. => some 4
  | _ => none

/-- The steps of the agenda whose cycle has come, with their places in it. -/
def State.dueInputs (s : State) : List (Nat × Nat × Instr) :=
  (s.agenda.takeWhile fun e => decide (e.1 ≤ s.now)).mapIdx fun n e => (n, e)

/-- The port of a message to the future service (R399); a completion comes with the last of them. -/
def messagePort : Instr → Option Nat
  | .futureServiceMessage port _ => some port.toNat
  | .futureCompletion .. => some 4
  | _ => none

/-- The first due step of the agenda that is neither an access to a scratchpad nor a message to the future service. -/
def State.inputJob (s : State) : Option Job :=
  (s.dueInputs.find? fun x => (inputClass x.2.2).isNone && (messagePort x.2.2).isNone).map fun x => .input x.1 x.2.2

/-- The due messages to the future service, in ascending port number, after the harts' words (R399). -/
def State.messageJob (s : State) : Option Job :=
  earliest (s.dueInputs.filterMap fun x => (messagePort x.2.2).map fun p => (p, Job.input x.1 x.2.2))

/-- The due steps of the agenda that are accesses to a scratchpad, by service order (R147). -/
def State.inputAccess (s : State) : List (Nat × Job) :=
  s.dueInputs.filterMap fun x => (inputClass x.2.2).map fun n => (bankDate x.2.1 n, Job.input x.1 x.2.2)

/-- A future's timer that has reached 0 (R211): after every other event of the cycle. -/
def State.timerJob (s : State) : Option Job :=
  s.futures.findSome? fun x => if x.2.expired s.now then some (.unit (.futureTimeout (BitVec.ofNat 16 x.1))) else none

/-- The next hart's word, if its cycle has come: harts that are held wait (R410), and a retired one takes none (R420). -/
def State.hartJob (s : State) : Option Job :=
  if s.boot.phase = 1 ∨ s.boot.phase = 2 then
    match s.hartDue.filter fun x => s.hartRuns x.2 with
    | (t, h) :: _ => if t ≤ s.now then some (.hart h) else none
    | [] => none
  else none

/-- The next summed arrival, once every other step of the cycle is made (R137). -/
def State.arrivalJob (s : State) : Option Job :=
  match s.arrivals with
  | (k, n) :: _ => some (.unit (.waitingTaskArrival (k / 64) (BitVec.ofNat 6 k) n))
  | [] => none

/-- A step of the page agent or of a die link. -/
def State.agentJob (s : State) : Option Job :=
  (s.windows.findSome? fun w => if w.2.due ≤ s.now then
    some (if w.2.copyDone && w.2.fenced then .migrate w.1 else .migrateOn w.1) else none) <|>
  (s.links.findSome? fun l => [false, true].findSome? fun d => (s.laneReady l.1 d).map fun _ => .lane l.1 d)

/-- A context is created from a record (R134, R137). -/
def State.recordJob (s : State) : Option Job :=
  (s.cores.findSome? fun c => if c.2.ready.isEmpty then none
    else (s.readyPick c.1).map fun _ => .unit (.localReadyListTake c.1)) <|>
  ([0, 1, 2, 3].findSome? fun d => (s.popper d).map fun core => .unit (.runQueuePop core))

/-- The word of four bytes at a location (R26). -/
def State.wordAt (s : State) (loc : Nat) : IWord :=
  wordOfBytes (s.mem.read loc) (s.mem.read (loc + 1)) (s.mem.read (loc + 2)) (s.mem.read (loc + 3))

/-- A berth's fetch waits for the sector that its die has asked for (R155, R363). -/
def State.fetchWaits (s : State) (k : Nat) : Bool :=
  let t := s.focus k
  match t.xlateS t.ctx.pc.toNat .fetch with
  | .ok pa _ =>
    let a : Acc := ⟨0, pa, 4, 0, false⟩
    !(t.coheres t.core false [a]) && !(t.unasked t.core false [a])
  | _ => false

/-- The next word of a berth, as memory holds it. -/
def State.peek (s : State) (k : Nat) : Option Instr :=
  let t := s.focus k
  match t.xlateS t.ctx.pc.toNat .fetch with
  | .ok pa _ => decode (t.wordAt pa)
  | _ => none

/-- A core's next step at S: a change of berth, or a word (R140). -/
def State.coreIssue (s : State) (core : Nat) : Option Job :=
  if s.now < (s.coreAt core).sAt ∨ s.throttled core = true then none
  else if s.mustSwitch core then some (.unit (.sequencerSwitch core))
  else match s.issuer core with
    | some k => if s.fetchWaits k then none else some (.issue k)
    | none => none

/-- The step issues an FWAIT. -/
def State.issuesFwait (s : State) (j : Job) : Bool :=
  match j with
  | .issue k => match s.peek k with | some (.fwait ..) => true | _ => false
  | _ => false

/-- S's next step: core by core, but the FWAITs of a cycle come after its other words, so after the calls that close in it
(R211). -/
def State.issueJob (s : State) : Option Job :=
  (s.busyCores.findSome? fun core => (s.coreIssue core).filter fun j => !(s.issuesFwait j)) <|>
  s.busyCores.findSome? s.coreIssue

/-- A shipped routine at its cellar (R404). -/
def State.fshJob (s : State) : Option Job := s.fshPick.map fun (x : Nat × Nat) => .unit (.fshAtCellar x.1 x.2)

/-- A command accepted by an engine's port (R182). -/
def State.acceptJob (s : State) : Option Job :=
  s.firstCtx fun k c => if c.atPort then some (.unit (.matrixCommandAccept k)) else none

/-- The COPYs and CFILLs that go on (R306, R310), by service order (R147). -/
def State.copyJobs (s : State) : List (Nat × Job) :=
  s.liveKeys.filterMap fun k =>
    if s.copyTurn k then some (bankDate (Nat.min s.now (((s.coreAt (k / 4)).copyAt).getD s.now)) 2, .copyOn k) else none

/-- The next access of the cycle, in the service order of R147. -/
def State.accessJob (s : State) : Option Job :=
  earliest (s.landings ++ s.effects ++ s.engineJobs ++ s.copyJobs ++ s.inputAccess)

/-- The value that a pending word will land in its scalar destination. -/
def Pend.value (p : Pend) : Word := match p.wr with | .s _ v :: _ => v | _ => 0

/-- A held word's result reaches its save area (R315). -/
def State.resultIn (s : State) (loc id : Nat) : State :=
  match mget s.saved loc with
  | none => s
  | some sv => match sv.replay.find? fun p => p.id == id with
    | none => s
    | some p => s.savedResult loc sv id p.value

/-- A result that comes to a saved context (R315). -/
def State.resultJob (s : State) : Option Job :=
  s.saved.findSome? fun x =>
    (x.2.replay.find? fun p => p.held && p.act == .vals && p.due.any fun t => decide (t ≤ s.now)).map fun p => .result x.1 p.id

/-- The save of a halted team (R129). -/
def State.swapJob (s : State) : Option Job :=
  s.launches.findSome? fun l => (s.swapReady l).map fun _ => .swap l.id

/-- A try again after a refusal by a generation (R371). -/
def State.againJob (s : State) : Option Job :=
  (s.launches.findSome? fun l => match l.again with
    | some t => if t ≤ s.now ∧ l.leaving = none then some (.admission l.id) else none
    | none => none) <|>
  (match s.lateStatus with | (t, _) :: _ => if t ≤ s.now then some .status else none | [] => none) <|>
  (match s.lateDoors with | (t, _) :: _ => if t ≤ s.now then some .door else none | [] => none) <|>
  (s.futures.findSome? fun x => if x.2.again.any fun t => decide (t ≤ s.now) then some (.inject x.1) else none)

/-- An asynchronous trap at an instruction boundary (R380). -/
def State.asyncJob (s : State) : Option Job :=
  s.firstCtx fun k c => if c.asyncCause.isSome then some (.async k) else none

/-- A probe of a context blocked long enough (R141). -/
def State.probeJob (s : State) : Option Job :=
  s.firstCtx fun k _ => if s.probeDue k then some (.probe k) else none

/-- A write on its way to a region of the hub (R348). -/
def State.postedJob (s : State) : Option Job := if s.posted.isEmpty then none else some .posted

/-- What befalls the package, once its cycle has come. -/
def State.incidentJob (s : State) : Option Job :=
  match s.incidents with
  | (t, _) :: _ => if t ≤ s.now then some .incident else none
  | [] => none

/-- The next step, when no unit is in the middle of one. -/
def State.nextJob (s : State) : Job :=
  (s.incidentJob <|> s.inputJob <|> s.postedJob <|> s.accessJob <|> s.askJob <|> s.fshJob <|> s.agentJob <|> s.acceptJob <|>
   s.resultJob <|> s.swapJob <|> s.againJob <|> s.startJob <|> s.walkJob <|> s.asyncJob <|> s.probeJob <|> s.recordJob <|>
   s.issueJob <|> s.hopReady.map Job.hop <|> s.hartJob <|> s.messageJob <|> s.nextAsk.map Job.serve <|> s.arrivalJob <|>
   s.timerJob).getD .tick

/-- A token wait at S whose tokens have come is over: the berth's spell of readiness begins (R140). -/
def Ctx.tokensCome (c : Ctx) (now : Nat) : Ctx :=
  match c.block with
  | .tokens p => if c.canPop .s p then { c with block := .none, readyAt := now } else c
  | _ => c

/-- The core as the next cycle finds it: where no berth beside the running one is ready, its 1,024 cycles begin again (R140). -/
def State.spell (s : State) (n : Nat) (c : Core) : Core :=
  if (s.readyOthers n c.run).isEmpty then { c with runAt := s.now + 1 } else c

/-- The cycle ends: its spill writes are made (R87), token waits end (R140), and RDCSR samples the counters and token counts of
a cycle's start (R238). -/
def State.tick (s : State) : State :=
  let f (c : Ctx) : Ctx := { (c.flushSpill.tokensCome s.now) with cnt0 := c.cntWord, tok0 := c.tokWord }
  let parked : SMap Ctx := s.parked.map fun x => (x.1, f x.2)
  let cores := s.cores.map fun x => (x.1, s.spell x.1 x.2)
  let ctx := if s.live then f s.ctx else s.ctx
  { s with now := s.now + 1, cores := cores, bad := s.bad.filter fun b => b.met.isNone, ctx := ctx, parked := parked }

end Sys2Proof.Machine
end

