-- ==== Sys2Proof/Machine/Fetch.lean ====
section
/-! DEFINITION. Fetching an instruction's bytes: a context's (R39, R234, R241, R371). -/

namespace Sys2Proof.Machine

/-- What a fetch answers. -/
inductive Fetch where
  | word (s : State) (w : IWord)
  | trap (t : Trap)
  | miss
  /-- The fetch is made again in the next cycle: refused by the generation (R371), or stores drain first (R83). -/
  | stale (s : State)
  /-- The die asks for the sector, and the fetch waits for the grant (R155, R363). -/
  | asked (s : State)

/-- The fetch at the focused context's program counter (R234, R241, R371, R382), through the homes as an LS read (R155), in the
cycle of the issue whatever acquire is out (log entry 102). A handler's first word waits for the stores that drain (R83). -/
def State.fetch (s : State) : Fetch :=
  let pc := s.ctx.pc
  if s.draining s.core s.ctx then .stale s
  else if 2 ^ 57 ≤ pc.toNat then .trap ⟨7, pc, 1⟩
  else if pc.toNat % 4 ≠ 0 then .trap ⟨7, pc, 2⟩
  else if winBase ≤ pc.toNat then .trap ⟨7, pc, 5⟩
  else
    match s.xlateS pc.toNat .fetch with
    | .miss => .miss
    | .grow _ _ => .miss
    | .fault z _ => .trap ⟨7, pc, if z = 11 then 3 else 4⟩
    | .ok pa gen =>
      let a : Acc := ⟨pc, pa, 4, gen, isDevice pa⟩
      if s.genOk a then
        if !(s.coheres s.core false [a]) then .asked (s.queueAsks (dieOf s.core) false (sectorsOf [a]))
        else
          let s1 := (s.scrub [s.key] pa 4).takeCopies s.core false [a]
          .word s1 (s1.wordAt pa)
      else
        .stale (s.updCore s.core fun c => { c with tlb := c.tlb.filter fun t =>
          !(t.asid == s.ctx.asid.toNat && decide (t.base ≤ pc.toNat) && decide (pc.toNat < t.base + t.size)) })

/-- A berth about to issue: it is focused, and a wait for tokens that have come is over (R20, R140). -/
def State.toIssue (s : State) (k : Nat) : State :=
  let s1 := s.focus k
  match s1.ctx.block with
  | .tokens _ => s1.withCtx { s1.ctx with block := .none, readyAt := s.now }
  | _ => s1

end Sys2Proof.Machine
end

