-- ==== Sys2Proof/Machine/Rv.lean ====
section
/-! DEFINITION. A hart's words outside the table: those of the profile that R389 names, from the RISC-V manuals (log entry 89), so
that a program on the Hostel reaches its custom words. The registers of F, D and V are not held: what such a word writes is free
(log entry 65). -/

namespace Sys2Proof.Machine

/-! ### Values -/

/-- The integer operations of OP and OP-IMM; `alt` chooses subtraction and the arithmetic shift. -/
def rvAlu (f3 : Nat) (alt : Bool) (a b : Word) : Word :=
  let n := b.toNat % 64
  match f3 with
  | 0 => if alt then a - b else a + b
  | 1 => a <<< n
  | 2 => if a.slt b then 1 else 0
  | 3 => if a.ult b then 1 else 0
  | 4 => a ^^^ b
  | 5 => if alt then a.sshiftRight n else a >>> n
  | 6 => a ||| b
  | _ => a &&& b

/-- A 32-bit result extended to a register. -/
def rvW (v : BitVec 32) : Word := v.signExtend 64

/-- The operations of OP-32 and OP-IMM-32. -/
def rvAluW (f3 : Nat) (alt : Bool) (a b : BitVec 32) : Word :=
  let n := b.toNat % 32
  match f3 with
  | 0 => rvW (if alt then a - b else a + b)
  | 1 => rvW (a <<< n)
  | _ => rvW (if alt then a.sshiftRight n else a >>> n)

/-- Division and remainder of M, with its results for a zero divisor. -/
def rvDiv {n : Nat} (f3 : Nat) (a b : BitVec n) : BitVec n :=
  match f3 with
  | 4 => if b = 0 then BitVec.allOnes n else a.sdiv b
  | 5 => if b = 0 then BitVec.allOnes n else a / b
  | 6 => if b = 0 then a else a.srem b
  | _ => if b = 0 then a else a % b

/-- The operations of M. -/
def rvMul (f3 : Nat) (a b : Word) : Word :=
  match f3 with
  | 0 => a * b
  | 1 => BitVec.ofInt 64 (a.toInt * b.toInt / 2 ^ 64)
  | 2 => BitVec.ofInt 64 (a.toInt * (b.toNat : Int) / 2 ^ 64)
  | 3 => BitVec.ofNat 64 (a.toNat * b.toNat / 2 ^ 64)
  | _ => rvDiv f3 a b

/-- A branch is taken. -/
def rvTaken (f3 : Nat) (a b : Word) : Option Bool :=
  match f3 with
  | 0 => some (a == b)
  | 1 => some (a != b)
  | 4 => some (a.slt b)
  | 5 => some (!(a.slt b))
  | 6 => some (a.ult b)
  | 7 => some (!(a.ult b))
  | _ => none

/-- The immediates of the I, S, B, U and J formats. -/
def rvI (w : IWord) : Word := (w.extractLsb' 20 12).signExtend 64
def rvS (w : IWord) : Word := (w.extractLsb' 25 7 ++ w.extractLsb' 7 5).signExtend 64
def rvB (w : IWord) : Word :=
  (w.extractLsb' 31 1 ++ w.extractLsb' 7 1 ++ w.extractLsb' 25 6 ++ w.extractLsb' 8 4 ++ 0#1).signExtend 64
def rvU (w : IWord) : Word := (w.extractLsb' 12 20 ++ 0#12).signExtend 64
def rvJ (w : IWord) : Word :=
  (w.extractLsb' 31 1 ++ w.extractLsb' 12 8 ++ w.extractLsb' 20 1 ++ w.extractLsb' 21 10 ++ 0#1).signExtend 64

/-! ### Bit manipulation (Zba, Zbb, Zbs, Zicond) -/

/-- The leading zeros of the low `n` bits. -/
def rvClz (n v : Nat) : Nat := if v % 2 ^ n = 0 then n else n - 1 - (v % 2 ^ n).log2

/-- The trailing zeros of the low `n` bits. -/
def rvCtz (n v : Nat) : Nat := ((List.range n).find? fun i => v.testBit i).getD n

/-- The ones among the low `n` bits. -/
def rvCpop (n v : Nat) : Nat := ((List.range n).filter fun i => v.testBit i).length

/-- The bytes of a word, each mapped. -/
def rvBytes (f : Nat → List Byte → Byte) (a : Word) : Word :=
  let bs := leBytes a.toNat 8
  BitVec.ofNat 64 (leNat ((List.range 8).map fun i => f i bs))

/-- A word's single bit. -/
def rvBit (b : Word) : Word := 1#64 <<< (b.toNat % 64)

/-- The register forms beyond the base; none for any other. -/
def rvOpX (f7 f3 : Nat) (a b : Word) : Option Word :=
  match f7, f3 with
  | 0x20, 4 => some (a ^^^ ~~~b)
  | 0x20, 6 => some (a ||| ~~~b)
  | 0x20, 7 => some (a &&& ~~~b)
  | 0x10, 2 => some ((a <<< 1) + b)
  | 0x10, 4 => some ((a <<< 2) + b)
  | 0x10, 6 => some ((a <<< 3) + b)
  | 0x05, 4 => some (if a.slt b then a else b)
  | 0x05, 5 => some (if a.ult b then a else b)
  | 0x05, 6 => some (if a.slt b then b else a)
  | 0x05, 7 => some (if a.ult b then b else a)
  | 0x30, 1 => some (a.rotateLeft (b.toNat % 64))
  | 0x30, 5 => some (a.rotateRight (b.toNat % 64))
  | 0x24, 1 => some (a &&& ~~~(rvBit b))
  | 0x24, 5 => some ((a >>> (b.toNat % 64)) &&& 1)
  | 0x34, 1 => some (a ^^^ rvBit b)
  | 0x14, 1 => some (a ||| rvBit b)
  | 0x07, 5 => some (if b = 0 then 0 else a)
  | 0x07, 7 => some (if b = 0 then a else 0)
  | _, _ => none

/-- The immediate forms beyond the base, by the 12 bits of the immediate. -/
def rvImmX (f3 imm : Nat) (a : Word) : Option Word :=
  let sh : Word := BitVec.ofNat 64 (imm % 64)
  match f3, imm with
  | 1, 0x600 => some (BitVec.ofNat 64 (rvClz 64 a.toNat))
  | 1, 0x601 => some (BitVec.ofNat 64 (rvCtz 64 a.toNat))
  | 1, 0x602 => some (BitVec.ofNat 64 (rvCpop 64 a.toNat))
  | 1, 0x604 => some ((a.truncate 8).signExtend 64)
  | 1, 0x605 => some ((a.truncate 16).signExtend 64)
  | 5, 0x287 => some (rvBytes (fun i bs => if nthD bs i 0 = 0 then 0 else 0xFF) a)
  | 5, 0x6B8 => some (rvBytes (fun i bs => nthD bs (7 - i) 0) a)
  | _, _ =>
    match f3, imm / 64 with
    | 1, 0x0A => some (a ||| rvBit sh)
    | 1, 0x12 => some (a &&& ~~~(rvBit sh))
    | 1, 0x1A => some (a ^^^ rvBit sh)
    | 5, 0x12 => some ((a >>> (imm % 64)) &&& 1)
    | 5, 0x18 => some (a.rotateRight (imm % 64))
    | _, _ => none

/-- The register forms of OP-32 beyond the base; zext.h reads no second register. -/
def rvOp32X (f7 f3 : Nat) (rs2 : BitVec 5) (a b : Word) : Option Word :=
  let u : Word := (a.truncate 32).zeroExtend 64
  match f7, f3 with
  | 0x04, 0 => some (u + b)
  | 0x04, 4 => if rs2 = 0 then some ((a.truncate 16).zeroExtend 64) else none
  | 0x10, 2 => some ((u <<< 1) + b)
  | 0x10, 4 => some ((u <<< 2) + b)
  | 0x10, 6 => some ((u <<< 3) + b)
  | 0x30, 1 => some (rvW ((a.truncate 32).rotateLeft (b.toNat % 32)))
  | 0x30, 5 => some (rvW ((a.truncate 32).rotateRight (b.toNat % 32)))
  | _, _ => none

/-- The immediate forms of OP-IMM-32 beyond the base. -/
def rvImm32X (f3 imm : Nat) (a : Word) : Option Word :=
  match f3, imm with
  | 1, 0x600 => some (BitVec.ofNat 64 (rvClz 32 a.toNat))
  | 1, 0x601 => some (BitVec.ofNat 64 (rvCtz 32 (a.toNat % 2 ^ 32)))
  | 1, 0x602 => some (BitVec.ofNat 64 (rvCpop 32 a.toNat))
  | _, _ =>
    if f3 = 1 ∧ imm / 64 = 2 then some (((a.truncate 32).zeroExtend 64 : Word) <<< (imm % 64))
    else if f3 = 5 ∧ imm / 32 = 0x30 then some (rvW ((a.truncate 32).rotateRight (imm % 32)))
    else none

/-! ### Compressed words (C, Zcb) -/

/-- The 32-bit words that a compressed one stands for, from their fields. -/
def wR (f7 rs2 rs1 f3 rd op : Nat) : IWord := BitVec.ofNat 32 (f7 * 2 ^ 25 + rs2 * 2 ^ 20 + rs1 * 2 ^ 15 + f3 * 2 ^ 12 + rd * 2 ^ 7 + op)
def wI (imm rs1 f3 rd op : Nat) : IWord := BitVec.ofNat 32 (imm % 4096 * 2 ^ 20 + rs1 * 2 ^ 15 + f3 * 2 ^ 12 + rd * 2 ^ 7 + op)
def wS (imm rs2 rs1 f3 op : Nat) : IWord := wR (imm / 32 % 128) rs2 rs1 f3 (imm % 32) op
def wB (imm rs2 rs1 f3 : Nat) : IWord :=
  wR (bitsOf imm 12 1 * 64 + bitsOf imm 5 6) rs2 rs1 f3 (bitsOf imm 1 4 * 2 + bitsOf imm 11 1) 0x63
def wJ (imm rd : Nat) : IWord :=
  BitVec.ofNat 32 ((bitsOf imm 20 1 * 2 ^ 19 + bitsOf imm 1 10 * 2 ^ 9 + bitsOf imm 11 1 * 2 ^ 8 + bitsOf imm 12 8) * 2 ^ 12 + rd * 2 ^ 7 + 0x6F)

/-- A field of `n` bits with its sign, modulo 2^21. -/
def cSgn (n v : Nat) : Nat := if v % 2 ^ n < 2 ^ (n - 1) then v % 2 ^ n else 2 ^ 21 - 2 ^ n + v % 2 ^ n

/-- Bits of a compressed word gathered: the bit at each place of the list, lowest first. -/
def cBits (c : Nat) (l : List Nat) : Nat := leNatBits (l.map fun i => bitsOf c i 1)
where
  /-- The number of a list of bits, lowest first. -/
  leNatBits : List Nat → Nat
    | [] => 0
    | b :: r => b + 2 * leNatBits r

/-- Quadrant 0: loads and stores of the registers x8 to x15. -/
def rvc0 (c f3 : Nat) : Option IWord :=
  let r1 := 8 + bitsOf c 7 3
  let r2 := 8 + bitsOf c 2 3
  let w4 := 4 * cBits c [6, 10, 11, 12, 5]
  let w8 := 8 * cBits c [10, 11, 12, 5, 6]
  match f3 with
  | 0 =>
    let imm := 4 * cBits c [6, 5, 11, 12, 7, 8, 9, 10]
    if imm = 0 then none else some (wI imm 2 0 r2 0x13)
  | 1 => some (wI w8 r1 3 r2 0x07)
  | 2 => some (wI w4 r1 2 r2 0x03)
  | 3 => some (wI w8 r1 3 r2 0x03)
  | 4 =>
    let b := cBits c [6, 5]
    let h := 2 * bitsOf c 5 1
    match bitsOf c 10 3 with
    | 0 => some (wI b r1 4 r2 0x03)
    | 1 => some (wI h r1 (if bitsOf c 6 1 = 1 then 1 else 5) r2 0x03)
    | 2 => some (wS b r2 r1 0 0x23)
    | 3 => if bitsOf c 6 1 = 0 then some (wS h r2 r1 1 0x23) else none
    | _ => none
  | 5 => some (wS w8 r2 r1 3 0x27)
  | 6 => some (wS w4 r2 r1 2 0x23)
  | _ => some (wS w8 r2 r1 3 0x23)

/-- Quadrant 1: immediates, the operations of x8 to x15, jumps and branches. -/
def rvc1 (c f3 : Nat) : Option IWord :=
  let rd := bitsOf c 7 5
  let r1 := 8 + bitsOf c 7 3
  let r2 := 8 + bitsOf c 2 3
  let imm := cSgn 6 (cBits c [2, 3, 4, 5, 6, 12])
  let br := cSgn 9 (2 * cBits c [3, 4, 10, 11, 2, 5, 6, 12])
  match f3 with
  | 0 => some (wI imm rd 0 rd 0x13)
  | 1 => if rd = 0 then none else some (wI imm rd 0 rd 0x1B)
  | 2 => some (wI imm 0 0 rd 0x13)
  | 3 =>
    if imm = 0 then (if rd % 2 = 1 ∧ rd < 16 then some (wI 0 0 0 0 0x13) else none)
    else if rd = 2 then some (wI (cSgn 10 (16 * cBits c [6, 2, 5, 3, 4, 12])) 2 0 2 0x13)
    else some (BitVec.ofNat 32 (imm % 2 ^ 20 * 2 ^ 12 + rd * 2 ^ 7 + 0x37))
  | 4 =>
    let sh := cBits c [2, 3, 4, 5, 6, 12]
    match bitsOf c 10 2 with
    | 0 => some (wI sh r1 5 r1 0x13)
    | 1 => some (wI (0x400 + sh) r1 5 r1 0x13)
    | 2 => some (wI imm r1 7 r1 0x13)
    | _ =>
      match bitsOf c 12 1, bitsOf c 5 2 with
      | 0, 0 => some (wR 0x20 r2 r1 0 r1 0x33)
      | 0, 1 => some (wR 0 r2 r1 4 r1 0x33)
      | 0, 2 => some (wR 0 r2 r1 6 r1 0x33)
      | 0, _ => some (wR 0 r2 r1 7 r1 0x33)
      | _, 0 => some (wR 0x20 r2 r1 0 r1 0x3B)
      | _, 1 => some (wR 0 r2 r1 0 r1 0x3B)
      | _, 2 => some (wR 1 r2 r1 0 r1 0x33)
      | _, _ =>
        match bitsOf c 2 3 with
        | 0 => some (wI 0xFF r1 7 r1 0x13)
        | 1 => some (wI 0x604 r1 1 r1 0x13)
        | 2 => some (wR 0x04 0 r1 4 r1 0x3B)
        | 3 => some (wI 0x605 r1 1 r1 0x13)
        | 4 => some (wR 0x04 0 r1 0 r1 0x3B)
        | 5 => some (wI 0xFFF r1 4 r1 0x13)
        | _ => none
  | 5 => some (wJ (cSgn 12 (2 * cBits c [3, 4, 5, 11, 2, 7, 6, 9, 10, 8, 12])) 0)
  | 6 => some (wB br 0 r1 0)
  | _ => some (wB br 0 r1 1)

/-- Quadrant 2: shifts, the stack's loads and stores, moves and register jumps. -/
def rvc2 (c f3 : Nat) : Option IWord :=
  let rd := bitsOf c 7 5
  let rs2 := bitsOf c 2 5
  match f3 with
  | 0 => some (wI (cBits c [2, 3, 4, 5, 6, 12]) rd 1 rd 0x13)
  | 1 => some (wI (8 * cBits c [5, 6, 12, 2, 3, 4]) 2 3 rd 0x07)
  | 2 => if rd = 0 then none else some (wI (4 * cBits c [4, 5, 6, 12, 2, 3]) 2 2 rd 0x03)
  | 3 => if rd = 0 then none else some (wI (8 * cBits c [5, 6, 12, 2, 3, 4]) 2 3 rd 0x03)
  | 4 =>
    if bitsOf c 12 1 = 0 then
      (if rs2 = 0 then (if rd = 0 then none else some (wI 0 rd 0 0 0x67)) else some (wR 0 rs2 0 0 rd 0x33))
    else if rs2 = 0 then (if rd = 0 then some 0x00100073 else some (wI 0 rd 0 1 0x67))
    else some (wR 0 rs2 rd 0 rd 0x33)
  | 5 => some (wS (8 * cBits c [10, 11, 12, 7, 8, 9]) rs2 2 3 0x27)
  | 6 => some (wS (4 * cBits c [9, 10, 11, 12, 7, 8]) rs2 2 2 0x23)
  | _ => some (wS (8 * cBits c [10, 11, 12, 7, 8, 9]) rs2 2 3 0x23)

/-- The 32-bit word that a compressed one stands for. -/
def rvc (c : Nat) : Option IWord :=
  match c % 4 with
  | 0 => rvc0 c (bitsOf c 13 3)
  | 1 => rvc1 c (bitsOf c 13 3)
  | _ => rvc2 c (bitsOf c 13 3)

/-! ### CSR words -/

/-- A CSR write. -/
def State.hartCsrWrite (s : State) (h n : Nat) (v : Word) : State :=
  match n with
  | 0x5C0 => s.mailboxWrite h false v
  | 0x5C1 => s.mailboxWrite h true v
  | 0x5C2 => s.fcsignWrite h v
  | _ => s.setHart h ((s.hartAt h).csrPut n v)

/-- An illegal instruction. -/
def illegal (w : IWord) : HTrap := ⟨2, w.zeroExtend 64, 0⟩

/-- A Zicsr word: rd takes the old value, and the CSR the new one unless the word only reads. One that the model does not hold
reads as a free value. -/
def State.hartCsrWord (s : State) (h : Nat) (w : IWord) : State :=
  let t := s.hartAt h
  let n := t.csrName (w.extractLsb' 20 12).toNat
  let f3 := (w.extractLsb' 12 3).toNat
  let r := w.extractLsb' 15 5
  let rd := w.extractLsb' 7 5
  let src := if 4 ≤ f3 then r.zeroExtend 64 else t.reg r
  let wr : Bool := f3 % 4 == 1 || r != 0
  match t.csrDenied (w.extractLsb' 20 12).toNat wr with
  | some cause => s.setHart h (t.trap ⟨cause, w.zeroExtend 64, 0⟩)
  | none =>
    match t.csr h n with
    | none =>
      if csrElse n then
        let v := s.free
        v.2.setHart h (t.done rd v.1)
      else s.setHart h (t.trap (illegal w))
    | some old =>
      let v := match f3 % 4 with | 1 => src | 2 => old ||| src | _ => old &&& ~~~src
      let s1 := if wr then s.hartCsrWrite h n v else s
      s1.setHart h ((s1.hartAt h).done rd old)

/-- The cause of an ecall. -/
def Hart.ecall (t : Hart) : Nat := if t.mode = 3 then 11 else if t.mode = 0 then 8 else if t.virt then 10 else 9

/-! ### Words -/

/-- The operation of an AMO word. -/
def rvAmo (f5 : Nat) (rd : BitVec 5) : Option HAccess :=
  match f5 with
  | 0 => some (.amo .add rd)
  | 1 => some (.amo .swap rd)
  | 2 => some (.lr rd)
  | 3 => some (.sc rd)
  | 4 => some (.amo .xor rd)
  | 8 => some (.amo .or rd)
  | 12 => some (.amo .and rd)
  | 16 => some (.amo .min rd)
  | 20 => some (.amo .max rd)
  | 24 => some (.amo .minu rd)
  | 28 => some (.amo .maxu rd)
  | _ => none

/-- A word's access is made as the hart `t` makes it; the hart goes on `len` bytes further, traps, or takes the word again. -/
def State.rvAccess (s : State) (h : Nat) (t : Hart) (k : HAccess) (va : Word) (n : Nat) (v : Word) (len : Nat) : State :=
  let t0 := s.hartAt h
  match s.hartDo h t k va n v with
  | .done s1 t1 => s1.setHart h { t0 with x := t1.x, resv := t1.resv, pc := t0.pc + BitVec.ofNat 64 len }
  | .trap x => s.setHart h (t0.trap x)
  | .wait => (s.hartAsks ⟨h, k, va, n, v⟩).hartLater h

/-- The mode in which a hypervisor's load or store is made. -/
def Hart.asGuest (t : Hart) : Hart := { t with mode := if wbit t.hstatus 8 then 1 else 0, virt := true, boxed := false }

/-- A hypervisor's load or store (H): in HS and M, and in U where hstatus allows it. -/
def State.hyperWord (s : State) (h : Nat) (w : IWord) : State :=
  let t := s.hartAt h
  let rd := w.extractLsb' 7 5
  let a := t.reg (w.extractLsb' 15 5)
  let f7 := (w.extractLsb' 25 7).toNat
  let sub := (w.extractLsb' 20 5).toNat
  let n := 2 ^ (f7 / 2 % 4)
  if t.virt then s.setHart h (t.trap ⟨22, w.zeroExtend 64, 0⟩)
  else if t.mode = 0 ∧ wbit t.hstatus 9 = false then s.setHart h (t.trap (illegal w))
  else if f7 % 2 = 1 then
    (if rd = 0 then s.rvAccess h t.asGuest .store a n (t.reg (w.extractLsb' 20 5)) 4 else s.setHart h (t.trap (illegal w)))
  else if sub ≤ 1 ∨ (sub = 3 ∧ (n = 2 ∨ n = 4)) then s.rvAccess h t.asGuest (.load rd (sub == 0)) a n 0 4
  else s.setHart h (t.trap (illegal w))

/-- A fence of translations: the hart holds none, so it only goes on; TVM and VTVM forbid it, and U-mode has none. -/
def Hart.vmaFence (t : Hart) (w : IWord) (hyper : Bool) : Hart :=
  if t.virt ∧ (hyper ∨ t.mode = 0 ∨ wbit t.hstatus 20) then t.trap ⟨22, w.zeroExtend 64, 0⟩
  else if t.mode = 0 ∨ (t.mode = 1 ∧ t.virt = false ∧ wbit t.mstatus 20 ∧ hyper = false) then t.trap (illegal w)
  else { t with pc := t.pc + 4 }

/-- A word of SYSTEM. -/
def State.rvSystem (s : State) (h : Nat) (w : IWord) (len : Nat) : State :=
  let t := s.hartAt h
  let f7 := (w.extractLsb' 25 7).toNat
  let bad : State := s.setHart h (t.trap (illegal w))
  if w.extractLsb' 12 3 = 4 then
    -- the words that may be of Zimop write 0
    if w.extractLsb' 31 1 = 1 ∧ (w.extractLsb' 28 2 = 0) ∧ (w.extractLsb' 25 1 = 1 ∨ w.extractLsb' 22 4 = 7) then
      s.setHart h (t.done (w.extractLsb' 7 5) 0)
    else if 0x30 ≤ f7 ∧ f7 < 0x38 then s.hyperWord h w
    else bad
  else if w.extractLsb' 12 3 ≠ 0 then s.hartCsrWord h w
  else if w = 0x00000073 then s.setHart h (t.trap ⟨t.ecall, 0, 0⟩)
  else if w = 0x00100073 then s.setHart h (t.trap ⟨3, t.pc, 0⟩)
  else if w = 0x30200073 then (if t.mode = 3 then s.setHart h t.mret else bad)
  else if w = 0x10200073 then
    if t.virt then
      s.setHart h (if t.mode = 0 ∨ wbit t.hstatus 22 then t.trap ⟨22, w.zeroExtend 64, 0⟩ else t.sretVS)
    else if t.mode = 0 ∨ (t.mode = 1 ∧ wbit t.mstatus 22) then bad
    else s.setHart h t.sretS
  else if w = 0x10500073 ∨ w = 0x00D00073 ∨ w = 0x01D00073 then s.setHart h { t with pc := t.pc + BitVec.ofNat 64 len }
  else if w.extractLsb' 7 5 = 0 ∧ [0x09, 0x0B, 0x0C].contains f7 then s.setHart h (t.vmaFence w false)
  else if w.extractLsb' 7 5 = 0 ∧ [0x11, 0x13, 0x31, 0x33].contains f7 then s.setHart h (t.vmaFence w true)
  else bad

/-- The memory operations of F and D, whose registers the model does not hold: a load reads its bytes, a store writes free ones. -/
def State.rvFpAccess (s : State) (h : Nat) (w : IWord) (store : Bool) (len : Nat) : State :=
  let t := s.hartAt h
  let a := t.reg (w.extractLsb' 15 5)
  let f3 := (w.extractLsb' 12 3).toNat
  if f3 = 0 ∨ 4 < f3 then s.setHart h { t with pc := t.pc + 4 }
  else if store then
    let v := s.free
    v.2.rvAccess h t .store (a + rvS w) (2 ^ f3) v.1 len
  else s.rvAccess h t (.load 0 false) (a + rvI w) (2 ^ f3) 0 len

/-- A word of F, D or V that may be disabled, or write an integer register: both are free (log entry 65). -/
def State.rvElse (s : State) (h : Nat) (w : IWord) : State :=
  let t := s.hartAt h
  let a := s.free
  let b := a.2.free
  if wbit a.1 0 then b.2.setHart h (t.trap (illegal w)) else b.2.setHart h (t.done (w.extractLsb' 7 5) b.1)

/-- cbo words (Zicbom, Zicboz): the zeroing one stores 64 zero bytes; memory is one image, so the others move nothing. -/
def State.rvCbo (s : State) (h : Nat) (w : IWord) : State :=
  let t := s.hartAt h
  let a := t.reg (w.extractLsb' 15 5)
  match (w.extractLsb' 20 12).toNat with
  | 4 => s.rvAccess h t .store (a &&& ~~~63#64) 64 0 4
  | 0 | 1 | 2 => s.setHart h { t with pc := t.pc + 4 }
  | _ => s.setHart h (t.trap (illegal w))

/-- The effect of a word of `len` bytes on hart `h`; the 32-bit word is given for a compressed one. -/
def State.rvStep (s : State) (h : Nat) (w : IWord) (len : Nat) : State :=
  let t := s.hartAt h
  let rd := w.extractLsb' 7 5
  let a := t.reg (w.extractLsb' 15 5)
  let b := t.reg (w.extractLsb' 20 5)
  let f3 := (w.extractLsb' 12 3).toNat
  let f7 := (w.extractLsb' 25 7).toNat
  let imm := (w.extractLsb' 20 12).toNat
  let bad : State := s.setHart h (t.trap (illegal w))
  let ret (v : Word) : State := s.setHart h (t.goes len rd v)
  let opt (v : Option Word) : State := match v with | some x => ret x | none => bad
  let jump (x : Word) : State := s.setHart h { t.setReg rd (t.pc + BitVec.ofNat 64 len) with pc := x &&& ~~~1#64 }
  match (w.extractLsb' 0 7).toNat with
  | 0x37 => ret (rvU w)
  | 0x17 => ret (t.pc + rvU w)
  | 0x6F => jump (t.pc + rvJ w)
  | 0x67 => if f3 = 0 then jump (a + rvI w) else bad
  | 0x63 =>
    match rvTaken f3 a b with
    | some taken => s.setHart h { t with pc := if taken then t.pc + rvB w else t.pc + BitVec.ofNat 64 len }
    | none => bad
  | 0x03 => if f3 = 7 then bad else s.rvAccess h t (.load rd (decide (f3 < 4))) (a + rvI w) (2 ^ (f3 % 4)) 0 len
  | 0x23 => if 4 ≤ f3 then bad else s.rvAccess h t .store (a + rvS w) (2 ^ f3) b len
  | 0x13 =>
    let f6 := f7 / 2
    if (f3 = 1 ∧ f6 ≠ 0) ∨ (f3 = 5 ∧ f6 ≠ 0 ∧ f6 ≠ 16) then opt (rvImmX f3 imm a)
    else ret (rvAlu f3 (f3 == 5 && f6 == 16) a (rvI w))
  | 0x1B =>
    if f3 = 0 ∨ (f3 = 1 ∧ f7 = 0) ∨ (f3 = 5 ∧ (f7 = 0 ∨ f7 = 32)) then
      ret (rvAluW f3 (f3 == 5 && f7 == 32) (a.truncate 32) ((rvI w).truncate 32))
    else opt (rvImm32X f3 imm a)
  | 0x33 =>
    if f7 = 1 then ret (rvMul f3 a b)
    else if f7 = 0 ∨ (f7 = 32 ∧ (f3 = 0 ∨ f3 = 5)) then ret (rvAlu f3 (f7 == 32) a b)
    else opt (rvOpX f7 f3 a b)
  | 0x3B =>
    if f7 = 1 ∧ f3 = 0 then ret (rvW (a.truncate 32 * b.truncate 32))
    else if f7 = 1 ∧ 4 ≤ f3 then ret (rvW (rvDiv f3 (a.truncate 32) (b.truncate 32)))
    else if (f7 = 0 ∧ (f3 = 0 ∨ f3 = 1 ∨ f3 = 5)) ∨ (f7 = 32 ∧ (f3 = 0 ∨ f3 = 5)) then
      ret (rvAluW f3 (f7 == 32) (a.truncate 32) (b.truncate 32))
    else opt (rvOp32X f7 f3 (w.extractLsb' 20 5) a b)
  | 0x0F => if f3 ≤ 1 then s.setHart h { t with pc := t.pc + 4 } else if f3 = 2 ∧ rd = 0 then s.rvCbo h w else bad
  | 0x2F =>
    if f3 = 2 ∨ f3 = 3 then
      match rvAmo (w.extractLsb' 27 5).toNat rd with
      | some k =>
        if a.toNat % 2 ^ f3 ≠ 0 then s.setHart h (t.trap ⟨if f7 / 4 = 2 then 4 else 6, a, 0⟩)
        else s.rvAccess h t k a (2 ^ f3) b 4
      | none => bad
    else bad
  | 0x73 => s.rvSystem h w len
  | 0x07 => s.rvFpAccess h w false len
  | 0x27 => s.rvFpAccess h w true len
  | 0x43 | 0x47 | 0x4B | 0x4F | 0x53 | 0x57 => s.rvElse h w
  | _ => bad

/-- A custom-0 word (R333). -/
def isCustom0 (w : IWord) : Bool := w.extractLsb' 0 7 == 0b0001011#7

/-- A hart's word that is none of its custom words (R389): an illegal form of those is an illegal instruction (R333, log entry
50). -/
def State.hartBase (s : State) (h : Nat) (w : IWord) : State := s.rvStep h w 4

/-- A hart's compressed word. -/
def State.hartShort (s : State) (h : Nat) (c : Nat) : State :=
  match rvc c with
  | some w => s.rvStep h w 2
  | none => s.setHart h ((s.hartAt h).trap ⟨2, BitVec.ofNat 64 c, 0⟩)

/-- What a hart's fetch answers: its word, a compressed word, or the package after its exception, its interrupt, or its wait. -/
inductive HartFetch where
  | word (s : State) (w : IWord)
  | short (s : State) (c : Nat)
  | left (s : State)

/-- A fetch of `n` bytes. -/
def State.fetchBytes (s : State) (h n : Nat) : Except State (State × Nat) :=
  let t := s.hartAt h
  match s.hartCheck t .fetch t.pc n with
  | .trap x => .error (s.setHart h (t.trap x))
  | .wait => .error ((s.hartAsks ⟨h, .fetch, t.pc, n, 0⟩).hartLater h)
  | .ok s1 ps =>
    let r := s1.partBytes h ps
    .ok (r.1, leNat r.2)

/-- The fetch at a hart's program counter (R390), where no interrupt is due and no earlier access of the hart waits: two bytes,
and four where those say so. -/
def State.hartFetch (s : State) (h : Nat) : HartFetch :=
  let t := s.hartAt h
  if s.hops.any fun x => x.hart == h then .left (s.hartLater h)
  else
    match t.irq with
    | some t1 => .left (s.setHart h t1)
    | none =>
      match s.fetchBytes h 2 with
      | .error s1 => .left s1
      | .ok (s1, c) =>
        if c % 4 ≠ 3 then .short s1 c
        else
          match s1.fetchBytes h 4 with
          | .error s2 => .left s2
          | .ok (s2, w) => .word s2 (BitVec.ofNat 32 w)

end Sys2Proof.Machine
end

