-- ==== Sys2Proof/Machine/Step.lean ====
section
/-! DEFINITION. One step of the package: one row of the table is performed. -/

namespace Sys2Proof.Machine

/-- S issues the next word of berth `k`: it is fetched, decoded and performed, or traps (R39, R234). -/
def issueStep (k : Nat) (s0 : State) : Host.Outcome State Fault Refusal :=
  let s := s0.toIssue k
  match s.fetch with
  | .word s1 w =>
    match decode w with
    | some i => exec i s1
    | none => .next (s1.markS.takeTrap k ⟨1, w.zeroExtend 64, 0⟩ s1.ctx.pc)
  | .trap t => .next (s.markS.takeTrap k t s.ctx.pc)
  | .miss => .next (s.markS.withCtx { s.markS.ctx with block := .walk s.ctx.pc .fetch 0 })
  | .stale s1 => .next s1.markS
  | .asked s1 => .next s1

/-- The effect of the word that stands at a unit: the V, M or C word that has started, the command in service, the copy. -/
def wordStep (e : Option QEntry) (s : State) : Host.Outcome State Fault Refusal :=
  match e with
  | some q =>
    match q.word with
    | some i => exec i s
    | none => .fault .noCommand
  | none => .fault .noCommand

/-- The word that has started at a station of the focused context. -/
def Ctx.started (c : Ctx) (st : Station) : Option QEntry :=
  match st with
  | .v => c.active
  | .m => c.mact
  | .c => c.cact
  | .s => none

/-- A hart's next word (R333, R389): a custom word, or another of its profile. -/
def hartStep (h : Nat) (s : State) : Host.Outcome State Fault Refusal :=
  match s.hartFetch h with
  | .left s1 => .next { s1 with turn := .sched }
  | .word s1 w =>
    match decodeHostel w with
    | some i => exec i s1
    | none => .next { s1.hartBase h w with turn := .sched }
  | .short s1 c => .next { s1.hartShort h c with turn := .sched }

/-- A step of the scheduler's choice. -/
def jobStep (j : Job) (s : State) : Host.Outcome State Fault Refusal :=
  match j with
  | .input n i => exec i { s with agenda := s.agenda.eraseIdx n }
  | .incident => .next s.incidentGo
  | .hart h => .next { s with hartDue := s.hartDue.eraseIdx (s.hartDue.findIdx fun x => x.2 == h), turn := .hart h }
  | .unit i => exec i s
  | .migrate r => execMigrationSwitch r s
  | .migrateOn r => .next (s.migrateOn r)
  | .lane u d => execLaneRepairSwitch u d s
  | .grow k => execGrowRequest k s
  | .copyOn k => .next { s.focus k with turn := .copy }
  | .engineOn en => .next { s with turn := .engine en }
  | .result loc id => .next (s.resultIn loc id)
  | .swap lid => .next (s.swapGo lid)
  | .admission lid => .next (s.admitAgain lid)
  | .status => .next s.statusAgain
  | .door => .next s.doorAgain
  | .inject id => .next (s.injectionRetry id)
  | .issue k => issueStep k s
  | .async k => execAsyncTrapEntry k s
  | .probe k => execDeadlockProbe k s
  | .ask core excl secs => .next (s.queueAsks (dieOf core) excl secs)
  | .serve a => .next (s.serve a)
  | .hop x => .next (s.hopGo x)
  | .posted => .next s.postedGo
  | .tick => .next s.tick

/-- One step. -/
def step (s : State) : Host.Outcome State Fault Refusal :=
  match s.turn with
  | .sched => jobStep s.nextJob s
  | .start st => wordStep (s.ctx.started st) s
  | .engine e => wordStep ((s.served e).map fun x => x.2.2) s
  | .copy => wordStep s.ctx.cact s
  | .hart h => hartStep h s

/-! ### The host's table question -/

/-- Where the table's instruction is placed: a program of address space 1 at this virtual and physical address. -/
def tableVa : Nat := 0x10000
def tablePa : Nat := 0x10000

/-- A page of address space 1, readable, writable and executable by the program. -/
def tableTlb : Tlb :=
  { asid := 1, base := tableVa, size := 4096, pa := tablePa, gen := 0, r := true, w := true, x := true, u := true }

/-- A context of a launch that has been admitted to berth 0 of core 0: 16 rows, 32 spill granules, about to issue. -/
def tableCtx : Ctx :=
  { Ctx.reset with uid := 1, rows := 16, gran := 32, pc := BitVec.ofNat 64 tableVa, asid := 1 }

/-- The home of the instruction's sector with one holder of it: the die of core 0, or the Hostel (R155, R361). -/
def tableDir (h : Nat) : SMap (List Moesi) := [(tablePa / 64, (List.replicate 6 Moesi.i).set h .s)]

/-- The package loaded from outside with one instruction, which the very next step runs: firmware has brought it up, a context
of the program runs on core 0, its page is translated, and the die holds the sector; a Hostel word is placed before hart 0. -/
def State.withFetchWord (s : State) (_nbits w : Nat) : State :=
  let bs := leBytes w 4
  let mem := s.mem.writeBytes tablePa bs
  let boot := { s.boot with phase := 2 }
  match decode (BitVec.ofNat 32 w), decodeHostel (BitVec.ofNat 32 w) with
  | none, some _ =>
    { s with mem := mem, boot := boot, dir := tableDir 4, agenda := [], turn := .hart 0,
             harts := mput s.harts 0 { Hart.reset with pc := BitVec.ofNat 64 tablePa } }
  | _, _ =>
    { s with mem := mem, boot := boot, dir := tableDir 0, agenda := [], turn := .sched, key := 0, live := true, ctx := tableCtx,
             nextUid := 2, cores := mput s.cores 0 { Core.reset with run := some 0, tlb := [tableTlb] } }

end Sys2Proof.Machine
end

