-- ==== Sys2Proof/Safety.lean ====
section
/-! DEFINITION. The terms in which the statements speak: when a word can issue, what a state keeps, and what the spec's
rules say that each word of a shape computes. A table here is written from the rules, in whole-number arithmetic where a rule
speaks of numbers, and not from the meanings. -/

namespace Sys2Proof.Safety

open Sys2Proof.Machine

/-! ### Issue at S -/

/-- S may issue a word with the marks `p` (R27, R28): a context lives in the berth, S owes no push, and every queue that the
word waits on holds a token. -/
def CanIssue (p : Dep) (s : State) : Prop :=
  s.live = true ∧ s.ctx.owes .s = false ∧ s.ctx.canPop .s p = true

/-- No source among `rs` is read early (R24): erc is 0, or none of them is pending. -/
def Settled (rs : List SReg) (s : State) : Prop := s.earlyS rs = none

/-- The context as a word of S retires (R21, R27): its tokens popped, the next pc, one more word retired. -/
def retired (p : Dep) (pc : Word) (c : Ctx) : Ctx :=
  { c.popToks .s p with pc := pc, retired := c.retired + 1, nextId := c.nextId + 1, heldAt := none }

/-- The package after a word of S that leaves the context `c`: S has issued in this cycle, and nothing else has changed. -/
def issued (s : State) (c : Ctx) : State :=
  { s with ctx := c, cores := mupd s.cores (s.key / 4) Core.reset fun k => { k with sAt := s.now + 1, full := false } }

/-- The package after S has spent its cycle: the contexts stay as they are. -/
def slotted (s : State) : State :=
  { s with cores := mupd s.cores (s.key / 4) Core.reset fun k => { k with sAt := s.now + 1, full := false } }

/-- The package while S holds a word (R77, R140): the word is tried again in the next cycle, and the context notes since when
S has held it; `full` says that it waits as at a counter of 63. -/
def heldAt (full : Bool) (s : State) : State :=
  { s with ctx := { s.ctx with heldAt := some (s.ctx.heldAt.getD s.now) }
           cores := mupd s.cores (s.key / 4) Core.reset fun k => { k with sAt := s.now + 1, full := full } }

/-- The pending record of a word whose result `v` for register `d` lands `lat` cycles from now (R32, R79). -/
def landing (s : State) (i : Instr) (p : Dep) (d : SReg) (v : Word) (fl : Fl) (lat : Nat) : Pend :=
  { id := s.ctx.nextId, st := .s, pc := s.ctx.pc, word := some i, x := 0, y := 0, due := some (s.now + lat), fixed := true,
    act := .vals, dsts := (if d = 0 then [] else [.s d]) ++ (if fl = 0 then [] else [.fpsr]), wr := [.s d v], flags := fl,
    accs := [], ctr := none, push := pushesOf .s p, acq := false, rel := false, holdV := false, late := false, anew := false }

/-- The package after a word of S with one fixed-latency result: the next word, one more pending record. -/
def landed (s : State) (i : Instr) (p : Dep) (d : SReg) (v : Word) (fl : Fl) (lat : Nat) (pc : Word) : State :=
  issued s { retired p pc s.ctx with pend := s.ctx.pend ++ [landing s i p d v fl lat] }

/-! ### What the scalar words compute -/

/-- A word from scalar registers to one: its marks, destination, sources, latency and value. -/
structure SRow where
  p : Dep
  d : SReg
  srcs : List SReg
  lat : Nat
  val : State → Word

/-- A word of two registers. -/
def row2 (p : Dep) (d a b : SReg) (lat : Nat) (f : Word → Word → Word) : SRow :=
  ⟨p, d, [a, b], lat, fun s => f (s.ctx.reg a) (s.ctx.reg b)⟩

/-- A word of one register. -/
def row1 (p : Dep) (d a : SReg) (lat : Nat) (f : Word → Word) : SRow := ⟨p, d, [a], lat, fun s => f (s.ctx.reg a)⟩

/-- 1 for a truth, 0 for a falsehood. -/
def oneIf (c : Prop) [Decidable c] : Word := if c then 1 else 0

/-- How many of the 64 bit positions satisfy `f`. -/
def countBits (f : Nat → Bool) : Word := BitVec.ofNat 64 ((List.range 64).countP f)

/-- The integer words of R222 to R228 and GETID (R237), but for the divisions. -/
def aluRow : Instr → Option SRow
  | .add p d a b => some (row2 p d a b 1 fun x y => BitVec.ofNat 64 (x.toNat + y.toNat))
  | .sub p d a b => some (row2 p d a b 1 fun x y => BitVec.ofInt 64 (x.toInt - y.toInt))
  | .mul p d a b => some (row2 p d a b 3 fun x y => BitVec.ofNat 64 (x.toNat * y.toNat))
  | .mulh p d a b => some (row2 p d a b 3 fun x y => BitVec.ofInt 64 (x.toInt * y.toInt / 2 ^ 64))
  | .mulhu p d a b => some (row2 p d a b 3 fun x y => BitVec.ofNat 64 (x.toNat * y.toNat / 2 ^ 64))
  | .and p d a b => some (row2 p d a b 1 fun x y => BitVec.ofNat 64 (Nat.land x.toNat y.toNat))
  | .or p d a b => some (row2 p d a b 1 fun x y => BitVec.ofNat 64 (Nat.lor x.toNat y.toNat))
  | .xor p d a b => some (row2 p d a b 1 fun x y => BitVec.ofNat 64 (Nat.xor x.toNat y.toNat))
  | .sll p d a b => some (row2 p d a b 1 fun x y => BitVec.ofNat 64 (x.toNat * 2 ^ (y.toNat % 64)))
  | .srl p d a b => some (row2 p d a b 1 fun x y => BitVec.ofNat 64 (x.toNat / 2 ^ (y.toNat % 64)))
  | .sra p d a b => some (row2 p d a b 1 fun x y => BitVec.ofInt 64 (x.toInt / 2 ^ (y.toNat % 64)))
  | .slt p d a b => some (row2 p d a b 1 fun x y => oneIf (x.toInt < y.toInt))
  | .sltu p d a b => some (row2 p d a b 1 fun x y => oneIf (x.toNat < y.toNat))
  | .min p d a b => some (row2 p d a b 1 fun x y => BitVec.ofInt 64 (Min.min x.toInt y.toInt))
  | .max p d a b => some (row2 p d a b 1 fun x y => BitVec.ofInt 64 (Max.max x.toInt y.toInt))
  | .minu p d a b => some (row2 p d a b 1 fun x y => BitVec.ofNat 64 (Min.min x.toNat y.toNat))
  | .maxu p d a b => some (row2 p d a b 1 fun x y => BitVec.ofNat 64 (Max.max x.toNat y.toNat))
  | .clz p d a => some (row1 p d a 1 fun x => countBits fun n => decide (x.toNat < 2 ^ n))
  | .ctz p d a => some (row1 p d a 1 fun x => countBits fun n => decide (x.toNat % 2 ^ (n + 1) = 0))
  | .popc p d a => some (row1 p d a 1 fun x => countBits fun n => decide (x.toNat / 2 ^ n % 2 = 1))
  | .addi p d a i => some (row1 p d a 1 fun x => BitVec.ofInt 64 (x.toInt + i.toInt))
  | .andi p d a i => some (row1 p d a 1 fun x => BitVec.ofNat 64 (Nat.land x.toNat (BitVec.ofInt 64 i.toInt).toNat))
  | .ori p d a i => some (row1 p d a 1 fun x => BitVec.ofNat 64 (Nat.lor x.toNat (BitVec.ofInt 64 i.toInt).toNat))
  | .xori p d a i => some (row1 p d a 1 fun x => BitVec.ofNat 64 (Nat.xor x.toNat (BitVec.ofInt 64 i.toInt).toNat))
  | .slti p d a i => some (row1 p d a 1 fun x => oneIf (x.toInt < i.toInt))
  | .slli p d a h => some (row1 p d a 1 fun x => BitVec.ofNat 64 (x.toNat * 2 ^ h.toNat))
  | .srli p d a h => some (row1 p d a 1 fun x => BitVec.ofNat 64 (x.toNat / 2 ^ h.toNat))
  | .srai p d a h => some (row1 p d a 1 fun x => BitVec.ofInt 64 (x.toInt / 2 ^ h.toNat))
  | .lui p d i => some ⟨p, d, [], 1, fun _ => BitVec.ofInt 64 (i.toInt * 4096)⟩
  | .auipc p d i => some ⟨p, d, [], 1, fun s => s.ctx.pc + BitVec.ofInt 64 (i.toInt * 4096)⟩
  | .getid p d f => some ⟨p, d, [], 1, fun s =>
      match f.toNat with
      | 0 => BitVec.ofNat 64 (s.key / 4)
      | 1 => BitVec.ofNat 64 (if s.key / 4 < 384 then 0 else if s.key / 4 < 768 then 1 else if s.key / 4 < 1024 then 2 else 3)
      | 2 => BitVec.ofNat 64 (s.key / 4 / 8)
      | 3 => BitVec.ofNat 64 (s.key % 4)
      | 4 => s.ctx.thread
      | 5 => s.ctx.team
      | 6 => s.ctx.first
      | _ => s.ctx.count⟩
  | _ => none

/-- The division words (R224, R225): truncated division, all ones by zero, the dividend as remainder by zero. -/
def divRow : Instr → Option SRow
  | .div p d a b => some (row2 p d a b 22 fun x y => if y = 0 then BitVec.ofInt 64 (-1) else BitVec.ofInt 64 (x.toInt.tdiv y.toInt))
  | .divu p d a b => some (row2 p d a b 22 fun x y => if y = 0 then BitVec.ofInt 64 (-1) else BitVec.ofNat 64 (x.toNat / y.toNat))
  | .rem p d a b => some (row2 p d a b 22 fun x y => if y = 0 then x else BitVec.ofInt 64 (x.toInt.tmod y.toInt))
  | .remu p d a b => some (row2 p d a b 22 fun x y => if y = 0 then x else BitVec.ofNat 64 (x.toNat % y.toNat))
  | _ => none

/-- A floating-point word of S: whether it reads vt (R230) and whether it uses the divider (R223), and its result with its
flags. -/
structure FRow where
  p : Dep
  d : SReg
  srcs : List SReg
  vt : Bool
  dv : Bool
  lat : Nat
  val : Rnd → Bool → State → Nat × Fl

/-- A floating-point word of two registers. -/
def frow2 (p : Dep) (d a b : SReg) (vt dv : Bool) (lat : Nat) (f : Rnd → Bool → Nat → Nat → Nat × Fl) : FRow :=
  ⟨p, d, [a, b], vt, dv, lat, fun m z s => f m z (s.ctx.reg a).toNat (s.ctx.reg b).toNat⟩

/-- A floating-point word of one register. -/
def frow1 (p : Dep) (d a : SReg) (dv : Bool) (lat : Nat) (f : Rnd → Bool → Nat → Nat × Fl) : FRow :=
  ⟨p, d, [a], true, dv, lat, fun m z s => f m z (s.ctx.reg a).toNat⟩

/-- The FP64 words of R230 and R231. -/
def fpsRow : Instr → Option FRow
  | .fadd p d a b => some (frow2 p d a b true false 4 fun m z x y => fOut z 0 m (vAdd m (fIn z 0 x) (fIn z 0 y)))
  | .fsub p d a b => some (frow2 p d a b true false 4 fun m z x y => fOut z 0 m (vAdd m (fIn z 0 x) (fIn z 0 y).negate))
  | .fmul p d a b => some (frow2 p d a b true false 4 fun m z x y => fOut z 0 m (vMul (fIn z 0 x) (fIn z 0 y)))
  | .fdiv p d a b => some (frow2 p d a b true true 14 fun m z x y => fOut z 0 m (vDiv (fIn z 0 x) (fIn z 0 y)))
  | .fsqrt p d a => some (frow1 p d a true 18 fun m z x => ftzOut z 0 (rndSqrt 0 m (fIn z 0 x)))
  | .fmin p d a b => some (frow2 p d a b false false 4 fun _ z x y => fMinMax 0 z false x y)
  | .fmax p d a b => some (frow2 p d a b false false 4 fun _ z x y => fMinMax 0 z true x y)
  | .fcmpeq p d a b => some (frow2 p d a b false false 4 fun _ z x y => ((fCmpEq 0 z x y).1.toNat, (fCmpEq 0 z x y).2))
  | .fcmplt p d a b => some (frow2 p d a b false false 4 fun _ z x y => ((fCmpLt 0 z false x y).1.toNat, (fCmpLt 0 z false x y).2))
  | .fcvti p d a => some (frow1 p d a false 4 fun m z x =>
      ((cvt false 7 m (fIn z 0 x)).1, (cvt false 7 m (fIn z 0 x)).2 ||| flIf (fIn z 0 x).isSig fNv))
  | .fcvtf p d a => some (frow1 p d a false 4 fun m _ x => rndV 0 m (decode_ 7 x))
  | _ => none

/-- A branch: its marks, registers, offset in words and condition (R232). -/
structure BRow where
  p : Dep
  a : SReg
  b : SReg
  o : BitVec 12
  taken : Word → Word → Bool

/-- The branches of R232. -/
def branchRow : Instr → Option BRow
  | .beq p a b o => some ⟨p, a, b, o, fun x y => decide (x.toNat = y.toNat)⟩
  | .bne p a b o => some ⟨p, a, b, o, fun x y => decide (x.toNat ≠ y.toNat)⟩
  | .blt p a b o => some ⟨p, a, b, o, fun x y => decide (x.toInt < y.toInt)⟩
  | .bge p a b o => some ⟨p, a, b, o, fun x y => decide (y.toInt ≤ x.toInt)⟩
  | .bltu p a b o => some ⟨p, a, b, o, fun x y => decide (x.toNat < y.toNat)⟩
  | .bgeu p a b o => some ⟨p, a, b, o, fun x y => decide (y.toNat ≤ x.toNat)⟩
  | _ => none

/-- A signed distance in words as bytes. -/
def wordsAway (n : Int) : Word := BitVec.ofInt 64 (4 * n)

/-! ### Memory words of S -/

/-- The package with the next variable latency taken (log entry 2). -/
def delayed (s : State) : State := { s with delays := s.delays.drop 1 }

/-- The cycle in which what leaves S now has its data at the earliest (log entry 2). -/
def arrival (s : State) : Nat := s.now + 1 + s.delays.headD 0

/-- A scalar memory word: its marks, destination, sources; the address, width and kind of access that it checks; what it does
where it takes effect, and whether it is an acquire, a release. -/
structure LRow where
  p : Dep
  d : SReg
  srcs : List SReg
  addr : State → Word
  size : Nat
  want : Want
  win : Win
  act : State → Acc → Act
  acq : Bool
  rel : Bool
  x : State → Word
  y : State → Word

/-- The byte address of a scaled signed offset (R240). -/
def scaled (s : State) (a : SReg) (size : Nat) (o : BitVec 9) : Word := BitVec.ofInt 64 ((s.ctx.reg a).toInt + size * o.toInt)

/-- The windows of a scalar access: the format registers take 8-byte accesses (R242). -/
def windowOf (size : Nat) : Win := if size = 8 then .spadFmt else .spad

/-- A load of R243. -/
def ldRow (p : Dep) (d a : SReg) (o : BitVec 9) (size : Nat) (sgn : Bool) : LRow :=
  ⟨p, d, [a], fun s => scaled s a size o, size, .read, windowOf size, fun _ _ => .load size sgn d, false, false,
   fun _ => 0, fun _ => 0⟩

/-- An atomic of R247. -/
def amoRow (op : AmoOp) (p : Dep) (d a b : SReg) (ar : Bool) : LRow :=
  ⟨p, d, if op = .cas then [a, b, d] else [a, b], fun s => s.ctx.reg a, 8, .write, .spad,
   fun s _ => .amo op (s.ctx.reg b) (s.ctx.reg d) d, ar, ar, fun s => s.ctx.reg b, fun s => s.ctx.reg d⟩

/-- The words that count in lc and land a register: R243, R245, FEPOLL of R246, R247. -/
def loadRow : Instr → Option LRow
  | .lb p d a o => some (ldRow p d a o 1 true)
  | .lbu p d a o => some (ldRow p d a o 1 false)
  | .lh p d a o => some (ldRow p d a o 2 true)
  | .lhu p d a o => some (ldRow p d a o 2 false)
  | .lw p d a o => some (ldRow p d a o 4 true)
  | .lwu p d a o => some (ldRow p d a o 4 false)
  | .ld p d a o => some (ldRow p d a o 8 false)
  | .lda p d a _ z => some ⟨p, d, [a], fun s => s.ctx.reg a, 2 ^ z.toNat, .read, windowOf (2 ^ z.toNat),
      fun _ _ => .load (2 ^ z.toNat) false d, true, false, fun _ => 0, fun _ => 0⟩
  | .fepoll p d a o => some ⟨p, d, [a], fun s => scaled s a 8 o, 1, .read, .spadOnly,
      fun _ c => .fepoll ((c.loc - winBase) / 2 ^ 19) ((c.loc - winBase) % 2 ^ 19) d, true, false, fun _ => 0, fun _ => 0⟩
  | .amoadd p d a b ar _ => some (amoRow .add p d a b ar)
  | .amoand p d a b ar _ => some (amoRow .and p d a b ar)
  | .amoor p d a b ar _ => some (amoRow .or p d a b ar)
  | .amoxor p d a b ar _ => some (amoRow .xor p d a b ar)
  | .amomin p d a b ar _ => some (amoRow .min p d a b ar)
  | .amomax p d a b ar _ => some (amoRow .max p d a b ar)
  | .amoswap p d a b ar _ => some (amoRow .swap p d a b ar)
  | .amocas p d a b ar _ => some (amoRow .cas p d a b ar)
  | _ => none

/-- The words that hold their context until they land (R246): LFE and LFEC. -/
def lfeRow : Instr → Option LRow
  | .lfe p d a o => some ⟨p, d, [a], fun s => scaled s a 8 o, 8, .read, .spadOnly, fun _ _ => .lfe false d, true, false,
      fun _ => 0, fun _ => 0⟩
  | .lfec p d a o => some ⟨p, d, [a], fun s => scaled s a 8 o, 8, .read, .spadOnly, fun _ _ => .lfe true d, true, false,
      fun _ => 0, fun _ => 0⟩
  | _ => none

/-- The pending record of a scalar memory word that has left S with the access `acc` (R32, R92). -/
def outgoing (s : State) (i : Instr) (r : LRow) (acc : Acc) : Pend :=
  { id := s.ctx.nextId, st := .s, pc := s.ctx.pc, word := some i, x := r.x s, y := r.y s, due := some (arrival s),
    fixed := false, act := r.act s acc, dsts := if r.d = 0 then [] else [.s r.d], wr := [], flags := 0, accs := [acc],
    ctr := some .lc, push := pushesOf .s r.p, acq := r.acq, rel := r.rel, holdV := false, late := false, anew := false }

/-- S may send an LS word that counts in `k` (R19, R245): no LDA is out and the counter is below 63. -/
def LsOpen (k : Ctr) (s : State) : Prop := s.ctx.ldaWait = false ∧ s.ctx.ctr k < 63

/-- The package after a word that counts in lc has left S. -/
def loadSent (s : State) (i : Instr) (r : LRow) (acc : Acc) : State :=
  issued (delayed s) { retired r.p (s.ctx.pc + 4) s.ctx with
    lc := s.ctx.lc + 1, pend := s.ctx.pend ++ [outgoing s i r acc] }

/-- The same, the context held until the word lands. -/
def loadAwaited (s : State) (i : Instr) (r : LRow) (acc : Acc) : State :=
  issued (delayed s) { retired r.p (s.ctx.pc + 4) s.ctx with
    lc := s.ctx.lc + 1, pend := s.ctx.pend ++ [outgoing s i r acc], block := .landing s.ctx.nextId, blockedAt := s.now }

/-- A store word of S: its marks, sources, address, width, window, bytes, kind, and whether it is a release. -/
structure TRow where
  p : Dep
  srcs : List SReg
  addr : State → Word
  size : Nat
  win : Win
  val : State → Word
  kind : Acc → StKind
  rel : Bool

/-- A bank format register takes the write (R148); any other place its bytes. -/
def plainKind (acc : Acc) : StKind :=
  if 0x01FF900000000000 ≤ acc.loc then
    .fmt ((acc.loc - 0x01FF900000000000) / 0x1000) (acc.loc % 0x1000 / 8)
  else .plain

/-- A store of R244. -/
def stRow (p : Dep) (d a : SReg) (o : BitVec 9) (size : Nat) : TRow :=
  ⟨p, [a, d], fun s => scaled s a size o, size, windowOf size, fun s => s.ctx.reg d, plainKind, false⟩

/-- The store words of R244, R245 and SFE of R246. -/
def storeRow : Instr → Option TRow
  | .sb p d a o => some (stRow p d a o 1)
  | .sh p d a o => some (stRow p d a o 2)
  | .sw p d a o => some (stRow p d a o 4)
  | .sd p d a o => some (stRow p d a o 8)
  | .stl p a b _ z => some ⟨p, [a, b], fun s => s.ctx.reg a, 2 ^ z.toNat, windowOf (2 ^ z.toNat), fun s => s.ctx.reg b,
      plainKind, true⟩
  | .sfe p d a o => some ⟨p, [a, d], fun s => scaled s a 8 o, 8, .spadOnly, fun s => s.ctx.reg d,
      fun c => .sfe ((c.loc - winBase) / 2 ^ 19) ((c.loc - winBase) % 2 ^ 19), true⟩
  | _ => none

/-- The record of a store that has left S and has not taken effect (R92). -/
def sent (s : State) (i : Instr) (p : Dep) (x : Word) (parts : List StPart) (kind : StKind) (rel : Bool) : PStore :=
  { id := s.ctx.nextId, st := .s, pc := s.ctx.pc, word := some i, x := x, due := some (arrival s), parts := parts,
    kind := kind, push := pushesOf .s p, rel := rel, late := false, anew := false }

/-- The package after a word that counts in sc has left S. -/
def storeSent (s : State) (i : Instr) (p : Dep) (x : Word) (parts : List StPart) (kind : StKind) (rel : Bool) : State :=
  issued (delayed s) { retired p (s.ctx.pc + 4) s.ctx with
    sc := s.ctx.sc + 1, stores := s.ctx.stores ++ [sent s i p x parts kind rel] }

/-- The context after a word of S that completes as it retires: its tokens popped, its own pushed (R28). -/
def completed (p : Dep) (pc : Word) (c : Ctx) : Ctx :=
  { (c.popToks .s p).complete .s c.nextId (pushesOf .s p) with
    pc := pc, retired := c.retired + 1, nextId := c.nextId + 1, heldAt := none }

/-- The divider of S accepts a word in this cycle (R223). -/
def withDivider (s t : State) : State :=
  { t with cores := mupd t.cores (s.key / 4) Core.reset fun k => { k with sdiv := s.now + 8 } }

/-- A word of S that completes as it retires: its marks, whether it is privileged, its sources, when S lets it go, and what it
does to its context. -/
structure CRow where
  p : Dep
  priv : Bool
  srcs : List SReg
  ready : State → Bool
  eff : Ctx → Ctx

/-- A threshold of WAITC (R49). -/
def threshold (c : BitVec 3) : Nat := [0, 1, 2, 4, 8, 16, 32, 63].getD c.toNat 0

/-- NOP (R229), PREF (R252), FENCE (R98), XFENCE (R100), WAITC (R251), CAPLD and CAPCLR (R328). -/
def completeRow : Instr → Option CRow
  | .nop p => some ⟨p, false, [], fun _ => true, id⟩
  | .pref p a _ => some ⟨p, false, [a], fun _ => true, id⟩
  | .fence p _ => some ⟨p, false, [], fun s => s.ctx.lsQuiet, id⟩
  | .xfence p x y => some ⟨p, false, [], fun s =>
      if x = .ho ∨ x = .hs then s.pathQuiet y
      else if x = y ∧ (x = .cp ∨ x = .mt ∨ x = .md ∨ x = .rl) then true else s.pathQuiet x, id⟩
  | .waitc p t c n l => some ⟨p, false, [], fun s =>
      decide (s.ctx.lc ≤ threshold l ∧ s.ctx.sc ≤ threshold n ∧ s.ctx.cc ≤ threshold c ∧ s.ctx.tc ≤ threshold t), id⟩
  | .capld p a n => some ⟨p, true, [a], fun _ => true, fun c =>
      { c with caps := c.caps.set n.toNat (c.reg a) (by have := n.isLt; omega) }⟩
  | .capclr p n => some ⟨p, true, [], fun _ => true, fun c =>
      { c with caps := c.caps.set n.toNat 0 (by have := n.isLt; omega) }⟩
  | _ => none

/-- The trap of an instruction: berth `k` takes it with the word's own address, and the word has no other effect (R379). -/
def trapped (s : State) (t : Trap) : State := (slotted s).takeTrap s.key t s.ctx.pc

/-! ### Forwarding to V, M and C -/

/-- A word that S forwards: its marks, station, the registers whose values go with it, its scalar sources, the destinations
that become pending, the counter in which it counts, whether a bound row may stand for one of its operands, its capability,
and what S does beside queueing it. -/
structure QRow where
  p : Dep
  st : Station
  x : SReg := 0
  y : SReg := 0
  scal : List SReg := []
  dsts : List Dst := []
  ctr : Option Ctr := none
  rows : Bool := false
  cap : Ctx → Word := fun _ => 0
  setup : Ctx → Ctx → Ctx := fun _ c => c

/-- A word of V from grid operands to `ds`. -/
def gq (p : Dep) (ds : List Dst) : QRow := { p := p, st := .v, dsts := ds, rows := true }

/-- A word of V that may raise flags (R22, R24). -/
def gf (p : Dep) (ds : List Dst) : QRow := gq p (ds ++ [.fpsr])

/-- A VSF word (R138): it counts in lc. -/
def sfq (p : Dep) (g : GOp) : QRow := { p := p, st := .v, dsts := dstG g ++ [.fpsr], rows := true, ctr := some .lc }

/-- A matrix command (R18, R293): its registers, its capability, its counter. -/
def mq (p : Dep) (a b : SReg) (c : BitVec 3) (ds : List Dst) : QRow :=
  { p := p, st := .m, x := a, y := b, scal := [a, b], dsts := ds, ctr := some .tc, cap := fun k => k.capReg c }

/-- A word of C. -/
def cq (p : Dep) (a b : SReg) (k : Option Ctr) (ds : List Dst) : QRow :=
  { p := p, st := .c, x := a, y := b, scal := [a, b], ctr := k, dsts := ds }

/-- The two operands of a pair. -/
def both (g : PairOp) : List Dst := dstG (pairLo g) ++ dstG (pairLo g + 1)

/-- How many operands VWIDEN writes at the widest type (R276); one for a code that is no narrower type. -/
def widest (ty : Nat) : Nat := if 12 ≤ ty then 1 else Max.max 1 (64 / tyWidth ty)

/-- The words that S forwards without an address check (R77, R31). -/
def queueRow : Instr → Option QRow
  | .vcfg p _ => some { p := p, st := .v, dsts := [.vt] }
  | .vfadd p g _ _ => some (gf p (dstG g))
  | .vfsub p g _ _ => some (gf p (dstG g))
  | .vfmul p g _ _ => some (gf p (dstG g))
  | .vfma p g _ _ => some (gf p (dstG g))
  | .vfms p g _ _ => some (gf p (dstG g))
  | .vfnma p g _ _ => some (gf p (dstG g))
  | .vfdiv p g _ _ => some (gf p (dstG g))
  | .vfmin p g _ _ => some (gf p (dstG g))
  | .vfmax p g _ _ => some (gf p (dstG g))
  | .vadd p g _ _ => some (gq p (dstG g))
  | .vsub p g _ _ => some (gq p (dstG g))
  | .vmul p g _ _ => some (gq p (dstG g))
  | .vmulh p g _ _ => some (gq p (dstG g))
  | .vmin p g _ _ => some (gq p (dstG g))
  | .vmax p g _ _ => some (gq p (dstG g))
  | .vminu p g _ _ => some (gq p (dstG g))
  | .vmaxu p g _ _ => some (gq p (dstG g))
  | .vadds p g _ _ => some (gq p (dstG g))
  | .vsubs p g _ _ => some (gq p (dstG g))
  | .vand p g _ _ => some (gq p (dstG g))
  | .vor p g _ _ => some (gq p (dstG g))
  | .vxor p g _ _ => some (gq p (dstG g))
  | .vsll p g _ _ => some (gq p (dstG g))
  | .vsrl p g _ _ => some (gq p (dstG g))
  | .vsra p g _ _ => some (gq p (dstG g))
  | .vperm p g _ _ => some (gq p (dstG g))
  | .vperm2 p g _ _ => some (gq p (dstG g))
  | .vfsqrt p g _ => some (gf p (dstG g))
  | .vfabs p g _ => some (gq p (dstG g))
  | .vfneg p g _ => some (gq p (dstG g))
  | .vmov p g _ => some (gq p (dstG g))
  | .vredsum p g _ => some (gf p (dstG g))
  | .vredmax p g _ => some (gf p (dstG g))
  | .vredmin p g _ => some (gf p (dstG g))
  | .dwrnd p g _ => some (gf p (dstG g))
  | .vexp2 p g _ => some (sfq p g)
  | .vlog2 p g _ => some (sfq p g)
  | .vrsq p g _ => some (sfq p g)
  | .vrcp p g _ => some (sfq p g)
  | .vtanh p g _ => some (sfq p g)
  | .vsigm p g _ => some (sfq p g)
  | .vcmpeq p m _ _ => some (gf p (dstM m))
  | .vcmplt p m _ _ => some (gf p (dstM m))
  | .vcmple p m _ _ => some (gf p (dstM m))
  | .mand p d _ _ => some (gq p (dstM d))
  | .mor p d _ _ => some (gq p (dstM d))
  | .mnot p d _ => some (gq p (dstM d))
  | .mpopc p d _ => some (gq p (dstS d))
  | .vshuf p g _ _ => some (gq p (dstG g))
  | .vslide p g _ _ => some (gq p (dstG g))
  | .vcvt p g _ _ => some (gf p (dstG g))
  | .vpack p g _ _ => some (gf p (dstG g))
  | .vwiden p g _ ty => some (gf p (((List.range (Nat.min (widest ty.toNat) (16 - g.toNat % 16))).map fun k =>
      g + BitVec.ofNat 6 k).flatMap dstG))
  | .vsplat p g a => some { gq p (dstG g) with x := a, scal := [a] }
  | .vext p _ d b => some { gq p (dstS d) with x := b, scal := [b], ctr := some .lc }
  | .vins p g a b => some { gq p (dstG g) with x := a, y := b, scal := [a, b] }
  | .xadd p g _ _ => some (gf p (both g))
  | .xsub p g _ _ => some (gf p (both g))
  | .xmul p g _ _ => some (gf p (both g))
  | .xfma p g _ _ => some (gf p (both g))
  | .dwadd p g _ _ => some (gf p (both g))
  | .dwsub p g _ _ => some (gf p (both g))
  | .dwmul p g _ _ => some (gf p (both g))
  | .xred p g _ => some (gf p (both g))
  | .dwnorm p g _ => some (gf p (both g))
  | .gsld p n _ => some { p := p, st := .v, dsts := dstG (hRow n.toNat) }
  | .gsst p _ _ => some { p := p, st := .v }
  | .mset p a b r => some { p := p, st := .m, scal := [a, b], setup := fun c d =>
      { d with ms := d.ms.set r.toNat ((c.reg b).extractLsb' 0 32 ++ (c.reg a).extractLsb' 0 32) (by have := r.isLt; omega) } }
  | .mballoc p a b c => some (mq p a b c (dstS a))
  | .mbfree p a b c => some (mq p a b c ([]))
  | .mzero p a b c => some (mq p a b c ([]))
  | .mmac p a b c => some (mq p a b c ([]))
  | .mdrain p a b c => some (mq p a b c ([]))
  | .mfill p a b c => some (mq p a b c ([]))
  | .mstat p a => some { p := p, st := .m, dsts := dstS a, ctr := some .tc }
  | .cset p a b r => if h : r.toNat < 7 then some { p := p, st := .c, scal := [a, b], setup := fun c d =>
      { d with cs := d.cs.set r.toNat ((c.reg b).extractLsb' 0 32 ++ (c.reg a).extractLsb' 0 32) h } } else none
  | .copy p a b => some (cq p a b (some .cc) ([]))
  | .cfill p a b => some (cq p a b (some .cc) ([]))
  | .rsend p a b => some (cq p a b (some .cc) ([]))
  | .rpermit p a b => some (cq p a b (some .cc) ([]))
  | .rstat p a b => some (cq p a b (none) (dstS a))
  | _ => none

/-- The places of a station's queue (R77): 16 at V, 8 at M and C. -/
def places : Station → Nat
  | .v => 16
  | _ => 8

/-- The places that a context's words take: at M and C a command keeps its place until it completes (log entry 76). -/
def taken (c : Ctx) : Station → Nat
  | .s => 0
  | .v => c.vq.length
  | .m => (c.min ++ c.mact.toList ++ c.mq).length
  | .c => (c.cact.toList ++ c.cq).length

/-- The entry that S queues (R77): the word with its registers' values, and what the context holds at this moment. -/
def queueEntry (s : State) (i : Instr) (r : QRow) : QEntry :=
  { id := s.ctx.nextId, pc := s.ctx.pc, p := r.p, word := some i, x := s.ctx.reg r.x, y := s.ctx.reg r.y, accs := [], pops := [],
    app := none, bound := s.ctx.gens.toList.map (·.bound), appd := s.ctx.gens.toList.map (·.dir), gold := none,
      ftz := s.ctx.fpsr.getLsbD 8,
    at_ := s.now, headAt := s.now,
    setup := match r.st with | .m => s.ctx.ms.toList | .c => s.ctx.cs.toList ++ [0] | _ => [],
    cap := r.cap s.ctx, prog := 0, far := 0, susp := false, priv := s.ctx.priv, begun := false }

/-- The record of its pending destinations (R32, R80). -/
def queuePend (s : State) (i : Instr) (r : QRow) : Pend :=
  { id := s.ctx.nextId, st := r.st, pc := s.ctx.pc, word := some i, x := s.ctx.reg r.x, y := s.ctx.reg r.y, due := none,
    fixed := false, act := .vals, dsts := r.dsts, wr := [], flags := 0, accs := [],
    ctr := if r.ctr = some .lc then some .lc else none, push := pushesOf r.st r.p, acq := false, rel := false, holdV := false,
    late := false, anew := false }

/-- The context after the word is queued (R19, R21, R77): no token has moved and no register has changed. -/
def queued (s : State) (i : Instr) (r : QRow) : Ctx :=
  let c := s.ctx
  { c with
    pc := c.pc + 4, retired := c.retired + 1, nextId := c.nextId + 1, heldAt := none,
    lc := if r.ctr = some .lc then c.lc + 1 else c.lc,
    sc := if r.ctr = some .sc then c.sc + 1 else c.sc,
    cc := if r.ctr = some .cc then c.cc + 1 else c.cc,
    tc := if r.ctr = some .tc then c.tc + 1 else c.tc,
    vq := if r.st = .v then c.vq ++ [queueEntry s i r] else c.vq,
    mq := if r.st = .m then c.mq ++ [queueEntry s i r] else c.mq,
    cq := if r.st = .c then c.cq ++ [queueEntry s i r] else c.cq,
    pend := c.pend ++ [queuePend s i r] }

/-- S may forward a word of the row (R28, R77): a live context, no push owed by S, room in the queue and in the counter. -/
def CanQueue (r : QRow) (s : State) : Prop :=
  s.live = true ∧ s.turn = .sched ∧ s.ctx.owes .s = false ∧ taken s.ctx r.st < places r.st ∧
  (∀ k, r.ctr = some k → s.ctx.ctr k < 63)

/-- No stream generator is bound (R15). -/
def Unbound (c : Ctx) : Prop := ∀ n : Fin 4, (c.gens[n]).bound = false

/-! ### Grid words at V -/

/-- A grid word at its start: what it needs and reads (R15, R31, R262), its latency, a condition on its values (R31), and the
writes and flags that it lands. -/
structure VRow where
  spec : VSpec
  lat : Nat
  fits : Prop := True
  out : List Wr × Fl

/-- A vector's elements under the mask: element j is `f j` where it is active, with the flags of the active ones; the writes go
to `g` under the mask (R14, R262). -/
def masked (c : Ctx) (g : GOp) (f : Nat → Nat × Fl) : List Wr × Fl :=
  let r := (List.range (perVec c.t)).map fun j => if c.vtMask.getLsbD j then f j else (0, 0)
  (vecWrites c.t c.vtMask g (pack c.t (r.map Prod.fst)), r.foldl (fun a x => a ||| x.2) 0)

/-- Elements that are moved without being read as numbers (R272 to R275): no flag. -/
def moved (c : Ctx) (g : GOp) (f : Nat → Nat) : List Wr × Fl :=
  (vecWrites c.t c.vtMask g (pack c.t ((List.range (perVec c.t)).map f)), 0)

/-- Element j of an operand as the started word sees it (R11, R260). -/
def el (c : Ctx) (e : QEntry) (g : GOp) (j : Nat) : Nat := nthD (elems c.t (c.src e g)) j 0

/-- Element j of an operand that no stream row stands for. -/
def rawEl (c : Ctx) (t : Nat) (g : GOp) (j : Nat) : Nat := nthD (elems t (c.readOp g)) j 0

/-- An element's value as the float that the word reads, subnormals flushed under ftz (R239, R262). -/
def fl (c : Ctx) (x : Nat) : Val := fIn c.ftz c.t x

/-- A float result in the element's type. -/
def rounded (c : Ctx) (r : Val × Fl) : Nat × Fl := fOut c.ftz c.t c.m r

/-- An element as a signed number (R11). -/
def sg (c : Ctx) (x : Nat) : Int := sInt (tyWidth c.t) x

/-- A float word of two sources. -/
def vf2 (g a b : GOp) (lat : Nat) (c : Ctx) (e : QEntry) (f : Val → Val → Val × Fl) : VRow :=
  { spec := { srcs := [a, b], dst := some g, types := fun t => decide (t < 4) }, lat := lat,
    out := masked c g fun j => rounded c (f (fl c (el c e a j)) (fl c (el c e b j))) }

/-- A fused word: the destination is the addend (R265); the product, and the addend, may be negated. -/
def vfm (g a b : GOp) (c : Ctx) (e : QEntry) (negP negC : Bool) : VRow :=
  { spec := { srcs := [a, b], dst := some g, addend := true, types := fun t => decide (t < 4) }, lat := 4,
    out := masked c g fun j => fFma c.t c.m c.ftz negP negC (el c e a j) (el c e b j) (el c e g j) }

/-- A word of one source whose elements are computed. -/
def v1 (g a : GOp) (types : Nat → Bool) (lat : Nat) (c : Ctx) (e : QEntry) (f : Nat → Nat × Fl) : VRow :=
  { spec := { srcs := [a], dst := some g, types := types }, lat := lat, out := masked c g fun j => f (el c e a j) }

/-- An integer word (R268, R269): no flag. -/
def vi2 (g a b : GOp) (types : Nat → Bool) (lat : Nat) (c : Ctx) (e : QEntry) (f : Nat → Nat → Nat) : VRow :=
  { spec := { srcs := [a, b], dst := some g, types := types }, lat := lat,
    out := masked c g fun j => (f (el c e a j) (el c e b j), 0) }

/-- A number back to an element of the type, modulo its width. -/
def wrapEl (c : Ctx) (x : Int) : Nat := (x % (2 ^ tyWidth c.t : Nat)).toNat

/-- A number limited to the type's signed range (R268). -/
def satEl (c : Ctx) (x : Int) : Int :=
  Max.max (-((2 : Int) ^ (tyWidth c.t - 1))) (Min.min ((2 : Int) ^ (tyWidth c.t - 1) - 1) x)

/-- A compare (R270): an unmasked element writes its bit, a masked one keeps it, bits at and above n become 0. -/
def vcmp (d : MReg) (a b : GOp) (c : Ctx) (e : QEntry) (eq orEq : Bool) : VRow :=
  { spec := { srcs := [a, b], keeps := false,
              masks := if maskLow (perVec c.t) c.vtMask = maskLow (perVec c.t) maskOnes then [] else [d] }, lat := 2,
    out :=
      let r := (List.range (perVec c.t)).map fun j =>
        if c.vtMask.getLsbD j then vCompare eq orEq c.t c.ftz (el c e a j) (el c e b j) else ((c.mask d).getLsbD j, 0)
      ([.mask d (Machine.maskOf (r.map Prod.fst))], r.foldl (fun x y => x ||| y.2) 0) }

/-- A mask word (R271): the n low bits, whatever vt.mask. -/
def vmask (ms : List MReg) (lat : Nat) (w : Wr) : VRow :=
  { spec := { masks := ms, useMask := false, keeps := false }, lat := lat, out := ([w], 0) }

/-- The n low bits of a mask, each `f j`. -/
def bitsBelow (n : Nat) (f : Nat → Bool) : BitVec 256 := BitVec.ofBoolListLE (((List.range 256).map fun j => decide (j < n) &&
    f j)) |>.setWidth 256

/-- A reduction (R277): its tree over the active elements, the result in element 0, every other element 0, whatever the mask.
An only active element is no raw move: a NaN becomes the canonical one, and ftz replaces a subnormal (R160, R165; DEDUCED, log
entry 86). -/
def vred (g a : GOp) (lat : Nat) (c : Ctx) (e : QEntry) (f : Nat → Nat → Nat × Fl) : VRow :=
  let n := perVec c.t
  let act := (List.range n).filter fun j => c.vtMask.getLsbD j
  let r : Nat × Fl :=
    if act.length = 1 then
      let x := el c e a (act.headD 0)
      if c.t < 4 then
        match decFloat c.t x with
        | .nan sig => (canonNaN c.t, if sig then fNv else 0)
        | _ => (ftzIn c.ftz c.t x, 0)
      else (x, 0)
    else
      let z := redTree f n.log2 ((List.range n).map fun j => if c.vtMask.getLsbD j then some (el c e a j) else none)
      (z.1.getD 0, z.2)
  { spec := { srcs := [a], dst := some g, types := fun t => decide (t < 4) || isInt t, keeps := false, whole := true },
    lat := lat, out := (rawWrites g (pack c.t (r.1 :: List.replicate (n - 1) 0)), r.2) }

/-- A word that writes a pair lane by lane (R279). -/
def vpair (g : PairOp) (srcs : List GOp) (lat : Nat) (c : Ctx) (f : Nat → Nat × Nat × Fl) : VRow :=
  let r := (List.range (perVec c.t)).map fun j => if c.vtMask.getLsbD j then f j else (0, 0, 0)
  { spec := { fixedSrcs := srcs, fixedDsts := [pairLo g, pairLo g + 1], keeps := false, keepsFixed := true,
              types := fun t => decide (t < 2) }, lat := lat,
    out := (vecWrites c.t c.vtMask (pairLo g) (pack c.t (r.map fun x => x.1)) ++
            vecWrites c.t c.vtMask (pairLo g + 1) (pack c.t (r.map fun x => x.2.1)), r.foldl (fun a x => a ||| x.2.2) 0) }

/-- The two halves' operands. -/
def two (g : PairOp) : List GOp := [pairLo g, pairLo g + 1]

/-- Lane j of a pair. -/
def lane (c : Ctx) (g : PairOp) (j : Nat) : Nat × Nat := (rawEl c c.t (pairLo g) j, rawEl c c.t (pairLo g + 1) j)

/-- Where VSHUF takes element j of n from (R273). -/
def shuffled (k : Shuf) (n j : Nat) : Nat :=
  match k with
  | .reverse => n - 1 - j
  | .swap => if j % 2 = 1 then j - 1 else j + 1
  | .zip => if j % 2 = 1 then n / 2 + j / 2 else j / 2
  | .unzip => if n / 2 ≤ j then 2 * (j - n / 2) + 1 else 2 * j
  | .broadcast => 0

/-- The grid words that compute or move elements of V (R262 to R287), at the context `c` and their entry `e`. -/
def vRow (c : Ctx) (e : QEntry) : Instr → Option VRow
  | .vcfg _ i => some
      { spec := { useVt := false, useMask := false, keeps := false }, lat := 1,
        fits := i.toNat % 16 < 12 ∧ i.toNat / 128 < 5, out := ([.vt (BitVec.ofNat 12 i.toNat)], 0) }
  | .vfadd _ g a b => some (vf2 g a b 4 c e fun x y => vAdd c.m x y)
  | .vfsub _ g a b => some (vf2 g a b 4 c e fun x y => vAdd c.m x y.negate)
  | .vfmul _ g a b => some (vf2 g a b 4 c e vMul)
  | .vfma _ g a b => some (vfm g a b c e false false)
  | .vfms _ g a b => some (vfm g a b c e false true)
  | .vfnma _ g a b => some (vfm g a b c e true false)
  | .vfdiv _ g a b => some (vf2 g a b 14 c e vDiv)
  | .vfsqrt _ g a => some (v1 g a (fun t => decide (t < 4)) 18 c e fun x => ftzOut c.ftz c.t (rndSqrt c.t c.m (fl c x)))
  | .vfmin _ g a b => some
      { vf2 g a b 4 c e vMul with out := masked c g fun j => fMinMax c.t c.ftz false (el c e a j) (el c e b j) }
  | .vfmax _ g a b => some
      { vf2 g a b 4 c e vMul with out := masked c g fun j => fMinMax c.t c.ftz true (el c e a j) (el c e b j) }
  | .vfabs _ g a => some (v1 g a (fun t => decide (t < 4)) 1 c e fun x =>
      (if 2 ^ (tyWidth c.t - 1) ≤ x then x - 2 ^ (tyWidth c.t - 1) else x, 0))
  | .vfneg _ g a => some (v1 g a (fun t => decide (t < 4)) 1 c e fun x =>
      (if 2 ^ (tyWidth c.t - 1) ≤ x then x - 2 ^ (tyWidth c.t - 1) else x + 2 ^ (tyWidth c.t - 1), 0))
  | .vadd _ g a b => some (vi2 g a b isInt 2 c e fun x y => wrapEl c (x + y))
  | .vsub _ g a b => some (vi2 g a b isInt 2 c e fun x y => wrapEl c ((x : Int) - y))
  | .vmul _ g a b => some (vi2 g a b isInt 3 c e fun x y => wrapEl c (x * y))
  | .vmulh _ g a b => some (vi2 g a b isInt 3 c e fun x y => wrapEl c (sg c x * sg c y / (2 ^ tyWidth c.t : Nat)))
  | .vmin _ g a b => some (vi2 g a b isInt 2 c e fun x y => wrapEl c (Min.min (sg c x) (sg c y)))
  | .vmax _ g a b => some (vi2 g a b isInt 2 c e fun x y => wrapEl c (Max.max (sg c x) (sg c y)))
  | .vminu _ g a b => some (vi2 g a b isInt 2 c e Min.min)
  | .vmaxu _ g a b => some (vi2 g a b isInt 2 c e Max.max)
  | .vadds _ g a b => some (vi2 g a b isInt 2 c e fun x y => wrapEl c (satEl c (sg c x + sg c y)))
  | .vsubs _ g a b => some (vi2 g a b isInt 2 c e fun x y => wrapEl c (satEl c (sg c x - sg c y)))
  | .vand _ g a b => some (vi2 g a b (fun _ => true) 1 c e Nat.land)
  | .vor _ g a b => some (vi2 g a b (fun _ => true) 1 c e Nat.lor)
  | .vxor _ g a b => some (vi2 g a b (fun _ => true) 1 c e Nat.xor)
  | .vsll _ g a b => some (vi2 g a b isInt 1 c e fun x k => wrapEl c (x * 2 ^ (k % tyWidth c.t)))
  | .vsrl _ g a b => some (vi2 g a b isInt 1 c e fun x k => x / 2 ^ (k % tyWidth c.t))
  | .vsra _ g a b => some (vi2 g a b isInt 1 c e fun x k => wrapEl c (sg c x / (2 ^ (k % tyWidth c.t) : Nat)))
  | .vcmpeq _ d a b => some (vcmp d a b c e true false)
  | .vcmplt _ d a b => some (vcmp d a b c e false false)
  | .vcmple _ d a b => some (vcmp d a b c e false true)
  | .mand _ d a b => some (vmask [a, b] 1 (.mask d (bitsBelow (perVec c.t) fun j => (c.mask a).getLsbD j && (c.mask b).getLsbD j)))
  | .mor _ d a b => some (vmask [a, b] 1 (.mask d (bitsBelow (perVec c.t) fun j => (c.mask a).getLsbD j || (c.mask b).getLsbD j)))
  | .mnot _ d a => some (vmask [a] 1 (.mask d (bitsBelow (perVec c.t) fun j => !(c.mask a).getLsbD j)))
  | .mpopc _ d a => some (vmask [a] 2 (.s d (BitVec.ofNat 64 ((List.range (perVec c.t)).countP fun j => (c.mask a).getLsbD j))))
  | .vperm _ g a b => some
      { spec := { srcs := [a, b], dst := some g }, lat := 2,
        out := moved c g fun j => el c e a (el c e b j % perVec c.t) }
  | .vperm2 _ g a b => some
      { spec := { srcs := [b], fixedSrcs := two a, dst := some g }, lat := 2,
        out := moved c g fun j =>
          let k := el c e b j % (2 * perVec c.t)
          if k < perVec c.t then rawEl c c.t (pairLo a) k else rawEl c c.t (pairLo a + 1) (k - perVec c.t) }
  | .vshuf _ g a k => some
      { spec := { srcs := [a], dst := some g }, lat := 2,
        out := moved c g fun j => el c e a (shuffled k (perVec c.t) j) }
  | .vslide _ g a k => some
      { spec := { srcs := [a], dst := some g }, lat := 2,
        out := moved c g fun j =>
          if 0 ≤ (j : Int) - k.toInt ∧ (j : Int) - k.toInt < perVec c.t then el c e a ((j : Int) - k.toInt).toNat else 0 }
  | .vmov _ g a => some
      { spec := { srcs := [a], dst := some g }, lat := 1, out := moved c g fun j => el c e a j }
  | .vsplat _ g _ => some
      { spec := { dst := some g }, lat := 1, out := moved c g fun _ => e.x.toNat % 2 ^ tyWidth c.t }
  | .vins _ g _ _ => some
      { spec := { dst := some g, addend := true, useMask := false, keeps := false }, lat := 2,
        fits := e.y.toNat < perVec c.t,
        out := (vecWrites c.t (BitVec.twoPow 256 e.y.toNat) g
          (pack c.t (List.replicate (perVec c.t) (e.x.toNat % 2 ^ tyWidth c.t))), 0) }
  | .vcvt _ g a ty => some
      { spec := { srcs := [a], dst := some g }, lat := 3,
        fits := ty.toNat < 12 ∧ tyWidth ty.toNat = tyWidth c.t,
        out := masked c g fun j => vcvtElem ty.toNat c.t c.m c.ftz (el c e a j) }
  | .vpack _ g a ty =>
      let r := tyWidth ty.toNat / tyWidth c.t
      let os := (List.range (Nat.min r (16 - a.toNat % 16))).map fun k => a + BitVec.ofNat 6 k
      let ys := (os.flatMap fun o => elems ty.toNat (c.readOp o)).map (vcvtElem ty.toNat c.t c.m c.ftz)
      some
      { spec := { fixedSrcs := os, fixedDsts := [g], useMask := false, keeps := false }, lat := 3,
          fits := ty.toNat < 12 ∧ tyWidth c.t < tyWidth ty.toNat ∧ a.toNat % 16 + r ≤ 16,
          out := (rawWrites g (pack c.t (ys.map Prod.fst)), ys.foldl (fun x y => x ||| y.2) 0) }
  | .vwiden _ g a ty =>
      let r := tyWidth c.t / tyWidth ty.toNat
      let os := (List.range (Nat.min r (16 - g.toNat % 16))).map fun k => g + BitVec.ofNat 6 k
      let ys := (elems ty.toNat (c.readOp a)).map (vcvtElem ty.toNat c.t c.m c.ftz)
      some
      { spec := { fixedSrcs := [a], fixedDsts := os, useMask := false, keeps := false }, lat := 3,
          fits := ty.toNat < 12 ∧ tyWidth ty.toNat < tyWidth c.t ∧ g.toNat % 16 + r ≤ 16,
          out := ((os.mapIdx fun k o => rawWrites o (pack c.t (((ys.map Prod.fst).drop (k * perVec c.t)).take (perVec c.t)))).flatten,
            ys.foldl (fun x y => x ||| y.2) 0) }
  | .vredsum _ g a => some (vred g a 8 c e fun x y => if c.t < 4 then fAdd c.t c.m c.ftz x y else (wrapEl c (x + y), 0))
  | .vredmax _ g a => some (vred g a 5 c e fun x y =>
      if c.t < 4 then fMinMax c.t c.ftz true x y else (if sg c y ≤ sg c x then x else y, 0))
  | .vredmin _ g a => some (vred g a 5 c e fun x y =>
      if c.t < 4 then fMinMax c.t c.ftz false x y else (if sg c x ≤ sg c y then x else y, 0))
  | .xadd _ g a b => some (vpair g [a, b] 5 c fun j => xaddLane c.t c.m (rawEl c c.t a j) (rawEl c c.t b j))
  | .xsub _ g a b => some (vpair g [a, b] 5 c fun j => xaddLane c.t c.m (rawEl c c.t a j) (flipSign c.t (rawEl c c.t b j)))
  | .xmul _ g a b => some (vpair g [a, b] 6 c fun j => xmulLane c.t c.m (rawEl c c.t a j) (rawEl c c.t b j))
  | .xfma _ g a b => some (vpair g [a, b, pairLo g] 6 c fun j =>
      xfmaLane c.t (rawEl c c.t a j) (rawEl c c.t b j) (rawEl c c.t (pairLo g) j))
  | .xred _ g a =>
      let r := xredTree c.t (if c.t = 0 then 4 else 5)
        ((List.range (perVec c.t)).map fun j => if c.vtMask.getLsbD j then lane c a j else (0, 0)) 0
      some
      { spec := { fixedSrcs := two a, fixedDsts := two g, keeps := false, types := fun t => decide (t < 2) }, lat := 20,
          out := (lane0Writes c.t (pairLo g) (r.1.headD (0, 0)).1 (r.1.headD (0, 0)).2, r.2) }
  | .dwadd _ g a b => some (vpair g (two a ++ two b) 10 c fun j =>
      dwadd c.t (lane c a j).1 (lane c a j).2 (lane c b j).1 (lane c b j).2)
  | .dwsub _ g a b => some (vpair g (two a ++ two b) 10 c fun j =>
      dwadd c.t (lane c a j).1 (lane c a j).2 (flipSign c.t (lane c b j).1) (flipSign c.t (lane c b j).2))
  | .dwmul _ g a b => some (vpair g (two a ++ two b) 12 c fun j =>
      dwmul c.t (lane c a j).1 (lane c a j).2 (lane c b j).1 (lane c b j).2)
  | .dwnorm _ g a => some (vpair g (two a) 5 c fun j => dwnorm c.t (lane c a j).1 (lane c a j).2)
  | .dwrnd _ g a => some
      { spec := { fixedSrcs := two a, fixedDsts := [g], keeps := false, keepsFixed := true, types := fun t => decide (t < 2) },
        lat := 5,
        out := masked c g fun j => dwrndLane c.t c.m (lane c a j).1 (lane c a j).2 }
  | _ => none

/-- The VSF words (R267): the function of each. -/
def sfRow : Instr → Option (GOp × GOp × (Nat → Rnd → Val → Nat × Fl))
  | .vexp2 _ g a => some (g, a, sfExp2)
  | .vlog2 _ g a => some (g, a, sfLog2)
  | .vrsq _ g a => some (g, a, sfRsq)
  | .vrcp _ g a => some (g, a, sfRcp)
  | .vtanh _ g a => some (g, a, sfTanh)
  | .vsigm _ g a => some (g, a, sfSigm)
  | _ => none

/-- The word at V can be performed (R24, R31): its rows, operands and type pass the checks and nothing is read early. -/
def VFits (sp : VSpec) (e : QEntry) (s : State) : Prop :=
  s.turn = .start .v ∧ s.ctx.active = some e ∧ sp.bad s.ctx e = none ∧ s.ctx.early e.id (sp.reads s.ctx e) = none

/-- The flags register is pending while a word's flags are to land (R24). -/
def flagDsts (f : Fl) : List Dst := if f = 0 then [] else [.fpsr]

/-- The context after V has performed the word of entry `e`: its record has the writes and flags that land `lat` cycles from
now, its destinations are the operands `gs` beside its registers, and V is free (R79). An append to a stream takes the values
instead, under the mask `mk` (R261); the record then stays for the flags and the count (R138). -/
def performed (s : State) (e : QEntry) (dst : Option GOp) (gs : List GOp) (mk : BitVec 256) (lat : Nat)
    (o : List Wr × Fl) : Ctx :=
  let c := s.ctx
  match e.app, dst with
  | some a, some g =>
    { c with
      active := none,
      stores := c.stores ++ [{ id := e.id, st := .v, pc := e.pc, word := e.word, x := 0, due := some (s.now + lat),
                               parts := appParts c.t mk a g o.1, kind := .append a.g a.n, push := pushesOf .v e.p,
                               rel := false, late := false, anew := false }],
      pend := c.pend.filterMap fun p =>
        if p.id = e.id then
          if o.2 = 0 ∧ p.ctr = none then none
          else some { p with due := some (s.now + lat), fixed := true, flags := o.2, push := [], dsts := flagDsts o.2 }
        else some p }
  | _, _ =>
    { c with
      active := none,
      pend := c.pend.map fun p => if p.id = e.id then
        { p with due := some (s.now + lat), fixed := true, act := .vals, wr := o.1, flags := o.2,
                 dsts := p.dsts.filter Dst.plain ++ gs.flatMap dstG ++ flagDsts o.2 } else p }

/-- The same for a word of V, from its row. -/
def VRow.performed (r : VRow) (s : State) (e : QEntry) : Ctx :=
  Safety.performed s e r.spec.dst (r.spec.dst.toList ++ r.spec.fixedDsts)
    (if r.spec.whole then BitVec.allOnes 256 else s.ctx.vtMask) r.lat r.out

/-- V has performed a word: the scheduler goes on with the context `c`. -/
def vEnded (s : State) (c : Ctx) : State := { s with ctx := c, turn := .sched }

/-! ### Memory words of the grid -/

/-- A VLD or VST word (R253, R254): its row, its address, what it wants, whether it waits on full-empty bits. -/
structure VmRow where
  q : QRow
  imm : BitVec 9
  want : Want
  fe : Bool

/-- The words that name 128 bytes at a scaled offset (R253, R254). -/
def vmRow : Instr → Option VmRow
  | .vld p g a _ i => some ⟨{ p := p, st := .v, x := a, scal := [a], dsts := dstG g, ctr := some .lc }, i, .read, false⟩
  | .vldFeKeep p g a i => some ⟨{ p := p, st := .v, x := a, scal := [a], dsts := dstG g, ctr := some .lc }, i, .read, true⟩
  | .vldFeClear p g a i => some ⟨{ p := p, st := .v, x := a, scal := [a], dsts := dstG g, ctr := some .lc }, i, .read, true⟩
  | .vst p _ a _ i => some ⟨{ p := p, st := .v, x := a, scal := [a], ctr := some .sc }, i, .write, false⟩
  | _ => none

/-- The words whose addresses V forms (R255). -/
def vxRow : Instr → Option QRow
  | .vlds p g a b => some { p := p, st := .v, x := a, y := b, scal := [a, b], dsts := dstG g, ctr := some .lc }
  | .vsts p _ a b => some { p := p, st := .v, x := a, y := b, scal := [a, b], ctr := some .sc }
  | .vldx p g a _ => some { p := p, st := .v, x := a, scal := [a], dsts := dstG g, ctr := some .lc }
  | .vstx p _ a _ => some { p := p, st := .v, x := a, scal := [a], ctr := some .sc }
  | .vbcast p g a => some { p := p, st := .v, x := a, scal := [a], dsts := dstG g, ctr := some .lc }
  | _ => none

/-- The slice words (R288, R290): the row, the greatest index or count, what they want, and the first byte and number of the
8-byte halves that they name. -/
def slRow : Instr → Option (QRow × Nat × Want × (Word → Word → Word × Nat))
  | .sldep p _ a b => some ({ p := p, st := .v, x := a, y := b, scal := [a, b], ctr := some .sc }, 4095, .write,
      fun x y => (x + 16 * y, 2))
  | .slmerge p g a b => some ({ p := p, st := .v, x := a, y := b, scal := [a, b], dsts := both g ++ [.fpsr], ctr := some .lc },
      4096,
      .read, fun x y => (x, 2 * y.toNat))
  | _ => none

/-- The context after S has queued a memory word with the accesses that it has checked; where V makes the checks, S then
waits for them (R241). -/
def memQueued (s : State) (i : Instr) (r : QRow) (accs : List Acc) (hold : Bool) : Ctx :=
  { queued s i r with
    vq := s.ctx.vq ++ [{ queueEntry s i r with accs := accs }],
    block := if hold then .vstart s.ctx.nextId else s.ctx.block,
    blockedAt := if hold then s.now else s.ctx.blockedAt }

/-- The byte address of a VLD or VST (R253). -/
def rowAddr (x : Word) (imm : BitVec 9) : Word := BitVec.ofInt 64 (x.toInt + 128 * imm.toInt)

/-- The byte address is in the core's own scratchpad (R59, R241). -/
def ownSpad (s : State) (va : Word) : Prop := ∃ off, placeOf (s.key / 4) va.toNat = .spad (s.key / 4) off

/-- Pieces of 8 bytes from `va` on pass the checks of S and give `accs` (R240, R241). -/
def piecesOk (s : State) (va : Word) (want : Want) (lane : Nat → Nat) (accs : List Acc) : Prop :=
  ∀ j : Fin accs.length, s.chkS (va + BitVec.ofNat 64 (8 * j)) 8 1 want .spad (lane j) = .ok accs[j]

/-- V has checked the word of entry `e` and made its access: a context that waited for the checks is ready again. -/
def vLeft (s : State) (e : QEntry) (c : Ctx) : State := vEnded s { (c.vChecked s.now e.id) with active := none }

/-- A load that forms elements as it lands, and may raise flags then (R149, R290). -/
def forms : Act → Bool
  | .conv .. | .feconv .. | .slmerge .. => true
  | _ => false

/-- A grid load on its way from V (R92, R253): its record holds what happens at its landing. -/
def loadLeft (s : State) (e : QEntry) (act : Act) (accs : List Acc) (hold : Bool) : State :=
  vLeft (delayed s) e { s.ctx with pend := s.ctx.pend.map fun p => if p.id = e.id then
    { p with due := some (arrival s), act := act, accs := accs, holdV := hold, acq := hold,
             dsts := p.dsts.filter (· != .fpsr) ++ (if forms act then [.fpsr] else []) } else p }

/-- A grid store on its way from V: its values are those of its start, its flags land in the next cycle (R92, R253). -/
def storeLeft (s : State) (e : QEntry) (parts : List StPart) (f : Fl) : State :=
  let rest := s.ctx.pend.filter fun p => p.id != e.id
  vLeft (delayed s) e { s.ctx with
    stores := s.ctx.stores ++ [{ id := e.id, st := .v, pc := e.pc, word := e.word, x := 0, due := some (arrival s),
                                 parts := parts, kind := .plain, push := pushesOf .v e.p, rel := false, late := false,
                                   anew := false }],
    pend := if f = 0 then rest else rest ++ [{ Pend.mk0 e.id .v e.pc with
      due := some (s.now + 1), fixed := true, dsts := [.fpsr], flags := f }] }

/-- What a started VLD reads (R149, R253, R254): raw cells that some active element lies in, or a bank's elements under its
format. -/
def vldAct (s : State) (e : QEntry) (g : GOp) (imm : BitVec 9) (fe clear : Bool) : Option (Act × List Acc × Bool) :=
  match s.vmForm e (rowAddr e.x imm) with
  | .trap _ => none
  | .raw accs =>
    let xs := ((List.range 16).zip accs).filter fun x => cellMask s.ctx.t s.ctx.vtMask x.1 != 0
    let cs := xs.map fun x => (cellNo g x.1, cellMask s.ctx.t s.ctx.vtMask x.1)
    some (if fe then .fecells clear (granulesOf accs) cs else .cells cs, xs.map Prod.snd, fe)
  | .conv bank fmt off accs =>
    let rnd := s.ctx.vt.toNat / 128 % 8
    let gs := granulesOf (accs.take (perVec s.ctx.t * tyWidth (fmt % 16) / 64))
    some (if fe then .feconv clear gs (s.key / 4) bank fmt off s.ctx.t rnd s.ctx.ftz (gCells g) s.ctx.vtMask
      else .conv (s.key / 4) bank fmt off s.ctx.t rnd s.ctx.ftz (gCells g) s.ctx.vtMask, accs, fe)

/-- The addresses of the cells of a strided or indexed word (R255). -/
def laneAddr (s : State) (e : QEntry) (ix : Option GOp) (j : Nat) : Word :=
  match ix with
  | none => e.x + BitVec.ofNat 64 j * e.y
  | some o => e.x + nthD (s.ctx.readOp o) j 0

/-- What a started strided, indexed or broadcast load reads (R255, R256): its active cells pass their checks. -/
def gatherAct (s : State) (g : GOp) (addr : Nat → Word) (one : Bool) : Option (State × Act × List Acc × Bool) :=
  match s.lanes .read addr s.ctx.activeLanes [] with
  | (s1, some (.inr as)) =>
    let cs := as.map fun x => (cellNo g x.1, cellMask s.ctx.t s.ctx.vtMask x.1)
    some (s1, if one then .bcast cs else .cells cs, if one then (as.map Prod.snd).take 1 else as.map Prod.snd, false)
  | _ => none

/-- A started grid load whose checks pass: what it checks and reads, the package after its translations, and its landing. -/
def gridLoad (s : State) (e : QEntry) : Instr → Option (VSpec × State × Act × List Acc × Bool)
  | .vld _ g _ _ i => (vldAct s e g i false false).map fun x => ({ fixedDsts := [g], keeps := false }, s, x)
  | .vldFeKeep _ g _ i => (vldAct s e g i true false).map fun x => ({ fixedDsts := [g], keeps := false }, s, x)
  | .vldFeClear _ g _ i => (vldAct s e g i true true).map fun x => ({ fixedDsts := [g], keeps := false }, s, x)
  | .vlds _ g _ _ => (gatherAct s g (laneAddr s e none) false).map fun x => ({ fixedDsts := [g], keeps := false }, x)
  | .vldx _ g _ x => (gatherAct s g (laneAddr s e (some (BitVec.ofNat 6 x.toNat))) false).map fun y =>
      ({ fixedSrcs := [BitVec.ofNat 6 x.toNat], fixedDsts := [g], keeps := false }, y)
  | .vbcast _ g _ => (gatherAct s g (fun _ => e.x) true).map fun x => ({ fixedDsts := [g], keeps := false }, x)
  | .slmerge _ g _ _ => some ({ fixedDsts := two g, useMask := false, keeps := false, types := fun t => decide (t < 2) }, s,
      .slmerge g s.ctx.t 0, e.accs, false)
  | _ => none

/-- The unmasked bits of a vector's cells as store parts (R253): masked bytes are not written. -/
def rawParts (s : State) (g : GOp) (accs : List Acc) : List StPart :=
  (accs.mapIdx fun j acc => (⟨acc, cellMask s.ctx.t s.ctx.vtMask j, nthD (s.ctx.readOp g) j 0⟩ : StPart)).filter
    fun q => q.mask != 0

/-- What a started VST writes (R149, R253). -/
def vstOut (s : State) (e : QEntry) (g : GOp) (imm : BitVec 9) : Option (List StPart × Fl) :=
  match s.vmForm e (rowAddr e.x imm) with
  | .trap _ => none
  | .raw accs => some (rawParts s g accs, 0)
  | .conv _ fmt off accs => some (((s.vstParts g fmt off accs).1.filter fun q => q.mask != 0), (s.vstParts g fmt off accs).2)

/-- What a started strided or indexed store writes, ascending (R256). -/
def scatterOut (s : State) (g : GOp) (addr : Nat → Word) : Option (State × List StPart × Fl) :=
  match s.lanes .write addr s.ctx.activeLanes [] with
  | (s1, some (.inr as)) => some (s1, as.map fun x =>
      ⟨x.2, cellMask s.ctx.t s.ctx.vtMask x.1, nthD (s.ctx.readOp g) x.1 0⟩, 0)
  | _ => none

/-- A started grid store whose checks pass. -/
def gridStore (s : State) (e : QEntry) : Instr → Option (VSpec × State × List StPart × Fl)
  | .vst _ g _ _ i => (vstOut s e g i).map fun x => ({ fixedSrcs := [g], keeps := false }, s, x)
  | .vsts _ g _ _ => (scatterOut s g (laneAddr s e none)).map fun x => ({ fixedSrcs := [g], keeps := false }, x)
  | .vstx _ g _ x => (scatterOut s g (laneAddr s e (some (BitVec.ofNat 6 x.toNat)))).map fun y =>
      ({ fixedSrcs := [g, BitVec.ofNat 6 x.toNat], keeps := false }, y)
  | .sldep _ g _ _ => some ({ fixedSrcs := two g, useMask := false, keeps := false, types := fun t => decide (t < 2) }, s,
      (e.accs.zip (two g)).map fun x => ⟨x.1, BitVec.allOnes 64, BitVec.ofNat 64 (rawEl s.ctx s.ctx.t x.2 0)⟩, 0)
  | _ => none

/-- A started memory word whose own checks fail: its trap, and the package after its translations (R236, R241, R256). -/
def gridTrap (s : State) (e : QEntry) : Instr → Option (VSpec × State × Trap)
  | .vld _ g _ _ i => formTrap [] [g] i
  | .vldFeKeep _ g _ i => formTrap [] [g] i
  | .vldFeClear _ g _ i => formTrap [] [g] i
  | .vst _ g _ _ i => formTrap [g] [] i
  | .vlds _ g _ _ => laneTrap [] [g] .read (laneAddr s e none)
  | .vldx _ g _ x => laneTrap [BitVec.ofNat 6 x.toNat] [g] .read (laneAddr s e (some (BitVec.ofNat 6 x.toNat)))
  | .vbcast _ g _ => laneTrap [] [g] .read (fun _ => e.x)
  | .vsts _ g _ _ => laneTrap [g] [] .write (laneAddr s e none)
  | .vstx _ g _ x => laneTrap [g, BitVec.ofNat 6 x.toNat] [] .write (laneAddr s e (some (BitVec.ofNat 6 x.toNat)))
  | .gsld _ n o => spillTrap [] [hRow n.toNat] o
  | .gsst _ n o => spillTrap [hRow n.toNat] [] o
  | _ => none
where
  formTrap (ss ds : List GOp) (imm : BitVec 9) : Option (VSpec × State × Trap) :=
    match s.vmForm e (rowAddr e.x imm) with
    | .trap t => some ({ fixedSrcs := ss, fixedDsts := ds, keeps := false }, s, t)
    | _ => none
  laneTrap (ss ds : List GOp) (want : Want) (addr : Nat → Word) : Option (VSpec × State × Trap) :=
    match s.lanes want addr s.ctx.activeLanes [] with
    | (s1, some (.inl t)) => some ({ fixedSrcs := ss, fixedDsts := ds, keeps := false }, s1, t)
    | _ => none
  spillTrap (ss ds : List GOp) (o : BitVec 14) : Option (VSpec × State × Trap) :=
    if 1024 * s.ctx.gran < 8 * o.toNat + 128 then
      some ({ fixedSrcs := ss, fixedDsts := ds, useVt := false, useMask := false, keeps := false }, s,
        ⟨13, BitVec.ofNat 64 (8 * o.toNat), 0⟩)
    else none

/-- The words that only mark a place in a station's queue (R257, R258, R294): S has made their change at the forwarding. -/
def markerRow : Instr → Option Station
  | .sset .. => some .v
  | .sbind .. => some .v
  | .sunbind .. => some .v
  | .mset .. => some .m
  | .cset .. => some .c
  | _ => none

/-- The entry that stands at a station. -/
def standing (s : State) (st : Station) : Option QEntry :=
  match st with
  | .v => s.ctx.active
  | .m => s.ctx.mact
  | .c => s.ctx.cact
  | .s => none

/-- The context with a station free. -/
def freed (c : Ctx) (st : Station) : Ctx :=
  match st with
  | .v => { c with active := none }
  | .m => { c with mact := none }
  | .c => { c with cact := none }
  | .s => c

/-- A generator word at S (R257, R258): its row, the trap that its checks give, and the generator's new value. -/
structure GRow where
  q : QRow
  n : BitVec 2
  bad : Ctx → Option Nat
  new : Ctx → Gen → Gen

/-- SSET, SBIND and SUNBIND at S. -/
def genWord : Instr → Option GRow
  | .sset p n a b => some
      { q := { p := p, st := .v, scal := [a, b] }, n := n,
        bad := fun c =>
          if c.rows = 0 then some 3
          else if 12 ≤ (c.reg a).toNat / 2 ^ 58 % 16 ∨ 2 ^ 62 ≤ (c.reg a).toNat ∨ (c.reg a).toNat % 16 ≠ 0 ∨
            (c.reg b).toNat % 16 ≠ 0 ∨ (c.gen n.toNat).bound = true then some 4 else none,
        new := fun c _ =>
          { base := (c.reg a).setWidth 57, stride := (c.reg b).setWidth 32, count := (c.reg b).extractLsb' 32 32, pos := 0,
            ipos := 0, dir := (c.reg a).getLsbD 57, type := (c.reg a).extractLsb' 58 4, bound := false } }
  | .sbind p n => some
      { q := { p := p, st := .v }, n := n,
        bad := fun c => if c.rows < 13 + n.toNat then some 3 else if (c.gen n.toNat).bound = true then some 4 else none,
        new := fun _ g => { g with bound := true } }
  | .sunbind p n => some
      { q := { p := p, st := .v }, n := n, bad := fun c => if c.rows = 0 then some 3 else none,
        new := fun _ g => { g with bound := false } }
  | _ => none

/-- The context after a generator word is queued (R257 to R259): the entry keeps what its generator held, the generator has its
new value, and every issue position counts what is outstanding again. -/
def genQueued (s : State) (i : Instr) (r : GRow) : Ctx :=
  let c := queued s i r.q
  ({ c with
      vq := c.vq.map fun e => if e.id = s.ctx.nextId then { e with gold := some (s.ctx.gen r.n.toNat) } else e,
      gens := s.ctx.gens.set r.n.toNat (r.new s.ctx (s.ctx.gen r.n.toNat)) (by have := r.n.isLt; omega) } : Ctx).reIpos

/-! ### Serialising words and their ends -/

/-- The package with the tokens of an S word popped. -/
def popped (p : Dep) (s : State) : State := s.withCtx (s.ctx.popToks .s p)

/-- The package `t`, in which a word of S has had its effect, as the word retires: the next pc, the counts, S's cycle. -/
def retiring (pc : Word) (t : State) : State :=
  issued t { t.ctx with pc := pc, retired := t.ctx.retired + 1, nextId := t.ctx.nextId + 1, heldAt := none }

/-- The same, for a word that completes as it retires: its own tokens are pushed (R28). -/
def finished (p : Dep) (s t : State) : State :=
  retiring (s.ctx.pc + 4) (t.withCtx (t.ctx.complete .s t.ctx.nextId (pushesOf .s p)))

/-- A serialising word can run (R315): it can issue, reads nothing early, and every earlier LS access has taken effect. -/
def CanSerialise (p : Dep) (srcs : List SReg) (s : State) : Prop :=
  CanIssue p s ∧ Settled srcs s ∧ s.ctx.ldaWait = false ∧ (popped p s).ctx.lsQuiet = true

/-- A serialising word ends with the result `v` (R79, R315): it lands after a variable latency, and S issues nothing before. That
of a word on its own core's entries is there at a trap (log entry 84). -/
def serialDone (i : Instr) (p : Dep) (d : SReg) (v : Word) (s t : State) : State :=
  retiring (s.ctx.pc + 4) ((delayed t).withCtx { t.ctx with
    pend := t.ctx.pend ++ [{ Pend.mk0 t.ctx.nextId .s t.ctx.pc with
      word := some i, due := some (arrival t), fixed := (match i with | .wtdis .. | .cntwait .. => true | _ => false),
      dsts := if d = 0 then [] else [.s d], wr := [.s d v], push := pushesOf .s p }],
    block := .landing t.ctx.nextId, blockedAt := t.now })

/-- A serialising word waits for a result from outside the core (R315): its destination is pending and the context blocked. -/
def awaiting (i : Instr) (p : Dep) (d : SReg) (b : Block) (t : State) : State :=
  t.withCtx { t.ctx with
    pend := t.ctx.pend ++ [{ Pend.mk0 t.ctx.nextId .s t.ctx.pc with
      word := some i, act := .remote, dsts := if d = 0 then [] else [.s d], wr := [.s d 0], push := pushesOf .s p }],
    block := b, blockedAt := t.now }

/-- Accesses that are made at once can be (R363, R365, R371): no frame has changed its generation, and no sector that the die
lacks is taken at its home. -/
def CanTouch (s : State) (excl : Bool) (accs : List Acc) : Prop :=
  (∀ a ∈ accs, s.genOk a = true) ∧ s.blocked (dieOf (s.key / 4)) excl (sectorsOf accs) = false

/-- The package once the die has the sectors of the accesses from their homes (R363). -/
def touched (s : State) (excl : Bool) (accs : List Acc) : State := s.ownAll (dieOf (s.key / 4)) excl (sectorsOf accs)

/-- The four doublewords at `a` pass the checks of S (R131, R240). -/
def RecordSpan (s : State) (a : Word) (accs : Vector Acc 4) : Prop :=
  ∀ j : Fin 4, s.chkS (a + BitVec.ofNat 64 (8 * j)) 8 8 .read .none 0 = .ok accs[j]

/-- The record at `a` can be read (R131, R371, R418): the package after the read is `t`, and it is the record `r`. -/
def RecordAt (s : State) (a : Word) (t : State) (r : Rec) : Prop :=
  ∃ accs : Vector Acc 4, RecordSpan s a accs ∧ CanTouch s false accs.toList ∧ t = touched s false accs.toList ∧ t.bad = [] ∧
    r = recOfNat (leNat (accs.toList.flatMap fun x => t.mem.readBytes x.loc x.len))

/-- A word on the group of a handle (R323): homes 0 to 4, 4,096 numbers each, and the group lives. -/
def names (s : State) (h : Word) (g : Nat) : Prop :=
  h.toNat = g ∧ g < 5 * 4096 ∧ (mgetD s.groups g Group.reset).live = true

/-- The open phase of the group `gk`, with its arrivals `g.arr` as many as it needs, has completed (R139): the phase number has
gone up, the arrivals that had come for the next phase have opened it, and each context that waited with an arrival in it has
the phase it waited for as its result. -/
def PhaseDone (s t : State) (gk : Nat) (g : Group) : Prop :=
  mgetD t.groups gk Group.reset = { g with
    phase := (g.phase + 1) % 2 ^ 32, isOpen := !g.next.isEmpty, need := if g.next.isEmpty then g.need else g.members.length,
    members := g.members.map fun m => (m.1, false), arr := g.next, next := [] } ∧
  ∀ k c id home num p d v, s.ctxAt k = some c → c.waitNow = .gbar id home num g.phase → home * 4096 + num = gk →
    c.uid ∈ g.arr → c.pendOf id = some p → p.wr = [.s d v] →
    ∃ c', t.ctxAt k = some c' ∧ c'.waitNow = .landing id ∧
      (c'.pendOf id).map (fun q => (q.due, q.wr)) = some (some s.now, [.s d (BitVec.ofNat 64 g.phase)])

/-- What comes of a group `g` whose count of arrivals or need has changed (R139): it stands so while its phase is not open or
lacks an arrival; the phase completes where it has as many as it needs, the next one not being complete as well. -/
def PhaseGoes (s t : State) (gk : Nat) (g : Group) : Prop :=
  (g.isOpen = false ∨ g.arr.length < (if g.fixed then g.n else g.need) → t = { s with groups := mput s.groups gk g }) ∧
  (g.isOpen = true → g.arr.length = (if g.fixed then g.n else g.need) →
    (g.next = [] ∨ g.next.length < (if g.fixed then g.n else g.members.length)) → PhaseDone s t gk g)

/-- A record spawned by the focused context (R132, R319): on the core's ready list where it is local and fewer than 16 local
records stand there, else at the tail of its die's queue of its priority; none where that queue is full. -/
def spawned (q : QRec) (s : State) : Option State :=
  if q.r.flags.toNat / 8 % 2 = 1 ∧ ((mgetD s.cores (s.key / 4) Core.reset).ready.countP fun x => x.entry.isNone) < 16 then
    some { s with cores := mupd s.cores (s.key / 4) Core.reset fun c => { c with ready := c.ready ++ [⟨q, none⟩] } }
  else s.pushRunq (8 * dieOf (s.key / 4) + q.r.flags.toNat % 8) q

/-! ### Serving words -/

/-- The generation descriptor that `va` names passes its checks (R206, R215, R325): the package after the translation, the
hub's view of the environment, the descriptor's location. -/
def Descriptor (s : State) (i : Instr) (va : Word) (s1 : State) (h : Hub) (d : Nat) : Prop :=
  ∀ k, s.onDesc i va k = k s1 h d

/-- The request block that `va` names passes its checks (R327). -/
def PxRequest (s : State) (i : Instr) (va : Word) (limit : Nat) (uses : Bool) (s1 : State) (h : Hub) (r : PxReq) : Prop :=
  ∀ k, s.onPx i va limit uses k = k s1 h r

/-- A field of a generation descriptor (R206). -/
def field (s : State) (d off n : Nat) : Nat := s.mem.readLE (d + off) n

/-- A descriptor at `d`, named `va`, begins the capture of a call (R209, R210): tprod becomes `p`, the holdback and the captured
count are empty, the state is 1, and no bytes of this call are lost. -/
def callOpened (s : State) (h : Hub) (va d p : Nat) : State :=
  let s1 := ((((s.memWrite (d + 76) (leBytes (p % 2 ^ 32) 4)).memWrite (d + 2) [0]).memWrite (d + 3) [0]).memWrite
    (d + 4) [0, 0, 0]).memWrite (d + 1) [1]
  { s1.memWrite (d + 100) [0, 0, 0, 0] with cut := s1.cut.filter (· != (h.asid, va)) }

/-- Text has gone into the ring of the descriptor at `d` (R209, R210): tprod becomes `p`, and the bytes still held are `hb`. -/
def textKept (s : State) (d p : Nat) (hb : HoldBack) : State :=
  (((s.memWrite (d + 76) (leBytes (p % 2 ^ 32) 4)).memWrite (d + 2) (leBytes hb.held.length 1)).memWrite
    (d + 3) (leBytes hb.need 1)).memWrite (d + 4) (leBytes (leNat hb.held) 3)

/-- The call of the descriptor at `d`, named `va`, closes with future `f` (R212): the descriptor names the entry and its new
generation in state 2, the entry is pending with its timer of tmo microseconds, and the call record waits for a mailbox. -/
def callClosed (s : State) (h : Hub) (env va d f : Nat) : State :=
  let x := mgetD s.futures f Future.reset
  let g : BitVec 16 := if x.gen = 65535 then 1 else x.gen + 1
  let s1 := ((s.memWrite (d + 104) (leBytes f 2)).memWrite (d + 106) (leBytes g.toNat 2)).memWrite (d + 1) [2]
  let record := leBytes f 2 ++ leBytes g.toNat 2 ++ leBytes (field s1 d 0 1 % 8) 1 ++
    leBytes (if (h.asid, va) ∈ s.cut then 1 else 0) 1 ++ [0, 0] ++ leBytes (field s1 d 100 4) 4 ++ leBytes (field s1 d 108 4) 4 ++
    leBytes va 8 ++ leBytes (field s1 d 88 8) 8 ++ leBytes h.asid 4 ++ List.replicate 28 0
  { s1 with
    futures := mput s1.futures f { x with
      state := .pending, gen := g, desc := BitVec.ofNat 64 va, env := env, parked := none, inj := none, again := none,
      timer := if field s d 108 4 = 0 then none else some (s.now + 1800 * field s d 108 4) },
    calls := s1.calls ++ [⟨record⟩], cut := s1.cut.filter (· != (h.asid, va)) }

/-- The record that FWAIT parks (R213): the next word, s2 as its frame, the context's own priority and allocation. -/
def parkedRec (s : State) : QRec :=
  { r := { code := s.ctx.pc + 4, frame := s.ctx.reg 2, join := 0, flags := BitVec.ofNat 8 s.ctx.prio,
           rows := BitVec.ofNat 8 s.ctx.rows, gran := BitVec.ofNat 16 s.ctx.gran, parent := 0 },
    env := s.ctx.env }

/-- A matched block is used (R219, R221): its entry gains a pin, up to 65,535 with the overflow counted, and the new stamp; its
block gains a reference. -/
def useBlock (st : Nat) (s : State) (m : Nat × Nat) : State :=
  let e := mgetD s.index m.1 Prefix.reset
  let s1 := if e.pins = 65535 then s.count 0x120 1 else s
  ({ s1 with index := mput s1.index m.1 { e with pins := Min.min 65535 (e.pins + 1), stamp := st } }).refUp m.2

/-- Entry `e` of the index holds this hash of a vocabulary and an address space (R219). -/
def indexed (s : State) (hash : Word) (slot asid e : Nat) : Prop :=
  let x := mgetD s.index e Prefix.reset
  e < 64 ∧ x.valid = true ∧ x.hash = hash ∧ x.vocab = slot ∧ x.asid = asid

/-- The lowest free entry of the index (R220). -/
def lowestFree (s : State) (e : Nat) : Prop :=
  e < 64 ∧ (mgetD s.index e Prefix.reset).valid = false ∧ ∀ j < e, (mgetD s.index j Prefix.reset).valid = true

/-- The entry that a full index gives up (R220): no pins, the oldest stamp, the lowest number among equals. -/
def givenUp (s : State) (e : Nat) : Prop :=
  let x := mgetD s.index e Prefix.reset
  e < 64 ∧ x.pins = 0 ∧ (∀ j < 64, (mgetD s.index j Prefix.reset).valid = true) ∧
  ∀ j < 64, (mgetD s.index j Prefix.reset).pins = 0 →
    x.stamp < (mgetD s.index j Prefix.reset).stamp ∨ x.stamp = (mgetD s.index j Prefix.reset).stamp ∧ e ≤ j

/-- The header of a block at `d` (R216, R220): the 16 ids, the vocabulary, the hash. -/
def headed (s : State) (d slot : Nat) (hash : Word) (ids : List (BitVec 32)) : State :=
  ((s.memWrite d (ids.flatMap fun v => leBytes v.toNat 4)).memWrite (d + 66) [BitVec.ofNat 8 slot]).memWrite (d + 72)
    (leBytes hash.toNat 8)

/-- Entry `e` of the index now holds a block, without a pin, and the block at `d` gains a reference (R220, R221). -/
def entryMade (s : State) (e d : Nat) (hash block : Word) (slot asid st : Nat) : State :=
  let x : Prefix := { valid := true, hash := hash, vocab := slot, asid := asid, block := block, pins := 0, stamp := st }
  ({ s with index := mput s.index e x } : State).refUp d

/-- A named block is released (R220, R221): its entry loses a pin, one below none being counted, and its block a reference. -/
def releaseBlock (s : State) (m : Nat × Nat) : State :=
  let e := mgetD s.index m.1 Prefix.reset
  let s1 := if e.pins = 0 then s.count 0x120 1 else s
  ({ s1 with index := mput s1.index m.1 { e with pins := e.pins - 1 } }).refDown m.2 e.block

/-! ### Control registers -/

/-- The value of a control register as RDCSR reads it (R19 to R23, R184, R238, R381); none for a number of no table. -/
def csrValue (s : State) (n : Nat) : Option Word :=
  let c := s.ctx
  let bit (b : Bool) : Nat := if b then 1 else 0
  let head : Afr := c.afr.headD ⟨0, 0, 0, 0, none, none⟩
  match n with
  | 0x00 => some c.fpsr
  | 0x01 => some (BitVec.ofNat 64 c.vt.toNat)
  | 0x02 => some c.cnt0
  | 0x03 => some c.tok0
  | 0x04 => some (c.portStatus true)
  | 0x05 => some (BitVec.ofNat 64 (c.rows + 2 ^ 5 * c.gran + 2 ^ 11 * (s.key % 4)))
  | 0x06 => some (BitVec.ofNat 64 (bit c.gens[0].bound + 2 * bit c.gens[1].bound + 4 * bit c.gens[2].bound + 8 * bit c.gens[3].bound))
  | 0x08 => some (BitVec.ofNat 64 s.now)
  | 0x09 => some c.retired
  | 0x10 => some (BitVec.ofNat 64 (bit c.erc + 2 * bit c.priv + 4 * bit c.saved))
  | 0x80 => some c.tvec
  | 0x81 => some c.epc
  | 0x82 => some c.cause
  | 0x83 => some c.tval
  | 0x84 => some c.tinfo
  | 0x85 => some c.scr0
  | 0x86 => some c.scr1
  | 0x88 => some c.root
  | 0x89 => some c.asid
  | 0x8A => some head.w0
  | 0x8B => some head.w1
  | 0x8C => some head.w2
  | 0x8D => some head.w3
  | 0x8E => some 0
  | 0x90 => some 0
  | 0x91 => some c.derr
  | 0x92 => some c.capsign
  | _ => none

/-- What a WRCSR of a register with a plain landing writes (R22, R239, R381): fpsr, or a privileged register. -/
def plainCsr (n : Nat) : Bool := n == 0 || [0x80, 0x81, 0x85, 0x86, 0x88, 0x89, 0x91].contains n

/-- The pending record of a WRCSR (R239): its write lands in the next cycle. -/
def csrRecord (s : State) (i : Instr) (p : Dep) (ds : List Dst) (ws : List Wr) : Pend :=
  { Pend.mk0 s.ctx.nextId .s s.ctx.pc with
    word := some i, due := some (s.now + 1), fixed := true, dsts := ds, wr := ws, push := pushesOf .s p }

/-- The package after a WRCSR with the writes `ws` whose own effect gave `t`. -/
def csrWritten (s t : State) (i : Instr) (p : Dep) (ds : List Dst) (ws : List Wr) : State :=
  retiring (s.ctx.pc + 4) (t.withCtx { t.ctx with pend := t.ctx.pend ++ [csrRecord s i p ds ws] })

/-- The records of asynchronous faults without their head (R384). -/
def popRecord (c : Ctx) : Ctx := { c with afr := c.afr.drop 1 ++ c.afrWait.take 1, afrWait := c.afrWait.drop 1 }

/-- The context as ERET returns to its program (R83, R331, R384, R388): what was abandoned into the replay list is pending and
counted again, and due at once, but for a result that is still outside the core; what a late refusal held goes on where no record
names it any more, and so does an engine entry without a record. -/
def returned (now : Nat) (c : Ctx) : Ctx :=
  let held (id : Nat) : Bool := (c.afr ++ c.afrWait).any fun r => r.held == some id
  let fresh (p : Pend) : Pend := { p with due :=
    if p.act = .remote then none else if p.ctr = none then some (Nat.max now (p.due.getD now)) else some now }
  let pend := c.replay.map fresh ++ c.pend.map fun p =>
    if p.late && !(held p.id) then { p with late := false, anew := true, due := some now } else p
  let on (e : QEntry) : QEntry :=
    if e.susp && !((c.afr ++ c.afrWait).any fun r => r.entry == some e.id) then { e with susp := false } else e
  let counted (k : Ctr) : Nat := c.replay.countP fun p => p.ctr == some k
  { c with
    pc := c.epc, priv := false, entry := none, hid := none, replay := [], pend := pend,
    lc := c.lc + counted .lc, sc := c.sc + counted .sc, cc := c.cc + counted .cc, tc := c.tc + counted .tc,
    stores := c.stores.map fun p => if p.late && !(held p.id) then { p with late := false, anew := true, due := some now } else p,
    hwait := .none,
    block := match c.hwait with
      | .landing id => if pend.any (·.id == id) then .landing id else .none
      | b => b,
    min := c.min.map on, cact := c.cact.map on }

/-! ### Commands of M and C -/

/-- The effect of the command `e` of berth `k` at engine `en` is whole (R185, R191): the engine completes it after a variable
time, and what it returns is noted in its record. -/
def engineRan (en k : Nat) (e : QEntry) (ws : List Wr) (t : State) : State :=
  { (({ delayed t with
        engines := mupd t.engines en Engine.reset fun g => { g with ran := true, doneAt := arrival t } } : State).updCtx k fun c =>
      { c with pend := c.pend.map fun p => if p.id = e.id then { p with wr := ws } else p }) with turn := .sched }

/-- The accepted command `id` of a context stands at the progress point `n` (R384). -/
def atPoint (id : Nat) (susp : Bool) (n : Nat) (c : Ctx) : Ctx :=
  { c with min := c.min.map fun x =>
      if x.id = id then { x with susp := susp, begun := true, prog := BitVec.ofNat 64 n } else x }

/-- The command goes on from its next chunk or row after a variable time (R185, R192). -/
def engineGoesOn (en k : Nat) (e : QEntry) (n : Nat) (t : State) : State :=
  { (delayed t).updCtx k (atPoint e.id false n) with
    engines := mupd ((delayed t).updCtx k (atPoint e.id false n)).engines en Engine.reset fun g => { g with doneAt := arrival t },
    turn := .sched }

/-- After a chunk or row of `all`: the next, or the end (R185, R192). -/
def engineStep (en k : Nat) (e : QEntry) (n all : Nat) (t : State) : State :=
  if n < all then engineGoesOn en k e n t else engineRan en k e [] t

/-- The path of a matrix command (R48, R89): MD for MDRAIN, MT for the others. -/
def matrixPath : Option Instr → Nat
  | some (.mdrain ..) => 3
  | _ => 2

/-- The issuer's turn at its engine is over (R191): it stands last in the rotation, or is out of it with nothing accepted there. -/
def turnOver (en : Nat) (c : Ctx) (g : Engine) : Engine :=
  { g with
    rot := g.rot.filter (· != c.uid) ++ if (c.min.filter fun x => capObj x.cap == en).isEmpty then [] else [c.uid],
    serving := none, ran := false }

/-- The command has been suspended on a fault (R192, R384): it stands at its engine with its progress, a record is posted with the
command's position in M's queue, and the next issuer has its turn. -/
def engineHeld (en k : Nat) (e : QEntry) (f : Trap) (n : Nat) (t : State) : State :=
  let s1 := t.updCtx k fun c => (atPoint e.id true n c).postAfr
    (engAfr (matrixPath e.word) ((c.min ++ c.mact.toList ++ c.mq).findIdx fun x => x.id == e.id) f (BitVec.ofNat 64 n) e.word e.id)
  { s1 with
    engines := mupd s1.engines en Engine.reset fun g => match s1.ctxAt k with
      | some c => turnOver en c g
      | none => { g with serving := none, ran := false },
    turn := .sched }

/-- A translation was refused again (R371): the command tries its chunk or row again in the next cycle. -/
def engineAgain (en k : Nat) (e : QEntry) (n : Nat) (t : State) : State :=
  { t.updCtx k (atPoint e.id false n) with
    engines := mupd (t.updCtx k (atPoint e.id false n)).engines en Engine.reset fun g => { g with doneAt := t.now + 1 },
    turn := .sched }

/-- The banks `b` to `b + n − 1`. -/
def bankRun (b n : Nat) : List Nat := (List.range n).map (b + ·)

/-- Bank `b` begins the lowest run of `n` free banks of an engine (R185). -/
def lowestRun (g : Engine) (n b : Nat) : Prop :=
  b + n ≤ 256 ∧ (∀ i < n, mget g.owner (b + i) = none) ∧ ∀ b' < b, ∃ i < n, (mget g.owner (b' + i)).isSome = true

/-- The setup of a matrix command is invalid (R186, R295 to R300): its shape, formats, strides, place, scales, owner or map. -/
def setupWrong (e : QEntry) : Instr → Prop
  | .mballoc .. => 2 ^ 15 ≤ e.ms 7 ∨ 4 < e.ms 7 / 2 ^ 12
  | .mmac .. => shapeWrong e ∨
      (e.ms 1 % 16, e.ms 1 / 16 % 16, e.ms 1 / 256 % 4) ∉
        [(2, 2, 0), (3, 3, 0), (4, 4, 0), (4, 5, 0), (5, 4, 0), (5, 5, 0), (10, 10, 2), (4, 6, 0), (5, 6, 0), (10, 6, 0),
         (10, 6, 2), (4, 11, 0), (5, 11, 0), (1, 1, 0), (0, 0, 1)] ∨
      2 ^ 32 ≤ e.ms 2 ∨ 2 ^ 32 ≤ e.ms 3 ∨ 2 ^ 12 ≤ e.ms 6 ∨ e.x.toNat % 16 ≠ 0 ∨ e.y.toNat % 16 ≠ 0 ∨ e.ms 3 % 16 ≠ 0 ∨
      (1 < e.mM ∧ e.ms 2 % 16 ≠ 0) ∨
      (e.ms 1 / 1024 % 4 = 0 ↔ e.ms 1 / 2 ^ 13 % 4 ≠ 0) ∨
      (e.ms 1 / 1024 % 4 ≠ 0 ∧ e.mK % (16 * 2 ^ (e.ms 1 / 1024 % 4)) ≠ 0) ∨
      (e.ms 1 / 2 ^ 13 % 2 = 1 ∧ (8 < tyWidth (e.ms 1 % 16) ∨
        e.ms 1 / 2 ^ 12 % 2 = 0 ∧ (e.x + BitVec.ofInt 64 (sInt 32 (e.ms 5 % 2 ^ 32))).toNat % 2 ≠ 0)) ∨
      (e.ms 1 / 2 ^ 14 % 2 = 1 ∧ (8 < tyWidth (e.ms 1 / 16 % 16) ∨
        e.ms 1 / 2 ^ 12 % 2 = 0 ∧ (e.y + BitVec.ofInt 64 (sInt 32 (e.ms 5 / 2 ^ 32 % 2 ^ 32))).toNat % 2 ≠ 0))
  | .mdrain .. => shapeWrong e ∨ ∃ b, 16 * b < e.mM ∧
      (2 ^ 54 ≤ e.ms (8 + b) ∨ 1279 < e.ms (8 + b) % 2 ^ 11 ∨ e.ms (8 + b) / 2 ^ 11 % 16 ≠ 0 ∨ e.ms (8 + b) / 2 ^ 30 % 4 = 3 ∨
       (e.ms (8 + b) / 2 ^ 30 % 4 = 2 ∧ e.ms (8 + b) / 2 ^ 38 % 2 ^ 16 = 0) ∨
       2 ^ 19 < e.ms (8 + b) / 2 ^ 11 % 2 ^ 19 + Nat.min 16 (e.mM - 16 * b) * e.mN * accBytes e.mAcc)
  | .mfill .. => shapeWrong e ∨ 2 ^ 12 ≤ e.ms 6 ∨ e.x.toNat % 16 ≠ 0 ∨ e.y.toNat % 16 ≠ 0
  | _ => False
where
  shapeWrong (e : QEntry) : Prop :=
    e.mM = 0 ∨ 128 < e.mM ∨ e.mN = 0 ∨ 128 < e.mN ∨ e.mK % 32 ≠ 0 ∨ e.mK < 32 ∨ 4096 < e.mK ∨ 2 ^ 29 ≤ e.ms 0 ∨
    2 ^ 15 ≤ e.ms 1 ∨ e.ms 1 / 256 % 4 = 3 ∨ 2 ^ 13 ≤ e.ms 4

/-- The banks that a matrix command touches, the first and one past the last (R181, R185), where its operands and setup give
them. -/
def banksTouched (e : QEntry) : Instr → Nat × Nat
  | .mballoc .. => (0, 0)
  | .mbfree .. => (e.x.toNat % 256, e.x.toNat % 256 + e.y.toNat % 512)
  | .mzero .. => (e.x.toNat % 256, e.x.toNat % 256 + e.y.toNat % 512)
  | _ => (e.mBank, e.mBank + (if e.mAcc = 1 then 2 else 1) * ((e.mRow + e.mM + 31) / 32))

/-- The check of a matrix command with refusal code `n` fails at engine `en` (R183, R188). -/
def checkFails (s : State) (en : Nat) (c : Ctx) (e : QEntry) (i : Instr) : Nat → Prop
  | 9 => en ∈ s.retiredEngines
  | 1 => e.cap.toNat / 2 ^ 52 % 16 ≠ 1 ∨ e.cap.getLsbD 31 = true ∨ e.cap.toNat / 2 ^ 36 % 16 ≠ 0 ∨ e.cap.toNat / 2 ^ 56 ≠ 0
  | 2 => Config.capCheck s.resets en (e.cap.extractLsb' 16 48) ≠ e.cap.extractLsb' 0 16
  | 3 => e.cap.getLsbD (match i with | .mballoc .. => 33 | .mdrain .. => 34 | .mbfree .. => 34 | .mfill .. => 35 | _ => 32) = false
  | 4 => (match i with
      | .mbfree .. => e.y.toNat % 512 ≠ 0 ∧ e.y.toNat % 512 ≤ 256
      | .mdrain .. => e.mM ≠ 0 ∧ e.mM ≤ 128 ∧ e.mAcc ≠ 3
      | _ => False) ∧ (banksTouched e i).2 ≤ 256 ∧
    ∃ b o, (banksTouched e i).1 ≤ b ∧ b < (banksTouched e i).2 ∧ mget (s.engine en).owner b = some o ∧
      (o ≠ e.cap.toNat / 2 ^ 16 % 2 ^ 15 ∨
        ∀ m ∈ (mgetD s.groups (e.cap.toNat / 2 ^ 16 % 2 ^ 15) Group.reset).members, m.1 ≠ c.uid)
  | 5 => setupWrong e i
  | 6 => 256 < (banksTouched e i).2 ∨ (match i with | .mmac .. => True | .mzero .. => True | _ => False) ∧
    ∃ b, (banksTouched e i).1 ≤ b ∧ b < (banksTouched e i).2 ∧ mget (s.engine en).owner b = none
  | 7 => (match i with | .mballoc .. => True | _ => False) ∧ e.y.toNat % 512 ≠ 0 ∧ e.y.toNat % 512 ≤ 256 ∧
    ∀ b, ¬ lowestRun (s.engine en) (e.y.toNat % 512) b
  | 8 => match i with
    | .mballoc .. => e.y = 0 ∨ 256 < e.y.toNat
    | .mbfree .. => e.y = 0 ∨ 256 < e.y.toNat ∨ 255 < e.x.toNat
    | .mzero .. => e.y = 0 ∨ 256 < e.y.toNat ∨ 255 < e.x.toNat
    | .mdrain .. => 1 < e.x.toNat ∨ e.y ≠ 0
    | _ => False
  | _ => False

/-- The code of the first check that fails, in the order of R183; 0 where none does. -/
def refusal (s : State) (en : Nat) (c : Ctx) (e : QEntry) (i : Instr) (code : Nat) : Prop :=
  let order := [9, 1, 2, 3, 4, 5, 6, 7, 8]
  (code = 0 ∧ ∀ n ∈ order, ¬ checkFails s en c e i n) ∨
  ∃ before after, order = before ++ code :: after ∧ checkFails s en c e i code ∧ ∀ n ∈ before, ¬ checkFails s en c e i n

/-- A command stands at C (R77). -/
def AtC (s : State) (e : QEntry) : Prop := s.turn = .start .c ∧ s.ctx.cact = some e

/-- The package after a word of C has left its station: C is free. -/
def cLeft (t : State) : State := { t with ctx := { t.ctx with cact := none }, turn := .sched }

/-- COPY and CFILL, with whether it fills. -/
def copyWordOf : Instr → Option Bool
  | .copy .. => some false
  | .cfill .. => some true
  | _ => none

/-- The port status after a refusal (R184): refused set, its code, the count one higher up to 65,535. -/
def refusedStatus (v : Word) (code : Nat) : Word :=
  BitVec.ofNat 64 (v.toNat % 2 + 2 + 4 * (v.toNat / 4 % 64) + 256 * (code % 256) +
    65536 * Nat.min (v.toNat / 65536 % 65536 + 1) 65535)

/-- A copy stands at offset `x.2` of row `x.1` (R384): its progress shows 32 bits of the offset. -/
def copyAt (e : QEntry) (x : Nat × Nat) : QEntry := { e with prog := BitVec.ofNat 64 (x.1 + x.2 * 2 ^ 32), far := x.2 / 2 ^ 32 }

/-- The package `t` while berth `k`'s copy `e` stands at C, its engine's next granule due at `next` (R306). -/
def copyHas (k : Nat) (e : QEntry) (next : Option Nat) (t : State) : State :=
  let u := t.updCtx k fun c => { c with cact := some { e with begun := true, susp := false } }
  { u with cores := mupd u.cores (k / 4) Core.reset fun c => { c with copying := some k, copyAt := next }, turn := .sched }

/-- The last granule has been written: the copy completes after a variable time (R306). -/
def copyEnds (k : Nat) (e : QEntry) (t : State) : State :=
  (copyHas k e none (delayed t)).at_ (arrival t) (.copyComplete k e.id)

/-- A copy's banks are locked for it (R105). -/
def copyLocks (s : State) (e : QEntry) (fill : Bool) : State :=
  (s.unlockBanks (copyHolder s.ctx.uid)).lockBanks (copyHolder s.ctx.uid) (banksOf (e.copyAccs fill (s.key / 4)))

/-- The copy of entry `e` moves the granule at which it stands, if it has any (R306, R310): then the next is due after a variable
time, the copy ends, it tries again in the next cycle, or it is suspended there with its record. -/
def copyGranule (k : Nat) (e : QEntry) (fill : Bool) (t : State) : State :=
  if e.cLen = 0 ∨ e.cRows = 0 then copyEnds k e t
  else
    match t.copyGran k e fill (e.prog.toNat % 2 ^ 32) (e.prog.toNat / 2 ^ 32 + 2 ^ 32 * e.far) with
    | .done u none => copyEnds k e u
    | .done u (some x) => copyHas k (copyAt e x) (some (t.now + 1 + u.delays.headD 0)) (delayed u)
    | .retry u => copyHas k e (some (t.now + 1)) u
    | .susp u f =>
      let v := u.updCtx k fun c =>
        ({ c with cact := some { e with begun := true, susp := true } } : Ctx).postAfr (engAfr 1 0 f e.prog e.word e.id)
      { v with cores := mupd v.cores (k / 4) Core.reset fun c => { c with copying := none, copyAt := none }, turn := .sched }

/-! ### Events -/

/-- The context at its handler's first word (R33, R379), with the state as it stands for a save (R329). -/
def entered (c : Ctx) (cause : Nat) (tval tinfo epc : Word) : Ctx :=
  { c with
    entry := some { id := c.nextId, regs := c.regs, grid := c.grid, masks := c.masks, gens := c.gens, vt := c.vt, ms := c.ms,
                    cs := c.cs, toks := c.toks, fpsr := c.fpsr, erc := c.erc, spill := c.spill, mport := c.mport,
                    retired := c.retired, scr0 := c.scr0, scr1 := c.scr1, root := c.root, asid := c.asid, tvec := c.tvec,
                    derr := c.derr },
    hid := some c.nextId, epc := epc, cause := BitVec.ofNat 64 cause, tval := tval, tinfo := tinfo, priv := true, pc := c.tvec,
    block := .none, heldAt := none }

/-- The head of a station's queue can start (R27, R28, R77, R78): it has stood there since an earlier cycle, its tokens are
there, no push is owed, the context is not halted, and the station's own conditions hold. -/
def HeadReady (s : State) (k : Nat) (st : Station) (c : Ctx) (e : QEntry) (rest : List QEntry) (i : Instr) : Prop :=
  s.ctxAt k = some c ∧ c.queue st = e :: rest ∧ e.word = some i ∧ e.at_ < s.now ∧ c.canPop st e.p = true ∧
  c.owes st = false ∧ c.stopped e.id = false ∧ s.unitFree k c st e i = true

/-- The entry that stands at a station of a context. -/
def atStation (c : Ctx) (st : Station) : Option QEntry :=
  match st with
  | .v => c.active
  | .m => c.mact
  | .c => c.cact
  | .s => none

/-- The pending word `p` of berth `k` may land now (R32, R82, R92). -/
def MayLand (s : State) (k id : Nat) (c : Ctx) (p : Pend) : Prop :=
  s.ctxAt k = some c ∧ c.pendOf id = some p ∧ p.id = id ∧ s.landable (k / 4) c p = true

/-- The store `p` of berth `k` may take effect now (R92, R95, R97). -/
def MayStore (s : State) (k id : Nat) (c : Ctx) (p : PStore) : Prop :=
  s.ctxAt k = some c ∧ (c.stores.find? fun q => q.id == id && s.storable (k / 4) c q) = some p

/-- What an atomic leaves in memory (R247), over whole numbers. -/
def atomicLeaves (op : AmoOp) (old b c : Word) : Nat :=
  match op with
  | .add => (old.toNat + b.toNat) % 2 ^ 64
  | .and => Nat.land old.toNat b.toNat
  | .or => Nat.lor old.toNat b.toNat
  | .xor => Nat.xor old.toNat b.toNat
  | .min => if old.toInt ≤ b.toInt then old.toNat else b.toNat
  | .max => if old.toInt ≤ b.toInt then b.toNat else old.toNat
  | .swap => b.toNat
  | .cas => if old.toNat = c.toNat then b.toNat else old.toNat

/-- The value of a load of `size` bytes (R243). -/
def loadedValue (size : Nat) (sgn : Bool) (n : Nat) : Word :=
  if sgn = true ∧ 2 ^ (8 * size - 1) ≤ n then BitVec.ofInt 64 (n - 2 ^ (8 * size)) else BitVec.ofNat 64 n

/-- No dual-home window mirrors a write of `n` bytes at `loc` (R376). -/
def Unmirrored (s : State) (loc n : Nat) : Prop := ∀ w ∈ s.windows, loc + n ≤ 65536 * w.1 ∨ 65536 * w.1 + 65536 ≤ loc

/-- The access passes its comparison with the frame's record (R371), and is not one that a late refusal sends to a new walk
(R373). -/
def Passes (s : State) (anew : Bool) (a : Acc) : Prop := s.genOk a = true ∧ (anew = true → a.dev = false)

/-- An MSTAT has run and has not landed (R184). -/
def statusOut (c : Ctx) : Bool :=
  c.pend.any fun q => q.due.isSome && match q.word with | some (.mstat ..) => true | _ => false

/-- A record posted among the eight, or held back behind them (R384). -/
def posted (c : Ctx) (r : Afr) : Ctx :=
  if c.afr.length < 8 then { c with afr := c.afr ++ [r] } else { c with afrWait := c.afrWait ++ [r] }

/-- A channel's configuration word as it stands, without err (R194). -/
def chanLow (c : Channel) : Word := c.d0 &&& 0x7FFFFFFFFFFFFFFF

/-- A write that leaves the descriptor `d0`, `d1` is refused (R194, R195): reserved bits, bad fields while enabled, or any change
while the channel is enabled and stays so. -/
def chanRefuses (ch : Nat) (c : Channel) (d0 d1 : Word) : Bool :=
  chanReserved d0 d1 || (d0.getLsbD 26 && (chanBad ch d0 d1 || (c.en && (decide (d0 ≠ chanLow c) || decide (d1 ≠ c.d1)))))

/-! ### Every word of S: what keeps it from issuing -/

/-- The words that S executes itself (R30): their marks, and whether they are privileged (R328 to R331). -/
def issueMarks : Instr → Option (Dep × Bool)
  | .add p _ _ _ | .sub p _ _ _ | .mul p _ _ _ | .mulh p _ _ _ | .mulhu p _ _ _ | .div p _ _ _ | .divu p _ _ _
  | .rem p _ _ _ | .remu p _ _ _ | .and p _ _ _ | .or p _ _ _ | .xor p _ _ _ | .sll p _ _ _ | .srl p _ _ _
  | .sra p _ _ _ | .slt p _ _ _ | .sltu p _ _ _ | .min p _ _ _ | .max p _ _ _ | .minu p _ _ _ | .maxu p _ _ _
  | .clz p _ _ | .ctz p _ _ | .popc p _ _ | .nop p | .addi p _ _ _ | .andi p _ _ _ | .ori p _ _ _ | .xori p _ _ _
  | .slti p _ _ _ | .slli p _ _ _ | .srli p _ _ _ | .srai p _ _ _ | .lui p _ _ | .auipc p _ _ | .fadd p _ _ _
  | .fsub p _ _ _ | .fmul p _ _ _ | .fdiv p _ _ _ | .fsqrt p _ _ | .fmin p _ _ _ | .fmax p _ _ _ | .fcmpeq p _ _ _
  | .fcmplt p _ _ _ | .fcvti p _ _ | .fcvtf p _ _ | .beq p _ _ _ | .bne p _ _ _ | .blt p _ _ _ | .bge p _ _ _
  | .bltu p _ _ _ | .bgeu p _ _ _ | .jal p _ _ | .jalr p _ _ _ | .lb p _ _ _ | .lbu p _ _ _ | .lh p _ _ _
  | .lhu p _ _ _ | .lw p _ _ _ | .lwu p _ _ _ | .ld p _ _ _ | .sb p _ _ _ | .sh p _ _ _ | .sw p _ _ _ | .sd p _ _ _
  | .lda p _ _ _ _ | .stl p _ _ _ _ | .lfe p _ _ _ | .lfec p _ _ _ | .sfe p _ _ _ | .feclr p _ _ _ | .fepoll p _ _ _
  | .amoadd p _ _ _ _ _ | .amoand p _ _ _ _ _ | .amoor p _ _ _ _ _ | .amoxor p _ _ _ _ _ | .amomin p _ _ _ _ _
  | .amomax p _ _ _ _ _ | .amoswap p _ _ _ _ _ | .amocas p _ _ _ _ _ | .fsh p _ _ _ _ | .fence p _ | .xfence p _ _
  | .waitc p _ _ _ _ | .msgw p _ _ _ | .wtarm p _ _ _ | .wtdis p _ _ | .cntwait p _ _ _ | .spawn p _ | .joindec p _ _
  | .retire p | .yield p | .gnew p _ _ | .gjoin p _ | .gleave p _ | .gbar p _ _ | .gbcfg p _ _ | .gfree p _
  | .getid p _ _ | .rdcsr p _ _ | .wrcsr p _ _ | .emit p _ _ _ | .fwait p _ | .pxlook p _ _ | .pxins p _ _
  | .pxrel p _ _ | .cwb p _ _ | .cinv p _ _ | .pref p _ _ | .trap p _ | .brk p | .wfe p | .sld p _ _ | .sst p _ _ => some (p, false)
  | .capld p _ _ | .capclr p _ | .csave p _ | .crestore p _ | .tlbinv p _ | .tlbflush p _ | .eret p => some (p, true)
  | _ => none

/-- A memory word of S that checks one access: its marks, sources and counter, and the address, size, kind and windows of the
access (R240). -/
structure CheckRow where
  p : Dep
  srcs : List SReg
  ctr : Ctr
  addr : State → Word
  size : Nat
  want : Want
  win : Win

/-- The loads, full-empty loads, atomics and stores of R243 to R247. -/
def checkRow (i : Instr) : Option CheckRow :=
  ((loadRow i <|> lfeRow i).map fun r => ⟨r.p, r.srcs, .lc, r.addr, r.size, r.want, r.win⟩) <|>
  ((storeRow i).map fun r => ⟨r.p, r.srcs, .sc, r.addr, r.size, .write, r.win⟩)

/-- The package after a fetch from `pa`: the core's signature names the sector (R155, R362). -/
def copyTaken (s : State) (pa : Nat) : State :=
  if 2 ^ 52 ≤ pa ∨ (barOf pa).isSome = true then s
  else { s with cores := mupd s.cores (s.key / 4) Core.reset fun c =>
    { c with sig := if sigBit pa ∈ c.sig then c.sig else c.sig ++ [sigBit pa] } }

/-- The package while its focused context walks for a translation that its core did not hold (R241). -/
def walking (s : State) (va : Word) (want : Want) : State :=
  { slotted s with ctx := { s.ctx with block := .walk va want 0 } }

/-- The word of the four bytes at a location, the lowest address holding bits 7 to 0 (R26). -/
def word32 (m : Mem) (a : Nat) : IWord := BitVec.ofNat 32 (m.readLE a 4)

/-- A hub counter adds 1, saturating (R417). -/
def counted (o : Nat) (s : State) : State :=
  { s with counters := mput s.counters o (Nat.min (mgetD s.counters o 0 + 1) (2 ^ 64 - 1)) }

/-! ### Futures -/

/-- Entry `id` is freed with the push of its continuation `q` on die `die`, and the descriptor at `d` names no future any more
(R211); a full queue leaves the push held, to be tried again 1 µs later (R132). -/
def continued (id d : Nat) (q : QRec) (die : Nat) (s : State) : State :=
  let f := mgetD s.futures id Future.reset
  let s1 := (s.memWrite (d + 104) [0, 0]).memWrite (d + 1) [0]
  let s2 : State := { s1 with
    futures := mput s1.futures id { f with state := .free, parked := none, timer := none, inj := none, again := none } }
  match s2.pushRunq (8 * die + q.r.flags.toNat % 8) q with
  | some t => t
  | none =>
    if s2.held = [] then ({ s2 with held := [(q, die)] } : State).at_ (s.now + 1800) .continuationPushRetry
    else { s2 with held := s2.held ++ [(q, die)] }

/-- A reply, or the timeout sequence, comes to entry `id` (R211, R214): it is injected, the entry is done, and a continuation that
waits is pushed. Where the injection faults it is held, and the fault posted to the driver (R215). -/
def delivered (id : Nat) (ids : List (BitVec 32)) (timeout : Bool) (s : State) : State :=
  let f := mgetD s.futures id Future.reset
  match s.inject f ids timeout with
  | (t, .ok d) =>
    let g := mgetD t.futures id Future.reset
    let u : State := { t with futures := mput t.futures id { g with state := .done, timer := none, inj := none, again := none } }
    match g.parked with
    | some (q, die) => continued id d q die u
    | none => u
  | (_, .fault z) => { s with
      futures := mput s.futures id { f with timer := none, inj := some (ids, timeout), again := none },
      envFaults := s.envFaults ++ [(f.env, z.cause, z.tval)] }
  | (_, .retry) => { s with
      futures := mput s.futures id { f with timer := none, inj := some (ids, timeout), again := some (s.now + 1) } }

/-- A completion comes to entry `id` (R211, R214): taken where the entry is pending with this generation, holds no injection and
the reply is no longer than 4,096 tokens; else dropped and counted. -/
def futureTakes (id : Nat) (gen : BitVec 16) (ids : List (BitVec 32)) (s : State) : State :=
  let f := mgetD s.futures id Future.reset
  if f.state = .pending ∧ f.gen = gen ∧ f.inj = none ∧ ids.length ≤ 4096 then delivered id ids false s else counted 0x100 s

/-! ### Harts -/

/-- A word with listed bits put at given values. -/
def bitsPut (w : Word) (l : List (Nat × Bool)) : Word :=
  l.foldl (fun w b => if b.2 then w ||| BitVec.twoPow 64 b.1 else w &&& ~~~(BitVec.twoPow 64 b.1)) w

/-- A hart's exception (R389, log entry 89): M-mode takes it unless medeleg hands it down, then HS-mode unless a guest's
hedeleg hands it on; the status word of the mode that takes it keeps what it came from. -/
def hartTraps (t : Hart) (x : HTrap) : Hart :=
  let gva := t.virt && [0, 1, 3, 4, 5, 6, 7, 12, 13, 15, 20, 21, 23].contains x.cause
  let code := BitVec.ofNat 64 x.cause
  if t.mode = 3 ∨ t.medeleg.getLsbD x.cause = false then
    { t with
      mepc := t.pc, mcause := code, mtval := x.tval, mtval2 := BitVec.ofNat 64 (x.gpa / 4), pc := t.mtvec &&& ~~~3#64, mode := 3,
      virt := false,
      mstatus := bitsPut t.mstatus
        [(3, false), (7, t.mstatus.getLsbD 3), (11, t.mode.testBit 0), (12, t.mode.testBit 1), (38, gva), (39, t.virt)] }
  else if t.virt ∧ t.hedeleg.getLsbD x.cause then
    { t with
      vsepc := t.pc, vscause := code, vstval := x.tval, pc := t.vstvec &&& ~~~3#64, mode := 1,
      vsstatus := bitsPut t.vsstatus [(1, false), (5, t.vsstatus.getLsbD 1), (8, t.mode != 0)] }
  else
    { t with
      sepc := t.pc, scause := code, stval := x.tval, htval := BitVec.ofNat 64 (x.gpa / 4), pc := t.stvec &&& ~~~3#64, mode := 1,
      virt := false, mstatus := bitsPut t.mstatus [(1, false), (5, t.mstatus.getLsbD 1), (8, t.mode != 0)],
      hstatus := bitsPut t.hstatus
        [(6, gva), (7, t.virt), (8, if t.virt then t.mode != 0 else t.hstatus.getLsbD 8)] }

/-- The package with a hart's registers replaced. -/
def hartHas (h : Nat) (t : Hart) (s : State) : State := { s with harts := mput s.harts h t }

/-- A hart's custom word ends with the hart's registers `t`; a reservation that the word's own writes ended stays ended (R110). -/
def hartEnds (h : Nat) (t : Hart) (s : State) : State :=
  { s with turn := .sched, harts := mput s.harts h { t with resv := (mgetD s.harts h Hart.reset).resv } }

/-- Firmware has released hart `h` of the 64, and it is not retired (R410, R420). -/
def released (s : State) (h : Nat) : Prop := h < 64 ∧ (s.boot.phase = 1 ∨ s.boot.phase = 2) ∧ h ∉ s.retiredHarts

/-- The sectors of the `n` bytes at `pa`. -/
def sectorsAt (pa n : Nat) : List Nat := sectorsOf [⟨0, pa, n, 0, false⟩]

/-- What a hart's atomic of `n` bytes leaves (R390), over whole numbers: of the old bytes' number and the register's. -/
def hartAtomic (op : HAmo) (n old v : Nat) : Nat :=
  let m := 2 ^ (8 * n)
  let b := v % m
  let neg (x : Nat) : Int := if 2 * x < m then x else (x : Int) - m
  match op with
  | .swap => b
  | .add => (old + b) % m
  | .xor => Nat.xor old b
  | .and => Nat.land old b
  | .or => Nat.lor old b
  | .min => if neg old ≤ neg b then old else b
  | .max => if neg b ≤ neg old then old else b
  | .minu => Nat.min old b
  | .maxu => Nat.max old b

/-! ### Pages -/

/-- The lowest bit of an address that a table of the level indexes, and how many bits do (R368). -/
def levelBits (level : Nat) : Nat × Nat :=
  if level = 3 then (42, 15) else if level = 2 then (30, 12) else if level = 1 then (21, 9) else (12, 9)

/-- The location of the entry for `va` in the table at `tab` (R368). -/
def entryLoc (va level tab : Nat) : Nat := tab + 8 * (va / 2 ^ (levelBits level).1 % 2 ^ (levelBits level).2)

/-- A table lies in device memory, aligned to its size (R360, R368). -/
def tableGood (level tab : Nat) : Bool := isDevice tab && tab % (8 * 2 ^ (levelBits level).2) == 0

/-- The table that a walk for `va` stands at after `n` pointers (R368 to R370); none where it has ended before. -/
def tableAfter (m : Mem) (va root : Nat) : Nat → Option Nat
  | 0 => some root
  | n + 1 => (tableAfter m va root n).bind fun tab =>
      let e := m.readLE (entryLoc va (3 - n) tab) 8
      if tableGood (3 - n) tab = true ∧ n < 3 ∧ e % 4 = 1 ∧ e / 4 % 2 ^ 18 = 0 ∧ e / 2 ^ 60 = 0 then
        some (e / 2 ^ 20 % 2 ^ 40 * 4096) else none

/-- The bytes that a leaf of the level maps (R368). -/
def leafSize (level : Nat) : Nat := if level = 2 then 2 ^ 30 else if level = 1 then 2 ^ 21 else 4096

/-- Entry `i` of the leaf line at `line`. -/
def lineEntry (m : Mem) (line i : Nat) : Nat := m.readLE (line + 8 * i) 8

/-- A leaf entry is malformed (R368 to R370): reserved bits, level 3, an address that is not aligned or outside R360, w without r, a
64 KiB group off level 0 or one whose 16 entries do not agree. -/
def leafBad (m : Mem) (level loc e : Nat) : Bool :=
  let pa := e / 2 ^ 20 % 2 ^ 40 * 4096
  let line := loc / 128 * 128
  decide (e / 2 ^ 60 ≠ 0) || level == 3 || decide (pa % leafSize level ≠ 0) || !(isDevice pa || isHost pa) ||
  decide (e / 8 % 2 = 1 ∧ e / 4 % 2 = 0) ||
  (decide (e / 64 % 2 = 1) && (level != 0 || decide (lineEntry m line 0 / 2 ^ 20 % 16 ≠ 0) ||
    !((List.range 16).all fun i => decide (lineEntry m line i = lineEntry m line 0 + i * 2 ^ 20))))

/-- A leaf gives the access its rights (R369): r, r and w, x, and u to unprivileged code. -/
def leafLets (e : Nat) (want : Want) (priv : Bool) : Bool :=
  let u := priv || decide (e / 32 % 2 = 1)
  match want with
  | .read => decide (e / 4 % 2 = 1) && u
  | .write => decide (e / 4 % 2 = 1) && decide (e / 8 % 2 = 1) && u
  | .fetch => decide (e / 16 % 2 = 1) && u
  | .cache => true

/-- The page state record of a frame (R364). -/
def pageRecord (m : Mem) (f : Nat) : Nat := m.readLE (0x1FE00000000 + 8 * f) 8

/-- A record with the next generation, its reserved bits zero (R364, R376). -/
def raisedGen (v : Nat) : Nat := v % 16 + 16 * ((v / 16 + 1) % 4096)

/-- A record whose dual is 0 (R376). -/
def undual (v : Nat) : Nat := v / 16 * 16 + v % 8

/-- The access counter of a holder for a region (R374). -/
def regionHits (s : State) (region j : Nat) : Nat := s.mem.readLE (0x1FF00000000 + 32 * region + 2 * j) 2

/-- The count of a die calls for the region (R375): the threshold, and twice the count of the die that holds it. -/
def callsFor (s : State) (region die : Nat) : Prop :=
  s.mem.readLE 0x1FF40000000 4 ≠ 0 ∧ die < 4 ∧ s.mem.readLE 0x1FF40000000 4 ≤ regionHits s region die ∧
  dieHolding (65536 * region) ≠ some die ∧ ∀ d, dieHolding (65536 * region) = some d →
    2 * regionHits s region d ≤ regionHits s region die

/-- The conditions of R375 hold: a leaf line is named, no flip or window or request stands at the region's frames, their generations
are below the greatest, and the die can give a frame and take one. -/
def mayMove (s : State) (region die : Nat) : Prop :=
  s.mem.readLE (0x1FF00000000 + 32 * region + 16) 8 ≠ 0 ∧
  (∀ i < 16, pageRecord s.mem (16 * region + i) % 16 = 0 ∧ pageRecord s.mem (16 * region + i) / 16 % 4096 < 4095) ∧
  s.mem.readLE (0x1FF40000000 + 64 + 32 * die + 8) 4 ≠ 0 ∧
  s.mem.readLE (0x1FF40000000 + 64 + 32 * die + 24) 4 < s.mem.readLE (0x1FF40000000 + 64 + 32 * die + 28) 4

/-! ### Launches -/

/-- The first check of a wake that fails before memory is read (R124, items 1 to 4), by its code; 0 where none does. -/
def wakeEarly (s : State) (w : Wake) : Nat :=
  if w.count = 0 ∨ 1280 < w.first + w.count ∨ w.reserved = true then 7
  else if (List.range w.count).any fun o => s.retiredCores.contains (w.first + o) then 10
  else if w.threads = 0 then 8
  else if (s.env w.env).isNone then 11
  else 0

/-- The largest number from 1 to 4 of contexts of one kernel that fit an empty core (R126). -/
def fitting (rows gran scratch : Nat) : Nat :=
  [2, 3, 4].foldl (fun m b => if b * rows ≤ 64 ∧ b * gran ≤ 64 ∧ b * scratch ≤ 524288 then b else m) 1

/-- The first check of a wake that fails on its header's bytes `bs`, or after them (R119, R124, items 6 to 8); 0 where none does. -/
def wakeLate (s : State) (w : Wake) (asid : Nat) (bs : List Byte) : Nat :=
  let f (o n : Nat) : Nat := leNat ((bs.drop o).take n)
  let placed (core : Nat) : Bool := match mget s.roles core with
    | none => false
    | some r => decide (r.asid = asid ∧ r.const.1 ≤ w.hdr.toNat ∧ w.hdr.toNat + 64 ≤ r.const.1 + r.const.2)
  if f 0 4 ≠ 0x4B484E31 ∨ f 4 2 ≠ 1 then 1
  else if 16 < f 6 1 then 2
  else if 32 < f 7 1 then 3
  else if 524288 < f 8 4 then 4
  else if 7 < f 12 1 ∨ f 13 3 ≠ 0 ∨ f 24 40 ≠ 0 then 5
  else if f 16 8 % 4 ≠ 0 then 6
  else if !((List.range w.count).all fun o => placed (w.first + o)) then 12
  else if fitting ((f 6 1 + 3) / 4 * 4) (f 7 1) (f 8 4) < (w.threads + w.count - 1) / w.count ∧
    (w.save = 0 ∨ w.save.toNat % 4096 ≠ 0) then 9
  else 0

/-- The launch of an accepted wake with the header bytes `bs` (R118, R119, R126): no team of it has been admitted. -/
def launchMade (s : State) (slot : BitVec 3) (w : Wake) (bs : List Byte) : Launch :=
  let f (o n : Nat) : Nat := leNat ((bs.drop o).take n)
  { id := s.nextLaunch, slot := slot, hdr := w.hdr, args := w.args, first := w.first, count := w.count, threads := w.threads,
    status := w.status, save := w.save, env := w.env, entry := BitVec.ofNat 64 (f 16 8), rows := (f 6 1 + 3) / 4 * 4,
    gran := f 7 1, scratch := f 8 4, prio := f 12 1, cap := fitting ((f 6 1 + 3) / 4 * 4) (f 7 1) (f 8 4), fresh := 0,
    swapped := [], resident := [], ended := 0, bits := 0, gone := [], leaving := none, reported := false, again := none }

/-- The package in which the code of a wake is on its way to its slot and its status word (R124). -/
def codeSent (now : Nat) (s : State) (slot : BitVec 3) (code : Nat) (w : Wake) : State :=
  (delayed s).at_ (now + 1 + s.delays.headD 0) (.launchStatusReport slot (BitVec.ofNat 8 code) w.env w.status)

/-- Berth `k`, with its context's state `c` in the save area of the pages `ps` and what stays with the engines bound to it, is free
(R129, R386). -/
def savedAway (s : State) (k : Nat) (ps : List Nat) (c : Ctx) : State :=
  (((s.areaWrite ps c true c.pc).bindArea (areaLoc ps 0) (c.toSaved (k / 4))).dropUnits k).delCtx k

/-! ### Homes -/

/-- The request of holder `h` for the line at `pa` as it arrives (R361 to R365). -/
def asking (s : State) (h pa : Nat) (excl : Bool) (bs : List Byte) : Ask :=
  { home := homeOf pa, sec := pa / 64, who := h, excl := excl, pa := pa, bytes := bs, at_ := s.now,
    adm := !(s.flips.contains (pa / 4096)) || h == 5 || h == 6, begun := false, acks := [], granted := false }

/-- The directory with a holder's state of a sector replaced (R361). -/
def dirSet (s : State) (sec h : Nat) (st : Moesi) : SMap (List Moesi) :=
  mput s.dir sec ((mgetD s.dir sec (List.replicate 6 .i)).set h st)

/-- The state of a sector at a holder (R361). -/
def dirState (s : State) (sec h : Nat) : Moesi := (mgetD s.dir sec (List.replicate 6 .i)).getD h .i

/-- A holder of a flipping frame loses it (R365): the devices where the host gains it, else the host. -/
def loses (bias j : Nat) : Prop := if bias = 0 then j < 5 else j = 5

/-- A hart's three custom words (R333). -/
def hostelWord : Instr → Bool
  | .fdone _ _ | .fpoll _ _ | .sbox _ _ => true
  | _ => false

/-! ### Routines and layout records -/

/-- A word at place `i` of a routine of `n` words is in the subset of R403, its dependency bits zero. -/
def routineInstr (n i : Nat) : Instr → Prop
  | .add 0 _ _ _ | .sub 0 _ _ _ | .mul 0 _ _ _ | .mulh 0 _ _ _ | .mulhu 0 _ _ _ | .and 0 _ _ _ | .or 0 _ _ _ | .xor 0 _ _ _
  | .sll 0 _ _ _ | .srl 0 _ _ _ | .sra 0 _ _ _ | .slt 0 _ _ _ | .sltu 0 _ _ _ | .min 0 _ _ _ | .max 0 _ _ _ | .minu 0 _ _ _
  | .maxu 0 _ _ _ | .clz 0 _ _ | .ctz 0 _ _ | .popc 0 _ _ | .nop 0 => True
  | .addi 0 _ _ _ | .andi 0 _ _ _ | .ori 0 _ _ _ | .xori 0 _ _ _ | .slti 0 _ _ _ | .slli 0 _ _ _ | .srli 0 _ _ _ | .srai 0 _ _ _
  | .lui 0 _ _ => True
  | .lb 0 _ _ _ | .lbu 0 _ _ _ | .lh 0 _ _ _ | .lhu 0 _ _ _ | .lw 0 _ _ _ | .lwu 0 _ _ _ | .ld 0 _ _ _ => True
  | .sb 0 _ _ _ | .sh 0 _ _ _ | .sw 0 _ _ _ | .sd 0 _ _ _ => True
  | .beq 0 _ _ o | .bne 0 _ _ o | .blt 0 _ _ o | .bge 0 _ _ o | .bltu 0 _ _ o | .bgeu 0 _ _ o => 1 ≤ o.toNat ∧ i + o.toNat ≤ n
  | _ => False

/-- A word may stand at place `i` of a routine of `n` words (R403): it decodes, and to a word of the subset. -/
def routineWord (n i : Nat) (w : Option IWord) : Prop := ∃ x ins, w = some x ∧ decode x = some ins ∧ routineInstr n i ins

/-- The tensor layout record at `o` fails the agent's checks (R407). -/
def layoutFails (m : Mem) (o : Nat) : Prop :=
  let stride := (BitVec.ofNat 64 (m.readLE (o + 16) 8)).toInt
  ¬ (m.readLE o 8 % 128 = 0 ∧ m.readLE (o + 12) 4 % 128 = 0 ∧ stride % 128 = 0) ∨
  (stride.natAbs < m.readLE (o + 12) 4 ∧ 1 < m.readLE (o + 8) 4) ∨ m.readLE (o + 8) 4 = 0 ∨
  ¬ ((m.read (o + 28)).toNat ≤ 11 ∨ (m.read (o + 28)).toNat = 15) ∨
  2 ^ 20 ≤ m.readLE (o + 24) 4 ∨ 2 ≤ (m.read (o + 29)).toNat ∨ ∃ x, (30 ≤ x ∧ x < 32 ∨ 40 ≤ x ∧ x < 64) ∧ m.read (o + x) ≠ 0

/-! ### Boot, images and quotes -/

/-- The `n` bytes of a list from byte `o`. -/
def bytesAt (bs : List Byte) (o n : Nat) : List Byte := (bs.drop o).take n

/-- A firmware container passes the checks of the boot ROM (R410, R411): its layout, the fused digest of its key, a security version
at or above the fused one, and its signature. -/
def containerPasses (b : Boot) (bs : List Byte) : Prop :=
  let size := leNat (bytesAt bs 8 4)
  leNat (bytesAt bs 0 4) = 0x464E4657 ∧ leNat (bytesAt bs 4 2) = 1 ∧ bytesAt bs 12 4 = List.replicate 4 0 ∧
  4096 ≤ size ∧ size ≤ 2 ^ 24 ∧ leNat (bytesAt bs 16 8) % 4 = 0 ∧ leNat (bytesAt bs 16 8) < size ∧
  leNat (bytesAt bs 160 1) < 2 ∧ bytesAt bs 161 95 = List.replicate 95 0 ∧ 256 + size + 2820 ≤ bs.length ∧
  leNat (bytesAt bs 24 4) = 9 ∧ shake256 (bytesAt bs 24 68) = b.fuseDigest ∧
  Nat.min 64 b.fuseMin ≤ leNat (bytesAt bs 6 2) ∧
  xmssVerify (bytesAt bs 24 68) (bs.take (256 + size)) (bytesAt bs (256 + size) 2820) = true

/-- The firmware has answered the image request (R413): the operation is zeroed, status and code are written. -/
def imageAnswered (status code : Nat) (s : State) : State :=
  { s with mem := ((s.mem.write 0x1FF80000016 (BitVec.ofNat 8 code)).write 0x1FF80000014 0).write 0x1FF80000015 (BitVec.ofNat 8 status),
           boot := { s.boot with loaded := 0 } }

/-- The number of placement entries of an image, and entry `i`: first core, count, role (R121). -/
def placementCount (im : List Byte) : Nat := leNat (bytesAt im 8 4)
def placement (im : List Byte) (i : Nat) : Nat × Nat × Nat :=
  let o := leNat (bytesAt im 24 8) + 8 * i
  (leNat (bytesAt im o 2), leNat (bytesAt im (o + 2) 2), leNat (bytesAt im (o + 4) 2))

/-- A length in bytes rounded up to pages of 4 KiB. -/
def wholePages (n : Nat) : Nat := (n + 4095) / 4096 * 4096

/-- The three sections of role `r` of an image (R121, R122): the virtual address, the length, and the place in the image; each
starts at the first page after the one before it. -/
def sectionsOf (im : List Byte) (r : Nat) : List (Nat × Nat × Nat) :=
  let f (o n : Nat) : Nat := leNat (bytesAt im (leNat (bytesAt im 16 8) + 64 * r + o) n)
  let c := f 16 8 + wholePages (f 24 4)
  [(f 16 8, f 24 4, f 40 8), (c, f 28 4, f 48 8), (c + wholePages (f 28 4), f 32 4, f 56 8)]

/-- The bytes that a load of the image writes, in order, each with its virtual address (R122, R414). -/
def imageBytes (im : List Byte) : List (Nat × Byte) :=
  (List.range (leNat (bytesAt im 6 2))).flatMap fun r => (sectionsOf im r).flatMap fun p =>
    (bytesAt im p.2.2 p.2.1).mapIdx fun i b => (p.1 + i, b)

/-- What is kept of a placed role (R416): its index, the address space of the load, its extents. -/
def roleRecord (im : List Byte) (asid r : Nat) : Role :=
  let ext (k : Nat) : Nat × Nat := match (sectionsOf im r)[k]? with | some x => (x.1, x.2.1) | none => (0, 0)
  { index := BitVec.ofNat 8 r, asid := asid, text := ext 0, const := ext 1, data := ext 2 }

/-- The bytes of a quote (R426): its head, the digests of the running firmware and of the last image accepted, and the signature of
its first 256 bytes where its status is 0. -/
def quoteHas (s : State) (q : List Byte) (status idx : Nat) (nonce : List Byte) : Prop :=
  q.length = 3076 ∧ bytesAt q 0 4 = [0x54, 0x51, 0x4E, 0x46] ∧ bytesAt q 4 2 = [1, 0] ∧ bytesAt q 6 1 = [BitVec.ofNat 8 status] ∧
  bytesAt q 7 1 = [BitVec.ofNat 8 s.boot.status] ∧ bytesAt q 8 4 = leBytes idx 4 ∧ bytesAt q 12 4 = leBytes s.boot.fwver 4 ∧
  (nonce.length = 32 → bytesAt q 16 32 = nonce) ∧ bytesAt q 48 32 = shake256 s.boot.running ∧
  bytesAt q 80 32 = (if s.boot.lastImage = [] then List.replicate 32 0 else shake256 s.boot.lastImage) ∧
  bytesAt q 112 144 = List.replicate 144 0 ∧
  (status = 0 → bytesAt q 256 2820 = padTo 2820 (Config.xmssSign idx (q.take 256)))

end Sys2Proof.Safety
end

