-- ==== Sys2Proof/Certificates/Slice0/Obligations.lean ====
section
/-! DEFINITION. The statements of this slice. The tables they speak of stand in Sys2Proof/Safety.lean. -/

open Sys2Proof Sys2Proof.Machine Sys2Proof.Safety

/-! ### Words of S -/

/-- R79, R222 to R228, R237: every integer word of S that can issue retires, and its one result lands at the table's latency
with the value that the rules give; nothing else changes. -/
def Obligations.IntegerWordsLand : Prop :=
  ∀ (i : Instr) (r : SRow) (s : State), aluRow i = some r → CanIssue r.p s → Settled r.srcs s →
    exec i s = .next (landed s i r.p r.d (r.val s) 0 r.lat (s.ctx.pc + 4))

/-- R223, R224, R225: a division word issues when the divider is free, lands after 22 cycles and keeps the divider for 8; while
the divider is busy S holds it as at a counter of 63, and nothing else changes. -/
def Obligations.DivisionWords : Prop :=
  ∀ (i : Instr) (r : SRow) (s : State), divRow i = some r → CanIssue r.p s →
    ((s.coreAt (s.key / 4)).sdiv ≤ s.now → Settled r.srcs s →
      exec i s = .next (withDivider s (landed s i r.p r.d (r.val s) 0 r.lat (s.ctx.pc + 4)))) ∧
    (s.now < (s.coreAt (s.key / 4)).sdiv → exec i s = .next (heldAt true s))

/-- R22, R223, R230, R231: a floating-point word of S rounds as vt says, lands its result and its flags together, and those
of the divider keep it for 8 cycles. -/
def Obligations.FloatWordsLand : Prop :=
  ∀ (i : Instr) (r : FRow) (s : State), fpsRow i = some r → CanIssue r.p s →
    s.ctx.early s.ctx.nextId (r.srcs.flatMap dstS ++ if r.vt then [.vt] else []) = none →
    (r.dv = true → (s.coreAt (s.key / 4)).sdiv ≤ s.now) →
    ∃ v fl, r.val (vtRnd s.ctx.vt) s.ctx.ftz s = (v, fl) ∧
      exec i s = .next ((if r.dv then withDivider s else id)
        (landed s i r.p r.d (BitVec.ofNat 64 v) fl r.lat (s.ctx.pc + 4)))

/-- R232, R233: a branch retires and goes to its target where its condition holds, to the next word where it does not, and changes
no register; JAL and JALR land the next word's address in their destination and go to their targets. -/
def Obligations.BranchesAndJumps : Prop :=
  (∀ (i : Instr) (r : BRow) (s : State), branchRow i = some r → CanIssue r.p s → Settled [r.a, r.b] s →
     exec i s = .next (issued s (completed r.p
       (if r.taken (s.ctx.reg r.a) (s.ctx.reg r.b) then s.ctx.pc + wordsAway r.o.toInt else s.ctx.pc + 4) s.ctx))) ∧
  ((∀ (p : Dep) (d : SReg) (o : BitVec 17) (s : State), CanIssue p s →
     exec (.jal p d o) s =
       .next (landed s (.jal p d o) p d (s.ctx.pc + 4) 0 1 (s.ctx.pc + wordsAway o.toInt))) ∧
   (∀ (p : Dep) (d a : SReg) (imm : BitVec 12) (s : State), CanIssue p s → Settled [a] s →
     exec (.jalr p d a imm) s =
       .next (landed s (.jalr p d a imm) p d (s.ctx.pc + 4) 0 1 (BitVec.ofInt 64 ((s.ctx.reg a).toInt + imm.toInt)))))

/-- R87, R235, R236: SLD lands the spill doubleword and SST leaves its write for the end of the cycle when the range lies in the
allocation; otherwise both trap with cause 13 and the byte offset. GSLD lands the row's 16 doublewords from spill memory after one
cycle; GSST leaves its 128 bytes for the end of the cycle and completes. The end of the cycle writes what was left and nothing
else. (The model's choices: log entry 80.) -/
def Obligations.SpillWords : Prop :=
  (∀ (p : Dep) (d : SReg) (o : BitVec 14) (s : State), CanIssue p s →
     (8 * o.toNat + 8 ≤ 1024 * s.ctx.gran →
       exec (.sld p d o) s =
         .next (landed s (.sld p d o) p d (s.ctx.spill.read64 (8 * o.toNat)) 0 1 (s.ctx.pc + 4)) ∧
       (Settled [d] s →
         exec (.sst p d o) s = .next (issued s { completed p (s.ctx.pc + 4) s.ctx with
           spillW := s.ctx.spillW ++ [(s.ctx.nextId, 8 * o.toNat, leBytes (s.ctx.reg d).toNat 8)] }))) ∧
     (1024 * s.ctx.gran < 8 * o.toNat + 8 →
       exec (.sld p d o) s = .next (trapped s ⟨13, BitVec.ofNat 64 (8 * o.toNat), 0⟩) ∧
       (Settled [d] s → exec (.sst p d o) s = .next (trapped s ⟨13, BitVec.ofNat 64 (8 * o.toNat), 0⟩)))) ∧
  (∀ (p : Dep) (n : BitVec 4) (o : BitVec 14) (s : State) (e : QEntry), 8 * o.toNat + 128 ≤ 1024 * s.ctx.gran →
     (VFits { fixedDsts := [hRow n.toNat], useVt := false, useMask := false, keeps := false } e s →
       exec (.gsld p n o) s = .next (vLeft s e (performed s e none [hRow n.toNat] maskOnes 1
         (rawWrites (hRow n.toNat) ((List.range 16).map fun j => s.ctx.spill.read64 (8 * o.toNat + 8 * j)), 0)))) ∧
     (VFits { fixedSrcs := [hRow n.toNat], useVt := false, useMask := false, keeps := false } e s →
       exec (.gsst p n o) s = .next (vLeft s e
         ({ s.ctx.dropPend e.id with
             spillW := s.ctx.spillW ++ [(e.id, 8 * o.toNat,
               (s.ctx.readOp (hRow n.toNat)).flatMap fun (w : Word) => leBytes w.toNat 8)] }.complete
           .v e.id (pushesOf .v e.p))))) ∧
  (∀ (c : Ctx) (id o : Nat) (bs : List Byte), c.spillW = [(id, o, bs)] → (∀ e, c.entry = some e → e.id ≤ id) →
     c.flushSpill = { c with spillW := [], spill := c.spill.writeBytes o bs })

/-- R98, R100, R229, R251, R252, R328: the words that complete as they retire, each where its own condition holds: NOP, PREF,
FENCE, XFENCE and WAITC change nothing but the ring and the pc; CAPLD and CAPCLR write one capability register. -/
def Obligations.WordsThatComplete : Prop :=
  ∀ (i : Instr) (r : CRow) (s : State), completeRow i = some r → CanIssue r.p s →
    (r.priv = true → s.ctx.priv = true) → Settled r.srcs s → r.ready (popped r.p s) = true →
    exec i s = .next (issued s (completed r.p (s.ctx.pc + 4) (r.eff s.ctx)))

/-- R92, R240 to R247: a load, an atomic, a FEPOLL, an LFE or LFEC whose address passes its checks leaves S: it counts in lc,
its destination is pending, and its data comes later; memory does not change. LFE and LFEC hold their context until they land.
(The model's choices: log entry 2.) -/
def Obligations.LoadsLeaveS : Prop :=
  (∀ (i : Instr) (r : LRow) (s : State) (acc : Acc), loadRow i = some r → CanIssue r.p s → Settled r.srcs s →
    LsOpen .lc s → s.chkS (r.addr s) r.size r.size r.want r.win 0 = .ok acc →
    exec i s = .next (loadSent s i r acc)) ∧
  (∀ (i : Instr) (r : LRow) (s : State) (acc : Acc), lfeRow i = some r → CanIssue r.p s → Settled r.srcs s →
    LsOpen .lc s → s.chkS (r.addr s) r.size r.size r.want r.win 0 = .ok acc →
    exec i s = .next (loadAwaited s i r acc))

/-- R92, R244 to R246: a store whose address passes its checks leaves S and counts in sc until it takes effect: no byte of
memory has changed. (The model's choices: log entry 2.) -/
def Obligations.StoresLeaveS : Prop :=
  ∀ (i : Instr) (r : TRow) (s : State) (acc : Acc), storeRow i = some r → CanIssue r.p s → Settled r.srcs s →
    LsOpen .sc s → s.chkS (r.addr s) r.size r.size .write r.win 0 = .ok acc →
    exec i s = .next (storeSent s i r.p (r.val s)
      [⟨acc, BitVec.ofNat 64 (2 ^ (8 * r.size) - 1), r.val s⟩] (r.kind acc) r.rel)

/-- R15, R19, R21, R27, R28, R77, R80: S forwards a word of V, M or C with room for it: its entry joins the queue with the
values its registers hold now, its destinations are pending and it counts in its counter; it pops no token yet, and but for MSET
and CSET, which write their setup register, no register changes. (The model's choices: log entries 35, 42 and 76.) -/
def Obligations.ForwardingQueues : Prop :=
  ∀ (i : Instr) (r : QRow) (s : State), queueRow i = some r → CanQueue r s → Settled r.scal s →
    (r.rows = true → Unbound s.ctx) →
    exec i s = .next (issued s (r.setup s.ctx (queued s i r)))

/-- R79, R262 to R287: a grid word that has started at V, whose checks pass, leaves V with the writes and flags that the rules
give, to land after its latency; nothing else changes. (The model's choices: the low word of XADD and XSUB under a directed rounding
and at overflow is log entry 37, the lone element of a reduction 86, the range of TS8 87, the flags of a pending word 93.) -/
def Obligations.GridWordsPerform : Prop :=
  ∀ (i : Instr) (s : State) (e : QEntry) (r : VRow), vRow s.ctx e i = some r → VFits r.spec e s → r.fits →
    exec i s = .next (vEnded s (r.performed s e))

/-- R138, R267, R275: a special-function word lands when its request leaves the cluster's unit and 8 cycles and a variable
latency have passed; its value is the function's. VEXT lands element ra of its operand, sign-extended from an integer type,
zero-extended from any other, after a variable latency of at least 6; an index at or above n traps with cause 4. (The model's
choices: log entries 2 and 43.) -/
def Obligations.VariableGridWordsPerform : Prop :=
  (∀ (i : Instr) (s : State) (e : QEntry) (g a : GOp) (f : Nat → Rnd → Val → Nat × Fl), sfRow i = some (g, a, f) →
    VFits { srcs := [a], dst := some g, types := fun t => decide (1 ≤ t ∧ t < 4) } e s →
    exec i s = .next (vEnded (delayed s) (performed (delayed s) e (some g) [g] s.ctx.vtMask
      ((mgetD s.sfu (s.key / 4 / 8) []).getLastD s.now - s.now + 8 + s.delays.headD 0)
      (masked s.ctx g fun j => ftzOut s.ctx.ftz s.ctx.t (f s.ctx.t s.ctx.m (fl s.ctx (el s.ctx e a j))))))) ∧
  (∀ (p : Dep) (g : GOp) (d b : SReg) (s : State) (e : QEntry),
    VFits { srcs := [g], useMask := false, keeps := false } e s →
    (e.x.toNat < perVec s.ctx.t →
      exec (.vext p g d b) s = .next (vEnded (delayed s) (performed (delayed s) e none [] s.ctx.vtMask (6 + s.delays.headD 0)
        ([.s d (if isInt s.ctx.t then BitVec.ofInt 64 (sg s.ctx (el s.ctx e g e.x.toNat))
                else BitVec.ofNat 64 (el s.ctx e g e.x.toNat))], 0)))) ∧
    (perVec s.ctx.t ≤ e.x.toNat →
      exec (.vext p g d b) s = .next ((delayed s).startTrap s.key .v e (wordTrap 4 (.vext p g d b)))))

/-- R241, R253, R254: S forwards a VLD or VST of another place than its own scratchpad with its 16 checked accesses; one of its
own scratchpad goes unchecked, and S waits until V has checked it. (The model's choices: log entries 35 and 58.) -/
def Obligations.RowAccessesForward : Prop :=
  ∀ (i : Instr) (r : VmRow) (s : State) (accs : List Acc), vmRow i = some r → CanQueue r.q s → Settled r.q.scal s →
    s.ctx.ldaWait = false →
    (ownSpad s (rowAddr (s.ctx.reg r.q.x) r.imm) → exec i s = .next (issued s (memQueued s i r.q [] true))) ∧
    (¬ ownSpad s (rowAddr (s.ctx.reg r.q.x) r.imm) → accs.length = 16 →
      precheck (s.key / 4) (rowAddr (s.ctx.reg r.q.x) r.imm) 128 16 (if r.fe then .spadOnly else .spad) 0 = none →
      piecesOk s (rowAddr (s.ctx.reg r.q.x) r.imm) r.want (fun _ => 0) accs →
      exec i s = .next (issued s (memQueued s i r.q accs false)))

/-- R241, R255, R256, R281, R288, R290: a strided, indexed or broadcast word is queued, and S waits until V has checked its
cells; a slice word with an index or count in range and an aligned base is queued with the accesses of its slots, one beyond the
range traps with cause 4, one off a 16-byte boundary with cause 10. (The model's choices: log entries 35 and 58.) -/
def Obligations.LaneAccessesForward : Prop :=
  (∀ (i : Instr) (r : QRow) (s : State), vxRow i = some r → CanQueue r s → Settled r.scal s → s.ctx.ldaWait = false →
    exec i s = .next (issued s (memQueued s i r [] true))) ∧
  (∀ (i : Instr) (r : QRow) (limit : Nat) (want : Want) (range : Word → Word → Word × Nat) (s : State) (accs : List Acc),
    slRow i = some (r, limit, want, range) → CanQueue r s → s.ctx.ldaWait = false →
    (limit < (s.ctx.reg r.y).toNat → exec i s = .next (trapped s (wordTrap 4 i))) ∧
    ((s.ctx.reg r.y).toNat ≤ limit → Settled r.scal s →
      ((s.ctx.reg r.x).toNat % 16 ≠ 0 →
        exec i s = .next (trapped s ⟨10, (range (s.ctx.reg r.x) (s.ctx.reg r.y)).1, 0⟩)) ∧
      ((s.ctx.reg r.x).toNat % 16 = 0 → accs.length = (range (s.ctx.reg r.x) (s.ctx.reg r.y)).2 →
        piecesOk s (range (s.ctx.reg r.x) (s.ctx.reg r.y)).1 want (fun j => j / 2) accs →
        exec i s = .next (issued s (memQueued s i r accs false)))))

/-- R92, R149, R253 to R256, R288, R290: a grid load that V starts leaves with its accesses, its cells unchanged before it
lands; a grid store leaves with the values that its operand has now, the masked bits left out, memory unchanged before it takes
effect. (The model's choices: log entry 2.) -/
def Obligations.GridAccessesLeaveV : Prop :=
  (∀ (i : Instr) (s s1 : State) (e : QEntry) (sp : VSpec) (act : Act) (accs : List Acc) (hold : Bool),
     gridLoad s e i = some (sp, s1, act, accs, hold) → VFits sp e s →
     exec i s = .next (loadLeft s1 e act accs hold)) ∧
  (∀ (i : Instr) (s s1 : State) (e : QEntry) (sp : VSpec) (parts : List StPart) (f : Fl),
     gridStore s e i = some (sp, s1, parts, f) → VFits sp e s →
     exec i s = .next (storeLeft s1 e parts f))

/-- R29, R236, R241, R256, R379: a memory word of the grid whose own checks fail at V takes its trap there, with its own address
saved. (The model's choices: log entry 10.) -/
def Obligations.GridAccessesTrap : Prop :=
  ∀ (i : Instr) (s s1 : State) (e : QEntry) (sp : VSpec) (t : Trap), gridTrap s e i = some (sp, s1, t) → VFits sp e s →
    exec i s = .next (s1.startTrap s1.key .v e t)

/-- R15, R257, R258, R259: SSET, SBIND and SUNBIND set their generator as S forwards them, and what their generator held stays with
the entry for a trap that drops it; they trap where their checks fail. (The model's choices: log entries 19 and 77.) -/
def Obligations.GeneratorWordsForward : Prop :=
  ∀ (i : Instr) (r : GRow) (s : State), genWord i = some r → CanQueue r.q s →
    (∀ z, r.bad s.ctx = some z → exec i s = .next (trapped s (wordTrap z i))) ∧
    (r.bad s.ctx = none → Settled r.q.scal s →
      exec i s = .next (issued s (genQueued s i r)))

/-- R77, R257, R258, R294: the words that only hold a place in a queue complete as they start, with their tokens and nothing
else. -/
def Obligations.MarkersComplete : Prop :=
  ∀ (i : Instr) (st : Station) (s : State) (e : QEntry), markerRow i = some st → s.turn = .start st →
    standing s st = some e →
    exec i s = .next (vEnded s (freed ((s.ctx.dropPend e.id).complete st e.id (pushesOf st e.p)) st))

/-! ### Threads -/

/-- R137, R317: WTARM arms its entry with the threshold and record, and fires it at once where the counter has already reached
it; WTDIS disarms it and lands its counter; CNTWAIT lands the counter where it has reached the threshold and blocks its context
where it has not; an entry number above 63 is an illegal operand. (The model's choices: log entries 2, 12, 49 and 84.) -/
def Obligations.WaitingTaskWords : Prop :=
  (∀ (p : Dep) (d a b : SReg) (s : State), 64 ≤ (s.ctx.reg a).toNat → CanSerialise p [] s →
    exec (.wtarm p d a b) s = .next (trapped s (wordTrap 4 (.wtarm p d a b))) ∧
    exec (.wtdis p d a) s = .next (trapped s (wordTrap 4 (.wtdis p d a))) ∧
    exec (.cntwait p d a b) s = .next (trapped s (wordTrap 4 (.cntwait p d a b)))) ∧
  ∀ (p : Dep) (d a b : SReg) (s : State) (e : Nat) (w : WtEntry), (s.ctx.reg a).toNat = e → e < 64 →
    mgetD s.wt (64 * (s.key / 4) + e) WtEntry.reset = w →
    (∀ t r, CanSerialise p [a, b, d] s → (s.ctx.reg d).toNat < 2 ^ 32 → w.armed = false →
      RecordAt (popped p s) (s.ctx.reg b) t r → r.bad = false →
      exec (.wtarm p d a b) s = .next (finished p s
        (if (s.ctx.reg d).toNat ≤ w.counter ∧ (mgetD t.cores (s.key / 4) Core.reset).ready.all (fun x => x.entry != some e) then
          { t with
            wt := mput t.wt (64 * (s.key / 4) + e)
              { counter := w.counter - (s.ctx.reg d).toNat, thr := (s.ctx.reg d).toNat, armed := false, qr := none },
            cores := mupd t.cores (s.key / 4) Core.reset fun c =>
              { c with ready := c.ready ++ [⟨⟨r, t.ctx.env⟩, some e⟩] } }
        else
          { t with
            wt := mput t.wt (64 * (s.key / 4) + e)
              { counter := w.counter, thr := (s.ctx.reg d).toNat, armed := true, qr := some ⟨r, t.ctx.env⟩ } }))) ∧
    (CanSerialise p [a] s →
      exec (.wtdis p d a) s = .next (serialDone (.wtdis p d a) p d (BitVec.ofNat 64 w.counter) s
        { popped p s with wt := mput s.wt (64 * (s.key / 4) + e) { w with armed := false, qr := none } })) ∧
    (CanSerialise p [a, b] s → (s.ctx.reg b).toNat < 2 ^ 32 →
      exec (.cntwait p d a b) s = .next
        (if (s.ctx.reg b).toNat ≤ w.counter then
          serialDone (.cntwait p d a b) p d (BitVec.ofNat 64 w.counter) s (popped p s)
        else
          retiring (s.ctx.pc + 4) (awaiting (.cntwait p d a b) p d (.cntwait s.ctx.nextId e (s.ctx.reg b).toNat) (popped p s))))

/-- R131, R132, R133, R140, R319 to R322: SPAWN puts its record on the core's ready list where the record is local and fewer
than 16 local records stand there, else at the end of the die's queue of its priority, and traps with cause 14 where that is
full. JOINDEC lands the counter it found and writes one less, spawns the record with a count of 0 where it found 1, and at 0
changes nothing but the die's event counter. A context with nothing outstanding ends at RETIRE: its berth is empty at once, and
where no launch, group, engine or lock knows it nothing else changes; YIELD completes, and the core looks for another berth. (The
model's choices: log entries 2, 36 and 49.) -/
def Obligations.ThreadsSpawnAndEnd : Prop :=
  (∀ (p : Dep) (d a : SReg) (s t : State) (r : Rec), CanSerialise p [a] s → RecordAt (popped p s) (s.ctx.reg a) t r →
     (r.bad = false →
       exec (.spawn p a) s = .next (match spawned ⟨r, t.ctx.env⟩ t with
         | some u => finished p s u
         | none => trapped s ⟨14, BitVec.ofNat 64 (8 * dieOf (s.key / 4) + r.flags.toNat % 8), 0⟩)) ∧
     (r.bad = true → exec (.spawn p a) s = .next (trapped s (wordTrap 4 (.spawn p a)))) ∧
     (∀ acc u, t.chkS (s.ctx.reg a + 16) 4 4 .write .none 0 = .ok acc → CanTouch t true [acc] → u = touched t true [acc] →
       (r.join = 1 → r.bad = false) →
       exec (.joindec p d a) s = .next
         (if r.join = 0 then
           serialDone (.joindec p d a) p d 0 s (u.count (0x128 + 8 * dieOf (s.key / 4)) 1)
         else if r.join = 1 then
           match spawned ⟨{ r with join := 0 }, u.ctx.env⟩ u with
           | some v => serialDone (.joindec p d a) p d 1 s (v.memWrite acc.loc [0, 0, 0, 0])
           | none => trapped s ⟨14, BitVec.ofNat 64 (8 * dieOf (s.key / 4) + r.flags.toNat % 8), 0⟩
         else
           serialDone (.joindec p d a) p d (r.join.setWidth 64) s (u.memWrite acc.loc (leBytes (r.join.toNat - 1) 4))))) ∧
  (∀ (p : Dep) (s : State), CanIssue p s →
     ((popped p s).mayRetire = true → exec (.retire p) s = .next ((popped p s).markS.endCtx s.key false)) ∧
     ((popped p s).mayRetire = true → s.launches = [] → s.groups = [] → s.engines = [] → s.ctx.launch = none → s.ctx.saved = false →
       (∀ x ∈ s.cores, x.2.locks = []) →
       exec (.retire p) s = .next { s with
         live := false, ctx := Ctx.reset,
         agenda := s.agenda.filter (fun x => match x.2 with | .copyComplete j _ => j != s.key | _ => true),
         saved := s.saved.filter (fun x => x.2.uid != s.ctx.uid),
         cores := mupd s.cores (s.key / 4) Core.reset fun c => { c with
           sAt := s.now + 1, full := false, run := if c.run = some (s.key % 4) then none else c.run,
           copying := if c.copying = some s.key then none else c.copying } }) ∧
     exec (.yield p) s = .next (finished p s { popped p s with
       ctx := { s.ctx.popToks .s p with readyAt := s.now },
       cores := mupd s.cores (s.key / 4) Core.reset fun c => { c with run := none } }))

/-- R139, R323, R324: the words on groups run where their handle names a group; GNEW makes the lowest free group of the home its
operand names and lands its handle, or all ones where none is free. A context that joins an open phase counts from the next one; the
first arrival opens a phase with the members then; a member that leaves before it arrives counts as arrived; a mode applies at once.
A phase completes with its last arrival, and each context that waits for it gets its number. (The model's choices: log entries 2, 48
and 49.) -/
def Obligations.GroupWords : Prop :=
  (∀ (p : Dep) (d a : SReg) (s : State) (home n : Nat), CanSerialise p [a] s → (s.ctx.reg a).toNat = home → home ≤ 4 →
    (n < 4096 → (∀ m < n, (mgetD s.groups (4096 * home + m) Group.reset).live = true) →
      (mgetD s.groups (4096 * home + n) Group.reset).live = false →
      exec (.gnew p d a) s = .next (serialDone (.gnew p d a) p d (BitVec.ofNat 64 (4096 * home + n)) s
        { popped p s with groups := mput s.groups (4096 * home + n) { Group.reset with live := true } })) ∧
    ((∀ m < 4096, (mgetD s.groups (4096 * home + m) Group.reset).live = true) →
      exec (.gnew p d a) s = .next (serialDone (.gnew p d a) p d (BitVec.allOnes 64) s (popped p s)))) ∧
  (∀ (p : Dep) (d a b : SReg) (s : State) (g : Nat), names s (s.ctx.reg a) g →
    (CanSerialise p [a] s → (g < 4 * 4096 → g / 4096 = dieOf (s.key / 4)) →
      exec (.gjoin p a) s = .next (finished p s ((popped p s).join g s.ctx.uid))) ∧
    (CanSerialise p [a] s → exec (.gleave p a) s = .next (finished p s ((popped p s).leave g s.ctx.uid))) ∧
    (CanSerialise p [a] s → (mgetD s.groups g Group.reset).isMember s.ctx.uid = true →
      exec (.gbar p d a) s = .next (retiring (s.ctx.pc + 4) ((awaiting (.gbar p d a) p d
        (.gbar s.ctx.nextId (g / 4096) (g % 4096) ((mgetD s.groups g Group.reset).phaseFor s.ctx.uid))
        (popped p s)).arrive g s.ctx.uid))) ∧
    (CanSerialise p [a, b] s → (s.ctx.reg b).toNat < 2 ^ 32 →
      exec (.gbcfg p a b) s = .next (finished p s ((popped p s).modeSet g (s.ctx.reg b).toNat))) ∧
    (CanSerialise p [a] s → s.hasWaiter g = false →
      exec (.gfree p a) s = .next (finished p s { popped p s with groups := mput s.groups g Group.reset }))) ∧
  (∀ (s : State) (gk uid n : Nat) (g o : Group), mgetD s.groups gk Group.reset = g →
    o = (if g.isOpen then g else { g with isOpen := true, need := g.members.length,
                                            members := g.members.map fun m => (m.1, false) }) →
    ((∀ m ∈ g.members, m.1 ≠ uid) → s.join gk uid = { s with
      groups := mput s.groups gk { g with members := g.members ++ [(uid, g.isOpen)] } }) ∧
    ((∃ m ∈ g.members, m.1 = uid) → s.join gk uid = s) ∧
    (g.isOpen = true → (uid, true) ∈ g.members → s.arrive gk uid = { s with
      groups := mput s.groups gk { g with next := g.next ++ [uid] } }) ∧
    (g.isOpen = false ∨ (uid, true) ∉ g.members → PhaseGoes s (s.arrive gk uid) gk { o with arr := o.arr ++ [uid] }) ∧
    ((∀ m ∈ g.members, m.1 ≠ uid) → s.leave gk uid = s) ∧
    ((∃ m ∈ g.members, m.1 = uid) → g.isOpen = true → (uid, true) ∉ g.members → uid ∉ g.arr →
      PhaseGoes s (s.leave gk uid) gk { g with members := g.members.filter (fun m => m.1 != uid), arr := g.arr ++ [uid] }) ∧
    ((∃ m ∈ g.members, m.1 = uid) → g.isOpen = false ∨ (uid, true) ∈ g.members ∨ uid ∈ g.arr → s.leave gk uid = { s with
      groups := mput s.groups gk { g with members := g.members.filter (fun m => m.1 != uid), next := g.next.filter (· != uid) } }) ∧
    PhaseGoes s (s.modeSet gk n) gk { g with fixed := decide (n ≠ 0), n := n, need := g.members.length })

/-! ### Serving -/

/-- R209, R210, R212, R325: EMIT lands the token post's answer. A descriptor in the state of a call in progress answers 4 and
changes nothing; text, or the bytes that an opening id releases, that the ring has no room for answers 3 and changes nothing.
Ordinary text passes the holdback table byte by byte into the ring from tprod on, and what it holds stays in the descriptor. The
opening id releases held bytes as one U+FFFD and begins the capture; other tokens of a call go to the call buffer, as far as it has
room. The closing id takes the lowest free future, starts its timer and posts the call record, or answers 5 with every entry taken.
(Where the memory holds no unreadable bytes. The model's choices: log entries 2, 22, 23 and 49.) -/
def Obligations.EmitWord : Prop :=
  (∀ (p : Dep) (d a b : SReg) (s s1 : State) (h : Hub) (g id slot n prod : Nat) (bs : List Byte), CanSerialise p [a, b] s →
    (s.ctx.reg b).toNat = id → id < 2 ^ 32 → Descriptor (popped p s) (.emit p d a b) (s.ctx.reg a) s1 h g →
    slot = field s1 g 0 1 % 8 → id < s1.cfgLE (vocOff slot) 4 → bs = s1.tokenBytes slot id → n = field s1 g 100 4 →
    prod = field s1 g 76 4 →
    (∀ t v, s1.emit h s.ctx.env (s.ctx.reg a).toNat g id = (t, .ok v) →
      exec (.emit p d a b) s = .next (serialDone (.emit p d a b) p d v s t)) ∧
    (s1.bad = [] →
      (field s1 g 1 1 = 2 → exec (.emit p d a b) s = .next (serialDone (.emit p d a b) p d 4 s s1)) ∧
      (field s1 g 1 1 = 0 → id = s1.cfgLE (vocOff slot + 4) 4 →
        (field s1 g 2 1 = 0 → exec (.emit p d a b) s = .next (serialDone (.emit p d a b) p d 1 s
          (callOpened s1 h (s.ctx.reg a).toNat g prod))) ∧
        (field s1 g 2 1 ≠ 0 → s1.textFree g < 3 → exec (.emit p d a b) s = .next (serialDone (.emit p d a b) p d 3 s s1)) ∧
        (field s1 g 2 1 ≠ 0 → 3 ≤ s1.textFree g → ∀ t,
          s1.hubPuts h ([0xEF, 0xBF, 0xBD].mapIdx fun i x =>
            (BitVec.ofNat 64 (field s1 g 64 8) + BitVec.ofNat 64 ((prod + i) % field s1 g 72 4), x)) = (t, .ok ()) →
          exec (.emit p d a b) s = .next (serialDone (.emit p d a b) p d 0x301 s
            (callOpened t h (s.ctx.reg a).toNat g (prod + 3))))) ∧
      (field s1 g 1 1 = 0 → id ≠ s1.cfgLE (vocOff slot + 4) 4 →
        (s1.textFree g < 3 * (bs.length + 3) → exec (.emit p d a b) s = .next (serialDone (.emit p d a b) p d 3 s s1)) ∧
        (3 * (bs.length + 3) ≤ s1.textFree g → ∀ out t,
          out = holdAll ⟨s1.mem.readBytes (g + 4) (Nat.min 3 (field s1 g 2 1)), field s1 g 3 1⟩ bs →
          s1.hubPuts h (out.1.mapIdx fun i x =>
            (BitVec.ofNat 64 (field s1 g 64 8) + BitVec.ofNat 64 ((prod + i) % field s1 g 72 4), x)) = (t, .ok ()) →
          exec (.emit p d a b) s = .next (serialDone (.emit p d a b) p d (BitVec.ofNat 64 (256 * out.1.length)) s
            (textKept t g (prod + out.1.length) out.2)))) ∧
      (field s1 g 1 1 = 1 → id ≠ s1.cfgLE (vocOff slot + 8) 4 → ∀ took t, took = bs.take (field s1 g 96 4 - n) →
        s1.hubPuts h (took.mapIdx fun i x => (BitVec.ofNat 64 (field s1 g 88 8 + n) + BitVec.ofNat 64 i, x)) = (t, .ok ()) →
        exec (.emit p d a b) s = .next (serialDone (.emit p d a b) p d (BitVec.ofNat 64 (1 + 256 * took.length)) s
          (let u := t.memWrite (g + 100) (leBytes (n + took.length) 4)
           { u with cut := if took.length < bs.length ∧ (h.asid, (s.ctx.reg a).toNat) ∉ u.cut
                           then u.cut ++ [(h.asid, (s.ctx.reg a).toNat)] else u.cut }))) ∧
      (field s1 g 1 1 = 1 → id = s1.cfgLE (vocOff slot + 8) 4 →
        ((∀ f : Fin 65536, f ≠ 0 → (mgetD s1.futures f.val Future.reset).state ≠ .free) →
          exec (.emit p d a b) s = .next (serialDone (.emit p d a b) p d 5 s s1)) ∧
        (∀ f : Fin 65536, f ≠ 0 → (mgetD s1.futures f.val Future.reset).state = .free →
          (∀ j < f, j ≠ 0 → (mgetD s1.futures j.val Future.reset).state ≠ .free) →
          exec (.emit p d a b) s = .next (serialDone (.emit p d a b) p d (BitVec.ofNat 64 (2 + 2 ^ 32 * f.val)) s
            (callClosed s1 h s.ctx.env (s.ctx.reg a).toNat g f.val).mailboxPost))))) ∧
  (∀ (x : Byte) (hb : HoldBack) (bs : List Byte),
    (holdAll hb (x :: bs)).1 = (holdStep hb x).1 ++ (holdAll (holdStep hb x).2 bs).1 ∧
    (holdAll hb (x :: bs)).2 = (holdAll (holdStep hb x).2 bs).2 ∧
    (hb.held = [] →
      (x < 0x80 → holdStep hb x = ([x], ⟨[], 0⟩)) ∧
      (0xC2 ≤ x → x < 0xE0 → holdStep hb x = ([], ⟨[x], 1⟩)) ∧
      (0xE0 ≤ x → x < 0xF0 → holdStep hb x = ([], ⟨[x], 2⟩)) ∧
      (0xF0 ≤ x → x ≤ 0xF4 → holdStep hb x = ([], ⟨[x], 3⟩)) ∧
      (0x80 ≤ x → x < 0xC2 ∨ 0xF4 < x → holdStep hb x = ([0xEF, 0xBF, 0xBD], ⟨[], 0⟩))) ∧
    (∀ lo hi : Byte, hb.held ≠ [] →
      (lo, hi) = (if hb.held = [0xE0] then (0xA0, 0xBF) else if hb.held = [0xED] then (0x80, 0x9F)
        else if hb.held = [0xF0] then (0x90, 0xBF) else if hb.held = [0xF4] then (0x80, 0x8F) else (0x80, 0xBF)) →
      (lo ≤ x → x ≤ hi → hb.need = 1 → holdStep hb x = (hb.held ++ [x], ⟨[], 0⟩)) ∧
      (lo ≤ x → x ≤ hi → 1 < hb.need → holdStep hb x = ([], ⟨hb.held ++ [x], hb.need - 1⟩)) ∧
      (x < lo ∨ hi < x → holdStep hb x =
        ([0xEF, 0xBF, 0xBD] ++ (holdStep ⟨[], 0⟩ x).1, (holdStep ⟨[], 0⟩ x).2))))

/-- R211, R213, R326: FWAIT of a pending entry parks the continuation of the next word in it and frees the berth; of an entry
already done, it pushes the continuation. (The model's choices: log entry 22.) -/
def Obligations.FutureWait : Prop :=
  ∀ (p : Dep) (a : SReg) (s s1 : State) (h : Hub) (g f : Nat) (e : Future), CanIssue p s → Settled [a] s →
    (popped p s).mayRetire = true → Descriptor (popped p s) (.fwait p a) (s.ctx.reg a) s1 h g →
    field s1 g 104 2 = f → f ≠ 0 → field s1 g 1 1 = 2 → mgetD s1.futures f Future.reset = e → e.parked = none →
    (e.state = .pending → exec (.fwait p a) s = .next (({ s1 with
        futures := mput s1.futures f { e with parked := some (parkedRec s1, dieOf (s.key / 4)) } } : State).markS.endCtx
          s1.key false)) ∧
    (e.state = .done →
      exec (.fwait p a) s = .next ((continued f g (parkedRec s1) (dieOf (s.key / 4)) s1).markS.endCtx s1.key false))

/-- R217 to R221, R315, R327: PXLOOK lands how many leading blocks of its token array the index holds, writes their addresses,
pins and stamps their entries and counts their references; a block's ids are compared with the header of the lowest entry of its
hash, vocabulary and address space, and a difference ends the match and is counted. PXINS lands how many blocks it inserted: each
gets its header, then stamps the entry that holds it already or takes the lowest free entry, else the unpinned one with the oldest
stamp, whose block loses the index's reference; with every entry pinned it ends there. PXREL lands how many of its blocks it found,
unpins them and drops their references; a block with no reference left is on the free-block list. (The model's choices: log entries
2, 22, 24 and 49, and 108 for which of several entries is compared.) -/
def Obligations.PrefixWords : Prop :=
  (∀ (p : Dep) (d a : SReg) (s s1 s2 : State) (h : Hub) (r : PxReq), CanSerialise p [a] s →
    (∀ ms s3, PxRequest (popped p s) (.pxlook p d a) (s.ctx.reg a) (2 ^ 20) true s1 h r →
      State.pxScan h r (r.n / 16) s1 0 (s1.seed r.slot) [] = (s2, .ok ms) →
      s2.hubPuts h (ms.mapIdx fun j (m : Nat × Nat) => spread (r.arr + BitVec.ofNat 64 (8 * j))
        (leBytes (mgetD s2.index m.1 Prefix.reset).block.toNat 8)).flatten = (s3, .ok ()) →
      exec (.pxlook p d a) s = .next (serialDone (.pxlook p d a) p d (BitVec.ofNat 64 ms.length) s
        (ms.foldl (useBlock (s3.stamp + 1)) { s3 with stamp := s3.stamp + 1 }))) ∧
    (∀ bs t n, PxRequest (popped p s) (.pxins p d a) (s.ctx.reg a) (2 ^ 20) true s1 h r →
      State.pxBlocks h r (r.n / 16) s1 0 (s1.seed r.slot) [] = (s2, .ok (some bs)) →
      State.pxInsert h r.slot (s2.stamp + 1) bs { s2 with stamp := s2.stamp + 1 } 0 = (t, .ok n) →
      exec (.pxins p d a) s = .next (serialDone (.pxins p d a) p d (BitVec.ofNat 64 n) s t)) ∧
    (∀ ms, PxRequest (popped p s) (.pxrel p d a) (s.ctx.reg a) 64 false s1 h r →
      State.pxNamed h r.arr r.n s1 0 [] = (s2, .ok ms) →
      exec (.pxrel p d a) s = .next (serialDone (.pxrel p d a) p d (BitVec.ofNat 64 ms.length) s
        (ms.foldl releaseBlock s2)))) ∧
  (∀ (h : Hub) (r : PxReq) (left i : Nat) (s s1 : State) (hash x : Word) (acc : List (Nat × Nat)) (ids : List (BitVec 32)),
    s.pxIds h r i = (s1, .ok ids) → x = mix hash ids →
    ((∀ e, ¬ indexed s1 x r.slot h.asid e) → State.pxScan h r (left + 1) s i hash acc = (s1, .ok acc)) ∧
    (∀ e s2 bs, indexed s1 x r.slot h.asid e → (∀ j < e, ¬ indexed s1 x r.slot h.asid j) →
      s1.hubRead h (mgetD s1.index e Prefix.reset).block 64 = (s2, .ok bs) →
      (idsOf bs ≠ ids → State.pxScan h r (left + 1) s i hash acc = (counted 0x110 s2, .ok acc)) ∧
      (∀ s3 d, idsOf bs = ids → s2.hubLoc h (mgetD s2.index e Prefix.reset).block 128 .write = (s3, .ok d) →
        State.pxScan h r (left + 1) s i hash acc = State.pxScan h r left s3 (i + 1) x (acc ++ [(e, d)])))) ∧
  (∀ (h : Hub) (slot st d n e : Nat) (block hash : Word) (ids : List (BitVec 32)) (s s1 : State) (x : Prefix)
      (more : List (Nat × Word × Word × List (BitVec 32))),
    s1 = headed s d slot hash ids → x = mgetD s1.index e Prefix.reset →
    (∀ s2 bs, indexed s1 hash slot h.asid e → (∀ j < e, ¬ indexed s1 hash slot h.asid j) →
      s1.hubRead h x.block 64 = (s2, .ok bs) → idsOf bs = ids →
      State.pxInsert h slot st ((d, block, hash, ids) :: more) s n = State.pxInsert h slot st more
        { s2 with index := mput s2.index e { mgetD s2.index e Prefix.reset with stamp := st } } (n + 1)) ∧
    ((∀ j, ¬ indexed s1 hash slot h.asid j) →
      (lowestFree s1 e → State.pxInsert h slot st ((d, block, hash, ids) :: more) s n =
        State.pxInsert h slot st more (entryMade s1 e d hash block slot h.asid st) (n + 1)) ∧
      (∀ s2 d2, givenUp s1 e → x.asid = h.asid → s1.hubLoc h x.block 128 .write = (s2, .ok d2) →
        State.pxInsert h slot st ((d, block, hash, ids) :: more) s n =
          State.pxInsert h slot st more (entryMade (s2.refDown d2 x.block) e d hash block slot h.asid st) (n + 1)) ∧
      ((∀ j < 64, (mgetD s1.index j Prefix.reset).valid = true ∧ (mgetD s1.index j Prefix.reset).pins ≠ 0) →
        State.pxInsert h slot st ((d, block, hash, ids) :: more) s n = (s1, .ok n)))) ∧
  (∀ (h : Hub) (arr block : Word) (left i : Nat) (s s1 : State) (acc : List (Nat × Nat)) (bs : List Byte),
    s.hubRead h (arr + BitVec.ofNat 64 (8 * i)) 8 = (s1, .ok bs) → block = BitVec.ofNat 64 (leNat bs) →
    let named (e : Nat) : Prop := e < 64 ∧ (mgetD s1.index e Prefix.reset).valid = true ∧
      (mgetD s1.index e Prefix.reset).asid = h.asid ∧ (mgetD s1.index e Prefix.reset).block = block
    ((∀ e, ¬ named e) →
      State.pxNamed h arr (left + 1) s i acc = State.pxNamed h arr left (counted 0x120 s1) (i + 1) acc) ∧
    (∀ e s2 d, named e → (∀ j < e, ¬ named j) → s1.hubLoc h block 128 .write = (s2, .ok d) →
      State.pxNamed h arr (left + 1) s i acc = State.pxNamed h arr left s2 (i + 1) (acc ++ [(e, d)]))) ∧
  (∀ (s : State) (d v : Nat) (block : Word), s.mem.readLE (d + 64) 2 = v →
    (v % 4096 ≠ 4095 → s.refUp d = s.memWrite (d + 64) (leBytes (v + 1) 2)) ∧
    (v % 4096 = 4095 → 32768 ≤ v → s.refUp d = s) ∧
    (v % 4096 = 4095 → v < 32768 → s.refUp d = counted 0x118 (s.memWrite (d + 64) (leBytes (v + 32768) 2))) ∧
    (32768 ≤ v → s.refDown d block = s) ∧
    (v < 32768 → v % 4096 = 0 → s.refDown d block = counted 0x120 s) ∧
    (v < 32768 → 1 < v % 4096 → s.refDown d block = s.memWrite (d + 64) (leBytes (v - 1) 2)) ∧
    (v < 32768 → v % 4096 = 1 → s.refDown d block = let t := s.memWrite (d + 64) (leBytes (v - 1) 2)
      { t with freeBlocks := t.freeBlocks ++ [block] }))

/-! ### Other words of S -/

/-- R31, R145, R246, R248, R252, R316: FECLR, FSH, CWB, CINV and MSGW leave S where their operands pass their checks: FECLR
within one scratchpad, FSH on a page of HBM4E, MSGW with a legal descriptor; FSH elsewhere takes the access fault. CWB and CINV do
nothing in a window and count in sc else, with no right asked of the page; a translation that the core does not hold is walked for.
MSGW with a length, offset, core or reserved bit out of its limits is an illegal operand. (The model's choices: log
entries 2 and 56.) -/
def Obligations.OtherMemoryWords : Prop :=
  (∀ (p : Dep) (d a : SReg) (o : BitVec 9) (s : State) (core off : Nat), CanIssue p s → LsOpen .sc s → Settled [a, d] s →
    precheck (s.key / 4) (scaled s a 8 o) (Nat.max 1 (s.ctx.reg d).toNat) 1 .spadOnly 0 = none →
    placeOf (s.key / 4) (scaled s a 8 o).toNat = .spad core off → off + (s.ctx.reg d).toNat ≤ 2 ^ 19 →
    exec (.feclr p d a o) s =
      .next (storeSent s (.feclr p d a o) p (s.ctx.reg d) [] (.feclr core off (s.ctx.reg d).toNat) false)) ∧
  (∀ (p : Dep) (d a b : SReg) (n : BitVec 7) (s : State) (acc : Acc), CanIssue p s → s.ctx.lc < 63 → Settled [a, b, d] s →
    s.chkS (s.ctx.reg a) 8 8 .write .none 0 = .ok acc →
    (isHbm acc.loc = true → exec (.fsh p d a b n) s = .next (loadSent s (.fsh p d a b n)
      ⟨p, d, [a, b, d], fun s => s.ctx.reg a, 8, .write, .none,
       fun s _ => .fsh n (s.ctx.reg d) (s.ctx.reg b) d none, false, false, fun s => s.ctx.reg b, fun s => s.ctx.reg d⟩ acc)) ∧
    (isHbm acc.loc = false → ∃ t, t.cause = 12 ∧ t.tval = s.ctx.reg a ∧ exec (.fsh p d a b n) s = .next (trapped s t))) ∧
  (∀ (i : Instr) (p : Dep) (a : SReg) (o : BitVec 12) (s : State) (va : Word), i = .cwb p a o ∨ i = .cinv p a o →
    CanIssue p s → LsOpen .sc s → Settled [a] s → va = BitVec.ofInt 64 ((s.ctx.reg a).toInt + o.toInt) →
    (2 ^ 57 ≤ va.toNat → exec i s = .next (trapped s ⟨8, va, 0⟩)) ∧
    (winBase ≤ va.toNat → va.toNat < 2 ^ 57 → exec i s = .next (issued s (completed p (s.ctx.pc + 4) s.ctx))) ∧
    (va.toNat < winBase →
      (s.xlateS va.toNat .cache ≠ .miss ∨
        ∃ b, (s.walk s.ctx.root.toNat s.ctx.asid.toNat va.toNat).use va.toNat .cache s.ctx.priv = .fault 12 b) →
      exec i s = .next (storeSent s i p 0 [] .cache false)) ∧
    (va.toNat < winBase → s.xlateS va.toNat .cache = .miss →
      (∀ b, (s.walk s.ctx.root.toNat s.ctx.asid.toNat va.toNat).use va.toNat .cache s.ctx.priv ≠ .fault 12 b) →
      exec i s = .next (walking s va .cache))) ∧
  (∀ (p : Dep) (d a b : SReg) (s : State) (accs : List Acc), CanIssue p s → LsOpen .sc s → Settled [a, b, d] s →
    msgwBad (s.ctx.reg d) (s.ctx.reg b) = false → accs.length = Nat.max 1 ((s.ctx.reg d).toNat % 65536 / 16) →
    (∀ j : Fin accs.length,
      s.chkS (s.ctx.reg a + BitVec.ofNat 64 (16 * j)) 16 16 .read .spad 0 = .ok accs[j]) →
    exec (.msgw p d a b) s = .next (storeSent s (.msgw p d a b) p 0 (accs.map fun c => ⟨c, 0, 0⟩)
      (.msgw ((s.ctx.reg b).toNat / 2 ^ 19 % 2 ^ 11) ((s.ctx.reg b).toNat % 2 ^ 19) ((s.ctx.reg d).toNat % 2 ^ 16)
        ((s.ctx.reg b).toNat / 2 ^ 30 % 2 ^ 6) ((s.ctx.reg d).toNat / 2 ^ 16 % 2 ^ 16)) true)) ∧
  (∀ (p : Dep) (d a b : SReg) (s : State), CanIssue p s → LsOpen .sc s →
    (¬ ((s.ctx.reg d).toNat % 65536 % 16 = 0 ∧ (s.ctx.reg d).toNat % 65536 ≤ 32768 ∧ (s.ctx.reg d).toNat < 2 ^ 32 ∧
        (s.ctx.reg b).toNat % 2 ^ 19 % 16 = 0 ∧ (s.ctx.reg b).toNat % 2 ^ 19 + (s.ctx.reg d).toNat % 65536 ≤ 2 ^ 19 ∧
        (s.ctx.reg b).toNat / 2 ^ 19 % 2 ^ 11 < numCores ∧ (s.ctx.reg b).toNat < 2 ^ 36) →
      exec (.msgw p d a b) s = .next (trapped s (wordTrap 4 (.msgw p d a b)))))

/-- R20, R28, R49, R250: an MKFENCE that names no station completes at once; one that names stations puts a marker into each of
their queues without retiring, waits at a full queue and while a named station has earlier work, and completes, its markers
gone, once every named station has done all that stood before. (The model's choices: log entries 11 and 76.) -/
def Obligations.MarkerFence : Prop :=
  ∀ (p : Dep) (l : BitVec 3) (s : State), s.live = true →
    (s.ctx.marked = false → CanIssue p s → l = 0 → exec (.mkfence p l) s = .next (issued s (completed p (s.ctx.pc + 4) s.ctx))) ∧
    (s.ctx.marked = false → CanIssue p s → l ≠ 0 →
      (∀ st ∈ markList l, taken s.ctx st < places st) →
      ∃ m : QEntry, m.word = none ∧ m.id = s.ctx.nextId ∧ m.p = p ∧ m.pc = s.ctx.pc ∧
        exec (.mkfence p l) s = .next (issued s { s.ctx.popToks .s p with
          vq := if l.getLsbD 2 then s.ctx.vq ++ [m] else s.ctx.vq,
          mq := if l.getLsbD 1 then s.ctx.mq ++ [m] else s.ctx.mq,
          cq := if l.getLsbD 0 then s.ctx.cq ++ [m] else s.ctx.cq })) ∧
    (s.ctx.marked = false → CanIssue p s → (∃ st ∈ markList l, places st ≤ taken s.ctx st) → s.rsendWait s.key = none →
      exec (.mkfence p l) s = .next (heldAt true s)) ∧
    (s.ctx.marked = true → (∃ st ∈ markList l, s.ctx.markDone st = false) → s.rsendWait s.key = none →
      exec (.mkfence p l) s = .next (heldAt false s)) ∧
    (s.ctx.marked = true → (∀ st ∈ markList l, s.ctx.markDone st = true) →
      exec (.mkfence p l) s = .next (retiring (s.ctx.pc + 4) (s.withCtx
        ({ s.ctx with vq := s.ctx.vq.filter (·.word.isSome), mq := s.ctx.mq.filter (·.word.isSome),
                      cq := s.ctx.cq.filter (·.word.isSome) }.complete .s s.ctx.nextId (pushesOf .s p)))))

/-- R21 to R24, R238, R381: RDCSR lands the value of a register that a table lists, sampled now; the privileged numbers need
privileged code, and a number of no table is an illegal instruction. -/
def Obligations.ReadControlRegister : Prop :=
  ∀ (p : Dep) (d : SReg) (n : BitVec 8) (s : State), CanIssue p s →
    (∀ v, csrValue s n.toNat = some v → (0x80 ≤ n.toNat → s.ctx.priv = true) →
      s.ctx.early s.ctx.nextId (if n = 0 then [.fpsr] else if n = 1 then [.vt] else []) = none →
      exec (.rdcsr p d n) s = .next (landed s (.rdcsr p d n) p d v 0 1 (s.ctx.pc + 4))) ∧
    (csrValue s n.toNat = none → (0x80 ≤ n.toNat → s.ctx.priv = true) →
      exec (.rdcsr p d n) s = .next (trapped s (wordTrap 1 (.rdcsr p d n)))) ∧
    (0x80 ≤ n.toNat → s.ctx.priv = false → exec (.rdcsr p d n) s = .next (trapped s (wordTrap 2 (.rdcsr p d n))))

/-- R22, R31, R239, R373, R381, R385: WRCSR of fpsr or of a plain privileged register lands its value in the next cycle; of ctl
it sets erc and clears saved at once; of 0x8E it takes the head fault record away, and with bit 0 drops the held access; of
capsign it lands the signed capability; of 0x90 it requests a pre-emption; every other number is an illegal instruction, and a
number of the privileged range is a privilege trap in unprivileged code. (The model's choices: log entry 26.) -/
def Obligations.WriteControlRegister : Prop :=
  (∀ (p : Dep) (a : SReg) (n : BitVec 8) (s : State), CanIssue p s → (n ≠ 0 → s.ctx.priv = true) → Settled [a] s →
    (plainCsr n.toNat = true → exec (.wrcsr p a n) s = .next (csrWritten s (popped p s) (.wrcsr p a n) p
      (if n = 0 then [.fpsr] else []) (if n = 0 then [.fpsr (s.ctx.reg a)] else [.csr n.toNat (s.ctx.reg a)]))) ∧
    (n = 0x10 → exec (.wrcsr p a n) s = .next (csrWritten s
      ((popped p s).withCtx { s.ctx.popToks .s p with erc := (s.ctx.reg a).getLsbD 0, saved := false }) (.wrcsr p a n) p [] [])) ∧
    (n = 0x8E → exec (.wrcsr p a n) s = .next (csrWritten s
      ((popped p s).withCtx (match (s.ctx.reg a).getLsbD 0, (s.ctx.afr.head?).bind Afr.held with
        | true, some id => (popRecord (s.ctx.popToks .s p)).dropHeld id
        | _, _ => popRecord (s.ctx.popToks .s p))) (.wrcsr p a n) p [] [])) ∧
    (n = 0x92 → exec (.wrcsr p a n) s = .next (csrWritten s (popped p s) (.wrcsr p a n) p []
      [.csr 0x92 (capSigned s.resets (s.ctx.reg a))])) ∧
    (n = 0x90 → exec (.wrcsr p a n) s =
      .next (csrWritten s ((popped p s).preemptRequest (s.key / 4) (s.ctx.reg a)) (.wrcsr p a n) p [] []))) ∧
  (∀ (p : Dep) (a : SReg) (n : BitVec 8) (s : State), CanIssue p s →
    (0x80 ≤ n.toNat → s.ctx.priv = false → exec (.wrcsr p a n) s = .next (trapped s (wordTrap 2 (.wrcsr p a n)))) ∧
    (n ≠ 0 → n.toNat < 0x80 → (n = 0x10 → s.ctx.priv = false) →
      exec (.wrcsr p a n) s = .next (trapped s (wordTrap 1 (.wrcsr p a n)))) ∧
    (0x80 ≤ n.toNat → s.ctx.priv = true → plainCsr n.toNat = false → n ≠ 0x8E → n ≠ 0x90 → n ≠ 0x92 →
      exec (.wrcsr p a n) s = .next (trapped s (wordTrap 1 (.wrcsr p a n)))))

/-- R331, R330, R385: in privileged code, TLBINV drops the core's translations of one address, and TLBFLUSH every translation of
the cores of its scope, where none of those cores walks for one; ERET goes to epc in unprivileged code, issues the replay list
again, lets the accesses held by a late refusal and the suspended engine entries without a record go on, and takes up the wait
that was halted. (The model's choices: log entry 91.) -/
def Obligations.PrivilegedWords : Prop :=
  ∀ (p : Dep) (s : State), CanIssue p s → s.ctx.priv = true →
    (∀ a, Settled [a] s → s.walking (· == s.key / 4) = false →
      exec (.tlbinv p a) s = .next (issued
        { s with cores := mupd s.cores (s.key / 4) Core.reset fun c => { c with tlb := c.tlb.filter fun t =>
          !(decide (t.base ≤ (s.ctx.reg a).toNat) && decide ((s.ctx.reg a).toNat < t.base + t.size)) } }
        (completed p (s.ctx.pc + 4) s.ctx))) ∧
    (∀ sc, s.walking (inScope sc (s.key / 4)) = false →
      exec (.tlbflush p sc) s = .next (issued
        { s with cores := s.cores.map fun c => if inScope sc (s.key / 4) c.1 then (c.1, { c.2 with tlb := [] }) else c }
        (completed p (s.ctx.pc + 4) s.ctx))) ∧
    exec (.eret p) s = .next (issued s (returned s.now (completed p s.ctx.epc s.ctx)))

/-- R332: TRAP retires and then enters the handler with cause 16, its code in tval and the next word's address in epc; BREAK does
not retire and enters with cause 17 and its own address; WFE retires and blocks until an event. -/
def Obligations.TrapWords : Prop :=
  ∀ (p : Dep) (s : State), CanIssue p s →
    (∀ c, exec (.trap p c) s = .next ((issued s (completed p (s.ctx.pc + 4) s.ctx)).takeTrap s.key
      ⟨16, c.setWidth 64, 0⟩ (s.ctx.pc + 4))) ∧
    exec (.brk p) s = .next (trapped s ⟨17, 0, 0⟩) ∧
    exec (.wfe p) s = .next (issued s { retired p (s.ctx.pc + 4) s.ctx with
      pend := s.ctx.pend ++ [{ Pend.mk0 s.ctx.nextId .s s.ctx.pc with
        word := some (.wfe p), act := .remote, push := pushesOf .s p }],
      block := .wfe, blockedAt := s.now })

/-- R329, R386, R387: CSAVE, its area's pages writable and its context's own work done, halts the context's commands at their
engines, writes the area, binds to it what stays with the engines, and marks the context saved; the context goes on with the
next word. CRESTORE of a page whose header is not valid, or does not fit the context's allocation, is an illegal operand; of a
valid one without a held result still to come, it retires in the handler, still privileged, with epc at the saved pc and the
saved registers, setup registers, vt and fpsr loaded, nothing bound to the area any more, and the context not marked saved. (The
model's choices: log entries 27, 28, 92 and 97.) -/
def Obligations.ContextSaveRestore : Prop :=
  (∀ (p : Dep) (a : SReg) (s t u s2 : State) (accs : List Acc) (c : Ctx), CanIssue p s → s.ctx.priv = true → Settled [a] s →
    s.ctx.ldaWait = false → (popped p s).sQuiet = true → ((popped p s).haltEngines s.key).ctx.mustFinish = false →
    accs.length = (0x5000 + 1024 * s.ctx.gran + 4095) / 4096 →
    (∀ j : Fin accs.length,
      s.chkS (s.ctx.reg a + BitVec.ofNat 64 (4096 * j)) 4096 4096 .write .none 0 = .ok accs[j]) →
    CanTouch (popped p s) true accs → t = touched (popped p s) true accs → u = t.haltEngines t.key → c = u.ctx.record u.now →
    s2 = (u.areaWrite (accs.map (·.loc)) { c with priv := false, saved := false } false c.epc).bindArea
      (areaLoc (accs.map (·.loc)) 0) (c.toSaved (u.key / 4)) →
    exec (.csave p a) s = .next (retiring (s2.ctx.pc + 4)
      (s2.withCtx (({ s2.ctx with saved := true }).complete .s s2.ctx.nextId (pushesOf .s p))))) ∧
  (∀ (p : Dep) (a : SReg) (s t : State) (h : Acc), CanIssue p s → s.ctx.priv = true → Settled [a] s →
    s.ctx.ldaWait = false → (popped p s).ctx.drained = true → (popped p s).ctx.lsQuiet = true →
    s.chkS (s.ctx.reg a) 4096 4096 .write .none 0 = .ok h → CanTouch (popped p s) true [h] → t = touched (popped p s) true [h] →
    ((t.areaValid [h.loc] && t.areaFits [h.loc] t.ctx) = false →
      exec (.crestore p a) s = .next (trapped s (wordTrap 4 (.crestore p a)))) ∧
    (∀ (accs : List Acc) (pages : List Nat) (u v : State),
      (t.areaValid [h.loc] && t.areaFits [h.loc] t.ctx) = true →
      accs.length = (0x5000 + 1024 * t.ctx.gran + 4095) / 4096 → pages = accs.map (·.loc) →
      (∀ j : Fin accs.length,
        t.chkS (s.ctx.reg a + BitVec.ofNat 64 (4096 * j)) 4096 4096 .read .none 0 = .ok accs[j]) →
      CanTouch t false accs → u = touched t false accs → u.bad = [] → u.areaHeldOut pages = false → v = u.restoreInto pages →
      exec (.crestore p a) s =
        .next (retiring (v.ctx.pc + 4) (v.withCtx (v.ctx.complete .s v.ctx.nextId (pushesOf .s p)))) ∧
      v.ctx.pc = s.ctx.pc ∧ v.ctx.priv = true ∧ v.ctx.saved = false ∧ v.ctx.epc = u.area64 pages 8 ∧
      (∀ r : SReg, v.ctx.reg r = if r = 0 then 0 else u.area64 pages (0x100 + 8 * r.toNat)) ∧
      (∀ n : Fin 16, v.ctx.ms[n] = u.area64 pages (0x400 + 8 * n)) ∧
      (∀ n : Fin 7, v.ctx.cs[n] = u.area64 pages (0x3C0 + 8 * n)) ∧
      v.ctx.vt = BitVec.ofNat 12 (u.areaLE pages 0x300 2 % 1024) ∧ v.ctx.fpsr = u.area64 pages 0x308 &&& fpsrMask))

/-! ### Commands of M and C -/

/-- R184, R185, R189 to R192: a command in service runs at its engine. MBALLOC takes the lowest run of free banks for the group
of ms7 and returns its first bank, or all ones where there is none; MBFREE frees its banks; MZERO writes zeros into them; MMAC
does one chunk, MDRAIN and MFILL one row, and the command goes on at the next, ends after the last, or is left suspended with a
fault record where its access faults. A drained row's elements go as raw bytes to its band's place, those of banks not
allocated as zeros, and are cleared where the command says so; the band's last row posts its arrival. A filled row goes into
the allocated banks. A bank not allocated sets accu. MSTAT lands the port status with its refusal count and clears what it
read; the engine's commands are not touched. (The model's choices: log entries 2, 13 and 44.) -/
def Obligations.MatrixPortWorks : Prop :=
  (∀ (p : Dep) (a b : SReg) (cap : BitVec 3) (s : State) (en k : Nat) (c : Ctx) (e : QEntry), s.turn = .engine en →
     s.served en = some (k, c, e) →
     (∀ b0, e.word = some (.mballoc p a b cap) → lowestRun (s.engine en) e.y.toNat b0 →
       exec (.mballoc p a b cap) s = .next (engineRan en k e [.s a (BitVec.ofNat 64 b0)]
         { s with engines := mupd s.engines en Engine.reset fun g => { g with
           owner := (bankRun b0 e.y.toNat).foldl
             (fun m x => mput m x (4096 * (e.ms 7 / 4096 % 8) + e.ms 7 % 4096)) g.owner } })) ∧
     (e.word = some (.mballoc p a b cap) → (∀ b0, ¬ lowestRun (s.engine en) e.y.toNat b0) →
       exec (.mballoc p a b cap) s = .next (engineRan en k e [.s a (BitVec.allOnes 64)] s)) ∧
     exec (.mbfree p a b cap) s = .next (engineRan en k e []
       { s with engines := mupd s.engines en Engine.reset fun g => { g with
         owner := (bankRun e.x.toNat e.y.toNat).foldl mdel g.owner } }) ∧
     exec (.mzero p a b cap) s = .next (engineRan en k e []
       ((bankRun e.x.toNat e.y.toNat).foldl (fun t x =>
         t.memWrite (2 ^ 60 + en * 2 ^ 22 + x * 16384) (List.replicate 16384 0)) s)) ∧
     (∀ n, n = e.prog.toNat →
       exec (.mmac p a b cap) s = .next (match s.mmacFetch { k := k, id := e.id, priv := e.priv } e n with
         | (t, .ok (va, vb)) => engineStep en k e (n + 1) (e.mK / (if e.mAcc = 1 then 4 else 32))
             (t.mmacAdd { k := k, id := e.id, priv := e.priv } en e va vb)
         | (t, .fault f) => engineHeld en k e f n t
         | (t, .retry) => engineAgain en k e n t) ∧
       exec (.mdrain p a b cap) s =
          .next (engineStep en k e (n + 1) e.mM (s.drainRow { k := k, id := e.id, priv := e.priv } en e n)) ∧
       ∀ u, u = { k := k, id := e.id, priv := e.priv, handle := e.ms 6 % 4096, view := accType e.mAcc } →
         exec (.mfill p a b cap) s = .next (match s.engRead u (addI e.x (n * sInt 64 e.y.toNat)) (e.mN * accBytes e.mAcc) false with
           | (t, .ok bs) => engineStep en k e (n + 1) e.mM (t.fillRow u en e n bs)
           | (t, .fault f) => engineHeld en k e f n t
           | (t, .retry) => engineAgain en k e n t))) ∧
  (∀ (p : Dep) (a : SReg) (s : State) (e : QEntry), s.turn = .start .m → s.ctx.mact = some e →
     exec (.mstat p a) s = .next { delayed s with
       turn := .sched,
       ctx := { (({ s.ctx with mport := s.ctx.mport &&& 0xFFFF0000 } : Ctx).older e.id fun x =>
           { x with mport := x.mport &&& 0xFFFF0000 }) with
         mact := none,
         pend := s.ctx.pend.map fun q => if q.id = e.id then
           { q with due := some (arrival s), ctr := some .tc,
                    wr := [.s a ((s.ctx.mport &&& ~~~5#64) ||| (if s.ctx.min.isEmpty ∧ statusOut s.ctx = false then 0 else 1) |||
                      (if s.ctx.min.any (·.susp) then 4 else 0))] } else q } }) ∧
  (∀ (s t : State) (u : Issuer) (en i es b at_ : Nat) (e : QEntry), e.shapeOk = true → e.mapOk b = true → i < e.mM → b = i / 16 →
     es = accBytes e.mAcc → s.bad = [] → s.windows = [] → s.mem.wf = true → s.drainRow u en e i = t →
     at_ = spadLoc (e.mapCore b) (e.mapOff b + i % 16 * (e.mN * es)) →
     (∀ j < e.mN, ((s.engine en).has (e.tile i j).1 = true →
         t.mem.readBytes (at_ + j * es) es = s.mem.readBytes (accLoc en (e.tile i j).1 (e.tile i j).2) es ∧
         (e.x.toNat % 2 = 1 → t.mem.readBytes (accLoc en (e.tile i j).1 (e.tile i j).2) es = List.replicate es 0)) ∧
       ((s.engine en).has (e.tile i j).1 = false → t.mem.readBytes (at_ + j * es) es = List.replicate es 0)) ∧
     (∀ x, x < at_ ∨ at_ + e.mN * es ≤ x → (e.x.toNat % 2 = 1 → ∀ j < e.mN, (s.engine en).has (e.tile i j).1 = true →
         x < accLoc en (e.tile i j).1 (e.tile i j).2 ∨ accLoc en (e.tile i j).1 (e.tile i j).2 + es ≤ x) →
       t.mem.read x = s.mem.read x) ∧
     (i % 16 ≠ 15 → i + 1 ≠ e.mM → t.fe = s.fe ∧ t.arrivals = s.arrivals) ∧
     (i % 16 = 15 ∨ i + 1 = e.mM → ∀ g n, g = Nat.min 16 (e.mM - 16 * b) * e.mN * es → n = 64 * e.mapCore b + e.mapWent b →
       (e.mapKind b = 1 → ∀ x, e.mapOff b / 16 ≤ x → 16 * x < e.mapOff b + g → t.isFull (e.mapCore b) x = true) ∧
       (e.mapKind b = 2 → t.arrivals = mput s.arrivals n (mgetD s.arrivals n 0 + e.mapWinc b)))) ∧
  (∀ (s t : State) (u : Issuer) (en i es : Nat) (e : QEntry) (bs : List Byte), e.shapeOk = true → i < e.mM →
     es = accBytes e.mAcc → bs.length = e.mN * es → s.windows = [] → s.mem.wf = true → s.fillRow u en e i bs = t →
     (∀ j < e.mN, (s.engine en).has (e.tile i j).1 = true →
       t.mem.readBytes (accLoc en (e.tile i j).1 (e.tile i j).2) es = (bs.drop (j * es)).take es) ∧
     (∀ x, (∀ j < e.mN, (s.engine en).has (e.tile i j).1 = true →
         x < accLoc en (e.tile i j).1 (e.tile i j).2 ∨ accLoc en (e.tile i j).1 (e.tile i j).2 + es ≤ x) →
       t.mem.read x = s.mem.read x)) ∧
  (∀ (s : State) (u : Issuer) (en i : Nat) (e : QEntry) (bs : List Byte) (c : Ctx) (t : State), s.bad = [] →
     s.ctxAt u.k = some c → (t = s.fillRow u en e i bs ∨ t = s.drainRow u en e i ∧ e.mapKind (i / 16) ≠ 1) →
     (∃ c', t.ctxAt u.k = some c' ∧ c'.mport = (if ∃ j < e.mN, (s.engine en).has (e.tile i j).1 = false then c.mport ||| 8
       else c.mport) ∧ c'.regs = c.regs ∧ c'.grid = c.grid ∧ c'.min = c.min))

/-- R179, R180, R181, R187: one chunk of an MMAC adds to every element of the tile the exact sum of the chunk's products of A's
row and B's column, rounded once into the accumulator's format (for INT32 to the nearest integer, before an add modulo 2^32), and
changes no other byte of memory. (The model's choices: log entries 15 and 44; an INT32 accumulator under a sum that is no number
takes a free value.) -/
def Obligations.MatrixChunkAccumulates : Prop :=
  ∀ (s : State) (u : Issuer) (en : Nat) (e : QEntry) (va vb : List (List Val)) (t : State), e.shapeOk = true →
    s.bad = [] → s.mem.wf = true → s.mmacAdd u en e va vb = t →
    (∀ i j sum, i < e.mM → j < e.mN → chunkSum (nthD va i []) (vb.map fun r => nthD r j (.nan false)) = sum →
      (e.mAcc ≠ 2 → t.tileRead en e i j =
        (rndV (if e.mAcc = 1 then 0 else 1) .rne
          (vAdd .rne (decFloat (if e.mAcc = 1 then 0 else 1) (s.tileRead en e i j)) sum).1).1) ∧
      (e.mAcc = 2 → ∀ q, sum = .fin q →
        t.tileRead en e i j = (BitVec.ofInt 32 (s.tileRead en e i j + (rndInt .rne q).1)).toNat)) ∧
    (∀ x, (∀ i j, i < e.mM → j < e.mN →
        x < accLoc en (e.tile i j).1 (e.tile i j).2 ∨ accLoc en (e.tile i j).1 (e.tile i j).2 + accBytes e.mAcc ≤ x) →
      t.mem.read x = s.mem.read x) ∧
    t = { s with mem := t.mem, freeN := t.freeN }

/-- R304, R306 to R310: a COPY or CFILL whose setup or operands are bad takes the illegal-operand trap, a misaligned one the
alignment trap, at its own address; one whose checks pass at C locks its banks and moves its first granule. Each granule moved
leads to the next, the last to the completion after a variable time; an access fault leaves the command suspended with a record.
A granule of a row between scratchpads takes the source row's bytes at the same distance, or its converted elements' bytes, or the
fill pattern's byte of each address; its bit is set with the last write to it where the arrival is full-empty. (The model's choices:
log entries 2, 10, 13, 16 and 81.) -/
def Obligations.CopyCommandsRun : Prop :=
  (∀ (i : Instr) (fill : Bool) (s : State) (e0 e : QEntry), copyWordOf i = some fill → AtC s e0 →
    e = { e0 with setup := e0.setup.take 8 ++ (List.range 16).map fun b => mgetD s.fmts (16 * (s.key / 4) + b) 0xF } →
    (e.copyBad fill (s.key / 4) = true → exec i s = .next (s.startTrap s.key .c e (wordTrap 4 i))) ∧
    (∀ va, e.copyBad fill (s.key / 4) = false → e.copyMisaligned fill (s.key / 4) = some va →
      exec i s = .next (s.startTrap s.key .c e ⟨10, va, 0⟩)) ∧
    (e.copyBad fill (s.key / 4) = false → e.copyMisaligned fill (s.key / 4) = none →
      exec i s = .next (copyGranule s.key { e with prog := BitVec.ofNat 64 (if 0 ≤ e.cDs then 0 else e.cRows - 1), far := 0 } fill
        (copyLocks s e fill)))) ∧
  (∀ (i : Instr) (fill : Bool) (s : State) (e : QEntry), copyWordOf i = some fill → s.turn = .copy → s.ctx.cact = some e →
    exec i s = .next (copyGranule s.key e fill
      (if (s.coreAt (s.key / 4)).copying = some s.key then s else copyLocks s e fill))) ∧
  (∀ (k row off n m c1 o1 c2 o2 : Nat) (s : State) (e : QEntry) (fill : Bool), e.dLen fill (k / 4) row = n → off < n →
    m = Nat.min (16 - (e.dRow row + BitVec.ofNat 64 off).toNat % 16) (n - off) →
    placeOf (k / 4) (e.dRow row + BitVec.ofNat 64 off).toNat = .spad c2 o2 → e.cDstKey = false →
    (fill = false → placeOf (k / 4) (e.sRow row).toNat = .spad c1 o1 ∧ o1 + e.cLen ≤ 2 ^ 19 ∧ e.cSrcKey fill = false) →
    s.bad = [] → s.windows = [] →
    ∀ bs : List Byte,
      (fill = true → bs = (List.range m).map fun j => byteOf e.y.toNat (((e.dRow row).toNat + off + j) % 8)) →
      (fill = false → e.rowForm fill (k / 4) row = .raw → bs = s.mem.readBytes (spadLoc c1 (o1 + off)) m) →
      (∀ se de sf df, e.rowForm fill (k / 4) row = .conv se de sf df → se < 12 ∧ de < 12 ∧ e.cLen * 8 % tyWidth se = 0 ∧
        e.cLen * 8 / tyWidth se * tyWidth de % 8 = 0 ∧
        bs = leBytes ((List.range (e.cLen * 8 / tyWidth se)).foldr (fun i acc =>
          copyElem de (rndOf e.cRnd) (decode_ se (bitsOf (s.mem.readLE (spadLoc c1 o1) e.cLen) (i * tyWidth se) (tyWidth se)))
            (s.sideScale (k / 4) sf ((ownOff (k / 4) (e.sRow row)).getD 0) (tyWidth se) i)
            (s.sideScale (k / 4) df ((ownOff (k / 4) (e.dRow row)).getD 0) (tyWidth de) i) + acc * 2 ^ tyWidth de) 0 / 256 ^ off) m) →
      ∃ t, s.copyGran k e fill row off = .done t (if off + m < n then some (row, off + m)
          else if e.rowsAfter row = 0 then none else some (e.nextRow row, 0)) ∧
        t.mem = s.mem.writeBytes (spadLoc c2 o2) bs ∧
        (e.cKind = 1 → e.lastWrite fill (k / 4) row off = true → t.isFull c2 (o2 / 16) = true) ∧
        (e.cKind ≠ 1 ∨ e.lastWrite fill (k / 4) row off = false → t = { s with mem := t.mem, harts := t.harts }))

/-- R105, R193, R196 to R200: at C, RSEND takes a permit of its channel, its source banks are locked, and its bytes are on their
way; RPERMIT takes held slots and returns their permits; RSTAT lands the channel's status, zero on a core that is not the
channel's; each traps where its checks fail. (The model's choices: log entries 2 and 10.) -/
def Obligations.RelayWordsRun : Prop :=
  ∀ (p : Dep) (a b : SReg) (s : State) (e : QEntry), AtC s e →
    (∀ t, s.rsendCheck (s.key / 4) (.rsend p a b) e = some t →
      exec (.rsend p a b) s = .next (s.startTrap s.key .c e t)) ∧
    (∀ c ch acc, s.rsendCheck (s.key / 4) (.rsend p a b) e = none →
      ch = chanOf (s.key / 4) (e.y.toNat / 2 ^ 56 % 256) true → s.channel ch = c →
      acc = (⟨0, spadLoc (s.key / 4) ((ownOff (s.key / 4) e.x).getD 0), e.y.toNat % 2 ^ 32, 0, false⟩ : Acc) →
      exec (.rsend p a b) s = .next { ((({ delayed s with
        channels := mput s.channels ch { c with
          permits := c.permits - 1, sender := some s.ctx.uid,
          sends := c.sends ++ [{ ctx := s.ctx.uid, id := e.id, src := acc.loc, len := acc.len, slot := none, d0 := c.d0,
                                 d1 := c.d1 }] },
        ctx := { s.ctx with
          cact := none, block := if s.ctx.block = .rsend then .none else s.ctx.block,
          readyAt := if s.ctx.block = .rsend then s.now else s.ctx.readyAt } } : State).lockBanks (sendHolder ch)
            (banksOf [acc])).at_ (arrival s) (.relayArrival ch)) with turn := .sched }) ∧
    (∀ n c, e.x.toNat = n → s.channel (chanOf (s.key / 4) n false) = c →
      (n < 32 ∧ c.en = true ∧ c.receiverCore = s.key / 4 ∧ 1 ≤ e.y.toNat ∧ e.y.toNat ≤ 8 ∧ e.y.toNat ≤ c.held →
        exec (.rpermit p a b) s = .next (cLeft (({ delayed s with
          channels := mput s.channels (chanOf (s.key / 4) n false) { c with
            held := c.held - e.y.toNat, returns := c.returns ++ [(s.ctx.uid, e.id, e.y.toNat, true)],
            receiver := some s.ctx.uid } } : State).at_ (arrival s) (.permitReturn (chanOf (s.key / 4) n false))))) ∧
      (¬ (n < 32 ∧ c.en = true ∧ c.receiverCore = s.key / 4 ∧ 1 ≤ e.y.toNat ∧ e.y.toNat ≤ 8 ∧ e.y.toNat ≤ c.held) →
        exec (.rpermit p a b) s = .next (s.startTrap s.key .c e (wordTrap 4 (.rpermit p a b))))) ∧
    (32 ≤ e.x.toNat ∨ 1 < e.y.toNat → exec (.rstat p a b) s = .next (s.startTrap s.key .c e (wordTrap 4 (.rstat p a b)))) ∧
    (e.x.toNat < 32 → e.y.toNat = 0 → exec (.rstat p a b) s = .next (cLeft { delayed s with ctx := { s.ctx with
      pend := s.ctx.pend.map fun q => if q.id = e.id then
        { q with due := some (arrival s),
                 wr := [.s a (s.chanStatus (s.key / 4) (chanOf (s.key / 4) e.x.toNat true) false)] } else q } })) ∧
    (∀ c, e.x.toNat < 32 → e.y.toNat = 1 → s.channel (chanOf (s.key / 4) e.x.toNat false) = c → c.receiverCore = s.key / 4 →
      exec (.rstat p a b) s = .next (cLeft { delayed s with
        channels := mput s.channels (chanOf (s.key / 4) e.x.toNat false) { c with receiver := some s.ctx.uid },
        ctx := { s.ctx with
          pend := s.ctx.pend.map fun q => if q.id = e.id then
            { q with due := some (arrival s),
                     wr := [.s a (s.chanStatus (s.key / 4) (chanOf (s.key / 4) e.x.toNat false) true)] } else q } })) ∧
    (e.x.toNat < 32 → e.y.toNat = 1 → (s.channel (chanOf (s.key / 4) e.x.toNat false)).receiverCore ≠ s.key / 4 →
      exec (.rstat p a b) s = .next (cLeft { delayed s with ctx := { s.ctx with
        pend := s.ctx.pend.map fun q => if q.id = e.id then { q with due := some (arrival s), wr := [.s a 0] } else q } }))

/-! ### Steps of the units -/

/-- R27, R77, R78, R138, R182: the head of a station's queue starts: it leaves the queue for the station with its tokens popped,
no register and no byte of memory changes, and its own effect is the next step, but for a matrix command, which its engine's port
takes next, as it has room. A special-function word takes a place in its cluster's queue as it starts, 16 cycles after the last. -/
def Obligations.StationsStart : Prop :=
  ∀ (k : Nat) (st : Station) (s : State) (c : Ctx) (e : QEntry) (rest : List QEntry) (i : Instr), HeadReady s k st c e rest i →
    (∃ t c', exec (.stationStart k st) s = .next t ∧ t.ctxAt k = some c' ∧ atStation c' st = some e ∧
      (c'.queue st).map QEntry.id = rest.map QEntry.id ∧ c'.toks = (c.popToks st e.p).toks ∧ c'.regs = c.regs ∧
      c'.grid = c.grid ∧ c'.masks = c.masks ∧ c'.pend = c.pend ∧ c'.pc = c.pc ∧ t.mem = s.mem ∧
      t.turn = (if portWord i then s.turn else .start st) ∧ (portWord i = false → t.key = k)) ∧
    (st = .v → isVsf i = true → ∃ t c', exec (.sfuRequestAccept k e.id) s = .next t ∧ t.ctxAt k = some c' ∧
      c'.active = some e ∧ c'.regs = c.regs ∧ c'.grid = c.grid ∧ c'.pend = c.pend ∧ t.mem = s.mem ∧ t.turn = .start .v ∧ t.key = k ∧
      mgetD t.sfu (k / 4 / 8) [] = (mgetD s.sfu (k / 4 / 8) []).filter (s.now < ·) ++
        [Nat.max s.now (((mgetD s.sfu (k / 4 / 8) []).filter (s.now < ·)).getLastD s.now) + 16])

/-- R9, R19, R22, R32, R79, R82, R92, R247: a landing writes the word's result, its flags with it, and ends the word; s0 discards
the write; a load's value is what its bytes hold now; an atomic also leaves its new value there. No other register and no other byte
changes. A landing that must wait changes nothing. -/
def Obligations.LandingsTakeEffect : Prop :=
  ∀ (k id : Nat) (s : State) (c : Ctx) (p : Pend), s.ctxAt k = some c → c.pendOf id = some p →
    (s.landable (k / 4) c p = false → exec (.landing k id) s = .next s) ∧
    (∀ d v, MayLand s k id c p → p.act = .vals → p.wr = [.s d v] → p.accs = [] → (d ≠ 0 → .s d ∈ p.dsts) →
      ∃ t c', exec (.landing k id) s = .next t ∧ t.ctxAt k = some c' ∧ c'.reg d = (if d = 0 then 0 else v) ∧
        (∀ r, r ≠ d → c'.reg r = c.reg r) ∧ c'.grid = c.grid ∧ c'.masks = c.masks ∧ c'.vt = c.vt ∧ c'.pc = c.pc ∧
        c'.fpsr = c.fpsr ||| p.flags.setWidth 64 ∧ c'.pend = c.pend.filter (fun q => q.id != id) ∧ t.mem = s.mem) ∧
    (∀ size sgn d a, MayLand s k id c p → p.act = .load size sgn d → p.accs = [a] → Passes s p.anew a → s.bad = [] →
      isFmtLoc a.loc = false → barOf a.loc = none → p.dsts = (if d = 0 then [] else [.s d]) → c.pendingBefore id (.s d) = false →
        a.len = size →
      p.flags = 0 →
      ∃ t c', exec (.landing k id) s = .next t ∧ t.ctxAt k = some c' ∧
        c'.reg d = (if d = 0 then 0 else loadedValue size sgn (s.mem.readLE a.loc size)) ∧
        (∀ r, r ≠ d → c'.reg r = c.reg r) ∧ c'.grid = c.grid ∧ c'.masks = c.masks ∧ c'.fpsr = c.fpsr ∧
        c'.pend = c.pend.filter (fun q => q.id != id) ∧ t.mem = s.mem) ∧
    (∀ op b x d a, MayLand s k id c p → p.act = .amo op b x d → p.accs = [a] → Passes s p.anew a → s.bad = [] →
      Unmirrored s a.loc 8 → isFmtLoc a.loc = false → reserved a.loc = false → barOf a.loc = none → a.len = 8 →
        p.dsts = (if d = 0 then [] else [.s d]) →
      c.pendingBefore id (.s d) = false → p.flags = 0 →
      ∃ t c', exec (.landing k id) s = .next t ∧ t.ctxAt k = some c' ∧
        c'.reg d = (if d = 0 then 0 else s.mem.read64 a.loc) ∧ (∀ r, r ≠ d → c'.reg r = c.reg r) ∧ c'.grid = c.grid ∧
        c'.masks = c.masks ∧ c'.fpsr = c.fpsr ∧
        t.mem = s.mem.writeLE a.loc 8 (atomicLeaves op (s.mem.read64 a.loc) b x))

/-- R19, R28, R92, R149, R151, R248, R316, R403, R404: a store takes effect: the bits under its mask are in memory, no other
byte has changed, and its sc count ends. A message's granules are copied in ascending order, each full then, and its arrival is
posted. A shipped routine runs at its cellar on the sector, which is taken from every holder, and its result is on the way; an
empty slot makes no access. A routine starts from s1, s2 and s3; it computes, sees its own stores, skips the words under a
taken branch, and ends past its last word, when its stores go to the sector together; an address out of the sector or
misaligned aborts it, and nothing is written. (The model's choices: log entries 2 and 53, for the cycle in which the result
lands and the copies recalled.) -/
def Obligations.StoresTakeEffect : Prop :=
  ∀ (k id : Nat) (s : State) (c : Ctx),
    (∀ (p : PStore) (a : Acc) (m v : Word), MayStore s k id c p → p.kind = .plain → p.parts = [⟨a, m, v⟩] →
      Passes s p.anew a → Unmirrored s a.loc a.len → isFmtLoc a.loc = false → reserved a.loc = false → barOf a.loc = none →
      ∃ t c', exec (.storeTakesEffect k id) s = .next t ∧ t.ctxAt k = some c' ∧ c'.sc = c.sc - 1 ∧ c'.regs = c.regs ∧
        c'.grid = c.grid ∧ c'.pend = c.pend ∧ c'.stores = c.stores.filter (fun q => q.id != p.id) ∧
        (∀ x, x < a.loc ∨ a.loc + a.len ≤ x → t.mem.read x = s.mem.read x) ∧
        t.mem.readLE a.loc a.len =
          ((BitVec.ofNat 64 (s.mem.readLE a.loc a.len) &&& ~~~m) ||| (v &&& m)).toNat % 256 ^ a.len) ∧
    (∀ (p : PStore) (core off len entry incr : Nat) (accs : List Acc), MayStore s k id c p →
      p.kind = .msgw core off len entry incr → p.parts.map (·.acc) = accs → (∀ a ∈ accs, Passes s p.anew a) → s.bad = [] →
      Unmirrored s (spadLoc core off) len → accs.length = len / 16 → off + len ≤ 2 ^ 19 → core < numCores → off % 16 = 0 →
        s.arrivals = [] →
      ∃ t c', exec (.msgwArrival k id) s = .next t ∧ t.ctxAt k = some c' ∧ c'.sc = c.sc - 1 ∧ c'.regs = c.regs ∧
        t.mem = (accs.mapIdx fun j a => (j, a)).foldl (fun m (x : Nat × Acc) =>
          m.writeBytes (spadLoc core (off + 16 * x.1)) (m.readBytes x.2.loc 16)) s.mem ∧
        (∀ j, j < accs.length → t.isFull core (off / 16 + j) = true) ∧ t.arrivals = [(64 * core + entry, incr)]) ∧
    (∀ (p : Pend) (n : BitVec 7) (x y : Word) (d : SReg) (a : Acc), s.ctxAt k = some c →
      c.pendOf id = some p → p.id = id → p.act = .fsh n x y d none → p.accs = [a] →
      (mgetD s.cellars n.toNat [] = [] →
        ∃ t c', exec (.fshAtCellar k id) s = .next t ∧ t.ctxAt k = some c' ∧ c'.regs = c.regs ∧ t.mem = s.mem ∧ t.dir = s.dir ∧
          (c'.pendOf id).map (fun q => (q.due, q.wr, q.act)) = some (some (s.now + 1), [.s d 0x8000000000000000], .vals)) ∧
      (∀ (s1 : State) (v : Word), mgetD s.cellars n.toNat [] ≠ [] → isHbm a.loc = true → Passes s p.anew a → s.bad = [] →
        (s.takeSector (a.loc / 64)).cellarRun n a.loc x y = (s1, v) → s1.ctxAt k = some c →
        ∃ t c', exec (.fshAtCellar k id) s = .next t ∧ t.ctxAt k = some c' ∧ c'.regs = c.regs ∧ t.mem = s1.mem ∧
          (∀ j < 6, dirState t (a.loc / 64) j = .i) ∧
          (c'.pendOf id).map (fun q => (q.due, q.wr, q.act)) = some (some (s.now + 1), [.s d v], .vals))) ∧
    (∀ (n : BitVec 7) (loc : Nat) (x y : Word) (z0 : Cell) (ws : List IWord) (old : List Byte), ws = mgetD s.cellars n.toNat [] →
      old = s.mem.readBytes (loc / 64 * 64) 64 → z0 = cellEntry (loc % 64) x y old →
      (z0.reg 1 = BitVec.ofNat 64 (loc % 64) ∧ z0.reg 2 = x ∧ z0.reg 3 = y ∧ ∀ r, r = 0 ∨ 3 < r → z0.reg r = 0) ∧
      (ws ≠ [] → cellRun ws 0 z0 = none → s.cellarRun n loc x y = (counted 0x198 s, 0x8000000000000001)) ∧
      (∀ z, ws ≠ [] → cellRun ws 0 z0 = some z →
        s.cellarRun n loc x y = (if z.buf = old then s else s.memWrite (loc / 64 * 64) z.buf, z.reg 2))) ∧
    (∀ (w : IWord) (r : List IWord) (z : Cell) (d a b : SReg) (i : BitVec 9) (f : BitVec 12) (n o : Nat) (v : Word),
      cellRun [] n z = some z ∧ cellRun (w :: r) (n + 1) z = cellRun r n z ∧
      (∀ q, (z.put d v).reg q = if q = d ∧ d ≠ 0 then v else z.reg q) ∧
      (decode w = some (.add 0 d a b) → cellRun (w :: r) 0 z = cellRun r 0 (z.put d (z.reg a + z.reg b))) ∧
      (decode w = some (.beq 0 a b f) →
        cellRun (w :: r) 0 z = cellRun r (if z.reg a = z.reg b then f.toNat - 1 else 0) z) ∧
      (o = (z.reg a + i.signExtend 64 * 8).toNat →
        (decode w = some (.ld 0 d a i) → cellRun (w :: r) 0 z =
          if o < 64 ∧ o % 8 = 0 then cellRun r 0 (z.put d (BitVec.ofNat 64 (leNat ((z.buf.drop o).take 8)))) else none) ∧
        (decode w = some (.sd 0 d a i) → cellRun (w :: r) 0 z =
          if o < 64 ∧ o % 8 = 0 then
            cellRun r 0 { z with buf := z.buf.take o ++ leBytes (z.reg d).toNat 8 ++ z.buf.drop (o + 8) }
          else none)))

/-- R105, R148, R151, R182, R183, R184, R188, R189, R191, R304, R306: an engine accepts the command that its port hands over,
its issuer joining the rotation, and refuses one whose capability names no engine with code 1; the head of the first issuer in
rotation that has one to serve is put in service, or leaves with the code of the first check that fails in the port status, an
MBALLOC with all ones for its result; a command that is done leaves its engine, its result lands and its tc count ends, and its
issuer goes to the end of the rotation, or out of it with no command accepted there; a copy that is done leaves C, its cc count
ends, its locks with it, and its arrival is posted (the full-empty bits of a copy are set with its granules, CopyCommandsRun);
a band's arrival fills its granules or is posted; a format register takes its defined bits or sets its error bit. (The model's
choices: log entries 13 and 110.) -/
def Obligations.EnginesServe : Prop :=
  ∀ (k en : Nat) (s : State) (c : Ctx) (e : QEntry), s.ctxAt k = some c →
    (c.mact = some e → e.cap.toNat / 2 ^ 40 % 2 ^ 12 = en →
      (e.cap.toNat / 2 ^ 52 % 16 = 1 → en < 160 →
        exec (.matrixCommandAccept k) s = .next { s.putCtx k { c with mact := none, min := c.min ++ [e] } with
          engines := mupd s.engines en Engine.reset fun g =>
            { g with rot := if c.uid ∈ g.rot then g.rot else g.rot ++ [c.uid] } }) ∧
      (e.cap.toNat / 2 ^ 52 % 16 ≠ 1 ∨ 160 ≤ en →
        exec (.matrixCommandAccept k) s = .next (s.putCtx k ({ c with mact := none }.matRefuse s.now e 1)))) ∧
    (∀ code, (c.matRefuse s.now e code).mport = refusedStatus c.mport code) ∧
    (∀ code i, e.word = some i → (s.matCode en c e i = code ↔ refusal s en c e i code)) ∧
    (∀ p0 p a b cap code, e.word = some (.mballoc p a b cap) → c.pendOf e.id = some p0 → p0.st = .m → p0.flags = 0 → a ≠ 0 →
      .s a ∈ p0.dsts → c.pendingBefore e.id (.s a) = false →
      (c.matRefuse s.now e code).reg a = BitVec.allOnes 64 ∧ (∀ r, r ≠ a → (c.matRefuse s.now e code).reg r = c.reg r) ∧
      (c.matRefuse s.now e code).tc = c.tc - 1 ∧ (c.matRefuse s.now e code).pendOf e.id = none) ∧
    (s.matPick en = none → exec (.matrixCommandStart en) s = .next s) ∧
    (s.matPick en = some (k, e) → ∃ before u after, (s.engine en).rot = before ++ u :: after ∧ s.berthOf u = some k ∧
      s.matHead en k = some e ∧ ∀ v ∈ before, ∀ j, s.berthOf v = some j → s.matHead en j = none) ∧
    (∀ i, s.matPick en = some (k, e) → e.word = some i →
      (e.begun = true ∨ s.matCode en c e i = 0 →
        ∃ t, exec (.matrixCommandStart en) s = .next t ∧ t.turn = .engine en ∧ (t.engine en).serving = some k ∧
          (t.engine en).ran = false ∧ (t.engine en).rot = (s.engine en).rot ∧ t.mem = s.mem ∧
          t.ctxAt k = some c ∧ ∀ b ∈ e.drainBanks, (b.2, drainHolder c.uid) ∈ (t.coreAt b.1).locks) ∧
      (e.begun = false → s.matCode en c e i ≠ 0 →
        ∃ t, exec (.matrixCommandStart en) s = .next t ∧ t.turn = s.turn ∧ t.mem = s.mem ∧
          (t.engine en).rot = (s.engine en).rot.filter (· != c.uid) ++
            (if ∃ x ∈ c.min, x.id ≠ e.id ∧ capObj x.cap = en then [c.uid] else []) ∧
          t.ctxAt k = some ({ c with min := c.min.filter fun x => x.id != e.id }.matRefuse s.now e (s.matCode en c e i)))) ∧
    (∀ p d v, s.served en = some (k, c, e) → c.pendOf e.id = some p → p.flags = 0 → p.st = .m →
      (p.wr = [] ∨ p.wr = [.s d v] ∧ (d ≠ 0 → .s d ∈ p.dsts) ∧ c.pendingBefore e.id (.s d) = false) →
      ∃ t c', exec (.matrixCommandComplete en) s = .next t ∧ t.ctxAt k = some c' ∧ c'.min = (c.min.filter fun x => x.id != e.id) ∧
        c'.tc = c.tc - 1 ∧
        (p.wr = [.s d v] → d ≠ 0 → c'.reg d = v) ∧ (∀ r, p.wr = [] ∨ r ≠ d → c'.reg r = c.reg r) ∧ c'.grid = c.grid ∧
        c'.pendOf e.id = none ∧ (t.engine en).serving = none ∧ t.mem = s.mem ∧
        (t.engine en).rot = (s.engine en).rot.filter (· != c.uid) ++
          (if ∃ x ∈ c.min, x.id ≠ e.id ∧ capObj x.cap = en then [c.uid] else [])) ∧
    (c.cact = some e →
      ∃ t c', exec (.copyComplete k e.id) s = .next t ∧ t.ctxAt k = some c' ∧ c'.cact = none ∧ c'.cc = c.cc - 1 ∧
        c'.regs = c.regs ∧ c'.pendOf e.id = none ∧ (t.coreAt (k / 4)).copying = none ∧ t.mem = s.mem ∧
        (∀ x ∈ t.cores, ∀ l ∈ x.2.locks, l.2 ≠ copyHolder c.uid) ∧
        (e.cKind ≠ 2 → t.arrivals = s.arrivals) ∧
        (∀ n, n = 64 * (match placeOf (k / 4) e.x.toNat with | .spad core _ => core | _ => k / 4) + e.cWent → e.cKind = 2 →
          t.arrivals = mput s.arrivals n (mgetD s.arrivals n 0 + e.cWinc))) ∧
    (∀ (core off len : Nat) (went : BitVec 6) (winc : BitVec 16),
      (0 < len → ∃ t, exec (.drainBandArrival core 1 went winc off len) s = .next t ∧ t.mem = s.mem ∧
        ∀ g, off / 16 ≤ g → 16 * g < off + len → t.isFull core g = true) ∧
      exec (.drainBandArrival core 2 went winc off len) s = .next { s with
        arrivals := mput s.arrivals (64 * core + went.toNat) (mgetD s.arrivals (64 * core + went.toNat) 0 + winc.toNat) } ∧
      exec (.drainBandArrival core 0 went winc off len) s = .next s) ∧
    (∀ (core bank : Nat) (v : Word),
      (fmtRefused v.toNat = true → exec (.bankFormatWrite core bank v) s = .next { s with
        fmts := mput s.fmts (16 * core + bank) (mgetD s.fmts (16 * core + bank) 0xF ||| 0x8000000000000000) }) ∧
      (fmtRefused v.toNat = false → ∃ w : Word, (∀ j, w.getLsbD j =
          (if j = 63 then (mgetD s.fmts (16 * core + bank) 0xF).getLsbD 63 && !v.getLsbD 63
           else (decide (j < 7) || (decide (12 ≤ j) && decide (j < 31))) && v.getLsbD j)) ∧
        exec (.bankFormatWrite core bank v) s = .next { s with fmts := mput s.fmts (16 * core + bank) w }))

/-- R137, R151, R194, R195, R198, R199, R201: the oldest send's bytes arrive in the channel's next slot, the receiver's count and
the sequence rise, the arrival is posted to the receiver by its kind (its granules full, or its waiting-task entry counted), and the
RSEND of a living context completes; a send that outlived its enablement arrives in the slot that the disable fixed for it, under
the descriptor of its start, and changes no count; returned permits come back and the RPERMIT completes. A descriptor write with
reserved or bad fields, or one that changes an enabled channel, is refused and sets err; else it is stored, err kept unless the
write clears it; enabling gives the channel its slots as permits; disabling clears its counts, voids the permits in flight, and
fixes the slots of the sends in flight from next on. (The model's choices: log entries 16, 99: a lock that only reads a bank of the
receiver, an RSEND's, holds no arrival.) -/
def Obligations.RelayChannels : Prop :=
  ∀ (ch : Nat) (s : State) (c : Channel), s.channel ch = c →
    (∀ x rest k c0, c.sends = x :: rest → s.berthOf x.ctx = some k → s.ctxAt k = some c0 →
      (c0.pendOf x.id).isSome = true → s.bad = [] → (∀ y ∈ s.saved, y.2.uid ≠ x.ctx) → ∀ recv off : Nat,
      recv = x.d0.toNat / 2 ^ 11 % 2 ^ 11 →
      off = x.d1.toNat % 2 ^ 19 + 16 * (x.d0.toNat / 2 ^ 32 % 2 ^ 15) * x.slot.getD c.next →
      s.arrivalLocked recv [⟨0, spadLoc recv off, x.len, 0, false⟩] = false → Unmirrored s (spadLoc recv off) x.len →
      ∃ t c', exec (.relayArrival ch) s = .next t ∧ t.ctxAt k = some c' ∧ c'.cc = c0.cc - 1 ∧ c'.regs = c0.regs ∧
        c'.pendOf x.id = none ∧ t.mem = s.mem.writeBytes (spadLoc recv off) (s.mem.readBytes x.src x.len) ∧
        (x.d1.toNat / 2 ^ 19 % 4 = 1 → ∀ g, off / 16 ≤ g → 16 * g < off + x.len → t.isFull recv g = true) ∧
        (x.d1.toNat / 2 ^ 19 % 4 ≠ 1 → t.fe = s.fe) ∧
        t.arrivals = (let n := 64 * recv + x.d1.toNat / 2 ^ 21 % 64
          if x.d1.toNat / 2 ^ 19 % 4 = 2 then mput s.arrivals n (mgetD s.arrivals n 0 + x.d1.toNat / 2 ^ 27 % 2 ^ 16)
          else s.arrivals) ∧
        t.channel ch = (if x.slot = none then
          { c with sends := rest, next := (c.next + 1) % Nat.max 1 (x.d0.toNat / 2 ^ 22 % 16), held := c.held + 1,
                   seq := c.seq + 1 } else { c with sends := rest })) ∧
    (∀ uid id n valid rest k c0, c.returns = (uid, id, n, valid) :: rest → s.berthOf uid = some k → s.ctxAt k = some c0 →
      (c0.pendOf id).isSome = true → (∀ y ∈ s.saved, y.2.uid ≠ uid) →
      ∃ t c', exec (.permitReturn ch) s = .next t ∧ t.ctxAt k = some c' ∧ c'.cc = c0.cc - 1 ∧ c'.regs = c0.regs ∧
        c'.pendOf id = none ∧ t.mem = s.mem ∧
        t.channel ch = { c with
          returns := rest, permits := if valid then c.permits + n else c.permits, backAt := if valid then s.now else c.backAt,
          backN := if valid then n + (if c.backAt = s.now then c.backN else 0) else c.backN }) ∧
    (∀ v, (chanRefuses ch c (chanLow c) v = true → exec (.relayDescriptorWrite ch true v) s = .next
        { s with channels := mput s.channels ch { c with d0 := c.d0 ||| 0x8000000000000000 } }) ∧
      (chanRefuses ch c (chanLow c) v = false → exec (.relayDescriptorWrite ch true v) s = .next
        { s with channels := mput s.channels ch { c with d1 := v } }) ∧
      exec (.relayDescriptorWrite ch false v) s =
        (if v.getLsbD 26 then exec (.relayChannelEnable ch v) s else exec (.relayChannelDisable ch v) s)) ∧
    (∀ v w e : Word, w = (v ||| 0x4000000) &&& 0x7FFFFFFFFFFFFFFF → e = (if v.getLsbD 63 then 0 else c.d0 &&& 0x8000000000000000) →
      (chanRefuses ch c w c.d1 = true → exec (.relayChannelEnable ch v) s = .next
        { s with channels := mput s.channels ch { c with d0 := c.d0 ||| 0x8000000000000000 } }) ∧
      (chanRefuses ch c w c.d1 = false → c.en = false → exec (.relayChannelEnable ch v) s = .next
        { s with channels := mput s.channels ch { c with
          d0 := w ||| e, permits := w.toNat / 2 ^ 22 % 16, backN := 0, held := 0, next := 0, seq := 0 } }) ∧
      (chanRefuses ch c w c.d1 = false → c.en = true → exec (.relayChannelEnable ch v) s = .next
        { s with channels := mput s.channels ch { c with d0 := w ||| e } })) ∧
    (∀ v w e : Word, w = v &&& 0x7FFFFFFFFBFFFFFF → e = (if v.getLsbD 63 then 0 else c.d0 &&& 0x8000000000000000) →
      (chanReserved w c.d1 = true → exec (.relayChannelDisable ch v) s = .next
        { s with channels := mput s.channels ch { c with d0 := c.d0 ||| 0x8000000000000000 } }) ∧
      (chanReserved w c.d1 = false → c.en = false → exec (.relayChannelDisable ch v) s = .next
        { s with channels := mput s.channels ch { c with d0 := w ||| e } }) ∧
      (chanReserved w c.d1 = false → c.en = true →
      ∃ t c', exec (.relayChannelDisable ch v) s = .next t ∧ t = { s with channels := mput s.channels ch c' } ∧
        c'.d0 = w ||| e ∧ c'.d1 = c.d1 ∧ c'.permits = 0 ∧ c'.backN = 0 ∧ c'.held = 0 ∧ c'.next = 0 ∧ c'.seq = 0 ∧
        c'.returns = c.returns.map (fun r => (r.1, r.2.1, r.2.2.1, false)) ∧
        c'.sends = c.sends.filter (·.slot.isSome) ++ (c.sends.filter (·.slot.isNone)).mapIdx fun i x =>
          { x with slot := some ((c.next + i) % Nat.max 1 (c.d0.toNat / 2 ^ 22 % 16)) }))

/-- R33, R83, R192, R310, R330, R379, R380, R384: a trap drains its context and enters the handler: the old pc, cause, value
and information saved, privilege on, the pc at tvec. A trap in privileged code discards the context, and the hub counts it with
its cause and epc. The lowest pending asynchronous cause is taken so at a boundary, whose information is the number of records
in the queue of eight; with none pending, or in a handler, nothing changes. A fault at an engine suspends the command at its
progress and posts a record: the path of the command, its cause and address, its position in its station's queue; where the
command was in service, the next issuer has its turn. A fault of an entry that is not there, or is suspended already, changes
nothing. (The model's choices: log entries 6, 25, 46 and 76.) -/
def Obligations.TrapsAreTaken : Prop :=
  ∀ (k : Nat) (s : State),
    (∀ (cause : BitVec 8) (tval tinfo epc : Word),
      (s.ctxAt k = none → exec (.trapEntry k cause tval tinfo epc) s = .next s ∧ exec (.asyncTrapEntry k) s = .next s) ∧
      (∀ c, s.ctxAt k = some c → c.priv = false → exec (.trapEntry k cause tval tinfo epc) s =
        .next ((s.drain k).updCtx k fun c1 => entered c1 cause.toNat tval tinfo epc)) ∧
      (∀ c, s.ctxAt k = some c → c.priv = true → exec (.trapEntry k cause tval tinfo epc) s =
        .next (({ counted 0x180 (s.drain k) with
          doubled := (s.drain k).doubled ++ [(BitVec.ofNat 64 cause.toNat, epc)] } : State).endCtx k true))) ∧
    (∀ c, s.ctxAt k = some c →
      (c.priv = true ∨ c.block = .halted ∧ c.preempt = none ∨ c.afr = [] ∧ c.preempt = none →
        exec (.asyncTrapEntry k) s = .next s) ∧
      (c.priv = false → (c.block = .halted → c.preempt ≠ none) →
        (∀ s1, s1 = (s.putCtx k (c.atBoundary s.now)).drain k →
          ((∃ r ∈ c.afr, r.w0.toNat / 16 % 256 ≠ 19) → exec (.asyncTrapEntry k) s =
            .next (s1.updCtx k fun c1 => entered c1 18 0 (BitVec.ofNat 64 c.afr.length) c.pc)) ∧
          (c.afr ≠ [] → (∀ r ∈ c.afr, r.w0.toNat / 16 % 256 = 19) → exec (.asyncTrapEntry k) s =
            .next (s1.updCtx k fun c1 => entered c1 19 0 (BitVec.ofNat 64 c.afr.length) c.pc))) ∧
        (∀ who s1, s1 = ((s.haltEngines k).updCtx k fun x => { x.atBoundary s.now with preempt := none }).drain k →
          c.afr = [] → c.preempt = some who → exec (.asyncTrapEntry k) s =
            .next (s1.updCtx k fun c1 => entered c1 20 who 0 c.pc)))) ∧
    (∀ (st : Station) (id : Nat) (cause : BitVec 8) (wr grow : Bool) (va prog : Word),
      let w0 (path place : Nat) : Word := BitVec.ofNat 64 (path + 16 * cause.toNat + (if wr then 4096 else 0) +
        (if cause = 11 ∧ grow = true then 8192 else 0) + 16384 * (place % 8))
      (s.ctxAt k = none → exec (.engineFault k st id cause wr grow va prog) s = .next s) ∧
      ∀ c, s.ctxAt k = some c →
        ((st = .m → ∀ x ∈ c.min, x.id = id → x.susp = true) → (st = .c → ∀ x ∈ c.cact, x.id = id → x.susp = true) →
          exec (.engineFault k st id cause wr grow va prog) s = .next s) ∧
        (∀ e, st = .m → (c.min.find? fun x => x.id == id) = some e → e.susp = false → ∃ t c',
          c' = posted { c with min := c.min.map fun x =>
              if x.id = id then { x with susp := true, begun := true, prog := prog } else x }
            ⟨w0 (matrixPath e.word) ((c.min ++ c.mact.toList ++ c.mq).findIdx fun x => x.id == id),
             va, prog, wordBits e.word, none, some id⟩ ∧
          exec (.engineFault k st id cause wr grow va prog) s = .next t ∧ t.mem = s.mem ∧ t.ctxAt k = some c' ∧
          t.engine (capObj e.cap) = (if (s.engine (capObj e.cap)).serving = some k
            then turnOver (capObj e.cap) c' (s.engine (capObj e.cap)) else s.engine (capObj e.cap))) ∧
        (∀ e, st = .c → c.cact = some e → e.id = id → e.susp = false → ∃ t,
          exec (.engineFault k st id cause wr grow va prog) s = .next t ∧ t.mem = s.mem ∧
          (t.coreAt (k / 4)).copying ≠ some k ∧
          t.ctxAt k = some (posted { c with cact := some { e with susp := true, begun := true, prog := prog } }
            ⟨w0 1 0, va, prog, wordBits e.word, none, some id⟩)))

/-- R19, R239, R328, R332, R373, R381, R385, R386: the steps of the privileged registers of one context. ctl takes erc and
loses saved, and what a save bound goes on with the context; capsign takes the signed capability, or 0 for a value that names
no engine or has reserved bits; the head fault record leaves, its held access kept or dropped; a request halts each context
that it names within the bound, and the halt makes cause 20 pending, a handler running on; a WFE may end without an event. (The
model's choices: log entry 26.) -/
def Obligations.PrivilegedSteps : Prop :=
  ∀ (k : Nat) (s : State) (c : Ctx), s.ctxAt k = some c →
    (∀ v, exec (.ctlWrite k v) s = .next (({ s with
      saved := if c.saved then s.saved.filter (fun x => x.2.uid != c.uid) else s.saved } : State).putCtx k
        { c with erc := v.getLsbD 0, saved := false })) ∧
    (∀ v : Word, v.toNat / 2 ^ 52 % 16 = 1 → v.toNat / 2 ^ 40 % 2 ^ 12 < 160 → v.getLsbD 31 = false →
      v.toNat / 2 ^ 36 % 16 = 0 → v.toNat / 2 ^ 56 = 0 →
      exec (.capsignWrite k v) s = .next (s.putCtx k { c with
        capsign := BitVec.ofNat 64 (v.toNat / 2 ^ 16 * 2 ^ 16 +
          (Config.capCheck s.resets (v.toNat / 2 ^ 40 % 2 ^ 12) (v.extractLsb' 16 48)).toNat) })) ∧
    (∀ v : Word, ¬ (v.toNat / 2 ^ 52 % 16 = 1 ∧ v.toNat / 2 ^ 40 % 2 ^ 12 < 160 ∧ v.getLsbD 31 = false ∧
        v.toNat / 2 ^ 36 % 16 = 0 ∧ v.toNat / 2 ^ 56 = 0) →
      exec (.capsignWrite k v) s = .next (s.putCtx k { c with capsign := 0 })) ∧
    exec (.afpopKeep k) s = .next (s.putCtx k (popRecord c)) ∧
    (∀ r l, c.afr = r :: l →
      (r.held = none → exec (.afpopDrop k) s = .next (s.putCtx k (popRecord c))) ∧
      (∀ id p, r.held = some id → (c.pend.find? fun q => q.id == id && q.late) = some p → p.ctr = some .lc →
        ∃ t c', exec (.afpopDrop k) s = .next t ∧ t.ctxAt k = some c' ∧ c'.regs = c.regs ∧ c'.grid = c.grid ∧
          c'.lc = c.lc - 1 ∧ c'.pend = c.pend.filter (fun q => q.id != id) ∧ t.mem = s.mem) ∧
      (∀ id p, r.held = some id → (c.pend.find? fun q => q.id == id && q.late) = none →
        (c.stores.find? fun q => q.id == id && q.late) = some p →
        ∃ t c', exec (.afpopDrop k) s = .next t ∧ t.ctxAt k = some c' ∧ c'.regs = c.regs ∧ c'.grid = c.grid ∧
          c'.sc = c.sc - 1 ∧ c'.stores = c.stores.filter (fun q => q.id != id) ∧ t.mem = s.mem)) ∧
    (∀ core (v : Word), k < 4 * numCores →
      (v.toNat = k / 4 + 2 ^ 11 + 2 ^ 22 * 2 ^ (k % 4) →
        ∃ d, d ≤ 358 ∧ exec (.preemptionRequest core v) s = .next ((delayed s).at_ (s.now + 1 + d) (.preemptionHalt k core))) ∧
      (v.toNat / 2 ^ 11 % 2 ^ 11 = 0 → exec (.preemptionRequest core v) s = .next s)) ∧
    (∀ core, c.priv = true →
      exec (.preemptionHalt k core) s = .next (s.putCtx k { c with preempt := some (BitVec.ofNat 64 core) })) ∧
    (∀ core s1 s2, c.priv = false → s1 = s.putCtx k { c with preempt := some (BitVec.ofNat 64 core) } →
      s2 = ((s1.haltEngines k).updCtx k (Ctx.atBoundary s.now)).drain k →
      exec (.preemptionHalt k core) s = .next (s2.updCtx k fun x => { x with block := .halted })) ∧
    (c.block = .wfe → ∃ t c', exec (.wfeEndWithoutEvent k) s = .next t ∧ t.ctxAt k = some c' ∧ c'.block = .none ∧
      c'.regs = c.regs ∧ c'.grid = c.grid ∧ c'.pc = c.pc ∧ t.mem = s.mem)

/-- R137, R140, R317: an idle or full core's sequencer goes to the berth that has been ready longest, then to the higher
priority, then to the lower number. Arrivals raise an entry's counter, which fires at its threshold, unless its earlier record
still waits, and ends the waits that it has reached. A record that is taken becomes a context in the lowest free berth with its
code, frame, parent and allocation, unprivileged. (The model's choices: log entry 36.) -/
def Obligations.ThreadsRun : Prop :=
  ∀ (core : Nat) (s : State),
    (s.mustSwitch core = false → exec (.sequencerSwitch core) s = .next s) ∧
    (∀ b cb, s.mustSwitch core = true → (b, cb) ∈ s.readyOthers core (s.coreAt core).run →
      (∀ x ∈ s.readyOthers core (s.coreAt core).run, x.1 ≠ b → cb.readySince s.now < x.2.readySince s.now ∨
        (cb.readySince s.now = x.2.readySince s.now ∧ (x.2.prio < cb.prio ∨ (x.2.prio = cb.prio ∧ b < x.1)))) →
      ∃ t, exec (.sequencerSwitch core) s = .next t ∧ (t.coreAt core).run = some b ∧ (t.coreAt core).runAt = s.now ∧
        t.mem = s.mem) ∧
    (∀ (en : BitVec 6) (n m : Nat) (w : WtEntry), mgetD s.wt (64 * core + en.toNat) WtEntry.reset = w →
      m = Nat.min (w.counter + n) (2 ^ 32 - 1) →
      ∃ t, exec (.waitingTaskArrival core en n) s = .next t ∧
        ((∀ x ∈ s.saved, ∀ id thr, x.2.block = .cntwait id en.toNat thr → x.2.core ≠ core ∨ m < thr) → t.mem = s.mem) ∧
        (∀ q, w.armed = true → w.thr ≤ m → w.qr = some q →
          ((s.coreAt core).ready.all fun x => x.entry != some en.toNat) = true →
          mget t.wt (64 * core + en.toNat) = some { counter := m - w.thr, thr := w.thr, armed := false, qr := none } ∧
          (t.coreAt core).ready = (s.coreAt core).ready ++ [⟨q, some en.toNat⟩]) ∧
        (w.armed = false ∨ m < w.thr →
          mget t.wt (64 * core + en.toNat) = some { w with counter := m } ∧ (t.coreAt core).ready = (s.coreAt core).ready) ∧
        (∀ (b : Fin 4) c id thr p d v, s.ctxAt (4 * core + b) = some c → c.waitNow = .cntwait id en.toNat thr → thr ≤ m →
          c.pendOf id = some p → p.wr = [.s d v] →
          ∃ c', t.ctxAt (4 * core + b) = some c' ∧ c'.waitNow = .landing id ∧
            (c'.pendOf id).map (fun q => (q.due, q.wr)) = some (some s.now, [.s d (BitVec.ofNat 64 m)]))) ∧
    (∀ q b e, s.freeBerth core = some b → s.env q.env = some e →
      (∀ i, ((∃ en, s.readyPick core = some ⟨q, en⟩) ∧ i = Instr.localReadyListTake core) ∨
          (∃ l aged, s.popOk core = some (l, aged, q) ∧ i = Instr.runQueuePop core) →
        ∃ t c', exec i s = .next t ∧ t.ctxAt (4 * core + b) = some c' ∧ t.mem = s.mem ∧ c'.pc = q.r.code ∧ c'.priv = false ∧
          (∀ r, c'.reg r = if r = 2 then q.r.frame else if r = 3 then q.r.parent else 0) ∧
          c'.rows = (q.r.rows.toNat + 3) / 4 * 4 ∧ c'.gran = q.r.gran.toNat ∧ c'.prio = q.r.flags.toNat % 8 ∧
          c'.root = e.root ∧ c'.tvec = e.tvec ∧ c'.env = q.env) ∧
      (∀ l aged, s.popOk core = some (l, aged, q) → ∃ t, exec (.runQueuePop core) s = .next t ∧
        (t.runq (8 * dieOf core + l)).items = (s.runq (8 * dieOf core + l)).items.drop 1))

/-- R141, R382, R383: where the contexts that a blocked one waits for form no closed set, its timer starts again; where they
do, and the lowest berth of the set waits for a token that no word of its own has still to push, it abandons its wait and takes
the deadlock trap. (The model's choices: log entry 18.) -/
def Obligations.DeadlockIsBroken : Prop :=
  ∀ (k : Nat) (s : State) (c : Ctx) (fuel : Nat), s.ctxAt k = some c →
    fuel = 16 * s.liveKeys.length * s.liveKeys.length + 16 →
    (s.probeGo fuel [c.uid] [] = none → exec (.deadlockProbe k) s = .next (s.putCtx k { c with blockedAt := s.now })) ∧
    (∀ set v cv w p, s.probeGo fuel [c.uid] [] = some set → v ∈ set → (∀ x ∈ set, v ≤ x) → s.ctxAt v = some cv →
      s.awaited v = some w → cv.block = .tokens p → (∀ q ∈ waitsOf .s p, cv.pushComing q = false) →
      ∀ s1 ca, (s.abandon v).ctxAt v = some ca → ca.priv = false →
      s1 = ((s.abandon v).drain v).updCtx v (fun x => entered x 15 w.tval 0 cv.pc) →
      exec (.deadlockProbe k) s = .next (s1.updCtx k fun x => { x with blockedAt := s1.now }))

/-! ### Work from outside -/

/-- R113, R119, R124, R126, R127, R129, R208, R348, R349, R352, R371, R410: a doorbell of a busy slot sets its error bit; of an
idle one takes the wake, whose first failing check gives the code that is reported later, and a launch where none fails; the
report clears busy. A slice boundary always comes again: with no team waiting it does nothing else; with fewer teams resident
than the capacity it admits the head of the waiting list where its core has room, with the registers of a new context; else it
swaps out the team admitted earliest, saved and last in the list, unless a context of it runs its handler or a page of its area
faults. A byte written to the environments, the early-read default, a vocabulary's fields or an idle slot's wake is stored; one
to a busy slot's wake sets its error bit; one to an offset of no table does nothing. The host reaches the scratchpads' bytes
and whole format registers, and any other access to the windows completes as unsupported, as every one does in recovery. (The
model's choices: log entries 2, 21 and 52.) -/
def Obligations.HostWritesWork : Prop :=
  ∀ (s : State),
    (∀ (slot : BitVec 3) (v : Word) (o : Nat), o = 0x1030 + 64 * slot.toNat →
      ((s.cfg.read o).getLsbD 0 = true →
        exec (.launchSlotDoorbell slot v) s = .next { s with cfg := s.cfg.write o (s.cfg.read o ||| 2) }) ∧
      ((s.cfg.read o).getLsbD 0 = false → v.getLsbD 0 = false → exec (.launchSlotDoorbell slot v) s = .next s) ∧
      (∀ w u, (s.cfg.read o).getLsbD 0 = false → v.getLsbD 0 = true → w = s.wakeOf slot.toNat →
        u = { s with cfg := s.cfg.write o (s.cfg.read o ||| 1) } →
        (wakeEarly u w ≠ 0 → exec (.launchSlotDoorbell slot v) s = .next (codeSent s.now u slot (wakeEarly u w) w)) ∧
        (∀ e rd, wakeEarly u w = 0 → u.env w.env = some e →
          rd = u.hubRead { root := e.root.toNat, asid := e.asid, ks := [] } w.hdr 64 →
          (∀ s1 z, rd = (s1, .fault z) → exec (.launchSlotDoorbell slot v) s = .next (codeSent s.now s1 slot 13 w)) ∧
          (∀ s1 bs s2, rd = (s1, .ok bs) → s1.statusLocs e w.status = (s2, .error .fault) →
            exec (.launchSlotDoorbell slot v) s = .next (codeSent s.now s2 slot 13 w)) ∧
          ((∃ s1, rd = (s1, .retry)) ∨ (∃ s1 bs s2, rd = (s1, .ok bs) ∧ s1.statusLocs e w.status = (s2, .error .later)) →
            exec (.launchSlotDoorbell slot v) s = .next { s with lateDoors := s.lateDoors ++ [(s.now + 1, slot.toNat, v)] }) ∧
          (∀ s1 bs s2 ps, rd = (s1, .ok bs) → s1.statusLocs e w.status = (s2, .ok ps) →
            (wakeLate s2 w e.asid bs ≠ 0 →
              exec (.launchSlotDoorbell slot v) s = .next (codeSent s.now s2 slot (wakeLate s2 w e.asid bs) w)) ∧
            (∀ l, wakeLate s2 w e.asid bs = 0 → l = launchMade s2 slot w bs →
              exec (.launchSlotDoorbell slot v) s = .next (codeSent s.now
                (State.admitLaunch l.teams { s2 with launches := s2.launches ++ [l], nextLaunch := s2.nextLaunch + 1 } l.id)
                slot 0 w))))) ∧
      (∀ (code : Byte) (env : Nat) (status : Word) (u : State),
        u = { s with cfg := (s.cfg.write o (s.cfg.read o &&& 0xFE)).write (o + 1) code } →
        ((∀ l ∈ s.launches, l.slot ≠ slot ∨ l.reported = true) →
          exec (.launchStatusReport slot code env status) s = .next (u.statusWrite env status code.toNat)) ∧
        (∀ l, s.launches = [l] → l.slot = slot → l.reported = false → code = 0 →
          exec (.launchStatusReport slot code env status) s = .next { u.statusWrite env status l.bits with
            launches := if l.bits / 256 % 2 = 1 then [] else [{ l with reported := true }] }))) ∧
    (∃ t n, exec .sliceBoundary s = .next t ∧ (n, Instr.sliceBoundary) ∈ t.agenda) ∧
    (∀ (l : Launch) (e : EnvEntry) (b : Nat), s.launches = [l] → l.leaving = none → l.count = 1 → l.fresh < l.threads →
      l.fresh ∉ l.gone → l.resident.length + 1 = l.cap → s.env l.env = some e → s.freeBerth l.first = some b →
      (s.fits l.first l.rows l.gran l.scratch = true → ∃ t c, exec .sliceBoundary s = .next t ∧ t.ctxAt (4 * l.first + b) = some c ∧
        t.launches = [{ l with fresh := l.fresh + 1, resident := l.resident ++ [⟨l.fresh, s.now, [l.fresh]⟩] }] ∧ t.mem = s.mem ∧
        c.pc = l.entry ∧ c.priv = false ∧ c.launch = some l.id ∧ (c.rows, c.gran, c.prio) = (l.rows, l.gran, l.prio) ∧
        (∀ r, c.reg r = if r = 2 then l.args else if r = 30 then l.hdr else 0) ∧ c.root = e.root ∧ c.tvec = e.tvec ∧
        c.thread = BitVec.ofNat 64 l.fresh ∧ c.team = BitVec.ofNat 64 l.fresh ∧ c.first = BitVec.ofNat 64 l.first ∧ c.count = 1) ∧
      (s.fits l.first l.rows l.gran l.scratch = false → ∃ t, exec .sliceBoundary s = .next t ∧ t = { s with agenda := t.agenda })) ∧
    (∀ (l : Launch) (m : Team) (n k : Nat), s.launches = [l] → l.leaving = none → l.fresh < l.teams ∨ l.swapped ≠ [] →
      l.cap ≤ l.resident.length → m ∈ l.resident → m.left = [n] → s.threadAt l.id n = some k →
      (∀ y ∈ l.resident, y ≠ m → y.num ≠ m.num ∧ (m.at_ < y.at_ ∨ m.at_ = y.at_ ∧ m.num < y.num)) →
      (∀ c, s.ctxAt k = some c → c.priv = true → ∃ t, exec .sliceBoundary s = .next t ∧
        t = { counted 0x1B0 s with agenda := t.agenda }) ∧
      (∀ c u c1 e, s.ctxAt k = some c → c.priv = false → u = { s.halt k with launches := [{ l with leaving := some m.num }] } →
        (s.halt k).launches = [l] → u.threadAt l.id n = some k → u.ctxAt k = some c1 → c1.priv = false → c1.mustFinish = false →
        (∀ x, l.again = some x → x ≤ u.now) → u.env l.env = some e →
        (∀ u2 ps c2, u.teamPages { l with leaving := some m.num } e .write [(n, l.first + n % l.count)] =
            (u2, .ok [(n, l.first + n % l.count, ps)]) → u2.launches = u.launches → u2.threadAt l.id n = some k →
          u2.ctxAt k = some c2 →
          exec .sliceBoundary s = .next (State.admitLaunch (l.teams + l.swapped.length + 1)
            { savedAway u2 k ps { c2.record u2.now with block := .none } with
              launches := [{ l with resident := l.resident.filter (fun y => y.num != m.num), swapped := l.swapped ++ [m.num] }] }
            l.id).setSlice) ∧
        (∀ u2, u.teamPages { l with leaving := some m.num } e .write [(n, l.first + n % l.count)] = (u2, .error .fault) →
          u2.launches = u.launches →
          exec .sliceBoundary s = .next ((counted 0x1B0 { u2.updCtx k (fun x => if x.block = .halted ∧ x.preempt = none then
              x.goOn u2.now else x) with launches := [l] }).launchBits l 512).setSlice))) ∧
    ((∀ l ∈ s.launches, l.teams ≤ l.fresh ∧ l.swapped = []) →
      ∃ t, exec .sliceBoundary s = .next t ∧ t = { s with agenda := t.agenda } ∧
        (1800 * ((s.now / 1800 / Nat.max 1 (s.cfg.readLE 0x3000 4) + 1) * Nat.max 1 (s.cfg.readLE 0x3000 4)),
          Instr.sliceBoundary) ∈ t.agenda) ∧
    (∀ v : BitVec 32, 1 ≤ v.toNat → v.toNat < 2 ^ 24 → ∃ t, exec (.sliceLengthWrite v) s = .next t ∧
      t.cfg.readLE 0x3000 4 = v.toNat ∧ t.mem = s.mem ∧ t = { s with agenda := t.agenda, cfg := t.cfg }) ∧
    (∀ (off : Nat) (b : Byte),
      (0x80000 ≤ off → off < 0xC0000 → exec (.registerWrite off [b]) s = .next { s with cfg := s.cfg.write off b }) ∧
      (off = 0x3008 → exec (.registerWrite off [b]) s = .next { s with cfg := s.cfg.write off (b &&& 1) }) ∧
      (∀ slot f, slot < 8 → f < 104 → off = 0x20000 + 128 * slot + f →
        exec (.registerWrite off [b]) s = .next { s with cfg := s.cfg.write off b }) ∧
      (off < 0x1000 ∨ 0x1200 ≤ off ∧ off < 0x2000 ∨ 0x2200 ≤ off ∧ off < 0x3000 ∨ 0x3009 ≤ off ∧ off < 0x10000 ∨
        0x11000 ≤ off ∧ off < 0x20000 ∨ 0x20400 ≤ off ∧ off < 0x30000 ∨ 0x30800 ≤ off ∧ off < 0x40000 ∨
        0x49000 ≤ off ∧ off < 0x80000 ∨ 0xC0000 ≤ off → exec (.registerWrite off [b]) s = .next s) ∧
      (∀ (slot : Nat) (f : Nat), slot < 8 → f < 48 → off = 0x1000 + 64 * slot + f →
        ((s.cfg.read (0x1030 + 64 * slot)).getLsbD 0 = false →
          exec (.registerWrite off [b]) s = .next { s with cfg := s.cfg.write off b }) ∧
        ((s.cfg.read (0x1030 + 64 * slot)).getLsbD 0 = true → exec (.registerWrite off [b]) s = .next
          { s with cfg := s.cfg.write (0x1030 + 64 * slot) (s.cfg.read (0x1030 + 64 * slot) ||| 2) }))) ∧
    (∀ (slot : BitVec 3) (o : Nat), o = 0x20000 + 128 * slot.toNat →
      (s.vocBad slot.toNat = true →
        ∃ t, exec (.vocabSlotLoad slot) s = .next t ∧ t.cfg.read (o + 104) = (s.cfg.read (o + 104) &&& 0xFE) ∧
          (∀ a, a ≠ o + 104 → t.cfg.read a = s.cfg.read a) ∧ t.mem = s.mem ∧
          t.counters = mput s.counters 0x1B0 (Nat.min (mgetD s.counters 0x1B0 0 + 1) (2 ^ 64 - 1))) ∧
      (s.vocBad slot.toNat = false →
        exec (.vocabSlotLoad slot) s = .next { s with cfg := s.cfg.write (o + 104) (s.cfg.read (o + 104) ||| 1) })) ∧
    (∀ (off : Nat) (bs : List Byte) (n : Nat), bs.length = n →
      (s.boot.phase = 3 ∨ n = 0 ∨ numCores * 2 ^ 19 < off + n ∧
          (∀ core bank, core < numCores → bank < 16 → off = 0x30000000 + 4096 * core + 8 * bank → n ≠ 8) →
        ∀ wr, exec (.hostWindowAccess off wr bs) s = .next { s with reply := some (false, []) }) ∧
      (s.boot.phase ≠ 3 → 0 < n → off + n ≤ numCores * 2 ^ 19 → s.bad = [] →
        exec (.hostWindowAccess off true bs) s = .next { s with
          mem := s.mem.writeBytes (spadLoc 0 off) bs, reply := some (true, []) } ∧
        exec (.hostWindowAccess off false bs) s = .next { s with reply := some (true, s.mem.readBytes (spadLoc 0 off) n) }) ∧
      (∀ core bank, s.boot.phase ≠ 3 → core < numCores → bank < 16 → off = 0x30000000 + 4096 * core + 8 * bank → n = 8 →
        (∃ t, exec (.bankFormatWrite core bank (BitVec.ofNat 64 (leNat bs))) s = .next t ∧
          exec (.hostWindowAccess off true bs) s = .next { t with reply := some (true, []) }) ∧
        exec (.hostWindowAccess off false bs) s = .next { s with
          reply := some (true, leBytes (s.fmtReg core bank).toNat 8) }))

/-- R131, R132, R349, R354 to R358: a record that the host or a peer pushes is checked in the stated order, each
refusal with its code or counter, and else stands at the tail of its queue with the queue's environment, its 64 bytes in the
queue's memory; what the same peer wrote before it on its port is applied first; a queue's configuration is written while the
queue is empty. (The model's choices: log entry 90.) -/
def Obligations.OutsideRecordsQueue : Prop :=
  ∀ (s : State) (q : BitVec 5) (rq : RunQ) (r : Rec) (bs : List Byte), s.boot.phase ≠ 3 →
    mgetD s.runqs q.toNat RunQ.reset = rq → r = recOfNat (leNat bs) →
    (∀ off (code : Nat), (code = 3 ∧ (off ≠ 0 ∨ bs.length ≠ 32) ∨ code = 1 ∧ off = 0 ∧ bs.length = 32 ∧ r.bad = true ∨
        code = 2 ∧ off = 0 ∧ bs.length = 32 ∧ r.bad = false ∧ s.cfg.readLE (0x2008 + 16 * q.toNat) 4 ≤ rq.items.length) →
      exec (.runQueueWindowPush q off bs) s = .next { s with
        runqs := mput s.runqs q.toNat { rq with ref := rq.ref + 1, code := BitVec.ofNat 8 code } }) ∧
    (∀ place env, bs.length = 32 → r.bad = false → rq.items.length < s.cfg.readLE (0x2008 + 16 * q.toNat) 4 →
      place = (s.cfg.readLE (0x2000 + 16 * q.toNat) 8 +
        64 * ((rq.head + rq.items.length) % s.cfg.readLE (0x2008 + 16 * q.toNat) 4)) % 2 ^ 52 →
      reserved place = false → barOf place = none → Unmirrored s place 64 →
      env = s.cfg.readLE (0x2000 + 16 * q.toNat + 12) 2 % 4096 →
      (∃ t, exec (.runQueueWindowPush q 0 bs) s = .next t ∧
        mgetD t.runqs q.toNat RunQ.reset = { rq with items := rq.items ++ [⟨r, env⟩], acc := rq.acc + 1 } ∧
        t.mem = s.mem.writeBytes place (recBytes r ++ leBytes env 2 ++ List.replicate 30 0)) ∧
      (∀ (peer : BitVec 10) (e : Word), s.peerEntry peer.toNat = some e → e.getLsbD (16 + q.toNat) = true →
        (4 ≤ r.flags.toNat % 8 → e.getLsbD 49 = true) →
        ∃ t, exec (.ualinkLaunchPacket peer q ⟨bs, []⟩) s = .next t ∧
          mgetD t.runqs q.toNat RunQ.reset = { rq with items := rq.items ++ [⟨r, env⟩] } ∧
          t.mem = s.mem.writeBytes place (recBytes r ++ leBytes env 2 ++ List.replicate 30 0))) ∧
    (∀ (peer : BitVec 10) (o : Nat), o = (match s.peerEntry peer.toNat with
        | none => 0x148
        | some e => if e.getLsbD (16 + q.toNat) = false then 0x150
            else if 4 ≤ r.flags.toNat % 8 ∧ e.getLsbD 49 = false then 0x158 else if r.bad = true then 0x160
            else if s.cfg.readLE (0x2008 + 16 * q.toNat) 4 ≤ rq.items.length then 0x168 else 0) → o ≠ 0 →
      exec (.ualinkLaunchPacket peer q ⟨bs, []⟩) s = .next { s with
        counters := mput s.counters o (Nat.min (mgetD s.counters o 0 + 1) (2 ^ 64 - 1)) }) ∧
    (∀ (peer : BitVec 10) (pa : Nat) (xs : List Byte) (ws : List (Nat × List Byte)), isDevice pa = true →
        isDevice (pa + (xs.length - 1)) = true → reserved pa = false → Unmirrored s pa xs.length →
      ∃ t, exec (.ualinkLaunchPacket peer q ⟨bs, (pa, xs) :: ws⟩) s = exec (.ualinkLaunchPacket peer q ⟨bs, ws⟩) t ∧
        t.mem = s.mem.writeBytes pa xs ∧ t.runqs = s.runqs ∧
        ∀ sec h, pa / 64 ≤ sec → sec ≤ (pa + (xs.length - 1)) / 64 → h < 6 → dirState t sec h = .i) ∧
    (∀ hi v,
      (rq.items = [] → exec (.runQueueConfigWrite q hi v) s = .next { s with
        cfg := s.cfg.writeBytes (0x2000 + 16 * q.toNat + (if hi then 8 else 0)) (leBytes v.toNat 8) }) ∧
      (rq.items ≠ [] → exec (.runQueueConfigWrite q hi v) s = .next { s with
        counters := mput s.counters 0x188 (Nat.min (mgetD s.counters 0x188 0 + 1) (2 ^ 64 - 1)) }))

/-- R132, R211, R212, R214, R215, R393, R398: a completion of a pending entry of the same generation injects its tokens, as many
as the prefill queue has room for, and makes the entry done, or frees it with the push of its continuation; where the descriptor
cannot be reached it is held and the fault posted; any other completion is dropped and counted. A timer that has run out is
counted and does the same with the vocabulary's sequence. A held injection is tried again, and pushes and calls that found no room
are tried again in order. A message is checked for its form and its check code first. (The model's choices: log entry 31.) -/
def Obligations.FuturesResolve : Prop :=
  ∀ (id : BitVec 16) (s : State) (f : Future), mgetD s.futures id.toNat Future.reset = f →
    (∀ gen ids, exec (.futureCompletion id gen ids) s = .next (futureTakes id.toNat gen ids s)) ∧
    (∀ h s1 d s2 ids n, s.hubOf f.env [] = some h → s.hubLoc h f.desc 256 .write = (s1, .ok d) →
      n = Nat.min ids.length (field s1 d 48 4 - (field s1 d 52 4 + 2 ^ 32 - field s1 d 56 4) % 2 ^ 32) →
      s1.hubPuts h ((ids.take n).mapIdx fun i v => spread (BitVec.ofNat 64 (field s1 d 40 8 +
        4 * ((field s1 d 52 4 + i) % field s1 d 48 4))) (leBytes v.toNat 4)).flatten = (s2, .ok ()) →
      s.inject f ids false = ((s2.memWrite (d + 36) (leBytes (Nat.min (field s2 d 36 4 + (ids.length - n)) (2 ^ 32 - 1)) 4)).memWrite
        (d + 52) (leBytes ((field s1 d 52 4 + n) % 2 ^ 32) 4), .ok d)) ∧
    (∀ h s1 d ids o, s.hubOf f.env [] = some h → s.hubLoc h f.desc 256 .write = (s1, .ok d) →
      o = 0x20000 + 128 * (field s1 d 0 1 % 8) →
      s.inject f ids true = s.inject f ((List.range (Nat.min 16 (s1.cfg.readLE (o + 12) 4))).map fun i =>
        BitVec.ofNat 32 (s1.cfg.readLE (o + 16 + 4 * i) 4)) false) ∧
    (∀ t, f.state = .pending → f.timer = some t → t ≤ s.now →
      exec (.futureTimeout id) s = .next (delivered id.toNat [] true (counted 0x108 s))) ∧
    (f.state ≠ .pending ∨ f.timer = none ∨ (∃ t, f.timer = some t ∧ s.now < t) → exec (.futureTimeout id) s = .next s) ∧
    (f.inj = none → exec (.injectionRetry id) s = .next s) ∧
    (∀ ids late, f.inj = some (ids, late) → exec (.injectionRetry id) s = .next (delivered id.toNat ids late s)) ∧
    (s.held = [] → exec .continuationPushRetry s = .next s) ∧
    (∀ q die s1, s.held = [(q, die)] → ({ s with held := [] } : State).pushRunq (8 * die + q.r.flags.toNat % 8) q = some s1 →
      exec .continuationPushRetry s = .next s1) ∧
    (∀ q die, s.held = [(q, die)] → ({ s with held := [] } : State).pushRunq (8 * die + q.r.flags.toNat % 8) q = none →
      exec .continuationPushRetry s = .next (s.at_ (s.now + 1800) .continuationPushRetry)) ∧
    (s.calls = [] → exec .mailboxPost s = .next s) ∧
    (∀ c, s.calls = [c] → s.mailboxFor ((c.bytes.getD 4 0).toNat % 8) = none → (∀ e ∈ s.agenda, e.2 ≠ .mailboxPost) →
      exec .mailboxPost s = .next (s.at_ (s.now + 1800) .mailboxPost)) ∧
    (∀ c h t b, s.calls = [c] → s.mailboxFor ((c.bytes.getD 4 0).toNat % 8) = some h → mgetD s.harts h Hart.reset = t →
      t.mbbase.toNat = b → (∀ x, x = b ∨ x = b + 64 + 64 * (s.mem.readLE b 4 % 2 ^ (t.mbcfg.toNat % 32)) →
        reserved x = false ∧ barOf x = none ∧ Unmirrored s x c.bytes.length ∧ Unmirrored s x 4) →
      ∃ t', exec .mailboxPost s = .next t' ∧ t'.calls = [] ∧
        t'.mem = (s.mem.writeBytes (b + 64 + 64 * (s.mem.readLE b 4 % 2 ^ (t.mbcfg.toNat % 32))) c.bytes).writeLE b 4
          ((s.mem.readLE b 4 + 1) % 2 ^ 32) ∧
        ∃ x, (x = t.resv ∨ x = none) ∧
          mgetD t'.harts h Hart.reset = { t with mbirq := t.mbirq || t.mbcfg.getLsbD 17, resv := x }) ∧
    (∀ (port : BitVec 2) (bs : List Byte) (g : Nat → Nat → Nat), (∀ o n, g o n = leNat ((bs.drop o).take n)) →
      (bs.length ≠ 16 + 4 * g 8 4 ∨ 4096 < g 8 4 ∨ g 6 2 ≠ 0 ∨ g 12 4 ≠ 0 →
        exec (.futureServiceMessage port bs) s = .next (counted 0x170 s)) ∧
      (bs.length = 16 + 4 * g 8 4 → g 8 4 ≤ 4096 → g 6 2 = 0 → g 12 4 = 0 →
        (BitVec.ofNat 16 (g 4 2) ≠ Config.futCheck s.resets (BitVec.ofNat 16 (g 0 2)) (BitVec.ofNat 16 (g 2 2)) →
          exec (.futureServiceMessage port bs) s = .next (counted 0x178 s)) ∧
        (BitVec.ofNat 16 (g 4 2) = Config.futCheck s.resets (BitVec.ofNat 16 (g 0 2)) (BitVec.ofNat 16 (g 2 2)) →
          exec (.futureServiceMessage port bs) s =
            .next (futureTakes (g 0 2) (BitVec.ofNat 16 (g 2 2)) (idsOf (bs.drop 16)) s))))

/-! ### The Hostel -/

/-- R333 to R336, R389 to R395, R397: FDONE, FPOLL and SBOX of the hart whose turn it is take their effect and go on
at the next word, take the exception that the rules name, or wait for a sector's home; a hart's access is translated, checked
against its windows and by place, and made once the Hostel has its sectors, each hart's in order; the mailbox and signing
registers are written from M and HS mode; drive DMA reads and writes device memory at its home, a write recalling every copy,
waits behind what is there, and is refused elsewhere, counted and completed as unsupported. (The model's choices: log entries 29,
30, 50, 51, 89 and 90.) -/
def Obligations.HostelRuns : Prop :=
  ∀ (h : Nat) (s : State) (t : Hart), mgetD s.harts h Hart.reset = t →
    (s.turn = .hart h → ∀ (d a b : BitVec 5),
      ((t.reg a).toNat % 8 ≠ 0 → exec (.fdone d a) s = .next (hartEnds h (hartTraps t ⟨4, t.reg a, 0⟩) s)) ∧
      ((t.reg a).toNat % 8 = 0 →
        (∀ x, s.hartRead h t (t.reg a) 24 = .trap x → exec (.fdone d a) s = .next (hartEnds h (hartTraps t x) s)) ∧
        (s.hartRead h t (t.reg a) 24 = .wait →
          exec (.fdone d a) s = .next (hartEnds h t ((s.hartAsks ⟨h, .load 0 false, t.reg a, 24, 0⟩).hartLater h))) ∧
        (∀ s1 bs n ids, s.hartRead h t (t.reg a) 24 = .ok s1 bs → n = leNat ((bs.drop 4).take 4) →
          ids = BitVec.ofNat 64 (leNat ((bs.drop 8).take 8)) →
          (∀ x, s1.hartSees t ids (4 * n) = some x → exec (.fdone d a) s = .next (hartEnds h (hartTraps t x) s1)) ∧
          (s1.hartSees t ids (4 * n) = none → 4096 < n ∨ ids.toNat % 4 ≠ 0 →
            exec (.fdone d a) s = .next (hartEnds h { t.setReg d 1 with pc := t.pc + 4 } (counted 0x100 s1))) ∧
          (s1.hartSees t ids (4 * n) = none → n ≤ 4096 → ids.toNat % 4 = 0 →
            (s1.hartRead h t ids (4 * n) = .wait → exec (.fdone d a) s =
              .next (hartEnds h t ((s1.hartAsks ⟨h, .load 0 false, ids, 4 * n, 0⟩).hartLater h))) ∧
            (∀ s2 is, s1.hartRead h t ids (4 * n) = .ok s2 is →
              exec (.fdone d a) s = .next (hartEnds h { t.setReg d 0 with pc := t.pc + 4 }
                (futureTakes (leNat (bs.take 2)) (BitVec.ofNat 16 (leNat ((bs.drop 2).take 2))) (idsOf is) s2)))))) ∧
      ((t.reg a).toNat < 2 ^ 32 → ∀ f, mgetD s.futures ((t.reg a).toNat % 65536) Future.reset = f →
        exec (.fpoll d a) s = .next (hartEnds h { t.setReg d (BitVec.ofNat 64
          ((match f.state with | .free => 0 | .pending => 1 | .done => 2) +
            (if f.gen.toNat = (t.reg a).toNat / 65536 then 4 else 0) + (if f.parked.isSome then 8 else 0) +
            65536 * f.gen.toNat)) with pc := t.pc + 4 } s)) ∧
      (2 ^ 32 ≤ (t.reg a).toNat → exec (.fpoll d a) s = .next (hartEnds h
        { t.setReg d (Config.freeWord s.freeN) with pc := t.pc + 4 } { s with freeN := s.freeN + 1 })) ∧
      (t.mode ≠ 0 → t.virt = false → (t.reg b).toNat < 64 → (t.reg b).toNat % 32 ≤ 16 →
        ((t.reg a).toNat % 64 ≠ 0 → exec (.sbox a b) s = .next (hartEnds h (hartTraps t ⟨4, t.reg a, 0⟩) s)) ∧
        ((t.reg a).toNat % 64 = 0 → ∀ r, s.hartRead h t (t.reg a) (24 * ((t.reg b).toNat % 32)) = r →
          (∀ x, r = .trap x → exec (.sbox a b) s = .next (hartEnds h (hartTraps t x) s)) ∧
          (r = .wait → exec (.sbox a b) s = .next (hartEnds h t
            ((s.hartAsks ⟨h, .load 0 false, t.reg a, 24 * ((t.reg b).toNat % 32), 0⟩).hartLater h))) ∧
          (∀ s1 bs, r = .ok s1 bs →
            (∀ ws, boxEntries ((t.reg b).toNat % 32) bs = some ws →
              exec (.sbox a b) s = .next (hartEnds h { t with windows := ws, boxed := (t.reg b).getLsbD 5, pc := t.pc + 4 } s1)) ∧
            (boxEntries ((t.reg b).toNat % 32) bs = none → exec (.sbox a b) s = .next (hartEnds h
              (hartTraps t ⟨2, ((encode (.sbox a b)).getD 0).zeroExtend 64, 0⟩) s1))))) ∧
      (t.mode = 0 ∨ t.virt = true ∨ 64 ≤ (t.reg b).toNat ∨ 16 < (t.reg b).toNat % 32 →
        exec (.sbox a b) s = .next (hartEnds h (hartTraps t ⟨2, ((encode (.sbox a b)).getD 0).zeroExtend 64, 0⟩) s))) ∧
    (∀ (va : Word) (n : Nat) (v : Word) (pa : Nat), 1 ≤ n → n ≤ 8 → t.mode = 3 → t.mstatus.getLsbD 17 = false → va.toNat = pa →
      pa % 4096 + n ≤ 4096 → isDevice pa = true → isDevice (pa + (n - 1)) = true → reserved pa = false → s.bad = [] →
      Unmirrored s pa n → released s h → (∀ x ∈ s.hops, x.hart ≠ h) →
      (∀ s1, s.blocked 4 false (sectorsAt pa n) = false → s1 = s.ownAll 4 false (sectorsAt pa n) → s1.bad = [] →
        s.hartRead h t va n = .ok s1 (s1.mem.readBytes pa n) ∧
        (∀ rd sgn, exec (.hostelAccess h (.load rd sgn) va n v) s = .next
          (hartHas h (t.setReg rd (loadedValue n sgn (s1.mem.readLE pa n))) s1)) ∧
        (∀ rd, exec (.hostelAccess h (.lr rd) va n v) s = .next
          (hartHas h { t.setReg rd (loadedValue n true (s1.mem.readLE pa n)) with resv := some (pa, n) } s1)) ∧
        exec (.hostelAccess h .fetch va n v) s = .next (hartHas h t s1)) ∧
      (∀ s1 u, s.blocked 4 true (sectorsAt pa n) = false → s1 = s.ownAll 4 true (sectorsAt pa n) → s1.bad = [] →
        u = (fun x : Nat => s1.memWrite pa (leBytes x n)) →
        (∀ x, (u x).mem = s1.mem.writeBytes pa (leBytes x n)) ∧
        exec (.hostelAccess h .store va n v) s = .next (hartHas h t (u v.toNat)) ∧
        (∀ op rd, exec (.hostelAccess h (.amo op rd) va n v) s = .next
          (hartHas h (t.setReg rd (loadedValue n true (s1.mem.readLE pa n)))
            (u (hartAtomic op n (s1.mem.readLE pa n) v.toNat)))) ∧
        (∀ rd, t.resv = some (pa, n) → exec (.hostelAccess h (.sc rd) va n v) s = .next
          (hartHas h (({ t with resv := none } : Hart).setReg rd 0) (u v.toNat))) ∧
        (∀ rd, t.resv ≠ some (pa, n) → exec (.hostelAccess h (.sc rd) va n v) s = .next
          (hartHas h (({ t with resv := none } : Hart).setReg rd 1) s1))) ∧
      (s.blocked 4 true (sectorsAt pa n) = true →
        exec (.hostelAccess h .store va n v) s = .next
          { s.queueAsks 4 true (sectorsAt pa n) with hops := s.hops ++ [⟨h, .store, va, n, v⟩] })) ∧
    (∀ k va n v, ¬ released s h → exec (.hostelAccess h k va n v) s = .next s) ∧
    (∀ k va n v, released s h → (∃ x ∈ s.hops, x.hart = h) →
      exec (.hostelAccess h k va n v) s = .next { s with hops := s.hops ++ [⟨h, k, va, n, v⟩] }) ∧
    (∀ (va v : Word) (rd : BitVec 5) (sgn : Bool), t.mode = 0 → t.boxed = true → released s h →
      (∀ x ∈ s.hops, x.hart ≠ h) →
      (∀ w ∈ t.windows, ¬ (w.1.toNat ≤ va.toNat ∧ va.toNat + 8 ≤ w.2.1.toNat ∧ Nat.land w.2.2.toNat 1 = 1)) →
      ∀ x : HTrap, x = (match s.hartPages t (.load rd sgn) 2 va 8 [] with | .ok _ => ⟨5, va, 0⟩ | .error y => y) →
      exec (.hostelAccess h (.load rd sgn) va 8 v) s = .next (hartHas h (hartTraps t x) s)) ∧
    (∀ v : Word, (t.mode = 3 ∨ t.mode = 1 ∧ t.virt = false) →
      (t.mbcfg.getLsbD 16 = false → exec (.mailboxConfigWrite h false v) s = .next
        (hartHas h { t with mbbase := v &&& 0xFFFFFFFFFFFC0 } s)) ∧
      (t.mbcfg.getLsbD 16 = true → v &&& 0xFFFFFFFFFFFC0 ≠ t.mbbase → exec (.mailboxConfigWrite h false v) s = .next s) ∧
      (v.toNat % 32 ≤ 16 → t.mbcfg.getLsbD 16 = false ∨ (v &&& 0x3FF1F) ||| 0x10000 = t.mbcfg →
        (v.toNat / 65536 % 2 = 1 → isDevice t.mbbase.toNat = true) →
        exec (.mailboxConfigWrite h true v) s = .next (hartHas h { t with mbcfg := v &&& 0x3FF1F } s)) ∧
      (16 < v.toNat % 32 ∨ (v.toNat / 65536 % 2 = 1 ∧ isDevice t.mbbase.toNat = false) ∨ t.mbcfg.getLsbD 16 = true ∧
        (v &&& 0x3FF1F) ||| 0x10000 ≠ t.mbcfg →
        exec (.mailboxConfigWrite h true v) s = .next s) ∧
      (v.toNat < 2 ^ 48 → exec (.fcsignWrite h v) s = .next (hartHas h { t with
        fcsign := BitVec.ofNat 64 (v.toNat % 2 ^ 32 +
          2 ^ 32 * (Config.futCheck s.resets (v.extractLsb' 0 16) (v.extractLsb' 16 16)).toNat) } s)) ∧
      (2 ^ 48 ≤ v.toNat → exec (.fcsignWrite h v) s = .next (hartHas h { t with fcsign := 0 } s))) ∧
    (∀ cfg v, t.mode = 0 ∨ t.mode = 1 ∧ t.virt = true →
      exec (.mailboxConfigWrite h cfg v) s = .next (hartHas h (hartTraps t ⟨2, 0, 0⟩) s) ∧
      exec (.fcsignWrite h v) s = .next (hartHas h (hartTraps t ⟨2, 0, 0⟩) s)) ∧
    (∀ (pa : Nat) (bs : List Byte), bs ≠ [] → ∀ bad : Prop, (bad ↔ ∃ i < bs.length, isDevice (pa + i) = false ∨
      reserved (pa + i) = true) →
      (bad → ∀ wr, exec (.driveDma pa wr bs) s = .next (counted 0x1A8 { s with driveReply := some (false, []) })) ∧
      (¬ bad → s.windows = [] → (∀ sec, pa / 64 ≤ sec → sec ≤ (pa + (bs.length - 1)) / 64 → s.idle sec = true) →
        (∃ u, exec (.driveDma pa true bs) s = .next u ∧ u.mem = s.mem.writeBytes pa bs ∧ u.driveReply = some (true, []) ∧
          ∀ sec j, pa / 64 ≤ sec → sec ≤ (pa + (bs.length - 1)) / 64 → j < 6 → dirState u sec j = .i) ∧
        (s.bad = [] → ∃ u, exec (.driveDma pa false bs) s = .next u ∧ u.mem = s.mem ∧
          u.driveReply = some (true, s.mem.readBytes pa bs.length))) ∧
      (¬ bad → pa % 64 + bs.length ≤ 64 → s.idle (pa / 64) = false → ∀ wr,
        exec (.driveDma pa wr bs) s = .next { s with driveReply := some (true, []), asks := insAsk (asking s 7 pa wr bs) s.asks }))

/-! ### Coherence and the page agent -/

/-- R111, R361 to R363, R366, R367: a request at a home stands behind those that came before it, and of one cycle behind those of
lower holders; a request of the host that meets a recall on its way comes before it. An evict leaves the holder invalid. The home
asks each holder that must answer, one that none must answer is granted at once; an answer ends the holder's copy, or its sole
ownership, and the last one grants: the only copy to an exclusive request, which carries the host's bytes, E to a read that finds
no other copy, else S. A write-back leaves the writer invalid, and where the home awaits no other answer it grants the request that
snooped the writer, whose empty reply closes it. (The model's choices: log entry 53.) -/
def Obligations.HomesServeSectors : Prop :=
  ∀ (h pa sec : Nat) (s : State), h < 6 → sec = pa / 64 →
    (∀ bs, exec (.homeRequest h .evict ⟨pa, bs⟩) s = .next { s with dir := dirSet s sec h .i }) ∧
    (∀ (kind : ReqKind) (bs : List Byte) (s1 : State) (a : Ask), kind ≠ .evict → s1 = s.countAccess h pa →
      a = asking s1 h pa (decide (kind ≠ .read)) (if h = 5 then bs else []) →
      (h = 5 → ∀ b ∈ s1.asks, ¬ (b.who = 6 ∧ b.sec / 2 = sec / 2 ∧ s1.pageState (b.sec / 64) % 2 = 1)) →
      ((∀ b ∈ s1.asks, b.sec = sec → b.at_ = a.at_ → b.begun = false → b.who ≤ h) →
        exec (.homeRequest h kind ⟨pa, bs⟩) s = .next { s1 with asks := s1.asks ++ [a] }) ∧
      (∀ l b r, s1.asks = l ++ b :: r → b.sec = sec → b.at_ = a.at_ → b.begun = false → h < b.who →
        (∀ x ∈ l, x.sec = sec → x.at_ = a.at_ → x.begun = false → x.who ≤ h) →
        exec (.homeRequest h kind ⟨pa, bs⟩) s = .next { s1 with asks := l ++ a :: b :: r })) ∧
    (∀ (kind : ReqKind) (bs : List Byte) (s1 : State) (a : Ask) (hit : Ask → Bool), h = 5 → kind ≠ .evict →
      s1 = s.countAccess 5 pa → a = asking s1 5 pa (decide (kind ≠ .read)) bs →
      (∀ b, hit b = true ↔ b.who = 6 ∧ b.sec / 2 = sec / 2 ∧ s1.pageState (b.sec / 64) % 2 = 1) →
      (∃ b ∈ s1.asks, hit b = true) →
      exec (.homeRequest 5 kind ⟨pa, bs⟩) s = .next { s1 with
        asks := insAsk a (s1.asks.filter fun b => !(hit b)) ++
          (s1.asks.filter hit).map fun b => { b with begun := false, acks := [] },
        agenda := s1.agenda.filter fun x => !((s1.asks.filter hit).any fun b => x.2 == .snoopInvalidation 5 b.pa true) }) ∧
    (∀ a, s.nextAsk = some a → ∃ l r, s.asks = l ++ a :: r ∧ (∀ b ∈ l, b.sec = a.sec → b.adm = false) ∧ a.adm = true ∧
      a.begun = false ∧ (∀ b ∈ s.asks, b.sec = a.sec → b.begun = false) ∧
      (a.who = 6 → s.pageState (a.sec / 64) % 2 = 1 → ∀ b ∈ s.asks, b.who = 5 → b.sec / 2 ≠ a.sec / 2)) ∧
    (∀ a, s.turn = .sched → s.nextJob = .serve a →
      (∀ j, a.who ≠ 6 → (j ∈ s.needs a ↔ j ≠ a.who ∧ (j < 6 ∧ (if a.excl = true then dirState s a.sec j ≠ .i
          else dirState s a.sec j = .m ∨ dirState s a.sec j = .o ∨ dirState s a.sec j = .e ∨
            j = 5 ∧ dirState s a.sec j = .s) ∨
        j = 5 ∧ s.viaHost a.pa = true))) ∧
      (∀ j, a.who = 6 → (j ∈ s.needs a ↔ loses (s.pageState (a.sec / 64) % 2) j ∧ dirState s a.sec j ≠ .i)) ∧
      (s.needs a = [] → step s = .next (({ s with asks := dropAsk a s.asks } : State).grant a)) ∧
      (s.needs a ≠ [] → ∃ t, step s = .next t ∧ t.asks = putAsk a { a with begun := true, acks := s.needs a } s.asks ∧
        t.mem = s.mem ∧ t.dir = s.dir ∧
        ∀ j ∈ s.needs a, ∃ n, s.now < n ∧ (n, Instr.snoopInvalidation j a.pa a.excl) ∈ t.agenda)) ∧
    (∀ (j : Nat) (inval : Bool) (a : Ask),
      (s.asks.find? fun x => x.sec == sec && x.begun && x.acks.contains j) = some a →
      (a.granted = false → (∀ x ∈ a.acks, x = j) → exec (.snoopInvalidation j pa inval) s = .next
        ((fun u : State => ({ u with asks := dropAsk a u.asks } : State).grant a) (s.surrender sec j a.excl))) ∧
      (a.granted = false → (∃ x ∈ a.acks, x ≠ j) → exec (.snoopInvalidation j pa inval) s = .next
        ((fun u : State => { u with asks := putAsk a { a with acks := a.acks.filter (· != j) } u.asks })
          (s.surrender sec j a.excl))) ∧
      (a.granted = true → (∀ x ∈ a.acks, x = j) → exec (.snoopInvalidation j pa inval) s = .next { s with
        asks := dropAsk a s.asks })) ∧
    (∀ j, (∀ x ∈ s.asks, x.sec = sec → x.begun = true → j ∉ x.acks) →
      exec (.snoopInvalidation j pa false) s = .next s ∧
      exec (.snoopInvalidation j pa true) s = .next (s.surrender sec j true)) ∧
    (∀ j, j < 6 → (s.surrender sec j true).dir = dirSet s sec j .i ∧
      (s.surrender sec j false).dir = dirSet s sec j (if j = 5 ∧ s.viaHost (64 * sec) = false then .i
        else match dirState s sec j with | .m => .o | .e => .s | x => x) ∧
      (s.surrender sec j true).mem = s.mem ∧ (s.surrender sec j false).mem = s.mem ∧
      (j < 4 → ∀ c ∈ (s.surrender sec j true).cores, dieOf c.1 = j → c.1 < numCores → sigBit (64 * sec) ∉ c.2.sig) ∧
      (j = 4 → ∀ x ∈ (s.surrender sec j true).harts, ∀ y ∈ x.2.resv, meets y.1 y.2 (64 * sec) 64 = false)) ∧
    (∀ a : Ask, a.who < 6 → a.bytes = [] → (a.who = 5 → s.bad = []) →
      (a.excl = true → s.grant a = { s with dir := dirSet s a.sec a.who .m }) ∧
      (a.excl = false → (∀ j, j < 6 → j ≠ a.who → dirState s a.sec j = .i) →
        s.grant a = { s with dir := dirSet s a.sec a.who .e }) ∧
      (a.excl = false → dirState s a.sec a.who = .i → (∃ j, j < 6 ∧ j ≠ a.who ∧ dirState s a.sec j ≠ .i) →
        s.grant a = { s with dir := dirSet s a.sec a.who .s })) ∧
    (∀ a : Ask, a.who = 7 → a.excl = false → s.bad = [] → s.grant a = { s with
      driveReply := some (true, (s.driveReply.elim [] Prod.snd) ++ s.mem.readBytes a.pa a.bytes.length) }) ∧
    (∀ a : Ask, a.who = 5 → a.excl = true → a.bytes ≠ [] → reserved a.pa = false → barOf a.pa = none →
      Unmirrored s a.pa a.bytes.length →
      (s.grant a).mem = s.mem.writeBytes a.pa a.bytes ∧ (s.grant a).dir = dirSet s a.sec 5 .m) ∧
    ((∀ x ∈ s.asks, ¬ (x.sec = sec ∧ x.begun = true ∧ x.granted = false ∧ x.acks = [h])) →
      exec (.writeBackArrival h pa) s = .next { s with dir := dirSet s sec h .i }) ∧
    (∀ a, (s.asks.find? fun x => x.sec == sec && x.begun && !x.granted && x.acks == [h]) = some a →
      exec (.writeBackArrival h pa) s = .next (({ s with
        dir := dirSet s sec h .i, asks := putAsk a { a with granted := true } s.asks } : State).grant a))

/-- R364 to R366, R371: a compare-and-swap of a frame's record that fails changes nothing; one that succeeds takes request and
generation, the fields of the agent are put back and an attempt to change them is counted. Where request and bias come apart, with
no flip or migration under way, busy is set, the losing side's copies are recalled, and the flip's end is looked for later: it turns
bias over and clears busy once no admitted request is at the frame's homes and the losers hold nothing of it, and until then recalls
what they have come to hold again. (The model's choices: log entry 53.) -/
def Obligations.PageRecordsFlip : Prop :=
  ∀ (f : Nat) (old new : Word) (s : State) (i : Instr) (r v k : Nat), i = .biasFlipRequest f old new ∨
    i = .frameGenChange f old new →
    r = 0x1FE00000000 + 8 * f → v = s.mem.readLE r 8 →
    k = v % 2 + new.toNat / 2 % 2 * 2 + v / 4 % 4 * 4 + new.toNat / 16 % 4096 * 16 →
    (v ≠ old.toNat → exec i s = .next s) ∧
    (v = old.toNat → ∃ t, exec i s = .next t ∧ t.counters = (if new.toNat = k then s else counted 0x188 s).counters ∧
      (∀ j < 6, dirState t (r / 64) j = .i) ∧
      (k / 2 % 2 = k % 2 ∨ k / 4 % 4 ≠ 0 →
        t.mem = s.mem.writeLE r 8 k ∧ t.flips = s.flips ∧ t.asks = s.asks ∧ t.agenda = s.agenda) ∧
      (k / 2 % 2 ≠ k % 2 → k / 4 % 4 = 0 → t.mem.readLE r 8 = k + 4 ∧ t.flips = s.flips ++ [f] ∧
        (∃ n, s.now < n ∧ (n, Instr.biasFlipComplete f) ∈ t.agenda) ∧
        (∀ e ∈ s.dir, e.1 / 64 = f → e.1 ≠ r / 64 → (∃ j, loses (k % 2) j ∧ dirState s e.1 j ≠ .i) →
          ∃ a ∈ t.asks, a.sec = e.1 ∧ a.who = 6))) ∧
    (f ∉ s.flips → exec (.biasFlipComplete f) s = .next s) ∧
    (f ∈ s.flips → (∃ a ∈ s.asks, a.sec / 64 = f ∧ a.adm = true) →
      ∃ t, exec (.biasFlipComplete f) s = .next t ∧ t.mem = s.mem ∧ t.flips = s.flips ∧ t.dir = s.dir ∧
        (s.now + 1 + s.delays.headD 0, Instr.biasFlipComplete f) ∈ t.agenda ∧
        (∀ e ∈ s.dir, e.1 / 64 = f → (∃ j, loses (v % 2) j ∧ dirState s e.1 j ≠ .i) →
          ∃ a ∈ t.asks, a.sec = e.1 ∧ a.who = 6)) ∧
    (f ∈ s.flips → (∀ a ∈ s.asks, a.sec / 64 = f → a.adm = false) →
      (∀ e ∈ s.dir, e.1 / 64 = f → ∀ j, loses (v % 2) j → dirState s e.1 j = .i) →
      ∃ t, exec (.biasFlipComplete f) s = .next t ∧
        (v / 2 % 2 ≠ v % 2 → t.flips = s.flips.filter (· != f) ∧ t.agenda = s.agenda ∧
          t.asks = s.asks.map (fun a => if a.sec / 64 = f then { a with adm := true } else a) ∧
          t.mem = s.mem.writeLE r 8 (v / 8 * 8 + v / 2 % 2 * 2 + (1 - v % 2))) ∧
        (v / 2 % 2 = v % 2 → v / 8 % 2 = 0 →
          t.mem.readLE r 8 = v / 8 * 8 + 4 + v / 2 % 2 * 2 + (1 - v % 2) ∧
          t.flips = s.flips.filter (· != f) ++ [f] ∧ ∃ n, s.now < n ∧ (n, Instr.biasFlipComplete f) ∈ t.agenda))

/-- R234, R241, R361, R368 to R370, R375, R376, R378, R382: what a walk ends with at each entry: a translation, a grow request,
a page fault, an access fault, a malformed entry. One that finds a leaf with the right enters the core's TLB and lets its word
go on; one that does not is the word's trap; one that lacks a sector asks for it. A grow request maps its region to the frame
that the descriptor supplies, or traps. A migration opens where the die's count calls for it and every condition holds: a frame
is taken, dual set, the counters cleared. While its window is open, a write to the region is made in both frames and lines are
copied; the old generation is fenced off, and the switch maps the region to the new frame, or gives that frame back where the
leaf line has changed. (The model's choices: log entries 32 and 53.) -/
def Obligations.PagesMove : Prop :=
  (∀ (s : State) (root asid va n tab level loc e pa : Nat) (want : Want) (priv : Bool) (w : Xl), n ≤ 3 → level = 3 - n →
    tableAfter s.mem va root n = some tab → loc = entryLoc va level tab → e = s.mem.readLE loc 8 → pa = e / 2 ^ 20 % 2 ^ 40 * 4096 →
    w = (s.walk root asid va).use va want priv →
    (tableGood level tab = false → w = .fault 12 true) ∧
    (tableGood level tab = true → e % 2 = 0 →
      (level = 0 → e / 2 ^ 7 % 2 = 1 → w = if want = .write then .grow loc (e / 256 * 256) else .fault 11 false) ∧
      (level ≠ 0 ∨ e / 2 ^ 7 % 2 = 0 → w = .fault 11 false)) ∧
    (tableGood level tab = true → e % 4 = 1 → level = 0 ∨ e / 4 % 2 ^ 18 ≠ 0 ∨ e / 2 ^ 60 ≠ 0 → w = .fault 12 true) ∧
    (tableGood level tab = true → e % 4 = 3 →
      (leafBad s.mem level loc e = true → w = .fault 12 true) ∧
      (leafBad s.mem level loc e = false → leafLets e want priv = false → w = .fault 12 false) ∧
      (leafBad s.mem level loc e = false → leafLets e want priv = true →
        w = .ok (pa + va % leafSize level) (BitVec.ofNat 12 (e / 256))))) ∧
  (∀ (k : Nat) (s : State) (c : Ctx) (va : Word) (lane : Nat) (want : Want) (w : Xl), s.ctxAt k = some c →
    c.block = .walk va want lane → w = (s.walk c.root.toNat c.asid.toNat va.toNat).use va.toNat want c.priv →
    (s.blocked (dieOf (k / 4)) false (s.walkSecs c.root.toNat va.toNat) = true →
      exec (.pageWalkComplete k) s = .next (s.queueAsks (dieOf (k / 4)) false (s.walkSecs c.root.toNat va.toNat))) ∧
    (s.blocked (dieOf (k / 4)) false (s.walkSecs c.root.toNat va.toNat) = false → s.bad = [] →
      (∀ t pa g, s.walk c.root.toNat c.asid.toNat va.toNat = .leaf t → w = .ok pa g →
        exec (.pageWalkComplete k) s = .next
          (({ s with cores := mupd s.cores (k / 4) Core.reset fun x => { x with tlb := t :: x.tlb } } : State).putCtx k
            { c with block := .none, readyAt := s.now })) ∧
      (∀ cause b s1 c1, w = .fault cause b → c.priv = false → (want = .cache → cause = 11) →
        s1 = (s.putCtx k { c with block := .none, readyAt := s.now }).drain k → s1.ctxAt k = some c1 →
        exec (.pageWalkComplete k) s = .next (s1.putCtx k
          (if want = .fetch then entered c1 7 va (if cause = 11 then 3 else 4) c.pc
           else entered c1 cause va (faultInfo want b lane) c.pc))) ∧
      (∀ cause b, want = .cache → cause ≠ 11 → w = .fault cause b →
        exec (.pageWalkComplete k) s = .next (s.putCtx k { c with block := .none, readyAt := s.now })))) ∧
  (∀ (k : Nat) (s : State) (c : Ctx) (va : Word) (lane pte desc : Nat) (x : Nat → Xl), s.ctxAt k = some c →
    c.block = .walk va .write lane → s.walk c.root.toNat c.asid.toNat va.toNat = .grow pte desc →
    (∀ a, x a = s.xlateHub c.root.toNat c.asid.toNat a .read true) →
    (∀ pc pp pf n f g0 g1 g2, x (desc + 32) = .ok pc g0 → n = s.mem.readLE pc 4 → n ≠ 0 → x (desc + 24) = .ok pp g1 →
      x (s.mem.readLE pp 8 + 8 * (n - 1)) = .ok pf g2 → f = s.mem.readLE pf 8 → f % 65536 = 0 → isDevice f = true →
      f < 0x1FE00000000 →
      ∃ t, exec (.growRequest k) s = .next t ∧ t.ctxAt k = some c ∧
        t.mem = (s.mem.writeBytes (pte / 128 * 128) ((List.range 16).flatMap fun i =>
          leBytes (0x6F + 256 * (s.mem.readLE (0x1FE00000000 + 8 * (f / 4096)) 8 / 16 % 4096) + (f / 4096 + i) * 2 ^ 20) 8)).writeLE
            pc 4 (n - 1)) ∧
    (∀ s1 c1 malformed, c.priv = false → s1 = (s.putCtx k { c with block := .none, readyAt := s.now }).drain k →
      s1.ctxAt k = some c1 →
      ((∃ pc g, x (desc + 32) = .ok pc g ∧ s.mem.readLE pc 4 = 0) ∧ malformed = false ∨
       ((∃ z b, x (desc + 32) = .fault z b) ∨
        (∃ pc pp pf g0 g1 g2 n f, x (desc + 32) = .ok pc g0 ∧ n = s.mem.readLE pc 4 ∧ n ≠ 0 ∧ x (desc + 24) = .ok pp g1 ∧
          x (s.mem.readLE pp 8 + 8 * (n - 1)) = .ok pf g2 ∧ f = s.mem.readLE pf 8 ∧
          (f % 65536 ≠ 0 ∨ isDevice f = false ∨ 0x1FE00000000 ≤ f))) ∧ malformed = true) →
      exec (.growRequest k) s = .next (s1.putCtx k
        (entered c1 (if malformed then 12 else 11) va (faultInfo .write true lane) c.pc)))) ∧
  (∀ (region die : Nat) (s : State),
    (¬ (callsFor s region die ∧ mayMove s region die) ∨ (mget s.windows region).isSome = true →
      exec (.migrationOpen region die) s = .next s) ∧
    (∀ d n : Nat, callsFor s region die → mayMove s region die → mget s.windows region = none → 16 * region + 16 ≤ 2 ^ 29 →
      d = 0x1FF40000000 + 64 + 32 * die → n = s.mem.readLE (d + 8) 4 →
      ∃ t w, exec (.migrationOpen region die) s = .next t ∧ t.windows = mput s.windows region w ∧ w.die = die ∧
        w.frame = s.mem.readLE ((s.mem.readLE d 8 + 8 * (n - 1)) % 2 ^ 52) 8 % 2 ^ 52 ∧
        w.line = s.mem.readLE (0x1FF00000000 + 32 * region + 16) 8 % 2 ^ 52 ∧
        w.gen = s.mem.readLE (0x1FE00000000 + 128 * region) 8 / 16 % 4096 ∧ w.copied = 0 ∧ w.fenced = false ∧ s.now < w.due ∧
        t.mem.readLE (d + 8) 4 = n - 1 ∧ t.mem.readBytes (0x1FF00000000 + 32 * region) 12 = List.replicate 12 0 ∧
        (∀ i < 16, pageRecord t.mem (16 * region + i) = pageRecord s.mem (16 * region + i) + 8)) ∧
    (mget s.windows region = none ∨ (∃ w, mget s.windows region = some w ∧ w.copied < 512) →
      exec (.migrationSwitch region) s = .next s) ∧
    (∀ w pa bs, s.windows = [(region, w)] → bs ≠ [] → pa % 64 + bs.length ≤ 64 → pa / 65536 = region → isDevice pa = true →
      reserved pa = false → s.idle (pa / 64) = true →
      ∃ t, exec (.driveDma pa true bs) s = .next t ∧
        t.mem = (s.mem.writeBytes pa bs).writeBytes (w.frame + pa % 65536) bs) ∧
    (∀ w, s.turn = .sched → s.nextJob = .migrateOn region → mget s.windows region = some w →
      (w.copied < 512 → s.bad = [] → ∃ t, step s = .next t ∧
        t.windows = mput s.windows region { w with copied := w.copied + 1, due := s.now + 1 } ∧
        t.mem = s.mem.writeBytes (w.frame + 128 * w.copied) (s.mem.readBytes (65536 * region + 128 * w.copied) 128)) ∧
      (512 ≤ w.copied → w.fenced = false → 16 * region + 16 ≤ 2 ^ 29 → ∃ t, step s = .next t ∧
        t.windows = mput s.windows region { w with fenced := true, due := s.now + 1 } ∧
        (∀ i < 16, pageRecord t.mem (16 * region + i) = raisedGen (pageRecord s.mem (16 * region + i))) ∧
        (∀ a, a < 0x1FE00000000 → t.mem.read a = s.mem.read a))) ∧
    (∀ w d n p g, mget s.windows region = some w → 512 ≤ w.copied → 16 * region + 16 ≤ 2 ^ 29 → w.die < 4 →
      d = 0x1FF40000000 + 64 + 32 * w.die → g = (w.gen + 1) % 4096 → w.line + 128 ≤ 0x1FE00000000 →
      ((∀ i < 16, lineEntry s.mem w.line i % 4 = 3 ∧ lineEntry s.mem w.line i / 2 ^ 20 % 2 ^ 40 = 16 * region + i ∧
          lineEntry s.mem w.line i / 256 % 4096 = w.gen) →
        w.frame + 65536 ≤ 0x1FE00000000 → w.frame % 65536 = 0 → w.frame ≠ 65536 * region →
        w.line + 128 ≤ w.frame ∨ w.frame + 65536 ≤ w.line → n = s.mem.readLE (d + 24) 4 →
        p = (s.mem.readLE (d + 16) 8 + 8 * n) % 2 ^ 52 → p + 8 ≤ 0x1FE00000000 → p + 8 ≤ w.frame ∨ w.frame + 65536 ≤ p →
        p + 8 ≤ w.line ∨ w.line + 128 ≤ p →
        ∃ t, exec (.migrationSwitch region) s = .next t ∧ t.windows = mdel s.windows region ∧
          t.saved = moveSaved (65536 * region) w.frame s.saved ∧
          t.mem.readBytes w.frame 65536 = s.mem.readBytes w.frame 65536 ∧
          (∀ i < 16, lineEntry t.mem w.line i = lineEntry s.mem w.line i % 256 + 256 * g + (w.frame / 4096 + i) * 2 ^ 20 +
            lineEntry s.mem w.line i / 2 ^ 60 * 2 ^ 60) ∧
          (∀ i < 16, pageRecord t.mem (w.frame / 4096 + i) = 16 * g ∧ pageRecord t.mem (16 * region + i) =
            undual (if w.fenced then pageRecord s.mem (16 * region + i) else raisedGen (pageRecord s.mem (16 * region + i)))) ∧
          t.mem.readLE p 8 = 65536 * region ∧ t.mem.readLE (d + 24) 4 = (n + 1) % 2 ^ 32) ∧
      ((∃ i < 16, ¬ (lineEntry s.mem w.line i % 4 = 3 ∧ lineEntry s.mem w.line i / 2 ^ 20 % 2 ^ 40 = 16 * region + i ∧
          lineEntry s.mem w.line i / 256 % 4096 = w.gen)) →
        n = s.mem.readLE (d + 8) 4 → p = (s.mem.readLE d 8 + 8 * n) % 2 ^ 52 → p + 8 ≤ 0x1FE00000000 →
        p + 8 ≤ w.line ∨ w.line + 128 ≤ p → w.frame < 2 ^ 64 →
        ∃ t, exec (.migrationSwitch region) s = .next t ∧ t.windows = mdel s.windows region ∧ t.saved = s.saved ∧
          t.mem.readBytes w.line 128 = s.mem.readBytes w.line 128 ∧
          (∀ i < 16, pageRecord t.mem (16 * region + i) =
            undual (if w.fenced then pageRecord s.mem (16 * region + i) else raisedGen (pageRecord s.mem (16 * region + i)))) ∧
          t.mem.readLE p 8 = w.frame ∧ t.mem.readLE (d + 8) 4 = (n + 1) % 2 ^ 32 ∧
          t.counters = (counted 0x190 s).counters)))

/-! ### Cellars, keys, boot, repair, power -/

/-- R403, R405 to R407: a load with go set puts the staged routine whole into its slot and counts it, its length 0 emptying the
slot, where the image has at most 64 words, each of the subset, and zero bytes elsewhere; or it is refused with its error bit. Go is
clear after it. A key request replaces or erases the keys of its handle, or is refused, its key bytes zeroed in every case. A tensor
layout record that fails its checks loses its valid bit and is counted. (The model's choices: log entry 33.) -/
def Obligations.AgentsAnswer : Prop :=
  ∀ (s : State) (v slot op hd len st : Nat) (m : Mem), v = s.mem.readLE 0x1FF50010000 8 → slot = v % 128 →
    st = 0x1FF50000000 + 512 * slot → len = s.mem.readLE st 4 →
    op = (s.mem.read 0x1FF60000002).toNat → hd = s.mem.readLE 0x1FF60000000 2 →
    m = (s.mem.writeBytes 0x1FF60000010 (List.replicate 64 0)).write 0x1FF60000002 0 →
    (v / 128 % 2 = 0 → exec .cellarLoad s = .next s) ∧
    (∀ ws, v / 128 % 2 = 1 → ws = (List.range len).map (fun i => BitVec.ofNat 32 (s.mem.readLE (st + 256 + 4 * i) 4)) →
      ((len ≤ 64 ∧ (∀ x, 4 ≤ x → x < 256 → s.mem.read (st + x) = 0) ∧
          (∀ x, 256 + 4 * len ≤ x → x < 512 → s.mem.read (st + x) = 0) ∧ ∀ i < len, routineWord len i ws[i]?) →
        exec .cellarLoad s = .next { s with
          cellars := if len = 0 then mdel s.cellars slot else mput s.cellars slot ws,
          mem := s.mem.writeLE 0x1FF50010000 8 (slot + 65536 * ((v / 65536 + 1) % 65536)) }) ∧
      ((64 < len ∨ (∃ x, 4 ≤ x ∧ x < 256 ∧ s.mem.read (st + x) ≠ 0) ∨
          (∃ x, 256 + 4 * len ≤ x ∧ x < 512 ∧ s.mem.read (st + x) ≠ 0) ∨ ∃ i < len, ¬ routineWord len i ws[i]?) →
        exec .cellarLoad s = .next { s with
          mem := s.mem.writeLE 0x1FF50010000 8 (slot + 256 + v / 65536 % 65536 * 65536) })) ∧
    (op = 0 → exec .keyInstall s = .next s ∧ exec .keyErase s = .next s) ∧
    (∀ bad : Prop, (bad ↔ hd = 0 ∨ 4096 ≤ hd ∨ (∃ x, (4 ≤ x ∧ x < 16 ∨ 80 ≤ x ∧ x < 128) ∧ s.mem.read (0x1FF60000000 + x) ≠ 0) ∨
        s.mem.readBytes 0x1FF60000010 32 = s.mem.readBytes 0x1FF60000030 32) →
      ((op ≠ 0 ∧ bad ∨ 2 < op) → exec .keyInstall s = .next { s with mem := m.write 0x1FF60000003 2 } ∧
        exec .keyErase s = .next { s with mem := m.write 0x1FF60000003 2 }) ∧
      (op = 1 → ¬ bad → exec .keyInstall s = .next { s with
        keys := mput s.keys hd (s.mem.readBytes 0x1FF60000010 32, s.mem.readBytes 0x1FF60000030 32),
        mem := m.write 0x1FF60000003 1 }) ∧
      (op = 2 → ¬ bad → exec .keyErase s = .next { s with
        keys := mdel s.keys hd, mem := m.write 0x1FF60000003 1 })) ∧
    (∀ h o, o = 0x1FF61000000 + 64 * h →
      ((s.mem.read (o + 29)).getLsbD 0 = true → layoutFails s.mem o → exec (.tensorLayoutValidate h) s = .next { s with
        mem := s.mem.write (o + 29) (s.mem.read (o + 29) &&& 0xFE),
        counters := mput s.counters 0x1A0 (Nat.min (mgetD s.counters 0x1A0 0 + 1) (2 ^ 64 - 1)) }) ∧
      ((s.mem.read (o + 29)).getLsbD 0 = false ∨ ¬ layoutFails s.mem o → exec (.tensorLayoutValidate h) s = .next s))

/-- R410 to R416, R426: a package reset clears every unit and runs the first firmware slot that passes its checks, copied into
the Hostel's shared cache, with hart 0 at its entry in M-mode and the cores that fail the self-test retired; or it goes to
recovery with the reason. An image request is refused with the code of the first check that fails, and with 7 where no
environment names its address space or a store faults. Else its bytes go through the page tables one by one, as a Hostel hart's
stores do, and its roles are recorded. A quote takes the next index and is signed, or says why it is not; before the firmware
runs there is none. (The model's choices: log entries 5, 8, 9, 54, 59, 95, 96, 103, 104 and 105.) -/
def Obligations.PackageBoots : Prop :=
  ∀ (s : State),
    (∃ t, exec .packageReset s = .next t ∧ t.live = false ∧ t.parked = [] ∧ t.boot.slotA = s.boot.slotA ∧
      t.boot.slotB = s.boot.slotB ∧
      (¬ containerPasses s.boot s.boot.slotA → ¬ containerPasses s.boot s.boot.slotB →
        t.boot.phase = 3 ∧ t.boot.fail = containerFail s.boot s.boot.slotB ∧ t.harts = [] ∧
        ∀ x, x < 2 ^ 51 ∨ 2 ^ 52 ≤ x → t.mem.read x = memDefault x) ∧
      (∀ (bs : List Byte) (second : Bool) (size : Nat),
        (containerPasses s.boot s.boot.slotA ∧ second = false ∧ bs = s.boot.slotA) ∨
        (¬ containerPasses s.boot s.boot.slotA ∧ containerPasses s.boot s.boot.slotB ∧ second = true ∧ bs = s.boot.slotB) →
        size = 256 + leNat (bytesAt bs 8 4) + 2820 →
        t.boot.phase = 2 ∧ t.boot.slot = second ∧ t.boot.fwver = leNat (bytesAt bs 6 2) ∧
        t.boot.running = bs.take (size - 2820) ∧ t.boot.signedOnly = decide (leNat (bytesAt bs 160 1) = 1) ∧
        t.boot.imageKey = (if (bytesAt bs 92 68).all (· == 0) then [] else bytesAt bs 92 68) ∧
        t.now = 0 ∧ t.cores = [] ∧ t.fe = [] ∧ t.engines = [] ∧ t.channels = [] ∧ t.launches = [] ∧ t.futures = [] ∧
        t.cellars = [] ∧ t.keys = [] ∧ t.roles = [] ∧ (∀ c ∈ s.boot.faulty, c ∈ t.retiredCores) ∧
        ∃ pos, pos % 4096 = 0 ∧ isDevice pos = true ∧ t.mem.readBytes pos size = bs.take size ∧
          (∀ x, x < 2 ^ 51 ∨ 2 ^ 52 ≤ x → x < pos ∨ pos + size ≤ x → t.mem.read x = memDefault x) ∧
          (∀ x, x < size → (mgetD t.dir ((pos + x) / 64) []).getD 4 .i = .m) ∧
          t.harts = [(0, { Hart.reset with pc := BitVec.ofNat 64 (pos + 256 + leNat (bytesAt bs 16 8)) })] ∧
          Hart.reset.mode = 3)) ∧
    (∃ t, exec .imageLoadRequest s = .next t) ∧
    ((s.mem.read 0x1FF80000014) = 0 → exec .imageLoadRequest s = .next s) ∧
    (∀ x, x = s.mem.read 0x1FF80000014 → x ≠ 0 → x ≠ 1 → exec .imageLoadRequest s = .next (imageAnswered 2 1 s)) ∧
    (∀ im n a len asid, (s.mem.read 0x1FF80000014) = 1 → a = s.mem.readLE 0x1FF80000000 8 → len = s.mem.readLE 0x1FF80000008 8 →
      asid = s.mem.readLE 0x1FF80000010 4 % 2 ^ 20 → im = (if memRange a len then s.mem.readBytes a len else []) →
      imageCode s.boot im = n →
      (n ≠ 0 → exec .imageLoadRequest s = .next (imageAnswered 2 n s)) ∧
      (n = 0 → s.envOfAsid asid = none → exec .imageLoadRequest s = .next (imageAnswered 2 7 s)) ∧
      (∀ (e : EnvEntry) (all : List (Nat × Byte)) (s1 : State), n = 0 → s.envOfAsid asid = some e → all = imageBytes im →
        (State.loadBytes e.root.toNat asid (all.drop s.boot.loaded) s = (s1, .fault) →
          exec .imageLoadRequest s = .next (imageAnswered 2 7 s1)) ∧
        (State.loadBytes e.root.toNat asid (all.drop s.boot.loaded) s = (s1, .later) →
          exec .imageLoadRequest s = .next (s1.at_ (s1.now + 1) .imageLoadRequest)) ∧
        (State.loadBytes e.root.toNat asid (all.drop s.boot.loaded) s = (s1, .done) →
          ∃ t, exec .imageLoadRequest s = .next t ∧ t.boot = { s1.boot with lastImage := im, loaded := 0 } ∧
            t.mem = (imageAnswered 1 0 s1).mem ∧
            (∀ i < placementCount im, ∀ o < (placement im i).2.1,
              mgetD t.roles ((placement im i).1 + o) ⟨0, 0, (0, 0), (0, 0), (0, 0)⟩ =
                roleRecord im asid (placement im i).2.2) ∧
            (∀ c, (∀ i < placementCount im, c < (placement im i).1 ∨
                (placement im i).1 + (placement im i).2.1 ≤ c) → mget t.roles c = mget s.roles c)))) ∧
    (∀ root asid va (b : Byte) (l : List (Nat × Byte)) (s1 : State),
      State.loadBytes root asid [] s = (s, .done) ∧
      (∀ pa g secs, s.hubXl root asid va .write = (s1, .ok pa g) → secs = sectorsAt pa 1 →
        State.loadBytes root asid ((va, b) :: l) s =
          if s1.blocked 4 true secs = true then (s1.queueAsks 4 true secs, .later)
          else State.loadBytes root asid l { (s1.ownAll 4 true secs).memWrite pa [b] with
            boot := { s1.boot with loaded := s1.boot.loaded + 1 } }) ∧
      (s.hubXl root asid va .write = (s1, .miss) → State.loadBytes root asid ((va, b) :: l) s = (s1, .later)) ∧
      (∀ c k, s.hubXl root asid va .write = (s1, .fault c k) → State.loadBytes root asid ((va, b) :: l) s = (s1, .fault))) ∧
    (∀ nonce,
      (s.boot.phase ≠ 2 → exec (.quoteRequest nonce) s = .next s) ∧
      (s.boot.phase = 2 → s.boot.nextIndex < 2 ^ 20 → s.boot.nvBroken = false →
        ∃ q, exec (.quoteRequest nonce) s = .next { s with
            boot := { s.boot with nextIndex := s.boot.nextIndex + 1, quotes := s.boot.quotes ++ [q] } } ∧
          quoteHas s q 0 s.boot.nextIndex nonce) ∧
      (s.boot.phase = 2 → 2 ^ 20 ≤ s.boot.nextIndex ∨ s.boot.nvBroken = true →
        ∃ q, exec (.quoteRequest nonce) s = .next { s with boot := { s.boot with quotes := s.boot.quotes ++ [q] } } ∧
          quoteHas s q (if 2 ^ 20 ≤ s.boot.nextIndex then 1 else 2) 0 nonce ∧
          bytesAt q 256 2820 = List.replicate 2820 0))

/-- R417, R419 to R421, R424, R425: a class's window takes a legal configuration and discards another. A lane's failure is
counted on its unit and is an event of the lane, which the class count of them within the window makes lasting, so that it
waits for a spare; a replay that fails counts as uncorrectable; a waiting lane of a link is switched to a spare while the
direction has one. The power control takes a legal write, its measured fields kept, and counts an illegal one; each cap step
measures and comes again after 10 µs, and raises one island's throttle where the measured power is above the cap. (The model's
choices: log entries 39, 55, 66 and 107.) -/
def Obligations.RepairAndPower : Prop :=
  ∀ (s : State),
    (∀ cls (v : Word),
      (cls < 3 → v.toNat % 256 ≠ 0 → v.toNat / 256 % 2 ^ 24 ≠ 0 → v.toNat < 2 ^ 32 →
        exec (.windowConfigWrite cls v) s = .next { s with cfg := s.cfg.writeLE (0x40008 + 8 * cls) 8 v.toNat }) ∧
      (v.toNat % 256 = 0 ∨ v.toNat / 256 % 2 ^ 24 = 0 ∨ 2 ^ 32 ≤ v.toNat →
        exec (.windowConfigWrite cls v) s = .next s)) ∧
    (∀ u dir lane, 26 ≤ u → u ≤ 33 → ∃ t, exec (.linkCrcFailure u dir lane) s = .next t ∧ t.mem = s.mem ∧
      t.counters = mput s.counters (0x1000 + 16 * u) (Nat.min (mgetD s.counters (0x1000 + 16 * u) 0 + 1) (2 ^ 64 - 1)) ∧
      (if dir then s.now < (mgetD t.links u Link.reset).idle1 else s.now < (mgetD t.links u Link.reset).idle0)) ∧
    (∀ u dir lane x w, 26 ≤ u → u ≤ 33 → x = lane + (if dir then 65536 else 0) → w = s.windowCfg 0 → (0, u, x) ∉ s.lasting →
      ∃ t, exec (.linkCrcFailure u dir lane) s = .next t ∧
        ((0, u, x) ∈ t.lasting ↔ w.1 ≤ 1 + (((mgetD s.stamps (u * 2 ^ 32 + x) []).take 254).filter fun a =>
          decide (s.hubUs ≤ a + w.2)).length) ∧
        ((0, u, x) ∈ t.lasting → x ∈ (mgetD t.links u Link.reset).waiting)) ∧
    (∀ u dir n l, s.turn = .sched → s.nextJob = .incident → s.incidents = (n, .replayFails u dir) :: l → 26 ≤ u → u ≤ 53 →
      (u ≤ 33 → s.now < (if dir then (mgetD s.links u Link.reset).idle1 else (mgetD s.links u Link.reset).idle0)) →
      ∃ t, step s = .next t ∧ t.incidents = l ∧ t.mem = s.mem ∧
        t.counters = mput s.counters (0x1008 + 16 * u) (Nat.min (mgetD s.counters (0x1008 + 16 * u) 0 + 1) (2 ^ 64 - 1)) ∧
        (u ≤ 33 → s.now < (if dir then (mgetD t.links u Link.reset).idle1 else (mgetD t.links u Link.reset).idle0))) ∧
    (∀ u dir l x, mgetD s.links u Link.reset = l →
      (l.waiting.find? fun y => decide (65536 ≤ y) == dir) = some x → (if dir then l.idle1 else l.idle0) ≤ s.now →
      ∃ t l', exec (.laneRepairSwitch u dir) s = .next t ∧ mgetD t.links u Link.reset = l' ∧
        l'.waiting = l.waiting.filter (· != x) ∧
        l'.spared = (if (l.spared.filter fun y => decide (65536 ≤ y) == dir).length < 4 then l.spared ++ [x] else l.spared) ∧
        t.mem = s.mem) ∧
    (∀ u dir, (mgetD s.links u Link.reset).waiting = [] → exec (.laneRepairSwitch u dir) s = .next s) ∧
    (∀ u lane, 34 ≤ u → u ≤ 53 → ∃ t, exec (.portLaneError u lane) s = .next t ∧ t.mem = s.mem ∧
      t.counters = mput s.counters (0x1000 + 16 * u) (Nat.min (mgetD s.counters (0x1000 + 16 * u) 0 + 1) (2 ^ 64 - 1))) ∧
    (∀ (v : Word) (old : Nat), old = s.mem.readLE 0x1FF71000000 8 →
      (v.toNat % 4096 < 600 ∨ 2800 < v.toNat % 4096 ∨ v.toNat / 2 ^ 13 % 8 ≠ 0 ∨ v.toNat / 2 ^ 28 % 16 ≠ 0 ∨ 2 ^ 40 ≤ v.toNat →
        exec (.powerControlWrite v) s = .next { s with
          counters := mput s.counters 0x188 (Nat.min (mgetD s.counters 0x188 0 + 1) (2 ^ 64 - 1)) }) ∧
      (600 ≤ v.toNat % 4096 → v.toNat % 4096 ≤ 2800 → v.toNat / 2 ^ 13 = old / 2 ^ 13 → old / 2 ^ 13 % 8 = 0 →
        old / 2 ^ 28 % 16 = 0 → old < 2 ^ 40 → v.toNat / 4096 % 2 = 1 →
        exec (.powerControlWrite v) s = .next { s with mem := s.mem.writeLE 0x1FF71000000 8 v.toNat })) ∧
    (∃ t, exec .powerCapStep s = .next t ∧ t.ctx = s.ctx ∧ t.parked = s.parked ∧ (s.now + 18000, Instr.powerCapStep) ∈ t.agenda ∧
      ∀ p, p = t.mem.readLE 0x1FF71000000 8 →
        (p / 4096 % 2 = 0 → t.power = s.power) ∧
        (p / 4096 % 2 = 1 → p % 4096 < p / 65536 % 4096 → t.power = s.power ∨
          ∃ j, t.power = { level := mput s.power.level j (mgetD s.power.level j 0 + 1), steps := j :: s.power.steps }) ∧
        (p / 4096 % 2 = 1 → p / 65536 % 4096 ≤ p % 4096 → p % 4096 * 95 ≤ p / 65536 % 4096 * 100 → t.power = s.power))

/-! ### Every word, every step -/

/-- R20, R24, R27 to R31: what keeps a word of S from running, in the order of its checks. A privileged word in an unprivileged
context takes the privilege trap. While S owes a push the word is held. Where a token it waits on is not there, the context
waits for the tokens and nothing else changes. (The model's choices: log entry 71.) -/
def Obligations.WordsWait : Prop :=
  ∀ (i : Instr) (p : Dep) (needsPriv : Bool) (s : State), issueMarks i = some (p, needsPriv) → s.live = true →
    (needsPriv = true → s.ctx.priv = false → exec i s = .next (trapped s (wordTrap 2 i))) ∧
    ((needsPriv = true → s.ctx.priv = true) →
      (s.ctx.owes .s = true → exec i s = .next (heldAt false s)) ∧
      (s.ctx.owes .s = false → s.ctx.canPop .s p = false →
        exec i s = .next { slotted s with ctx := { s.ctx with block := .tokens p, blockedAt := s.now } }))

/-- R19, R24, R240, R241, R245: a load, full-empty load, atomic or store of S waits behind an LDA and at a counter of 63; it
traps where it reads a pending register early, where its address is not canonical, where its window does not allow it, where it
is not aligned and where its translation faults; a translation that its core does not hold is walked for. (The model's choices:
log entries 20 and 71.) -/
def Obligations.AccessChecks : Prop :=
  ∀ (i : Instr) (r : CheckRow) (s : State) (a : Word) (last : Nat), checkRow i = some r → CanIssue r.p s → r.addr s = a →
    a.toNat + r.size - 1 = last →
    (s.ctx.ldaWait = true → exec i s = .next (heldAt false s)) ∧
    (s.ctx.ldaWait = false → 63 ≤ s.ctx.ctr r.ctr → exec i s = .next (heldAt true s)) ∧
    (LsOpen r.ctr s →
      (∀ d, s.earlyS r.srcs = some d → exec i s = .next (trapped s ⟨6, earlyTval d, 0⟩)) ∧
      (Settled r.srcs s →
        (2 ^ 57 ≤ last → exec i s = .next (trapped s ⟨8, a, 0⟩)) ∧
        (last < 2 ^ 57 →
          ((r.win.allows (placeOf s.core a.toNat) && r.win.allowsEnd (placeOf s.core last)) = false →
            exec i s = .next (trapped s ⟨9, a, 0⟩)) ∧
          ((r.win.allows (placeOf s.core a.toNat) && r.win.allowsEnd (placeOf s.core last)) = true →
            (a.toNat % r.size ≠ 0 → exec i s = .next (trapped s ⟨10, a, 0⟩)) ∧
            (a.toNat % r.size = 0 → placeOf s.core a.toNat = .trans →
              (s.xlateS a.toNat r.want = .miss → exec i s = .next (walking s a r.want)) ∧
              (∀ z b, s.xlateS a.toNat r.want = .fault z b →
                exec i s = .next (trapped s ⟨z, a, faultInfo r.want b 0⟩)))))))

/-- R26, R35 to R61, R333: decoding the word that an instruction is encoded as gives the instruction back, with every operand at
every value, and every word that decodes is the one encoding of its instruction: no bit of a word is dropped. -/
def Obligations.EncodingRoundTrip : Prop :=
  (∀ (i : Instr) (w : IWord), i.wf = true → encode i = some w →
    (if hostelWord i then decodeHostel w else decode w) = some i) ∧
  (∀ (i : Instr) (w : IWord), decode w = some i → i.wf = true ∧ hostelWord i = false ∧ encode i = some w) ∧
  (∀ (i : Instr) (w : IWord), decodeHostel w = some i → hostelWord i = true ∧ encode i = some w)

/-- R26, R35 to R61: words written out field by field from the formats decode to the instructions they stand for, and a cleared
word to none. -/
def Obligations.DecodeSamples : Prop :=
  decode (0b0001#4 ++ 0x02#6 ++ 3#5 ++ 4#5 ++ 5#5 ++ 1#7) = some (.sub 1 3 4 5) ∧
  decode (0b0000#4 ++ 0x07#6 ++ 9#5 ++ 8#5 ++ 0b10#2 ++ 0#4 ++ 63#6) = some (.srai 0 9 8 63) ∧
  decode (0b0000#4 ++ 0x0E#6 ++ 1#5 ++ 2#5 ++ 0xFFE#12) = some (.blt 0 1 2 0xFFE) ∧
  decode (0b1000#4 ++ 0x14#6 ++ 7#5 ++ 6#5 ++ 0b110#3 ++ 0x1FF#9) = some (.ld 8 7 6 0x1FF) ∧
  decode (0b0000#4 ++ 0x18#6 ++ 1#5 ++ 2#5 ++ 3#5 ++ 7#3 ++ 1#1 ++ 3#3) = some (.amocas 0 1 2 3 true .pkg) ∧
  decode (0b0000#4 ++ 0x21#6 ++ 0b000001#6 ++ 0b010010#6 ++ 0b100011#6 ++ 0#4) = some (.vfadd 0 1 18 35) ∧
  decode (0b0000#4 ++ 0x2D#6 ++ 2#5 ++ 3#5 ++ 4#3 ++ 0x13#6 ++ 0#3) = some (.mmac 0 2 3 4) ∧
  decode (0b0000#4 ++ 0x38#6 ++ 0#1 ++ 9#5 ++ 0b01#2 ++ 5#14) = some (.sst 0 9 5) ∧
  decodeHostel (0#7 ++ 4#5 ++ 3#5 ++ 0b010#3 ++ 0#5 ++ 0b0001011#7) = some (.sbox 3 4) ∧
  decode 0 = none

/-- R26, R39, R140, R155, R234, R241, R371: a step in which S issues runs the instruction that the four bytes at the context's
pc decode to, once its die holds their sector; a word that decodes to none takes the illegal-instruction trap; a fetch that the
rules fault traps with cause 7, and one without its translation, its sector or its generation waits. A step in which a word has
started, an engine serves a command or a unit acts runs that word or that row of the table; every other step of the scheduler
completes. (The model's choices: log entries 1, 65, 102 and 107.) -/
def Obligations.StepRunsTheWord : Prop :=
  (∀ (s t : State) (k : Nat) (pc : Word), s.turn = .sched → s.nextJob = .issue k → s.toIssue k = t → t.ctx.pc = pc →
    (t.draining t.core t.ctx = true → step s = .next (slotted t)) ∧
    (t.draining t.core t.ctx = false →
      (2 ^ 57 ≤ pc.toNat → step s = .next (trapped t ⟨7, pc, 1⟩)) ∧
      (pc.toNat < 2 ^ 57 → pc.toNat % 4 ≠ 0 → step s = .next (trapped t ⟨7, pc, 2⟩)) ∧
      (pc.toNat < 2 ^ 57 → pc.toNat % 4 = 0 → winBase ≤ pc.toNat → step s = .next (trapped t ⟨7, pc, 5⟩)) ∧
      (pc.toNat < winBase → pc.toNat % 4 = 0 →
        (∀ z b, t.xlateS pc.toNat .fetch = .fault z b →
          step s = .next (trapped t ⟨7, pc, if z = 11 then 3 else 4⟩)) ∧
        (t.xlateS pc.toNat .fetch = .miss → step s = .next (walking t pc .fetch)) ∧
        (∀ pa gen, t.xlateS pc.toNat .fetch = .ok pa gen →
          (t.genOk ⟨pc, pa, 4, gen, isDevice pa⟩ = false → ∃ u, step s = .next u ∧ u.ctx = t.ctx ∧ u.mem = t.mem ∧
            (mgetD u.cores (t.key / 4) Core.reset).sAt = t.now + 1 ∧ ∀ e ∈ (mgetD u.cores (t.key / 4) Core.reset).tlb,
              ¬ (e.asid = t.ctx.asid.toNat ∧ e.base ≤ pc.toNat ∧ pc.toNat < e.base + e.size)) ∧
          (t.genOk ⟨pc, pa, 4, gen, isDevice pa⟩ = true →
            ((∃ x ∈ sectorsAt pa 4, dirState t x (dieOf (t.key / 4)) = .i) →
              step s = .next (t.queueAsks (dieOf (t.key / 4)) false (sectorsAt pa 4))) ∧
            (∀ w, (∀ x ∈ sectorsAt pa 4, dirState t x (dieOf (t.key / 4)) ≠ .i) → t.bad = [] → word32 t.mem pa = w →
              (∀ i, decode w = some i → step s = exec i (copyTaken t pa)) ∧
              (decode w = none → step s = .next (trapped (copyTaken t pa) ⟨1, w.zeroExtend 64, 0⟩)))))))) ∧
  (∀ (s : State) (i : Instr), s.turn = .sched → s.nextJob = .unit i → step s = exec i s) ∧
  (∀ (s : State) (n : Nat) (i : Instr), s.turn = .sched → s.nextJob = .input n i →
    step s = exec i { s with agenda := s.agenda.eraseIdx n }) ∧
  (∀ (s : State) (k : Nat), s.turn = .sched → s.nextJob = .async k → step s = exec (.asyncTrapEntry k) s) ∧
  (∀ (s : State) (k : Nat), s.turn = .sched → s.nextJob = .probe k → step s = exec (.deadlockProbe k) s) ∧
  (∀ (s : State) (k : Nat), s.turn = .sched → s.nextJob = .grow k → step s = exec (.growRequest k) s) ∧
  (∀ (s : State) (region : Nat), s.turn = .sched → s.nextJob = .migrate region → step s = exec (.migrationSwitch region) s) ∧
  (∀ (s : State) (u : Nat) (dir : Bool), s.turn = .sched → s.nextJob = .lane u dir → step s = exec (.laneRepairSwitch u dir) s) ∧
  (∀ (s : State) (k : Nat), s.turn = .sched → s.nextJob = .copyOn k → step s = .next { s.focus k with turn := .copy }) ∧
  (∀ (s : State) (en : Nat), s.turn = .sched → s.nextJob = .engineOn en → step s = .next { s with turn := .engine en }) ∧
  (∀ (s : State) (h : Nat), s.turn = .sched → s.nextJob = .hart h → step s = .next { s with
    hartDue := s.hartDue.eraseIdx (s.hartDue.findIdx fun x => x.2 == h), turn := .hart h }) ∧
  (∀ (s : State), s.turn = .sched →
    match s.nextJob with
    | .incident | .migrateOn _ | .result _ _ | .swap _ | .admission _ | .status | .door | .inject _ | .ask _ _ _ | .serve _ | .hop _
    | .posted => ∃ t, step s = .next t
    | .tick => ∃ t, step s = .next t ∧ t.now = s.now + 1 ∧ t.mem = s.mem
    | _ => True) ∧
  (∀ (s : State) (st : Station) (e : QEntry) (i : Instr), s.turn = .start st → s.ctx.started st = some e → e.word = some i →
    step s = exec i s) ∧
  (∀ (s : State) (en k : Nat) (c : Ctx) (e : QEntry) (i : Instr), s.turn = .engine en → s.served en = some (k, c, e) →
    e.word = some i → step s = exec i s) ∧
  (∀ (s : State) (e : QEntry) (i : Instr), s.turn = .copy → s.ctx.cact = some e → e.word = some i → step s = exec i s) ∧
  (∀ (s s1 : State) (h : Nat) (w : IWord) (i : Instr), s.turn = .hart h → s.hartFetch h = .word s1 w → decodeHostel w = some i →
    step s = exec i s1) ∧
  (∀ (s : State) (h : Nat), s.turn = .hart h → (∀ s1 w, s.hartFetch h = .word s1 w → decodeHostel w = none) →
    ∃ t, step s = .next t ∧ t.turn = .sched)

/-- Memory is held in one form (rising addresses, no entry that equals what an unlisted address reads as), and every step keeps
it. (The model's choices: log entry 44.) -/
def Obligations.MemoryStaysCanonical : Prop :=
  ∀ s t : State, s.mem.wf = true → step s = .next t → t.mem.wf = true

/-- R15, R19, R20, R113, R129, R146, R194, R349, R350, R357, R410, R419: what reset leaves. Every scratchpad byte is zero, every bit
empty and every bank raw; no context lives; the launch, queue, vocabulary, peer and environment tables and those of the relay are
zero; after the boot ROM the slice length is 1,000 µs and every class's window 16 events in 86,400 s; the package's memory is in its
form; the first step is the boot ROM's. (The model's choices: log entries 4 and 5.) -/
def Obligations.ResetState : Prop :=
  State.reset.mem.wf = true ∧
  (∀ core off, core < 1280 → off < 2 ^ 19 → State.reset.mem.read (spadLoc core off) = 0) ∧
  State.reset.fe = [] ∧ (∀ core bank, State.reset.fmtReg core bank = 0xF) ∧
  State.reset.live = false ∧ State.reset.parked = [] ∧ State.reset.now = 0 ∧
  (∀ ch, mgetD State.reset.channels ch Channel.reset = Channel.reset) ∧ (Channel.reset.d0 = 0 ∧ Channel.reset.d1 = 0) ∧
  (∀ off, (0x1000 ≤ off ∧ off < 0x1200) ∨ (0x2000 ≤ off ∧ off < 0x2200) ∨ (0x20000 ≤ off ∧ off < 0x20400) ∨
    (0x30000 ≤ off ∧ off < 0x30800) ∨ (0x80000 ≤ off ∧ off < 0xC0000) → State.reset.cfg.read off = 0) ∧
  (∃ t, exec .packageReset State.reset = .next t ∧ t.cfg.readLE 0x3000 4 = 1000 ∧
    ∀ c < 3, t.cfg.readLE (0x40008 + 8 * c) 8 = 16 + 86400 * 256) ∧
  (∀ r : SReg, Ctx.reset.reg r = 0) ∧ Ctx.reset.vt = 0 ∧ (∀ m : MReg, m ≠ 0 → Ctx.reset.mask m = 0) ∧
  Ctx.reset.mask 0 = BitVec.allOnes 256 ∧ (∀ q, Ctx.reset.tok q = 0) ∧
  (∀ k : Ctr, Ctx.reset.ctr k = 0) ∧ (∀ n : Fin 4, Ctx.reset.gens[n].bound = false) ∧
  (∃ n, State.reset.nextJob = .input n .packageReset)
end

