-- ==== Sys2Proof/Laws/Context.lean ====
section
/-! SUPPORT. What the named updates of a context keep, and what is read after a register, cell or mask was written: the
token operations touch the token counts and the owed pushes alone, a completion also the waiting pushes and the state kept from
a trap's entry. -/

namespace Sys2Proof.Machine

/-! ### Registers, cells, masks -/

@[simp] theorem Ctx.reg_zero (c : Ctx) : c.reg 0 = 0 := rfl

/-- A write of s0 is discarded (R9). -/
@[simp] theorem Ctx.setReg_zero (c : Ctx) (v : Word) : c.setReg 0 v = c := rfl

/-- A register written reads as the value written. -/
theorem Ctx.reg_setReg_same (c : Ctx) {r : SReg} (v : Word) (h : r ≠ 0) : (c.setReg r v).reg r = v := by
  unfold Ctx.setReg Ctx.reg; rw [if_neg h, if_neg h]; simp

/-- Every other register keeps its value. -/
theorem Ctx.reg_setReg_other (c : Ctx) {r q : SReg} (v : Word) (h : q ≠ r) : (c.setReg r v).reg q = c.reg q := by
  unfold Ctx.setReg
  split_ifs with h0
  · rfl
  · have hn : r.toNat ≠ q.toNat := fun e => h (BitVec.eq_of_toNat_eq e.symm)
    simp [Ctx.reg, hn]

/-- A register write touches the registers alone. -/
theorem Ctx.setReg_eq (c : Ctx) (r : SReg) (v : Word) : c.setReg r v = { c with regs := (c.setReg r v).regs } := by
  unfold Ctx.setReg; split_ifs <;> rfl

/-- A cell write touches the grid alone. -/
theorem Ctx.setCell_eq (c : Ctx) (n : BitVec 8) (m v : Word) : c.setCell n m v = { c with grid := (c.setCell n m v).grid } := rfl

/-- A mask write touches the masks alone. -/
theorem Ctx.setMask_eq (c : Ctx) (r : MReg) (v : BitVec 256) : c.setMask r v = { c with masks := (c.setMask r v).masks } := by
  unfold Ctx.setMask; split_ifs <;> rfl

/-- Mask m0 reads as all ones (R14). -/
@[simp] theorem Ctx.mask_zero (c : Ctx) : c.mask 0 = maskOnes := rfl

theorem Ctx.mask_setMask_same (c : Ctx) {r : MReg} (v : BitVec 256) (h : r ≠ 0) : (c.setMask r v).mask r = v := by
  unfold Ctx.setMask Ctx.mask; rw [if_neg h, if_neg h]; simp

/-- A cell of the allocation after a write under a bit mask (R14, R32). -/
theorem Ctx.cell_setCell_same (c : Ctx) (n : BitVec 8) (m v : Word) (h : n.toNat / 16 < c.rows) :
    (c.setCell n m v).cell n = (c.cell n &&& ~~~m) ||| (v &&& m) := by
  simp [Ctx.setCell, Ctx.cell, h]

theorem Ctx.cell_setCell_other (c : Ctx) {n k : BitVec 8} (m v : Word) (h : k ≠ n) :
    (c.setCell n m v).cell k = c.cell k := by
  have hn : n.toNat ≠ k.toNat := fun e => h (BitVec.eq_of_toNat_eq e.symm)
  simp [Ctx.setCell, Ctx.cell, hn]

/-! ### Tokens -/

/-- What the token operations may change: the counts and the owed pushes. -/
def TokOnly (c d : Ctx) : Prop := d = { c with toks := d.toks, owed := d.owed }

theorem TokOnly.refl (c : Ctx) : TokOnly c c := rfl

theorem TokOnly.trans {c d e : Ctx} (h : TokOnly c d) (g : TokOnly d e) : TokOnly c e := by
  unfold TokOnly at *; rw [g, h]

theorem TokOnly.foldl {α : Type} (f : Ctx → α → Ctx) (hf : ∀ c a, TokOnly c (f c a)) (l : List α) (c : Ctx) :
    TokOnly c (l.foldl f c) := by
  induction l generalizing c with
  | nil => exact TokOnly.refl c
  | cons a r ih => exact (hf c a).trans (ih (f c a))

theorem Ctx.setTok_only (c : Ctx) (q n : Nat) : TokOnly c (c.setTok q n) := by
  unfold Ctx.setTok TokOnly; split <;> rfl

theorem Ctx.push1_only (c : Ctx) (st : Station) (q : Nat) : TokOnly c (c.push1 st q) := by
  unfold Ctx.push1; split_ifs
  · exact c.setTok_only _ _
  · rfl

theorem Ctx.settle_only (c : Ctx) : TokOnly c c.settle := by
  unfold Ctx.settle
  exact TokOnly.trans (d := { c with owed := [] }) rfl (TokOnly.foldl _ (fun (c : Ctx) (o : Station × Nat) => c.push1_only o.1 o.2) _ _)

theorem Ctx.popToks_only (c : Ctx) (st : Station) (p : Dep) : TokOnly c (c.popToks st p) := by
  unfold Ctx.popToks
  split
  · exact TokOnly.refl c
  · exact TokOnly.trans (TokOnly.foldl _ (fun c q => c.setTok_only q _) _ c) (Ctx.settle_only _)

theorem Ctx.returnToks_only (c : Ctx) (st : Station) (p : Dep) : TokOnly c (c.returnToks st p) :=
  TokOnly.foldl _ (fun c q => by split_ifs; exacts [c.setTok_only q _, rfl]) _ c

/-- What a word's completion may change: the counts, the owed and waiting pushes, the state kept from a trap's entry. -/
def EndOnly (c d : Ctx) : Prop := d = { c with toks := d.toks, owed := d.owed, done := d.done, entry := d.entry }

theorem EndOnly.trans {c d e : Ctx} (h : EndOnly c d) (g : EndOnly d e) : EndOnly c e := by
  unfold EndOnly at *; rw [g, h]

theorem EndOnly.foldl {α : Type} (f : Ctx → α → Ctx) (hf : ∀ c a, EndOnly c (f c a)) (l : List α) (c : Ctx) :
    EndOnly c (l.foldl f c) := by
  induction l generalizing c with
  | nil => rfl
  | cons a r ih => exact (hf c a).trans (ih (f c a))

theorem TokOnly.end {c d : Ctx} (h : TokOnly c d) : EndOnly c d := by
  unfold TokOnly EndOnly at *; rw [h]

theorem Ctx.older_only (c : Ctx) (id : Nat) (f : Entry → Entry) : EndOnly c (c.older id f) := by
  unfold Ctx.older
  split
  · split_ifs <;> rfl
  · rfl

theorem Ctx.pushes_only (c : Ctx) (st : Station) (id : Nat) (qs : List Nat) :
    EndOnly c ((qs.foldl (fun c q => c.push1 st q) c).older id (Entry.push qs)) :=
  (TokOnly.foldl _ (fun (c : Ctx) q => c.push1_only st q) qs c).end.trans (Ctx.older_only _ _ _)

/-- A change of the entry's state to itself is none. -/
@[simp] theorem Ctx.older_self (c : Ctx) (id : Nat) : (c.older id fun e => e) = c := by
  unfold Ctx.older
  split
  · rename_i e h; split_ifs
    · cases c; simp_all
    · rfl
  · rfl

@[simp] theorem Entry.push_nil : Entry.push [] = fun e => e := rfl
@[simp] theorem Entry.pop_nil : Entry.pop [] = fun e => e := rfl

/-- A word without WP and WN pops nothing. -/
@[simp] theorem Ctx.popToks_none (c : Ctx) (st : Station) : c.popToks st 0 = c := by cases st <;> rfl

theorem Ctx.flush_only (c : Ctx) : EndOnly c c.flush := by
  unfold Ctx.flush
  refine EndOnly.trans (d := { c with done := [] }) rfl (EndOnly.foldl _ (fun (c : Ctx) (d : Station × Nat × List Nat) => ?_) _ _)
  split_ifs
  · rfl
  · exact c.pushes_only _ _ _

/-- A completion touches the token counts, the owed and waiting pushes and the state kept from a trap's entry alone. -/
theorem Ctx.complete_only (c : Ctx) (st : Station) (id : Nat) (qs : List Nat) : EndOnly c (c.complete st id qs) := by
  have other : ∀ st', EndOnly c (if qs.isEmpty then c.flush
    else ({ c with done := insDone (st', id, qs) c.done } : Ctx).flush) := by
    intro st'; split_ifs
    · exact c.flush_only
    · exact EndOnly.trans (d := { c with done := insDone (st', id, qs) c.done }) rfl (Ctx.flush_only _)
  cases st with
  | s => exact c.pushes_only .s id qs
  | v => exact other .v
  | m => exact other .m
  | c => exact other .c

/-- A word without SP and SN completes at S without a change. -/
@[simp] theorem Ctx.complete_none (c : Ctx) (id : Nat) : c.complete .s id [] = c := by simp [Ctx.complete]

end Sys2Proof.Machine
end

