-- ==== Sys2Proof/Laws/Decode.lean ====
section
/-! SUPPORT. The fields of each instruction format read back from the word that the encoder writes (R35, R333). -/

namespace Sys2Proof

/-- A field of a word as a number. -/
theorem fld_toNat (w : IWord) (lo n : Nat) : (fld w lo n).toNat = w.toNat / 2 ^ lo % 2 ^ n := by
  simp [fld, BitVec.extractLsb'_toNat, Nat.shiftRight_eq_div_pow]

/-- A field of a joined word that lies in its low part. -/
theorem extract_low {a b : Nat} (x : BitVec a) (y : BitVec b) (lo n : Nat) (h : lo + n ≤ b) :
    (x ++ y).extractLsb' lo n = y.extractLsb' lo n := by
  apply BitVec.eq_of_getLsbD_eq
  intro i hi
  simp only [BitVec.getLsbD_extractLsb', BitVec.getLsbD_append, hi, decide_true, Bool.true_and]
  rw [if_pos (by simpa using (by omega : lo + i < b))]

/-- A field of a joined word that lies in its high part. -/
theorem extract_high {a b : Nat} (x : BitVec a) (y : BitVec b) (lo n : Nat) (h : b ≤ lo) :
    (x ++ y).extractLsb' lo n = x.extractLsb' (lo - b) n := by
  apply BitVec.eq_of_getLsbD_eq
  intro i hi
  simp only [BitVec.getLsbD_extractLsb', BitVec.getLsbD_append, hi, decide_true, Bool.true_and]
  rw [if_neg (by simpa using (by omega : ¬ lo + i < b))]
  congr 1; omega

theorem extract_all {a : Nat} (x : BitVec a) : x.extractLsb' 0 a = x := by simp

/-! ### Format R -/

@[simp] theorem encR_p (p : BitVec 4) (m : BitVec 6) (d : BitVec 5) (a : BitVec 5) (b : BitVec 5) (fn : BitVec 7) : fld (encR p m d a b fn) 28 4 = p :=
  (extract_high _ _ 28 4 (by decide)).trans <| (extract_high _ _ 21 4 (by decide)).trans <| (extract_high _ _ 16 4 (by decide)).trans <| (extract_high _ _ 11 4 (by decide)).trans <| (extract_high _ _ 6 4 (by decide)).trans <| (extract_all _)
@[simp] theorem encR_m (p : BitVec 4) (m : BitVec 6) (d : BitVec 5) (a : BitVec 5) (b : BitVec 5) (fn : BitVec 7) : fld (encR p m d a b fn) 22 6 = m :=
  (extract_high _ _ 22 6 (by decide)).trans <| (extract_high _ _ 15 6 (by decide)).trans <| (extract_high _ _ 10 6 (by decide)).trans <| (extract_high _ _ 5 6 (by decide)).trans <| (extract_low _ _ 0 6 (by decide)).trans <| (extract_all _)
@[simp] theorem encR_d (p : BitVec 4) (m : BitVec 6) (d : BitVec 5) (a : BitVec 5) (b : BitVec 5) (fn : BitVec 7) : fld (encR p m d a b fn) 17 5 = d :=
  (extract_high _ _ 17 5 (by decide)).trans <| (extract_high _ _ 10 5 (by decide)).trans <| (extract_high _ _ 5 5 (by decide)).trans <| (extract_low _ _ 0 5 (by decide)).trans <| (extract_all _)
@[simp] theorem encR_a (p : BitVec 4) (m : BitVec 6) (d : BitVec 5) (a : BitVec 5) (b : BitVec 5) (fn : BitVec 7) : fld (encR p m d a b fn) 12 5 = a :=
  (extract_high _ _ 12 5 (by decide)).trans <| (extract_high _ _ 5 5 (by decide)).trans <| (extract_low _ _ 0 5 (by decide)).trans <| (extract_all _)
@[simp] theorem encR_b (p : BitVec 4) (m : BitVec 6) (d : BitVec 5) (a : BitVec 5) (b : BitVec 5) (fn : BitVec 7) : fld (encR p m d a b fn) 7 5 = b :=
  (extract_high _ _ 7 5 (by decide)).trans <| (extract_low _ _ 0 5 (by decide)).trans <| (extract_all _)
@[simp] theorem encR_fn (p : BitVec 4) (m : BitVec 6) (d : BitVec 5) (a : BitVec 5) (b : BitVec 5) (fn : BitVec 7) : fld (encR p m d a b fn) 0 7 = fn :=
  (extract_low _ _ 0 7 (by decide)).trans <| (extract_all _)
theorem encR_head (p : BitVec 4) (m : BitVec 6) (d : BitVec 5) (a : BitVec 5) (b : BitVec 5) (fn : BitVec 7) : fld (encR p m d a b fn) 28 4 = p ∧ fld (encR p m d a b fn) 22 6 = m := ⟨by simp, by simp⟩

/-! ### Format I -/

@[simp] theorem encI_p (p : BitVec 4) (m : BitVec 6) (d : BitVec 5) (a : BitVec 5) (i : BitVec 12) : fld (encI p m d a i) 28 4 = p :=
  (extract_high _ _ 28 4 (by decide)).trans <| (extract_high _ _ 16 4 (by decide)).trans <| (extract_high _ _ 11 4 (by decide)).trans <| (extract_high _ _ 6 4 (by decide)).trans <| (extract_all _)
@[simp] theorem encI_m (p : BitVec 4) (m : BitVec 6) (d : BitVec 5) (a : BitVec 5) (i : BitVec 12) : fld (encI p m d a i) 22 6 = m :=
  (extract_high _ _ 22 6 (by decide)).trans <| (extract_high _ _ 10 6 (by decide)).trans <| (extract_high _ _ 5 6 (by decide)).trans <| (extract_low _ _ 0 6 (by decide)).trans <| (extract_all _)
@[simp] theorem encI_d (p : BitVec 4) (m : BitVec 6) (d : BitVec 5) (a : BitVec 5) (i : BitVec 12) : fld (encI p m d a i) 17 5 = d :=
  (extract_high _ _ 17 5 (by decide)).trans <| (extract_high _ _ 5 5 (by decide)).trans <| (extract_low _ _ 0 5 (by decide)).trans <| (extract_all _)
@[simp] theorem encI_a (p : BitVec 4) (m : BitVec 6) (d : BitVec 5) (a : BitVec 5) (i : BitVec 12) : fld (encI p m d a i) 12 5 = a :=
  (extract_high _ _ 12 5 (by decide)).trans <| (extract_low _ _ 0 5 (by decide)).trans <| (extract_all _)
@[simp] theorem encI_i (p : BitVec 4) (m : BitVec 6) (d : BitVec 5) (a : BitVec 5) (i : BitVec 12) : fld (encI p m d a i) 0 12 = i :=
  (extract_low _ _ 0 12 (by decide)).trans <| (extract_all _)
theorem encI_head (p : BitVec 4) (m : BitVec 6) (d : BitVec 5) (a : BitVec 5) (i : BitVec 12) : fld (encI p m d a i) 28 4 = p ∧ fld (encI p m d a i) 22 6 = m := ⟨by simp, by simp⟩

/-! ### Format U -/

@[simp] theorem encU_p (p : BitVec 4) (m : BitVec 6) (d : BitVec 5) (i : BitVec 17) : fld (encU p m d i) 28 4 = p :=
  (extract_high _ _ 28 4 (by decide)).trans <| (extract_high _ _ 11 4 (by decide)).trans <| (extract_high _ _ 6 4 (by decide)).trans <| (extract_all _)
@[simp] theorem encU_m (p : BitVec 4) (m : BitVec 6) (d : BitVec 5) (i : BitVec 17) : fld (encU p m d i) 22 6 = m :=
  (extract_high _ _ 22 6 (by decide)).trans <| (extract_high _ _ 5 6 (by decide)).trans <| (extract_low _ _ 0 6 (by decide)).trans <| (extract_all _)
@[simp] theorem encU_d (p : BitVec 4) (m : BitVec 6) (d : BitVec 5) (i : BitVec 17) : fld (encU p m d i) 17 5 = d :=
  (extract_high _ _ 17 5 (by decide)).trans <| (extract_low _ _ 0 5 (by decide)).trans <| (extract_all _)
@[simp] theorem encU_i (p : BitVec 4) (m : BitVec 6) (d : BitVec 5) (i : BitVec 17) : fld (encU p m d i) 0 17 = i :=
  (extract_low _ _ 0 17 (by decide)).trans <| (extract_all _)
theorem encU_head (p : BitVec 4) (m : BitVec 6) (d : BitVec 5) (i : BitVec 17) : fld (encU p m d i) 28 4 = p ∧ fld (encU p m d i) 22 6 = m := ⟨by simp, by simp⟩

/-! ### Format M -/

@[simp] theorem encM_p (p : BitVec 4) (m : BitVec 6) (d : BitVec 5) (a : BitVec 5) (sz : BitVec 3) (i : BitVec 9) : fld (encM p m d a sz i) 28 4 = p :=
  (extract_high _ _ 28 4 (by decide)).trans <| (extract_high _ _ 19 4 (by decide)).trans <| (extract_high _ _ 16 4 (by decide)).trans <| (extract_high _ _ 11 4 (by decide)).trans <| (extract_high _ _ 6 4 (by decide)).trans <| (extract_all _)
@[simp] theorem encM_m (p : BitVec 4) (m : BitVec 6) (d : BitVec 5) (a : BitVec 5) (sz : BitVec 3) (i : BitVec 9) : fld (encM p m d a sz i) 22 6 = m :=
  (extract_high _ _ 22 6 (by decide)).trans <| (extract_high _ _ 13 6 (by decide)).trans <| (extract_high _ _ 10 6 (by decide)).trans <| (extract_high _ _ 5 6 (by decide)).trans <| (extract_low _ _ 0 6 (by decide)).trans <| (extract_all _)
@[simp] theorem encM_d (p : BitVec 4) (m : BitVec 6) (d : BitVec 5) (a : BitVec 5) (sz : BitVec 3) (i : BitVec 9) : fld (encM p m d a sz i) 17 5 = d :=
  (extract_high _ _ 17 5 (by decide)).trans <| (extract_high _ _ 8 5 (by decide)).trans <| (extract_high _ _ 5 5 (by decide)).trans <| (extract_low _ _ 0 5 (by decide)).trans <| (extract_all _)
@[simp] theorem encM_a (p : BitVec 4) (m : BitVec 6) (d : BitVec 5) (a : BitVec 5) (sz : BitVec 3) (i : BitVec 9) : fld (encM p m d a sz i) 12 5 = a :=
  (extract_high _ _ 12 5 (by decide)).trans <| (extract_high _ _ 3 5 (by decide)).trans <| (extract_low _ _ 0 5 (by decide)).trans <| (extract_all _)
@[simp] theorem encM_sz (p : BitVec 4) (m : BitVec 6) (d : BitVec 5) (a : BitVec 5) (sz : BitVec 3) (i : BitVec 9) : fld (encM p m d a sz i) 9 3 = sz :=
  (extract_high _ _ 9 3 (by decide)).trans <| (extract_low _ _ 0 3 (by decide)).trans <| (extract_all _)
@[simp] theorem encM_i (p : BitVec 4) (m : BitVec 6) (d : BitVec 5) (a : BitVec 5) (sz : BitVec 3) (i : BitVec 9) : fld (encM p m d a sz i) 0 9 = i :=
  (extract_low _ _ 0 9 (by decide)).trans <| (extract_all _)
theorem encM_head (p : BitVec 4) (m : BitVec 6) (d : BitVec 5) (a : BitVec 5) (sz : BitVec 3) (i : BitVec 9) : fld (encM p m d a sz i) 28 4 = p ∧ fld (encM p m d a sz i) 22 6 = m := ⟨by simp, by simp⟩

/-! ### Format G -/

@[simp] theorem encG_p (p : BitVec 4) (m : BitVec 6) (g : BitVec 6) (a : BitVec 6) (b : BitVec 6) (fn : BitVec 4) : fld (encG p m g a b fn) 28 4 = p :=
  (extract_high _ _ 28 4 (by decide)).trans <| (extract_high _ _ 24 4 (by decide)).trans <| (extract_high _ _ 18 4 (by decide)).trans <| (extract_high _ _ 12 4 (by decide)).trans <| (extract_high _ _ 6 4 (by decide)).trans <| (extract_all _)
@[simp] theorem encG_m (p : BitVec 4) (m : BitVec 6) (g : BitVec 6) (a : BitVec 6) (b : BitVec 6) (fn : BitVec 4) : fld (encG p m g a b fn) 22 6 = m :=
  (extract_high _ _ 22 6 (by decide)).trans <| (extract_high _ _ 18 6 (by decide)).trans <| (extract_high _ _ 12 6 (by decide)).trans <| (extract_high _ _ 6 6 (by decide)).trans <| (extract_low _ _ 0 6 (by decide)).trans <| (extract_all _)
@[simp] theorem encG_g (p : BitVec 4) (m : BitVec 6) (g : BitVec 6) (a : BitVec 6) (b : BitVec 6) (fn : BitVec 4) : fld (encG p m g a b fn) 16 6 = g :=
  (extract_high _ _ 16 6 (by decide)).trans <| (extract_high _ _ 12 6 (by decide)).trans <| (extract_high _ _ 6 6 (by decide)).trans <| (extract_low _ _ 0 6 (by decide)).trans <| (extract_all _)
@[simp] theorem encG_a (p : BitVec 4) (m : BitVec 6) (g : BitVec 6) (a : BitVec 6) (b : BitVec 6) (fn : BitVec 4) : fld (encG p m g a b fn) 10 6 = a :=
  (extract_high _ _ 10 6 (by decide)).trans <| (extract_high _ _ 6 6 (by decide)).trans <| (extract_low _ _ 0 6 (by decide)).trans <| (extract_all _)
@[simp] theorem encG_b (p : BitVec 4) (m : BitVec 6) (g : BitVec 6) (a : BitVec 6) (b : BitVec 6) (fn : BitVec 4) : fld (encG p m g a b fn) 4 6 = b :=
  (extract_high _ _ 4 6 (by decide)).trans <| (extract_low _ _ 0 6 (by decide)).trans <| (extract_all _)
@[simp] theorem encG_fn (p : BitVec 4) (m : BitVec 6) (g : BitVec 6) (a : BitVec 6) (b : BitVec 6) (fn : BitVec 4) : fld (encG p m g a b fn) 0 4 = fn :=
  (extract_low _ _ 0 4 (by decide)).trans <| (extract_all _)
theorem encG_head (p : BitVec 4) (m : BitVec 6) (g : BitVec 6) (a : BitVec 6) (b : BitVec 6) (fn : BitVec 4) : fld (encG p m g a b fn) 28 4 = p ∧ fld (encG p m g a b fn) 22 6 = m := ⟨by simp, by simp⟩

/-! ### Format GM -/

@[simp] theorem encGM_p (p : BitVec 4) (m : BitVec 6) (g : BitVec 6) (a : BitVec 5) (q : BitVec 2) (i : BitVec 9) : fld (encGM p m g a q i) 28 4 = p :=
  (extract_high _ _ 28 4 (by decide)).trans <| (extract_high _ _ 19 4 (by decide)).trans <| (extract_high _ _ 17 4 (by decide)).trans <| (extract_high _ _ 12 4 (by decide)).trans <| (extract_high _ _ 6 4 (by decide)).trans <| (extract_all _)
@[simp] theorem encGM_m (p : BitVec 4) (m : BitVec 6) (g : BitVec 6) (a : BitVec 5) (q : BitVec 2) (i : BitVec 9) : fld (encGM p m g a q i) 22 6 = m :=
  (extract_high _ _ 22 6 (by decide)).trans <| (extract_high _ _ 13 6 (by decide)).trans <| (extract_high _ _ 11 6 (by decide)).trans <| (extract_high _ _ 6 6 (by decide)).trans <| (extract_low _ _ 0 6 (by decide)).trans <| (extract_all _)
@[simp] theorem encGM_g (p : BitVec 4) (m : BitVec 6) (g : BitVec 6) (a : BitVec 5) (q : BitVec 2) (i : BitVec 9) : fld (encGM p m g a q i) 16 6 = g :=
  (extract_high _ _ 16 6 (by decide)).trans <| (extract_high _ _ 7 6 (by decide)).trans <| (extract_high _ _ 5 6 (by decide)).trans <| (extract_low _ _ 0 6 (by decide)).trans <| (extract_all _)
@[simp] theorem encGM_a (p : BitVec 4) (m : BitVec 6) (g : BitVec 6) (a : BitVec 5) (q : BitVec 2) (i : BitVec 9) : fld (encGM p m g a q i) 11 5 = a :=
  (extract_high _ _ 11 5 (by decide)).trans <| (extract_high _ _ 2 5 (by decide)).trans <| (extract_low _ _ 0 5 (by decide)).trans <| (extract_all _)
@[simp] theorem encGM_q (p : BitVec 4) (m : BitVec 6) (g : BitVec 6) (a : BitVec 5) (q : BitVec 2) (i : BitVec 9) : fld (encGM p m g a q i) 9 2 = q :=
  (extract_high _ _ 9 2 (by decide)).trans <| (extract_low _ _ 0 2 (by decide)).trans <| (extract_all _)
@[simp] theorem encGM_i (p : BitVec 4) (m : BitVec 6) (g : BitVec 6) (a : BitVec 5) (q : BitVec 2) (i : BitVec 9) : fld (encGM p m g a q i) 0 9 = i :=
  (extract_low _ _ 0 9 (by decide)).trans <| (extract_all _)
theorem encGM_head (p : BitVec 4) (m : BitVec 6) (g : BitVec 6) (a : BitVec 5) (q : BitVec 2) (i : BitVec 9) : fld (encGM p m g a q i) 28 4 = p ∧ fld (encGM p m g a q i) 22 6 = m := ⟨by simp, by simp⟩

/-! ### Format GS -/

@[simp] theorem encGS_p (p : BitVec 4) (m : BitVec 6) (g : BitVec 6) (a : BitVec 5) (b : BitVec 5) (fn : BitVec 6) : fld (encGS p m g a b fn) 28 4 = p :=
  (extract_high _ _ 28 4 (by decide)).trans <| (extract_high _ _ 22 4 (by decide)).trans <| (extract_high _ _ 17 4 (by decide)).trans <| (extract_high _ _ 12 4 (by decide)).trans <| (extract_high _ _ 6 4 (by decide)).trans <| (extract_all _)
@[simp] theorem encGS_m (p : BitVec 4) (m : BitVec 6) (g : BitVec 6) (a : BitVec 5) (b : BitVec 5) (fn : BitVec 6) : fld (encGS p m g a b fn) 22 6 = m :=
  (extract_high _ _ 22 6 (by decide)).trans <| (extract_high _ _ 16 6 (by decide)).trans <| (extract_high _ _ 11 6 (by decide)).trans <| (extract_high _ _ 6 6 (by decide)).trans <| (extract_low _ _ 0 6 (by decide)).trans <| (extract_all _)
@[simp] theorem encGS_g (p : BitVec 4) (m : BitVec 6) (g : BitVec 6) (a : BitVec 5) (b : BitVec 5) (fn : BitVec 6) : fld (encGS p m g a b fn) 16 6 = g :=
  (extract_high _ _ 16 6 (by decide)).trans <| (extract_high _ _ 10 6 (by decide)).trans <| (extract_high _ _ 5 6 (by decide)).trans <| (extract_low _ _ 0 6 (by decide)).trans <| (extract_all _)
@[simp] theorem encGS_a (p : BitVec 4) (m : BitVec 6) (g : BitVec 6) (a : BitVec 5) (b : BitVec 5) (fn : BitVec 6) : fld (encGS p m g a b fn) 11 5 = a :=
  (extract_high _ _ 11 5 (by decide)).trans <| (extract_high _ _ 5 5 (by decide)).trans <| (extract_low _ _ 0 5 (by decide)).trans <| (extract_all _)
@[simp] theorem encGS_b (p : BitVec 4) (m : BitVec 6) (g : BitVec 6) (a : BitVec 5) (b : BitVec 5) (fn : BitVec 6) : fld (encGS p m g a b fn) 6 5 = b :=
  (extract_high _ _ 6 5 (by decide)).trans <| (extract_low _ _ 0 5 (by decide)).trans <| (extract_all _)
@[simp] theorem encGS_fn (p : BitVec 4) (m : BitVec 6) (g : BitVec 6) (a : BitVec 5) (b : BitVec 5) (fn : BitVec 6) : fld (encGS p m g a b fn) 0 6 = fn :=
  (extract_low _ _ 0 6 (by decide)).trans <| (extract_all _)
theorem encGS_head (p : BitVec 4) (m : BitVec 6) (g : BitVec 6) (a : BitVec 5) (b : BitVec 5) (fn : BitVec 6) : fld (encGS p m g a b fn) 28 4 = p ∧ fld (encGS p m g a b fn) 22 6 = m := ⟨by simp, by simp⟩

/-! ### Format E -/

@[simp] theorem encE_p (p : BitVec 4) (m : BitVec 6) (a : BitVec 5) (b : BitVec 5) (c : BitVec 3) (kind : BitVec 6) : fld (encE p m a b c kind) 28 4 = p :=
  (extract_high _ _ 28 4 (by decide)).trans <| (extract_high _ _ 25 4 (by decide)).trans <| (extract_high _ _ 19 4 (by decide)).trans <| (extract_high _ _ 16 4 (by decide)).trans <| (extract_high _ _ 11 4 (by decide)).trans <| (extract_high _ _ 6 4 (by decide)).trans <| (extract_all _)
@[simp] theorem encE_m (p : BitVec 4) (m : BitVec 6) (a : BitVec 5) (b : BitVec 5) (c : BitVec 3) (kind : BitVec 6) : fld (encE p m a b c kind) 22 6 = m :=
  (extract_high _ _ 22 6 (by decide)).trans <| (extract_high _ _ 19 6 (by decide)).trans <| (extract_high _ _ 13 6 (by decide)).trans <| (extract_high _ _ 10 6 (by decide)).trans <| (extract_high _ _ 5 6 (by decide)).trans <| (extract_low _ _ 0 6 (by decide)).trans <| (extract_all _)
@[simp] theorem encE_a (p : BitVec 4) (m : BitVec 6) (a : BitVec 5) (b : BitVec 5) (c : BitVec 3) (kind : BitVec 6) : fld (encE p m a b c kind) 17 5 = a :=
  (extract_high _ _ 17 5 (by decide)).trans <| (extract_high _ _ 14 5 (by decide)).trans <| (extract_high _ _ 8 5 (by decide)).trans <| (extract_high _ _ 5 5 (by decide)).trans <| (extract_low _ _ 0 5 (by decide)).trans <| (extract_all _)
@[simp] theorem encE_b (p : BitVec 4) (m : BitVec 6) (a : BitVec 5) (b : BitVec 5) (c : BitVec 3) (kind : BitVec 6) : fld (encE p m a b c kind) 12 5 = b :=
  (extract_high _ _ 12 5 (by decide)).trans <| (extract_high _ _ 9 5 (by decide)).trans <| (extract_high _ _ 3 5 (by decide)).trans <| (extract_low _ _ 0 5 (by decide)).trans <| (extract_all _)
@[simp] theorem encE_c (p : BitVec 4) (m : BitVec 6) (a : BitVec 5) (b : BitVec 5) (c : BitVec 3) (kind : BitVec 6) : fld (encE p m a b c kind) 9 3 = c :=
  (extract_high _ _ 9 3 (by decide)).trans <| (extract_high _ _ 6 3 (by decide)).trans <| (extract_low _ _ 0 3 (by decide)).trans <| (extract_all _)
@[simp] theorem encE_kind (p : BitVec 4) (m : BitVec 6) (a : BitVec 5) (b : BitVec 5) (c : BitVec 3) (kind : BitVec 6) : fld (encE p m a b c kind) 3 6 = kind :=
  (extract_high _ _ 3 6 (by decide)).trans <| (extract_low _ _ 0 6 (by decide)).trans <| (extract_all _)
@[simp] theorem encE_z (p : BitVec 4) (m : BitVec 6) (a : BitVec 5) (b : BitVec 5) (c : BitVec 3) (kind : BitVec 6) : fld (encE p m a b c kind) 0 3 = 0#3 :=
  (extract_low _ _ 0 3 (by decide)).trans <| (extract_all _)
theorem encE_head (p : BitVec 4) (m : BitVec 6) (a : BitVec 5) (b : BitVec 5) (c : BitVec 3) (kind : BitVec 6) : fld (encE p m a b c kind) 28 4 = p ∧ fld (encE p m a b c kind) 22 6 = m := ⟨by simp, by simp⟩

/-! ### Format P -/

@[simp] theorem encP_p (p : BitVec 4) (m : BitVec 6) (dst : BitVec 6) (op : BitVec 2) (o : BitVec 14) : fld (encP p m dst op o) 28 4 = p :=
  (extract_high _ _ 28 4 (by decide)).trans <| (extract_high _ _ 14 4 (by decide)).trans <| (extract_high _ _ 12 4 (by decide)).trans <| (extract_high _ _ 6 4 (by decide)).trans <| (extract_all _)
@[simp] theorem encP_m (p : BitVec 4) (m : BitVec 6) (dst : BitVec 6) (op : BitVec 2) (o : BitVec 14) : fld (encP p m dst op o) 22 6 = m :=
  (extract_high _ _ 22 6 (by decide)).trans <| (extract_high _ _ 8 6 (by decide)).trans <| (extract_high _ _ 6 6 (by decide)).trans <| (extract_low _ _ 0 6 (by decide)).trans <| (extract_all _)
@[simp] theorem encP_dst (p : BitVec 4) (m : BitVec 6) (dst : BitVec 6) (op : BitVec 2) (o : BitVec 14) : fld (encP p m dst op o) 16 6 = dst :=
  (extract_high _ _ 16 6 (by decide)).trans <| (extract_high _ _ 2 6 (by decide)).trans <| (extract_low _ _ 0 6 (by decide)).trans <| (extract_all _)
@[simp] theorem encP_op (p : BitVec 4) (m : BitVec 6) (dst : BitVec 6) (op : BitVec 2) (o : BitVec 14) : fld (encP p m dst op o) 14 2 = op :=
  (extract_high _ _ 14 2 (by decide)).trans <| (extract_low _ _ 0 2 (by decide)).trans <| (extract_all _)
@[simp] theorem encP_o (p : BitVec 4) (m : BitVec 6) (dst : BitVec 6) (op : BitVec 2) (o : BitVec 14) : fld (encP p m dst op o) 0 14 = o :=
  (extract_low _ _ 0 14 (by decide)).trans <| (extract_all _)
theorem encP_head (p : BitVec 4) (m : BitVec 6) (dst : BitVec 6) (op : BitVec 2) (o : BitVec 14) : fld (encP p m dst op o) 28 4 = p ∧ fld (encP p m dst op o) 22 6 = m := ⟨by simp, by simp⟩

/-! ### The custom-0 layout -/

@[simp] theorem encH_z (f : BitVec 3) (d a b : SReg) : fld (encH f d a b) 25 7 = 0#7 :=
  (extract_high _ _ 25 7 (by decide)).trans <| (extract_high _ _ 18 7 (by decide)).trans <| (extract_high _ _ 13 7 (by decide)).trans <| (extract_high _ _ 10 7 (by decide)).trans <| (extract_high _ _ 5 7 (by decide)).trans <| (extract_all _)
@[simp] theorem encH_b (f : BitVec 3) (d a b : SReg) : fld (encH f d a b) 20 5 = b :=
  (extract_high _ _ 20 5 (by decide)).trans <| (extract_high _ _ 13 5 (by decide)).trans <| (extract_high _ _ 8 5 (by decide)).trans <| (extract_high _ _ 5 5 (by decide)).trans <| (extract_low _ _ 0 5 (by decide)).trans <| (extract_all _)
@[simp] theorem encH_a (f : BitVec 3) (d a b : SReg) : fld (encH f d a b) 15 5 = a :=
  (extract_high _ _ 15 5 (by decide)).trans <| (extract_high _ _ 8 5 (by decide)).trans <| (extract_high _ _ 3 5 (by decide)).trans <| (extract_low _ _ 0 5 (by decide)).trans <| (extract_all _)
@[simp] theorem encH_f (f : BitVec 3) (d a b : SReg) : fld (encH f d a b) 12 3 = f :=
  (extract_high _ _ 12 3 (by decide)).trans <| (extract_high _ _ 5 3 (by decide)).trans <| (extract_low _ _ 0 3 (by decide)).trans <| (extract_all _)
@[simp] theorem encH_d (f : BitVec 3) (d a b : SReg) : fld (encH f d a b) 7 5 = d :=
  (extract_high _ _ 7 5 (by decide)).trans <| (extract_low _ _ 0 5 (by decide)).trans <| (extract_all _)
@[simp] theorem encH_op (f : BitVec 3) (d a b : SReg) : fld (encH f d a b) 0 7 = 0b0001011#7 :=
  (extract_low _ _ 0 7 (by decide)).trans <| (extract_all _)
theorem encH_head (f : BitVec 3) (d a b : SReg) : fld (encH f d a b) 0 7 = 0b0001011#7 := by simp

end Sys2Proof
end

