-- ==== Sys2Proof/Laws/State.lean ====
section
/-! SUPPORT. What each named update of the package leaves in each field of `State`: one lemma per field per update, so that
no proof unfolds a record update. -/

namespace Sys2Proof.Machine

/-! ### withCtx -/

@[simp] theorem State.withCtx_now (s : State) (c : Ctx) : (s.withCtx c).now = s.now := rfl
@[simp] theorem State.withCtx_turn (s : State) (c : Ctx) : (s.withCtx c).turn = s.turn := rfl
@[simp] theorem State.withCtx_agenda (s : State) (c : Ctx) : (s.withCtx c).agenda = s.agenda := rfl
@[simp] theorem State.withCtx_delays (s : State) (c : Ctx) : (s.withCtx c).delays = s.delays := rfl
@[simp] theorem State.withCtx_freeN (s : State) (c : Ctx) : (s.withCtx c).freeN = s.freeN := rfl
@[simp] theorem State.withCtx_key (s : State) (c : Ctx) : (s.withCtx c).key = s.key := rfl
@[simp] theorem State.withCtx_live (s : State) (c : Ctx) : (s.withCtx c).live = s.live := rfl
@[simp] theorem State.withCtx_ctx (s : State) (c : Ctx) : (s.withCtx c).ctx = c := rfl
@[simp] theorem State.withCtx_parked (s : State) (c : Ctx) : (s.withCtx c).parked = s.parked := rfl
@[simp] theorem State.withCtx_nextUid (s : State) (c : Ctx) : (s.withCtx c).nextUid = s.nextUid := rfl
@[simp] theorem State.withCtx_saved (s : State) (c : Ctx) : (s.withCtx c).saved = s.saved := rfl
@[simp] theorem State.withCtx_cores (s : State) (c : Ctx) : (s.withCtx c).cores = s.cores := rfl
@[simp] theorem State.withCtx_wt (s : State) (c : Ctx) : (s.withCtx c).wt = s.wt := rfl
@[simp] theorem State.withCtx_arrivals (s : State) (c : Ctx) : (s.withCtx c).arrivals = s.arrivals := rfl
@[simp] theorem State.withCtx_mem (s : State) (c : Ctx) : (s.withCtx c).mem = s.mem := rfl
@[simp] theorem State.withCtx_fe (s : State) (c : Ctx) : (s.withCtx c).fe = s.fe := rfl
@[simp] theorem State.withCtx_fmts (s : State) (c : Ctx) : (s.withCtx c).fmts = s.fmts := rfl
@[simp] theorem State.withCtx_engines (s : State) (c : Ctx) : (s.withCtx c).engines = s.engines := rfl
@[simp] theorem State.withCtx_sfu (s : State) (c : Ctx) : (s.withCtx c).sfu = s.sfu := rfl
@[simp] theorem State.withCtx_channels (s : State) (c : Ctx) : (s.withCtx c).channels = s.channels := rfl
@[simp] theorem State.withCtx_groups (s : State) (c : Ctx) : (s.withCtx c).groups = s.groups := rfl
@[simp] theorem State.withCtx_runqs (s : State) (c : Ctx) : (s.withCtx c).runqs = s.runqs := rfl
@[simp] theorem State.withCtx_pops (s : State) (c : Ctx) : (s.withCtx c).pops = s.pops := rfl
@[simp] theorem State.withCtx_launches (s : State) (c : Ctx) : (s.withCtx c).launches = s.launches := rfl
@[simp] theorem State.withCtx_nextLaunch (s : State) (c : Ctx) : (s.withCtx c).nextLaunch = s.nextLaunch := rfl
@[simp] theorem State.withCtx_lateStatus (s : State) (c : Ctx) : (s.withCtx c).lateStatus = s.lateStatus := rfl
@[simp] theorem State.withCtx_lateDoors (s : State) (c : Ctx) : (s.withCtx c).lateDoors = s.lateDoors := rfl
@[simp] theorem State.withCtx_cfg (s : State) (c : Ctx) : (s.withCtx c).cfg = s.cfg := rfl
@[simp] theorem State.withCtx_futures (s : State) (c : Ctx) : (s.withCtx c).futures = s.futures := rfl
@[simp] theorem State.withCtx_index (s : State) (c : Ctx) : (s.withCtx c).index = s.index := rfl
@[simp] theorem State.withCtx_stamp (s : State) (c : Ctx) : (s.withCtx c).stamp = s.stamp := rfl
@[simp] theorem State.withCtx_cut (s : State) (c : Ctx) : (s.withCtx c).cut = s.cut := rfl
@[simp] theorem State.withCtx_envFaults (s : State) (c : Ctx) : (s.withCtx c).envFaults = s.envFaults := rfl
@[simp] theorem State.withCtx_freeBlocks (s : State) (c : Ctx) : (s.withCtx c).freeBlocks = s.freeBlocks := rfl
@[simp] theorem State.withCtx_calls (s : State) (c : Ctx) : (s.withCtx c).calls = s.calls := rfl
@[simp] theorem State.withCtx_held (s : State) (c : Ctx) : (s.withCtx c).held = s.held := rfl
@[simp] theorem State.withCtx_harts (s : State) (c : Ctx) : (s.withCtx c).harts = s.harts := rfl
@[simp] theorem State.withCtx_hartDue (s : State) (c : Ctx) : (s.withCtx c).hartDue = s.hartDue := rfl
@[simp] theorem State.withCtx_hops (s : State) (c : Ctx) : (s.withCtx c).hops = s.hops := rfl
@[simp] theorem State.withCtx_posted (s : State) (c : Ctx) : (s.withCtx c).posted = s.posted := rfl
@[simp] theorem State.withCtx_reply (s : State) (c : Ctx) : (s.withCtx c).reply = s.reply := rfl
@[simp] theorem State.withCtx_driveReply (s : State) (c : Ctx) : (s.withCtx c).driveReply = s.driveReply := rfl
@[simp] theorem State.withCtx_resets (s : State) (c : Ctx) : (s.withCtx c).resets = s.resets := rfl
@[simp] theorem State.withCtx_counters (s : State) (c : Ctx) : (s.withCtx c).counters = s.counters := rfl
@[simp] theorem State.withCtx_dir (s : State) (c : Ctx) : (s.withCtx c).dir = s.dir := rfl
@[simp] theorem State.withCtx_asks (s : State) (c : Ctx) : (s.withCtx c).asks = s.asks := rfl
@[simp] theorem State.withCtx_flips (s : State) (c : Ctx) : (s.withCtx c).flips = s.flips := rfl
@[simp] theorem State.withCtx_windows (s : State) (c : Ctx) : (s.withCtx c).windows = s.windows := rfl
@[simp] theorem State.withCtx_hostHot (s : State) (c : Ctx) : (s.withCtx c).hostHot = s.hostHot := rfl
@[simp] theorem State.withCtx_cellars (s : State) (c : Ctx) : (s.withCtx c).cellars = s.cellars := rfl
@[simp] theorem State.withCtx_keys (s : State) (c : Ctx) : (s.withCtx c).keys = s.keys := rfl
@[simp] theorem State.withCtx_roles (s : State) (c : Ctx) : (s.withCtx c).roles = s.roles := rfl
@[simp] theorem State.withCtx_boot (s : State) (c : Ctx) : (s.withCtx c).boot = s.boot := rfl
@[simp] theorem State.withCtx_incidents (s : State) (c : Ctx) : (s.withCtx c).incidents = s.incidents := rfl
@[simp] theorem State.withCtx_bad (s : State) (c : Ctx) : (s.withCtx c).bad = s.bad := rfl
@[simp] theorem State.withCtx_hartErrs (s : State) (c : Ctx) : (s.withCtx c).hartErrs = s.hartErrs := rfl
@[simp] theorem State.withCtx_doubled (s : State) (c : Ctx) : (s.withCtx c).doubled = s.doubled := rfl
@[simp] theorem State.withCtx_stamps (s : State) (c : Ctx) : (s.withCtx c).stamps = s.stamps := rfl
@[simp] theorem State.withCtx_links (s : State) (c : Ctx) : (s.withCtx c).links = s.links := rfl
@[simp] theorem State.withCtx_widths (s : State) (c : Ctx) : (s.withCtx c).widths = s.widths := rfl
@[simp] theorem State.withCtx_lasting (s : State) (c : Ctx) : (s.withCtx c).lasting = s.lasting := rfl
@[simp] theorem State.withCtx_retiredCores (s : State) (c : Ctx) : (s.withCtx c).retiredCores = s.retiredCores := rfl
@[simp] theorem State.withCtx_retiredEngines (s : State) (c : Ctx) : (s.withCtx c).retiredEngines = s.retiredEngines := rfl
@[simp] theorem State.withCtx_retiredHarts (s : State) (c : Ctx) : (s.withCtx c).retiredHarts = s.retiredHarts := rfl
@[simp] theorem State.withCtx_power (s : State) (c : Ctx) : (s.withCtx c).power = s.power := rfl

/-! ### updCore -/

@[simp] theorem State.updCore_now (s : State) (n : Nat) (f : Core → Core) : (s.updCore n f).now = s.now := rfl
@[simp] theorem State.updCore_turn (s : State) (n : Nat) (f : Core → Core) : (s.updCore n f).turn = s.turn := rfl
@[simp] theorem State.updCore_agenda (s : State) (n : Nat) (f : Core → Core) : (s.updCore n f).agenda = s.agenda := rfl
@[simp] theorem State.updCore_delays (s : State) (n : Nat) (f : Core → Core) : (s.updCore n f).delays = s.delays := rfl
@[simp] theorem State.updCore_freeN (s : State) (n : Nat) (f : Core → Core) : (s.updCore n f).freeN = s.freeN := rfl
@[simp] theorem State.updCore_key (s : State) (n : Nat) (f : Core → Core) : (s.updCore n f).key = s.key := rfl
@[simp] theorem State.updCore_live (s : State) (n : Nat) (f : Core → Core) : (s.updCore n f).live = s.live := rfl
@[simp] theorem State.updCore_ctx (s : State) (n : Nat) (f : Core → Core) : (s.updCore n f).ctx = s.ctx := rfl
@[simp] theorem State.updCore_parked (s : State) (n : Nat) (f : Core → Core) : (s.updCore n f).parked = s.parked := rfl
@[simp] theorem State.updCore_nextUid (s : State) (n : Nat) (f : Core → Core) : (s.updCore n f).nextUid = s.nextUid := rfl
@[simp] theorem State.updCore_saved (s : State) (n : Nat) (f : Core → Core) : (s.updCore n f).saved = s.saved := rfl
@[simp] theorem State.updCore_cores (s : State) (n : Nat) (f : Core → Core) : (s.updCore n f).cores = mupd s.cores n Core.reset f := rfl
@[simp] theorem State.updCore_wt (s : State) (n : Nat) (f : Core → Core) : (s.updCore n f).wt = s.wt := rfl
@[simp] theorem State.updCore_arrivals (s : State) (n : Nat) (f : Core → Core) : (s.updCore n f).arrivals = s.arrivals := rfl
@[simp] theorem State.updCore_mem (s : State) (n : Nat) (f : Core → Core) : (s.updCore n f).mem = s.mem := rfl
@[simp] theorem State.updCore_fe (s : State) (n : Nat) (f : Core → Core) : (s.updCore n f).fe = s.fe := rfl
@[simp] theorem State.updCore_fmts (s : State) (n : Nat) (f : Core → Core) : (s.updCore n f).fmts = s.fmts := rfl
@[simp] theorem State.updCore_engines (s : State) (n : Nat) (f : Core → Core) : (s.updCore n f).engines = s.engines := rfl
@[simp] theorem State.updCore_sfu (s : State) (n : Nat) (f : Core → Core) : (s.updCore n f).sfu = s.sfu := rfl
@[simp] theorem State.updCore_channels (s : State) (n : Nat) (f : Core → Core) : (s.updCore n f).channels = s.channels := rfl
@[simp] theorem State.updCore_groups (s : State) (n : Nat) (f : Core → Core) : (s.updCore n f).groups = s.groups := rfl
@[simp] theorem State.updCore_runqs (s : State) (n : Nat) (f : Core → Core) : (s.updCore n f).runqs = s.runqs := rfl
@[simp] theorem State.updCore_pops (s : State) (n : Nat) (f : Core → Core) : (s.updCore n f).pops = s.pops := rfl
@[simp] theorem State.updCore_launches (s : State) (n : Nat) (f : Core → Core) : (s.updCore n f).launches = s.launches := rfl
@[simp] theorem State.updCore_nextLaunch (s : State) (n : Nat) (f : Core → Core) : (s.updCore n f).nextLaunch = s.nextLaunch := rfl
@[simp] theorem State.updCore_lateStatus (s : State) (n : Nat) (f : Core → Core) : (s.updCore n f).lateStatus = s.lateStatus := rfl
@[simp] theorem State.updCore_lateDoors (s : State) (n : Nat) (f : Core → Core) : (s.updCore n f).lateDoors = s.lateDoors := rfl
@[simp] theorem State.updCore_cfg (s : State) (n : Nat) (f : Core → Core) : (s.updCore n f).cfg = s.cfg := rfl
@[simp] theorem State.updCore_futures (s : State) (n : Nat) (f : Core → Core) : (s.updCore n f).futures = s.futures := rfl
@[simp] theorem State.updCore_index (s : State) (n : Nat) (f : Core → Core) : (s.updCore n f).index = s.index := rfl
@[simp] theorem State.updCore_stamp (s : State) (n : Nat) (f : Core → Core) : (s.updCore n f).stamp = s.stamp := rfl
@[simp] theorem State.updCore_cut (s : State) (n : Nat) (f : Core → Core) : (s.updCore n f).cut = s.cut := rfl
@[simp] theorem State.updCore_envFaults (s : State) (n : Nat) (f : Core → Core) : (s.updCore n f).envFaults = s.envFaults := rfl
@[simp] theorem State.updCore_freeBlocks (s : State) (n : Nat) (f : Core → Core) : (s.updCore n f).freeBlocks = s.freeBlocks := rfl
@[simp] theorem State.updCore_calls (s : State) (n : Nat) (f : Core → Core) : (s.updCore n f).calls = s.calls := rfl
@[simp] theorem State.updCore_held (s : State) (n : Nat) (f : Core → Core) : (s.updCore n f).held = s.held := rfl
@[simp] theorem State.updCore_harts (s : State) (n : Nat) (f : Core → Core) : (s.updCore n f).harts = s.harts := rfl
@[simp] theorem State.updCore_hartDue (s : State) (n : Nat) (f : Core → Core) : (s.updCore n f).hartDue = s.hartDue := rfl
@[simp] theorem State.updCore_hops (s : State) (n : Nat) (f : Core → Core) : (s.updCore n f).hops = s.hops := rfl
@[simp] theorem State.updCore_posted (s : State) (n : Nat) (f : Core → Core) : (s.updCore n f).posted = s.posted := rfl
@[simp] theorem State.updCore_reply (s : State) (n : Nat) (f : Core → Core) : (s.updCore n f).reply = s.reply := rfl
@[simp] theorem State.updCore_driveReply (s : State) (n : Nat) (f : Core → Core) : (s.updCore n f).driveReply = s.driveReply := rfl
@[simp] theorem State.updCore_resets (s : State) (n : Nat) (f : Core → Core) : (s.updCore n f).resets = s.resets := rfl
@[simp] theorem State.updCore_counters (s : State) (n : Nat) (f : Core → Core) : (s.updCore n f).counters = s.counters := rfl
@[simp] theorem State.updCore_dir (s : State) (n : Nat) (f : Core → Core) : (s.updCore n f).dir = s.dir := rfl
@[simp] theorem State.updCore_asks (s : State) (n : Nat) (f : Core → Core) : (s.updCore n f).asks = s.asks := rfl
@[simp] theorem State.updCore_flips (s : State) (n : Nat) (f : Core → Core) : (s.updCore n f).flips = s.flips := rfl
@[simp] theorem State.updCore_windows (s : State) (n : Nat) (f : Core → Core) : (s.updCore n f).windows = s.windows := rfl
@[simp] theorem State.updCore_hostHot (s : State) (n : Nat) (f : Core → Core) : (s.updCore n f).hostHot = s.hostHot := rfl
@[simp] theorem State.updCore_cellars (s : State) (n : Nat) (f : Core → Core) : (s.updCore n f).cellars = s.cellars := rfl
@[simp] theorem State.updCore_keys (s : State) (n : Nat) (f : Core → Core) : (s.updCore n f).keys = s.keys := rfl
@[simp] theorem State.updCore_roles (s : State) (n : Nat) (f : Core → Core) : (s.updCore n f).roles = s.roles := rfl
@[simp] theorem State.updCore_boot (s : State) (n : Nat) (f : Core → Core) : (s.updCore n f).boot = s.boot := rfl
@[simp] theorem State.updCore_incidents (s : State) (n : Nat) (f : Core → Core) : (s.updCore n f).incidents = s.incidents := rfl
@[simp] theorem State.updCore_bad (s : State) (n : Nat) (f : Core → Core) : (s.updCore n f).bad = s.bad := rfl
@[simp] theorem State.updCore_hartErrs (s : State) (n : Nat) (f : Core → Core) : (s.updCore n f).hartErrs = s.hartErrs := rfl
@[simp] theorem State.updCore_doubled (s : State) (n : Nat) (f : Core → Core) : (s.updCore n f).doubled = s.doubled := rfl
@[simp] theorem State.updCore_stamps (s : State) (n : Nat) (f : Core → Core) : (s.updCore n f).stamps = s.stamps := rfl
@[simp] theorem State.updCore_links (s : State) (n : Nat) (f : Core → Core) : (s.updCore n f).links = s.links := rfl
@[simp] theorem State.updCore_widths (s : State) (n : Nat) (f : Core → Core) : (s.updCore n f).widths = s.widths := rfl
@[simp] theorem State.updCore_lasting (s : State) (n : Nat) (f : Core → Core) : (s.updCore n f).lasting = s.lasting := rfl
@[simp] theorem State.updCore_retiredCores (s : State) (n : Nat) (f : Core → Core) : (s.updCore n f).retiredCores = s.retiredCores := rfl
@[simp] theorem State.updCore_retiredEngines (s : State) (n : Nat) (f : Core → Core) : (s.updCore n f).retiredEngines = s.retiredEngines := rfl
@[simp] theorem State.updCore_retiredHarts (s : State) (n : Nat) (f : Core → Core) : (s.updCore n f).retiredHarts = s.retiredHarts := rfl
@[simp] theorem State.updCore_power (s : State) (n : Nat) (f : Core → Core) : (s.updCore n f).power = s.power := rfl

/-! ### markS -/

@[simp] theorem State.markS_now (s : State) : s.markS.now = s.now := rfl
@[simp] theorem State.markS_turn (s : State) : s.markS.turn = s.turn := rfl
@[simp] theorem State.markS_agenda (s : State) : s.markS.agenda = s.agenda := rfl
@[simp] theorem State.markS_delays (s : State) : s.markS.delays = s.delays := rfl
@[simp] theorem State.markS_freeN (s : State) : s.markS.freeN = s.freeN := rfl
@[simp] theorem State.markS_key (s : State) : s.markS.key = s.key := rfl
@[simp] theorem State.markS_live (s : State) : s.markS.live = s.live := rfl
@[simp] theorem State.markS_ctx (s : State) : s.markS.ctx = s.ctx := rfl
@[simp] theorem State.markS_parked (s : State) : s.markS.parked = s.parked := rfl
@[simp] theorem State.markS_nextUid (s : State) : s.markS.nextUid = s.nextUid := rfl
@[simp] theorem State.markS_saved (s : State) : s.markS.saved = s.saved := rfl
@[simp] theorem State.markS_wt (s : State) : s.markS.wt = s.wt := rfl
@[simp] theorem State.markS_arrivals (s : State) : s.markS.arrivals = s.arrivals := rfl
@[simp] theorem State.markS_mem (s : State) : s.markS.mem = s.mem := rfl
@[simp] theorem State.markS_fe (s : State) : s.markS.fe = s.fe := rfl
@[simp] theorem State.markS_fmts (s : State) : s.markS.fmts = s.fmts := rfl
@[simp] theorem State.markS_engines (s : State) : s.markS.engines = s.engines := rfl
@[simp] theorem State.markS_sfu (s : State) : s.markS.sfu = s.sfu := rfl
@[simp] theorem State.markS_channels (s : State) : s.markS.channels = s.channels := rfl
@[simp] theorem State.markS_groups (s : State) : s.markS.groups = s.groups := rfl
@[simp] theorem State.markS_runqs (s : State) : s.markS.runqs = s.runqs := rfl
@[simp] theorem State.markS_pops (s : State) : s.markS.pops = s.pops := rfl
@[simp] theorem State.markS_launches (s : State) : s.markS.launches = s.launches := rfl
@[simp] theorem State.markS_nextLaunch (s : State) : s.markS.nextLaunch = s.nextLaunch := rfl
@[simp] theorem State.markS_lateStatus (s : State) : s.markS.lateStatus = s.lateStatus := rfl
@[simp] theorem State.markS_lateDoors (s : State) : s.markS.lateDoors = s.lateDoors := rfl
@[simp] theorem State.markS_cfg (s : State) : s.markS.cfg = s.cfg := rfl
@[simp] theorem State.markS_futures (s : State) : s.markS.futures = s.futures := rfl
@[simp] theorem State.markS_index (s : State) : s.markS.index = s.index := rfl
@[simp] theorem State.markS_stamp (s : State) : s.markS.stamp = s.stamp := rfl
@[simp] theorem State.markS_cut (s : State) : s.markS.cut = s.cut := rfl
@[simp] theorem State.markS_envFaults (s : State) : s.markS.envFaults = s.envFaults := rfl
@[simp] theorem State.markS_freeBlocks (s : State) : s.markS.freeBlocks = s.freeBlocks := rfl
@[simp] theorem State.markS_calls (s : State) : s.markS.calls = s.calls := rfl
@[simp] theorem State.markS_held (s : State) : s.markS.held = s.held := rfl
@[simp] theorem State.markS_harts (s : State) : s.markS.harts = s.harts := rfl
@[simp] theorem State.markS_hartDue (s : State) : s.markS.hartDue = s.hartDue := rfl
@[simp] theorem State.markS_hops (s : State) : s.markS.hops = s.hops := rfl
@[simp] theorem State.markS_posted (s : State) : s.markS.posted = s.posted := rfl
@[simp] theorem State.markS_reply (s : State) : s.markS.reply = s.reply := rfl
@[simp] theorem State.markS_driveReply (s : State) : s.markS.driveReply = s.driveReply := rfl
@[simp] theorem State.markS_resets (s : State) : s.markS.resets = s.resets := rfl
@[simp] theorem State.markS_counters (s : State) : s.markS.counters = s.counters := rfl
@[simp] theorem State.markS_dir (s : State) : s.markS.dir = s.dir := rfl
@[simp] theorem State.markS_asks (s : State) : s.markS.asks = s.asks := rfl
@[simp] theorem State.markS_flips (s : State) : s.markS.flips = s.flips := rfl
@[simp] theorem State.markS_windows (s : State) : s.markS.windows = s.windows := rfl
@[simp] theorem State.markS_hostHot (s : State) : s.markS.hostHot = s.hostHot := rfl
@[simp] theorem State.markS_cellars (s : State) : s.markS.cellars = s.cellars := rfl
@[simp] theorem State.markS_keys (s : State) : s.markS.keys = s.keys := rfl
@[simp] theorem State.markS_roles (s : State) : s.markS.roles = s.roles := rfl
@[simp] theorem State.markS_boot (s : State) : s.markS.boot = s.boot := rfl
@[simp] theorem State.markS_incidents (s : State) : s.markS.incidents = s.incidents := rfl
@[simp] theorem State.markS_bad (s : State) : s.markS.bad = s.bad := rfl
@[simp] theorem State.markS_hartErrs (s : State) : s.markS.hartErrs = s.hartErrs := rfl
@[simp] theorem State.markS_doubled (s : State) : s.markS.doubled = s.doubled := rfl
@[simp] theorem State.markS_stamps (s : State) : s.markS.stamps = s.stamps := rfl
@[simp] theorem State.markS_links (s : State) : s.markS.links = s.links := rfl
@[simp] theorem State.markS_widths (s : State) : s.markS.widths = s.widths := rfl
@[simp] theorem State.markS_lasting (s : State) : s.markS.lasting = s.lasting := rfl
@[simp] theorem State.markS_retiredCores (s : State) : s.markS.retiredCores = s.retiredCores := rfl
@[simp] theorem State.markS_retiredEngines (s : State) : s.markS.retiredEngines = s.retiredEngines := rfl
@[simp] theorem State.markS_retiredHarts (s : State) : s.markS.retiredHarts = s.retiredHarts := rfl
@[simp] theorem State.markS_power (s : State) : s.markS.power = s.power := rfl

/-! ### retire -/

@[simp] theorem State.retire_now (s : State) (pc : Word) : (s.retire pc).now = s.now := rfl
@[simp] theorem State.retire_turn (s : State) (pc : Word) : (s.retire pc).turn = s.turn := rfl
@[simp] theorem State.retire_agenda (s : State) (pc : Word) : (s.retire pc).agenda = s.agenda := rfl
@[simp] theorem State.retire_delays (s : State) (pc : Word) : (s.retire pc).delays = s.delays := rfl
@[simp] theorem State.retire_freeN (s : State) (pc : Word) : (s.retire pc).freeN = s.freeN := rfl
@[simp] theorem State.retire_key (s : State) (pc : Word) : (s.retire pc).key = s.key := rfl
@[simp] theorem State.retire_live (s : State) (pc : Word) : (s.retire pc).live = s.live := rfl
@[simp] theorem State.retire_parked (s : State) (pc : Word) : (s.retire pc).parked = s.parked := rfl
@[simp] theorem State.retire_nextUid (s : State) (pc : Word) : (s.retire pc).nextUid = s.nextUid := rfl
@[simp] theorem State.retire_saved (s : State) (pc : Word) : (s.retire pc).saved = s.saved := rfl
@[simp] theorem State.retire_cores (s : State) (pc : Word) : (s.retire pc).cores = s.cores := rfl
@[simp] theorem State.retire_wt (s : State) (pc : Word) : (s.retire pc).wt = s.wt := rfl
@[simp] theorem State.retire_arrivals (s : State) (pc : Word) : (s.retire pc).arrivals = s.arrivals := rfl
@[simp] theorem State.retire_mem (s : State) (pc : Word) : (s.retire pc).mem = s.mem := rfl
@[simp] theorem State.retire_fe (s : State) (pc : Word) : (s.retire pc).fe = s.fe := rfl
@[simp] theorem State.retire_fmts (s : State) (pc : Word) : (s.retire pc).fmts = s.fmts := rfl
@[simp] theorem State.retire_engines (s : State) (pc : Word) : (s.retire pc).engines = s.engines := rfl
@[simp] theorem State.retire_sfu (s : State) (pc : Word) : (s.retire pc).sfu = s.sfu := rfl
@[simp] theorem State.retire_channels (s : State) (pc : Word) : (s.retire pc).channels = s.channels := rfl
@[simp] theorem State.retire_groups (s : State) (pc : Word) : (s.retire pc).groups = s.groups := rfl
@[simp] theorem State.retire_runqs (s : State) (pc : Word) : (s.retire pc).runqs = s.runqs := rfl
@[simp] theorem State.retire_pops (s : State) (pc : Word) : (s.retire pc).pops = s.pops := rfl
@[simp] theorem State.retire_launches (s : State) (pc : Word) : (s.retire pc).launches = s.launches := rfl
@[simp] theorem State.retire_nextLaunch (s : State) (pc : Word) : (s.retire pc).nextLaunch = s.nextLaunch := rfl
@[simp] theorem State.retire_lateStatus (s : State) (pc : Word) : (s.retire pc).lateStatus = s.lateStatus := rfl
@[simp] theorem State.retire_lateDoors (s : State) (pc : Word) : (s.retire pc).lateDoors = s.lateDoors := rfl
@[simp] theorem State.retire_cfg (s : State) (pc : Word) : (s.retire pc).cfg = s.cfg := rfl
@[simp] theorem State.retire_futures (s : State) (pc : Word) : (s.retire pc).futures = s.futures := rfl
@[simp] theorem State.retire_index (s : State) (pc : Word) : (s.retire pc).index = s.index := rfl
@[simp] theorem State.retire_stamp (s : State) (pc : Word) : (s.retire pc).stamp = s.stamp := rfl
@[simp] theorem State.retire_cut (s : State) (pc : Word) : (s.retire pc).cut = s.cut := rfl
@[simp] theorem State.retire_envFaults (s : State) (pc : Word) : (s.retire pc).envFaults = s.envFaults := rfl
@[simp] theorem State.retire_freeBlocks (s : State) (pc : Word) : (s.retire pc).freeBlocks = s.freeBlocks := rfl
@[simp] theorem State.retire_calls (s : State) (pc : Word) : (s.retire pc).calls = s.calls := rfl
@[simp] theorem State.retire_held (s : State) (pc : Word) : (s.retire pc).held = s.held := rfl
@[simp] theorem State.retire_harts (s : State) (pc : Word) : (s.retire pc).harts = s.harts := rfl
@[simp] theorem State.retire_hartDue (s : State) (pc : Word) : (s.retire pc).hartDue = s.hartDue := rfl
@[simp] theorem State.retire_hops (s : State) (pc : Word) : (s.retire pc).hops = s.hops := rfl
@[simp] theorem State.retire_posted (s : State) (pc : Word) : (s.retire pc).posted = s.posted := rfl
@[simp] theorem State.retire_reply (s : State) (pc : Word) : (s.retire pc).reply = s.reply := rfl
@[simp] theorem State.retire_driveReply (s : State) (pc : Word) : (s.retire pc).driveReply = s.driveReply := rfl
@[simp] theorem State.retire_resets (s : State) (pc : Word) : (s.retire pc).resets = s.resets := rfl
@[simp] theorem State.retire_counters (s : State) (pc : Word) : (s.retire pc).counters = s.counters := rfl
@[simp] theorem State.retire_dir (s : State) (pc : Word) : (s.retire pc).dir = s.dir := rfl
@[simp] theorem State.retire_asks (s : State) (pc : Word) : (s.retire pc).asks = s.asks := rfl
@[simp] theorem State.retire_flips (s : State) (pc : Word) : (s.retire pc).flips = s.flips := rfl
@[simp] theorem State.retire_windows (s : State) (pc : Word) : (s.retire pc).windows = s.windows := rfl
@[simp] theorem State.retire_hostHot (s : State) (pc : Word) : (s.retire pc).hostHot = s.hostHot := rfl
@[simp] theorem State.retire_cellars (s : State) (pc : Word) : (s.retire pc).cellars = s.cellars := rfl
@[simp] theorem State.retire_keys (s : State) (pc : Word) : (s.retire pc).keys = s.keys := rfl
@[simp] theorem State.retire_roles (s : State) (pc : Word) : (s.retire pc).roles = s.roles := rfl
@[simp] theorem State.retire_boot (s : State) (pc : Word) : (s.retire pc).boot = s.boot := rfl
@[simp] theorem State.retire_incidents (s : State) (pc : Word) : (s.retire pc).incidents = s.incidents := rfl
@[simp] theorem State.retire_bad (s : State) (pc : Word) : (s.retire pc).bad = s.bad := rfl
@[simp] theorem State.retire_hartErrs (s : State) (pc : Word) : (s.retire pc).hartErrs = s.hartErrs := rfl
@[simp] theorem State.retire_doubled (s : State) (pc : Word) : (s.retire pc).doubled = s.doubled := rfl
@[simp] theorem State.retire_stamps (s : State) (pc : Word) : (s.retire pc).stamps = s.stamps := rfl
@[simp] theorem State.retire_links (s : State) (pc : Word) : (s.retire pc).links = s.links := rfl
@[simp] theorem State.retire_widths (s : State) (pc : Word) : (s.retire pc).widths = s.widths := rfl
@[simp] theorem State.retire_lasting (s : State) (pc : Word) : (s.retire pc).lasting = s.lasting := rfl
@[simp] theorem State.retire_retiredCores (s : State) (pc : Word) : (s.retire pc).retiredCores = s.retiredCores := rfl
@[simp] theorem State.retire_retiredEngines (s : State) (pc : Word) : (s.retire pc).retiredEngines = s.retiredEngines := rfl
@[simp] theorem State.retire_retiredHarts (s : State) (pc : Word) : (s.retire pc).retiredHarts = s.retiredHarts := rfl
@[simp] theorem State.retire_power (s : State) (pc : Word) : (s.retire pc).power = s.power := rfl

/-! ### count -/

@[simp] theorem State.count_now (s : State) (o n : Nat) : (s.count o n).now = s.now := rfl
@[simp] theorem State.count_turn (s : State) (o n : Nat) : (s.count o n).turn = s.turn := rfl
@[simp] theorem State.count_agenda (s : State) (o n : Nat) : (s.count o n).agenda = s.agenda := rfl
@[simp] theorem State.count_delays (s : State) (o n : Nat) : (s.count o n).delays = s.delays := rfl
@[simp] theorem State.count_freeN (s : State) (o n : Nat) : (s.count o n).freeN = s.freeN := rfl
@[simp] theorem State.count_key (s : State) (o n : Nat) : (s.count o n).key = s.key := rfl
@[simp] theorem State.count_live (s : State) (o n : Nat) : (s.count o n).live = s.live := rfl
@[simp] theorem State.count_ctx (s : State) (o n : Nat) : (s.count o n).ctx = s.ctx := rfl
@[simp] theorem State.count_parked (s : State) (o n : Nat) : (s.count o n).parked = s.parked := rfl
@[simp] theorem State.count_nextUid (s : State) (o n : Nat) : (s.count o n).nextUid = s.nextUid := rfl
@[simp] theorem State.count_saved (s : State) (o n : Nat) : (s.count o n).saved = s.saved := rfl
@[simp] theorem State.count_cores (s : State) (o n : Nat) : (s.count o n).cores = s.cores := rfl
@[simp] theorem State.count_wt (s : State) (o n : Nat) : (s.count o n).wt = s.wt := rfl
@[simp] theorem State.count_arrivals (s : State) (o n : Nat) : (s.count o n).arrivals = s.arrivals := rfl
@[simp] theorem State.count_mem (s : State) (o n : Nat) : (s.count o n).mem = s.mem := rfl
@[simp] theorem State.count_fe (s : State) (o n : Nat) : (s.count o n).fe = s.fe := rfl
@[simp] theorem State.count_fmts (s : State) (o n : Nat) : (s.count o n).fmts = s.fmts := rfl
@[simp] theorem State.count_engines (s : State) (o n : Nat) : (s.count o n).engines = s.engines := rfl
@[simp] theorem State.count_sfu (s : State) (o n : Nat) : (s.count o n).sfu = s.sfu := rfl
@[simp] theorem State.count_channels (s : State) (o n : Nat) : (s.count o n).channels = s.channels := rfl
@[simp] theorem State.count_groups (s : State) (o n : Nat) : (s.count o n).groups = s.groups := rfl
@[simp] theorem State.count_runqs (s : State) (o n : Nat) : (s.count o n).runqs = s.runqs := rfl
@[simp] theorem State.count_pops (s : State) (o n : Nat) : (s.count o n).pops = s.pops := rfl
@[simp] theorem State.count_launches (s : State) (o n : Nat) : (s.count o n).launches = s.launches := rfl
@[simp] theorem State.count_nextLaunch (s : State) (o n : Nat) : (s.count o n).nextLaunch = s.nextLaunch := rfl
@[simp] theorem State.count_lateStatus (s : State) (o n : Nat) : (s.count o n).lateStatus = s.lateStatus := rfl
@[simp] theorem State.count_lateDoors (s : State) (o n : Nat) : (s.count o n).lateDoors = s.lateDoors := rfl
@[simp] theorem State.count_cfg (s : State) (o n : Nat) : (s.count o n).cfg = s.cfg := rfl
@[simp] theorem State.count_futures (s : State) (o n : Nat) : (s.count o n).futures = s.futures := rfl
@[simp] theorem State.count_index (s : State) (o n : Nat) : (s.count o n).index = s.index := rfl
@[simp] theorem State.count_stamp (s : State) (o n : Nat) : (s.count o n).stamp = s.stamp := rfl
@[simp] theorem State.count_cut (s : State) (o n : Nat) : (s.count o n).cut = s.cut := rfl
@[simp] theorem State.count_envFaults (s : State) (o n : Nat) : (s.count o n).envFaults = s.envFaults := rfl
@[simp] theorem State.count_freeBlocks (s : State) (o n : Nat) : (s.count o n).freeBlocks = s.freeBlocks := rfl
@[simp] theorem State.count_calls (s : State) (o n : Nat) : (s.count o n).calls = s.calls := rfl
@[simp] theorem State.count_held (s : State) (o n : Nat) : (s.count o n).held = s.held := rfl
@[simp] theorem State.count_harts (s : State) (o n : Nat) : (s.count o n).harts = s.harts := rfl
@[simp] theorem State.count_hartDue (s : State) (o n : Nat) : (s.count o n).hartDue = s.hartDue := rfl
@[simp] theorem State.count_hops (s : State) (o n : Nat) : (s.count o n).hops = s.hops := rfl
@[simp] theorem State.count_posted (s : State) (o n : Nat) : (s.count o n).posted = s.posted := rfl
@[simp] theorem State.count_reply (s : State) (o n : Nat) : (s.count o n).reply = s.reply := rfl
@[simp] theorem State.count_driveReply (s : State) (o n : Nat) : (s.count o n).driveReply = s.driveReply := rfl
@[simp] theorem State.count_resets (s : State) (o n : Nat) : (s.count o n).resets = s.resets := rfl
@[simp] theorem State.count_dir (s : State) (o n : Nat) : (s.count o n).dir = s.dir := rfl
@[simp] theorem State.count_asks (s : State) (o n : Nat) : (s.count o n).asks = s.asks := rfl
@[simp] theorem State.count_flips (s : State) (o n : Nat) : (s.count o n).flips = s.flips := rfl
@[simp] theorem State.count_windows (s : State) (o n : Nat) : (s.count o n).windows = s.windows := rfl
@[simp] theorem State.count_hostHot (s : State) (o n : Nat) : (s.count o n).hostHot = s.hostHot := rfl
@[simp] theorem State.count_cellars (s : State) (o n : Nat) : (s.count o n).cellars = s.cellars := rfl
@[simp] theorem State.count_keys (s : State) (o n : Nat) : (s.count o n).keys = s.keys := rfl
@[simp] theorem State.count_roles (s : State) (o n : Nat) : (s.count o n).roles = s.roles := rfl
@[simp] theorem State.count_boot (s : State) (o n : Nat) : (s.count o n).boot = s.boot := rfl
@[simp] theorem State.count_incidents (s : State) (o n : Nat) : (s.count o n).incidents = s.incidents := rfl
@[simp] theorem State.count_bad (s : State) (o n : Nat) : (s.count o n).bad = s.bad := rfl
@[simp] theorem State.count_hartErrs (s : State) (o n : Nat) : (s.count o n).hartErrs = s.hartErrs := rfl
@[simp] theorem State.count_doubled (s : State) (o n : Nat) : (s.count o n).doubled = s.doubled := rfl
@[simp] theorem State.count_stamps (s : State) (o n : Nat) : (s.count o n).stamps = s.stamps := rfl
@[simp] theorem State.count_links (s : State) (o n : Nat) : (s.count o n).links = s.links := rfl
@[simp] theorem State.count_widths (s : State) (o n : Nat) : (s.count o n).widths = s.widths := rfl
@[simp] theorem State.count_lasting (s : State) (o n : Nat) : (s.count o n).lasting = s.lasting := rfl
@[simp] theorem State.count_retiredCores (s : State) (o n : Nat) : (s.count o n).retiredCores = s.retiredCores := rfl
@[simp] theorem State.count_retiredEngines (s : State) (o n : Nat) : (s.count o n).retiredEngines = s.retiredEngines := rfl
@[simp] theorem State.count_retiredHarts (s : State) (o n : Nat) : (s.count o n).retiredHarts = s.retiredHarts := rfl
@[simp] theorem State.count_power (s : State) (o n : Nat) : (s.count o n).power = s.power := rfl

/-! ### clrFull -/

@[simp] theorem State.clrFull_now (s : State) (c g : Nat) : (s.clrFull c g).now = s.now := rfl
@[simp] theorem State.clrFull_turn (s : State) (c g : Nat) : (s.clrFull c g).turn = s.turn := rfl
@[simp] theorem State.clrFull_agenda (s : State) (c g : Nat) : (s.clrFull c g).agenda = s.agenda := rfl
@[simp] theorem State.clrFull_delays (s : State) (c g : Nat) : (s.clrFull c g).delays = s.delays := rfl
@[simp] theorem State.clrFull_freeN (s : State) (c g : Nat) : (s.clrFull c g).freeN = s.freeN := rfl
@[simp] theorem State.clrFull_key (s : State) (c g : Nat) : (s.clrFull c g).key = s.key := rfl
@[simp] theorem State.clrFull_live (s : State) (c g : Nat) : (s.clrFull c g).live = s.live := rfl
@[simp] theorem State.clrFull_ctx (s : State) (c g : Nat) : (s.clrFull c g).ctx = s.ctx := rfl
@[simp] theorem State.clrFull_parked (s : State) (c g : Nat) : (s.clrFull c g).parked = s.parked := rfl
@[simp] theorem State.clrFull_nextUid (s : State) (c g : Nat) : (s.clrFull c g).nextUid = s.nextUid := rfl
@[simp] theorem State.clrFull_saved (s : State) (c g : Nat) : (s.clrFull c g).saved = s.saved := rfl
@[simp] theorem State.clrFull_cores (s : State) (c g : Nat) : (s.clrFull c g).cores = s.cores := rfl
@[simp] theorem State.clrFull_wt (s : State) (c g : Nat) : (s.clrFull c g).wt = s.wt := rfl
@[simp] theorem State.clrFull_arrivals (s : State) (c g : Nat) : (s.clrFull c g).arrivals = s.arrivals := rfl
@[simp] theorem State.clrFull_mem (s : State) (c g : Nat) : (s.clrFull c g).mem = s.mem := rfl
@[simp] theorem State.clrFull_fmts (s : State) (c g : Nat) : (s.clrFull c g).fmts = s.fmts := rfl
@[simp] theorem State.clrFull_engines (s : State) (c g : Nat) : (s.clrFull c g).engines = s.engines := rfl
@[simp] theorem State.clrFull_sfu (s : State) (c g : Nat) : (s.clrFull c g).sfu = s.sfu := rfl
@[simp] theorem State.clrFull_channels (s : State) (c g : Nat) : (s.clrFull c g).channels = s.channels := rfl
@[simp] theorem State.clrFull_groups (s : State) (c g : Nat) : (s.clrFull c g).groups = s.groups := rfl
@[simp] theorem State.clrFull_runqs (s : State) (c g : Nat) : (s.clrFull c g).runqs = s.runqs := rfl
@[simp] theorem State.clrFull_pops (s : State) (c g : Nat) : (s.clrFull c g).pops = s.pops := rfl
@[simp] theorem State.clrFull_launches (s : State) (c g : Nat) : (s.clrFull c g).launches = s.launches := rfl
@[simp] theorem State.clrFull_nextLaunch (s : State) (c g : Nat) : (s.clrFull c g).nextLaunch = s.nextLaunch := rfl
@[simp] theorem State.clrFull_lateStatus (s : State) (c g : Nat) : (s.clrFull c g).lateStatus = s.lateStatus := rfl
@[simp] theorem State.clrFull_lateDoors (s : State) (c g : Nat) : (s.clrFull c g).lateDoors = s.lateDoors := rfl
@[simp] theorem State.clrFull_cfg (s : State) (c g : Nat) : (s.clrFull c g).cfg = s.cfg := rfl
@[simp] theorem State.clrFull_futures (s : State) (c g : Nat) : (s.clrFull c g).futures = s.futures := rfl
@[simp] theorem State.clrFull_index (s : State) (c g : Nat) : (s.clrFull c g).index = s.index := rfl
@[simp] theorem State.clrFull_stamp (s : State) (c g : Nat) : (s.clrFull c g).stamp = s.stamp := rfl
@[simp] theorem State.clrFull_cut (s : State) (c g : Nat) : (s.clrFull c g).cut = s.cut := rfl
@[simp] theorem State.clrFull_envFaults (s : State) (c g : Nat) : (s.clrFull c g).envFaults = s.envFaults := rfl
@[simp] theorem State.clrFull_freeBlocks (s : State) (c g : Nat) : (s.clrFull c g).freeBlocks = s.freeBlocks := rfl
@[simp] theorem State.clrFull_calls (s : State) (c g : Nat) : (s.clrFull c g).calls = s.calls := rfl
@[simp] theorem State.clrFull_held (s : State) (c g : Nat) : (s.clrFull c g).held = s.held := rfl
@[simp] theorem State.clrFull_harts (s : State) (c g : Nat) : (s.clrFull c g).harts = s.harts := rfl
@[simp] theorem State.clrFull_hartDue (s : State) (c g : Nat) : (s.clrFull c g).hartDue = s.hartDue := rfl
@[simp] theorem State.clrFull_hops (s : State) (c g : Nat) : (s.clrFull c g).hops = s.hops := rfl
@[simp] theorem State.clrFull_posted (s : State) (c g : Nat) : (s.clrFull c g).posted = s.posted := rfl
@[simp] theorem State.clrFull_reply (s : State) (c g : Nat) : (s.clrFull c g).reply = s.reply := rfl
@[simp] theorem State.clrFull_driveReply (s : State) (c g : Nat) : (s.clrFull c g).driveReply = s.driveReply := rfl
@[simp] theorem State.clrFull_resets (s : State) (c g : Nat) : (s.clrFull c g).resets = s.resets := rfl
@[simp] theorem State.clrFull_counters (s : State) (c g : Nat) : (s.clrFull c g).counters = s.counters := rfl
@[simp] theorem State.clrFull_dir (s : State) (c g : Nat) : (s.clrFull c g).dir = s.dir := rfl
@[simp] theorem State.clrFull_asks (s : State) (c g : Nat) : (s.clrFull c g).asks = s.asks := rfl
@[simp] theorem State.clrFull_flips (s : State) (c g : Nat) : (s.clrFull c g).flips = s.flips := rfl
@[simp] theorem State.clrFull_windows (s : State) (c g : Nat) : (s.clrFull c g).windows = s.windows := rfl
@[simp] theorem State.clrFull_hostHot (s : State) (c g : Nat) : (s.clrFull c g).hostHot = s.hostHot := rfl
@[simp] theorem State.clrFull_cellars (s : State) (c g : Nat) : (s.clrFull c g).cellars = s.cellars := rfl
@[simp] theorem State.clrFull_keys (s : State) (c g : Nat) : (s.clrFull c g).keys = s.keys := rfl
@[simp] theorem State.clrFull_roles (s : State) (c g : Nat) : (s.clrFull c g).roles = s.roles := rfl
@[simp] theorem State.clrFull_boot (s : State) (c g : Nat) : (s.clrFull c g).boot = s.boot := rfl
@[simp] theorem State.clrFull_incidents (s : State) (c g : Nat) : (s.clrFull c g).incidents = s.incidents := rfl
@[simp] theorem State.clrFull_bad (s : State) (c g : Nat) : (s.clrFull c g).bad = s.bad := rfl
@[simp] theorem State.clrFull_hartErrs (s : State) (c g : Nat) : (s.clrFull c g).hartErrs = s.hartErrs := rfl
@[simp] theorem State.clrFull_doubled (s : State) (c g : Nat) : (s.clrFull c g).doubled = s.doubled := rfl
@[simp] theorem State.clrFull_stamps (s : State) (c g : Nat) : (s.clrFull c g).stamps = s.stamps := rfl
@[simp] theorem State.clrFull_links (s : State) (c g : Nat) : (s.clrFull c g).links = s.links := rfl
@[simp] theorem State.clrFull_widths (s : State) (c g : Nat) : (s.clrFull c g).widths = s.widths := rfl
@[simp] theorem State.clrFull_lasting (s : State) (c g : Nat) : (s.clrFull c g).lasting = s.lasting := rfl
@[simp] theorem State.clrFull_retiredCores (s : State) (c g : Nat) : (s.clrFull c g).retiredCores = s.retiredCores := rfl
@[simp] theorem State.clrFull_retiredEngines (s : State) (c g : Nat) : (s.clrFull c g).retiredEngines = s.retiredEngines := rfl
@[simp] theorem State.clrFull_retiredHarts (s : State) (c g : Nat) : (s.clrFull c g).retiredHarts = s.retiredHarts := rfl
@[simp] theorem State.clrFull_power (s : State) (c g : Nat) : (s.clrFull c g).power = s.power := rfl

/-! ### setFull -/

@[simp] theorem State.setFull_now (s : State) (c g : Nat) : (s.setFull c g).now = s.now := by unfold State.setFull; dsimp only; split <;> rfl
@[simp] theorem State.setFull_turn (s : State) (c g : Nat) : (s.setFull c g).turn = s.turn := by unfold State.setFull; dsimp only; split <;> rfl
@[simp] theorem State.setFull_agenda (s : State) (c g : Nat) : (s.setFull c g).agenda = s.agenda := by unfold State.setFull; dsimp only; split <;> rfl
@[simp] theorem State.setFull_delays (s : State) (c g : Nat) : (s.setFull c g).delays = s.delays := by unfold State.setFull; dsimp only; split <;> rfl
@[simp] theorem State.setFull_freeN (s : State) (c g : Nat) : (s.setFull c g).freeN = s.freeN := by unfold State.setFull; dsimp only; split <;> rfl
@[simp] theorem State.setFull_key (s : State) (c g : Nat) : (s.setFull c g).key = s.key := by unfold State.setFull; dsimp only; split <;> rfl
@[simp] theorem State.setFull_live (s : State) (c g : Nat) : (s.setFull c g).live = s.live := by unfold State.setFull; dsimp only; split <;> rfl
@[simp] theorem State.setFull_ctx (s : State) (c g : Nat) : (s.setFull c g).ctx = s.ctx := by unfold State.setFull; dsimp only; split <;> rfl
@[simp] theorem State.setFull_parked (s : State) (c g : Nat) : (s.setFull c g).parked = s.parked := by unfold State.setFull; dsimp only; split <;> rfl
@[simp] theorem State.setFull_nextUid (s : State) (c g : Nat) : (s.setFull c g).nextUid = s.nextUid := by unfold State.setFull; dsimp only; split <;> rfl
@[simp] theorem State.setFull_saved (s : State) (c g : Nat) : (s.setFull c g).saved = s.saved := by unfold State.setFull; dsimp only; split <;> rfl
@[simp] theorem State.setFull_cores (s : State) (c g : Nat) : (s.setFull c g).cores = s.cores := by unfold State.setFull; dsimp only; split <;> rfl
@[simp] theorem State.setFull_wt (s : State) (c g : Nat) : (s.setFull c g).wt = s.wt := by unfold State.setFull; dsimp only; split <;> rfl
@[simp] theorem State.setFull_arrivals (s : State) (c g : Nat) : (s.setFull c g).arrivals = s.arrivals := by unfold State.setFull; dsimp only; split <;> rfl
@[simp] theorem State.setFull_mem (s : State) (c g : Nat) : (s.setFull c g).mem = s.mem := by unfold State.setFull; dsimp only; split <;> rfl
@[simp] theorem State.setFull_fmts (s : State) (c g : Nat) : (s.setFull c g).fmts = s.fmts := by unfold State.setFull; dsimp only; split <;> rfl
@[simp] theorem State.setFull_engines (s : State) (c g : Nat) : (s.setFull c g).engines = s.engines := by unfold State.setFull; dsimp only; split <;> rfl
@[simp] theorem State.setFull_sfu (s : State) (c g : Nat) : (s.setFull c g).sfu = s.sfu := by unfold State.setFull; dsimp only; split <;> rfl
@[simp] theorem State.setFull_channels (s : State) (c g : Nat) : (s.setFull c g).channels = s.channels := by unfold State.setFull; dsimp only; split <;> rfl
@[simp] theorem State.setFull_groups (s : State) (c g : Nat) : (s.setFull c g).groups = s.groups := by unfold State.setFull; dsimp only; split <;> rfl
@[simp] theorem State.setFull_runqs (s : State) (c g : Nat) : (s.setFull c g).runqs = s.runqs := by unfold State.setFull; dsimp only; split <;> rfl
@[simp] theorem State.setFull_pops (s : State) (c g : Nat) : (s.setFull c g).pops = s.pops := by unfold State.setFull; dsimp only; split <;> rfl
@[simp] theorem State.setFull_launches (s : State) (c g : Nat) : (s.setFull c g).launches = s.launches := by unfold State.setFull; dsimp only; split <;> rfl
@[simp] theorem State.setFull_nextLaunch (s : State) (c g : Nat) : (s.setFull c g).nextLaunch = s.nextLaunch := by unfold State.setFull; dsimp only; split <;> rfl
@[simp] theorem State.setFull_lateStatus (s : State) (c g : Nat) : (s.setFull c g).lateStatus = s.lateStatus := by unfold State.setFull; dsimp only; split <;> rfl
@[simp] theorem State.setFull_lateDoors (s : State) (c g : Nat) : (s.setFull c g).lateDoors = s.lateDoors := by unfold State.setFull; dsimp only; split <;> rfl
@[simp] theorem State.setFull_cfg (s : State) (c g : Nat) : (s.setFull c g).cfg = s.cfg := by unfold State.setFull; dsimp only; split <;> rfl
@[simp] theorem State.setFull_futures (s : State) (c g : Nat) : (s.setFull c g).futures = s.futures := by unfold State.setFull; dsimp only; split <;> rfl
@[simp] theorem State.setFull_index (s : State) (c g : Nat) : (s.setFull c g).index = s.index := by unfold State.setFull; dsimp only; split <;> rfl
@[simp] theorem State.setFull_stamp (s : State) (c g : Nat) : (s.setFull c g).stamp = s.stamp := by unfold State.setFull; dsimp only; split <;> rfl
@[simp] theorem State.setFull_cut (s : State) (c g : Nat) : (s.setFull c g).cut = s.cut := by unfold State.setFull; dsimp only; split <;> rfl
@[simp] theorem State.setFull_envFaults (s : State) (c g : Nat) : (s.setFull c g).envFaults = s.envFaults := by unfold State.setFull; dsimp only; split <;> rfl
@[simp] theorem State.setFull_freeBlocks (s : State) (c g : Nat) : (s.setFull c g).freeBlocks = s.freeBlocks := by unfold State.setFull; dsimp only; split <;> rfl
@[simp] theorem State.setFull_calls (s : State) (c g : Nat) : (s.setFull c g).calls = s.calls := by unfold State.setFull; dsimp only; split <;> rfl
@[simp] theorem State.setFull_held (s : State) (c g : Nat) : (s.setFull c g).held = s.held := by unfold State.setFull; dsimp only; split <;> rfl
@[simp] theorem State.setFull_harts (s : State) (c g : Nat) : (s.setFull c g).harts = s.harts := by unfold State.setFull; dsimp only; split <;> rfl
@[simp] theorem State.setFull_hartDue (s : State) (c g : Nat) : (s.setFull c g).hartDue = s.hartDue := by unfold State.setFull; dsimp only; split <;> rfl
@[simp] theorem State.setFull_hops (s : State) (c g : Nat) : (s.setFull c g).hops = s.hops := by unfold State.setFull; dsimp only; split <;> rfl
@[simp] theorem State.setFull_posted (s : State) (c g : Nat) : (s.setFull c g).posted = s.posted := by unfold State.setFull; dsimp only; split <;> rfl
@[simp] theorem State.setFull_reply (s : State) (c g : Nat) : (s.setFull c g).reply = s.reply := by unfold State.setFull; dsimp only; split <;> rfl
@[simp] theorem State.setFull_driveReply (s : State) (c g : Nat) : (s.setFull c g).driveReply = s.driveReply := by unfold State.setFull; dsimp only; split <;> rfl
@[simp] theorem State.setFull_resets (s : State) (c g : Nat) : (s.setFull c g).resets = s.resets := by unfold State.setFull; dsimp only; split <;> rfl
@[simp] theorem State.setFull_counters (s : State) (c g : Nat) : (s.setFull c g).counters = s.counters := by unfold State.setFull; dsimp only; split <;> rfl
@[simp] theorem State.setFull_dir (s : State) (c g : Nat) : (s.setFull c g).dir = s.dir := by unfold State.setFull; dsimp only; split <;> rfl
@[simp] theorem State.setFull_asks (s : State) (c g : Nat) : (s.setFull c g).asks = s.asks := by unfold State.setFull; dsimp only; split <;> rfl
@[simp] theorem State.setFull_flips (s : State) (c g : Nat) : (s.setFull c g).flips = s.flips := by unfold State.setFull; dsimp only; split <;> rfl
@[simp] theorem State.setFull_windows (s : State) (c g : Nat) : (s.setFull c g).windows = s.windows := by unfold State.setFull; dsimp only; split <;> rfl
@[simp] theorem State.setFull_hostHot (s : State) (c g : Nat) : (s.setFull c g).hostHot = s.hostHot := by unfold State.setFull; dsimp only; split <;> rfl
@[simp] theorem State.setFull_cellars (s : State) (c g : Nat) : (s.setFull c g).cellars = s.cellars := by unfold State.setFull; dsimp only; split <;> rfl
@[simp] theorem State.setFull_keys (s : State) (c g : Nat) : (s.setFull c g).keys = s.keys := by unfold State.setFull; dsimp only; split <;> rfl
@[simp] theorem State.setFull_roles (s : State) (c g : Nat) : (s.setFull c g).roles = s.roles := by unfold State.setFull; dsimp only; split <;> rfl
@[simp] theorem State.setFull_boot (s : State) (c g : Nat) : (s.setFull c g).boot = s.boot := by unfold State.setFull; dsimp only; split <;> rfl
@[simp] theorem State.setFull_incidents (s : State) (c g : Nat) : (s.setFull c g).incidents = s.incidents := by unfold State.setFull; dsimp only; split <;> rfl
@[simp] theorem State.setFull_bad (s : State) (c g : Nat) : (s.setFull c g).bad = s.bad := by unfold State.setFull; dsimp only; split <;> rfl
@[simp] theorem State.setFull_hartErrs (s : State) (c g : Nat) : (s.setFull c g).hartErrs = s.hartErrs := by unfold State.setFull; dsimp only; split <;> rfl
@[simp] theorem State.setFull_doubled (s : State) (c g : Nat) : (s.setFull c g).doubled = s.doubled := by unfold State.setFull; dsimp only; split <;> rfl
@[simp] theorem State.setFull_stamps (s : State) (c g : Nat) : (s.setFull c g).stamps = s.stamps := by unfold State.setFull; dsimp only; split <;> rfl
@[simp] theorem State.setFull_links (s : State) (c g : Nat) : (s.setFull c g).links = s.links := by unfold State.setFull; dsimp only; split <;> rfl
@[simp] theorem State.setFull_widths (s : State) (c g : Nat) : (s.setFull c g).widths = s.widths := by unfold State.setFull; dsimp only; split <;> rfl
@[simp] theorem State.setFull_lasting (s : State) (c g : Nat) : (s.setFull c g).lasting = s.lasting := by unfold State.setFull; dsimp only; split <;> rfl
@[simp] theorem State.setFull_retiredCores (s : State) (c g : Nat) : (s.setFull c g).retiredCores = s.retiredCores := by unfold State.setFull; dsimp only; split <;> rfl
@[simp] theorem State.setFull_retiredEngines (s : State) (c g : Nat) : (s.setFull c g).retiredEngines = s.retiredEngines := by unfold State.setFull; dsimp only; split <;> rfl
@[simp] theorem State.setFull_retiredHarts (s : State) (c g : Nat) : (s.setFull c g).retiredHarts = s.retiredHarts := by unfold State.setFull; dsimp only; split <;> rfl
@[simp] theorem State.setFull_power (s : State) (c g : Nat) : (s.setFull c g).power = s.power := by unfold State.setFull; dsimp only; split <;> rfl

/-! ### delay -/

@[simp] theorem State.delay_now (s : State) : s.delay.2.now = s.now := by unfold State.delay; split <;> rfl
@[simp] theorem State.delay_turn (s : State) : s.delay.2.turn = s.turn := by unfold State.delay; split <;> rfl
@[simp] theorem State.delay_agenda (s : State) : s.delay.2.agenda = s.agenda := by unfold State.delay; split <;> rfl
@[simp] theorem State.delay_freeN (s : State) : s.delay.2.freeN = s.freeN := by unfold State.delay; split <;> rfl
@[simp] theorem State.delay_key (s : State) : s.delay.2.key = s.key := by unfold State.delay; split <;> rfl
@[simp] theorem State.delay_live (s : State) : s.delay.2.live = s.live := by unfold State.delay; split <;> rfl
@[simp] theorem State.delay_ctx (s : State) : s.delay.2.ctx = s.ctx := by unfold State.delay; split <;> rfl
@[simp] theorem State.delay_parked (s : State) : s.delay.2.parked = s.parked := by unfold State.delay; split <;> rfl
@[simp] theorem State.delay_nextUid (s : State) : s.delay.2.nextUid = s.nextUid := by unfold State.delay; split <;> rfl
@[simp] theorem State.delay_saved (s : State) : s.delay.2.saved = s.saved := by unfold State.delay; split <;> rfl
@[simp] theorem State.delay_cores (s : State) : s.delay.2.cores = s.cores := by unfold State.delay; split <;> rfl
@[simp] theorem State.delay_wt (s : State) : s.delay.2.wt = s.wt := by unfold State.delay; split <;> rfl
@[simp] theorem State.delay_arrivals (s : State) : s.delay.2.arrivals = s.arrivals := by unfold State.delay; split <;> rfl
@[simp] theorem State.delay_mem (s : State) : s.delay.2.mem = s.mem := by unfold State.delay; split <;> rfl
@[simp] theorem State.delay_fe (s : State) : s.delay.2.fe = s.fe := by unfold State.delay; split <;> rfl
@[simp] theorem State.delay_fmts (s : State) : s.delay.2.fmts = s.fmts := by unfold State.delay; split <;> rfl
@[simp] theorem State.delay_engines (s : State) : s.delay.2.engines = s.engines := by unfold State.delay; split <;> rfl
@[simp] theorem State.delay_sfu (s : State) : s.delay.2.sfu = s.sfu := by unfold State.delay; split <;> rfl
@[simp] theorem State.delay_channels (s : State) : s.delay.2.channels = s.channels := by unfold State.delay; split <;> rfl
@[simp] theorem State.delay_groups (s : State) : s.delay.2.groups = s.groups := by unfold State.delay; split <;> rfl
@[simp] theorem State.delay_runqs (s : State) : s.delay.2.runqs = s.runqs := by unfold State.delay; split <;> rfl
@[simp] theorem State.delay_pops (s : State) : s.delay.2.pops = s.pops := by unfold State.delay; split <;> rfl
@[simp] theorem State.delay_launches (s : State) : s.delay.2.launches = s.launches := by unfold State.delay; split <;> rfl
@[simp] theorem State.delay_nextLaunch (s : State) : s.delay.2.nextLaunch = s.nextLaunch := by unfold State.delay; split <;> rfl
@[simp] theorem State.delay_lateStatus (s : State) : s.delay.2.lateStatus = s.lateStatus := by unfold State.delay; split <;> rfl
@[simp] theorem State.delay_lateDoors (s : State) : s.delay.2.lateDoors = s.lateDoors := by unfold State.delay; split <;> rfl
@[simp] theorem State.delay_cfg (s : State) : s.delay.2.cfg = s.cfg := by unfold State.delay; split <;> rfl
@[simp] theorem State.delay_futures (s : State) : s.delay.2.futures = s.futures := by unfold State.delay; split <;> rfl
@[simp] theorem State.delay_index (s : State) : s.delay.2.index = s.index := by unfold State.delay; split <;> rfl
@[simp] theorem State.delay_stamp (s : State) : s.delay.2.stamp = s.stamp := by unfold State.delay; split <;> rfl
@[simp] theorem State.delay_cut (s : State) : s.delay.2.cut = s.cut := by unfold State.delay; split <;> rfl
@[simp] theorem State.delay_envFaults (s : State) : s.delay.2.envFaults = s.envFaults := by unfold State.delay; split <;> rfl
@[simp] theorem State.delay_freeBlocks (s : State) : s.delay.2.freeBlocks = s.freeBlocks := by unfold State.delay; split <;> rfl
@[simp] theorem State.delay_calls (s : State) : s.delay.2.calls = s.calls := by unfold State.delay; split <;> rfl
@[simp] theorem State.delay_held (s : State) : s.delay.2.held = s.held := by unfold State.delay; split <;> rfl
@[simp] theorem State.delay_harts (s : State) : s.delay.2.harts = s.harts := by unfold State.delay; split <;> rfl
@[simp] theorem State.delay_hartDue (s : State) : s.delay.2.hartDue = s.hartDue := by unfold State.delay; split <;> rfl
@[simp] theorem State.delay_hops (s : State) : s.delay.2.hops = s.hops := by unfold State.delay; split <;> rfl
@[simp] theorem State.delay_posted (s : State) : s.delay.2.posted = s.posted := by unfold State.delay; split <;> rfl
@[simp] theorem State.delay_reply (s : State) : s.delay.2.reply = s.reply := by unfold State.delay; split <;> rfl
@[simp] theorem State.delay_driveReply (s : State) : s.delay.2.driveReply = s.driveReply := by unfold State.delay; split <;> rfl
@[simp] theorem State.delay_resets (s : State) : s.delay.2.resets = s.resets := by unfold State.delay; split <;> rfl
@[simp] theorem State.delay_counters (s : State) : s.delay.2.counters = s.counters := by unfold State.delay; split <;> rfl
@[simp] theorem State.delay_dir (s : State) : s.delay.2.dir = s.dir := by unfold State.delay; split <;> rfl
@[simp] theorem State.delay_asks (s : State) : s.delay.2.asks = s.asks := by unfold State.delay; split <;> rfl
@[simp] theorem State.delay_flips (s : State) : s.delay.2.flips = s.flips := by unfold State.delay; split <;> rfl
@[simp] theorem State.delay_windows (s : State) : s.delay.2.windows = s.windows := by unfold State.delay; split <;> rfl
@[simp] theorem State.delay_hostHot (s : State) : s.delay.2.hostHot = s.hostHot := by unfold State.delay; split <;> rfl
@[simp] theorem State.delay_cellars (s : State) : s.delay.2.cellars = s.cellars := by unfold State.delay; split <;> rfl
@[simp] theorem State.delay_keys (s : State) : s.delay.2.keys = s.keys := by unfold State.delay; split <;> rfl
@[simp] theorem State.delay_roles (s : State) : s.delay.2.roles = s.roles := by unfold State.delay; split <;> rfl
@[simp] theorem State.delay_boot (s : State) : s.delay.2.boot = s.boot := by unfold State.delay; split <;> rfl
@[simp] theorem State.delay_incidents (s : State) : s.delay.2.incidents = s.incidents := by unfold State.delay; split <;> rfl
@[simp] theorem State.delay_bad (s : State) : s.delay.2.bad = s.bad := by unfold State.delay; split <;> rfl
@[simp] theorem State.delay_hartErrs (s : State) : s.delay.2.hartErrs = s.hartErrs := by unfold State.delay; split <;> rfl
@[simp] theorem State.delay_doubled (s : State) : s.delay.2.doubled = s.doubled := by unfold State.delay; split <;> rfl
@[simp] theorem State.delay_stamps (s : State) : s.delay.2.stamps = s.stamps := by unfold State.delay; split <;> rfl
@[simp] theorem State.delay_links (s : State) : s.delay.2.links = s.links := by unfold State.delay; split <;> rfl
@[simp] theorem State.delay_widths (s : State) : s.delay.2.widths = s.widths := by unfold State.delay; split <;> rfl
@[simp] theorem State.delay_lasting (s : State) : s.delay.2.lasting = s.lasting := by unfold State.delay; split <;> rfl
@[simp] theorem State.delay_retiredCores (s : State) : s.delay.2.retiredCores = s.retiredCores := by unfold State.delay; split <;> rfl
@[simp] theorem State.delay_retiredEngines (s : State) : s.delay.2.retiredEngines = s.retiredEngines := by unfold State.delay; split <;> rfl
@[simp] theorem State.delay_retiredHarts (s : State) : s.delay.2.retiredHarts = s.retiredHarts := by unfold State.delay; split <;> rfl
@[simp] theorem State.delay_power (s : State) : s.delay.2.power = s.power := by unfold State.delay; split <;> rfl

/-! ### at_ -/

@[simp] theorem State.at_now (s : State) (t : Nat) (i : Instr) : (s.at_ t i).now = s.now := rfl
@[simp] theorem State.at_turn (s : State) (t : Nat) (i : Instr) : (s.at_ t i).turn = s.turn := rfl
@[simp] theorem State.at_delays (s : State) (t : Nat) (i : Instr) : (s.at_ t i).delays = s.delays := rfl
@[simp] theorem State.at_freeN (s : State) (t : Nat) (i : Instr) : (s.at_ t i).freeN = s.freeN := rfl
@[simp] theorem State.at_key (s : State) (t : Nat) (i : Instr) : (s.at_ t i).key = s.key := rfl
@[simp] theorem State.at_live (s : State) (t : Nat) (i : Instr) : (s.at_ t i).live = s.live := rfl
@[simp] theorem State.at_ctx (s : State) (t : Nat) (i : Instr) : (s.at_ t i).ctx = s.ctx := rfl
@[simp] theorem State.at_parked (s : State) (t : Nat) (i : Instr) : (s.at_ t i).parked = s.parked := rfl
@[simp] theorem State.at_nextUid (s : State) (t : Nat) (i : Instr) : (s.at_ t i).nextUid = s.nextUid := rfl
@[simp] theorem State.at_saved (s : State) (t : Nat) (i : Instr) : (s.at_ t i).saved = s.saved := rfl
@[simp] theorem State.at_cores (s : State) (t : Nat) (i : Instr) : (s.at_ t i).cores = s.cores := rfl
@[simp] theorem State.at_wt (s : State) (t : Nat) (i : Instr) : (s.at_ t i).wt = s.wt := rfl
@[simp] theorem State.at_arrivals (s : State) (t : Nat) (i : Instr) : (s.at_ t i).arrivals = s.arrivals := rfl
@[simp] theorem State.at_mem (s : State) (t : Nat) (i : Instr) : (s.at_ t i).mem = s.mem := rfl
@[simp] theorem State.at_fe (s : State) (t : Nat) (i : Instr) : (s.at_ t i).fe = s.fe := rfl
@[simp] theorem State.at_fmts (s : State) (t : Nat) (i : Instr) : (s.at_ t i).fmts = s.fmts := rfl
@[simp] theorem State.at_engines (s : State) (t : Nat) (i : Instr) : (s.at_ t i).engines = s.engines := rfl
@[simp] theorem State.at_sfu (s : State) (t : Nat) (i : Instr) : (s.at_ t i).sfu = s.sfu := rfl
@[simp] theorem State.at_channels (s : State) (t : Nat) (i : Instr) : (s.at_ t i).channels = s.channels := rfl
@[simp] theorem State.at_groups (s : State) (t : Nat) (i : Instr) : (s.at_ t i).groups = s.groups := rfl
@[simp] theorem State.at_runqs (s : State) (t : Nat) (i : Instr) : (s.at_ t i).runqs = s.runqs := rfl
@[simp] theorem State.at_pops (s : State) (t : Nat) (i : Instr) : (s.at_ t i).pops = s.pops := rfl
@[simp] theorem State.at_launches (s : State) (t : Nat) (i : Instr) : (s.at_ t i).launches = s.launches := rfl
@[simp] theorem State.at_nextLaunch (s : State) (t : Nat) (i : Instr) : (s.at_ t i).nextLaunch = s.nextLaunch := rfl
@[simp] theorem State.at_lateStatus (s : State) (t : Nat) (i : Instr) : (s.at_ t i).lateStatus = s.lateStatus := rfl
@[simp] theorem State.at_lateDoors (s : State) (t : Nat) (i : Instr) : (s.at_ t i).lateDoors = s.lateDoors := rfl
@[simp] theorem State.at_cfg (s : State) (t : Nat) (i : Instr) : (s.at_ t i).cfg = s.cfg := rfl
@[simp] theorem State.at_futures (s : State) (t : Nat) (i : Instr) : (s.at_ t i).futures = s.futures := rfl
@[simp] theorem State.at_index (s : State) (t : Nat) (i : Instr) : (s.at_ t i).index = s.index := rfl
@[simp] theorem State.at_stamp (s : State) (t : Nat) (i : Instr) : (s.at_ t i).stamp = s.stamp := rfl
@[simp] theorem State.at_cut (s : State) (t : Nat) (i : Instr) : (s.at_ t i).cut = s.cut := rfl
@[simp] theorem State.at_envFaults (s : State) (t : Nat) (i : Instr) : (s.at_ t i).envFaults = s.envFaults := rfl
@[simp] theorem State.at_freeBlocks (s : State) (t : Nat) (i : Instr) : (s.at_ t i).freeBlocks = s.freeBlocks := rfl
@[simp] theorem State.at_calls (s : State) (t : Nat) (i : Instr) : (s.at_ t i).calls = s.calls := rfl
@[simp] theorem State.at_held (s : State) (t : Nat) (i : Instr) : (s.at_ t i).held = s.held := rfl
@[simp] theorem State.at_harts (s : State) (t : Nat) (i : Instr) : (s.at_ t i).harts = s.harts := rfl
@[simp] theorem State.at_hartDue (s : State) (t : Nat) (i : Instr) : (s.at_ t i).hartDue = s.hartDue := rfl
@[simp] theorem State.at_hops (s : State) (t : Nat) (i : Instr) : (s.at_ t i).hops = s.hops := rfl
@[simp] theorem State.at_posted (s : State) (t : Nat) (i : Instr) : (s.at_ t i).posted = s.posted := rfl
@[simp] theorem State.at_reply (s : State) (t : Nat) (i : Instr) : (s.at_ t i).reply = s.reply := rfl
@[simp] theorem State.at_driveReply (s : State) (t : Nat) (i : Instr) : (s.at_ t i).driveReply = s.driveReply := rfl
@[simp] theorem State.at_resets (s : State) (t : Nat) (i : Instr) : (s.at_ t i).resets = s.resets := rfl
@[simp] theorem State.at_counters (s : State) (t : Nat) (i : Instr) : (s.at_ t i).counters = s.counters := rfl
@[simp] theorem State.at_dir (s : State) (t : Nat) (i : Instr) : (s.at_ t i).dir = s.dir := rfl
@[simp] theorem State.at_asks (s : State) (t : Nat) (i : Instr) : (s.at_ t i).asks = s.asks := rfl
@[simp] theorem State.at_flips (s : State) (t : Nat) (i : Instr) : (s.at_ t i).flips = s.flips := rfl
@[simp] theorem State.at_windows (s : State) (t : Nat) (i : Instr) : (s.at_ t i).windows = s.windows := rfl
@[simp] theorem State.at_hostHot (s : State) (t : Nat) (i : Instr) : (s.at_ t i).hostHot = s.hostHot := rfl
@[simp] theorem State.at_cellars (s : State) (t : Nat) (i : Instr) : (s.at_ t i).cellars = s.cellars := rfl
@[simp] theorem State.at_keys (s : State) (t : Nat) (i : Instr) : (s.at_ t i).keys = s.keys := rfl
@[simp] theorem State.at_roles (s : State) (t : Nat) (i : Instr) : (s.at_ t i).roles = s.roles := rfl
@[simp] theorem State.at_boot (s : State) (t : Nat) (i : Instr) : (s.at_ t i).boot = s.boot := rfl
@[simp] theorem State.at_incidents (s : State) (t : Nat) (i : Instr) : (s.at_ t i).incidents = s.incidents := rfl
@[simp] theorem State.at_bad (s : State) (t : Nat) (i : Instr) : (s.at_ t i).bad = s.bad := rfl
@[simp] theorem State.at_hartErrs (s : State) (t : Nat) (i : Instr) : (s.at_ t i).hartErrs = s.hartErrs := rfl
@[simp] theorem State.at_doubled (s : State) (t : Nat) (i : Instr) : (s.at_ t i).doubled = s.doubled := rfl
@[simp] theorem State.at_stamps (s : State) (t : Nat) (i : Instr) : (s.at_ t i).stamps = s.stamps := rfl
@[simp] theorem State.at_links (s : State) (t : Nat) (i : Instr) : (s.at_ t i).links = s.links := rfl
@[simp] theorem State.at_widths (s : State) (t : Nat) (i : Instr) : (s.at_ t i).widths = s.widths := rfl
@[simp] theorem State.at_lasting (s : State) (t : Nat) (i : Instr) : (s.at_ t i).lasting = s.lasting := rfl
@[simp] theorem State.at_retiredCores (s : State) (t : Nat) (i : Instr) : (s.at_ t i).retiredCores = s.retiredCores := rfl
@[simp] theorem State.at_retiredEngines (s : State) (t : Nat) (i : Instr) : (s.at_ t i).retiredEngines = s.retiredEngines := rfl
@[simp] theorem State.at_retiredHarts (s : State) (t : Nat) (i : Instr) : (s.at_ t i).retiredHarts = s.retiredHarts := rfl
@[simp] theorem State.at_power (s : State) (t : Nat) (i : Instr) : (s.at_ t i).power = s.power := rfl

/-! ### postArrival -/

@[simp] theorem State.postArrival_now (s : State) (c e n : Nat) : (s.postArrival c e n).now = s.now := rfl
@[simp] theorem State.postArrival_turn (s : State) (c e n : Nat) : (s.postArrival c e n).turn = s.turn := rfl
@[simp] theorem State.postArrival_agenda (s : State) (c e n : Nat) : (s.postArrival c e n).agenda = s.agenda := rfl
@[simp] theorem State.postArrival_delays (s : State) (c e n : Nat) : (s.postArrival c e n).delays = s.delays := rfl
@[simp] theorem State.postArrival_freeN (s : State) (c e n : Nat) : (s.postArrival c e n).freeN = s.freeN := rfl
@[simp] theorem State.postArrival_key (s : State) (c e n : Nat) : (s.postArrival c e n).key = s.key := rfl
@[simp] theorem State.postArrival_live (s : State) (c e n : Nat) : (s.postArrival c e n).live = s.live := rfl
@[simp] theorem State.postArrival_ctx (s : State) (c e n : Nat) : (s.postArrival c e n).ctx = s.ctx := rfl
@[simp] theorem State.postArrival_parked (s : State) (c e n : Nat) : (s.postArrival c e n).parked = s.parked := rfl
@[simp] theorem State.postArrival_nextUid (s : State) (c e n : Nat) : (s.postArrival c e n).nextUid = s.nextUid := rfl
@[simp] theorem State.postArrival_saved (s : State) (c e n : Nat) : (s.postArrival c e n).saved = s.saved := rfl
@[simp] theorem State.postArrival_cores (s : State) (c e n : Nat) : (s.postArrival c e n).cores = s.cores := rfl
@[simp] theorem State.postArrival_wt (s : State) (c e n : Nat) : (s.postArrival c e n).wt = s.wt := rfl
@[simp] theorem State.postArrival_mem (s : State) (c e n : Nat) : (s.postArrival c e n).mem = s.mem := rfl
@[simp] theorem State.postArrival_fe (s : State) (c e n : Nat) : (s.postArrival c e n).fe = s.fe := rfl
@[simp] theorem State.postArrival_fmts (s : State) (c e n : Nat) : (s.postArrival c e n).fmts = s.fmts := rfl
@[simp] theorem State.postArrival_engines (s : State) (c e n : Nat) : (s.postArrival c e n).engines = s.engines := rfl
@[simp] theorem State.postArrival_sfu (s : State) (c e n : Nat) : (s.postArrival c e n).sfu = s.sfu := rfl
@[simp] theorem State.postArrival_channels (s : State) (c e n : Nat) : (s.postArrival c e n).channels = s.channels := rfl
@[simp] theorem State.postArrival_groups (s : State) (c e n : Nat) : (s.postArrival c e n).groups = s.groups := rfl
@[simp] theorem State.postArrival_runqs (s : State) (c e n : Nat) : (s.postArrival c e n).runqs = s.runqs := rfl
@[simp] theorem State.postArrival_pops (s : State) (c e n : Nat) : (s.postArrival c e n).pops = s.pops := rfl
@[simp] theorem State.postArrival_launches (s : State) (c e n : Nat) : (s.postArrival c e n).launches = s.launches := rfl
@[simp] theorem State.postArrival_nextLaunch (s : State) (c e n : Nat) : (s.postArrival c e n).nextLaunch = s.nextLaunch := rfl
@[simp] theorem State.postArrival_lateStatus (s : State) (c e n : Nat) : (s.postArrival c e n).lateStatus = s.lateStatus := rfl
@[simp] theorem State.postArrival_lateDoors (s : State) (c e n : Nat) : (s.postArrival c e n).lateDoors = s.lateDoors := rfl
@[simp] theorem State.postArrival_cfg (s : State) (c e n : Nat) : (s.postArrival c e n).cfg = s.cfg := rfl
@[simp] theorem State.postArrival_futures (s : State) (c e n : Nat) : (s.postArrival c e n).futures = s.futures := rfl
@[simp] theorem State.postArrival_index (s : State) (c e n : Nat) : (s.postArrival c e n).index = s.index := rfl
@[simp] theorem State.postArrival_stamp (s : State) (c e n : Nat) : (s.postArrival c e n).stamp = s.stamp := rfl
@[simp] theorem State.postArrival_cut (s : State) (c e n : Nat) : (s.postArrival c e n).cut = s.cut := rfl
@[simp] theorem State.postArrival_envFaults (s : State) (c e n : Nat) : (s.postArrival c e n).envFaults = s.envFaults := rfl
@[simp] theorem State.postArrival_freeBlocks (s : State) (c e n : Nat) : (s.postArrival c e n).freeBlocks = s.freeBlocks := rfl
@[simp] theorem State.postArrival_calls (s : State) (c e n : Nat) : (s.postArrival c e n).calls = s.calls := rfl
@[simp] theorem State.postArrival_held (s : State) (c e n : Nat) : (s.postArrival c e n).held = s.held := rfl
@[simp] theorem State.postArrival_harts (s : State) (c e n : Nat) : (s.postArrival c e n).harts = s.harts := rfl
@[simp] theorem State.postArrival_hartDue (s : State) (c e n : Nat) : (s.postArrival c e n).hartDue = s.hartDue := rfl
@[simp] theorem State.postArrival_hops (s : State) (c e n : Nat) : (s.postArrival c e n).hops = s.hops := rfl
@[simp] theorem State.postArrival_posted (s : State) (c e n : Nat) : (s.postArrival c e n).posted = s.posted := rfl
@[simp] theorem State.postArrival_reply (s : State) (c e n : Nat) : (s.postArrival c e n).reply = s.reply := rfl
@[simp] theorem State.postArrival_driveReply (s : State) (c e n : Nat) : (s.postArrival c e n).driveReply = s.driveReply := rfl
@[simp] theorem State.postArrival_resets (s : State) (c e n : Nat) : (s.postArrival c e n).resets = s.resets := rfl
@[simp] theorem State.postArrival_counters (s : State) (c e n : Nat) : (s.postArrival c e n).counters = s.counters := rfl
@[simp] theorem State.postArrival_dir (s : State) (c e n : Nat) : (s.postArrival c e n).dir = s.dir := rfl
@[simp] theorem State.postArrival_asks (s : State) (c e n : Nat) : (s.postArrival c e n).asks = s.asks := rfl
@[simp] theorem State.postArrival_flips (s : State) (c e n : Nat) : (s.postArrival c e n).flips = s.flips := rfl
@[simp] theorem State.postArrival_windows (s : State) (c e n : Nat) : (s.postArrival c e n).windows = s.windows := rfl
@[simp] theorem State.postArrival_hostHot (s : State) (c e n : Nat) : (s.postArrival c e n).hostHot = s.hostHot := rfl
@[simp] theorem State.postArrival_cellars (s : State) (c e n : Nat) : (s.postArrival c e n).cellars = s.cellars := rfl
@[simp] theorem State.postArrival_keys (s : State) (c e n : Nat) : (s.postArrival c e n).keys = s.keys := rfl
@[simp] theorem State.postArrival_roles (s : State) (c e n : Nat) : (s.postArrival c e n).roles = s.roles := rfl
@[simp] theorem State.postArrival_boot (s : State) (c e n : Nat) : (s.postArrival c e n).boot = s.boot := rfl
@[simp] theorem State.postArrival_incidents (s : State) (c e n : Nat) : (s.postArrival c e n).incidents = s.incidents := rfl
@[simp] theorem State.postArrival_bad (s : State) (c e n : Nat) : (s.postArrival c e n).bad = s.bad := rfl
@[simp] theorem State.postArrival_hartErrs (s : State) (c e n : Nat) : (s.postArrival c e n).hartErrs = s.hartErrs := rfl
@[simp] theorem State.postArrival_doubled (s : State) (c e n : Nat) : (s.postArrival c e n).doubled = s.doubled := rfl
@[simp] theorem State.postArrival_stamps (s : State) (c e n : Nat) : (s.postArrival c e n).stamps = s.stamps := rfl
@[simp] theorem State.postArrival_links (s : State) (c e n : Nat) : (s.postArrival c e n).links = s.links := rfl
@[simp] theorem State.postArrival_widths (s : State) (c e n : Nat) : (s.postArrival c e n).widths = s.widths := rfl
@[simp] theorem State.postArrival_lasting (s : State) (c e n : Nat) : (s.postArrival c e n).lasting = s.lasting := rfl
@[simp] theorem State.postArrival_retiredCores (s : State) (c e n : Nat) : (s.postArrival c e n).retiredCores = s.retiredCores := rfl
@[simp] theorem State.postArrival_retiredEngines (s : State) (c e n : Nat) : (s.postArrival c e n).retiredEngines = s.retiredEngines := rfl
@[simp] theorem State.postArrival_retiredHarts (s : State) (c e n : Nat) : (s.postArrival c e n).retiredHarts = s.retiredHarts := rfl
@[simp] theorem State.postArrival_power (s : State) (c e n : Nat) : (s.postArrival c e n).power = s.power := rfl

/-! ### setGroup -/

@[simp] theorem State.setGroup_now (s : State) (g : Nat) (v : Group) : (s.setGroup g v).now = s.now := rfl
@[simp] theorem State.setGroup_turn (s : State) (g : Nat) (v : Group) : (s.setGroup g v).turn = s.turn := rfl
@[simp] theorem State.setGroup_agenda (s : State) (g : Nat) (v : Group) : (s.setGroup g v).agenda = s.agenda := rfl
@[simp] theorem State.setGroup_delays (s : State) (g : Nat) (v : Group) : (s.setGroup g v).delays = s.delays := rfl
@[simp] theorem State.setGroup_freeN (s : State) (g : Nat) (v : Group) : (s.setGroup g v).freeN = s.freeN := rfl
@[simp] theorem State.setGroup_key (s : State) (g : Nat) (v : Group) : (s.setGroup g v).key = s.key := rfl
@[simp] theorem State.setGroup_live (s : State) (g : Nat) (v : Group) : (s.setGroup g v).live = s.live := rfl
@[simp] theorem State.setGroup_ctx (s : State) (g : Nat) (v : Group) : (s.setGroup g v).ctx = s.ctx := rfl
@[simp] theorem State.setGroup_parked (s : State) (g : Nat) (v : Group) : (s.setGroup g v).parked = s.parked := rfl
@[simp] theorem State.setGroup_nextUid (s : State) (g : Nat) (v : Group) : (s.setGroup g v).nextUid = s.nextUid := rfl
@[simp] theorem State.setGroup_saved (s : State) (g : Nat) (v : Group) : (s.setGroup g v).saved = s.saved := rfl
@[simp] theorem State.setGroup_cores (s : State) (g : Nat) (v : Group) : (s.setGroup g v).cores = s.cores := rfl
@[simp] theorem State.setGroup_wt (s : State) (g : Nat) (v : Group) : (s.setGroup g v).wt = s.wt := rfl
@[simp] theorem State.setGroup_arrivals (s : State) (g : Nat) (v : Group) : (s.setGroup g v).arrivals = s.arrivals := rfl
@[simp] theorem State.setGroup_mem (s : State) (g : Nat) (v : Group) : (s.setGroup g v).mem = s.mem := rfl
@[simp] theorem State.setGroup_fe (s : State) (g : Nat) (v : Group) : (s.setGroup g v).fe = s.fe := rfl
@[simp] theorem State.setGroup_fmts (s : State) (g : Nat) (v : Group) : (s.setGroup g v).fmts = s.fmts := rfl
@[simp] theorem State.setGroup_engines (s : State) (g : Nat) (v : Group) : (s.setGroup g v).engines = s.engines := rfl
@[simp] theorem State.setGroup_sfu (s : State) (g : Nat) (v : Group) : (s.setGroup g v).sfu = s.sfu := rfl
@[simp] theorem State.setGroup_channels (s : State) (g : Nat) (v : Group) : (s.setGroup g v).channels = s.channels := rfl
@[simp] theorem State.setGroup_groups (s : State) (g : Nat) (v : Group) : (s.setGroup g v).groups = mput s.groups g v := rfl
@[simp] theorem State.setGroup_runqs (s : State) (g : Nat) (v : Group) : (s.setGroup g v).runqs = s.runqs := rfl
@[simp] theorem State.setGroup_pops (s : State) (g : Nat) (v : Group) : (s.setGroup g v).pops = s.pops := rfl
@[simp] theorem State.setGroup_launches (s : State) (g : Nat) (v : Group) : (s.setGroup g v).launches = s.launches := rfl
@[simp] theorem State.setGroup_nextLaunch (s : State) (g : Nat) (v : Group) : (s.setGroup g v).nextLaunch = s.nextLaunch := rfl
@[simp] theorem State.setGroup_lateStatus (s : State) (g : Nat) (v : Group) : (s.setGroup g v).lateStatus = s.lateStatus := rfl
@[simp] theorem State.setGroup_lateDoors (s : State) (g : Nat) (v : Group) : (s.setGroup g v).lateDoors = s.lateDoors := rfl
@[simp] theorem State.setGroup_cfg (s : State) (g : Nat) (v : Group) : (s.setGroup g v).cfg = s.cfg := rfl
@[simp] theorem State.setGroup_futures (s : State) (g : Nat) (v : Group) : (s.setGroup g v).futures = s.futures := rfl
@[simp] theorem State.setGroup_index (s : State) (g : Nat) (v : Group) : (s.setGroup g v).index = s.index := rfl
@[simp] theorem State.setGroup_stamp (s : State) (g : Nat) (v : Group) : (s.setGroup g v).stamp = s.stamp := rfl
@[simp] theorem State.setGroup_cut (s : State) (g : Nat) (v : Group) : (s.setGroup g v).cut = s.cut := rfl
@[simp] theorem State.setGroup_envFaults (s : State) (g : Nat) (v : Group) : (s.setGroup g v).envFaults = s.envFaults := rfl
@[simp] theorem State.setGroup_freeBlocks (s : State) (g : Nat) (v : Group) : (s.setGroup g v).freeBlocks = s.freeBlocks := rfl
@[simp] theorem State.setGroup_calls (s : State) (g : Nat) (v : Group) : (s.setGroup g v).calls = s.calls := rfl
@[simp] theorem State.setGroup_held (s : State) (g : Nat) (v : Group) : (s.setGroup g v).held = s.held := rfl
@[simp] theorem State.setGroup_harts (s : State) (g : Nat) (v : Group) : (s.setGroup g v).harts = s.harts := rfl
@[simp] theorem State.setGroup_hartDue (s : State) (g : Nat) (v : Group) : (s.setGroup g v).hartDue = s.hartDue := rfl
@[simp] theorem State.setGroup_hops (s : State) (g : Nat) (v : Group) : (s.setGroup g v).hops = s.hops := rfl
@[simp] theorem State.setGroup_posted (s : State) (g : Nat) (v : Group) : (s.setGroup g v).posted = s.posted := rfl
@[simp] theorem State.setGroup_reply (s : State) (g : Nat) (v : Group) : (s.setGroup g v).reply = s.reply := rfl
@[simp] theorem State.setGroup_driveReply (s : State) (g : Nat) (v : Group) : (s.setGroup g v).driveReply = s.driveReply := rfl
@[simp] theorem State.setGroup_resets (s : State) (g : Nat) (v : Group) : (s.setGroup g v).resets = s.resets := rfl
@[simp] theorem State.setGroup_counters (s : State) (g : Nat) (v : Group) : (s.setGroup g v).counters = s.counters := rfl
@[simp] theorem State.setGroup_dir (s : State) (g : Nat) (v : Group) : (s.setGroup g v).dir = s.dir := rfl
@[simp] theorem State.setGroup_asks (s : State) (g : Nat) (v : Group) : (s.setGroup g v).asks = s.asks := rfl
@[simp] theorem State.setGroup_flips (s : State) (g : Nat) (v : Group) : (s.setGroup g v).flips = s.flips := rfl
@[simp] theorem State.setGroup_windows (s : State) (g : Nat) (v : Group) : (s.setGroup g v).windows = s.windows := rfl
@[simp] theorem State.setGroup_hostHot (s : State) (g : Nat) (v : Group) : (s.setGroup g v).hostHot = s.hostHot := rfl
@[simp] theorem State.setGroup_cellars (s : State) (g : Nat) (v : Group) : (s.setGroup g v).cellars = s.cellars := rfl
@[simp] theorem State.setGroup_keys (s : State) (g : Nat) (v : Group) : (s.setGroup g v).keys = s.keys := rfl
@[simp] theorem State.setGroup_roles (s : State) (g : Nat) (v : Group) : (s.setGroup g v).roles = s.roles := rfl
@[simp] theorem State.setGroup_boot (s : State) (g : Nat) (v : Group) : (s.setGroup g v).boot = s.boot := rfl
@[simp] theorem State.setGroup_incidents (s : State) (g : Nat) (v : Group) : (s.setGroup g v).incidents = s.incidents := rfl
@[simp] theorem State.setGroup_bad (s : State) (g : Nat) (v : Group) : (s.setGroup g v).bad = s.bad := rfl
@[simp] theorem State.setGroup_hartErrs (s : State) (g : Nat) (v : Group) : (s.setGroup g v).hartErrs = s.hartErrs := rfl
@[simp] theorem State.setGroup_doubled (s : State) (g : Nat) (v : Group) : (s.setGroup g v).doubled = s.doubled := rfl
@[simp] theorem State.setGroup_stamps (s : State) (g : Nat) (v : Group) : (s.setGroup g v).stamps = s.stamps := rfl
@[simp] theorem State.setGroup_links (s : State) (g : Nat) (v : Group) : (s.setGroup g v).links = s.links := rfl
@[simp] theorem State.setGroup_widths (s : State) (g : Nat) (v : Group) : (s.setGroup g v).widths = s.widths := rfl
@[simp] theorem State.setGroup_lasting (s : State) (g : Nat) (v : Group) : (s.setGroup g v).lasting = s.lasting := rfl
@[simp] theorem State.setGroup_retiredCores (s : State) (g : Nat) (v : Group) : (s.setGroup g v).retiredCores = s.retiredCores := rfl
@[simp] theorem State.setGroup_retiredEngines (s : State) (g : Nat) (v : Group) : (s.setGroup g v).retiredEngines = s.retiredEngines := rfl
@[simp] theorem State.setGroup_retiredHarts (s : State) (g : Nat) (v : Group) : (s.setGroup g v).retiredHarts = s.retiredHarts := rfl
@[simp] theorem State.setGroup_power (s : State) (g : Nat) (v : Group) : (s.setGroup g v).power = s.power := rfl

/-! ### setHart -/

@[simp] theorem State.setHart_now (s : State) (h : Nat) (t : Hart) : (s.setHart h t).now = s.now := rfl
@[simp] theorem State.setHart_turn (s : State) (h : Nat) (t : Hart) : (s.setHart h t).turn = s.turn := rfl
@[simp] theorem State.setHart_agenda (s : State) (h : Nat) (t : Hart) : (s.setHart h t).agenda = s.agenda := rfl
@[simp] theorem State.setHart_delays (s : State) (h : Nat) (t : Hart) : (s.setHart h t).delays = s.delays := rfl
@[simp] theorem State.setHart_freeN (s : State) (h : Nat) (t : Hart) : (s.setHart h t).freeN = s.freeN := rfl
@[simp] theorem State.setHart_key (s : State) (h : Nat) (t : Hart) : (s.setHart h t).key = s.key := rfl
@[simp] theorem State.setHart_live (s : State) (h : Nat) (t : Hart) : (s.setHart h t).live = s.live := rfl
@[simp] theorem State.setHart_ctx (s : State) (h : Nat) (t : Hart) : (s.setHart h t).ctx = s.ctx := rfl
@[simp] theorem State.setHart_parked (s : State) (h : Nat) (t : Hart) : (s.setHart h t).parked = s.parked := rfl
@[simp] theorem State.setHart_nextUid (s : State) (h : Nat) (t : Hart) : (s.setHart h t).nextUid = s.nextUid := rfl
@[simp] theorem State.setHart_saved (s : State) (h : Nat) (t : Hart) : (s.setHart h t).saved = s.saved := rfl
@[simp] theorem State.setHart_cores (s : State) (h : Nat) (t : Hart) : (s.setHart h t).cores = s.cores := rfl
@[simp] theorem State.setHart_wt (s : State) (h : Nat) (t : Hart) : (s.setHart h t).wt = s.wt := rfl
@[simp] theorem State.setHart_arrivals (s : State) (h : Nat) (t : Hart) : (s.setHart h t).arrivals = s.arrivals := rfl
@[simp] theorem State.setHart_mem (s : State) (h : Nat) (t : Hart) : (s.setHart h t).mem = s.mem := rfl
@[simp] theorem State.setHart_fe (s : State) (h : Nat) (t : Hart) : (s.setHart h t).fe = s.fe := rfl
@[simp] theorem State.setHart_fmts (s : State) (h : Nat) (t : Hart) : (s.setHart h t).fmts = s.fmts := rfl
@[simp] theorem State.setHart_engines (s : State) (h : Nat) (t : Hart) : (s.setHart h t).engines = s.engines := rfl
@[simp] theorem State.setHart_sfu (s : State) (h : Nat) (t : Hart) : (s.setHart h t).sfu = s.sfu := rfl
@[simp] theorem State.setHart_channels (s : State) (h : Nat) (t : Hart) : (s.setHart h t).channels = s.channels := rfl
@[simp] theorem State.setHart_groups (s : State) (h : Nat) (t : Hart) : (s.setHart h t).groups = s.groups := rfl
@[simp] theorem State.setHart_runqs (s : State) (h : Nat) (t : Hart) : (s.setHart h t).runqs = s.runqs := rfl
@[simp] theorem State.setHart_pops (s : State) (h : Nat) (t : Hart) : (s.setHart h t).pops = s.pops := rfl
@[simp] theorem State.setHart_launches (s : State) (h : Nat) (t : Hart) : (s.setHart h t).launches = s.launches := rfl
@[simp] theorem State.setHart_nextLaunch (s : State) (h : Nat) (t : Hart) : (s.setHart h t).nextLaunch = s.nextLaunch := rfl
@[simp] theorem State.setHart_lateStatus (s : State) (h : Nat) (t : Hart) : (s.setHart h t).lateStatus = s.lateStatus := rfl
@[simp] theorem State.setHart_lateDoors (s : State) (h : Nat) (t : Hart) : (s.setHart h t).lateDoors = s.lateDoors := rfl
@[simp] theorem State.setHart_cfg (s : State) (h : Nat) (t : Hart) : (s.setHart h t).cfg = s.cfg := rfl
@[simp] theorem State.setHart_futures (s : State) (h : Nat) (t : Hart) : (s.setHart h t).futures = s.futures := rfl
@[simp] theorem State.setHart_index (s : State) (h : Nat) (t : Hart) : (s.setHart h t).index = s.index := rfl
@[simp] theorem State.setHart_stamp (s : State) (h : Nat) (t : Hart) : (s.setHart h t).stamp = s.stamp := rfl
@[simp] theorem State.setHart_cut (s : State) (h : Nat) (t : Hart) : (s.setHart h t).cut = s.cut := rfl
@[simp] theorem State.setHart_envFaults (s : State) (h : Nat) (t : Hart) : (s.setHart h t).envFaults = s.envFaults := rfl
@[simp] theorem State.setHart_freeBlocks (s : State) (h : Nat) (t : Hart) : (s.setHart h t).freeBlocks = s.freeBlocks := rfl
@[simp] theorem State.setHart_calls (s : State) (h : Nat) (t : Hart) : (s.setHart h t).calls = s.calls := rfl
@[simp] theorem State.setHart_held (s : State) (h : Nat) (t : Hart) : (s.setHart h t).held = s.held := rfl
@[simp] theorem State.setHart_harts (s : State) (h : Nat) (t : Hart) : (s.setHart h t).harts = mput s.harts h t := rfl
@[simp] theorem State.setHart_hartDue (s : State) (h : Nat) (t : Hart) : (s.setHart h t).hartDue = s.hartDue := rfl
@[simp] theorem State.setHart_hops (s : State) (h : Nat) (t : Hart) : (s.setHart h t).hops = s.hops := rfl
@[simp] theorem State.setHart_posted (s : State) (h : Nat) (t : Hart) : (s.setHart h t).posted = s.posted := rfl
@[simp] theorem State.setHart_reply (s : State) (h : Nat) (t : Hart) : (s.setHart h t).reply = s.reply := rfl
@[simp] theorem State.setHart_driveReply (s : State) (h : Nat) (t : Hart) : (s.setHart h t).driveReply = s.driveReply := rfl
@[simp] theorem State.setHart_resets (s : State) (h : Nat) (t : Hart) : (s.setHart h t).resets = s.resets := rfl
@[simp] theorem State.setHart_counters (s : State) (h : Nat) (t : Hart) : (s.setHart h t).counters = s.counters := rfl
@[simp] theorem State.setHart_dir (s : State) (h : Nat) (t : Hart) : (s.setHart h t).dir = s.dir := rfl
@[simp] theorem State.setHart_asks (s : State) (h : Nat) (t : Hart) : (s.setHart h t).asks = s.asks := rfl
@[simp] theorem State.setHart_flips (s : State) (h : Nat) (t : Hart) : (s.setHart h t).flips = s.flips := rfl
@[simp] theorem State.setHart_windows (s : State) (h : Nat) (t : Hart) : (s.setHart h t).windows = s.windows := rfl
@[simp] theorem State.setHart_hostHot (s : State) (h : Nat) (t : Hart) : (s.setHart h t).hostHot = s.hostHot := rfl
@[simp] theorem State.setHart_cellars (s : State) (h : Nat) (t : Hart) : (s.setHart h t).cellars = s.cellars := rfl
@[simp] theorem State.setHart_keys (s : State) (h : Nat) (t : Hart) : (s.setHart h t).keys = s.keys := rfl
@[simp] theorem State.setHart_roles (s : State) (h : Nat) (t : Hart) : (s.setHart h t).roles = s.roles := rfl
@[simp] theorem State.setHart_boot (s : State) (h : Nat) (t : Hart) : (s.setHart h t).boot = s.boot := rfl
@[simp] theorem State.setHart_incidents (s : State) (h : Nat) (t : Hart) : (s.setHart h t).incidents = s.incidents := rfl
@[simp] theorem State.setHart_bad (s : State) (h : Nat) (t : Hart) : (s.setHart h t).bad = s.bad := rfl
@[simp] theorem State.setHart_hartErrs (s : State) (h : Nat) (t : Hart) : (s.setHart h t).hartErrs = s.hartErrs := rfl
@[simp] theorem State.setHart_doubled (s : State) (h : Nat) (t : Hart) : (s.setHart h t).doubled = s.doubled := rfl
@[simp] theorem State.setHart_stamps (s : State) (h : Nat) (t : Hart) : (s.setHart h t).stamps = s.stamps := rfl
@[simp] theorem State.setHart_links (s : State) (h : Nat) (t : Hart) : (s.setHart h t).links = s.links := rfl
@[simp] theorem State.setHart_widths (s : State) (h : Nat) (t : Hart) : (s.setHart h t).widths = s.widths := rfl
@[simp] theorem State.setHart_lasting (s : State) (h : Nat) (t : Hart) : (s.setHart h t).lasting = s.lasting := rfl
@[simp] theorem State.setHart_retiredCores (s : State) (h : Nat) (t : Hart) : (s.setHart h t).retiredCores = s.retiredCores := rfl
@[simp] theorem State.setHart_retiredEngines (s : State) (h : Nat) (t : Hart) : (s.setHart h t).retiredEngines = s.retiredEngines := rfl
@[simp] theorem State.setHart_retiredHarts (s : State) (h : Nat) (t : Hart) : (s.setHart h t).retiredHarts = s.retiredHarts := rfl
@[simp] theorem State.setHart_power (s : State) (h : Nat) (t : Hart) : (s.setHart h t).power = s.power := rfl

/-! ### cfgPut -/

@[simp] theorem State.cfgPut_now (s : State) (o : Nat) (bs : List Byte) : (s.cfgPut o bs).now = s.now := rfl
@[simp] theorem State.cfgPut_turn (s : State) (o : Nat) (bs : List Byte) : (s.cfgPut o bs).turn = s.turn := rfl
@[simp] theorem State.cfgPut_agenda (s : State) (o : Nat) (bs : List Byte) : (s.cfgPut o bs).agenda = s.agenda := rfl
@[simp] theorem State.cfgPut_delays (s : State) (o : Nat) (bs : List Byte) : (s.cfgPut o bs).delays = s.delays := rfl
@[simp] theorem State.cfgPut_freeN (s : State) (o : Nat) (bs : List Byte) : (s.cfgPut o bs).freeN = s.freeN := rfl
@[simp] theorem State.cfgPut_key (s : State) (o : Nat) (bs : List Byte) : (s.cfgPut o bs).key = s.key := rfl
@[simp] theorem State.cfgPut_live (s : State) (o : Nat) (bs : List Byte) : (s.cfgPut o bs).live = s.live := rfl
@[simp] theorem State.cfgPut_ctx (s : State) (o : Nat) (bs : List Byte) : (s.cfgPut o bs).ctx = s.ctx := rfl
@[simp] theorem State.cfgPut_parked (s : State) (o : Nat) (bs : List Byte) : (s.cfgPut o bs).parked = s.parked := rfl
@[simp] theorem State.cfgPut_nextUid (s : State) (o : Nat) (bs : List Byte) : (s.cfgPut o bs).nextUid = s.nextUid := rfl
@[simp] theorem State.cfgPut_saved (s : State) (o : Nat) (bs : List Byte) : (s.cfgPut o bs).saved = s.saved := rfl
@[simp] theorem State.cfgPut_cores (s : State) (o : Nat) (bs : List Byte) : (s.cfgPut o bs).cores = s.cores := rfl
@[simp] theorem State.cfgPut_wt (s : State) (o : Nat) (bs : List Byte) : (s.cfgPut o bs).wt = s.wt := rfl
@[simp] theorem State.cfgPut_arrivals (s : State) (o : Nat) (bs : List Byte) : (s.cfgPut o bs).arrivals = s.arrivals := rfl
@[simp] theorem State.cfgPut_mem (s : State) (o : Nat) (bs : List Byte) : (s.cfgPut o bs).mem = s.mem := rfl
@[simp] theorem State.cfgPut_fe (s : State) (o : Nat) (bs : List Byte) : (s.cfgPut o bs).fe = s.fe := rfl
@[simp] theorem State.cfgPut_fmts (s : State) (o : Nat) (bs : List Byte) : (s.cfgPut o bs).fmts = s.fmts := rfl
@[simp] theorem State.cfgPut_engines (s : State) (o : Nat) (bs : List Byte) : (s.cfgPut o bs).engines = s.engines := rfl
@[simp] theorem State.cfgPut_sfu (s : State) (o : Nat) (bs : List Byte) : (s.cfgPut o bs).sfu = s.sfu := rfl
@[simp] theorem State.cfgPut_channels (s : State) (o : Nat) (bs : List Byte) : (s.cfgPut o bs).channels = s.channels := rfl
@[simp] theorem State.cfgPut_groups (s : State) (o : Nat) (bs : List Byte) : (s.cfgPut o bs).groups = s.groups := rfl
@[simp] theorem State.cfgPut_runqs (s : State) (o : Nat) (bs : List Byte) : (s.cfgPut o bs).runqs = s.runqs := rfl
@[simp] theorem State.cfgPut_pops (s : State) (o : Nat) (bs : List Byte) : (s.cfgPut o bs).pops = s.pops := rfl
@[simp] theorem State.cfgPut_launches (s : State) (o : Nat) (bs : List Byte) : (s.cfgPut o bs).launches = s.launches := rfl
@[simp] theorem State.cfgPut_nextLaunch (s : State) (o : Nat) (bs : List Byte) : (s.cfgPut o bs).nextLaunch = s.nextLaunch := rfl
@[simp] theorem State.cfgPut_lateStatus (s : State) (o : Nat) (bs : List Byte) : (s.cfgPut o bs).lateStatus = s.lateStatus := rfl
@[simp] theorem State.cfgPut_lateDoors (s : State) (o : Nat) (bs : List Byte) : (s.cfgPut o bs).lateDoors = s.lateDoors := rfl
@[simp] theorem State.cfgPut_cfg (s : State) (o : Nat) (bs : List Byte) : (s.cfgPut o bs).cfg = s.cfg.writeBytes o bs := rfl
@[simp] theorem State.cfgPut_futures (s : State) (o : Nat) (bs : List Byte) : (s.cfgPut o bs).futures = s.futures := rfl
@[simp] theorem State.cfgPut_index (s : State) (o : Nat) (bs : List Byte) : (s.cfgPut o bs).index = s.index := rfl
@[simp] theorem State.cfgPut_stamp (s : State) (o : Nat) (bs : List Byte) : (s.cfgPut o bs).stamp = s.stamp := rfl
@[simp] theorem State.cfgPut_cut (s : State) (o : Nat) (bs : List Byte) : (s.cfgPut o bs).cut = s.cut := rfl
@[simp] theorem State.cfgPut_envFaults (s : State) (o : Nat) (bs : List Byte) : (s.cfgPut o bs).envFaults = s.envFaults := rfl
@[simp] theorem State.cfgPut_freeBlocks (s : State) (o : Nat) (bs : List Byte) : (s.cfgPut o bs).freeBlocks = s.freeBlocks := rfl
@[simp] theorem State.cfgPut_calls (s : State) (o : Nat) (bs : List Byte) : (s.cfgPut o bs).calls = s.calls := rfl
@[simp] theorem State.cfgPut_held (s : State) (o : Nat) (bs : List Byte) : (s.cfgPut o bs).held = s.held := rfl
@[simp] theorem State.cfgPut_harts (s : State) (o : Nat) (bs : List Byte) : (s.cfgPut o bs).harts = s.harts := rfl
@[simp] theorem State.cfgPut_hartDue (s : State) (o : Nat) (bs : List Byte) : (s.cfgPut o bs).hartDue = s.hartDue := rfl
@[simp] theorem State.cfgPut_hops (s : State) (o : Nat) (bs : List Byte) : (s.cfgPut o bs).hops = s.hops := rfl
@[simp] theorem State.cfgPut_posted (s : State) (o : Nat) (bs : List Byte) : (s.cfgPut o bs).posted = s.posted := rfl
@[simp] theorem State.cfgPut_reply (s : State) (o : Nat) (bs : List Byte) : (s.cfgPut o bs).reply = s.reply := rfl
@[simp] theorem State.cfgPut_driveReply (s : State) (o : Nat) (bs : List Byte) : (s.cfgPut o bs).driveReply = s.driveReply := rfl
@[simp] theorem State.cfgPut_resets (s : State) (o : Nat) (bs : List Byte) : (s.cfgPut o bs).resets = s.resets := rfl
@[simp] theorem State.cfgPut_counters (s : State) (o : Nat) (bs : List Byte) : (s.cfgPut o bs).counters = s.counters := rfl
@[simp] theorem State.cfgPut_dir (s : State) (o : Nat) (bs : List Byte) : (s.cfgPut o bs).dir = s.dir := rfl
@[simp] theorem State.cfgPut_asks (s : State) (o : Nat) (bs : List Byte) : (s.cfgPut o bs).asks = s.asks := rfl
@[simp] theorem State.cfgPut_flips (s : State) (o : Nat) (bs : List Byte) : (s.cfgPut o bs).flips = s.flips := rfl
@[simp] theorem State.cfgPut_windows (s : State) (o : Nat) (bs : List Byte) : (s.cfgPut o bs).windows = s.windows := rfl
@[simp] theorem State.cfgPut_hostHot (s : State) (o : Nat) (bs : List Byte) : (s.cfgPut o bs).hostHot = s.hostHot := rfl
@[simp] theorem State.cfgPut_cellars (s : State) (o : Nat) (bs : List Byte) : (s.cfgPut o bs).cellars = s.cellars := rfl
@[simp] theorem State.cfgPut_keys (s : State) (o : Nat) (bs : List Byte) : (s.cfgPut o bs).keys = s.keys := rfl
@[simp] theorem State.cfgPut_roles (s : State) (o : Nat) (bs : List Byte) : (s.cfgPut o bs).roles = s.roles := rfl
@[simp] theorem State.cfgPut_boot (s : State) (o : Nat) (bs : List Byte) : (s.cfgPut o bs).boot = s.boot := rfl
@[simp] theorem State.cfgPut_incidents (s : State) (o : Nat) (bs : List Byte) : (s.cfgPut o bs).incidents = s.incidents := rfl
@[simp] theorem State.cfgPut_bad (s : State) (o : Nat) (bs : List Byte) : (s.cfgPut o bs).bad = s.bad := rfl
@[simp] theorem State.cfgPut_hartErrs (s : State) (o : Nat) (bs : List Byte) : (s.cfgPut o bs).hartErrs = s.hartErrs := rfl
@[simp] theorem State.cfgPut_doubled (s : State) (o : Nat) (bs : List Byte) : (s.cfgPut o bs).doubled = s.doubled := rfl
@[simp] theorem State.cfgPut_stamps (s : State) (o : Nat) (bs : List Byte) : (s.cfgPut o bs).stamps = s.stamps := rfl
@[simp] theorem State.cfgPut_links (s : State) (o : Nat) (bs : List Byte) : (s.cfgPut o bs).links = s.links := rfl
@[simp] theorem State.cfgPut_widths (s : State) (o : Nat) (bs : List Byte) : (s.cfgPut o bs).widths = s.widths := rfl
@[simp] theorem State.cfgPut_lasting (s : State) (o : Nat) (bs : List Byte) : (s.cfgPut o bs).lasting = s.lasting := rfl
@[simp] theorem State.cfgPut_retiredCores (s : State) (o : Nat) (bs : List Byte) : (s.cfgPut o bs).retiredCores = s.retiredCores := rfl
@[simp] theorem State.cfgPut_retiredEngines (s : State) (o : Nat) (bs : List Byte) : (s.cfgPut o bs).retiredEngines = s.retiredEngines := rfl
@[simp] theorem State.cfgPut_retiredHarts (s : State) (o : Nat) (bs : List Byte) : (s.cfgPut o bs).retiredHarts = s.retiredHarts := rfl
@[simp] theorem State.cfgPut_power (s : State) (o : Nat) (bs : List Byte) : (s.cfgPut o bs).power = s.power := rfl

/-! ### updEngine -/

@[simp] theorem State.updEngine_now (s : State) (e : Nat) (f : Engine → Engine) : (s.updEngine e f).now = s.now := rfl
@[simp] theorem State.updEngine_turn (s : State) (e : Nat) (f : Engine → Engine) : (s.updEngine e f).turn = s.turn := rfl
@[simp] theorem State.updEngine_agenda (s : State) (e : Nat) (f : Engine → Engine) : (s.updEngine e f).agenda = s.agenda := rfl
@[simp] theorem State.updEngine_delays (s : State) (e : Nat) (f : Engine → Engine) : (s.updEngine e f).delays = s.delays := rfl
@[simp] theorem State.updEngine_freeN (s : State) (e : Nat) (f : Engine → Engine) : (s.updEngine e f).freeN = s.freeN := rfl
@[simp] theorem State.updEngine_key (s : State) (e : Nat) (f : Engine → Engine) : (s.updEngine e f).key = s.key := rfl
@[simp] theorem State.updEngine_live (s : State) (e : Nat) (f : Engine → Engine) : (s.updEngine e f).live = s.live := rfl
@[simp] theorem State.updEngine_ctx (s : State) (e : Nat) (f : Engine → Engine) : (s.updEngine e f).ctx = s.ctx := rfl
@[simp] theorem State.updEngine_parked (s : State) (e : Nat) (f : Engine → Engine) : (s.updEngine e f).parked = s.parked := rfl
@[simp] theorem State.updEngine_nextUid (s : State) (e : Nat) (f : Engine → Engine) : (s.updEngine e f).nextUid = s.nextUid := rfl
@[simp] theorem State.updEngine_saved (s : State) (e : Nat) (f : Engine → Engine) : (s.updEngine e f).saved = s.saved := rfl
@[simp] theorem State.updEngine_cores (s : State) (e : Nat) (f : Engine → Engine) : (s.updEngine e f).cores = s.cores := rfl
@[simp] theorem State.updEngine_wt (s : State) (e : Nat) (f : Engine → Engine) : (s.updEngine e f).wt = s.wt := rfl
@[simp] theorem State.updEngine_arrivals (s : State) (e : Nat) (f : Engine → Engine) : (s.updEngine e f).arrivals = s.arrivals := rfl
@[simp] theorem State.updEngine_mem (s : State) (e : Nat) (f : Engine → Engine) : (s.updEngine e f).mem = s.mem := rfl
@[simp] theorem State.updEngine_fe (s : State) (e : Nat) (f : Engine → Engine) : (s.updEngine e f).fe = s.fe := rfl
@[simp] theorem State.updEngine_fmts (s : State) (e : Nat) (f : Engine → Engine) : (s.updEngine e f).fmts = s.fmts := rfl
@[simp] theorem State.updEngine_engines (s : State) (e : Nat) (f : Engine → Engine) : (s.updEngine e f).engines = mupd s.engines e Engine.reset f := rfl
@[simp] theorem State.updEngine_sfu (s : State) (e : Nat) (f : Engine → Engine) : (s.updEngine e f).sfu = s.sfu := rfl
@[simp] theorem State.updEngine_channels (s : State) (e : Nat) (f : Engine → Engine) : (s.updEngine e f).channels = s.channels := rfl
@[simp] theorem State.updEngine_groups (s : State) (e : Nat) (f : Engine → Engine) : (s.updEngine e f).groups = s.groups := rfl
@[simp] theorem State.updEngine_runqs (s : State) (e : Nat) (f : Engine → Engine) : (s.updEngine e f).runqs = s.runqs := rfl
@[simp] theorem State.updEngine_pops (s : State) (e : Nat) (f : Engine → Engine) : (s.updEngine e f).pops = s.pops := rfl
@[simp] theorem State.updEngine_launches (s : State) (e : Nat) (f : Engine → Engine) : (s.updEngine e f).launches = s.launches := rfl
@[simp] theorem State.updEngine_nextLaunch (s : State) (e : Nat) (f : Engine → Engine) : (s.updEngine e f).nextLaunch = s.nextLaunch := rfl
@[simp] theorem State.updEngine_lateStatus (s : State) (e : Nat) (f : Engine → Engine) : (s.updEngine e f).lateStatus = s.lateStatus := rfl
@[simp] theorem State.updEngine_lateDoors (s : State) (e : Nat) (f : Engine → Engine) : (s.updEngine e f).lateDoors = s.lateDoors := rfl
@[simp] theorem State.updEngine_cfg (s : State) (e : Nat) (f : Engine → Engine) : (s.updEngine e f).cfg = s.cfg := rfl
@[simp] theorem State.updEngine_futures (s : State) (e : Nat) (f : Engine → Engine) : (s.updEngine e f).futures = s.futures := rfl
@[simp] theorem State.updEngine_index (s : State) (e : Nat) (f : Engine → Engine) : (s.updEngine e f).index = s.index := rfl
@[simp] theorem State.updEngine_stamp (s : State) (e : Nat) (f : Engine → Engine) : (s.updEngine e f).stamp = s.stamp := rfl
@[simp] theorem State.updEngine_cut (s : State) (e : Nat) (f : Engine → Engine) : (s.updEngine e f).cut = s.cut := rfl
@[simp] theorem State.updEngine_envFaults (s : State) (e : Nat) (f : Engine → Engine) : (s.updEngine e f).envFaults = s.envFaults := rfl
@[simp] theorem State.updEngine_freeBlocks (s : State) (e : Nat) (f : Engine → Engine) : (s.updEngine e f).freeBlocks = s.freeBlocks := rfl
@[simp] theorem State.updEngine_calls (s : State) (e : Nat) (f : Engine → Engine) : (s.updEngine e f).calls = s.calls := rfl
@[simp] theorem State.updEngine_held (s : State) (e : Nat) (f : Engine → Engine) : (s.updEngine e f).held = s.held := rfl
@[simp] theorem State.updEngine_harts (s : State) (e : Nat) (f : Engine → Engine) : (s.updEngine e f).harts = s.harts := rfl
@[simp] theorem State.updEngine_hartDue (s : State) (e : Nat) (f : Engine → Engine) : (s.updEngine e f).hartDue = s.hartDue := rfl
@[simp] theorem State.updEngine_hops (s : State) (e : Nat) (f : Engine → Engine) : (s.updEngine e f).hops = s.hops := rfl
@[simp] theorem State.updEngine_posted (s : State) (e : Nat) (f : Engine → Engine) : (s.updEngine e f).posted = s.posted := rfl
@[simp] theorem State.updEngine_reply (s : State) (e : Nat) (f : Engine → Engine) : (s.updEngine e f).reply = s.reply := rfl
@[simp] theorem State.updEngine_driveReply (s : State) (e : Nat) (f : Engine → Engine) : (s.updEngine e f).driveReply = s.driveReply := rfl
@[simp] theorem State.updEngine_resets (s : State) (e : Nat) (f : Engine → Engine) : (s.updEngine e f).resets = s.resets := rfl
@[simp] theorem State.updEngine_counters (s : State) (e : Nat) (f : Engine → Engine) : (s.updEngine e f).counters = s.counters := rfl
@[simp] theorem State.updEngine_dir (s : State) (e : Nat) (f : Engine → Engine) : (s.updEngine e f).dir = s.dir := rfl
@[simp] theorem State.updEngine_asks (s : State) (e : Nat) (f : Engine → Engine) : (s.updEngine e f).asks = s.asks := rfl
@[simp] theorem State.updEngine_flips (s : State) (e : Nat) (f : Engine → Engine) : (s.updEngine e f).flips = s.flips := rfl
@[simp] theorem State.updEngine_windows (s : State) (e : Nat) (f : Engine → Engine) : (s.updEngine e f).windows = s.windows := rfl
@[simp] theorem State.updEngine_hostHot (s : State) (e : Nat) (f : Engine → Engine) : (s.updEngine e f).hostHot = s.hostHot := rfl
@[simp] theorem State.updEngine_cellars (s : State) (e : Nat) (f : Engine → Engine) : (s.updEngine e f).cellars = s.cellars := rfl
@[simp] theorem State.updEngine_keys (s : State) (e : Nat) (f : Engine → Engine) : (s.updEngine e f).keys = s.keys := rfl
@[simp] theorem State.updEngine_roles (s : State) (e : Nat) (f : Engine → Engine) : (s.updEngine e f).roles = s.roles := rfl
@[simp] theorem State.updEngine_boot (s : State) (e : Nat) (f : Engine → Engine) : (s.updEngine e f).boot = s.boot := rfl
@[simp] theorem State.updEngine_incidents (s : State) (e : Nat) (f : Engine → Engine) : (s.updEngine e f).incidents = s.incidents := rfl
@[simp] theorem State.updEngine_bad (s : State) (e : Nat) (f : Engine → Engine) : (s.updEngine e f).bad = s.bad := rfl
@[simp] theorem State.updEngine_hartErrs (s : State) (e : Nat) (f : Engine → Engine) : (s.updEngine e f).hartErrs = s.hartErrs := rfl
@[simp] theorem State.updEngine_doubled (s : State) (e : Nat) (f : Engine → Engine) : (s.updEngine e f).doubled = s.doubled := rfl
@[simp] theorem State.updEngine_stamps (s : State) (e : Nat) (f : Engine → Engine) : (s.updEngine e f).stamps = s.stamps := rfl
@[simp] theorem State.updEngine_links (s : State) (e : Nat) (f : Engine → Engine) : (s.updEngine e f).links = s.links := rfl
@[simp] theorem State.updEngine_widths (s : State) (e : Nat) (f : Engine → Engine) : (s.updEngine e f).widths = s.widths := rfl
@[simp] theorem State.updEngine_lasting (s : State) (e : Nat) (f : Engine → Engine) : (s.updEngine e f).lasting = s.lasting := rfl
@[simp] theorem State.updEngine_retiredCores (s : State) (e : Nat) (f : Engine → Engine) : (s.updEngine e f).retiredCores = s.retiredCores := rfl
@[simp] theorem State.updEngine_retiredEngines (s : State) (e : Nat) (f : Engine → Engine) : (s.updEngine e f).retiredEngines = s.retiredEngines := rfl
@[simp] theorem State.updEngine_retiredHarts (s : State) (e : Nat) (f : Engine → Engine) : (s.updEngine e f).retiredHarts = s.retiredHarts := rfl
@[simp] theorem State.updEngine_power (s : State) (e : Nat) (f : Engine → Engine) : (s.updEngine e f).power = s.power := rfl

/-! ### setChannel -/

@[simp] theorem State.setChannel_now (s : State) (k : Nat) (c : Channel) : (s.setChannel k c).now = s.now := rfl
@[simp] theorem State.setChannel_turn (s : State) (k : Nat) (c : Channel) : (s.setChannel k c).turn = s.turn := rfl
@[simp] theorem State.setChannel_agenda (s : State) (k : Nat) (c : Channel) : (s.setChannel k c).agenda = s.agenda := rfl
@[simp] theorem State.setChannel_delays (s : State) (k : Nat) (c : Channel) : (s.setChannel k c).delays = s.delays := rfl
@[simp] theorem State.setChannel_freeN (s : State) (k : Nat) (c : Channel) : (s.setChannel k c).freeN = s.freeN := rfl
@[simp] theorem State.setChannel_key (s : State) (k : Nat) (c : Channel) : (s.setChannel k c).key = s.key := rfl
@[simp] theorem State.setChannel_live (s : State) (k : Nat) (c : Channel) : (s.setChannel k c).live = s.live := rfl
@[simp] theorem State.setChannel_ctx (s : State) (k : Nat) (c : Channel) : (s.setChannel k c).ctx = s.ctx := rfl
@[simp] theorem State.setChannel_parked (s : State) (k : Nat) (c : Channel) : (s.setChannel k c).parked = s.parked := rfl
@[simp] theorem State.setChannel_nextUid (s : State) (k : Nat) (c : Channel) : (s.setChannel k c).nextUid = s.nextUid := rfl
@[simp] theorem State.setChannel_saved (s : State) (k : Nat) (c : Channel) : (s.setChannel k c).saved = s.saved := rfl
@[simp] theorem State.setChannel_cores (s : State) (k : Nat) (c : Channel) : (s.setChannel k c).cores = s.cores := rfl
@[simp] theorem State.setChannel_wt (s : State) (k : Nat) (c : Channel) : (s.setChannel k c).wt = s.wt := rfl
@[simp] theorem State.setChannel_arrivals (s : State) (k : Nat) (c : Channel) : (s.setChannel k c).arrivals = s.arrivals := rfl
@[simp] theorem State.setChannel_mem (s : State) (k : Nat) (c : Channel) : (s.setChannel k c).mem = s.mem := rfl
@[simp] theorem State.setChannel_fe (s : State) (k : Nat) (c : Channel) : (s.setChannel k c).fe = s.fe := rfl
@[simp] theorem State.setChannel_fmts (s : State) (k : Nat) (c : Channel) : (s.setChannel k c).fmts = s.fmts := rfl
@[simp] theorem State.setChannel_engines (s : State) (k : Nat) (c : Channel) : (s.setChannel k c).engines = s.engines := rfl
@[simp] theorem State.setChannel_sfu (s : State) (k : Nat) (c : Channel) : (s.setChannel k c).sfu = s.sfu := rfl
@[simp] theorem State.setChannel_channels (s : State) (k : Nat) (c : Channel) : (s.setChannel k c).channels = mput s.channels k c := rfl
@[simp] theorem State.setChannel_groups (s : State) (k : Nat) (c : Channel) : (s.setChannel k c).groups = s.groups := rfl
@[simp] theorem State.setChannel_runqs (s : State) (k : Nat) (c : Channel) : (s.setChannel k c).runqs = s.runqs := rfl
@[simp] theorem State.setChannel_pops (s : State) (k : Nat) (c : Channel) : (s.setChannel k c).pops = s.pops := rfl
@[simp] theorem State.setChannel_launches (s : State) (k : Nat) (c : Channel) : (s.setChannel k c).launches = s.launches := rfl
@[simp] theorem State.setChannel_nextLaunch (s : State) (k : Nat) (c : Channel) : (s.setChannel k c).nextLaunch = s.nextLaunch := rfl
@[simp] theorem State.setChannel_lateStatus (s : State) (k : Nat) (c : Channel) : (s.setChannel k c).lateStatus = s.lateStatus := rfl
@[simp] theorem State.setChannel_lateDoors (s : State) (k : Nat) (c : Channel) : (s.setChannel k c).lateDoors = s.lateDoors := rfl
@[simp] theorem State.setChannel_cfg (s : State) (k : Nat) (c : Channel) : (s.setChannel k c).cfg = s.cfg := rfl
@[simp] theorem State.setChannel_futures (s : State) (k : Nat) (c : Channel) : (s.setChannel k c).futures = s.futures := rfl
@[simp] theorem State.setChannel_index (s : State) (k : Nat) (c : Channel) : (s.setChannel k c).index = s.index := rfl
@[simp] theorem State.setChannel_stamp (s : State) (k : Nat) (c : Channel) : (s.setChannel k c).stamp = s.stamp := rfl
@[simp] theorem State.setChannel_cut (s : State) (k : Nat) (c : Channel) : (s.setChannel k c).cut = s.cut := rfl
@[simp] theorem State.setChannel_envFaults (s : State) (k : Nat) (c : Channel) : (s.setChannel k c).envFaults = s.envFaults := rfl
@[simp] theorem State.setChannel_freeBlocks (s : State) (k : Nat) (c : Channel) : (s.setChannel k c).freeBlocks = s.freeBlocks := rfl
@[simp] theorem State.setChannel_calls (s : State) (k : Nat) (c : Channel) : (s.setChannel k c).calls = s.calls := rfl
@[simp] theorem State.setChannel_held (s : State) (k : Nat) (c : Channel) : (s.setChannel k c).held = s.held := rfl
@[simp] theorem State.setChannel_harts (s : State) (k : Nat) (c : Channel) : (s.setChannel k c).harts = s.harts := rfl
@[simp] theorem State.setChannel_hartDue (s : State) (k : Nat) (c : Channel) : (s.setChannel k c).hartDue = s.hartDue := rfl
@[simp] theorem State.setChannel_hops (s : State) (k : Nat) (c : Channel) : (s.setChannel k c).hops = s.hops := rfl
@[simp] theorem State.setChannel_posted (s : State) (k : Nat) (c : Channel) : (s.setChannel k c).posted = s.posted := rfl
@[simp] theorem State.setChannel_reply (s : State) (k : Nat) (c : Channel) : (s.setChannel k c).reply = s.reply := rfl
@[simp] theorem State.setChannel_driveReply (s : State) (k : Nat) (c : Channel) : (s.setChannel k c).driveReply = s.driveReply := rfl
@[simp] theorem State.setChannel_resets (s : State) (k : Nat) (c : Channel) : (s.setChannel k c).resets = s.resets := rfl
@[simp] theorem State.setChannel_counters (s : State) (k : Nat) (c : Channel) : (s.setChannel k c).counters = s.counters := rfl
@[simp] theorem State.setChannel_dir (s : State) (k : Nat) (c : Channel) : (s.setChannel k c).dir = s.dir := rfl
@[simp] theorem State.setChannel_asks (s : State) (k : Nat) (c : Channel) : (s.setChannel k c).asks = s.asks := rfl
@[simp] theorem State.setChannel_flips (s : State) (k : Nat) (c : Channel) : (s.setChannel k c).flips = s.flips := rfl
@[simp] theorem State.setChannel_windows (s : State) (k : Nat) (c : Channel) : (s.setChannel k c).windows = s.windows := rfl
@[simp] theorem State.setChannel_hostHot (s : State) (k : Nat) (c : Channel) : (s.setChannel k c).hostHot = s.hostHot := rfl
@[simp] theorem State.setChannel_cellars (s : State) (k : Nat) (c : Channel) : (s.setChannel k c).cellars = s.cellars := rfl
@[simp] theorem State.setChannel_keys (s : State) (k : Nat) (c : Channel) : (s.setChannel k c).keys = s.keys := rfl
@[simp] theorem State.setChannel_roles (s : State) (k : Nat) (c : Channel) : (s.setChannel k c).roles = s.roles := rfl
@[simp] theorem State.setChannel_boot (s : State) (k : Nat) (c : Channel) : (s.setChannel k c).boot = s.boot := rfl
@[simp] theorem State.setChannel_incidents (s : State) (k : Nat) (c : Channel) : (s.setChannel k c).incidents = s.incidents := rfl
@[simp] theorem State.setChannel_bad (s : State) (k : Nat) (c : Channel) : (s.setChannel k c).bad = s.bad := rfl
@[simp] theorem State.setChannel_hartErrs (s : State) (k : Nat) (c : Channel) : (s.setChannel k c).hartErrs = s.hartErrs := rfl
@[simp] theorem State.setChannel_doubled (s : State) (k : Nat) (c : Channel) : (s.setChannel k c).doubled = s.doubled := rfl
@[simp] theorem State.setChannel_stamps (s : State) (k : Nat) (c : Channel) : (s.setChannel k c).stamps = s.stamps := rfl
@[simp] theorem State.setChannel_links (s : State) (k : Nat) (c : Channel) : (s.setChannel k c).links = s.links := rfl
@[simp] theorem State.setChannel_widths (s : State) (k : Nat) (c : Channel) : (s.setChannel k c).widths = s.widths := rfl
@[simp] theorem State.setChannel_lasting (s : State) (k : Nat) (c : Channel) : (s.setChannel k c).lasting = s.lasting := rfl
@[simp] theorem State.setChannel_retiredCores (s : State) (k : Nat) (c : Channel) : (s.setChannel k c).retiredCores = s.retiredCores := rfl
@[simp] theorem State.setChannel_retiredEngines (s : State) (k : Nat) (c : Channel) : (s.setChannel k c).retiredEngines = s.retiredEngines := rfl
@[simp] theorem State.setChannel_retiredHarts (s : State) (k : Nat) (c : Channel) : (s.setChannel k c).retiredHarts = s.retiredHarts := rfl
@[simp] theorem State.setChannel_power (s : State) (k : Nat) (c : Channel) : (s.setChannel k c).power = s.power := rfl

/-! ### setFuture -/

@[simp] theorem State.setFuture_now (s : State) (i : Nat) (f : Future) : (s.setFuture i f).now = s.now := rfl
@[simp] theorem State.setFuture_turn (s : State) (i : Nat) (f : Future) : (s.setFuture i f).turn = s.turn := rfl
@[simp] theorem State.setFuture_agenda (s : State) (i : Nat) (f : Future) : (s.setFuture i f).agenda = s.agenda := rfl
@[simp] theorem State.setFuture_delays (s : State) (i : Nat) (f : Future) : (s.setFuture i f).delays = s.delays := rfl
@[simp] theorem State.setFuture_freeN (s : State) (i : Nat) (f : Future) : (s.setFuture i f).freeN = s.freeN := rfl
@[simp] theorem State.setFuture_key (s : State) (i : Nat) (f : Future) : (s.setFuture i f).key = s.key := rfl
@[simp] theorem State.setFuture_live (s : State) (i : Nat) (f : Future) : (s.setFuture i f).live = s.live := rfl
@[simp] theorem State.setFuture_ctx (s : State) (i : Nat) (f : Future) : (s.setFuture i f).ctx = s.ctx := rfl
@[simp] theorem State.setFuture_parked (s : State) (i : Nat) (f : Future) : (s.setFuture i f).parked = s.parked := rfl
@[simp] theorem State.setFuture_nextUid (s : State) (i : Nat) (f : Future) : (s.setFuture i f).nextUid = s.nextUid := rfl
@[simp] theorem State.setFuture_saved (s : State) (i : Nat) (f : Future) : (s.setFuture i f).saved = s.saved := rfl
@[simp] theorem State.setFuture_cores (s : State) (i : Nat) (f : Future) : (s.setFuture i f).cores = s.cores := rfl
@[simp] theorem State.setFuture_wt (s : State) (i : Nat) (f : Future) : (s.setFuture i f).wt = s.wt := rfl
@[simp] theorem State.setFuture_arrivals (s : State) (i : Nat) (f : Future) : (s.setFuture i f).arrivals = s.arrivals := rfl
@[simp] theorem State.setFuture_mem (s : State) (i : Nat) (f : Future) : (s.setFuture i f).mem = s.mem := rfl
@[simp] theorem State.setFuture_fe (s : State) (i : Nat) (f : Future) : (s.setFuture i f).fe = s.fe := rfl
@[simp] theorem State.setFuture_fmts (s : State) (i : Nat) (f : Future) : (s.setFuture i f).fmts = s.fmts := rfl
@[simp] theorem State.setFuture_engines (s : State) (i : Nat) (f : Future) : (s.setFuture i f).engines = s.engines := rfl
@[simp] theorem State.setFuture_sfu (s : State) (i : Nat) (f : Future) : (s.setFuture i f).sfu = s.sfu := rfl
@[simp] theorem State.setFuture_channels (s : State) (i : Nat) (f : Future) : (s.setFuture i f).channels = s.channels := rfl
@[simp] theorem State.setFuture_groups (s : State) (i : Nat) (f : Future) : (s.setFuture i f).groups = s.groups := rfl
@[simp] theorem State.setFuture_runqs (s : State) (i : Nat) (f : Future) : (s.setFuture i f).runqs = s.runqs := rfl
@[simp] theorem State.setFuture_pops (s : State) (i : Nat) (f : Future) : (s.setFuture i f).pops = s.pops := rfl
@[simp] theorem State.setFuture_launches (s : State) (i : Nat) (f : Future) : (s.setFuture i f).launches = s.launches := rfl
@[simp] theorem State.setFuture_nextLaunch (s : State) (i : Nat) (f : Future) : (s.setFuture i f).nextLaunch = s.nextLaunch := rfl
@[simp] theorem State.setFuture_lateStatus (s : State) (i : Nat) (f : Future) : (s.setFuture i f).lateStatus = s.lateStatus := rfl
@[simp] theorem State.setFuture_lateDoors (s : State) (i : Nat) (f : Future) : (s.setFuture i f).lateDoors = s.lateDoors := rfl
@[simp] theorem State.setFuture_cfg (s : State) (i : Nat) (f : Future) : (s.setFuture i f).cfg = s.cfg := rfl
@[simp] theorem State.setFuture_futures (s : State) (i : Nat) (f : Future) : (s.setFuture i f).futures = mput s.futures i f := rfl
@[simp] theorem State.setFuture_index (s : State) (i : Nat) (f : Future) : (s.setFuture i f).index = s.index := rfl
@[simp] theorem State.setFuture_stamp (s : State) (i : Nat) (f : Future) : (s.setFuture i f).stamp = s.stamp := rfl
@[simp] theorem State.setFuture_cut (s : State) (i : Nat) (f : Future) : (s.setFuture i f).cut = s.cut := rfl
@[simp] theorem State.setFuture_envFaults (s : State) (i : Nat) (f : Future) : (s.setFuture i f).envFaults = s.envFaults := rfl
@[simp] theorem State.setFuture_freeBlocks (s : State) (i : Nat) (f : Future) : (s.setFuture i f).freeBlocks = s.freeBlocks := rfl
@[simp] theorem State.setFuture_calls (s : State) (i : Nat) (f : Future) : (s.setFuture i f).calls = s.calls := rfl
@[simp] theorem State.setFuture_held (s : State) (i : Nat) (f : Future) : (s.setFuture i f).held = s.held := rfl
@[simp] theorem State.setFuture_harts (s : State) (i : Nat) (f : Future) : (s.setFuture i f).harts = s.harts := rfl
@[simp] theorem State.setFuture_hartDue (s : State) (i : Nat) (f : Future) : (s.setFuture i f).hartDue = s.hartDue := rfl
@[simp] theorem State.setFuture_hops (s : State) (i : Nat) (f : Future) : (s.setFuture i f).hops = s.hops := rfl
@[simp] theorem State.setFuture_posted (s : State) (i : Nat) (f : Future) : (s.setFuture i f).posted = s.posted := rfl
@[simp] theorem State.setFuture_reply (s : State) (i : Nat) (f : Future) : (s.setFuture i f).reply = s.reply := rfl
@[simp] theorem State.setFuture_driveReply (s : State) (i : Nat) (f : Future) : (s.setFuture i f).driveReply = s.driveReply := rfl
@[simp] theorem State.setFuture_resets (s : State) (i : Nat) (f : Future) : (s.setFuture i f).resets = s.resets := rfl
@[simp] theorem State.setFuture_counters (s : State) (i : Nat) (f : Future) : (s.setFuture i f).counters = s.counters := rfl
@[simp] theorem State.setFuture_dir (s : State) (i : Nat) (f : Future) : (s.setFuture i f).dir = s.dir := rfl
@[simp] theorem State.setFuture_asks (s : State) (i : Nat) (f : Future) : (s.setFuture i f).asks = s.asks := rfl
@[simp] theorem State.setFuture_flips (s : State) (i : Nat) (f : Future) : (s.setFuture i f).flips = s.flips := rfl
@[simp] theorem State.setFuture_windows (s : State) (i : Nat) (f : Future) : (s.setFuture i f).windows = s.windows := rfl
@[simp] theorem State.setFuture_hostHot (s : State) (i : Nat) (f : Future) : (s.setFuture i f).hostHot = s.hostHot := rfl
@[simp] theorem State.setFuture_cellars (s : State) (i : Nat) (f : Future) : (s.setFuture i f).cellars = s.cellars := rfl
@[simp] theorem State.setFuture_keys (s : State) (i : Nat) (f : Future) : (s.setFuture i f).keys = s.keys := rfl
@[simp] theorem State.setFuture_roles (s : State) (i : Nat) (f : Future) : (s.setFuture i f).roles = s.roles := rfl
@[simp] theorem State.setFuture_boot (s : State) (i : Nat) (f : Future) : (s.setFuture i f).boot = s.boot := rfl
@[simp] theorem State.setFuture_incidents (s : State) (i : Nat) (f : Future) : (s.setFuture i f).incidents = s.incidents := rfl
@[simp] theorem State.setFuture_bad (s : State) (i : Nat) (f : Future) : (s.setFuture i f).bad = s.bad := rfl
@[simp] theorem State.setFuture_hartErrs (s : State) (i : Nat) (f : Future) : (s.setFuture i f).hartErrs = s.hartErrs := rfl
@[simp] theorem State.setFuture_doubled (s : State) (i : Nat) (f : Future) : (s.setFuture i f).doubled = s.doubled := rfl
@[simp] theorem State.setFuture_stamps (s : State) (i : Nat) (f : Future) : (s.setFuture i f).stamps = s.stamps := rfl
@[simp] theorem State.setFuture_links (s : State) (i : Nat) (f : Future) : (s.setFuture i f).links = s.links := rfl
@[simp] theorem State.setFuture_widths (s : State) (i : Nat) (f : Future) : (s.setFuture i f).widths = s.widths := rfl
@[simp] theorem State.setFuture_lasting (s : State) (i : Nat) (f : Future) : (s.setFuture i f).lasting = s.lasting := rfl
@[simp] theorem State.setFuture_retiredCores (s : State) (i : Nat) (f : Future) : (s.setFuture i f).retiredCores = s.retiredCores := rfl
@[simp] theorem State.setFuture_retiredEngines (s : State) (i : Nat) (f : Future) : (s.setFuture i f).retiredEngines = s.retiredEngines := rfl
@[simp] theorem State.setFuture_retiredHarts (s : State) (i : Nat) (f : Future) : (s.setFuture i f).retiredHarts = s.retiredHarts := rfl
@[simp] theorem State.setFuture_power (s : State) (i : Nat) (f : Future) : (s.setFuture i f).power = s.power := rfl

/-! ### setPx -/

@[simp] theorem State.setPx_now (s : State) (i : Nat) (e : Prefix) : (s.setPx i e).now = s.now := rfl
@[simp] theorem State.setPx_turn (s : State) (i : Nat) (e : Prefix) : (s.setPx i e).turn = s.turn := rfl
@[simp] theorem State.setPx_agenda (s : State) (i : Nat) (e : Prefix) : (s.setPx i e).agenda = s.agenda := rfl
@[simp] theorem State.setPx_delays (s : State) (i : Nat) (e : Prefix) : (s.setPx i e).delays = s.delays := rfl
@[simp] theorem State.setPx_freeN (s : State) (i : Nat) (e : Prefix) : (s.setPx i e).freeN = s.freeN := rfl
@[simp] theorem State.setPx_key (s : State) (i : Nat) (e : Prefix) : (s.setPx i e).key = s.key := rfl
@[simp] theorem State.setPx_live (s : State) (i : Nat) (e : Prefix) : (s.setPx i e).live = s.live := rfl
@[simp] theorem State.setPx_ctx (s : State) (i : Nat) (e : Prefix) : (s.setPx i e).ctx = s.ctx := rfl
@[simp] theorem State.setPx_parked (s : State) (i : Nat) (e : Prefix) : (s.setPx i e).parked = s.parked := rfl
@[simp] theorem State.setPx_nextUid (s : State) (i : Nat) (e : Prefix) : (s.setPx i e).nextUid = s.nextUid := rfl
@[simp] theorem State.setPx_saved (s : State) (i : Nat) (e : Prefix) : (s.setPx i e).saved = s.saved := rfl
@[simp] theorem State.setPx_cores (s : State) (i : Nat) (e : Prefix) : (s.setPx i e).cores = s.cores := rfl
@[simp] theorem State.setPx_wt (s : State) (i : Nat) (e : Prefix) : (s.setPx i e).wt = s.wt := rfl
@[simp] theorem State.setPx_arrivals (s : State) (i : Nat) (e : Prefix) : (s.setPx i e).arrivals = s.arrivals := rfl
@[simp] theorem State.setPx_mem (s : State) (i : Nat) (e : Prefix) : (s.setPx i e).mem = s.mem := rfl
@[simp] theorem State.setPx_fe (s : State) (i : Nat) (e : Prefix) : (s.setPx i e).fe = s.fe := rfl
@[simp] theorem State.setPx_fmts (s : State) (i : Nat) (e : Prefix) : (s.setPx i e).fmts = s.fmts := rfl
@[simp] theorem State.setPx_engines (s : State) (i : Nat) (e : Prefix) : (s.setPx i e).engines = s.engines := rfl
@[simp] theorem State.setPx_sfu (s : State) (i : Nat) (e : Prefix) : (s.setPx i e).sfu = s.sfu := rfl
@[simp] theorem State.setPx_channels (s : State) (i : Nat) (e : Prefix) : (s.setPx i e).channels = s.channels := rfl
@[simp] theorem State.setPx_groups (s : State) (i : Nat) (e : Prefix) : (s.setPx i e).groups = s.groups := rfl
@[simp] theorem State.setPx_runqs (s : State) (i : Nat) (e : Prefix) : (s.setPx i e).runqs = s.runqs := rfl
@[simp] theorem State.setPx_pops (s : State) (i : Nat) (e : Prefix) : (s.setPx i e).pops = s.pops := rfl
@[simp] theorem State.setPx_launches (s : State) (i : Nat) (e : Prefix) : (s.setPx i e).launches = s.launches := rfl
@[simp] theorem State.setPx_nextLaunch (s : State) (i : Nat) (e : Prefix) : (s.setPx i e).nextLaunch = s.nextLaunch := rfl
@[simp] theorem State.setPx_lateStatus (s : State) (i : Nat) (e : Prefix) : (s.setPx i e).lateStatus = s.lateStatus := rfl
@[simp] theorem State.setPx_lateDoors (s : State) (i : Nat) (e : Prefix) : (s.setPx i e).lateDoors = s.lateDoors := rfl
@[simp] theorem State.setPx_cfg (s : State) (i : Nat) (e : Prefix) : (s.setPx i e).cfg = s.cfg := rfl
@[simp] theorem State.setPx_futures (s : State) (i : Nat) (e : Prefix) : (s.setPx i e).futures = s.futures := rfl
@[simp] theorem State.setPx_index (s : State) (i : Nat) (e : Prefix) : (s.setPx i e).index = mput s.index i e := rfl
@[simp] theorem State.setPx_stamp (s : State) (i : Nat) (e : Prefix) : (s.setPx i e).stamp = s.stamp := rfl
@[simp] theorem State.setPx_cut (s : State) (i : Nat) (e : Prefix) : (s.setPx i e).cut = s.cut := rfl
@[simp] theorem State.setPx_envFaults (s : State) (i : Nat) (e : Prefix) : (s.setPx i e).envFaults = s.envFaults := rfl
@[simp] theorem State.setPx_freeBlocks (s : State) (i : Nat) (e : Prefix) : (s.setPx i e).freeBlocks = s.freeBlocks := rfl
@[simp] theorem State.setPx_calls (s : State) (i : Nat) (e : Prefix) : (s.setPx i e).calls = s.calls := rfl
@[simp] theorem State.setPx_held (s : State) (i : Nat) (e : Prefix) : (s.setPx i e).held = s.held := rfl
@[simp] theorem State.setPx_harts (s : State) (i : Nat) (e : Prefix) : (s.setPx i e).harts = s.harts := rfl
@[simp] theorem State.setPx_hartDue (s : State) (i : Nat) (e : Prefix) : (s.setPx i e).hartDue = s.hartDue := rfl
@[simp] theorem State.setPx_hops (s : State) (i : Nat) (e : Prefix) : (s.setPx i e).hops = s.hops := rfl
@[simp] theorem State.setPx_posted (s : State) (i : Nat) (e : Prefix) : (s.setPx i e).posted = s.posted := rfl
@[simp] theorem State.setPx_reply (s : State) (i : Nat) (e : Prefix) : (s.setPx i e).reply = s.reply := rfl
@[simp] theorem State.setPx_driveReply (s : State) (i : Nat) (e : Prefix) : (s.setPx i e).driveReply = s.driveReply := rfl
@[simp] theorem State.setPx_resets (s : State) (i : Nat) (e : Prefix) : (s.setPx i e).resets = s.resets := rfl
@[simp] theorem State.setPx_counters (s : State) (i : Nat) (e : Prefix) : (s.setPx i e).counters = s.counters := rfl
@[simp] theorem State.setPx_dir (s : State) (i : Nat) (e : Prefix) : (s.setPx i e).dir = s.dir := rfl
@[simp] theorem State.setPx_asks (s : State) (i : Nat) (e : Prefix) : (s.setPx i e).asks = s.asks := rfl
@[simp] theorem State.setPx_flips (s : State) (i : Nat) (e : Prefix) : (s.setPx i e).flips = s.flips := rfl
@[simp] theorem State.setPx_windows (s : State) (i : Nat) (e : Prefix) : (s.setPx i e).windows = s.windows := rfl
@[simp] theorem State.setPx_hostHot (s : State) (i : Nat) (e : Prefix) : (s.setPx i e).hostHot = s.hostHot := rfl
@[simp] theorem State.setPx_cellars (s : State) (i : Nat) (e : Prefix) : (s.setPx i e).cellars = s.cellars := rfl
@[simp] theorem State.setPx_keys (s : State) (i : Nat) (e : Prefix) : (s.setPx i e).keys = s.keys := rfl
@[simp] theorem State.setPx_roles (s : State) (i : Nat) (e : Prefix) : (s.setPx i e).roles = s.roles := rfl
@[simp] theorem State.setPx_boot (s : State) (i : Nat) (e : Prefix) : (s.setPx i e).boot = s.boot := rfl
@[simp] theorem State.setPx_incidents (s : State) (i : Nat) (e : Prefix) : (s.setPx i e).incidents = s.incidents := rfl
@[simp] theorem State.setPx_bad (s : State) (i : Nat) (e : Prefix) : (s.setPx i e).bad = s.bad := rfl
@[simp] theorem State.setPx_hartErrs (s : State) (i : Nat) (e : Prefix) : (s.setPx i e).hartErrs = s.hartErrs := rfl
@[simp] theorem State.setPx_doubled (s : State) (i : Nat) (e : Prefix) : (s.setPx i e).doubled = s.doubled := rfl
@[simp] theorem State.setPx_stamps (s : State) (i : Nat) (e : Prefix) : (s.setPx i e).stamps = s.stamps := rfl
@[simp] theorem State.setPx_links (s : State) (i : Nat) (e : Prefix) : (s.setPx i e).links = s.links := rfl
@[simp] theorem State.setPx_widths (s : State) (i : Nat) (e : Prefix) : (s.setPx i e).widths = s.widths := rfl
@[simp] theorem State.setPx_lasting (s : State) (i : Nat) (e : Prefix) : (s.setPx i e).lasting = s.lasting := rfl
@[simp] theorem State.setPx_retiredCores (s : State) (i : Nat) (e : Prefix) : (s.setPx i e).retiredCores = s.retiredCores := rfl
@[simp] theorem State.setPx_retiredEngines (s : State) (i : Nat) (e : Prefix) : (s.setPx i e).retiredEngines = s.retiredEngines := rfl
@[simp] theorem State.setPx_retiredHarts (s : State) (i : Nat) (e : Prefix) : (s.setPx i e).retiredHarts = s.retiredHarts := rfl
@[simp] theorem State.setPx_power (s : State) (i : Nat) (e : Prefix) : (s.setPx i e).power = s.power := rfl

/-! ### setWt -/

@[simp] theorem State.setWt_now (s : State) (c e : Nat) (w : WtEntry) : (s.setWt c e w).now = s.now := rfl
@[simp] theorem State.setWt_turn (s : State) (c e : Nat) (w : WtEntry) : (s.setWt c e w).turn = s.turn := rfl
@[simp] theorem State.setWt_agenda (s : State) (c e : Nat) (w : WtEntry) : (s.setWt c e w).agenda = s.agenda := rfl
@[simp] theorem State.setWt_delays (s : State) (c e : Nat) (w : WtEntry) : (s.setWt c e w).delays = s.delays := rfl
@[simp] theorem State.setWt_freeN (s : State) (c e : Nat) (w : WtEntry) : (s.setWt c e w).freeN = s.freeN := rfl
@[simp] theorem State.setWt_key (s : State) (c e : Nat) (w : WtEntry) : (s.setWt c e w).key = s.key := rfl
@[simp] theorem State.setWt_live (s : State) (c e : Nat) (w : WtEntry) : (s.setWt c e w).live = s.live := rfl
@[simp] theorem State.setWt_ctx (s : State) (c e : Nat) (w : WtEntry) : (s.setWt c e w).ctx = s.ctx := rfl
@[simp] theorem State.setWt_parked (s : State) (c e : Nat) (w : WtEntry) : (s.setWt c e w).parked = s.parked := rfl
@[simp] theorem State.setWt_nextUid (s : State) (c e : Nat) (w : WtEntry) : (s.setWt c e w).nextUid = s.nextUid := rfl
@[simp] theorem State.setWt_saved (s : State) (c e : Nat) (w : WtEntry) : (s.setWt c e w).saved = s.saved := rfl
@[simp] theorem State.setWt_cores (s : State) (c e : Nat) (w : WtEntry) : (s.setWt c e w).cores = s.cores := rfl
@[simp] theorem State.setWt_wt (s : State) (c e : Nat) (w : WtEntry) : (s.setWt c e w).wt = mput s.wt (64 * c + e) w := rfl
@[simp] theorem State.setWt_arrivals (s : State) (c e : Nat) (w : WtEntry) : (s.setWt c e w).arrivals = s.arrivals := rfl
@[simp] theorem State.setWt_mem (s : State) (c e : Nat) (w : WtEntry) : (s.setWt c e w).mem = s.mem := rfl
@[simp] theorem State.setWt_fe (s : State) (c e : Nat) (w : WtEntry) : (s.setWt c e w).fe = s.fe := rfl
@[simp] theorem State.setWt_fmts (s : State) (c e : Nat) (w : WtEntry) : (s.setWt c e w).fmts = s.fmts := rfl
@[simp] theorem State.setWt_engines (s : State) (c e : Nat) (w : WtEntry) : (s.setWt c e w).engines = s.engines := rfl
@[simp] theorem State.setWt_sfu (s : State) (c e : Nat) (w : WtEntry) : (s.setWt c e w).sfu = s.sfu := rfl
@[simp] theorem State.setWt_channels (s : State) (c e : Nat) (w : WtEntry) : (s.setWt c e w).channels = s.channels := rfl
@[simp] theorem State.setWt_groups (s : State) (c e : Nat) (w : WtEntry) : (s.setWt c e w).groups = s.groups := rfl
@[simp] theorem State.setWt_runqs (s : State) (c e : Nat) (w : WtEntry) : (s.setWt c e w).runqs = s.runqs := rfl
@[simp] theorem State.setWt_pops (s : State) (c e : Nat) (w : WtEntry) : (s.setWt c e w).pops = s.pops := rfl
@[simp] theorem State.setWt_launches (s : State) (c e : Nat) (w : WtEntry) : (s.setWt c e w).launches = s.launches := rfl
@[simp] theorem State.setWt_nextLaunch (s : State) (c e : Nat) (w : WtEntry) : (s.setWt c e w).nextLaunch = s.nextLaunch := rfl
@[simp] theorem State.setWt_lateStatus (s : State) (c e : Nat) (w : WtEntry) : (s.setWt c e w).lateStatus = s.lateStatus := rfl
@[simp] theorem State.setWt_lateDoors (s : State) (c e : Nat) (w : WtEntry) : (s.setWt c e w).lateDoors = s.lateDoors := rfl
@[simp] theorem State.setWt_cfg (s : State) (c e : Nat) (w : WtEntry) : (s.setWt c e w).cfg = s.cfg := rfl
@[simp] theorem State.setWt_futures (s : State) (c e : Nat) (w : WtEntry) : (s.setWt c e w).futures = s.futures := rfl
@[simp] theorem State.setWt_index (s : State) (c e : Nat) (w : WtEntry) : (s.setWt c e w).index = s.index := rfl
@[simp] theorem State.setWt_stamp (s : State) (c e : Nat) (w : WtEntry) : (s.setWt c e w).stamp = s.stamp := rfl
@[simp] theorem State.setWt_cut (s : State) (c e : Nat) (w : WtEntry) : (s.setWt c e w).cut = s.cut := rfl
@[simp] theorem State.setWt_envFaults (s : State) (c e : Nat) (w : WtEntry) : (s.setWt c e w).envFaults = s.envFaults := rfl
@[simp] theorem State.setWt_freeBlocks (s : State) (c e : Nat) (w : WtEntry) : (s.setWt c e w).freeBlocks = s.freeBlocks := rfl
@[simp] theorem State.setWt_calls (s : State) (c e : Nat) (w : WtEntry) : (s.setWt c e w).calls = s.calls := rfl
@[simp] theorem State.setWt_held (s : State) (c e : Nat) (w : WtEntry) : (s.setWt c e w).held = s.held := rfl
@[simp] theorem State.setWt_harts (s : State) (c e : Nat) (w : WtEntry) : (s.setWt c e w).harts = s.harts := rfl
@[simp] theorem State.setWt_hartDue (s : State) (c e : Nat) (w : WtEntry) : (s.setWt c e w).hartDue = s.hartDue := rfl
@[simp] theorem State.setWt_hops (s : State) (c e : Nat) (w : WtEntry) : (s.setWt c e w).hops = s.hops := rfl
@[simp] theorem State.setWt_posted (s : State) (c e : Nat) (w : WtEntry) : (s.setWt c e w).posted = s.posted := rfl
@[simp] theorem State.setWt_reply (s : State) (c e : Nat) (w : WtEntry) : (s.setWt c e w).reply = s.reply := rfl
@[simp] theorem State.setWt_driveReply (s : State) (c e : Nat) (w : WtEntry) : (s.setWt c e w).driveReply = s.driveReply := rfl
@[simp] theorem State.setWt_resets (s : State) (c e : Nat) (w : WtEntry) : (s.setWt c e w).resets = s.resets := rfl
@[simp] theorem State.setWt_counters (s : State) (c e : Nat) (w : WtEntry) : (s.setWt c e w).counters = s.counters := rfl
@[simp] theorem State.setWt_dir (s : State) (c e : Nat) (w : WtEntry) : (s.setWt c e w).dir = s.dir := rfl
@[simp] theorem State.setWt_asks (s : State) (c e : Nat) (w : WtEntry) : (s.setWt c e w).asks = s.asks := rfl
@[simp] theorem State.setWt_flips (s : State) (c e : Nat) (w : WtEntry) : (s.setWt c e w).flips = s.flips := rfl
@[simp] theorem State.setWt_windows (s : State) (c e : Nat) (w : WtEntry) : (s.setWt c e w).windows = s.windows := rfl
@[simp] theorem State.setWt_hostHot (s : State) (c e : Nat) (w : WtEntry) : (s.setWt c e w).hostHot = s.hostHot := rfl
@[simp] theorem State.setWt_cellars (s : State) (c e : Nat) (w : WtEntry) : (s.setWt c e w).cellars = s.cellars := rfl
@[simp] theorem State.setWt_keys (s : State) (c e : Nat) (w : WtEntry) : (s.setWt c e w).keys = s.keys := rfl
@[simp] theorem State.setWt_roles (s : State) (c e : Nat) (w : WtEntry) : (s.setWt c e w).roles = s.roles := rfl
@[simp] theorem State.setWt_boot (s : State) (c e : Nat) (w : WtEntry) : (s.setWt c e w).boot = s.boot := rfl
@[simp] theorem State.setWt_incidents (s : State) (c e : Nat) (w : WtEntry) : (s.setWt c e w).incidents = s.incidents := rfl
@[simp] theorem State.setWt_bad (s : State) (c e : Nat) (w : WtEntry) : (s.setWt c e w).bad = s.bad := rfl
@[simp] theorem State.setWt_hartErrs (s : State) (c e : Nat) (w : WtEntry) : (s.setWt c e w).hartErrs = s.hartErrs := rfl
@[simp] theorem State.setWt_doubled (s : State) (c e : Nat) (w : WtEntry) : (s.setWt c e w).doubled = s.doubled := rfl
@[simp] theorem State.setWt_stamps (s : State) (c e : Nat) (w : WtEntry) : (s.setWt c e w).stamps = s.stamps := rfl
@[simp] theorem State.setWt_links (s : State) (c e : Nat) (w : WtEntry) : (s.setWt c e w).links = s.links := rfl
@[simp] theorem State.setWt_widths (s : State) (c e : Nat) (w : WtEntry) : (s.setWt c e w).widths = s.widths := rfl
@[simp] theorem State.setWt_lasting (s : State) (c e : Nat) (w : WtEntry) : (s.setWt c e w).lasting = s.lasting := rfl
@[simp] theorem State.setWt_retiredCores (s : State) (c e : Nat) (w : WtEntry) : (s.setWt c e w).retiredCores = s.retiredCores := rfl
@[simp] theorem State.setWt_retiredEngines (s : State) (c e : Nat) (w : WtEntry) : (s.setWt c e w).retiredEngines = s.retiredEngines := rfl
@[simp] theorem State.setWt_retiredHarts (s : State) (c e : Nat) (w : WtEntry) : (s.setWt c e w).retiredHarts = s.retiredHarts := rfl
@[simp] theorem State.setWt_power (s : State) (c e : Nat) (w : WtEntry) : (s.setWt c e w).power = s.power := rfl

/-! ### vDone -/

@[simp] theorem State.vDone_now (s : State) (c : Ctx) : (s.vDone c).now = s.now := rfl
@[simp] theorem State.vDone_turn (s : State) (c : Ctx) : (s.vDone c).turn = .sched := rfl
@[simp] theorem State.vDone_agenda (s : State) (c : Ctx) : (s.vDone c).agenda = s.agenda := rfl
@[simp] theorem State.vDone_delays (s : State) (c : Ctx) : (s.vDone c).delays = s.delays := rfl
@[simp] theorem State.vDone_freeN (s : State) (c : Ctx) : (s.vDone c).freeN = s.freeN := rfl
@[simp] theorem State.vDone_key (s : State) (c : Ctx) : (s.vDone c).key = s.key := rfl
@[simp] theorem State.vDone_live (s : State) (c : Ctx) : (s.vDone c).live = s.live := rfl
@[simp] theorem State.vDone_parked (s : State) (c : Ctx) : (s.vDone c).parked = s.parked := rfl
@[simp] theorem State.vDone_nextUid (s : State) (c : Ctx) : (s.vDone c).nextUid = s.nextUid := rfl
@[simp] theorem State.vDone_saved (s : State) (c : Ctx) : (s.vDone c).saved = s.saved := rfl
@[simp] theorem State.vDone_cores (s : State) (c : Ctx) : (s.vDone c).cores = s.cores := rfl
@[simp] theorem State.vDone_wt (s : State) (c : Ctx) : (s.vDone c).wt = s.wt := rfl
@[simp] theorem State.vDone_arrivals (s : State) (c : Ctx) : (s.vDone c).arrivals = s.arrivals := rfl
@[simp] theorem State.vDone_mem (s : State) (c : Ctx) : (s.vDone c).mem = s.mem := rfl
@[simp] theorem State.vDone_fe (s : State) (c : Ctx) : (s.vDone c).fe = s.fe := rfl
@[simp] theorem State.vDone_fmts (s : State) (c : Ctx) : (s.vDone c).fmts = s.fmts := rfl
@[simp] theorem State.vDone_engines (s : State) (c : Ctx) : (s.vDone c).engines = s.engines := rfl
@[simp] theorem State.vDone_sfu (s : State) (c : Ctx) : (s.vDone c).sfu = s.sfu := rfl
@[simp] theorem State.vDone_channels (s : State) (c : Ctx) : (s.vDone c).channels = s.channels := rfl
@[simp] theorem State.vDone_groups (s : State) (c : Ctx) : (s.vDone c).groups = s.groups := rfl
@[simp] theorem State.vDone_runqs (s : State) (c : Ctx) : (s.vDone c).runqs = s.runqs := rfl
@[simp] theorem State.vDone_pops (s : State) (c : Ctx) : (s.vDone c).pops = s.pops := rfl
@[simp] theorem State.vDone_launches (s : State) (c : Ctx) : (s.vDone c).launches = s.launches := rfl
@[simp] theorem State.vDone_nextLaunch (s : State) (c : Ctx) : (s.vDone c).nextLaunch = s.nextLaunch := rfl
@[simp] theorem State.vDone_lateStatus (s : State) (c : Ctx) : (s.vDone c).lateStatus = s.lateStatus := rfl
@[simp] theorem State.vDone_lateDoors (s : State) (c : Ctx) : (s.vDone c).lateDoors = s.lateDoors := rfl
@[simp] theorem State.vDone_cfg (s : State) (c : Ctx) : (s.vDone c).cfg = s.cfg := rfl
@[simp] theorem State.vDone_futures (s : State) (c : Ctx) : (s.vDone c).futures = s.futures := rfl
@[simp] theorem State.vDone_index (s : State) (c : Ctx) : (s.vDone c).index = s.index := rfl
@[simp] theorem State.vDone_stamp (s : State) (c : Ctx) : (s.vDone c).stamp = s.stamp := rfl
@[simp] theorem State.vDone_cut (s : State) (c : Ctx) : (s.vDone c).cut = s.cut := rfl
@[simp] theorem State.vDone_envFaults (s : State) (c : Ctx) : (s.vDone c).envFaults = s.envFaults := rfl
@[simp] theorem State.vDone_freeBlocks (s : State) (c : Ctx) : (s.vDone c).freeBlocks = s.freeBlocks := rfl
@[simp] theorem State.vDone_calls (s : State) (c : Ctx) : (s.vDone c).calls = s.calls := rfl
@[simp] theorem State.vDone_held (s : State) (c : Ctx) : (s.vDone c).held = s.held := rfl
@[simp] theorem State.vDone_harts (s : State) (c : Ctx) : (s.vDone c).harts = s.harts := rfl
@[simp] theorem State.vDone_hartDue (s : State) (c : Ctx) : (s.vDone c).hartDue = s.hartDue := rfl
@[simp] theorem State.vDone_hops (s : State) (c : Ctx) : (s.vDone c).hops = s.hops := rfl
@[simp] theorem State.vDone_posted (s : State) (c : Ctx) : (s.vDone c).posted = s.posted := rfl
@[simp] theorem State.vDone_reply (s : State) (c : Ctx) : (s.vDone c).reply = s.reply := rfl
@[simp] theorem State.vDone_driveReply (s : State) (c : Ctx) : (s.vDone c).driveReply = s.driveReply := rfl
@[simp] theorem State.vDone_resets (s : State) (c : Ctx) : (s.vDone c).resets = s.resets := rfl
@[simp] theorem State.vDone_counters (s : State) (c : Ctx) : (s.vDone c).counters = s.counters := rfl
@[simp] theorem State.vDone_dir (s : State) (c : Ctx) : (s.vDone c).dir = s.dir := rfl
@[simp] theorem State.vDone_asks (s : State) (c : Ctx) : (s.vDone c).asks = s.asks := rfl
@[simp] theorem State.vDone_flips (s : State) (c : Ctx) : (s.vDone c).flips = s.flips := rfl
@[simp] theorem State.vDone_windows (s : State) (c : Ctx) : (s.vDone c).windows = s.windows := rfl
@[simp] theorem State.vDone_hostHot (s : State) (c : Ctx) : (s.vDone c).hostHot = s.hostHot := rfl
@[simp] theorem State.vDone_cellars (s : State) (c : Ctx) : (s.vDone c).cellars = s.cellars := rfl
@[simp] theorem State.vDone_keys (s : State) (c : Ctx) : (s.vDone c).keys = s.keys := rfl
@[simp] theorem State.vDone_roles (s : State) (c : Ctx) : (s.vDone c).roles = s.roles := rfl
@[simp] theorem State.vDone_boot (s : State) (c : Ctx) : (s.vDone c).boot = s.boot := rfl
@[simp] theorem State.vDone_incidents (s : State) (c : Ctx) : (s.vDone c).incidents = s.incidents := rfl
@[simp] theorem State.vDone_bad (s : State) (c : Ctx) : (s.vDone c).bad = s.bad := rfl
@[simp] theorem State.vDone_hartErrs (s : State) (c : Ctx) : (s.vDone c).hartErrs = s.hartErrs := rfl
@[simp] theorem State.vDone_doubled (s : State) (c : Ctx) : (s.vDone c).doubled = s.doubled := rfl
@[simp] theorem State.vDone_stamps (s : State) (c : Ctx) : (s.vDone c).stamps = s.stamps := rfl
@[simp] theorem State.vDone_links (s : State) (c : Ctx) : (s.vDone c).links = s.links := rfl
@[simp] theorem State.vDone_widths (s : State) (c : Ctx) : (s.vDone c).widths = s.widths := rfl
@[simp] theorem State.vDone_lasting (s : State) (c : Ctx) : (s.vDone c).lasting = s.lasting := rfl
@[simp] theorem State.vDone_retiredCores (s : State) (c : Ctx) : (s.vDone c).retiredCores = s.retiredCores := rfl
@[simp] theorem State.vDone_retiredEngines (s : State) (c : Ctx) : (s.vDone c).retiredEngines = s.retiredEngines := rfl
@[simp] theorem State.vDone_retiredHarts (s : State) (c : Ctx) : (s.vDone c).retiredHarts = s.retiredHarts := rfl
@[simp] theorem State.vDone_power (s : State) (c : Ctx) : (s.vDone c).power = s.power := rfl

end Sys2Proof.Machine
end

