-- ==== Sys2Proof/Laws/Ops.lean ====
section
/-! SUPPORT. The shared operations of S: what the token operations leave alone, field by field, and one lemma for each way
the body of a word ends (R27 to R33, R77). -/

namespace Sys2Proof.Machine

/-! ### Fields that token operations leave alone -/

theorem Ctx.popToks_eq (c : Ctx) (st : Station) (p : Dep) :
    c.popToks st p = { c with toks := (c.popToks st p).toks, owed := (c.popToks st p).owed } := c.popToks_only st p

/-- A completion touches four fields alone. -/
theorem Ctx.complete_eq (c : Ctx) (st : Station) (id : Nat) (qs : List Nat) :
    c.complete st id qs = { c with toks := (c.complete st id qs).toks, owed := (c.complete st id qs).owed,
                                   done := (c.complete st id qs).done, entry := (c.complete st id qs).entry } :=
  c.complete_only st id qs

@[simp] theorem Ctx.popToks_uid (c : Ctx) (st : Station) (p : Dep) : (c.popToks st p).uid = c.uid :=
  (congrArg Ctx.uid (c.popToks_eq st p)).trans rfl
@[simp] theorem Ctx.popToks_regs (c : Ctx) (st : Station) (p : Dep) : (c.popToks st p).regs = c.regs :=
  (congrArg Ctx.regs (c.popToks_eq st p)).trans rfl
@[simp] theorem Ctx.popToks_grid (c : Ctx) (st : Station) (p : Dep) : (c.popToks st p).grid = c.grid :=
  (congrArg Ctx.grid (c.popToks_eq st p)).trans rfl
@[simp] theorem Ctx.popToks_masks (c : Ctx) (st : Station) (p : Dep) : (c.popToks st p).masks = c.masks :=
  (congrArg Ctx.masks (c.popToks_eq st p)).trans rfl
@[simp] theorem Ctx.popToks_caps (c : Ctx) (st : Station) (p : Dep) : (c.popToks st p).caps = c.caps :=
  (congrArg Ctx.caps (c.popToks_eq st p)).trans rfl
@[simp] theorem Ctx.popToks_gens (c : Ctx) (st : Station) (p : Dep) : (c.popToks st p).gens = c.gens :=
  (congrArg Ctx.gens (c.popToks_eq st p)).trans rfl
@[simp] theorem Ctx.popToks_vt (c : Ctx) (st : Station) (p : Dep) : (c.popToks st p).vt = c.vt :=
  (congrArg Ctx.vt (c.popToks_eq st p)).trans rfl
@[simp] theorem Ctx.popToks_ms (c : Ctx) (st : Station) (p : Dep) : (c.popToks st p).ms = c.ms :=
  (congrArg Ctx.ms (c.popToks_eq st p)).trans rfl
@[simp] theorem Ctx.popToks_cs (c : Ctx) (st : Station) (p : Dep) : (c.popToks st p).cs = c.cs :=
  (congrArg Ctx.cs (c.popToks_eq st p)).trans rfl
@[simp] theorem Ctx.popToks_lc (c : Ctx) (st : Station) (p : Dep) : (c.popToks st p).lc = c.lc :=
  (congrArg Ctx.lc (c.popToks_eq st p)).trans rfl
@[simp] theorem Ctx.popToks_sc (c : Ctx) (st : Station) (p : Dep) : (c.popToks st p).sc = c.sc :=
  (congrArg Ctx.sc (c.popToks_eq st p)).trans rfl
@[simp] theorem Ctx.popToks_cc (c : Ctx) (st : Station) (p : Dep) : (c.popToks st p).cc = c.cc :=
  (congrArg Ctx.cc (c.popToks_eq st p)).trans rfl
@[simp] theorem Ctx.popToks_tc (c : Ctx) (st : Station) (p : Dep) : (c.popToks st p).tc = c.tc :=
  (congrArg Ctx.tc (c.popToks_eq st p)).trans rfl
@[simp] theorem Ctx.popToks_fpsr (c : Ctx) (st : Station) (p : Dep) : (c.popToks st p).fpsr = c.fpsr :=
  (congrArg Ctx.fpsr (c.popToks_eq st p)).trans rfl
@[simp] theorem Ctx.popToks_erc (c : Ctx) (st : Station) (p : Dep) : (c.popToks st p).erc = c.erc :=
  (congrArg Ctx.erc (c.popToks_eq st p)).trans rfl
@[simp] theorem Ctx.popToks_priv (c : Ctx) (st : Station) (p : Dep) : (c.popToks st p).priv = c.priv :=
  (congrArg Ctx.priv (c.popToks_eq st p)).trans rfl
@[simp] theorem Ctx.popToks_saved (c : Ctx) (st : Station) (p : Dep) : (c.popToks st p).saved = c.saved :=
  (congrArg Ctx.saved (c.popToks_eq st p)).trans rfl
@[simp] theorem Ctx.popToks_pc (c : Ctx) (st : Station) (p : Dep) : (c.popToks st p).pc = c.pc :=
  (congrArg Ctx.pc (c.popToks_eq st p)).trans rfl
@[simp] theorem Ctx.popToks_rows (c : Ctx) (st : Station) (p : Dep) : (c.popToks st p).rows = c.rows :=
  (congrArg Ctx.rows (c.popToks_eq st p)).trans rfl
@[simp] theorem Ctx.popToks_gran (c : Ctx) (st : Station) (p : Dep) : (c.popToks st p).gran = c.gran :=
  (congrArg Ctx.gran (c.popToks_eq st p)).trans rfl
@[simp] theorem Ctx.popToks_spill (c : Ctx) (st : Station) (p : Dep) : (c.popToks st p).spill = c.spill :=
  (congrArg Ctx.spill (c.popToks_eq st p)).trans rfl
@[simp] theorem Ctx.popToks_mport (c : Ctx) (st : Station) (p : Dep) : (c.popToks st p).mport = c.mport :=
  (congrArg Ctx.mport (c.popToks_eq st p)).trans rfl
@[simp] theorem Ctx.popToks_retired (c : Ctx) (st : Station) (p : Dep) : (c.popToks st p).retired = c.retired :=
  (congrArg Ctx.retired (c.popToks_eq st p)).trans rfl
@[simp] theorem Ctx.popToks_tvec (c : Ctx) (st : Station) (p : Dep) : (c.popToks st p).tvec = c.tvec :=
  (congrArg Ctx.tvec (c.popToks_eq st p)).trans rfl
@[simp] theorem Ctx.popToks_epc (c : Ctx) (st : Station) (p : Dep) : (c.popToks st p).epc = c.epc :=
  (congrArg Ctx.epc (c.popToks_eq st p)).trans rfl
@[simp] theorem Ctx.popToks_cause (c : Ctx) (st : Station) (p : Dep) : (c.popToks st p).cause = c.cause :=
  (congrArg Ctx.cause (c.popToks_eq st p)).trans rfl
@[simp] theorem Ctx.popToks_tval (c : Ctx) (st : Station) (p : Dep) : (c.popToks st p).tval = c.tval :=
  (congrArg Ctx.tval (c.popToks_eq st p)).trans rfl
@[simp] theorem Ctx.popToks_tinfo (c : Ctx) (st : Station) (p : Dep) : (c.popToks st p).tinfo = c.tinfo :=
  (congrArg Ctx.tinfo (c.popToks_eq st p)).trans rfl
@[simp] theorem Ctx.popToks_scr0 (c : Ctx) (st : Station) (p : Dep) : (c.popToks st p).scr0 = c.scr0 :=
  (congrArg Ctx.scr0 (c.popToks_eq st p)).trans rfl
@[simp] theorem Ctx.popToks_scr1 (c : Ctx) (st : Station) (p : Dep) : (c.popToks st p).scr1 = c.scr1 :=
  (congrArg Ctx.scr1 (c.popToks_eq st p)).trans rfl
@[simp] theorem Ctx.popToks_root (c : Ctx) (st : Station) (p : Dep) : (c.popToks st p).root = c.root :=
  (congrArg Ctx.root (c.popToks_eq st p)).trans rfl
@[simp] theorem Ctx.popToks_asid (c : Ctx) (st : Station) (p : Dep) : (c.popToks st p).asid = c.asid :=
  (congrArg Ctx.asid (c.popToks_eq st p)).trans rfl
@[simp] theorem Ctx.popToks_derr (c : Ctx) (st : Station) (p : Dep) : (c.popToks st p).derr = c.derr :=
  (congrArg Ctx.derr (c.popToks_eq st p)).trans rfl
@[simp] theorem Ctx.popToks_capsign (c : Ctx) (st : Station) (p : Dep) : (c.popToks st p).capsign = c.capsign :=
  (congrArg Ctx.capsign (c.popToks_eq st p)).trans rfl
@[simp] theorem Ctx.popToks_env (c : Ctx) (st : Station) (p : Dep) : (c.popToks st p).env = c.env :=
  (congrArg Ctx.env (c.popToks_eq st p)).trans rfl
@[simp] theorem Ctx.popToks_prio (c : Ctx) (st : Station) (p : Dep) : (c.popToks st p).prio = c.prio :=
  (congrArg Ctx.prio (c.popToks_eq st p)).trans rfl
@[simp] theorem Ctx.popToks_thread (c : Ctx) (st : Station) (p : Dep) : (c.popToks st p).thread = c.thread :=
  (congrArg Ctx.thread (c.popToks_eq st p)).trans rfl
@[simp] theorem Ctx.popToks_team (c : Ctx) (st : Station) (p : Dep) : (c.popToks st p).team = c.team :=
  (congrArg Ctx.team (c.popToks_eq st p)).trans rfl
@[simp] theorem Ctx.popToks_first (c : Ctx) (st : Station) (p : Dep) : (c.popToks st p).first = c.first :=
  (congrArg Ctx.first (c.popToks_eq st p)).trans rfl
@[simp] theorem Ctx.popToks_count (c : Ctx) (st : Station) (p : Dep) : (c.popToks st p).count = c.count :=
  (congrArg Ctx.count (c.popToks_eq st p)).trans rfl
@[simp] theorem Ctx.popToks_launch (c : Ctx) (st : Station) (p : Dep) : (c.popToks st p).launch = c.launch :=
  (congrArg Ctx.launch (c.popToks_eq st p)).trans rfl
@[simp] theorem Ctx.popToks_nextId (c : Ctx) (st : Station) (p : Dep) : (c.popToks st p).nextId = c.nextId :=
  (congrArg Ctx.nextId (c.popToks_eq st p)).trans rfl
@[simp] theorem Ctx.popToks_pend (c : Ctx) (st : Station) (p : Dep) : (c.popToks st p).pend = c.pend :=
  (congrArg Ctx.pend (c.popToks_eq st p)).trans rfl
@[simp] theorem Ctx.popToks_stores (c : Ctx) (st : Station) (p : Dep) : (c.popToks st p).stores = c.stores :=
  (congrArg Ctx.stores (c.popToks_eq st p)).trans rfl
@[simp] theorem Ctx.popToks_vq (c : Ctx) (st : Station) (p : Dep) : (c.popToks st p).vq = c.vq :=
  (congrArg Ctx.vq (c.popToks_eq st p)).trans rfl
@[simp] theorem Ctx.popToks_mq (c : Ctx) (st : Station) (p : Dep) : (c.popToks st p).mq = c.mq :=
  (congrArg Ctx.mq (c.popToks_eq st p)).trans rfl
@[simp] theorem Ctx.popToks_cq (c : Ctx) (st : Station) (p : Dep) : (c.popToks st p).cq = c.cq :=
  (congrArg Ctx.cq (c.popToks_eq st p)).trans rfl
@[simp] theorem Ctx.popToks_active (c : Ctx) (st : Station) (p : Dep) : (c.popToks st p).active = c.active :=
  (congrArg Ctx.active (c.popToks_eq st p)).trans rfl
@[simp] theorem Ctx.popToks_mact (c : Ctx) (st : Station) (p : Dep) : (c.popToks st p).mact = c.mact :=
  (congrArg Ctx.mact (c.popToks_eq st p)).trans rfl
@[simp] theorem Ctx.popToks_cact (c : Ctx) (st : Station) (p : Dep) : (c.popToks st p).cact = c.cact :=
  (congrArg Ctx.cact (c.popToks_eq st p)).trans rfl
@[simp] theorem Ctx.popToks_min (c : Ctx) (st : Station) (p : Dep) : (c.popToks st p).min = c.min :=
  (congrArg Ctx.min (c.popToks_eq st p)).trans rfl
@[simp] theorem Ctx.popToks_replay (c : Ctx) (st : Station) (p : Dep) : (c.popToks st p).replay = c.replay :=
  (congrArg Ctx.replay (c.popToks_eq st p)).trans rfl
@[simp] theorem Ctx.popToks_afr (c : Ctx) (st : Station) (p : Dep) : (c.popToks st p).afr = c.afr :=
  (congrArg Ctx.afr (c.popToks_eq st p)).trans rfl
@[simp] theorem Ctx.popToks_afrWait (c : Ctx) (st : Station) (p : Dep) : (c.popToks st p).afrWait = c.afrWait :=
  (congrArg Ctx.afrWait (c.popToks_eq st p)).trans rfl
@[simp] theorem Ctx.popToks_preempt (c : Ctx) (st : Station) (p : Dep) : (c.popToks st p).preempt = c.preempt :=
  (congrArg Ctx.preempt (c.popToks_eq st p)).trans rfl
@[simp] theorem Ctx.popToks_hwait (c : Ctx) (st : Station) (p : Dep) : (c.popToks st p).hwait = c.hwait :=
  (congrArg Ctx.hwait (c.popToks_eq st p)).trans rfl
@[simp] theorem Ctx.popToks_block (c : Ctx) (st : Station) (p : Dep) : (c.popToks st p).block = c.block :=
  (congrArg Ctx.block (c.popToks_eq st p)).trans rfl
@[simp] theorem Ctx.popToks_blockedAt (c : Ctx) (st : Station) (p : Dep) : (c.popToks st p).blockedAt = c.blockedAt :=
  (congrArg Ctx.blockedAt (c.popToks_eq st p)).trans rfl
@[simp] theorem Ctx.popToks_heldAt (c : Ctx) (st : Station) (p : Dep) : (c.popToks st p).heldAt = c.heldAt :=
  (congrArg Ctx.heldAt (c.popToks_eq st p)).trans rfl
@[simp] theorem Ctx.popToks_readyAt (c : Ctx) (st : Station) (p : Dep) : (c.popToks st p).readyAt = c.readyAt :=
  (congrArg Ctx.readyAt (c.popToks_eq st p)).trans rfl
@[simp] theorem Ctx.popToks_done (c : Ctx) (st : Station) (p : Dep) : (c.popToks st p).done = c.done :=
  (congrArg Ctx.done (c.popToks_eq st p)).trans rfl
@[simp] theorem Ctx.popToks_spillW (c : Ctx) (st : Station) (p : Dep) : (c.popToks st p).spillW = c.spillW :=
  (congrArg Ctx.spillW (c.popToks_eq st p)).trans rfl
@[simp] theorem Ctx.popToks_cnt0 (c : Ctx) (st : Station) (p : Dep) : (c.popToks st p).cnt0 = c.cnt0 :=
  (congrArg Ctx.cnt0 (c.popToks_eq st p)).trans rfl
@[simp] theorem Ctx.popToks_tok0 (c : Ctx) (st : Station) (p : Dep) : (c.popToks st p).tok0 = c.tok0 :=
  (congrArg Ctx.tok0 (c.popToks_eq st p)).trans rfl
@[simp] theorem Ctx.popToks_entry (c : Ctx) (st : Station) (p : Dep) : (c.popToks st p).entry = c.entry :=
  (congrArg Ctx.entry (c.popToks_eq st p)).trans rfl
@[simp] theorem Ctx.complete_uid (c : Ctx) (st : Station) (id : Nat) (qs : List Nat) : (c.complete st id qs).uid = c.uid :=
  (congrArg Ctx.uid (c.complete_eq st id qs)).trans rfl
@[simp] theorem Ctx.complete_regs (c : Ctx) (st : Station) (id : Nat) (qs : List Nat) : (c.complete st id qs).regs = c.regs :=
  (congrArg Ctx.regs (c.complete_eq st id qs)).trans rfl
@[simp] theorem Ctx.complete_grid (c : Ctx) (st : Station) (id : Nat) (qs : List Nat) : (c.complete st id qs).grid = c.grid :=
  (congrArg Ctx.grid (c.complete_eq st id qs)).trans rfl
@[simp] theorem Ctx.complete_masks (c : Ctx) (st : Station) (id : Nat) (qs : List Nat) : (c.complete st id qs).masks = c.masks :=
  (congrArg Ctx.masks (c.complete_eq st id qs)).trans rfl
@[simp] theorem Ctx.complete_caps (c : Ctx) (st : Station) (id : Nat) (qs : List Nat) : (c.complete st id qs).caps = c.caps :=
  (congrArg Ctx.caps (c.complete_eq st id qs)).trans rfl
@[simp] theorem Ctx.complete_gens (c : Ctx) (st : Station) (id : Nat) (qs : List Nat) : (c.complete st id qs).gens = c.gens :=
  (congrArg Ctx.gens (c.complete_eq st id qs)).trans rfl
@[simp] theorem Ctx.complete_vt (c : Ctx) (st : Station) (id : Nat) (qs : List Nat) : (c.complete st id qs).vt = c.vt :=
  (congrArg Ctx.vt (c.complete_eq st id qs)).trans rfl
@[simp] theorem Ctx.complete_ms (c : Ctx) (st : Station) (id : Nat) (qs : List Nat) : (c.complete st id qs).ms = c.ms :=
  (congrArg Ctx.ms (c.complete_eq st id qs)).trans rfl
@[simp] theorem Ctx.complete_cs (c : Ctx) (st : Station) (id : Nat) (qs : List Nat) : (c.complete st id qs).cs = c.cs :=
  (congrArg Ctx.cs (c.complete_eq st id qs)).trans rfl
@[simp] theorem Ctx.complete_lc (c : Ctx) (st : Station) (id : Nat) (qs : List Nat) : (c.complete st id qs).lc = c.lc :=
  (congrArg Ctx.lc (c.complete_eq st id qs)).trans rfl
@[simp] theorem Ctx.complete_sc (c : Ctx) (st : Station) (id : Nat) (qs : List Nat) : (c.complete st id qs).sc = c.sc :=
  (congrArg Ctx.sc (c.complete_eq st id qs)).trans rfl
@[simp] theorem Ctx.complete_cc (c : Ctx) (st : Station) (id : Nat) (qs : List Nat) : (c.complete st id qs).cc = c.cc :=
  (congrArg Ctx.cc (c.complete_eq st id qs)).trans rfl
@[simp] theorem Ctx.complete_tc (c : Ctx) (st : Station) (id : Nat) (qs : List Nat) : (c.complete st id qs).tc = c.tc :=
  (congrArg Ctx.tc (c.complete_eq st id qs)).trans rfl
@[simp] theorem Ctx.complete_fpsr (c : Ctx) (st : Station) (id : Nat) (qs : List Nat) : (c.complete st id qs).fpsr = c.fpsr :=
  (congrArg Ctx.fpsr (c.complete_eq st id qs)).trans rfl
@[simp] theorem Ctx.complete_erc (c : Ctx) (st : Station) (id : Nat) (qs : List Nat) : (c.complete st id qs).erc = c.erc :=
  (congrArg Ctx.erc (c.complete_eq st id qs)).trans rfl
@[simp] theorem Ctx.complete_priv (c : Ctx) (st : Station) (id : Nat) (qs : List Nat) : (c.complete st id qs).priv = c.priv :=
  (congrArg Ctx.priv (c.complete_eq st id qs)).trans rfl
@[simp] theorem Ctx.complete_saved (c : Ctx) (st : Station) (id : Nat) (qs : List Nat) : (c.complete st id qs).saved = c.saved :=
  (congrArg Ctx.saved (c.complete_eq st id qs)).trans rfl
@[simp] theorem Ctx.complete_pc (c : Ctx) (st : Station) (id : Nat) (qs : List Nat) : (c.complete st id qs).pc = c.pc :=
  (congrArg Ctx.pc (c.complete_eq st id qs)).trans rfl
@[simp] theorem Ctx.complete_rows (c : Ctx) (st : Station) (id : Nat) (qs : List Nat) : (c.complete st id qs).rows = c.rows :=
  (congrArg Ctx.rows (c.complete_eq st id qs)).trans rfl
@[simp] theorem Ctx.complete_gran (c : Ctx) (st : Station) (id : Nat) (qs : List Nat) : (c.complete st id qs).gran = c.gran :=
  (congrArg Ctx.gran (c.complete_eq st id qs)).trans rfl
@[simp] theorem Ctx.complete_spill (c : Ctx) (st : Station) (id : Nat) (qs : List Nat) : (c.complete st id qs).spill = c.spill :=
  (congrArg Ctx.spill (c.complete_eq st id qs)).trans rfl
@[simp] theorem Ctx.complete_mport (c : Ctx) (st : Station) (id : Nat) (qs : List Nat) : (c.complete st id qs).mport = c.mport :=
  (congrArg Ctx.mport (c.complete_eq st id qs)).trans rfl
@[simp] theorem Ctx.complete_retired (c : Ctx) (st : Station) (id : Nat) (qs : List Nat) : (c.complete st id qs).retired = c.retired :=
  (congrArg Ctx.retired (c.complete_eq st id qs)).trans rfl
@[simp] theorem Ctx.complete_tvec (c : Ctx) (st : Station) (id : Nat) (qs : List Nat) : (c.complete st id qs).tvec = c.tvec :=
  (congrArg Ctx.tvec (c.complete_eq st id qs)).trans rfl
@[simp] theorem Ctx.complete_epc (c : Ctx) (st : Station) (id : Nat) (qs : List Nat) : (c.complete st id qs).epc = c.epc :=
  (congrArg Ctx.epc (c.complete_eq st id qs)).trans rfl
@[simp] theorem Ctx.complete_cause (c : Ctx) (st : Station) (id : Nat) (qs : List Nat) : (c.complete st id qs).cause = c.cause :=
  (congrArg Ctx.cause (c.complete_eq st id qs)).trans rfl
@[simp] theorem Ctx.complete_tval (c : Ctx) (st : Station) (id : Nat) (qs : List Nat) : (c.complete st id qs).tval = c.tval :=
  (congrArg Ctx.tval (c.complete_eq st id qs)).trans rfl
@[simp] theorem Ctx.complete_tinfo (c : Ctx) (st : Station) (id : Nat) (qs : List Nat) : (c.complete st id qs).tinfo = c.tinfo :=
  (congrArg Ctx.tinfo (c.complete_eq st id qs)).trans rfl
@[simp] theorem Ctx.complete_scr0 (c : Ctx) (st : Station) (id : Nat) (qs : List Nat) : (c.complete st id qs).scr0 = c.scr0 :=
  (congrArg Ctx.scr0 (c.complete_eq st id qs)).trans rfl
@[simp] theorem Ctx.complete_scr1 (c : Ctx) (st : Station) (id : Nat) (qs : List Nat) : (c.complete st id qs).scr1 = c.scr1 :=
  (congrArg Ctx.scr1 (c.complete_eq st id qs)).trans rfl
@[simp] theorem Ctx.complete_root (c : Ctx) (st : Station) (id : Nat) (qs : List Nat) : (c.complete st id qs).root = c.root :=
  (congrArg Ctx.root (c.complete_eq st id qs)).trans rfl
@[simp] theorem Ctx.complete_asid (c : Ctx) (st : Station) (id : Nat) (qs : List Nat) : (c.complete st id qs).asid = c.asid :=
  (congrArg Ctx.asid (c.complete_eq st id qs)).trans rfl
@[simp] theorem Ctx.complete_derr (c : Ctx) (st : Station) (id : Nat) (qs : List Nat) : (c.complete st id qs).derr = c.derr :=
  (congrArg Ctx.derr (c.complete_eq st id qs)).trans rfl
@[simp] theorem Ctx.complete_capsign (c : Ctx) (st : Station) (id : Nat) (qs : List Nat) : (c.complete st id qs).capsign = c.capsign :=
  (congrArg Ctx.capsign (c.complete_eq st id qs)).trans rfl
@[simp] theorem Ctx.complete_env (c : Ctx) (st : Station) (id : Nat) (qs : List Nat) : (c.complete st id qs).env = c.env :=
  (congrArg Ctx.env (c.complete_eq st id qs)).trans rfl
@[simp] theorem Ctx.complete_prio (c : Ctx) (st : Station) (id : Nat) (qs : List Nat) : (c.complete st id qs).prio = c.prio :=
  (congrArg Ctx.prio (c.complete_eq st id qs)).trans rfl
@[simp] theorem Ctx.complete_thread (c : Ctx) (st : Station) (id : Nat) (qs : List Nat) : (c.complete st id qs).thread = c.thread :=
  (congrArg Ctx.thread (c.complete_eq st id qs)).trans rfl
@[simp] theorem Ctx.complete_team (c : Ctx) (st : Station) (id : Nat) (qs : List Nat) : (c.complete st id qs).team = c.team :=
  (congrArg Ctx.team (c.complete_eq st id qs)).trans rfl
@[simp] theorem Ctx.complete_first (c : Ctx) (st : Station) (id : Nat) (qs : List Nat) : (c.complete st id qs).first = c.first :=
  (congrArg Ctx.first (c.complete_eq st id qs)).trans rfl
@[simp] theorem Ctx.complete_count (c : Ctx) (st : Station) (id : Nat) (qs : List Nat) : (c.complete st id qs).count = c.count :=
  (congrArg Ctx.count (c.complete_eq st id qs)).trans rfl
@[simp] theorem Ctx.complete_launch (c : Ctx) (st : Station) (id : Nat) (qs : List Nat) : (c.complete st id qs).launch = c.launch :=
  (congrArg Ctx.launch (c.complete_eq st id qs)).trans rfl
@[simp] theorem Ctx.complete_nextId (c : Ctx) (st : Station) (id : Nat) (qs : List Nat) : (c.complete st id qs).nextId = c.nextId :=
  (congrArg Ctx.nextId (c.complete_eq st id qs)).trans rfl
@[simp] theorem Ctx.complete_pend (c : Ctx) (st : Station) (id : Nat) (qs : List Nat) : (c.complete st id qs).pend = c.pend :=
  (congrArg Ctx.pend (c.complete_eq st id qs)).trans rfl
@[simp] theorem Ctx.complete_stores (c : Ctx) (st : Station) (id : Nat) (qs : List Nat) : (c.complete st id qs).stores = c.stores :=
  (congrArg Ctx.stores (c.complete_eq st id qs)).trans rfl
@[simp] theorem Ctx.complete_vq (c : Ctx) (st : Station) (id : Nat) (qs : List Nat) : (c.complete st id qs).vq = c.vq :=
  (congrArg Ctx.vq (c.complete_eq st id qs)).trans rfl
@[simp] theorem Ctx.complete_mq (c : Ctx) (st : Station) (id : Nat) (qs : List Nat) : (c.complete st id qs).mq = c.mq :=
  (congrArg Ctx.mq (c.complete_eq st id qs)).trans rfl
@[simp] theorem Ctx.complete_cq (c : Ctx) (st : Station) (id : Nat) (qs : List Nat) : (c.complete st id qs).cq = c.cq :=
  (congrArg Ctx.cq (c.complete_eq st id qs)).trans rfl
@[simp] theorem Ctx.complete_active (c : Ctx) (st : Station) (id : Nat) (qs : List Nat) : (c.complete st id qs).active = c.active :=
  (congrArg Ctx.active (c.complete_eq st id qs)).trans rfl
@[simp] theorem Ctx.complete_mact (c : Ctx) (st : Station) (id : Nat) (qs : List Nat) : (c.complete st id qs).mact = c.mact :=
  (congrArg Ctx.mact (c.complete_eq st id qs)).trans rfl
@[simp] theorem Ctx.complete_cact (c : Ctx) (st : Station) (id : Nat) (qs : List Nat) : (c.complete st id qs).cact = c.cact :=
  (congrArg Ctx.cact (c.complete_eq st id qs)).trans rfl
@[simp] theorem Ctx.complete_min (c : Ctx) (st : Station) (id : Nat) (qs : List Nat) : (c.complete st id qs).min = c.min :=
  (congrArg Ctx.min (c.complete_eq st id qs)).trans rfl
@[simp] theorem Ctx.complete_replay (c : Ctx) (st : Station) (id : Nat) (qs : List Nat) : (c.complete st id qs).replay = c.replay :=
  (congrArg Ctx.replay (c.complete_eq st id qs)).trans rfl
@[simp] theorem Ctx.complete_afr (c : Ctx) (st : Station) (id : Nat) (qs : List Nat) : (c.complete st id qs).afr = c.afr :=
  (congrArg Ctx.afr (c.complete_eq st id qs)).trans rfl
@[simp] theorem Ctx.complete_afrWait (c : Ctx) (st : Station) (id : Nat) (qs : List Nat) : (c.complete st id qs).afrWait = c.afrWait :=
  (congrArg Ctx.afrWait (c.complete_eq st id qs)).trans rfl
@[simp] theorem Ctx.complete_preempt (c : Ctx) (st : Station) (id : Nat) (qs : List Nat) : (c.complete st id qs).preempt = c.preempt :=
  (congrArg Ctx.preempt (c.complete_eq st id qs)).trans rfl
@[simp] theorem Ctx.complete_hwait (c : Ctx) (st : Station) (id : Nat) (qs : List Nat) : (c.complete st id qs).hwait = c.hwait :=
  (congrArg Ctx.hwait (c.complete_eq st id qs)).trans rfl
@[simp] theorem Ctx.complete_block (c : Ctx) (st : Station) (id : Nat) (qs : List Nat) : (c.complete st id qs).block = c.block :=
  (congrArg Ctx.block (c.complete_eq st id qs)).trans rfl
@[simp] theorem Ctx.complete_blockedAt (c : Ctx) (st : Station) (id : Nat) (qs : List Nat) : (c.complete st id qs).blockedAt = c.blockedAt :=
  (congrArg Ctx.blockedAt (c.complete_eq st id qs)).trans rfl
@[simp] theorem Ctx.complete_heldAt (c : Ctx) (st : Station) (id : Nat) (qs : List Nat) : (c.complete st id qs).heldAt = c.heldAt :=
  (congrArg Ctx.heldAt (c.complete_eq st id qs)).trans rfl
@[simp] theorem Ctx.complete_readyAt (c : Ctx) (st : Station) (id : Nat) (qs : List Nat) : (c.complete st id qs).readyAt = c.readyAt :=
  (congrArg Ctx.readyAt (c.complete_eq st id qs)).trans rfl
@[simp] theorem Ctx.complete_spillW (c : Ctx) (st : Station) (id : Nat) (qs : List Nat) : (c.complete st id qs).spillW = c.spillW :=
  (congrArg Ctx.spillW (c.complete_eq st id qs)).trans rfl
@[simp] theorem Ctx.complete_cnt0 (c : Ctx) (st : Station) (id : Nat) (qs : List Nat) : (c.complete st id qs).cnt0 = c.cnt0 :=
  (congrArg Ctx.cnt0 (c.complete_eq st id qs)).trans rfl
@[simp] theorem Ctx.complete_tok0 (c : Ctx) (st : Station) (id : Nat) (qs : List Nat) : (c.complete st id qs).tok0 = c.tok0 :=
  (congrArg Ctx.tok0 (c.complete_eq st id qs)).trans rfl

/-! ### Issue -/

open Sys2Proof.Safety

/-- A word that can issue runs its body with its tokens popped. -/
theorem sWord_ready {i : Instr} {p : Dep} {np : Bool} {s : State} {body : State → Body} (h : CanIssue p s)
    (hp : np = true → s.ctx.priv = true) :
    sWord i p np s body = (body (s.withCtx (s.ctx.popToks .s p))).finish s := by
  obtain ⟨h1, h2, h3⟩ := h
  cases np <;> simp_all [sWord]

/-- A privileged word of unprivileged code traps with cause 2 (R382). -/
theorem sWord_unpriv {i : Instr} {p : Dep} {s : State} {body : State → Body} (h : s.live = true) (hp : s.ctx.priv = false) :
    sWord i p true s body = .next ((s.markS).takeTrap s.key (wordTrap 2 i) s.ctx.pc) := by
  simp [sWord, h, hp, Body.finish]

/-- A word whose queues lack a token blocks the berth on them (R20). -/
theorem sWord_tokens {i : Instr} {p : Dep} {np : Bool} {s : State} {body : State → Body} (h : s.live = true)
    (hp : np = true → s.ctx.priv = true) (ho : s.ctx.owes .s = false) (hc : s.ctx.canPop .s p = false) :
    sWord i p np s body = .next (s.markS.withCtx { s.ctx with block := .tokens p, blockedAt := s.now }) := by
  cases np <;> simp_all [sWord]

/-- A word that owes a push waits (R28). -/
theorem sWord_owes {i : Instr} {p : Dep} {np : Bool} {s : State} {body : State → Body} (h : s.live = true)
    (hp : np = true → s.ctx.priv = true) (ho : s.ctx.owes .s = true) : sWord i p np s body = .next s.markS.heldS := by
  cases np <;> simp_all [sWord, Body.finish]

@[simp] theorem Ctx.pendingBefore_popToks (c : Ctx) (st : Station) (p : Dep) :
    (c.popToks st p).pendingBefore = c.pendingBefore := by
  funext id d; simp [Ctx.pendingBefore]

/-- Early reads do not depend on tokens. -/
@[simp] theorem Ctx.early_popToks (c : Ctx) (st : Station) (p : Dep) : (c.popToks st p).early = c.early := by
  funext id ds; simp [Ctx.early, Ctx.firstPending]

@[simp] theorem State.earlyS_popToks (s : State) (st : Station) (p : Dep) (rs : List SReg) :
    (s.withCtx (s.ctx.popToks st p)).earlyS rs = s.earlyS rs := by
  simp [State.earlyS]

@[simp] theorem Ctx.popToks_reg (c : Ctx) (st : Station) (p : Dep) (r : SReg) : (c.popToks st p).reg r = c.reg r := by
  simp [Ctx.reg]

/-- S marks its cycle: one field of one core. -/
theorem State.markS_eq (s : State) :
    s.markS = { s with cores := mupd s.cores (s.key / 4) Core.reset fun k => { k with sAt := s.now + 1, full := false } } := rfl

/-- A body that is done retires its word. -/
theorem finish_done (s s0 : State) (pc : Word) : (Body.done s pc).finish s0 = .next (s.retire pc).markS := rfl

end Sys2Proof.Machine
end

