-- ==== Sys2Proof/Laws/PerInstr.lean ====
section
/-! SUPPORT. What every instruction's word carries (R26, R27, R35, R38): a device word its dependency field in bits 31:28 and
its major opcode in bits 27:22, a Hostel word the custom-0 opcode in bits 6:0; the package's own steps have no word. -/

namespace Sys2Proof.Laws.Encoding

open Sys2Proof

/-- The dependency field and the major opcode (R38) of a device word; none for the Hostel's words and for the steps. -/
def head : Instr → Option (Dep × BitVec 6)
  | .add p _ _ _ => some (p, 0x02)
  | .sub p _ _ _ => some (p, 0x02)
  | .mul p _ _ _ => some (p, 0x02)
  | .mulh p _ _ _ => some (p, 0x02)
  | .mulhu p _ _ _ => some (p, 0x02)
  | .div p _ _ _ => some (p, 0x02)
  | .divu p _ _ _ => some (p, 0x02)
  | .rem p _ _ _ => some (p, 0x02)
  | .remu p _ _ _ => some (p, 0x02)
  | .and p _ _ _ => some (p, 0x02)
  | .or p _ _ _ => some (p, 0x02)
  | .xor p _ _ _ => some (p, 0x02)
  | .sll p _ _ _ => some (p, 0x02)
  | .srl p _ _ _ => some (p, 0x02)
  | .sra p _ _ _ => some (p, 0x02)
  | .slt p _ _ _ => some (p, 0x02)
  | .sltu p _ _ _ => some (p, 0x02)
  | .min p _ _ _ => some (p, 0x02)
  | .max p _ _ _ => some (p, 0x02)
  | .minu p _ _ _ => some (p, 0x02)
  | .maxu p _ _ _ => some (p, 0x02)
  | .clz p _ _ => some (p, 0x02)
  | .ctz p _ _ => some (p, 0x02)
  | .popc p _ _ => some (p, 0x02)
  | .nop p => some (p, 0x01)
  | .addi p _ _ _ => some (p, 0x03)
  | .andi p _ _ _ => some (p, 0x04)
  | .ori p _ _ _ => some (p, 0x05)
  | .xori p _ _ _ => some (p, 0x06)
  | .slti p _ _ _ => some (p, 0x08)
  | .slli p _ _ _ => some (p, 0x07)
  | .srli p _ _ _ => some (p, 0x07)
  | .srai p _ _ _ => some (p, 0x07)
  | .lui p _ _ => some (p, 0x09)
  | .auipc p _ _ => some (p, 0x0A)
  | .fadd p _ _ _ => some (p, 0x0B)
  | .fsub p _ _ _ => some (p, 0x0B)
  | .fmul p _ _ _ => some (p, 0x0B)
  | .fdiv p _ _ _ => some (p, 0x0B)
  | .fsqrt p _ _ => some (p, 0x0B)
  | .fmin p _ _ _ => some (p, 0x0B)
  | .fmax p _ _ _ => some (p, 0x0B)
  | .fcmpeq p _ _ _ => some (p, 0x0B)
  | .fcmplt p _ _ _ => some (p, 0x0B)
  | .fcvti p _ _ => some (p, 0x0B)
  | .fcvtf p _ _ => some (p, 0x0B)
  | .beq p _ _ _ => some (p, 0x0C)
  | .bne p _ _ _ => some (p, 0x0D)
  | .blt p _ _ _ => some (p, 0x0E)
  | .bge p _ _ _ => some (p, 0x0F)
  | .bltu p _ _ _ => some (p, 0x10)
  | .bgeu p _ _ _ => some (p, 0x11)
  | .jal p _ _ => some (p, 0x12)
  | .jalr p _ _ _ => some (p, 0x13)
  | .lb p _ _ _ => some (p, 0x14)
  | .lbu p _ _ _ => some (p, 0x14)
  | .lh p _ _ _ => some (p, 0x14)
  | .lhu p _ _ _ => some (p, 0x14)
  | .lw p _ _ _ => some (p, 0x14)
  | .lwu p _ _ _ => some (p, 0x14)
  | .ld p _ _ _ => some (p, 0x14)
  | .sb p _ _ _ => some (p, 0x15)
  | .sh p _ _ _ => some (p, 0x15)
  | .sw p _ _ _ => some (p, 0x15)
  | .sd p _ _ _ => some (p, 0x15)
  | .lda p _ _ _ _ => some (p, 0x16)
  | .stl p _ _ _ _ => some (p, 0x16)
  | .lfe p _ _ _ => some (p, 0x17)
  | .lfec p _ _ _ => some (p, 0x17)
  | .sfe p _ _ _ => some (p, 0x17)
  | .feclr p _ _ _ => some (p, 0x17)
  | .fepoll p _ _ _ => some (p, 0x17)
  | .amoadd p _ _ _ _ _ => some (p, 0x18)
  | .amoand p _ _ _ _ _ => some (p, 0x18)
  | .amoor p _ _ _ _ _ => some (p, 0x18)
  | .amoxor p _ _ _ _ _ => some (p, 0x18)
  | .amomin p _ _ _ _ _ => some (p, 0x18)
  | .amomax p _ _ _ _ _ => some (p, 0x18)
  | .amoswap p _ _ _ _ _ => some (p, 0x18)
  | .amocas p _ _ _ _ _ => some (p, 0x18)
  | .fsh p _ _ _ _ => some (p, 0x19)
  | .fence p _ => some (p, 0x1A)
  | .xfence p _ _ => some (p, 0x1A)
  | .mkfence p _ => some (p, 0x1B)
  | .waitc p _ _ _ _ => some (p, 0x1B)
  | .sset p _ _ _ => some (p, 0x1C)
  | .sbind p _ => some (p, 0x1C)
  | .sunbind p _ => some (p, 0x1C)
  | .vcfg p _ => some (p, 0x1D)
  | .vld p _ _ _ _ => some (p, 0x1E)
  | .vldFeKeep p _ _ _ => some (p, 0x1E)
  | .vldFeClear p _ _ _ => some (p, 0x1E)
  | .vst p _ _ _ _ => some (p, 0x1F)
  | .vlds p _ _ _ => some (p, 0x20)
  | .vsts p _ _ _ => some (p, 0x20)
  | .vldx p _ _ _ => some (p, 0x20)
  | .vstx p _ _ _ => some (p, 0x20)
  | .vbcast p _ _ => some (p, 0x20)
  | .vfadd p _ _ _ => some (p, 0x21)
  | .vfsub p _ _ _ => some (p, 0x21)
  | .vfmul p _ _ _ => some (p, 0x21)
  | .vfma p _ _ _ => some (p, 0x21)
  | .vfms p _ _ _ => some (p, 0x21)
  | .vfnma p _ _ _ => some (p, 0x21)
  | .vfdiv p _ _ _ => some (p, 0x21)
  | .vfsqrt p _ _ => some (p, 0x21)
  | .vfmin p _ _ _ => some (p, 0x21)
  | .vfmax p _ _ _ => some (p, 0x21)
  | .vfabs p _ _ => some (p, 0x21)
  | .vfneg p _ _ => some (p, 0x21)
  | .vexp2 p _ _ => some (p, 0x22)
  | .vlog2 p _ _ => some (p, 0x22)
  | .vrsq p _ _ => some (p, 0x22)
  | .vrcp p _ _ => some (p, 0x22)
  | .vtanh p _ _ => some (p, 0x22)
  | .vsigm p _ _ => some (p, 0x22)
  | .vadd p _ _ _ => some (p, 0x23)
  | .vsub p _ _ _ => some (p, 0x23)
  | .vmul p _ _ _ => some (p, 0x23)
  | .vmulh p _ _ _ => some (p, 0x23)
  | .vmin p _ _ _ => some (p, 0x23)
  | .vmax p _ _ _ => some (p, 0x23)
  | .vminu p _ _ _ => some (p, 0x23)
  | .vmaxu p _ _ _ => some (p, 0x23)
  | .vadds p _ _ _ => some (p, 0x23)
  | .vsubs p _ _ _ => some (p, 0x23)
  | .vand p _ _ _ => some (p, 0x24)
  | .vor p _ _ _ => some (p, 0x24)
  | .vxor p _ _ _ => some (p, 0x24)
  | .vsll p _ _ _ => some (p, 0x24)
  | .vsrl p _ _ _ => some (p, 0x24)
  | .vsra p _ _ _ => some (p, 0x24)
  | .vcmpeq p _ _ _ => some (p, 0x25)
  | .vcmplt p _ _ _ => some (p, 0x25)
  | .vcmple p _ _ _ => some (p, 0x25)
  | .mand p _ _ _ => some (p, 0x25)
  | .mor p _ _ _ => some (p, 0x25)
  | .mnot p _ _ => some (p, 0x25)
  | .mpopc p _ _ => some (p, 0x25)
  | .vperm p _ _ _ => some (p, 0x26)
  | .vperm2 p _ _ _ => some (p, 0x26)
  | .vshuf p _ _ _ => some (p, 0x26)
  | .vslide p _ _ _ => some (p, 0x26)
  | .vmov p _ _ => some (p, 0x26)
  | .vsplat p _ _ => some (p, 0x27)
  | .vext p _ _ _ => some (p, 0x27)
  | .vins p _ _ _ => some (p, 0x27)
  | .vcvt p _ _ _ => some (p, 0x28)
  | .vpack p _ _ _ => some (p, 0x28)
  | .vwiden p _ _ _ => some (p, 0x28)
  | .vredsum p _ _ => some (p, 0x29)
  | .vredmax p _ _ => some (p, 0x29)
  | .vredmin p _ _ => some (p, 0x29)
  | .xadd p _ _ _ => some (p, 0x2A)
  | .xsub p _ _ _ => some (p, 0x2A)
  | .xmul p _ _ _ => some (p, 0x2A)
  | .xfma p _ _ _ => some (p, 0x2A)
  | .xred p _ _ => some (p, 0x2A)
  | .dwadd p _ _ _ => some (p, 0x2B)
  | .dwsub p _ _ _ => some (p, 0x2B)
  | .dwmul p _ _ _ => some (p, 0x2B)
  | .dwnorm p _ _ => some (p, 0x2B)
  | .dwrnd p _ _ => some (p, 0x2B)
  | .sldep p _ _ _ => some (p, 0x2C)
  | .slmerge p _ _ _ => some (p, 0x2C)
  | .mset p _ _ _ => some (p, 0x2D)
  | .mballoc p _ _ _ => some (p, 0x2D)
  | .mbfree p _ _ _ => some (p, 0x2D)
  | .mzero p _ _ _ => some (p, 0x2D)
  | .mmac p _ _ _ => some (p, 0x2D)
  | .mdrain p _ _ _ => some (p, 0x2D)
  | .mfill p _ _ _ => some (p, 0x2D)
  | .mstat p _ => some (p, 0x2D)
  | .cset p _ _ _ => some (p, 0x2E)
  | .copy p _ _ => some (p, 0x2E)
  | .cfill p _ _ => some (p, 0x2E)
  | .rsend p _ _ => some (p, 0x2F)
  | .rpermit p _ _ => some (p, 0x2F)
  | .rstat p _ _ => some (p, 0x2F)
  | .msgw p _ _ _ => some (p, 0x30)
  | .wtarm p _ _ _ => some (p, 0x30)
  | .wtdis p _ _ => some (p, 0x30)
  | .cntwait p _ _ _ => some (p, 0x30)
  | .spawn p _ => some (p, 0x31)
  | .joindec p _ _ => some (p, 0x31)
  | .retire p => some (p, 0x31)
  | .yield p => some (p, 0x31)
  | .gnew p _ _ => some (p, 0x32)
  | .gjoin p _ => some (p, 0x32)
  | .gleave p _ => some (p, 0x32)
  | .gbar p _ _ => some (p, 0x32)
  | .gbcfg p _ _ => some (p, 0x32)
  | .gfree p _ => some (p, 0x32)
  | .getid p _ _ => some (p, 0x33)
  | .rdcsr p _ _ => some (p, 0x33)
  | .wrcsr p _ _ => some (p, 0x33)
  | .emit p _ _ _ => some (p, 0x34)
  | .fwait p _ => some (p, 0x34)
  | .pxlook p _ _ => some (p, 0x34)
  | .pxins p _ _ => some (p, 0x34)
  | .pxrel p _ _ => some (p, 0x34)
  | .capld p _ _ => some (p, 0x35)
  | .capclr p _ => some (p, 0x35)
  | .csave p _ => some (p, 0x35)
  | .crestore p _ => some (p, 0x35)
  | .tlbinv p _ => some (p, 0x35)
  | .tlbflush p _ => some (p, 0x35)
  | .eret p => some (p, 0x35)
  | .cwb p _ _ => some (p, 0x36)
  | .cinv p _ _ => some (p, 0x36)
  | .pref p _ _ => some (p, 0x36)
  | .trap p _ => some (p, 0x37)
  | .brk p => some (p, 0x37)
  | .wfe p => some (p, 0x37)
  | .sld p _ _ => some (p, 0x38)
  | .sst p _ _ => some (p, 0x38)
  | .gsld p _ _ => some (p, 0x38)
  | .gsst p _ _ => some (p, 0x38)
  | .fdone _ _ => none
  | .fpoll _ _ => none
  | .sbox _ _ => none
  | .stationStart _ _ => none
  | .landing _ _ => none
  | .storeTakesEffect _ _ => none
  | .pageWalkComplete _ => none
  | .asyncTrapEntry _ => none
  | .sequencerSwitch _ => none
  | .deadlockProbe _ => none
  | .launchStatusReport _ _ _ _ => none
  | .runQueuePop _ => none
  | .localReadyListTake _ => none
  | .waitingTaskArrival _ _ _ => none
  | .sfuRequestAccept _ _ => none
  | .matrixCommandAccept _ => none
  | .matrixCommandStart _ => none
  | .matrixCommandComplete _ => none
  | .copyComplete _ _ => none
  | .relayArrival _ => none
  | .permitReturn _ => none
  | .msgwArrival _ _ => none
  | .futureTimeout _ => none
  | .biasFlipComplete _ => none
  | .preemptionHalt _ _ => none
  | .fshAtCellar _ _ => none
  | .trapEntry _ _ _ _ _ => none
  | .launchSlotDoorbell _ _ => none
  | .sliceBoundary => none
  | .drainBandArrival _ _ _ _ _ _ => none
  | .engineFault _ _ _ _ _ _ _ _ => none
  | .relayDescriptorWrite _ _ _ => none
  | .relayChannelEnable _ _ => none
  | .relayChannelDisable _ _ => none
  | .bankFormatWrite _ _ _ => none
  | .mailboxPost => none
  | .futureCompletion _ _ _ => none
  | .injectionRetry _ => none
  | .continuationPushRetry => none
  | .futureServiceMessage _ _ => none
  | .runQueueWindowPush _ _ _ => none
  | .ualinkLaunchPacket _ _ _ => none
  | .runQueueConfigWrite _ _ _ => none
  | .sliceLengthWrite _ => none
  | .vocabSlotLoad _ => none
  | .registerWrite _ _ => none
  | .hostWindowAccess _ _ _ => none
  | .homeRequest _ _ _ => none
  | .snoopInvalidation _ _ _ => none
  | .writeBackArrival _ _ => none
  | .biasFlipRequest _ _ _ => none
  | .frameGenChange _ _ _ => none
  | .migrationOpen _ _ => none
  | .migrationSwitch _ => none
  | .growRequest _ => none
  | .cellarLoad => none
  | .keyInstall => none
  | .keyErase => none
  | .tensorLayoutValidate _ => none
  | .imageLoadRequest => none
  | .driveDma _ _ _ => none
  | .mailboxConfigWrite _ _ _ => none
  | .fcsignWrite _ _ => none
  | .capsignWrite _ _ => none
  | .ctlWrite _ _ => none
  | .afpopKeep _ => none
  | .afpopDrop _ => none
  | .preemptionRequest _ _ => none
  | .windowConfigWrite _ _ => none
  | .linkCrcFailure _ _ _ => none
  | .laneRepairSwitch _ _ => none
  | .powerControlWrite _ => none
  | .powerCapStep => none
  | .quoteRequest _ => none
  | .packageReset => none
  | .hostelAccess _ _ _ _ _ => none
  | .portLaneError _ _ => none
  | .wfeEndWithoutEvent _ => none

/-- The statement for one instruction: each word that it encodes to carries these fields. -/
def Statement (i : Instr) : Prop :=
  ∀ w, encode i = some w →
    match head i with
    | some (p, m) => fld w 28 4 = p ∧ fld w 22 6 = m
    | none => fld w 0 7 = 0b0001011#7

theorem add (p : Dep) (d a b : SReg) : Statement (.add p d a b) := by intro w h; cases h; exact encR_head ..
theorem sub (p : Dep) (d a b : SReg) : Statement (.sub p d a b) := by intro w h; cases h; exact encR_head ..
theorem mul (p : Dep) (d a b : SReg) : Statement (.mul p d a b) := by intro w h; cases h; exact encR_head ..
theorem mulh (p : Dep) (d a b : SReg) : Statement (.mulh p d a b) := by intro w h; cases h; exact encR_head ..
theorem mulhu (p : Dep) (d a b : SReg) : Statement (.mulhu p d a b) := by intro w h; cases h; exact encR_head ..
theorem div (p : Dep) (d a b : SReg) : Statement (.div p d a b) := by intro w h; cases h; exact encR_head ..
theorem divu (p : Dep) (d a b : SReg) : Statement (.divu p d a b) := by intro w h; cases h; exact encR_head ..
theorem rem (p : Dep) (d a b : SReg) : Statement (.rem p d a b) := by intro w h; cases h; exact encR_head ..
theorem remu (p : Dep) (d a b : SReg) : Statement (.remu p d a b) := by intro w h; cases h; exact encR_head ..
theorem and (p : Dep) (d a b : SReg) : Statement (.and p d a b) := by intro w h; cases h; exact encR_head ..
theorem or (p : Dep) (d a b : SReg) : Statement (.or p d a b) := by intro w h; cases h; exact encR_head ..
theorem xor (p : Dep) (d a b : SReg) : Statement (.xor p d a b) := by intro w h; cases h; exact encR_head ..
theorem sll (p : Dep) (d a b : SReg) : Statement (.sll p d a b) := by intro w h; cases h; exact encR_head ..
theorem srl (p : Dep) (d a b : SReg) : Statement (.srl p d a b) := by intro w h; cases h; exact encR_head ..
theorem sra (p : Dep) (d a b : SReg) : Statement (.sra p d a b) := by intro w h; cases h; exact encR_head ..
theorem slt (p : Dep) (d a b : SReg) : Statement (.slt p d a b) := by intro w h; cases h; exact encR_head ..
theorem sltu (p : Dep) (d a b : SReg) : Statement (.sltu p d a b) := by intro w h; cases h; exact encR_head ..
theorem min (p : Dep) (d a b : SReg) : Statement (.min p d a b) := by intro w h; cases h; exact encR_head ..
theorem max (p : Dep) (d a b : SReg) : Statement (.max p d a b) := by intro w h; cases h; exact encR_head ..
theorem minu (p : Dep) (d a b : SReg) : Statement (.minu p d a b) := by intro w h; cases h; exact encR_head ..
theorem maxu (p : Dep) (d a b : SReg) : Statement (.maxu p d a b) := by intro w h; cases h; exact encR_head ..
theorem clz (p : Dep) (d a : SReg) : Statement (.clz p d a) := by intro w h; cases h; exact encR_head ..
theorem ctz (p : Dep) (d a : SReg) : Statement (.ctz p d a) := by intro w h; cases h; exact encR_head ..
theorem popc (p : Dep) (d a : SReg) : Statement (.popc p d a) := by intro w h; cases h; exact encR_head ..
theorem nop (p : Dep) : Statement (.nop p) := by intro w h; cases h; exact encU_head ..
theorem addi (p : Dep) (d a : SReg) (i : BitVec 12) : Statement (.addi p d a i) := by intro w h; cases h; exact encI_head ..
theorem andi (p : Dep) (d a : SReg) (i : BitVec 12) : Statement (.andi p d a i) := by intro w h; cases h; exact encI_head ..
theorem ori (p : Dep) (d a : SReg) (i : BitVec 12) : Statement (.ori p d a i) := by intro w h; cases h; exact encI_head ..
theorem xori (p : Dep) (d a : SReg) (i : BitVec 12) : Statement (.xori p d a i) := by intro w h; cases h; exact encI_head ..
theorem slti (p : Dep) (d a : SReg) (i : BitVec 12) : Statement (.slti p d a i) := by intro w h; cases h; exact encI_head ..
theorem slli (p : Dep) (d a : SReg) (h : BitVec 6) : Statement (.slli p d a h) := by intro w h; cases h; exact encI_head ..
theorem srli (p : Dep) (d a : SReg) (h : BitVec 6) : Statement (.srli p d a h) := by intro w h; cases h; exact encI_head ..
theorem srai (p : Dep) (d a : SReg) (h : BitVec 6) : Statement (.srai p d a h) := by intro w h; cases h; exact encI_head ..
theorem lui (p : Dep) (d : SReg) (i : BitVec 17) : Statement (.lui p d i) := by intro w h; cases h; exact encU_head ..
theorem auipc (p : Dep) (d : SReg) (i : BitVec 17) : Statement (.auipc p d i) := by intro w h; cases h; exact encU_head ..
theorem fadd (p : Dep) (d a b : SReg) : Statement (.fadd p d a b) := by intro w h; cases h; exact encR_head ..
theorem fsub (p : Dep) (d a b : SReg) : Statement (.fsub p d a b) := by intro w h; cases h; exact encR_head ..
theorem fmul (p : Dep) (d a b : SReg) : Statement (.fmul p d a b) := by intro w h; cases h; exact encR_head ..
theorem fdiv (p : Dep) (d a b : SReg) : Statement (.fdiv p d a b) := by intro w h; cases h; exact encR_head ..
theorem fsqrt (p : Dep) (d a : SReg) : Statement (.fsqrt p d a) := by intro w h; cases h; exact encR_head ..
theorem fmin (p : Dep) (d a b : SReg) : Statement (.fmin p d a b) := by intro w h; cases h; exact encR_head ..
theorem fmax (p : Dep) (d a b : SReg) : Statement (.fmax p d a b) := by intro w h; cases h; exact encR_head ..
theorem fcmpeq (p : Dep) (d a b : SReg) : Statement (.fcmpeq p d a b) := by intro w h; cases h; exact encR_head ..
theorem fcmplt (p : Dep) (d a b : SReg) : Statement (.fcmplt p d a b) := by intro w h; cases h; exact encR_head ..
theorem fcvti (p : Dep) (d a : SReg) : Statement (.fcvti p d a) := by intro w h; cases h; exact encR_head ..
theorem fcvtf (p : Dep) (d a : SReg) : Statement (.fcvtf p d a) := by intro w h; cases h; exact encR_head ..
theorem beq (p : Dep) (a b : SReg) (o : BitVec 12) : Statement (.beq p a b o) := by intro w h; cases h; exact encI_head ..
theorem bne (p : Dep) (a b : SReg) (o : BitVec 12) : Statement (.bne p a b o) := by intro w h; cases h; exact encI_head ..
theorem blt (p : Dep) (a b : SReg) (o : BitVec 12) : Statement (.blt p a b o) := by intro w h; cases h; exact encI_head ..
theorem bge (p : Dep) (a b : SReg) (o : BitVec 12) : Statement (.bge p a b o) := by intro w h; cases h; exact encI_head ..
theorem bltu (p : Dep) (a b : SReg) (o : BitVec 12) : Statement (.bltu p a b o) := by intro w h; cases h; exact encI_head ..
theorem bgeu (p : Dep) (a b : SReg) (o : BitVec 12) : Statement (.bgeu p a b o) := by intro w h; cases h; exact encI_head ..
theorem jal (p : Dep) (d : SReg) (o : BitVec 17) : Statement (.jal p d o) := by intro w h; cases h; exact encU_head ..
theorem jalr (p : Dep) (d a : SReg) (i : BitVec 12) : Statement (.jalr p d a i) := by intro w h; cases h; exact encI_head ..
theorem lb (p : Dep) (d a : SReg) (i : BitVec 9) : Statement (.lb p d a i) := by intro w h; cases h; exact encM_head ..
theorem lbu (p : Dep) (d a : SReg) (i : BitVec 9) : Statement (.lbu p d a i) := by intro w h; cases h; exact encM_head ..
theorem lh (p : Dep) (d a : SReg) (i : BitVec 9) : Statement (.lh p d a i) := by intro w h; cases h; exact encM_head ..
theorem lhu (p : Dep) (d a : SReg) (i : BitVec 9) : Statement (.lhu p d a i) := by intro w h; cases h; exact encM_head ..
theorem lw (p : Dep) (d a : SReg) (i : BitVec 9) : Statement (.lw p d a i) := by intro w h; cases h; exact encM_head ..
theorem lwu (p : Dep) (d a : SReg) (i : BitVec 9) : Statement (.lwu p d a i) := by intro w h; cases h; exact encM_head ..
theorem ld (p : Dep) (d a : SReg) (i : BitVec 9) : Statement (.ld p d a i) := by intro w h; cases h; exact encM_head ..
theorem sb (p : Dep) (d a : SReg) (i : BitVec 9) : Statement (.sb p d a i) := by intro w h; cases h; exact encM_head ..
theorem sh (p : Dep) (d a : SReg) (i : BitVec 9) : Statement (.sh p d a i) := by intro w h; cases h; exact encM_head ..
theorem sw (p : Dep) (d a : SReg) (i : BitVec 9) : Statement (.sw p d a i) := by intro w h; cases h; exact encM_head ..
theorem sd (p : Dep) (d a : SReg) (i : BitVec 9) : Statement (.sd p d a i) := by intro w h; cases h; exact encM_head ..
theorem lda (p : Dep) (d a : SReg) (sc : Scope) (z : BitVec 2) : Statement (.lda p d a sc z) := by intro w h; cases h; exact encR_head ..
theorem stl (p : Dep) (a b : SReg) (sc : Scope) (z : BitVec 2) : Statement (.stl p a b sc z) := by intro w h; cases h; exact encR_head ..
theorem lfe (p : Dep) (d a : SReg) (i : BitVec 9) : Statement (.lfe p d a i) := by intro w h; cases h; exact encM_head ..
theorem lfec (p : Dep) (d a : SReg) (i : BitVec 9) : Statement (.lfec p d a i) := by intro w h; cases h; exact encM_head ..
theorem sfe (p : Dep) (d a : SReg) (i : BitVec 9) : Statement (.sfe p d a i) := by intro w h; cases h; exact encM_head ..
theorem feclr (p : Dep) (d a : SReg) (i : BitVec 9) : Statement (.feclr p d a i) := by intro w h; cases h; exact encM_head ..
theorem fepoll (p : Dep) (d a : SReg) (i : BitVec 9) : Statement (.fepoll p d a i) := by intro w h; cases h; exact encM_head ..
theorem amoadd (p : Dep) (d a b : SReg) (ar : Bool) (sc : Scope) : Statement (.amoadd p d a b ar sc) := by intro w h; cases h; exact encR_head ..
theorem amoand (p : Dep) (d a b : SReg) (ar : Bool) (sc : Scope) : Statement (.amoand p d a b ar sc) := by intro w h; cases h; exact encR_head ..
theorem amoor (p : Dep) (d a b : SReg) (ar : Bool) (sc : Scope) : Statement (.amoor p d a b ar sc) := by intro w h; cases h; exact encR_head ..
theorem amoxor (p : Dep) (d a b : SReg) (ar : Bool) (sc : Scope) : Statement (.amoxor p d a b ar sc) := by intro w h; cases h; exact encR_head ..
theorem amomin (p : Dep) (d a b : SReg) (ar : Bool) (sc : Scope) : Statement (.amomin p d a b ar sc) := by intro w h; cases h; exact encR_head ..
theorem amomax (p : Dep) (d a b : SReg) (ar : Bool) (sc : Scope) : Statement (.amomax p d a b ar sc) := by intro w h; cases h; exact encR_head ..
theorem amoswap (p : Dep) (d a b : SReg) (ar : Bool) (sc : Scope) : Statement (.amoswap p d a b ar sc) := by intro w h; cases h; exact encR_head ..
theorem amocas (p : Dep) (d a b : SReg) (ar : Bool) (sc : Scope) : Statement (.amocas p d a b ar sc) := by intro w h; cases h; exact encR_head ..
theorem fsh (p : Dep) (d a b : SReg) (n : BitVec 7) : Statement (.fsh p d a b n) := by intro w h; cases h; exact encR_head ..
theorem fence (p : Dep) (sc : Scope) : Statement (.fence p sc) := by intro w h; cases h; exact encI_head ..
theorem xfence (p : Dep) (x y : Path) : Statement (.xfence p x y) := by intro w h; cases h; exact encI_head ..
theorem mkfence (p : Dep) (l : BitVec 3) : Statement (.mkfence p l) := by intro w h; cases h; exact encI_head ..
theorem waitc (p : Dep) (t c s l : BitVec 3) : Statement (.waitc p t c s l) := by intro w h; cases h; exact encI_head ..
theorem sset (p : Dep) (n : BitVec 2) (a b : SReg) : Statement (.sset p n a b) := by intro w h; cases h; exact encGS_head ..
theorem sbind (p : Dep) (n : BitVec 2) : Statement (.sbind p n) := by intro w h; cases h; exact encGS_head ..
theorem sunbind (p : Dep) (n : BitVec 2) : Statement (.sunbind p n) := by intro w h; cases h; exact encGS_head ..
theorem vcfg (p : Dep) (i : BitVec 10) : Statement (.vcfg p i) := by intro w h; cases h; exact encI_head ..
theorem vld (p : Dep) (g : GOp) (a : SReg) (n : Bool) (i : BitVec 9) : Statement (.vld p g a n i) := by intro w h; cases h; exact encGM_head ..
theorem vldFeKeep (p : Dep) (g : GOp) (a : SReg) (i : BitVec 9) : Statement (.vldFeKeep p g a i) := by intro w h; cases h; exact encGM_head ..
theorem vldFeClear (p : Dep) (g : GOp) (a : SReg) (i : BitVec 9) : Statement (.vldFeClear p g a i) := by intro w h; cases h; exact encGM_head ..
theorem vst (p : Dep) (g : GOp) (a : SReg) (n : Bool) (i : BitVec 9) : Statement (.vst p g a n i) := by intro w h; cases h; exact encGM_head ..
theorem vlds (p : Dep) (g : GOp) (a b : SReg) : Statement (.vlds p g a b) := by intro w h; cases h; exact encGS_head ..
theorem vsts (p : Dep) (g : GOp) (a b : SReg) : Statement (.vsts p g a b) := by intro w h; cases h; exact encGS_head ..
theorem vldx (p : Dep) (g : GOp) (a : SReg) (x : BitVec 5) : Statement (.vldx p g a x) := by intro w h; cases h; exact encGS_head ..
theorem vstx (p : Dep) (g : GOp) (a : SReg) (x : BitVec 5) : Statement (.vstx p g a x) := by intro w h; cases h; exact encGS_head ..
theorem vbcast (p : Dep) (g : GOp) (a : SReg) : Statement (.vbcast p g a) := by intro w h; cases h; exact encGS_head ..
theorem vfadd (p : Dep) (g a b : GOp) : Statement (.vfadd p g a b) := by intro w h; cases h; exact encG_head ..
theorem vfsub (p : Dep) (g a b : GOp) : Statement (.vfsub p g a b) := by intro w h; cases h; exact encG_head ..
theorem vfmul (p : Dep) (g a b : GOp) : Statement (.vfmul p g a b) := by intro w h; cases h; exact encG_head ..
theorem vfma (p : Dep) (g a b : GOp) : Statement (.vfma p g a b) := by intro w h; cases h; exact encG_head ..
theorem vfms (p : Dep) (g a b : GOp) : Statement (.vfms p g a b) := by intro w h; cases h; exact encG_head ..
theorem vfnma (p : Dep) (g a b : GOp) : Statement (.vfnma p g a b) := by intro w h; cases h; exact encG_head ..
theorem vfdiv (p : Dep) (g a b : GOp) : Statement (.vfdiv p g a b) := by intro w h; cases h; exact encG_head ..
theorem vfsqrt (p : Dep) (g a : GOp) : Statement (.vfsqrt p g a) := by intro w h; cases h; exact encG_head ..
theorem vfmin (p : Dep) (g a b : GOp) : Statement (.vfmin p g a b) := by intro w h; cases h; exact encG_head ..
theorem vfmax (p : Dep) (g a b : GOp) : Statement (.vfmax p g a b) := by intro w h; cases h; exact encG_head ..
theorem vfabs (p : Dep) (g a : GOp) : Statement (.vfabs p g a) := by intro w h; cases h; exact encG_head ..
theorem vfneg (p : Dep) (g a : GOp) : Statement (.vfneg p g a) := by intro w h; cases h; exact encG_head ..
theorem vexp2 (p : Dep) (g a : GOp) : Statement (.vexp2 p g a) := by intro w h; cases h; exact encG_head ..
theorem vlog2 (p : Dep) (g a : GOp) : Statement (.vlog2 p g a) := by intro w h; cases h; exact encG_head ..
theorem vrsq (p : Dep) (g a : GOp) : Statement (.vrsq p g a) := by intro w h; cases h; exact encG_head ..
theorem vrcp (p : Dep) (g a : GOp) : Statement (.vrcp p g a) := by intro w h; cases h; exact encG_head ..
theorem vtanh (p : Dep) (g a : GOp) : Statement (.vtanh p g a) := by intro w h; cases h; exact encG_head ..
theorem vsigm (p : Dep) (g a : GOp) : Statement (.vsigm p g a) := by intro w h; cases h; exact encG_head ..
theorem vadd (p : Dep) (g a b : GOp) : Statement (.vadd p g a b) := by intro w h; cases h; exact encG_head ..
theorem vsub (p : Dep) (g a b : GOp) : Statement (.vsub p g a b) := by intro w h; cases h; exact encG_head ..
theorem vmul (p : Dep) (g a b : GOp) : Statement (.vmul p g a b) := by intro w h; cases h; exact encG_head ..
theorem vmulh (p : Dep) (g a b : GOp) : Statement (.vmulh p g a b) := by intro w h; cases h; exact encG_head ..
theorem vmin (p : Dep) (g a b : GOp) : Statement (.vmin p g a b) := by intro w h; cases h; exact encG_head ..
theorem vmax (p : Dep) (g a b : GOp) : Statement (.vmax p g a b) := by intro w h; cases h; exact encG_head ..
theorem vminu (p : Dep) (g a b : GOp) : Statement (.vminu p g a b) := by intro w h; cases h; exact encG_head ..
theorem vmaxu (p : Dep) (g a b : GOp) : Statement (.vmaxu p g a b) := by intro w h; cases h; exact encG_head ..
theorem vadds (p : Dep) (g a b : GOp) : Statement (.vadds p g a b) := by intro w h; cases h; exact encG_head ..
theorem vsubs (p : Dep) (g a b : GOp) : Statement (.vsubs p g a b) := by intro w h; cases h; exact encG_head ..
theorem vand (p : Dep) (g a b : GOp) : Statement (.vand p g a b) := by intro w h; cases h; exact encG_head ..
theorem vor (p : Dep) (g a b : GOp) : Statement (.vor p g a b) := by intro w h; cases h; exact encG_head ..
theorem vxor (p : Dep) (g a b : GOp) : Statement (.vxor p g a b) := by intro w h; cases h; exact encG_head ..
theorem vsll (p : Dep) (g a b : GOp) : Statement (.vsll p g a b) := by intro w h; cases h; exact encG_head ..
theorem vsrl (p : Dep) (g a b : GOp) : Statement (.vsrl p g a b) := by intro w h; cases h; exact encG_head ..
theorem vsra (p : Dep) (g a b : GOp) : Statement (.vsra p g a b) := by intro w h; cases h; exact encG_head ..
theorem vcmpeq (p : Dep) (m : MReg) (a b : GOp) : Statement (.vcmpeq p m a b) := by intro w h; cases h; exact encG_head ..
theorem vcmplt (p : Dep) (m : MReg) (a b : GOp) : Statement (.vcmplt p m a b) := by intro w h; cases h; exact encG_head ..
theorem vcmple (p : Dep) (m : MReg) (a b : GOp) : Statement (.vcmple p m a b) := by intro w h; cases h; exact encG_head ..
theorem mand (p : Dep) (d a b : MReg) : Statement (.mand p d a b) := by intro w h; cases h; exact encG_head ..
theorem mor (p : Dep) (d a b : MReg) : Statement (.mor p d a b) := by intro w h; cases h; exact encG_head ..
theorem mnot (p : Dep) (d a : MReg) : Statement (.mnot p d a) := by intro w h; cases h; exact encG_head ..
theorem mpopc (p : Dep) (d : SReg) (a : MReg) : Statement (.mpopc p d a) := by intro w h; cases h; exact encG_head ..
theorem vperm (p : Dep) (g a b : GOp) : Statement (.vperm p g a b) := by intro w h; cases h; exact encG_head ..
theorem vperm2 (p : Dep) (g : GOp) (a : PairOp) (b : GOp) : Statement (.vperm2 p g a b) := by intro w h; cases h; exact encG_head ..
theorem vshuf (p : Dep) (g a : GOp) (c : Shuf) : Statement (.vshuf p g a c) := by intro w h; cases h; exact encG_head ..
theorem vslide (p : Dep) (g a : GOp) (k : BitVec 6) : Statement (.vslide p g a k) := by intro w h; cases h; exact encG_head ..
theorem vmov (p : Dep) (g a : GOp) : Statement (.vmov p g a) := by intro w h; cases h; exact encG_head ..
theorem vsplat (p : Dep) (g : GOp) (a : SReg) : Statement (.vsplat p g a) := by intro w h; cases h; exact encGS_head ..
theorem vext (p : Dep) (g : GOp) (d b : SReg) : Statement (.vext p g d b) := by intro w h; cases h; exact encGS_head ..
theorem vins (p : Dep) (g : GOp) (a b : SReg) : Statement (.vins p g a b) := by intro w h; cases h; exact encGS_head ..
theorem vcvt (p : Dep) (g a : GOp) (t : BitVec 4) : Statement (.vcvt p g a t) := by intro w h; cases h; exact encG_head ..
theorem vpack (p : Dep) (g a : GOp) (t : BitVec 4) : Statement (.vpack p g a t) := by intro w h; cases h; exact encG_head ..
theorem vwiden (p : Dep) (g a : GOp) (t : BitVec 4) : Statement (.vwiden p g a t) := by intro w h; cases h; exact encG_head ..
theorem vredsum (p : Dep) (g a : GOp) : Statement (.vredsum p g a) := by intro w h; cases h; exact encG_head ..
theorem vredmax (p : Dep) (g a : GOp) : Statement (.vredmax p g a) := by intro w h; cases h; exact encG_head ..
theorem vredmin (p : Dep) (g a : GOp) : Statement (.vredmin p g a) := by intro w h; cases h; exact encG_head ..
theorem xadd (p : Dep) (g : PairOp) (a b : GOp) : Statement (.xadd p g a b) := by intro w h; cases h; exact encG_head ..
theorem xsub (p : Dep) (g : PairOp) (a b : GOp) : Statement (.xsub p g a b) := by intro w h; cases h; exact encG_head ..
theorem xmul (p : Dep) (g : PairOp) (a b : GOp) : Statement (.xmul p g a b) := by intro w h; cases h; exact encG_head ..
theorem xfma (p : Dep) (g : PairOp) (a b : GOp) : Statement (.xfma p g a b) := by intro w h; cases h; exact encG_head ..
theorem xred (p : Dep) (g a : PairOp) : Statement (.xred p g a) := by intro w h; cases h; exact encG_head ..
theorem dwadd (p : Dep) (g a b : PairOp) : Statement (.dwadd p g a b) := by intro w h; cases h; exact encG_head ..
theorem dwsub (p : Dep) (g a b : PairOp) : Statement (.dwsub p g a b) := by intro w h; cases h; exact encG_head ..
theorem dwmul (p : Dep) (g a b : PairOp) : Statement (.dwmul p g a b) := by intro w h; cases h; exact encG_head ..
theorem dwnorm (p : Dep) (g a : PairOp) : Statement (.dwnorm p g a) := by intro w h; cases h; exact encG_head ..
theorem dwrnd (p : Dep) (g : GOp) (a : PairOp) : Statement (.dwrnd p g a) := by intro w h; cases h; exact encG_head ..
theorem sldep (p : Dep) (g : PairOp) (a b : SReg) : Statement (.sldep p g a b) := by intro w h; cases h; exact encGS_head ..
theorem slmerge (p : Dep) (g : PairOp) (a b : SReg) : Statement (.slmerge p g a b) := by intro w h; cases h; exact encGS_head ..
theorem mset (p : Dep) (a b : SReg) (r : BitVec 4) : Statement (.mset p a b r) := by intro w h; cases h; exact encE_head ..
theorem mballoc (p : Dep) (a b : SReg) (c : BitVec 3) : Statement (.mballoc p a b c) := by intro w h; cases h; exact encE_head ..
theorem mbfree (p : Dep) (a b : SReg) (c : BitVec 3) : Statement (.mbfree p a b c) := by intro w h; cases h; exact encE_head ..
theorem mzero (p : Dep) (a b : SReg) (c : BitVec 3) : Statement (.mzero p a b c) := by intro w h; cases h; exact encE_head ..
theorem mmac (p : Dep) (a b : SReg) (c : BitVec 3) : Statement (.mmac p a b c) := by intro w h; cases h; exact encE_head ..
theorem mdrain (p : Dep) (a b : SReg) (c : BitVec 3) : Statement (.mdrain p a b c) := by intro w h; cases h; exact encE_head ..
theorem mfill (p : Dep) (a b : SReg) (c : BitVec 3) : Statement (.mfill p a b c) := by intro w h; cases h; exact encE_head ..
theorem mstat (p : Dep) (a : SReg) : Statement (.mstat p a) := by intro w h; cases h; exact encE_head ..
theorem cset (p : Dep) (a b : SReg) (r : BitVec 3) : Statement (.cset p a b r) := by intro w h; cases h; exact encE_head ..
theorem copy (p : Dep) (a b : SReg) : Statement (.copy p a b) := by intro w h; cases h; exact encE_head ..
theorem cfill (p : Dep) (a b : SReg) : Statement (.cfill p a b) := by intro w h; cases h; exact encE_head ..
theorem rsend (p : Dep) (a b : SReg) : Statement (.rsend p a b) := by intro w h; cases h; exact encE_head ..
theorem rpermit (p : Dep) (a b : SReg) : Statement (.rpermit p a b) := by intro w h; cases h; exact encE_head ..
theorem rstat (p : Dep) (a b : SReg) : Statement (.rstat p a b) := by intro w h; cases h; exact encE_head ..
theorem msgw (p : Dep) (d a b : SReg) : Statement (.msgw p d a b) := by intro w h; cases h; exact encR_head ..
theorem wtarm (p : Dep) (d a b : SReg) : Statement (.wtarm p d a b) := by intro w h; cases h; exact encR_head ..
theorem wtdis (p : Dep) (d a : SReg) : Statement (.wtdis p d a) := by intro w h; cases h; exact encR_head ..
theorem cntwait (p : Dep) (d a b : SReg) : Statement (.cntwait p d a b) := by intro w h; cases h; exact encR_head ..
theorem spawn (p : Dep) (a : SReg) : Statement (.spawn p a) := by intro w h; cases h; exact encR_head ..
theorem joindec (p : Dep) (d a : SReg) : Statement (.joindec p d a) := by intro w h; cases h; exact encR_head ..
theorem retire (p : Dep) : Statement (.retire p) := by intro w h; cases h; exact encR_head ..
theorem yield (p : Dep) : Statement (.yield p) := by intro w h; cases h; exact encR_head ..
theorem gnew (p : Dep) (d a : SReg) : Statement (.gnew p d a) := by intro w h; cases h; exact encR_head ..
theorem gjoin (p : Dep) (a : SReg) : Statement (.gjoin p a) := by intro w h; cases h; exact encR_head ..
theorem gleave (p : Dep) (a : SReg) : Statement (.gleave p a) := by intro w h; cases h; exact encR_head ..
theorem gbar (p : Dep) (d a : SReg) : Statement (.gbar p d a) := by intro w h; cases h; exact encR_head ..
theorem gbcfg (p : Dep) (a b : SReg) : Statement (.gbcfg p a b) := by intro w h; cases h; exact encR_head ..
theorem gfree (p : Dep) (a : SReg) : Statement (.gfree p a) := by intro w h; cases h; exact encR_head ..
theorem getid (p : Dep) (d : SReg) (f : BitVec 3) : Statement (.getid p d f) := by intro w h; cases h; exact encI_head ..
theorem rdcsr (p : Dep) (d : SReg) (c : BitVec 8) : Statement (.rdcsr p d c) := by intro w h; cases h; exact encI_head ..
theorem wrcsr (p : Dep) (a : SReg) (c : BitVec 8) : Statement (.wrcsr p a c) := by intro w h; cases h; exact encI_head ..
theorem emit (p : Dep) (d a b : SReg) : Statement (.emit p d a b) := by intro w h; cases h; exact encR_head ..
theorem fwait (p : Dep) (a : SReg) : Statement (.fwait p a) := by intro w h; cases h; exact encR_head ..
theorem pxlook (p : Dep) (d a : SReg) : Statement (.pxlook p d a) := by intro w h; cases h; exact encR_head ..
theorem pxins (p : Dep) (d a : SReg) : Statement (.pxins p d a) := by intro w h; cases h; exact encR_head ..
theorem pxrel (p : Dep) (d a : SReg) : Statement (.pxrel p d a) := by intro w h; cases h; exact encR_head ..
theorem capld (p : Dep) (a : SReg) (n : BitVec 3) : Statement (.capld p a n) := by intro w h; cases h; exact encI_head ..
theorem capclr (p : Dep) (n : BitVec 3) : Statement (.capclr p n) := by intro w h; cases h; exact encI_head ..
theorem csave (p : Dep) (a : SReg) : Statement (.csave p a) := by intro w h; cases h; exact encI_head ..
theorem crestore (p : Dep) (a : SReg) : Statement (.crestore p a) := by intro w h; cases h; exact encI_head ..
theorem tlbinv (p : Dep) (a : SReg) : Statement (.tlbinv p a) := by intro w h; cases h; exact encI_head ..
theorem tlbflush (p : Dep) (sc : Scope) : Statement (.tlbflush p sc) := by intro w h; cases h; exact encI_head ..
theorem eret (p : Dep) : Statement (.eret p) := by intro w h; cases h; exact encI_head ..
theorem cwb (p : Dep) (a : SReg) (i : BitVec 12) : Statement (.cwb p a i) := by intro w h; cases h; exact encI_head ..
theorem cinv (p : Dep) (a : SReg) (i : BitVec 12) : Statement (.cinv p a i) := by intro w h; cases h; exact encI_head ..
theorem pref (p : Dep) (a : SReg) (i : BitVec 12) : Statement (.pref p a i) := by intro w h; cases h; exact encI_head ..
theorem trap (p : Dep) (c : BitVec 8) : Statement (.trap p c) := by intro w h; cases h; exact encI_head ..
theorem brk (p : Dep) : Statement (.brk p) := by intro w h; cases h; exact encI_head ..
theorem wfe (p : Dep) : Statement (.wfe p) := by intro w h; cases h; exact encI_head ..
theorem sld (p : Dep) (d : SReg) (o : BitVec 14) : Statement (.sld p d o) := by intro w h; cases h; exact encP_head ..
theorem sst (p : Dep) (d : SReg) (o : BitVec 14) : Statement (.sst p d o) := by intro w h; cases h; exact encP_head ..
theorem gsld (p : Dep) (n : BitVec 4) (o : BitVec 14) : Statement (.gsld p n o) := by intro w h; cases h; exact encP_head ..
theorem gsst (p : Dep) (n : BitVec 4) (o : BitVec 14) : Statement (.gsst p n o) := by intro w h; cases h; exact encP_head ..
theorem fdone (d a : SReg) : Statement (.fdone d a) := by intro w h; cases h; exact encH_head ..
theorem fpoll (d a : SReg) : Statement (.fpoll d a) := by intro w h; cases h; exact encH_head ..
theorem sbox (a b : SReg) : Statement (.sbox a b) := by intro w h; cases h; exact encH_head ..
theorem stationStart (k : Nat) (st : Station) : Statement (.stationStart k st) := by intro w h; cases h
theorem landing (k id : Nat) : Statement (.landing k id) := by intro w h; cases h
theorem storeTakesEffect (k id : Nat) : Statement (.storeTakesEffect k id) := by intro w h; cases h
theorem pageWalkComplete (k : Nat) : Statement (.pageWalkComplete k) := by intro w h; cases h
theorem asyncTrapEntry (k : Nat) : Statement (.asyncTrapEntry k) := by intro w h; cases h
theorem sequencerSwitch (core : Nat) : Statement (.sequencerSwitch core) := by intro w h; cases h
theorem deadlockProbe (k : Nat) : Statement (.deadlockProbe k) := by intro w h; cases h
theorem launchStatusReport (slot : BitVec 3) (code : Byte) (env : Nat) (status : Word) : Statement (.launchStatusReport slot code env status) := by intro w h; cases h
theorem runQueuePop (core : Nat) : Statement (.runQueuePop core) := by intro w h; cases h
theorem localReadyListTake (core : Nat) : Statement (.localReadyListTake core) := by intro w h; cases h
theorem waitingTaskArrival (core : Nat) (entry : BitVec 6) (n : Nat) : Statement (.waitingTaskArrival core entry n) := by intro w h; cases h
theorem sfuRequestAccept (k id : Nat) : Statement (.sfuRequestAccept k id) := by intro w h; cases h
theorem matrixCommandAccept (k : Nat) : Statement (.matrixCommandAccept k) := by intro w h; cases h
theorem matrixCommandStart (e : Nat) : Statement (.matrixCommandStart e) := by intro w h; cases h
theorem matrixCommandComplete (e : Nat) : Statement (.matrixCommandComplete e) := by intro w h; cases h
theorem copyComplete (k id : Nat) : Statement (.copyComplete k id) := by intro w h; cases h
theorem relayArrival (ch : Nat) : Statement (.relayArrival ch) := by intro w h; cases h
theorem permitReturn (ch : Nat) : Statement (.permitReturn ch) := by intro w h; cases h
theorem msgwArrival (k id : Nat) : Statement (.msgwArrival k id) := by intro w h; cases h
theorem futureTimeout (fut : BitVec 16) : Statement (.futureTimeout fut) := by intro w h; cases h
theorem biasFlipComplete (frame : Nat) : Statement (.biasFlipComplete frame) := by intro w h; cases h
theorem preemptionHalt (k core : Nat) : Statement (.preemptionHalt k core) := by intro w h; cases h
theorem fshAtCellar (k id : Nat) : Statement (.fshAtCellar k id) := by intro w h; cases h
theorem trapEntry (k : Nat) (cause : BitVec 8) (tval tinfo epc : Word) : Statement (.trapEntry k cause tval tinfo epc) := by intro w h; cases h
theorem launchSlotDoorbell (slot : BitVec 3) (v : Word) : Statement (.launchSlotDoorbell slot v) := by intro w h; cases h
theorem sliceBoundary : Statement .sliceBoundary := by intro w h; cases h
theorem drainBandArrival (core : Nat) (akind : BitVec 2) (went : BitVec 6) (winc : BitVec 16) (off len : Nat) : Statement (.drainBandArrival core akind went winc off len) := by intro w h; cases h
theorem engineFault (k : Nat) (st : Station) (id : Nat) (cause : BitVec 8) (wr grow : Bool) (va progress : Word) : Statement (.engineFault k st id cause wr grow va progress) := by intro w h; cases h
theorem relayDescriptorWrite (ch : Nat) (hi : Bool) (v : Word) : Statement (.relayDescriptorWrite ch hi v) := by intro w h; cases h
theorem relayChannelEnable (ch : Nat) (v : Word) : Statement (.relayChannelEnable ch v) := by intro w h; cases h
theorem relayChannelDisable (ch : Nat) (v : Word) : Statement (.relayChannelDisable ch v) := by intro w h; cases h
theorem bankFormatWrite (core bank : Nat) (v : Word) : Statement (.bankFormatWrite core bank v) := by intro w h; cases h
theorem mailboxPost : Statement .mailboxPost := by intro w h; cases h
theorem futureCompletion (fut gen : BitVec 16) (ids : List (BitVec 32)) : Statement (.futureCompletion fut gen ids) := by intro w h; cases h
theorem injectionRetry (fut : BitVec 16) : Statement (.injectionRetry fut) := by intro w h; cases h
theorem continuationPushRetry : Statement .continuationPushRetry := by intro w h; cases h
theorem futureServiceMessage (port : BitVec 2) (payload : List Byte) : Statement (.futureServiceMessage port payload) := by intro w h; cases h
theorem runQueueWindowPush (q : BitVec 5) (off : Nat) (bytes : List Byte) : Statement (.runQueueWindowPush q off bytes) := by intro w h; cases h
theorem ualinkLaunchPacket (peer : BitVec 10) (q : BitVec 5) (packet : PeerLaunch) : Statement (.ualinkLaunchPacket peer q packet) := by intro w h; cases h
theorem runQueueConfigWrite (q : BitVec 5) (hi : Bool) (v : Word) : Statement (.runQueueConfigWrite q hi v) := by intro w h; cases h
theorem sliceLengthWrite (v : BitVec 32) : Statement (.sliceLengthWrite v) := by intro w h; cases h
theorem vocabSlotLoad (slot : BitVec 3) : Statement (.vocabSlotLoad slot) := by intro w h; cases h
theorem registerWrite (off : Nat) (bytes : List Byte) : Statement (.registerWrite off bytes) := by intro w h; cases h
theorem hostWindowAccess (off : Nat) (wr : Bool) (bytes : List Byte) : Statement (.hostWindowAccess off wr bytes) := by intro w h; cases h
theorem homeRequest (h : Nat) (kind : ReqKind) (line : HomeLine) : Statement (.homeRequest h kind line) := by intro w h; cases h
theorem snoopInvalidation (die : Nat) (pa : Nat) (inval : Bool) : Statement (.snoopInvalidation die pa inval) := by intro w h; cases h
theorem writeBackArrival (h pa : Nat) : Statement (.writeBackArrival h pa) := by intro w h; cases h
theorem biasFlipRequest (frame : Nat) (old new : Word) : Statement (.biasFlipRequest frame old new) := by intro w h; cases h
theorem frameGenChange (frame : Nat) (old new : Word) : Statement (.frameGenChange frame old new) := by intro w h; cases h
theorem migrationOpen (region die : Nat) : Statement (.migrationOpen region die) := by intro w h; cases h
theorem migrationSwitch (region : Nat) : Statement (.migrationSwitch region) := by intro w h; cases h
theorem growRequest (k : Nat) : Statement (.growRequest k) := by intro w h; cases h
theorem cellarLoad : Statement .cellarLoad := by intro w h; cases h
theorem keyInstall : Statement .keyInstall := by intro w h; cases h
theorem keyErase : Statement .keyErase := by intro w h; cases h
theorem tensorLayoutValidate (h : Nat) : Statement (.tensorLayoutValidate h) := by intro w h; cases h
theorem imageLoadRequest : Statement .imageLoadRequest := by intro w h; cases h
theorem driveDma (pa : Nat) (wr : Bool) (bytes : List Byte) : Statement (.driveDma pa wr bytes) := by intro w h; cases h
theorem mailboxConfigWrite (hart : Nat) (cfg : Bool) (v : Word) : Statement (.mailboxConfigWrite hart cfg v) := by intro w h; cases h
theorem fcsignWrite (hart : Nat) (v : Word) : Statement (.fcsignWrite hart v) := by intro w h; cases h
theorem capsignWrite (k : Nat) (v : Word) : Statement (.capsignWrite k v) := by intro w h; cases h
theorem ctlWrite (k : Nat) (v : Word) : Statement (.ctlWrite k v) := by intro w h; cases h
theorem afpopKeep (k : Nat) : Statement (.afpopKeep k) := by intro w h; cases h
theorem afpopDrop (k : Nat) : Statement (.afpopDrop k) := by intro w h; cases h
theorem preemptionRequest (core : Nat) (v : Word) : Statement (.preemptionRequest core v) := by intro w h; cases h
theorem windowConfigWrite (cls : Nat) (v : Word) : Statement (.windowConfigWrite cls v) := by intro w h; cases h
theorem linkCrcFailure (link : Nat) (dir : Bool) (lane : Nat) : Statement (.linkCrcFailure link dir lane) := by intro w h; cases h
theorem laneRepairSwitch (link : Nat) (dir : Bool) : Statement (.laneRepairSwitch link dir) := by intro w h; cases h
theorem powerControlWrite (v : Word) : Statement (.powerControlWrite v) := by intro w h; cases h
theorem powerCapStep : Statement .powerCapStep := by intro w h; cases h
theorem quoteRequest (nonce : List Byte) : Statement (.quoteRequest nonce) := by intro w h; cases h
theorem packageReset : Statement .packageReset := by intro w h; cases h
theorem hostelAccess (hart : Nat) (kind : HAccess) (va : Word) (size : Nat) (v : Word) : Statement (.hostelAccess hart kind va size v) := by intro w h; cases h
theorem portLaneError (unit lane : Nat) : Statement (.portLaneError unit lane) := by intro w h; cases h
theorem wfeEndWithoutEvent (k : Nat) : Statement (.wfeEndWithoutEvent k) := by intro w h; cases h

end Sys2Proof.Laws.Encoding
end

