-- ==== Sys2Proof/Laws/Store.lean ====
section
/-! SUPPORT. Sparse tables and byte memory: what a read gives after a write, and that every operation keeps the canonical
form. -/

namespace Sys2Proof.Machine

/-! ### Tables -/

theorem mget_mput_same {β : Type} (m : SMap β) (a : Nat) (v : β) : mget (mput m a v) a = some v := by
  induction m with
  | nil => simp [mput, mget]
  | cons x r ih =>
    obtain ⟨k, w⟩ := x
    simp only [mput]
    split_ifs with h1 h2 <;> simp_all [mget]

theorem mget_mput_other {β : Type} (m : SMap β) {a b : Nat} (v : β) (h : b ≠ a) : mget (mput m a v) b = mget m b := by
  induction m with
  | nil => simp [mput, mget, h]
  | cons x r ih =>
    obtain ⟨k, w⟩ := x
    simp only [mput]
    split_ifs with h1 h2
    · simp [mget, h]
    · subst h2; simp [mget, h]
    · simp only [mget, ih]

theorem mget_mdel_same {β : Type} (m : SMap β) (a : Nat) : mget (mdel m a) a = none := by
  induction m with
  | nil => rfl
  | cons x r ih =>
    obtain ⟨k, w⟩ := x
    simp only [mdel]
    split_ifs with h1 <;> simp_all [mget]

theorem mget_mdel_other {β : Type} (m : SMap β) {a b : Nat} (h : b ≠ a) : mget (mdel m a) b = mget m b := by
  induction m with
  | nil => rfl
  | cons x r ih =>
    obtain ⟨k, w⟩ := x
    simp only [mdel]
    split_ifs with h1
    · subst h1; simp [mget, h, ih]
    · simp only [mget, ih]

@[simp] theorem mgetD_mput_same {β : Type} (m : SMap β) (a : Nat) (v d : β) : mgetD (mput m a v) a d = v := by
  simp [mgetD, mget_mput_same]

theorem mgetD_mput_other {β : Type} (m : SMap β) {a b : Nat} (v d : β) (h : b ≠ a) :
    mgetD (mput m a v) b d = mgetD m b d := by simp [mgetD, mget_mput_other m v h]

@[simp] theorem mgetD_mupd_same {β : Type} (m : SMap β) (a : Nat) (d : β) (f : β → β) :
    mgetD (mupd m a d f) a d = f (mgetD m a d) := by simp [mupd]

theorem mgetD_mupd_other {β : Type} (m : SMap β) {a b : Nat} (d e : β) (f : β → β) (h : b ≠ a) :
    mgetD (mupd m a d f) b e = mgetD m b e := by simp [mupd, mgetD_mput_other m _ e h]

/-- Every key of the table is at least `a`. -/
def keysFrom {β : Type} (a : Nat) (m : SMap β) : Prop := ∀ x ∈ m, a ≤ x.1

theorem msorted_cons {β : Type} (k : Nat) (v : β) (r : SMap β) :
    msorted ((k, v) :: r) = true ↔ keysFrom (k + 1) r ∧ msorted r = true := by
  induction r generalizing k v with
  | nil => simp [msorted, keysFrom]
  | cons x r ih =>
    obtain ⟨l, w⟩ := x
    simp only [msorted, Bool.and_eq_true, decide_eq_true_eq, keysFrom, List.mem_cons, forall_eq_or_imp]
    rw [ih]
    constructor
    · rintro ⟨h1, h2, h3⟩
      exact ⟨⟨by omega, fun x hx => by have := h2 x hx; omega⟩, h2, h3⟩
    · rintro ⟨⟨h1, h2⟩, h3, h4⟩
      exact ⟨by omega, h3, h4⟩

theorem keysFrom_mput {β : Type} {m : SMap β} {a k : Nat} (v : β) (h : keysFrom k m) (ha : k ≤ a) :
    keysFrom k (mput m a v) := by
  induction m with
  | nil => simp [mput, keysFrom, ha]
  | cons x r ih =>
    obtain ⟨l, w⟩ := x
    simp only [keysFrom, List.mem_cons, forall_eq_or_imp] at h
    simp only [mput]
    split_ifs with h1 h2
    · simp only [keysFrom, List.mem_cons, forall_eq_or_imp]; exact ⟨ha, h.1, h.2⟩
    · simp only [keysFrom, List.mem_cons, forall_eq_or_imp]; exact ⟨ha, h.2⟩
    · simp only [keysFrom, List.mem_cons, forall_eq_or_imp]; exact ⟨h.1, ih h.2⟩

theorem msorted_mput {β : Type} {m : SMap β} (a : Nat) (v : β) (h : msorted m = true) : msorted (mput m a v) = true := by
  induction m with
  | nil => rfl
  | cons x r ih =>
    obtain ⟨k, w⟩ := x
    obtain ⟨h1, h2⟩ := (msorted_cons k w r).1 h
    simp only [mput]
    split_ifs with c1 c2
    · refine (msorted_cons a v _).2 ⟨?_, h⟩
      simp only [keysFrom, List.mem_cons, forall_eq_or_imp]
      exact ⟨c1, fun x hx => by have := h1 x hx; omega⟩
    · subst c2; exact (msorted_cons a v r).2 ⟨h1, h2⟩
    · exact (msorted_cons k w _).2 ⟨keysFrom_mput v h1 (by omega), ih h2⟩

theorem mdel_sublist {β : Type} (m : SMap β) (a : Nat) : (mdel m a).Sublist m := by
  induction m with
  | nil => exact List.Sublist.refl _
  | cons x r ih =>
    obtain ⟨k, w⟩ := x
    simp only [mdel]
    split_ifs
    · exact ih.cons _
    · exact ih.cons_cons _

theorem msorted_sublist {β : Type} {m n : SMap β} (s : m.Sublist n) (h : msorted n = true) : msorted m = true := by
  induction s with
  | slnil => rfl
  | cons x s ih =>
    obtain ⟨k, w⟩ := x
    exact ih ((msorted_cons k w _).1 h).2
  | cons_cons x s ih =>
    obtain ⟨k, w⟩ := x
    obtain ⟨h1, h2⟩ := (msorted_cons k w _).1 h
    exact (msorted_cons k w _).2 ⟨fun y hy => h1 y (s.subset hy), ih h2⟩

/-! ### Bytes -/

@[simp] theorem Mem.read_write_same (m : Mem) (a : Nat) (b : Byte) : (m.write a b).read a = b := by
  unfold Mem.write Mem.read mgetD
  split_ifs with h
  · rw [mget_mdel_same, h]; rfl
  · rw [mget_mput_same]; rfl

theorem Mem.read_write_other (m : Mem) {a c : Nat} (b : Byte) (h : c ≠ a) : (m.write a b).read c = m.read c := by
  unfold Mem.write Mem.read mgetD
  split_ifs
  · rw [mget_mdel_other m h]
  · rw [mget_mput_other m b h]

theorem Mem.wf_iff (m : Mem) : m.wf = true ↔ msorted m = true ∧ ∀ c ∈ m, c.2 ≠ memDefault c.1 := by
  simp [Mem.wf, List.all_eq_true]

theorem Mem.wf_sublist {m n : Mem} (s : m.Sublist n) (h : n.wf = true) : m.wf = true := by
  rw [Mem.wf_iff] at *
  exact ⟨msorted_sublist s h.1, fun c hc => h.2 c (s.subset hc)⟩

theorem mem_mput {β : Type} {m : SMap β} {a : Nat} {v : β} {x : Nat × β} (h : x ∈ mput m a v) : x = (a, v) ∨ x ∈ m := by
  induction m with
  | nil => simpa [mput] using h
  | cons y r ih =>
    obtain ⟨k, w⟩ := y
    simp only [mput] at h
    split_ifs at h <;> simp only [List.mem_cons] at h ⊢ <;> tauto

/-- A byte write keeps the canonical form. -/
theorem Mem.wf_write {m : Mem} (a : Nat) (b : Byte) (h : m.wf = true) : (m.write a b).wf = true := by
  unfold Mem.write
  split_ifs with hb
  · exact Mem.wf_sublist (mdel_sublist m a) h
  · rw [Mem.wf_iff] at *
    refine ⟨msorted_mput a b h.1, fun c hc => ?_⟩
    rcases mem_mput hc with rfl | hc
    · exact hb
    · exact h.2 c hc

theorem Mem.wf_writeBytes (bs : List Byte) {m : Mem} (a : Nat) (h : m.wf = true) : (m.writeBytes a bs).wf = true := by
  induction bs generalizing m a with
  | nil => exact h
  | cons b r ih => exact ih (a + 1) (Mem.wf_write a b h)

theorem Mem.wf_writeLE {m : Mem} (a n v : Nat) (h : m.wf = true) : (m.writeLE a n v).wf = true :=
  Mem.wf_writeBytes _ a h

theorem Mem.wf_write64 {m : Mem} (a : Nat) (v : Word) (h : m.wf = true) : (m.write64 a v).wf = true :=
  Mem.wf_writeLE a 8 _ h

theorem Mem.wf_filter {m : Mem} (p : Host.Cell → Bool) (h : m.wf = true) : Mem.wf (m.filter p) = true :=
  Mem.wf_sublist List.filter_sublist h

/-- A byte outside the bytes written is unchanged. -/
theorem Mem.read_writeBytes_other (bs : List Byte) (m : Mem) {a c : Nat} (h : c < a ∨ a + bs.length ≤ c) :
    (m.writeBytes a bs).read c = m.read c := by
  induction bs generalizing m a with
  | nil => rfl
  | cons b r ih =>
    simp only [List.length_cons] at h
    simp only [Mem.writeBytes]
    rw [ih (m.write a b) (by omega), Mem.read_write_other m b (by omega)]

/-- A byte inside the bytes written is the one written there. -/
theorem Mem.read_writeBytes (bs : List Byte) (m : Mem) (a i : Nat) (h : i < bs.length) :
    (m.writeBytes a bs).read (a + i) = bs[i] := by
  induction bs generalizing m a i with
  | nil => simp at h
  | cons b r ih =>
    simp only [Mem.writeBytes]
    cases i with
    | zero =>
      rw [Nat.add_zero, Mem.read_writeBytes_other r (m.write a b) (by omega)]
      simp
    | succ i =>
      have := ih (m.write a b) (a + 1) i (by simpa using h)
      rw [show a + (i + 1) = a + 1 + i by omega, this]
      simp

@[simp] theorem Mem.length_readBytes (m : Mem) (a n : Nat) : (m.readBytes a n).length = n := by
  induction n generalizing a with
  | zero => rfl
  | succ n ih => simp [Mem.readBytes, ih]

theorem Mem.getElem_readBytes (m : Mem) (a n i : Nat) (h : i < (m.readBytes a n).length) :
    (m.readBytes a n)[i] = m.read (a + i) := by
  induction n generalizing a i with
  | zero => simp [Mem.readBytes] at h
  | succ n ih =>
    cases i with
    | zero => simp [Mem.readBytes]
    | succ i =>
      simp only [Mem.readBytes, List.getElem_cons_succ]
      rw [ih (a + 1) i (by simpa [Mem.readBytes] using h)]
      congr 1; omega

/-- What was written is read back. -/
theorem Mem.readBytes_writeBytes_same (m : Mem) (a : Nat) (bs : List Byte) :
    (m.writeBytes a bs).readBytes a bs.length = bs := by
  apply List.ext_getElem (by simp)
  intro i h1 h2
  rw [Mem.getElem_readBytes, Mem.read_writeBytes bs m a i h2]

/-- Bytes that do not meet those written read as before. -/
theorem Mem.readBytes_writeBytes_other (m : Mem) (a c n : Nat) (bs : List Byte) (h : c + n ≤ a ∨ a + bs.length ≤ c) :
    (m.writeBytes a bs).readBytes c n = m.readBytes c n := by
  apply List.ext_getElem (by simp)
  intro i h1 h2
  simp only [Mem.length_readBytes] at h1
  rw [Mem.getElem_readBytes, Mem.getElem_readBytes, Mem.read_writeBytes_other bs m (by omega)]

/-! ### Little-endian numbers -/

@[simp] theorem length_leBytes (v n : Nat) : (leBytes v n).length = n := by
  induction n generalizing v with
  | zero => rfl
  | succ n ih => simp [leBytes, ih]

theorem leNat_leBytes (v n : Nat) : leNat (leBytes v n) = v % 256 ^ n := by
  induction n generalizing v with
  | zero => simp [leBytes, leNat, Nat.mod_one]
  | succ n ih =>
    simp only [leBytes, leNat, ih, BitVec.toNat_ofNat]
    rw [show 256 ^ (n + 1) = 256 * 256 ^ n by ring, Nat.mod_mul]

theorem leNat_lt (bs : List Byte) : leNat bs < 256 ^ bs.length := by
  induction bs with
  | nil => simp [leNat]
  | cons b r ih =>
    simp only [leNat, List.length_cons, pow_succ]
    have := b.isLt
    omega

theorem Mem.readLE_writeLE_same (m : Mem) (a n v : Nat) : (m.writeLE a n v).readLE a n = v % 256 ^ n := by
  unfold Mem.readLE Mem.writeLE
  conv_lhs => rw [show n = (leBytes v n).length by simp]
  rw [length_leBytes, ← leNat_leBytes]
  congr 1
  have := Mem.readBytes_writeBytes_same m a (leBytes v n)
  simpa using this

theorem Mem.readLE_writeLE_other (m : Mem) (a c n k v : Nat) (h : c + k ≤ a ∨ a + n ≤ c) :
    (m.writeLE a n v).readLE c k = m.readLE c k := by
  unfold Mem.readLE Mem.writeLE
  rw [Mem.readBytes_writeBytes_other m a c k _ (by simpa using h)]

/-- A doubleword written is the doubleword read. -/
@[simp] theorem Mem.read64_write64_same (m : Mem) (a : Nat) (v : Word) : (m.write64 a v).read64 a = v := by
  unfold Mem.read64 Mem.write64
  rw [Mem.readLE_writeLE_same]
  apply BitVec.eq_of_toNat_eq
  have := v.isLt
  simp only [BitVec.toNat_ofNat]
  norm_num at *
  omega

end Sys2Proof.Machine
end

