-- ==== Sys2Proof/Tests/Slice0.lean ====
section
/-! SUPPORT. Tests of the definitions: ill-formed terms that the check refuses, words written out from the encodings, single
steps on small states with results taken from the rules, and, for every statement with hypotheses, states and operands that meet
them (the theorems test_<statement>_<clause>). -/

namespace Sys2Proof.Tests

set_option Elab.async false -- one theorem at a time, so that few threads wait on the kernel

open Sys2Proof Sys2Proof.Machine Sys2Proof.Safety

/-! ### Well-formedness: for each check a term that it refuses -/

theorem test_wf_refuses_words : Instr.wf (.cset 0 1 2 7) = false := by decide

theorem test_wf_refuses_contexts :
    Instr.wf (.stationStart 5120 .v) = false ∧ Instr.wf (.stationStart 0 .s) = false ∧ Instr.wf (.landing 5120 0) = false ∧
    Instr.wf (.engineFault 5120 .m 0 0 false false 0 0) = false ∧ Instr.wf (.engineFault 0 .v 0 0 false false 0 0) = false := by
  decide

theorem test_wf_refuses_units :
    Instr.wf (.sequencerSwitch 1280) = false ∧ Instr.wf (.bankFormatWrite 1280 0 0) = false ∧
    Instr.wf (.bankFormatWrite 0 16 0) = false ∧ Instr.wf (.matrixCommandStart 160) = false ∧
    Instr.wf (.relayArrival 128) = false ∧ Instr.wf (.homeRequest 6 .read ⟨0, []⟩) = false ∧
      Instr.wf (.homeRequest 5 .upgrade ⟨63, [0, 0]⟩) = false ∧
    Instr.wf (.snoopInvalidation 6 0 true) = false ∧ Instr.wf (.migrationOpen 0 4) = false ∧
    Instr.wf (.fcsignWrite 64 0) = false ∧ Instr.wf (.windowConfigWrite 3 0) = false ∧
    Instr.wf (.linkCrcFailure 25 false 0) = false ∧ Instr.wf (.laneRepairSwitch 34 false) = false ∧
    Instr.wf (.portLaneError 33 0) = false ∧ Instr.wf (.tensorLayoutValidate 4096) = false ∧
    Instr.wf (.quoteRequest []) = false := by decide

theorem test_wf_accepts :
    Instr.wf (.cset 0 1 2 6) = true ∧ Instr.wf (.landing 5119 0) = true ∧ Instr.wf (.portLaneError 53 0) = true ∧
    Instr.wf (.quoteRequest (List.replicate 32 0)) = true := by decide

/-! ### Decoding: for every instruction a word written out field by field from its encoding (R35 to R61, R333) -/

theorem test_decode_major02_0 :
    decode (15#4 ++ 0x2#6 ++ 24#5 ++ 31#5 ++ 6#5 ++ 0x0#7) = some (.add 15 24 31 6) ∧
    decode (6#4 ++ 0x2#6 ++ 31#5 ++ 6#5 ++ 13#5 ++ 0x1#7) = some (.sub 6 31 6 13) ∧
    decode (13#4 ++ 0x2#6 ++ 6#5 ++ 13#5 ++ 20#5 ++ 0x2#7) = some (.mul 13 6 13 20) ∧
    decode (4#4 ++ 0x2#6 ++ 13#5 ++ 20#5 ++ 27#5 ++ 0x3#7) = some (.mulh 4 13 20 27) ∧
    decode (11#4 ++ 0x2#6 ++ 20#5 ++ 27#5 ++ 2#5 ++ 0x4#7) = some (.mulhu 11 20 27 2) ∧
    decode (2#4 ++ 0x2#6 ++ 27#5 ++ 2#5 ++ 9#5 ++ 0x5#7) = some (.div 2 27 2 9) ∧
    decode (9#4 ++ 0x2#6 ++ 2#5 ++ 9#5 ++ 16#5 ++ 0x6#7) = some (.divu 9 2 9 16) ∧
    decode (0#4 ++ 0x2#6 ++ 9#5 ++ 16#5 ++ 23#5 ++ 0x7#7) = some (.rem 0 9 16 23) ∧
    decode (7#4 ++ 0x2#6 ++ 16#5 ++ 23#5 ++ 30#5 ++ 0x8#7) = some (.remu 7 16 23 30) ∧
    decode (14#4 ++ 0x2#6 ++ 23#5 ++ 30#5 ++ 5#5 ++ 0x9#7) = some (.and 14 23 30 5) ∧
    decode (5#4 ++ 0x2#6 ++ 30#5 ++ 5#5 ++ 12#5 ++ 0xa#7) = some (.or 5 30 5 12) ∧
    decode (12#4 ++ 0x2#6 ++ 5#5 ++ 12#5 ++ 19#5 ++ 0xb#7) = some (.xor 12 5 12 19) := by decide

theorem test_decode_major02_1 :
    decode (3#4 ++ 0x2#6 ++ 12#5 ++ 19#5 ++ 26#5 ++ 0xc#7) = some (.sll 3 12 19 26) ∧
    decode (10#4 ++ 0x2#6 ++ 19#5 ++ 26#5 ++ 1#5 ++ 0xd#7) = some (.srl 10 19 26 1) ∧
    decode (1#4 ++ 0x2#6 ++ 26#5 ++ 1#5 ++ 8#5 ++ 0xe#7) = some (.sra 1 26 1 8) ∧
    decode (8#4 ++ 0x2#6 ++ 1#5 ++ 8#5 ++ 15#5 ++ 0xf#7) = some (.slt 8 1 8 15) ∧
    decode (15#4 ++ 0x2#6 ++ 8#5 ++ 15#5 ++ 22#5 ++ 0x10#7) = some (.sltu 15 8 15 22) ∧
    decode (6#4 ++ 0x2#6 ++ 15#5 ++ 22#5 ++ 29#5 ++ 0x11#7) = some (.min 6 15 22 29) ∧
    decode (13#4 ++ 0x2#6 ++ 22#5 ++ 29#5 ++ 4#5 ++ 0x12#7) = some (.max 13 22 29 4) ∧
    decode (4#4 ++ 0x2#6 ++ 29#5 ++ 4#5 ++ 11#5 ++ 0x13#7) = some (.minu 4 29 4 11) ∧
    decode (11#4 ++ 0x2#6 ++ 4#5 ++ 11#5 ++ 18#5 ++ 0x14#7) = some (.maxu 11 4 11 18) ∧
    decode (2#4 ++ 0x2#6 ++ 11#5 ++ 18#5 ++ 0x15#12) = some (.clz 2 11 18) ∧
    decode (9#4 ++ 0x2#6 ++ 18#5 ++ 25#5 ++ 0x16#12) = some (.ctz 9 18 25) ∧
    decode (0#4 ++ 0x2#6 ++ 25#5 ++ 0#5 ++ 0x17#12) = some (.popc 0 25 0) := by decide

theorem test_decode_major01 :
    decode (7#4 ++ 0x1#6 ++ 0x0#22) = some (.nop 7) := by decide

theorem test_decode_major03 :
    decode (14#4 ++ 0x3#6 ++ 7#5 ++ 14#5 ++ 178#12) = some (.addi 14 7 14 178) := by decide

theorem test_decode_major04 :
    decode (5#4 ++ 0x4#6 ++ 14#5 ++ 21#5 ++ 185#12) = some (.andi 5 14 21 185) := by decide

theorem test_decode_major05 :
    decode (12#4 ++ 0x5#6 ++ 21#5 ++ 28#5 ++ 192#12) = some (.ori 12 21 28 192) := by decide

theorem test_decode_major06 :
    decode (3#4 ++ 0x6#6 ++ 28#5 ++ 3#5 ++ 199#12) = some (.xori 3 28 3 199) := by decide

theorem test_decode_major08 :
    decode (10#4 ++ 0x8#6 ++ 3#5 ++ 10#5 ++ 206#12) = some (.slti 10 3 10 206) := by decide

theorem test_decode_major07 :
    decode (1#4 ++ 0x7#6 ++ 10#5 ++ 17#5 ++ 0x0#6 ++ 21#6) = some (.slli 1 10 17 21) ∧
    decode (8#4 ++ 0x7#6 ++ 17#5 ++ 24#5 ++ 0x10#6 ++ 28#6) = some (.srli 8 17 24 28) ∧
    decode (15#4 ++ 0x7#6 ++ 24#5 ++ 31#5 ++ 0x20#6 ++ 35#6) = some (.srai 15 24 31 35) := by decide

theorem test_decode_major09 :
    decode (6#4 ++ 0x9#6 ++ 31#5 ++ 234#17) = some (.lui 6 31 234) := by decide

theorem test_decode_major0a :
    decode (13#4 ++ 0xa#6 ++ 6#5 ++ 241#17) = some (.auipc 13 6 241) := by decide

theorem test_decode_major0b :
    decode (4#4 ++ 0xb#6 ++ 13#5 ++ 20#5 ++ 27#5 ++ 0x0#7) = some (.fadd 4 13 20 27) ∧
    decode (11#4 ++ 0xb#6 ++ 20#5 ++ 27#5 ++ 2#5 ++ 0x1#7) = some (.fsub 11 20 27 2) ∧
    decode (2#4 ++ 0xb#6 ++ 27#5 ++ 2#5 ++ 9#5 ++ 0x2#7) = some (.fmul 2 27 2 9) ∧
    decode (9#4 ++ 0xb#6 ++ 2#5 ++ 9#5 ++ 16#5 ++ 0x3#7) = some (.fdiv 9 2 9 16) ∧
    decode (0#4 ++ 0xb#6 ++ 9#5 ++ 16#5 ++ 0x4#12) = some (.fsqrt 0 9 16) ∧
    decode (7#4 ++ 0xb#6 ++ 16#5 ++ 23#5 ++ 30#5 ++ 0x5#7) = some (.fmin 7 16 23 30) ∧
    decode (14#4 ++ 0xb#6 ++ 23#5 ++ 30#5 ++ 5#5 ++ 0x6#7) = some (.fmax 14 23 30 5) ∧
    decode (5#4 ++ 0xb#6 ++ 30#5 ++ 5#5 ++ 12#5 ++ 0x7#7) = some (.fcmpeq 5 30 5 12) ∧
    decode (12#4 ++ 0xb#6 ++ 5#5 ++ 12#5 ++ 19#5 ++ 0x8#7) = some (.fcmplt 12 5 12 19) ∧
    decode (3#4 ++ 0xb#6 ++ 12#5 ++ 19#5 ++ 0x9#12) = some (.fcvti 3 12 19) ∧
    decode (10#4 ++ 0xb#6 ++ 19#5 ++ 26#5 ++ 0xa#12) = some (.fcvtf 10 19 26) := by decide

theorem test_decode_major0c :
    decode (1#4 ++ 0xc#6 ++ 26#5 ++ 1#5 ++ 325#12) = some (.beq 1 26 1 325) := by decide

theorem test_decode_major0d :
    decode (8#4 ++ 0xd#6 ++ 1#5 ++ 8#5 ++ 332#12) = some (.bne 8 1 8 332) := by decide

theorem test_decode_major0e :
    decode (15#4 ++ 0xe#6 ++ 8#5 ++ 15#5 ++ 339#12) = some (.blt 15 8 15 339) := by decide

theorem test_decode_major0f :
    decode (6#4 ++ 0xf#6 ++ 15#5 ++ 22#5 ++ 346#12) = some (.bge 6 15 22 346) := by decide

theorem test_decode_major10 :
    decode (13#4 ++ 0x10#6 ++ 22#5 ++ 29#5 ++ 353#12) = some (.bltu 13 22 29 353) := by decide

theorem test_decode_major11 :
    decode (4#4 ++ 0x11#6 ++ 29#5 ++ 4#5 ++ 360#12) = some (.bgeu 4 29 4 360) := by decide

theorem test_decode_major12 :
    decode (11#4 ++ 0x12#6 ++ 4#5 ++ 367#17) = some (.jal 11 4 367) := by decide

theorem test_decode_major13 :
    decode (2#4 ++ 0x13#6 ++ 11#5 ++ 18#5 ++ 374#12) = some (.jalr 2 11 18 374) := by decide

theorem test_decode_major14 :
    decode (9#4 ++ 0x14#6 ++ 18#5 ++ 25#5 ++ 0x0#3 ++ 381#9) = some (.lb 9 18 25 381) ∧
    decode (0#4 ++ 0x14#6 ++ 25#5 ++ 0#5 ++ 0x1#3 ++ 388#9) = some (.lbu 0 25 0 388) ∧
    decode (7#4 ++ 0x14#6 ++ 0#5 ++ 7#5 ++ 0x2#3 ++ 395#9) = some (.lh 7 0 7 395) ∧
    decode (14#4 ++ 0x14#6 ++ 7#5 ++ 14#5 ++ 0x3#3 ++ 402#9) = some (.lhu 14 7 14 402) ∧
    decode (5#4 ++ 0x14#6 ++ 14#5 ++ 21#5 ++ 0x4#3 ++ 409#9) = some (.lw 5 14 21 409) ∧
    decode (12#4 ++ 0x14#6 ++ 21#5 ++ 28#5 ++ 0x5#3 ++ 416#9) = some (.lwu 12 21 28 416) ∧
    decode (3#4 ++ 0x14#6 ++ 28#5 ++ 3#5 ++ 0x6#3 ++ 423#9) = some (.ld 3 28 3 423) := by decide

theorem test_decode_major15 :
    decode (10#4 ++ 0x15#6 ++ 3#5 ++ 10#5 ++ 0x0#3 ++ 430#9) = some (.sb 10 3 10 430) ∧
    decode (1#4 ++ 0x15#6 ++ 10#5 ++ 17#5 ++ 0x2#3 ++ 437#9) = some (.sh 1 10 17 437) ∧
    decode (8#4 ++ 0x15#6 ++ 17#5 ++ 24#5 ++ 0x4#3 ++ 444#9) = some (.sw 8 17 24 444) ∧
    decode (15#4 ++ 0x15#6 ++ 24#5 ++ 31#5 ++ 0x6#3 ++ 451#9) = some (.sd 15 24 31 451) := by decide

theorem test_decode_major16 :
    decode (6#4 ++ 0x16#6 ++ 31#5 ++ 6#5 ++ 0x0#7 ++ 3#3 ++ 2#2) = some (.lda 6 31 6 .pkg 2) ∧
    decode (13#4 ++ 0x16#6 ++ 0x0#5 ++ 13#5 ++ 20#5 ++ 0x1#2 ++ 0#3 ++ 1#2) = some (.stl 13 13 20 .core 1) := by decide

theorem test_decode_major17 :
    decode (4#4 ++ 0x17#6 ++ 13#5 ++ 20#5 ++ 0x0#3 ++ 472#9) = some (.lfe 4 13 20 472) ∧
    decode (11#4 ++ 0x17#6 ++ 20#5 ++ 27#5 ++ 0x1#3 ++ 479#9) = some (.lfec 11 20 27 479) ∧
    decode (2#4 ++ 0x17#6 ++ 27#5 ++ 2#5 ++ 0x2#3 ++ 486#9) = some (.sfe 2 27 2 486) ∧
    decode (9#4 ++ 0x17#6 ++ 2#5 ++ 9#5 ++ 0x3#3 ++ 493#9) = some (.feclr 9 2 9 493) ∧
    decode (0#4 ++ 0x17#6 ++ 9#5 ++ 16#5 ++ 0x4#3 ++ 500#9) = some (.fepoll 0 9 16 500) := by decide

theorem test_decode_major18 :
    decode (7#4 ++ 0x18#6 ++ 16#5 ++ 23#5 ++ 30#5 ++ 0x0#3 ++ 1#1 ++ 2#3) = some (.amoadd 7 16 23 30 true .die) ∧
    decode (14#4 ++ 0x18#6 ++ 23#5 ++ 30#5 ++ 5#5 ++ 0x1#3 ++ 1#1 ++ 4#3) = some (.amoand 14 23 30 5 true .sys) ∧
    decode (5#4 ++ 0x18#6 ++ 30#5 ++ 5#5 ++ 12#5 ++ 0x2#3 ++ 1#1 ++ 1#3) = some (.amoor 5 30 5 12 true .cl) ∧
    decode (12#4 ++ 0x18#6 ++ 5#5 ++ 12#5 ++ 19#5 ++ 0x3#3 ++ 1#1 ++ 3#3) = some (.amoxor 12 5 12 19 true .pkg) ∧
    decode (3#4 ++ 0x18#6 ++ 12#5 ++ 19#5 ++ 26#5 ++ 0x4#3 ++ 1#1 ++ 0#3) = some (.amomin 3 12 19 26 true .core) ∧
    decode (10#4 ++ 0x18#6 ++ 19#5 ++ 26#5 ++ 1#5 ++ 0x5#3 ++ 1#1 ++ 2#3) = some (.amomax 10 19 26 1 true .die) ∧
    decode (1#4 ++ 0x18#6 ++ 26#5 ++ 1#5 ++ 8#5 ++ 0x6#3 ++ 1#1 ++ 4#3) = some (.amoswap 1 26 1 8 true .sys) ∧
    decode (8#4 ++ 0x18#6 ++ 1#5 ++ 8#5 ++ 15#5 ++ 0x7#3 ++ 1#1 ++ 1#3) = some (.amocas 8 1 8 15 true .cl) := by decide

theorem test_decode_major19 :
    decode (15#4 ++ 0x19#6 ++ 8#5 ++ 15#5 ++ 22#5 ++ 51#7) = some (.fsh 15 8 15 22 51) := by decide

theorem test_decode_major1a :
    decode (6#4 ++ 0x1a#6 ++ 0x0#19 ++ 0#3) = some (.fence 6 .core) ∧
    decode (13#4 ++ 0x1a#6 ++ 0x1#14 ++ 5#4 ++ 1#4) = some (.xfence 13 .fs .cp) := by decide

theorem test_decode_major1b :
    decode (4#4 ++ 0x1b#6 ++ 0x0#19 ++ 0#3) = some (.mkfence 4 0) ∧
    decode (11#4 ++ 0x1b#6 ++ 0x0#2 ++ 4#3 ++ 0x0#2 ++ 3#3 ++ 0x4#6 ++ 6#3 ++ 7#3) = some (.waitc 11 4 3 6 7) := by decide

theorem test_decode_major1c :
    decode (2#4 ++ 0x1c#6 ++ 0x0#4 ++ 2#2 ++ 13#5 ++ 20#5 ++ 0x0#6) = some (.sset 2 2 13 20) ∧
    decode (9#4 ++ 0x1c#6 ++ 0x0#4 ++ 1#2 ++ 0x1#16) = some (.sbind 9 1) ∧
    decode (0#4 ++ 0x1c#6 ++ 0x0#4 ++ 0#2 ++ 0x2#16) = some (.sunbind 0 0) := by decide

theorem test_decode_major1d :
    decode (7#4 ++ 0x1d#6 ++ 0x0#12 ++ 619#10) = some (.vcfg 7 619) := by decide

theorem test_decode_major1e :
    decode (14#4 ++ 0x1e#6 ++ 2#6 ++ 9#5 ++ 0x0#1 ++ 1#1 ++ 114#9) = some (.vld 14 2 9 true 114) ∧
    decode (5#4 ++ 0x1e#6 ++ 9#6 ++ 16#5 ++ 0x2#2 ++ 121#9) = some (.vldFeKeep 5 9 16 121) ∧
    decode (12#4 ++ 0x1e#6 ++ 16#6 ++ 23#5 ++ 0x3#2 ++ 128#9) = some (.vldFeClear 12 16 23 128) := by decide

theorem test_decode_major1f :
    decode (3#4 ++ 0x1f#6 ++ 23#6 ++ 30#5 ++ 0x0#1 ++ 1#1 ++ 135#9) = some (.vst 3 23 30 true 135) := by decide

theorem test_decode_major20 :
    decode (10#4 ++ 0x20#6 ++ 30#6 ++ 5#5 ++ 12#5 ++ 0x0#6) = some (.vlds 10 30 5 12) ∧
    decode (1#4 ++ 0x20#6 ++ 37#6 ++ 12#5 ++ 19#5 ++ 0x1#6) = some (.vsts 1 37 12 19) ∧
    decode (8#4 ++ 0x20#6 ++ 44#6 ++ 19#5 ++ 26#5 ++ 0x2#6) = some (.vldx 8 44 19 26) ∧
    decode (15#4 ++ 0x20#6 ++ 51#6 ++ 26#5 ++ 1#5 ++ 0x3#6) = some (.vstx 15 51 26 1) ∧
    decode (6#4 ++ 0x20#6 ++ 58#6 ++ 1#5 ++ 0x4#11) = some (.vbcast 6 58 1) := by decide

theorem test_decode_major21 :
    decode (13#4 ++ 0x21#6 ++ 1#6 ++ 35#6 ++ 5#6 ++ 0x0#4) = some (.vfadd 13 1 35 5) ∧
    decode (4#4 ++ 0x21#6 ++ 8#6 ++ 42#6 ++ 12#6 ++ 0x1#4) = some (.vfsub 4 8 42 12) ∧
    decode (11#4 ++ 0x21#6 ++ 15#6 ++ 49#6 ++ 19#6 ++ 0x2#4) = some (.vfmul 11 15 49 19) ∧
    decode (2#4 ++ 0x21#6 ++ 22#6 ++ 56#6 ++ 26#6 ++ 0x3#4) = some (.vfma 2 22 56 26) ∧
    decode (9#4 ++ 0x21#6 ++ 29#6 ++ 63#6 ++ 33#6 ++ 0x4#4) = some (.vfms 9 29 63 33) ∧
    decode (0#4 ++ 0x21#6 ++ 36#6 ++ 6#6 ++ 40#6 ++ 0x5#4) = some (.vfnma 0 36 6 40) ∧
    decode (7#4 ++ 0x21#6 ++ 43#6 ++ 13#6 ++ 47#6 ++ 0x6#4) = some (.vfdiv 7 43 13 47) ∧
    decode (14#4 ++ 0x21#6 ++ 50#6 ++ 20#6 ++ 0x7#10) = some (.vfsqrt 14 50 20) ∧
    decode (5#4 ++ 0x21#6 ++ 57#6 ++ 27#6 ++ 61#6 ++ 0x8#4) = some (.vfmin 5 57 27 61) ∧
    decode (12#4 ++ 0x21#6 ++ 0#6 ++ 34#6 ++ 4#6 ++ 0x9#4) = some (.vfmax 12 0 34 4) ∧
    decode (3#4 ++ 0x21#6 ++ 7#6 ++ 41#6 ++ 0xa#10) = some (.vfabs 3 7 41) ∧
    decode (10#4 ++ 0x21#6 ++ 14#6 ++ 48#6 ++ 0xb#10) = some (.vfneg 10 14 48) := by decide

theorem test_decode_major22 :
    decode (1#4 ++ 0x22#6 ++ 21#6 ++ 55#6 ++ 0x0#10) = some (.vexp2 1 21 55) ∧
    decode (8#4 ++ 0x22#6 ++ 28#6 ++ 62#6 ++ 0x1#10) = some (.vlog2 8 28 62) ∧
    decode (15#4 ++ 0x22#6 ++ 35#6 ++ 5#6 ++ 0x2#10) = some (.vrsq 15 35 5) ∧
    decode (6#4 ++ 0x22#6 ++ 42#6 ++ 12#6 ++ 0x3#10) = some (.vrcp 6 42 12) ∧
    decode (13#4 ++ 0x22#6 ++ 49#6 ++ 19#6 ++ 0x4#10) = some (.vtanh 13 49 19) ∧
    decode (4#4 ++ 0x22#6 ++ 56#6 ++ 26#6 ++ 0x5#10) = some (.vsigm 4 56 26) := by decide

theorem test_decode_major23 :
    decode (11#4 ++ 0x23#6 ++ 63#6 ++ 33#6 ++ 3#6 ++ 0x0#4) = some (.vadd 11 63 33 3) ∧
    decode (2#4 ++ 0x23#6 ++ 6#6 ++ 40#6 ++ 10#6 ++ 0x1#4) = some (.vsub 2 6 40 10) ∧
    decode (9#4 ++ 0x23#6 ++ 13#6 ++ 47#6 ++ 17#6 ++ 0x2#4) = some (.vmul 9 13 47 17) ∧
    decode (0#4 ++ 0x23#6 ++ 20#6 ++ 54#6 ++ 24#6 ++ 0x3#4) = some (.vmulh 0 20 54 24) ∧
    decode (7#4 ++ 0x23#6 ++ 27#6 ++ 61#6 ++ 31#6 ++ 0x4#4) = some (.vmin 7 27 61 31) ∧
    decode (14#4 ++ 0x23#6 ++ 34#6 ++ 4#6 ++ 38#6 ++ 0x5#4) = some (.vmax 14 34 4 38) ∧
    decode (5#4 ++ 0x23#6 ++ 41#6 ++ 11#6 ++ 45#6 ++ 0x6#4) = some (.vminu 5 41 11 45) ∧
    decode (12#4 ++ 0x23#6 ++ 48#6 ++ 18#6 ++ 52#6 ++ 0x7#4) = some (.vmaxu 12 48 18 52) ∧
    decode (3#4 ++ 0x23#6 ++ 55#6 ++ 25#6 ++ 59#6 ++ 0x8#4) = some (.vadds 3 55 25 59) ∧
    decode (10#4 ++ 0x23#6 ++ 62#6 ++ 32#6 ++ 2#6 ++ 0x9#4) = some (.vsubs 10 62 32 2) := by decide

theorem test_decode_major24 :
    decode (1#4 ++ 0x24#6 ++ 5#6 ++ 39#6 ++ 9#6 ++ 0x0#4) = some (.vand 1 5 39 9) ∧
    decode (8#4 ++ 0x24#6 ++ 12#6 ++ 46#6 ++ 16#6 ++ 0x1#4) = some (.vor 8 12 46 16) ∧
    decode (15#4 ++ 0x24#6 ++ 19#6 ++ 53#6 ++ 23#6 ++ 0x2#4) = some (.vxor 15 19 53 23) ∧
    decode (6#4 ++ 0x24#6 ++ 26#6 ++ 60#6 ++ 30#6 ++ 0x3#4) = some (.vsll 6 26 60 30) ∧
    decode (13#4 ++ 0x24#6 ++ 33#6 ++ 3#6 ++ 37#6 ++ 0x4#4) = some (.vsrl 13 33 3 37) ∧
    decode (4#4 ++ 0x24#6 ++ 40#6 ++ 10#6 ++ 44#6 ++ 0x5#4) = some (.vsra 4 40 10 44) := by decide

theorem test_decode_major25 :
    decode (11#4 ++ 0x25#6 ++ 0x0#3 ++ 7#3 ++ 17#6 ++ 51#6 ++ 0x0#4) = some (.vcmpeq 11 7 17 51) ∧
    decode (2#4 ++ 0x25#6 ++ 0x0#3 ++ 6#3 ++ 24#6 ++ 58#6 ++ 0x1#4) = some (.vcmplt 2 6 24 58) ∧
    decode (9#4 ++ 0x25#6 ++ 0x0#3 ++ 5#3 ++ 31#6 ++ 1#6 ++ 0x2#4) = some (.vcmple 9 5 31 1) ∧
    decode (0#4 ++ 0x25#6 ++ 0x0#3 ++ 4#3 ++ 0x0#3 ++ 6#3 ++ 0x0#3 ++ 0#3 ++ 0x3#4) = some (.mand 0 4 6 0) ∧
    decode (7#4 ++ 0x25#6 ++ 0x0#3 ++ 3#3 ++ 0x0#3 ++ 5#3 ++ 0x0#3 ++ 7#3 ++ 0x4#4) = some (.mor 7 3 5 7) ∧
    decode (14#4 ++ 0x25#6 ++ 0x0#3 ++ 2#3 ++ 0x0#3 ++ 4#3 ++ 0x5#10) = some (.mnot 14 2 4) ∧
    decode (5#4 ++ 0x25#6 ++ 0x0#1 ++ 25#5 ++ 0x0#3 ++ 3#3 ++ 0x6#10) = some (.mpopc 5 25 3) := by decide

theorem test_decode_major26 :
    decode (12#4 ++ 0x26#6 ++ 32#6 ++ 2#6 ++ 36#6 ++ 0x0#4) = some (.vperm 12 32 2 36) ∧
    decode (3#4 ++ 0x26#6 ++ 39#6 ++ 14#5 ++ 0x0#1 ++ 43#6 ++ 0x1#4) = some (.vperm2 3 39 14 43) ∧
    decode (10#4 ++ 0x26#6 ++ 46#6 ++ 16#6 ++ 3#6 ++ 0x2#4) = some (.vshuf 10 46 16 .unzip) ∧
    decode (1#4 ++ 0x26#6 ++ 53#6 ++ 23#6 ++ 57#6 ++ 0x3#4) = some (.vslide 1 53 23 57) ∧
    decode (8#4 ++ 0x26#6 ++ 60#6 ++ 30#6 ++ 0x4#10) = some (.vmov 8 60 30) := by decide

theorem test_decode_major27 :
    decode (15#4 ++ 0x27#6 ++ 3#6 ++ 10#5 ++ 0x0#11) = some (.vsplat 15 3 10) ∧
    decode (6#4 ++ 0x27#6 ++ 10#6 ++ 17#5 ++ 24#5 ++ 0x1#6) = some (.vext 6 10 17 24) ∧
    decode (13#4 ++ 0x27#6 ++ 17#6 ++ 24#5 ++ 31#5 ++ 0x2#6) = some (.vins 13 17 24 31) := by decide

theorem test_decode_major28 :
    decode (4#4 ++ 0x28#6 ++ 24#6 ++ 58#6 ++ 0x0#2 ++ 12#4 ++ 0x0#4) = some (.vcvt 4 24 58 12) ∧
    decode (11#4 ++ 0x28#6 ++ 31#6 ++ 1#6 ++ 0x0#2 ++ 3#4 ++ 0x1#4) = some (.vpack 11 31 1 3) ∧
    decode (2#4 ++ 0x28#6 ++ 38#6 ++ 8#6 ++ 0x0#2 ++ 10#4 ++ 0x2#4) = some (.vwiden 2 38 8 10) := by decide

theorem test_decode_major29 :
    decode (9#4 ++ 0x29#6 ++ 45#6 ++ 15#6 ++ 0x0#10) = some (.vredsum 9 45 15) ∧
    decode (0#4 ++ 0x29#6 ++ 52#6 ++ 22#6 ++ 0x1#10) = some (.vredmax 0 52 22) ∧
    decode (7#4 ++ 0x29#6 ++ 59#6 ++ 29#6 ++ 0x2#10) = some (.vredmin 7 59 29) := by decide

theorem test_decode_major2a :
    decode (14#4 ++ 0x2a#6 ++ 7#5 ++ 0x0#1 ++ 36#6 ++ 6#6 ++ 0x0#4) = some (.xadd 14 7 36 6) ∧
    decode (5#4 ++ 0x2a#6 ++ 14#5 ++ 0x0#1 ++ 43#6 ++ 13#6 ++ 0x1#4) = some (.xsub 5 14 43 13) ∧
    decode (12#4 ++ 0x2a#6 ++ 21#5 ++ 0x0#1 ++ 50#6 ++ 20#6 ++ 0x2#4) = some (.xmul 12 21 50 20) ∧
    decode (3#4 ++ 0x2a#6 ++ 28#5 ++ 0x0#1 ++ 57#6 ++ 27#6 ++ 0x3#4) = some (.xfma 3 28 57 27) ∧
    decode (10#4 ++ 0x2a#6 ++ 3#5 ++ 0x0#1 ++ 5#5 ++ 0x4#11) = some (.xred 10 3 5) := by decide

theorem test_decode_major2b :
    decode (1#4 ++ 0x2b#6 ++ 10#5 ++ 0x0#1 ++ 12#5 ++ 0x0#1 ++ 14#5 ++ 0x0#5) = some (.dwadd 1 10 12 14) ∧
    decode (8#4 ++ 0x2b#6 ++ 17#5 ++ 0x0#1 ++ 19#5 ++ 0x0#1 ++ 21#5 ++ 0x1#5) = some (.dwsub 8 17 19 21) ∧
    decode (15#4 ++ 0x2b#6 ++ 24#5 ++ 0x0#1 ++ 26#5 ++ 0x0#1 ++ 28#5 ++ 0x2#5) = some (.dwmul 15 24 26 28) ∧
    decode (6#4 ++ 0x2b#6 ++ 31#5 ++ 0x0#1 ++ 1#5 ++ 0x3#11) = some (.dwnorm 6 31 1) ∧
    decode (13#4 ++ 0x2b#6 ++ 1#6 ++ 8#5 ++ 0x4#11) = some (.dwrnd 13 1 8) := by decide

theorem test_decode_major2c :
    decode (4#4 ++ 0x2c#6 ++ 13#5 ++ 0x0#1 ++ 15#5 ++ 22#5 ++ 0x0#6) = some (.sldep 4 13 15 22) ∧
    decode (11#4 ++ 0x2c#6 ++ 20#5 ++ 0x0#1 ++ 22#5 ++ 29#5 ++ 0x1#6) = some (.slmerge 11 20 22 29) := by decide

theorem test_decode_major2d :
    decode (2#4 ++ 0x2d#6 ++ 27#5 ++ 2#5 ++ 0x0#5 ++ 5#4 ++ 0x0#3) = some (.mset 2 27 2 5) ∧
    decode (9#4 ++ 0x2d#6 ++ 2#5 ++ 9#5 ++ 2#3 ++ 0x80#9) = some (.mballoc 9 2 9 2) ∧
    decode (0#4 ++ 0x2d#6 ++ 9#5 ++ 16#5 ++ 1#3 ++ 0x88#9) = some (.mbfree 0 9 16 1) ∧
    decode (7#4 ++ 0x2d#6 ++ 16#5 ++ 23#5 ++ 0#3 ++ 0x90#9) = some (.mzero 7 16 23 0) ∧
    decode (14#4 ++ 0x2d#6 ++ 23#5 ++ 30#5 ++ 7#3 ++ 0x98#9) = some (.mmac 14 23 30 7) ∧
    decode (5#4 ++ 0x2d#6 ++ 30#5 ++ 5#5 ++ 6#3 ++ 0xa0#9) = some (.mdrain 5 30 5 6) ∧
    decode (12#4 ++ 0x2d#6 ++ 5#5 ++ 12#5 ++ 5#3 ++ 0xa8#9) = some (.mfill 12 5 12 5) ∧
    decode (3#4 ++ 0x2d#6 ++ 12#5 ++ 0xb0#17) = some (.mstat 3 12) := by decide

theorem test_decode_major2e :
    decode (10#4 ++ 0x2e#6 ++ 19#5 ++ 26#5 ++ 0x0#6 ++ 5#3 ++ 0x0#3) = some (.cset 10 19 26 5) ∧
    decode (1#4 ++ 0x2e#6 ++ 26#5 ++ 1#5 ++ 0x40#12) = some (.copy 1 26 1) ∧
    decode (8#4 ++ 0x2e#6 ++ 1#5 ++ 8#5 ++ 0x48#12) = some (.cfill 8 1 8) := by decide

theorem test_decode_major2f :
    decode (15#4 ++ 0x2f#6 ++ 8#5 ++ 15#5 ++ 0x0#12) = some (.rsend 15 8 15) ∧
    decode (6#4 ++ 0x2f#6 ++ 15#5 ++ 22#5 ++ 0x8#12) = some (.rpermit 6 15 22) ∧
    decode (13#4 ++ 0x2f#6 ++ 22#5 ++ 29#5 ++ 0x10#12) = some (.rstat 13 22 29) := by decide

theorem test_decode_major30 :
    decode (4#4 ++ 0x30#6 ++ 29#5 ++ 4#5 ++ 11#5 ++ 0x0#7) = some (.msgw 4 29 4 11) ∧
    decode (11#4 ++ 0x30#6 ++ 4#5 ++ 11#5 ++ 18#5 ++ 0x1#7) = some (.wtarm 11 4 11 18) ∧
    decode (2#4 ++ 0x30#6 ++ 11#5 ++ 18#5 ++ 0x2#12) = some (.wtdis 2 11 18) ∧
    decode (9#4 ++ 0x30#6 ++ 18#5 ++ 25#5 ++ 0#5 ++ 0x3#7) = some (.cntwait 9 18 25 0) := by decide

theorem test_decode_major31 :
    decode (0#4 ++ 0x31#6 ++ 0x0#5 ++ 0#5 ++ 0x0#12) = some (.spawn 0 0) ∧
    decode (7#4 ++ 0x31#6 ++ 0#5 ++ 7#5 ++ 0x1#12) = some (.joindec 7 0 7) ∧
    decode (14#4 ++ 0x31#6 ++ 0x2#22) = some (.retire 14) ∧
    decode (5#4 ++ 0x31#6 ++ 0x3#22) = some (.yield 5) := by decide

theorem test_decode_major32 :
    decode (12#4 ++ 0x32#6 ++ 21#5 ++ 28#5 ++ 0x0#12) = some (.gnew 12 21 28) ∧
    decode (3#4 ++ 0x32#6 ++ 0x0#5 ++ 3#5 ++ 0x1#12) = some (.gjoin 3 3) ∧
    decode (10#4 ++ 0x32#6 ++ 0x0#5 ++ 10#5 ++ 0x2#12) = some (.gleave 10 10) ∧
    decode (1#4 ++ 0x32#6 ++ 10#5 ++ 17#5 ++ 0x3#12) = some (.gbar 1 10 17) ∧
    decode (8#4 ++ 0x32#6 ++ 0x0#5 ++ 24#5 ++ 31#5 ++ 0x4#7) = some (.gbcfg 8 24 31) ∧
    decode (15#4 ++ 0x32#6 ++ 0x0#5 ++ 31#5 ++ 0x5#12) = some (.gfree 15 31) := by decide

theorem test_decode_major33 :
    decode (6#4 ++ 0x33#6 ++ 31#5 ++ 0x0#13 ++ 6#4) = some (.getid 6 31 6) ∧
    decode (13#4 ++ 0x33#6 ++ 6#5 ++ 0x1#9 ++ 81#8) = some (.rdcsr 13 6 81) ∧
    decode (4#4 ++ 0x33#6 ++ 0x0#5 ++ 20#5 ++ 0x2#4 ++ 88#8) = some (.wrcsr 4 20 88) := by decide

theorem test_decode_major34 :
    decode (11#4 ++ 0x34#6 ++ 20#5 ++ 27#5 ++ 2#5 ++ 0x0#7) = some (.emit 11 20 27 2) ∧
    decode (2#4 ++ 0x34#6 ++ 0x0#5 ++ 2#5 ++ 0x1#12) = some (.fwait 2 2) ∧
    decode (9#4 ++ 0x34#6 ++ 2#5 ++ 9#5 ++ 0x2#12) = some (.pxlook 9 2 9) ∧
    decode (0#4 ++ 0x34#6 ++ 9#5 ++ 16#5 ++ 0x3#12) = some (.pxins 0 9 16) ∧
    decode (7#4 ++ 0x34#6 ++ 16#5 ++ 23#5 ++ 0x4#12) = some (.pxrel 7 16 23) := by decide

theorem test_decode_major35 :
    decode (14#4 ++ 0x35#6 ++ 0x0#5 ++ 30#5 ++ 0x0#9 ++ 2#3) = some (.capld 14 30 2) ∧
    decode (5#4 ++ 0x35#6 ++ 0x20#19 ++ 1#3) = some (.capclr 5 1) ∧
    decode (12#4 ++ 0x35#6 ++ 0x0#5 ++ 12#5 ++ 0x200#12) = some (.csave 12 12) ∧
    decode (3#4 ++ 0x35#6 ++ 0x0#5 ++ 19#5 ++ 0x300#12) = some (.crestore 3 19) ∧
    decode (10#4 ++ 0x35#6 ++ 0x0#5 ++ 26#5 ++ 0x400#12) = some (.tlbinv 10 26) ∧
    decode (1#4 ++ 0x35#6 ++ 0xa0#19 ++ 0#3) = some (.tlbflush 1 .core) ∧
    decode (8#4 ++ 0x35#6 ++ 0x600#22) = some (.eret 8) := by decide

theorem test_decode_major36 :
    decode (15#4 ++ 0x36#6 ++ 0x0#5 ++ 15#5 ++ 1459#12) = some (.cwb 15 15 1459) ∧
    decode (6#4 ++ 0x36#6 ++ 0x1#5 ++ 22#5 ++ 1466#12) = some (.cinv 6 22 1466) ∧
    decode (13#4 ++ 0x36#6 ++ 0x2#5 ++ 29#5 ++ 1473#12) = some (.pref 13 29 1473) := by decide

theorem test_decode_major37 :
    decode (4#4 ++ 0x37#6 ++ 0x0#14 ++ 200#8) = some (.trap 4 200) ∧
    decode (11#4 ++ 0x37#6 ++ 0x100#22) = some (.brk 11) ∧
    decode (2#4 ++ 0x37#6 ++ 0x200#22) = some (.wfe 2) := by decide

theorem test_decode_major38 :
    decode (9#4 ++ 0x38#6 ++ 0x0#1 ++ 13#5 ++ 0x0#2 ++ 1501#14) = some (.sld 9 13 1501) ∧
    decode (0#4 ++ 0x38#6 ++ 0x0#1 ++ 20#5 ++ 0x1#2 ++ 1508#14) = some (.sst 0 20 1508) ∧
    decode (7#4 ++ 0x38#6 ++ 0x0#2 ++ 11#4 ++ 0x2#2 ++ 1515#14) = some (.gsld 7 11 1515) ∧
    decode (14#4 ++ 0x38#6 ++ 0x0#2 ++ 2#4 ++ 0x3#2 ++ 1522#14) = some (.gsst 14 2 1522) := by decide

theorem test_decode_hostel :
    decodeHostel (0x0#12 ++ 4#5 ++ 0x0#3 ++ 28#5 ++ 0xb#7) = some (.fdone 28 4) ∧
    decodeHostel (0x0#12 ++ 11#5 ++ 0x1#3 ++ 3#5 ++ 0xb#7) = some (.fpoll 3 11) ∧
    decodeHostel (0x0#7 ++ 11#5 ++ 18#5 ++ 0x200b#15) = some (.sbox 18 11) := by decide

/-- The words that the spec works out (R38, R40 to R61, R227, R231 to R236, R328, R332, R333): each decodes to its instruction. -/
theorem test_decode_worked_words :
    decode 0x10861100 = some (.add 1 3 1 2) ∧ decode 0x88444A73 = some (.vfma 8 4 18 39) ∧
    decode 0x0B4A6298 = some (.mmac 0 5 6 1) ∧ decode 0x03480FFD = some (.bne 0 4 0 0xFFD) ∧
    decode 0x07823802 = some (.vld 0 2 7 false 2) ∧ decode 0x06C03138 = some (.waitc 0 0 3 7 0) ∧
    decode 0x0AC00B00 = some (.dwadd 0 0 1 24) ∧ decode 0x01C89807 = some (.srai 0 4 9 7) ∧
    decode 0x02C64283 = some (.fdiv 0 3 4 5) ∧ decode 0x03C85FFE = some (.bge 0 4 5 0xFFE) ∧
    decode 0x04C01000 = some (.jalr 0 0 1 0) ∧ decode 0x00400000 = some (.nop 0) ∧
    decode 0x0E050002 = some (.sld 0 5 2) ∧ decode 0x0E09C008 = some (.gsst 0 9 8) ∧
    decode 0x0D405002 = some (.capld 0 5 2) ∧ decode 0x0D400503 = some (.tlbflush 0 .pkg) ∧
    decode 0x0DC00007 = some (.trap 0 7) ∧ decode 0x0CC06280 = some (.wrcsr 0 6 0x80) ∧
    decodeHostel 0x0005850B = some (.fdone 10 11) ∧ decodeHostel 0x00C5A00B = some (.sbox 11 12) := by decide

/-- Encodings that the spec calls illegal (R39 to R61): none has an instruction. -/
theorem test_decode_reserved :
    decode 0 = none ∧ decode 0x07C11400 = none ∧ decode 0x0FC00000 = none ∧ decode 0x00800018 = none ∧
    decode 0x00400001 = none ∧ decode 0x01C00C00 = none ∧ decode 0x05000E00 = none ∧ decode 0x05400200 = none ∧
    decode 0x06000007 = none ∧ decode 0x06800005 = none ∧ decode 0x0E200000 = none ∧ decode 0x0D400900 = none ∧
    decodeHostel 0x0015850B = none ∧ decodeHostel 0x0000300B = none := by decide

/-! ### Small states -/

/-- One context of a program in berth 0 of core 0, about to issue at address 0x10000, which its core translates. -/
def base : State := State.reset.withFetchWord 32 0x00400000

/-- The same with the context changed. -/
def on (f : Ctx → Ctx) : State := { base with ctx := f base.ctx }

/-- The same in privileged code. -/
def inHandler : State := on fun c => { c with priv := true }

/-- An entry of a queue with number 0. -/
def entryOf (i : Instr) : QEntry := { blankEntry 0 with word := some i }

/-- A word that has started at V. -/
def atV (i : Instr) (f : Ctx → Ctx) : State :=
  { base with turn := .start .v, ctx := { f base.ctx with active := some (entryOf i) } }

/-! ### Words of S: the hypotheses of their statements are met -/

theorem test_IntegerWordsLand : ∃ i r s, aluRow i = some r ∧ CanIssue r.p s ∧ Settled r.srcs s :=
  ⟨.add 0 5 1 2, _, base, rfl, ⟨rfl, rfl, rfl⟩, rfl⟩

theorem test_DivisionWords_free :
    ∃ i r s, divRow i = some r ∧ CanIssue r.p s ∧ (s.coreAt (s.key / 4)).sdiv ≤ s.now ∧ Settled r.srcs s :=
  ⟨.div 0 5 1 2, _, base, rfl, ⟨rfl, rfl, rfl⟩, by decide, rfl⟩

theorem test_DivisionWords_busy :
    ∃ i r s, divRow i = some r ∧ CanIssue r.p s ∧ s.now < (s.coreAt (s.key / 4)).sdiv :=
  ⟨.div 0 5 1 2, _, { base with cores := [(0, { Core.reset with sdiv := 1 })] }, rfl, ⟨rfl, rfl, rfl⟩, by decide⟩

theorem test_FloatWordsLand : ∃ i r s, fpsRow i = some r ∧ CanIssue r.p s ∧
    s.ctx.early s.ctx.nextId (r.srcs.flatMap dstS ++ if r.vt then [.vt] else []) = none ∧
    (r.dv = true → (s.coreAt (s.key / 4)).sdiv ≤ s.now) :=
  ⟨.fdiv 0 5 1 2, _, base, rfl, ⟨rfl, rfl, rfl⟩, rfl, by decide⟩

theorem test_BranchesAndJumps_branch : ∃ i r s, branchRow i = some r ∧ CanIssue r.p s ∧ Settled [r.a, r.b] s :=
  ⟨.beq 0 1 2 4, _, base, rfl, ⟨rfl, rfl, rfl⟩, rfl⟩

theorem test_BranchesAndJumps_jump : ∃ s, CanIssue 0 s ∧ Settled [1] s := ⟨base, ⟨rfl, rfl, rfl⟩, rfl⟩

theorem test_SpillWords_inside : ∃ (o : BitVec 14) (s : State), CanIssue 0 s ∧ Settled [5] s ∧
    8 * o.toNat + 8 ≤ 1024 * s.ctx.gran :=
  ⟨4095, base, ⟨rfl, rfl, rfl⟩, rfl, by decide⟩

theorem test_SpillWords_outside : ∃ (o : BitVec 14) (s : State), CanIssue 0 s ∧ Settled [5] s ∧
    1024 * s.ctx.gran < 8 * o.toNat + 8 :=
  ⟨4096, base, ⟨rfl, rfl, rfl⟩, rfl, by decide⟩

theorem test_SpillWords_rows : ∃ (o : BitVec 14) (s : State) (e : QEntry), 8 * o.toNat + 128 ≤ 1024 * s.ctx.gran ∧
    VFits { fixedDsts := [hRow 3], useVt := false, useMask := false, keeps := false } e s ∧
    VFits { fixedSrcs := [hRow 3], useVt := false, useMask := false, keeps := false } e s :=
  ⟨4080, atV (.gsld 0 3 4080) id, entryOf (.gsld 0 3 4080), by decide, ⟨rfl, rfl, rfl, rfl⟩, ⟨rfl, rfl, rfl, rfl⟩⟩

theorem test_WordsThatComplete : ∃ i r s, completeRow i = some r ∧ CanIssue r.p s ∧ (r.priv = true → s.ctx.priv = true) ∧
    Settled r.srcs s ∧ r.ready s = true :=
  ⟨.waitc 0 0 0 0 0, _, base, rfl, ⟨rfl, rfl, rfl⟩, by decide, rfl, rfl⟩

theorem test_WordsThatComplete_privileged : ∃ i r s, completeRow i = some r ∧ r.priv = true ∧ CanIssue r.p s ∧
    s.ctx.priv = true ∧ Settled r.srcs s ∧ r.ready s = true :=
  ⟨.capld 0 1 2, _, inHandler, rfl, rfl, ⟨rfl, rfl, rfl⟩, rfl, rfl, rfl⟩

/-- The address of a scratchpad byte of core 0, in the core's own window (R143). -/
def ownWin : Word := 0x01FFFFFFFFF80000

/-- A context whose s1 holds `v`. -/
def s1Holds (v : Word) : State := on fun c => c.setReg 1 v

theorem test_LoadsLeaveS : ∃ i r s acc, loadRow i = some r ∧ CanIssue r.p s ∧ Settled r.srcs s ∧ LsOpen .lc s ∧
    s.chkS (r.addr s) r.size r.size r.want r.win 0 = .ok acc :=
  ⟨.ld 0 5 1 0, _, s1Holds ownWin, _, rfl, ⟨rfl, rfl, rfl⟩, rfl, ⟨rfl, by decide⟩, rfl⟩

theorem test_LoadsLeaveS_translated : ∃ i r s acc, loadRow i = some r ∧ CanIssue r.p s ∧ Settled r.srcs s ∧ LsOpen .lc s ∧
    s.chkS (r.addr s) r.size r.size r.want r.win 0 = .ok acc :=
  ⟨.amoadd 0 5 1 2 true .pkg, _, s1Holds 0x10008, _, rfl, ⟨rfl, rfl, rfl⟩, rfl, ⟨rfl, by decide⟩, rfl⟩

theorem test_LoadsLeaveS_full_empty : ∃ i r s acc, lfeRow i = some r ∧ CanIssue r.p s ∧ Settled r.srcs s ∧ LsOpen .lc s ∧
    s.chkS (r.addr s) r.size r.size r.want r.win 0 = .ok acc :=
  ⟨.lfe 0 5 1 0, _, s1Holds ownWin, _, rfl, ⟨rfl, rfl, rfl⟩, rfl, ⟨rfl, by decide⟩, rfl⟩

theorem test_StoresLeaveS : ∃ i r s acc, storeRow i = some r ∧ CanIssue r.p s ∧ Settled r.srcs s ∧ LsOpen .sc s ∧
    s.chkS (r.addr s) r.size r.size .write r.win 0 = .ok acc :=
  ⟨.sd 0 5 1 0, _, s1Holds ownWin, _, rfl, ⟨rfl, rfl, rfl⟩, rfl, ⟨rfl, by decide⟩, rfl⟩

/-! ### Forwarding and V -/

theorem unbound_base : Unbound base.ctx := by intro n; fin_cases n <;> rfl

theorem canQueue_base {r : QRow} {f : Ctx → Ctx} (h1 : (on f).ctx.owes .s = false)
    (h2 : taken (on f).ctx r.st < places r.st) (h3 : ∀ k, (on f).ctx.ctr k < 63) : CanQueue r (on f) :=
  ⟨rfl, rfl, h1, h2, fun k _ => h3 k⟩

theorem test_ForwardingQueues_grid : ∃ i r s, queueRow i = some r ∧ CanQueue r s ∧ Settled r.scal s ∧
    (r.rows = true → Unbound s.ctx) :=
  ⟨.vfadd 0 1 2 3, _, on id, rfl, canQueue_base rfl (by decide) (by intro k; cases k <;> decide), rfl, fun _ => unbound_base⟩

theorem test_ForwardingQueues_matrix : ∃ i r s, queueRow i = some r ∧ CanQueue r s ∧ Settled r.scal s ∧
    (r.rows = true → Unbound s.ctx) :=
  ⟨.mmac 0 1 2 3, _, on id, rfl, canQueue_base rfl (by decide) (by intro k; cases k <;> decide), rfl, fun _ => unbound_base⟩

theorem test_ForwardingQueues_copy : ∃ i r s, queueRow i = some r ∧ CanQueue r s ∧ Settled r.scal s ∧
    (r.rows = true → Unbound s.ctx) :=
  ⟨.cset 0 1 2 3, _, on id, rfl, canQueue_base rfl (by decide) (by intro k; cases k <;> decide), rfl, fun _ => unbound_base⟩

theorem test_GridWordsPerform : ∃ i s e r, vRow s.ctx e i = some r ∧ VFits r.spec e s ∧ r.fits :=
  ⟨.vfadd 0 1 2 3, atV (.vfadd 0 1 2 3) id, entryOf (.vfadd 0 1 2 3), _, rfl, ⟨rfl, rfl, rfl, rfl⟩, trivial⟩

theorem test_VariableGridWordsPerform_function : ∃ i s e g a f, sfRow i = some (g, a, f) ∧
    VFits { srcs := [a], dst := some g, types := fun t => decide (1 ≤ t ∧ t < 4) } e s :=
  ⟨.vexp2 0 1 2, atV (.vexp2 0 1 2) fun c => { c with vt := 1 }, entryOf (.vexp2 0 1 2), _, _, _, rfl, ⟨rfl, rfl, rfl, rfl⟩⟩

theorem test_VariableGridWordsPerform_inside : ∃ (s : State) (e : QEntry),
    VFits { srcs := [1], useMask := false, keeps := false } e s ∧ e.x.toNat < perVec s.ctx.t :=
  let e := { entryOf (.vext 0 1 2 3) with x := 15 }
  ⟨{ atV (.vext 0 1 2 3) id with ctx := { base.ctx with active := some e } }, e, ⟨rfl, rfl, rfl, rfl⟩, by decide⟩

theorem test_VariableGridWordsPerform_outside : ∃ (s : State) (e : QEntry),
    VFits { srcs := [1], useMask := false, keeps := false } e s ∧ perVec s.ctx.t ≤ e.x.toNat :=
  let e := { entryOf (.vext 0 1 2 3) with x := 16 }
  ⟨{ atV (.vext 0 1 2 3) id with ctx := { base.ctx with active := some e } }, e, ⟨rfl, rfl, rfl, rfl⟩, by decide⟩

theorem test_RowAccessesForward_own : ∃ i r s, vmRow i = some r ∧ CanQueue r.q s ∧ Settled r.q.scal s ∧ s.ctx.ldaWait = false ∧
    ownSpad s (rowAddr (s.ctx.reg r.q.x) r.imm) :=
  ⟨.vld 0 1 1 false 0, _, s1Holds ownWin, rfl, canQueue_base rfl (by decide) (by intro k; cases k <;> decide), rfl, rfl, 0, rfl⟩

/-- The accesses of the 16 pieces of the row at 0x10000. -/
def rowAccs : List Acc := (List.range 16).map fun j => ⟨BitVec.ofNat 64 (0x10000 + 8 * j), 0x10000 + 8 * j, 8, 0, true⟩

theorem test_RowAccessesForward_memory : ∃ i r s accs, vmRow i = some r ∧ CanQueue r.q s ∧ Settled r.q.scal s ∧
    s.ctx.ldaWait = false ∧ ¬ ownSpad s (rowAddr (s.ctx.reg r.q.x) r.imm) ∧ accs.length = 16 ∧
    precheck (s.key / 4) (rowAddr (s.ctx.reg r.q.x) r.imm) 128 16 (if r.fe then .spadOnly else .spad) 0 = none ∧
    piecesOk s (rowAddr (s.ctx.reg r.q.x) r.imm) r.want (fun _ => 0) accs :=
  ⟨.vst 0 1 1 false 0, _, s1Holds 0x10000, rowAccs, rfl,
    canQueue_base rfl (by decide) (by intro k; cases k <;> decide), rfl, rfl, (by rintro ⟨off, h⟩; cases h), rfl, rfl,
    by intro j; fin_cases j <;> rfl⟩

theorem test_LaneAccessesForward_lanes : ∃ i r s, vxRow i = some r ∧ CanQueue r s ∧ Settled r.scal s ∧ s.ctx.ldaWait = false :=
  ⟨.vlds 0 1 1 2, _, on id, rfl, canQueue_base rfl (by decide) (by intro k; cases k <;> decide), rfl, rfl⟩

/-- A context whose registers s1 and s2 hold `v` and `w`. -/
def s12Hold (v w : Word) : State := on fun c => (c.setReg 1 v).setReg 2 w

theorem test_LaneAccessesForward_range : ∃ i r limit want range s, slRow i = some (r, limit, want, range) ∧ CanQueue r s ∧
    s.ctx.ldaWait = false ∧ limit < (s.ctx.reg r.y).toNat :=
  ⟨.sldep 0 1 1 2, _, _, _, _, s12Hold 0x10000 4096, rfl, canQueue_base rfl (by decide) (by intro k; cases k <;> decide), rfl,
    by decide⟩

theorem test_LaneAccessesForward_misaligned : ∃ i r limit want range s, slRow i = some (r, limit, want, range) ∧ CanQueue r s ∧
    s.ctx.ldaWait = false ∧ (s.ctx.reg r.y).toNat ≤ limit ∧ Settled r.scal s ∧ (s.ctx.reg r.x).toNat % 16 ≠ 0 :=
  ⟨.sldep 0 1 1 2, _, _, _, _, s12Hold 0x10008 4095, rfl, canQueue_base rfl (by decide) (by intro k; cases k <;> decide), rfl,
    by decide, rfl, by decide⟩

theorem test_LaneAccessesForward_slots : ∃ i r limit want range s accs, slRow i = some (r, limit, want, range) ∧ CanQueue r s ∧
    s.ctx.ldaWait = false ∧ (s.ctx.reg r.y).toNat ≤ limit ∧ Settled r.scal s ∧ (s.ctx.reg r.x).toNat % 16 = 0 ∧
    accs.length = (range (s.ctx.reg r.x) (s.ctx.reg r.y)).2 ∧
    piecesOk s (range (s.ctx.reg r.x) (s.ctx.reg r.y)).1 want (fun j => j / 2) accs :=
  ⟨.slmerge 0 1 1 2, _, _, _, _, s12Hold 0x10000 8, rowAccs, rfl,
    canQueue_base rfl (by decide) (by intro k; cases k <;> decide), rfl, by decide, rfl, by decide, rfl,
    by intro j; fin_cases j <;> rfl⟩

/-- An entry at V with values and accesses. -/
def entryWith (i : Instr) (x y : Word) (accs : List Acc) : QEntry := { entryOf i with x := x, y := y, accs := accs }

/-- A word that has started at V with an entry given in full. -/
def atV' (e : QEntry) : State := { base with turn := .start .v, ctx := { base.ctx with active := some e } }

theorem test_GridAccessesLeaveV_load : ∃ i s s1 e sp act accs hold, gridLoad s e i = some (sp, s1, act, accs, hold) ∧
    VFits sp e s :=
  ⟨.vld 0 1 1 false 0, atV' (entryWith (.vld 0 1 1 false 0) 0x10000 0 rowAccs), _,
    entryWith (.vld 0 1 1 false 0) 0x10000 0 rowAccs, _, _, _, _, rfl, ⟨rfl, rfl, rfl, rfl⟩⟩

theorem test_GridAccessesLeaveV_store : ∃ i s s1 e sp parts f, gridStore s e i = some (sp, s1, parts, f) ∧ VFits sp e s :=
  ⟨.sldep 0 1 1 2, atV' (entryWith (.sldep 0 1 1 2) 0x10000 0 (rowAccs.take 2)), _,
    entryWith (.sldep 0 1 1 2) 0x10000 0 (rowAccs.take 2), _, _, _, rfl, ⟨rfl, rfl, rfl, rfl⟩⟩

theorem test_GridAccessesTrap : ∃ i s s1 e sp t, gridTrap s e i = some (sp, s1, t) ∧ VFits sp e s :=
  ⟨.gsld 0 3 4081, atV' (entryOf (.gsld 0 3 4081)), _, entryOf (.gsld 0 3 4081), _, _, rfl, ⟨rfl, rfl, rfl, rfl⟩⟩

theorem test_GeneratorWordsForward_traps : ∃ i r s z, genWord i = some r ∧ CanQueue r.q s ∧ r.bad s.ctx = some z :=
  ⟨.sset 0 1 1 2, _, s12Hold 8 0, _, rfl, canQueue_base rfl (by decide) (by intro k; cases k <;> decide), rfl⟩

theorem test_GeneratorWordsForward_runs : ∃ i r s, genWord i = some r ∧ CanQueue r.q s ∧ r.bad s.ctx = none ∧
    Settled r.q.scal s :=
  ⟨.sbind 0 3, _, on id, rfl, canQueue_base rfl (by decide) (by intro k; cases k <;> decide), rfl, rfl⟩

theorem test_MarkersComplete : ∃ i st s e, markerRow i = some st ∧ s.turn = .start st ∧ standing s st = some e :=
  ⟨.sset 0 1 1 2, .v, atV (.sset 0 1 1 2) id, _, rfl, rfl, rfl⟩

/-! ### Threads -/

/-- Where a record of zeros stands in the translated page. -/
def recVa : Word := 0x10100

/-- The same, where core 0's die has the only copy of the record's sector. -/
def recHere (v w : Word) : State := { s12Hold v w with dir := [(0x404, (List.replicate 6 Moesi.i).set 0 .m)] }

/-- The accesses of a record's four doublewords. -/
def recAccs : Vector Acc 4 :=
  #v[⟨0x10100, 0x10100, 8, 0, true⟩, ⟨0x10108, 0x10108, 8, 0, true⟩, ⟨0x10110, 0x10110, 8, 0, true⟩, ⟨0x10118, 0x10118, 8, 0, true⟩]

/-- A package from which the record at `recVa` can be read. -/
theorem recordAt_of {s : State} {r : Rec} (h1 : RecordSpan s recVa recAccs) (h2 : CanTouch s false recAccs.toList)
    (h3 : (touched s false recAccs.toList).bad = [])
    (h4 : r = recOfNat (leNat (recAccs.toList.flatMap fun x => (touched s false recAccs.toList).mem.readBytes x.loc x.len))) :
    RecordAt s recVa (touched s false recAccs.toList) r := ⟨recAccs, h1, h2, rfl, h3, h4⟩

theorem test_WaitingTaskWords_limit : ∃ s : State, 64 ≤ (s.ctx.reg 1).toNat ∧ CanIssue 0 s :=
  ⟨s12Hold 64 0, by decide, rfl, rfl, rfl⟩

theorem test_WaitingTaskWords_arm : ∃ (s t : State) (w : WtEntry) (r : Rec), (s.ctx.reg 1).toNat = 63 ∧ 63 < 64 ∧
    mgetD s.wt (64 * (s.key / 4) + 63) WtEntry.reset = w ∧ CanSerialise 0 [1, 2, 5] s ∧ (s.ctx.reg 5).toNat < 2 ^ 32 ∧
    w.armed = false ∧ RecordAt (popped 0 s) (s.ctx.reg 2) t r ∧ r.bad = false :=
  ⟨recHere 63 recVa, _, _, recOfNat 0, rfl, by decide, rfl, ⟨⟨rfl, rfl, rfl⟩, rfl, rfl, rfl⟩, by decide, rfl,
    recordAt_of (by intro j; fin_cases j <;> rfl) ⟨by decide, rfl⟩ rfl rfl, rfl⟩

theorem test_WaitingTaskWords_wait : ∃ (s : State), (s.ctx.reg 1).toNat = 0 ∧ CanSerialise 0 [1, 2] s ∧
    (s.ctx.reg 2).toNat < 2 ^ 32 :=
  ⟨s12Hold 0 0xFFFFFFFF, rfl, ⟨⟨rfl, rfl, rfl⟩, rfl, rfl, rfl⟩, by decide⟩

theorem test_ThreadsSpawnAndEnd_good : ∃ (s t u : State) (r : Rec) (acc : Acc), CanSerialise 0 [1] s ∧
    RecordAt (popped 0 s) (s.ctx.reg 1) t r ∧ r.bad = false ∧ t.chkS (s.ctx.reg 1 + 16) 4 4 .write .none 0 = .ok acc ∧
    CanTouch t true [acc] ∧ u = touched t true [acc] :=
  ⟨recHere recVa 0, _, _, recOfNat 0, ⟨0x10110, 0x10110, 4, 0, true⟩, ⟨⟨rfl, rfl, rfl⟩, rfl, rfl, rfl⟩,
    recordAt_of (by intro j; fin_cases j <;> rfl) ⟨by decide, rfl⟩ rfl rfl, rfl, rfl, ⟨by decide, rfl⟩, rfl⟩

/-- A package whose translated page holds a record with a reserved flag set. -/
def badRecord : State := { recHere recVa 0 with mem := (recHere recVa 0).mem.write 0x10114 0x80 }

theorem test_ThreadsSpawnAndEnd_bad : ∃ (s t : State) (r : Rec), CanSerialise 0 [1] s ∧
    RecordAt (popped 0 s) (s.ctx.reg 1) t r ∧ r.bad = true :=
  ⟨badRecord, _, recOfNat (0x80 * 2 ^ 160), ⟨⟨rfl, rfl, rfl⟩, rfl, rfl, rfl⟩,
    recordAt_of (by intro j; fin_cases j <;> rfl) ⟨by decide, rfl⟩ rfl rfl, rfl⟩

theorem test_ThreadsSpawnAndEnd_retire : ∃ s, CanIssue 0 s ∧ s.mayRetire = true ∧ s.launches = [] ∧ s.groups = [] ∧
    s.engines = [] ∧ s.ctx.launch = none ∧ s.ctx.saved = false ∧ ∀ x ∈ s.cores, x.2.locks = [] :=
  ⟨base, ⟨rfl, rfl, rfl⟩, rfl, rfl, rfl, rfl, rfl, rfl, by decide⟩

theorem test_GroupWords_new : ∃ (s : State), CanSerialise 0 [1] s ∧ (s.ctx.reg 1).toNat = 4 ∧
    (∀ m < 1, (mgetD s.groups (4096 * 4 + m) Group.reset).live = true) ∧
    (mgetD s.groups (4096 * 4 + 1) Group.reset).live = false :=
  ⟨{ s12Hold 4 0 with groups := [(16384, { Group.reset with live := true })] }, ⟨⟨rfl, rfl, rfl⟩, rfl, rfl, rfl⟩, rfl,
    by decide, rfl⟩

/-- A table in which every key from `a` on has the value `v`. -/
def everywhere {β : Type} (v : β) (a : Nat) : Nat → SMap β
  | 0 => []
  | n + 1 => (a, v) :: everywhere v (a + 1) n

theorem mget_everywhere {β : Type} (v : β) (n : Nat) : ∀ a m, m < n → mget (everywhere v a n) (a + m) = some v := by
  induction n with
  | zero => intro a m h; omega
  | succ n ih =>
    intro a m h
    cases m with
    | zero => simp [everywhere, mget]
    | succ m =>
      have := ih (a + 1) m (by omega)
      rw [show a + 1 + m = a + (m + 1) from by omega] at this
      simp [everywhere, mget, this]

theorem test_GroupWords_full : ∃ (s : State), CanSerialise 0 [1] s ∧ (s.ctx.reg 1).toNat = 0 ∧
    (∀ m < 4096, (mgetD s.groups (4096 * 0 + m) Group.reset).live = true) :=
  ⟨{ s12Hold 0 0 with groups := everywhere { Group.reset with live := true } 0 4096 }, ⟨⟨rfl, rfl, rfl⟩, rfl, rfl, rfl⟩, rfl, by
    intro m h
    have := mget_everywhere ({ Group.reset with live := true } : Group) 4096 0 m h
    simp only [Nat.zero_add] at this
    simp [mgetD, this]⟩

/-- A package with group 16385 at the hub, of which the context is a member. -/
def inGroup : State :=
  { s12Hold 16385 0xFFFFFFFF with groups := [(16385, { Group.reset with live := true, members := [(1, false)] })] }

theorem test_GroupWords_named : ∃ (s : State), names s (s.ctx.reg 1) 16385 ∧ CanSerialise 0 [1] s ∧ CanSerialise 0 [1, 2] s ∧
    (16385 < 4 * 4096 → 16385 / 4096 = dieOf (s.key / 4)) ∧ (mgetD s.groups 16385 Group.reset).isMember s.ctx.uid = true ∧
    (s.ctx.reg 2).toNat < 2 ^ 32 ∧ s.hasWaiter 16385 = false :=
  ⟨inGroup, ⟨rfl, by decide, rfl⟩, ⟨⟨rfl, rfl, rfl⟩, rfl, rfl, rfl⟩, ⟨⟨rfl, rfl, rfl⟩, rfl, rfl, rfl⟩, by decide, rfl, by decide,
    rfl⟩

theorem test_GroupWords_die : ∃ (s : State), names s (s.ctx.reg 1) 5 ∧ CanSerialise 0 [1] s ∧
    5 / 4096 = dieOf (s.key / 4) :=
  ⟨{ s12Hold 5 0 with groups := [(5, { Group.reset with live := true })] }, ⟨rfl, by decide, rfl⟩,
    ⟨⟨rfl, rfl, rfl⟩, rfl, rfl, rfl⟩, by decide⟩

/-! ### Serving -/

/-- An address space that maps the first GiB onto itself, environment 0, vocabulary 0 resident with ten tokens, opening id 8 and
closing id 9, and a descriptor at 0x20000 in the state `st` with future `f`. -/
def serving (st f : Nat) (v w : Word) : State :=
  let s := s12Hold v w
  { s with
    mem := (((((((s.mem.writeLE 0x40000 8 (1 + 0x80 * 2 ^ 20)).writeLE 0x80000 8 0x3F).writeLE 0x20030 4 16).writeLE 0x20048 4
      256).writeLE 0x20060 4 64).writeLE 0x20001 1 st).writeLE 0x20068 2 f),
    cfg := ((((((s.cfg.writeLE 0x80000 8 0x40000).writeLE 0x80008 4 1).writeLE 0x8000C 1 1).writeLE 0x20000 4 10).writeLE 0x20004 4
      8).writeLE 0x20008 4 9).writeLE 0x20068 1 1 }

/-- The hub's view of environment 0. -/
def hub0 : Hub := { root := 0x40000, asid := 1, ks := [0] }

theorem scrub_none (s : State) (ks : List Nat) (loc n : Nat) (h : s.bad = []) : s.scrub ks loc n = s := by
  simp [State.scrub, h]

theorem descriptor_of {s : State} {i : Instr} {va : Word} {h : Hub} {d : Nat} (h1 : precheck s.core va 256 256 .none 0 = none)
    (h2 : s.hubOf s.ctx.env [s.key] = some h) (h3 : s.hubLoc h va 256 .write = (s, .ok d)) (h4 : s.bad = [])
    (h5 : s.descBad d = false) : Descriptor s i va s h d := by
  intro k
  simp [State.onDesc, State.onHub, Eng.body, h1, h2, h3, scrub_none s _ _ _ h4, h5]

theorem hubLoc_ok {s : State} {h : Hub} {va : Word} {want : Want} {n pa : Nat} {g : BitVec 12}
    (h1 : precheck 0 va n 1 .none 0 = none) (h2 : s.hubXl h.root h.asid va.toNat want = (s, .ok pa g)) :
    s.hubLoc h va n want = (s, .ok pa) := by
  simp [State.hubLoc, h1, h2]

/-! ### Single steps with results from the rules -/

/-- The value that the word issued last will land in its register. -/
def lands (i : Instr) (s : State) : Option Word :=
  match exec i s with
  | .next t => match t.ctx.pend.getLast? with
    | some p => match p.wr with
      | [.s _ v] => some v
      | _ => none
    | none => none
  | _ => none

/-- A fact about the context after a word. -/
def after (i : Instr) (s : State) (f : Ctx → Bool) : Bool :=
  match exec i s with
  | .next t => f t.ctx
  | _ => false

/-- R225: a division by zero gives all ones, the overflowing one the dividend. -/
theorem test_div_corners : lands (.div 0 5 1 2) (s12Hold 7 0) = some 0xFFFFFFFFFFFFFFFF ∧
    lands (.div 0 5 1 2) (s12Hold 0x8000000000000000 0xFFFFFFFFFFFFFFFF) = some 0x8000000000000000 ∧
    lands (.rem 0 5 1 2) (s12Hold 7 0) = some 7 ∧
      lands (.div 0 5 1 2) (s12Hold 0xFFFFFFFFFFFFFFF9 2) = some 0xFFFFFFFFFFFFFFFD := by
  decide +kernel

/-- R72's example: LI s5, 0x0123_4567 is LUI s5, 0x1234 and ADDI s5, s5, 0x567. -/
theorem test_li_example : decode 0x024A1234 = some (.lui 0 5 0x1234) ∧ decode 0x00CA5567 = some (.addi 0 5 5 0x567) ∧
    lands (.lui 0 5 0x1234) base = some 0x1234000 ∧ lands (.addi 0 5 1 0x567) (s1Holds 0x1234000) = some 0x1234567 := by
  decide +kernel

/-- R226: the immediate of a logical word is sign-extended too. -/
theorem test_andi_extends : lands (.andi 0 5 1 0xFF0) (s1Holds 0xFFFFFFFFFFFFFFFF) = some 0xFFFFFFFFFFFFFFF0 := by decide +kernel

/-- R232: the offset counts words from the branch's own address. -/
theorem test_branch_back : after (.beq 0 0 0 0xFFF) base (fun c => c.pc == 0xFFFC) = true ∧
    after (.bne 0 0 0 0xFFF) base (fun c => c.pc == 0x10004) = true := by decide +kernel

/-- R332, R33: TRAP retires first; BREAK does not. -/
theorem test_traps : after (.trap 0 5) base (fun c => c.epc == 0x10004 && c.cause == 16 && c.tval == 5 && c.priv &&
    c.retired == 1) = true ∧
    after (.brk 0) base (fun c => c.epc == 0x10000 && c.cause == 17 && c.priv && c.retired == 0) = true := by decide +kernel

/-- R328: a privileged word in unprivileged code. -/
theorem test_privilege : after (.capclr 0 1) base (fun c => c.cause == 2 && c.epc == 0x10000) = true := by decide +kernel

/-- R240: a misaligned address is reported before its translation. -/
theorem test_misaligned : after (.ld 0 5 1 0) (s1Holds 0x90004) (fun c => c.cause == 10 &&
    c.tval == 0x90004) = true := by decide +kernel

/-- The examples of R162. -/
theorem test_ts8 : decode_ 6 0xB9 = .fin (qOfInt (-5) 8 false) ∧ decode_ 6 0x5A = .fin (qOfInt 14 8 false) ∧
    decode_ 6 0x77 = .fin (qOfInt 128 8 false) := by decide +kernel

/-- The example after R151: a register value that a bank takes. -/
theorem test_bank_format : fmtRefused 0x7F000012 = false := by decide +kernel

/-- The example after R141: four contexts of 16 rows fit a core. -/
theorem test_capacity : capacity 16 0 0 = 4 := by decide

end Sys2Proof.Tests
end

