-- ==== Sys2Proof/Tests/WitnessServing.lean ====
section
/-! SUPPORT. Witnesses: states and operands that meet the hypotheses of the statements about serving, the other words of S,
saving and restoring, and the commands of M and C. -/

namespace Sys2Proof.Tests

set_option Elab.async false -- one theorem at a time, so that few threads wait on the kernel

open Sys2Proof Sys2Proof.Machine Sys2Proof.Safety

theorem walkScrub_none (s : State) (root va : Nat) (h : s.bad = []) : s.walkScrub root va = s := by
  unfold State.walkScrub
  generalize walkReads s.mem va 3 root = l
  induction l with
  | nil => rfl
  | cons a l ih => rw [List.foldl_cons, scrub_none s _ _ _ h, ih]

theorem hubXl_ok {s : State} {root asid va pa : Nat} {want : Want} {g : BitVec 12} (hb : s.bad = [])
    (h : s.xlateHub root asid va want true = .ok pa g) : s.hubXl root asid va want = (s, .ok pa g) := by
  simp [State.hubXl, walkScrub_none s root va hb, h]

/-- A unit's work that succeeds. -/
def okB {α : Type} (x : State × Eng α) : Bool :=
  match x.2 with
  | .ok _ => true
  | _ => false

theorem ok_of {α : Type} {x : State × Eng α} (h : okB x = true) : ∃ v, x = (x.1, .ok v) := by
  obtain ⟨s, v | t | _⟩ := x
  · exact ⟨v, rfl⟩
  · cases h
  · cases h

/-- The package with EMIT's or FWAIT's tokens popped, at a descriptor in the state `st` with future `f`. -/
theorem descriptor_serving {s : State} {i : Instr} (h1 : precheck s.core 0x20000 256 256 .none 0 = none)
    (h2 : s.hubOf s.ctx.env [s.key] = some hub0) (h3 : s.xlateHub 0x40000 1 0x20000 .write true = .ok 0x20000 0)
    (h4 : s.bad = []) (h5 : s.descBad 0x20000 = false) : Descriptor s i 0x20000 s hub0 0x20000 :=
  descriptor_of h1 h2 (hubLoc_ok (by decide) (hubXl_ok h4 h3)) h4 h5

/-- At a descriptor with nothing held back, the opening token (id 8). -/
def emit0 : State := serving 0 0 0x20000 8

theorem test_EmitWord_opens : ∃ (s s1 : State) (h : Hub) (g : Nat), CanSerialise 0 [1, 2] s ∧ (s.ctx.reg 2).toNat = 8 ∧
    Descriptor (popped 0 s) (.emit 0 5 1 2) (s.ctx.reg 1) s1 h g ∧ 8 < s1.cfgLE (vocOff (field s1 g 0 1 % 8)) 4 ∧
    ∃ t v, s1.emit h s.ctx.env (s.ctx.reg 1).toNat g 8 = (t, .ok v) := by
  refine ⟨emit0, popped 0 emit0, hub0, 0x20000, ⟨⟨rfl, rfl, rfl⟩, rfl, rfl, rfl⟩, rfl, ?_, by decide +kernel, ?_⟩
  · exact descriptor_serving (by decide +kernel) (by decide +kernel) (by decide +kernel) rfl (by decide +kernel)
  · obtain ⟨v, h⟩ := ok_of (x := (popped 0 emit0).emit hub0 emit0.ctx.env (emit0.ctx.reg 1).toNat 0x20000 8) (by decide +kernel)
    exact ⟨_, v, h⟩

/-- At a descriptor in the state of a call in progress. -/
def emit2 : State := serving 2 0 0x20000 9

theorem test_EmitWord_called : ∃ (s s1 : State) (h : Hub) (g : Nat), CanSerialise 0 [1, 2] s ∧ (s.ctx.reg 2).toNat = 9 ∧
    Descriptor (popped 0 s) (.emit 0 5 1 2) (s.ctx.reg 1) s1 h g ∧ 9 < s1.cfgLE (vocOff (field s1 g 0 1 % 8)) 4 ∧
    field s1 g 1 1 = 2 :=
  ⟨emit2, popped 0 emit2, hub0, 0x20000, ⟨⟨rfl, rfl, rfl⟩, rfl, rfl, rfl⟩, rfl,
    descriptor_serving (by decide +kernel) (by decide +kernel) (by decide +kernel) rfl (by decide +kernel), by decide +kernel,
    by decide +kernel⟩

/-- At a descriptor whose text ring has no room. -/
def emitFull : State := let s := serving 0 0 0x20000 9; { s with mem := s.mem.writeLE 0x2004C 4 256 }

theorem test_EmitWord_full : ∃ (s s1 : State) (h : Hub) (g : Nat), CanSerialise 0 [1, 2] s ∧ (s.ctx.reg 2).toNat = 9 ∧
    Descriptor (popped 0 s) (.emit 0 5 1 2) (s.ctx.reg 1) s1 h g ∧ 9 < s1.cfgLE (vocOff (field s1 g 0 1 % 8)) 4 ∧
    field s1 g 1 1 = 0 ∧ 9 ≠ s1.cfgLE (vocOff (field s1 g 0 1 % 8) + 4) 4 ∧
    s1.textFree g < 3 * ((s1.tokenBytes (field s1 g 0 1 % 8) 9).length + 3) :=
  ⟨emitFull, popped 0 emitFull, hub0, 0x20000, ⟨⟨rfl, rfl, rfl⟩, rfl, rfl, rfl⟩, rfl,
    descriptor_serving (by decide +kernel) (by decide +kernel) (by decide +kernel) rfl (by decide +kernel), by decide +kernel,
    by decide +kernel, by decide +kernel, by decide +kernel⟩

/-- At a descriptor whose call is being captured, with every future entry taken. -/
def emitTaken : State :=
  { serving 1 0 0x20000 9 with futures := everywhere { Future.reset with state := .pending } 1 65535 }

theorem test_EmitWord_taken : ∃ (s s1 : State) (h : Hub) (g : Nat), CanSerialise 0 [1, 2] s ∧ (s.ctx.reg 2).toNat = 9 ∧
    Descriptor (popped 0 s) (.emit 0 5 1 2) (s.ctx.reg 1) s1 h g ∧ 9 < s1.cfgLE (vocOff (field s1 g 0 1 % 8)) 4 ∧
    field s1 g 1 1 = 1 ∧ 9 = s1.cfgLE (vocOff (field s1 g 0 1 % 8) + 8) 4 ∧
    ∀ f : Fin 65536, f ≠ 0 → (mgetD s1.futures f.val Future.reset).state ≠ .free := by
  refine ⟨emitTaken, popped 0 emitTaken, hub0, 0x20000, ⟨⟨rfl, rfl, rfl⟩, rfl, rfl, rfl⟩, rfl,
    descriptor_serving (by decide +kernel) (by decide +kernel) (by decide +kernel) rfl (by decide +kernel), by decide +kernel,
    by decide +kernel, by decide +kernel, ?_⟩
  intro f hf
  have h0 : f.val ≠ 0 := fun e => hf (Fin.ext e)
  have := mget_everywhere ({ Future.reset with state := .pending } : Future) 65535 1 (f.val - 1) (by omega)
  rw [show 1 + (f.val - 1) = f.val from by omega] at this
  change (mgetD (everywhere _ 1 65535) f.val Future.reset).state ≠ _
  simp [mgetD, this]

/-- A call in progress with its future. -/
def waiting (e : Future) : State := { serving 2 1 0x20000 0 with futures := [(1, e)] }

theorem test_FutureWait_pending : ∃ (s s1 : State) (h : Hub) (g f : Nat) (e : Future), CanIssue 0 s ∧ Settled [1] s ∧
    (popped 0 s).mayRetire = true ∧ Descriptor (popped 0 s) (.fwait 0 1) (s.ctx.reg 1) s1 h g ∧
    field s1 g 104 2 = f ∧ f ≠ 0 ∧ field s1 g 1 1 = 2 ∧ mgetD s1.futures f Future.reset = e ∧ e.parked = none ∧
    e.state = .pending :=
  ⟨waiting { Future.reset with state := .pending }, popped 0 (waiting { Future.reset with state := .pending }), hub0, 0x20000, 1,
    _, ⟨rfl, rfl, rfl⟩, rfl, rfl,
    descriptor_serving (by decide +kernel) (by decide +kernel) (by decide +kernel) rfl (by decide +kernel), by decide +kernel,
    by decide, by decide +kernel, rfl, rfl, rfl⟩

theorem test_FutureWait_done : ∃ (s s1 : State) (h : Hub) (g f : Nat) (e : Future), CanIssue 0 s ∧ Settled [1] s ∧
    (popped 0 s).mayRetire = true ∧ Descriptor (popped 0 s) (.fwait 0 1) (s.ctx.reg 1) s1 h g ∧
    field s1 g 104 2 = f ∧ f ≠ 0 ∧ field s1 g 1 1 = 2 ∧ mgetD s1.futures f Future.reset = e ∧ e.parked = none ∧
    e.state = .done :=
  ⟨waiting { Future.reset with state := .done }, popped 0 (waiting { Future.reset with state := .done }), hub0, 0x20000, 1,
    _, ⟨rfl, rfl, rfl⟩, rfl, rfl,
    descriptor_serving (by decide +kernel) (by decide +kernel) (by decide +kernel) rfl (by decide +kernel), by decide +kernel,
    by decide, by decide +kernel, rfl, rfl, rfl⟩

/-! ### The prefix index -/

/-- A request of 16 tokens, of zeros at address 0, whose one block is at address 0. -/
def request : State := let s := serving 0 0 0x30000 0; { s with mem := s.mem.writeLE 0x30008 4 16 }

theorem px_of {s : State} {i : Instr} {va : Word} {limit : Nat} {uses : Bool} {h : Hub} {bs : List Byte} {r : PxReq}
    (h1 : precheck s.core va 32 8 .none 0 = none) (h2 : s.hubOf s.ctx.env [s.key] = some h)
    (h3 : s.hubRead h va 32 = ((s.hubRead h va 32).1, .ok bs))
    (hr : r = ⟨BitVec.ofNat 64 (leNat ((bs.drop 0).take 8)), leNat ((bs.drop 8).take 4), leNat ((bs.drop 12).take 1) % 8,
      BitVec.ofNat 64 (leNat ((bs.drop 16).take 8))⟩)
    (h4 : ¬ (limit < r.n ∨ leNat ((bs.drop 13).take 3) ≠ 0 ∨ leNat ((bs.drop 24).take 8) ≠ 0 ∨
      (uses = true ∧ (8 ≤ leNat ((bs.drop 12).take 1) ∨ (s.hubRead h va 32).1.resident r.slot = false))))
    (h5 : ¬ (uses = true ∧ r.toks.toNat % 4 ≠ 0)) (h6 : r.arr.toNat % 8 = 0) :
    PxRequest s i va limit uses (s.hubRead h va 32).1 h r := by
  intro k
  subst hr
  simp only [State.onPx, h1, State.onHub, h2, Eng.body]
  rw [h3]
  simp only [List.drop_zero] at h4 h5 h6 ⊢
  rw [if_neg h4, if_neg h5, if_neg (by simpa using h6)]

/-- What a unit's work gives. -/
def valOf {α : Type} (x : State × Eng α) : Option α :=
  match x.2 with
  | .ok v => some v
  | _ => none

theorem eq_of_val {α : Type} {x : State × Eng α} {v : α} (h : valOf x = some v) : x = (x.1, .ok v) := by
  obtain ⟨s, w | t | _⟩ := x
  · cases h; rfl
  · cases h
  · cases h

/-- The package after the request has been read. -/
def requested : State := ((popped 0 request).hubRead hub0 0x30000 32).1

/-- What the request names. -/
def px16 : PxReq := ⟨0, 16, 0, 0⟩

theorem px_requested {i : Instr} {limit : Nat} {uses : Bool} (h : 16 ≤ limit) :
    PxRequest (popped 0 request) i 0x30000 limit uses requested hub0 px16 := by
  refine px_of (bs := List.replicate 8 0 ++ 16 :: List.replicate 23 0) (by decide +kernel) (by decide +kernel)
    (eq_of_val (by decide +kernel)) (by decide +kernel) ?_ (by simp [px16]) (by decide)
  have h1 : ((popped 0 request).hubRead hub0 0x30000 32).1.resident px16.slot = true := by decide +kernel
  rw [h1]
  simp [px16]
  exact ⟨h, by decide, by decide, fun _ => by decide⟩

theorem can_request : CanSerialise 0 [1] request := ⟨⟨rfl, rfl, rfl⟩, rfl, rfl, rfl⟩

theorem test_PrefixWords_look : ∃ (s s1 s2 s3 : State) (h : Hub) (r : PxReq) (ms : List (Nat × Nat)), CanSerialise 0 [1] s ∧
    PxRequest (popped 0 s) (.pxlook 0 5 1) (s.ctx.reg 1) (2 ^ 20) true s1 h r ∧
    State.pxScan h r (r.n / 16) s1 0 (s1.seed r.slot) [] = (s2, .ok ms) ∧
    s2.hubPuts h (ms.mapIdx fun j (m : Nat × Nat) => spread (r.arr + BitVec.ofNat 64 (8 * j))
      (leBytes (mgetD s2.index m.1 Prefix.reset).block.toNat 8)).flatten = (s3, .ok ()) :=
  ⟨request, requested, _, _, hub0, px16, [], can_request, px_requested (by decide), eq_of_val (by decide +kernel), rfl⟩

/-- The blocks of the request. -/
def theBlocks : List (Nat × Word × Word × List (BitVec 32)) :=
  (valOf (State.pxBlocks hub0 px16 (px16.n / 16) requested 0 (requested.seed px16.slot) [])).bind id |>.getD []

theorem blocks_ok : State.pxBlocks hub0 px16 (px16.n / 16) requested 0 (requested.seed px16.slot) [] =
    ((State.pxBlocks hub0 px16 (px16.n / 16) requested 0 (requested.seed px16.slot) []).1, .ok (some theBlocks)) := by
  have h : (valOf (State.pxBlocks hub0 px16 (px16.n / 16) requested 0 (requested.seed px16.slot) [])).bind id |>.isSome := by
    decide +kernel
  unfold theBlocks
  generalize State.pxBlocks hub0 px16 (px16.n / 16) requested 0 (requested.seed px16.slot) [] = x at h ⊢
  obtain ⟨s, (_ | v) | t | _⟩ := x
  · cases h
  · rfl
  · cases h
  · cases h

theorem test_PrefixWords_insert : ∃ (s s1 s2 t : State) (h : Hub) (r : PxReq) (bs : List (Nat × Word × Word × List (BitVec 32)))
    (n : Nat), CanSerialise 0 [1] s ∧ PxRequest (popped 0 s) (.pxins 0 5 1) (s.ctx.reg 1) (2 ^ 20) true s1 h r ∧
    State.pxBlocks h r (r.n / 16) s1 0 (s1.seed r.slot) [] = (s2, .ok (some bs)) ∧
    State.pxInsert h r.slot (s2.stamp + 1) bs { s2 with stamp := s2.stamp + 1 } 0 = (t, .ok n) := by
  have h1 : okB (State.pxInsert hub0 px16.slot ((State.pxBlocks hub0 px16 (px16.n / 16) requested 0 (requested.seed px16.slot) []).1.stamp + 1)
      theBlocks { (State.pxBlocks hub0 px16 (px16.n / 16) requested 0 (requested.seed px16.slot) []).1 with
        stamp := (State.pxBlocks hub0 px16 (px16.n / 16) requested 0 (requested.seed px16.slot) []).1.stamp + 1 } 0) = true := by
    decide +kernel
  obtain ⟨n, hn⟩ := ok_of h1
  exact ⟨request, requested, _, _, hub0, px16, theBlocks, n, can_request, px_requested (by decide), blocks_ok, hn⟩

theorem test_PrefixWords_release : ∃ (s s1 s2 : State) (h : Hub) (r : PxReq) (ms : List (Nat × Nat)), CanSerialise 0 [1] s ∧
    PxRequest (popped 0 s) (.pxrel 0 5 1) (s.ctx.reg 1) 64 false s1 h r ∧
    State.pxNamed h r.arr r.n s1 0 [] = (s2, .ok ms) :=
  ⟨request, requested, _, hub0, px16, [], can_request, px_requested (by decide), eq_of_val (by decide +kernel)⟩

/-! ### Other words of S -/

theorem test_OtherMemoryWords_clear : ∃ (o : BitVec 9) (s : State) (core off : Nat), CanIssue 0 s ∧ LsOpen .sc s ∧
    Settled [1, 2] s ∧ precheck (s.key / 4) (scaled s 1 8 o) (Nat.max 1 (s.ctx.reg 2).toNat) 1 .spadOnly 0 = none ∧
    placeOf (s.key / 4) (scaled s 1 8 o).toNat = .spad core off ∧ off + (s.ctx.reg 2).toNat ≤ 2 ^ 19 :=
  ⟨0, s12Hold ownWin 0x80000, 0, 0, ⟨rfl, rfl, rfl⟩, ⟨rfl, by decide⟩, rfl, by decide +kernel, by decide +kernel, by decide +kernel⟩

theorem test_OtherMemoryWords_ship : ∃ (s : State) (acc : Acc), CanIssue 0 s ∧ LsOpen .lc s ∧ Settled [1, 2, 5] s ∧
    s.chkS (s.ctx.reg 1) 8 8 .write .none 0 = .ok acc ∧ isHbm acc.loc = true :=
  ⟨s12Hold 0x10000 0, _, ⟨rfl, rfl, rfl⟩, ⟨rfl, by decide⟩, rfl, rfl, by decide +kernel⟩

theorem test_OtherMemoryWords_no_cellar : ∃ (s : State) (acc : Acc), CanIssue 0 s ∧ LsOpen .lc s ∧ Settled [1, 2, 5] s ∧
    s.chkS (s.ctx.reg 1) 8 8 .write .none 0 = .ok acc ∧ isHbm acc.loc = false :=
  ⟨{ s12Hold 0x10000 0 with cores := [(0, { Core.reset with run := some 0, tlb := [{ tableTlb with pa := 0x10000000000 }] })] }, _,
    ⟨rfl, rfl, rfl⟩, ⟨rfl, by decide⟩, rfl, rfl, by decide +kernel⟩

theorem test_OtherMemoryWords_cache_range : ∃ (o : BitVec 12) (s : State) (va : Word), CanIssue 0 s ∧ LsOpen .sc s ∧ Settled [1] s ∧
    va = BitVec.ofInt 64 ((s.ctx.reg 1).toInt + o.toInt) ∧ 2 ^ 57 ≤ va.toNat :=
  ⟨1, s1Holds 0x1FFFFFFFFFFFFFF, 0x200000000000000, ⟨rfl, rfl, rfl⟩, ⟨rfl, by decide⟩, rfl, by decide +kernel, by decide⟩

theorem test_OtherMemoryWords_cache_window : ∃ (o : BitVec 12) (s : State) (va : Word), CanIssue 0 s ∧ LsOpen .sc s ∧
    Settled [1] s ∧
    va = BitVec.ofInt 64 ((s.ctx.reg 1).toInt + o.toInt) ∧ winBase ≤ va.toNat ∧ va.toNat < 2 ^ 57 :=
  ⟨0, s1Holds 0x1FFFFFFFFFFFFFF, 0x1FFFFFFFFFFFFFF, ⟨rfl, rfl, rfl⟩, ⟨rfl, by decide⟩, rfl, by decide +kernel, by decide, by decide⟩

theorem test_OtherMemoryWords_cache : ∃ (o : BitVec 12) (s : State) (va : Word), CanIssue 0 s ∧ LsOpen .sc s ∧ Settled [1] s ∧
    va = BitVec.ofInt 64 ((s.ctx.reg 1).toInt + o.toInt) ∧ va.toNat < winBase ∧ s.xlateS va.toNat .cache ≠ .miss :=
  ⟨0, s1Holds 0x10000, 0x10000, ⟨rfl, rfl, rfl⟩, ⟨rfl, by decide⟩, rfl, by decide +kernel, by decide, by decide +kernel⟩

theorem test_OtherMemoryWords_cache_walk : ∃ (o : BitVec 12) (s : State) (va : Word), CanIssue 0 s ∧ LsOpen .sc s ∧
    Settled [1] s ∧ va = BitVec.ofInt 64 ((s.ctx.reg 1).toInt + o.toInt) ∧ va.toNat < winBase ∧
    s.xlateS va.toNat .cache = .miss ∧
    ∀ b, (s.walk s.ctx.root.toNat s.ctx.asid.toNat va.toNat).use va.toNat .cache s.ctx.priv ≠ .fault 12 b :=
  ⟨0, s1Holds 0x90000, 0x90000, ⟨rfl, rfl, rfl⟩, ⟨rfl, by decide⟩, rfl, by decide +kernel, by decide, by decide +kernel,
    fun b => by cases b <;> decide +kernel⟩

theorem test_OtherMemoryWords_message : ∃ (s : State) (accs : List Acc), CanIssue 0 s ∧ LsOpen .sc s ∧ Settled [1, 2, 5] s ∧
    msgwBad (s.ctx.reg 5) (s.ctx.reg 2) = false ∧ accs.length = Nat.max 1 ((s.ctx.reg 5).toNat % 65536 / 16) ∧
    ∀ j : Fin accs.length, s.chkS (s.ctx.reg 1 + BitVec.ofNat 64 (16 * j)) 16 16 .read .spad 0 = .ok accs[j] :=
  ⟨on fun c => ((c.setReg 1 0x10000).setReg 2 0x7FFE0).setReg 5 32, [⟨0x10000, 0x10000, 16, 0, true⟩, ⟨0x10010, 0x10010, 16, 0,
    true⟩],
    ⟨rfl, rfl, rfl⟩, ⟨rfl, by decide⟩, rfl, by decide +kernel, by decide +kernel, by intro j; fin_cases j <;> rfl⟩

theorem test_OtherMemoryWords_message_bad : ∃ (s : State), CanIssue 0 s ∧
    ¬ ((s.ctx.reg 5).toNat % 65536 % 16 = 0 ∧ (s.ctx.reg 5).toNat % 65536 ≤ 32768 ∧ (s.ctx.reg 5).toNat < 2 ^ 32 ∧
      (s.ctx.reg 2).toNat % 2 ^ 19 % 16 = 0 ∧ (s.ctx.reg 2).toNat % 2 ^ 19 + (s.ctx.reg 5).toNat % 65536 ≤ 2 ^ 19 ∧
      (s.ctx.reg 2).toNat / 2 ^ 19 % 2 ^ 11 < numCores ∧ (s.ctx.reg 2).toNat < 2 ^ 36) :=
  ⟨on fun c => (c.setReg 2 0x7FFF0).setReg 5 32, ⟨rfl, rfl, rfl⟩, by decide +kernel⟩

theorem test_MarkerFence_none : ∃ (s : State) (l : BitVec 3), s.live = true ∧ s.ctx.marked = false ∧ CanIssue 0 s ∧ l = 0 :=
  ⟨base, 0, rfl, rfl, ⟨rfl, rfl, rfl⟩, rfl⟩

theorem test_MarkerFence_put : ∃ (s : State) (l : BitVec 3), s.live = true ∧ s.ctx.marked = false ∧ CanIssue 0 s ∧ l ≠ 0 ∧
    ∀ st ∈ markList l, taken s.ctx st < places st :=
  ⟨on fun c => { c with cq := List.replicate 7 (entryOf (.cset 0 1 2 3)) }, 7, rfl, rfl, ⟨rfl, rfl, rfl⟩, by decide, by decide⟩

theorem test_MarkerFence_full : ∃ (s : State) (l : BitVec 3), s.live = true ∧ s.ctx.marked = false ∧ CanIssue 0 s ∧
    (∃ st ∈ markList l, places st ≤ taken s.ctx st) ∧ s.rsendWait s.key = none :=
  ⟨on fun c => { c with cq := List.replicate 8 (entryOf (.cset 0 1 2 3)) }, 1, rfl, rfl, ⟨rfl, rfl, rfl⟩,
    ⟨.c, by decide, by decide⟩, rfl⟩

theorem test_MarkerFence_waits : ∃ (s : State) (l : BitVec 3), s.live = true ∧ s.ctx.marked = true ∧
    (∃ st ∈ markList l, s.ctx.markDone st = false) ∧ s.rsendWait s.key = none :=
  ⟨on fun c => { c with vq := [entryOf (.vcfg 0 0), blankEntry 0] }, 4, rfl, rfl, ⟨.v, by decide, by decide⟩, rfl⟩

theorem test_MarkerFence_done : ∃ (s : State) (l : BitVec 3), s.live = true ∧ s.ctx.marked = true ∧
    ∀ st ∈ markList l, s.ctx.markDone st = true :=
  ⟨on fun c => { c with vq := [blankEntry 0] }, 4, rfl, rfl, by decide⟩

theorem test_ReadControlRegister : ∃ (n : BitVec 8) (s : State) (v : Word), CanIssue 0 s ∧ csrValue s n.toNat = some v ∧
    (0x80 ≤ n.toNat → s.ctx.priv = true) ∧ s.ctx.early s.ctx.nextId (if n = 0 then [.fpsr] else if n = 1 then [.vt]
      else []) = none :=
  ⟨0x92, inHandler, _, ⟨rfl, rfl, rfl⟩, rfl, fun _ => rfl, rfl⟩

theorem test_ReadControlRegister_unknown : ∃ (n : BitVec 8) (s : State), CanIssue 0 s ∧ csrValue s n.toNat = none ∧
    (0x80 ≤ n.toNat → s.ctx.priv = true) := ⟨0x7F, base, ⟨rfl, rfl, rfl⟩, rfl, by decide⟩

theorem test_ReadControlRegister_privileged : ∃ (n : BitVec 8) (s : State), CanIssue 0 s ∧ 0x80 ≤ n.toNat ∧ s.ctx.priv = false :=
  ⟨0x80, base, ⟨rfl, rfl, rfl⟩, by decide, rfl⟩

theorem test_WriteControlRegister_plain : ∃ (n : BitVec 8) (s : State), CanIssue 0 s ∧ (n ≠ 0 → s.ctx.priv = true) ∧ Settled [1] s ∧
    plainCsr n.toNat = true := ⟨0x91, inHandler, ⟨rfl, rfl, rfl⟩, fun _ => rfl, rfl, rfl⟩

theorem test_WriteControlRegister_fpsr : ∃ (n : BitVec 8) (s : State), n = 0 ∧ CanIssue 0 s ∧ (n ≠ 0 → s.ctx.priv = true) ∧
    Settled [1] s ∧ plainCsr n.toNat = true := ⟨0, base, rfl, ⟨rfl, rfl, rfl⟩, by decide, rfl, rfl⟩

theorem test_WriteControlRegister_special : ∀ n ∈ [(0x10 : BitVec 8), 0x8E, 0x90, 0x92], ∃ s : State, CanIssue 0 s ∧
    (n ≠ 0 → s.ctx.priv = true) ∧ Settled [1] s := fun _ _ => ⟨inHandler, ⟨rfl, rfl, rfl⟩, fun _ => rfl, rfl⟩

theorem test_WriteControlRegister_traps : ∃ (s : State), CanIssue 0 s ∧ s.ctx.priv = false := ⟨base, ⟨rfl, rfl, rfl⟩, rfl⟩

theorem test_WriteControlRegister_read_only : ∃ (n : BitVec 8) (s : State), CanIssue 0 s ∧ 0x80 ≤ n.toNat ∧ s.ctx.priv = true ∧
    plainCsr n.toNat = false ∧ n ≠ 0x8E ∧ n ≠ 0x90 ∧ n ≠ 0x92 :=
  ⟨0x82, inHandler, ⟨rfl, rfl, rfl⟩, by decide, rfl, rfl, by decide, by decide, by decide⟩

theorem test_PrivilegedWords : ∃ (s : State) (a : SReg), CanIssue 0 s ∧ s.ctx.priv = true ∧ Settled [a] s ∧
    s.walking (· == s.key / 4) = false ∧ s.walking (inScope .pkg (s.key / 4)) = false :=
  ⟨inHandler, 1, ⟨rfl, rfl, rfl⟩, rfl, rfl, by decide +kernel, by decide +kernel⟩

theorem test_TrapWords : ∃ s, CanIssue 0 s := ⟨base, ⟨rfl, rfl, rfl⟩⟩

/-! ### Saving and restoring -/

/-- The pages at 0x10000 to 0x1FFFF translated onto themselves, privileged code, s1 at the first of them, the sectors of
the first five modified in the die. -/
def wide : State :=
  { on fun c => { c.setReg 1 0x10000 with priv := true, gran := 0 } with
    cores := [(0, { Core.reset with run := some 0, tlb := [{ tableTlb with size := 65536 }] })],
    dir := everywhere [.m, .i, .i, .i, .i, .i] 0x400 320 }

/-- The accesses of the five pages of an area without spill memory. -/
def areaAccs : List Acc := (List.range 5).map fun j => ⟨BitVec.ofNat 64 (0x10000 + 4096 * j), 0x10000 + 4096 * j, 4096, 0, true⟩

theorem can_wide : CanIssue 0 wide := ⟨rfl, rfl, rfl⟩

theorem test_ContextSaveRestore_save : ∃ (s t u s2 : State) (accs : List Acc) (c : Ctx), CanIssue 0 s ∧ s.ctx.priv = true ∧
    Settled [1] s ∧ s.ctx.ldaWait = false ∧ (popped 0 s).sQuiet = true ∧ ((popped 0 s).haltEngines s.key).ctx.mustFinish = false ∧
    accs.length = (0x5000 + 1024 * s.ctx.gran + 4095) / 4096 ∧
    (∀ j : Fin accs.length, s.chkS (s.ctx.reg 1 + BitVec.ofNat 64 (4096 * j)) 4096 4096 .write .none 0 = .ok accs[j]) ∧
    CanTouch (popped 0 s) true accs ∧ t = touched (popped 0 s) true accs ∧ u = t.haltEngines t.key ∧ c = u.ctx.record u.now ∧
    s2 = (u.areaWrite (accs.map (·.loc)) { c with priv := false, saved := false } false c.epc).bindArea
      (areaLoc (accs.map (·.loc)) 0) (c.toSaved (u.key / 4)) :=
  ⟨wide, _, _, _, areaAccs, _, can_wide, rfl, rfl, rfl, by decide +kernel, by decide +kernel, rfl, by decide +kernel,
    ⟨by decide +kernel, by decide +kernel⟩, rfl, rfl, rfl, rfl⟩

/-- The first page of the area as an access of S. -/
def area0 : Acc := ⟨0x10000, 0x10000, 4096, 0, true⟩

theorem test_ContextSaveRestore_bad : ∃ (s t : State) (h : Acc), CanIssue 0 s ∧ s.ctx.priv = true ∧ Settled [1] s ∧
    s.ctx.ldaWait = false ∧ (popped 0 s).ctx.drained = true ∧ (popped 0 s).ctx.lsQuiet = true ∧
    s.chkS (s.ctx.reg 1) 4096 4096 .write .none 0 = .ok h ∧ CanTouch (popped 0 s) true [h] ∧ t = touched (popped 0 s) true [h] ∧
    (t.areaValid [h.loc] && t.areaFits [h.loc] t.ctx) = false :=
  ⟨wide, _, area0, can_wide, rfl, rfl, rfl, rfl, rfl, by decide +kernel, ⟨by decide +kernel, by decide +kernel⟩, rfl,
    by decide +kernel⟩

/-- The same with the header of an area that fits the context. -/
def holding : State :=
  { wide with
    mem := ((wide.mem.writeLE 0x10000 4 0x46535631).writeLE 0x10004 4 0x10001).writeLE 0x10010 2 16 }

theorem ownAll_held {s : State} {h : Nat} {e : Bool} {l : List Nat} (H : ∀ x ∈ l, s.dirOf x h = .m) : s.ownAll h e l = s := by
  cases e with
  | false => rfl
  | true =>
    unfold State.ownAll
    rw [if_pos rfl]
    induction l with
    | nil => rfl
    | cons x l ih =>
      rw [List.foldl_cons, State.dirty, H x (by simp), if_neg (by decide)]
      exact ih fun y hy => H y (by simp [hy])

theorem holding_dir (x : Nat) (h1 : 0x400 ≤ x) (h2 : x < 0x400 + 320) : (popped 0 holding).dirOf x 0 = .m := by
  have h3 := mget_everywhere [Moesi.m, .i, .i, .i, .i, .i] 320 0x400 (x - 0x400) (by omega)
  rw [show 0x400 + (x - 0x400) = x from by omega] at h3
  have h4 : (popped 0 holding).dirAt x = [Moesi.m, .i, .i, .i, .i, .i] := by
    change (mget _ x).getD _ = _
    rw [show mget (popped 0 holding).dir x = some [Moesi.m, .i, .i, .i, .i, .i] from h3]
    rfl
  rw [State.dirOf, h4]
  rfl

theorem holding_has {e : Bool} (x : Nat) (h1 : 0x400 ≤ x) (h2 : x < 0x400 + 320) : (popped 0 holding).holds x 0 e = true := by
  rw [State.holds, holding_dir x h1 h2]

theorem area_sectors : ∀ x ∈ sectorsOf areaAccs, 0x400 ≤ x ∧ x < 0x400 + 320 := by
  intro x hx
  simp only [sectorsOf, areaAccs, List.mem_flatMap, List.mem_filter, List.mem_map, List.mem_range] at hx
  obtain ⟨a, ⟨⟨j, hj, rfl⟩, -⟩, i, hi, rfl⟩ := hx
  simp only at hi ⊢
  omega

theorem area0_sectors : ∀ x ∈ sectorsOf [area0], 0x400 ≤ x ∧ x < 0x400 + 320 := by
  decide

theorem holding_touched {e : Bool} {l : List Acc} (H : ∀ x ∈ sectorsOf l, 0x400 ≤ x ∧ x < 0x400 + 320) :
    touched (popped 0 holding) e l = popped 0 holding :=
  ownAll_held fun x hx => holding_dir x (H x hx).1 (H x hx).2

theorem holding_can {e : Bool} {l : List Acc} (H : ∀ x ∈ sectorsOf l, 0x400 ≤ x ∧ x < 0x400 + 320)
    (H2 : ∀ a ∈ l, (popped 0 holding).genOk a = true) : CanTouch (popped 0 holding) e l := by
  refine ⟨H2, ?_⟩
  rw [State.blocked, List.any_eq_false]
  intro x hx
  rw [show (popped 0 holding).holds x (dieOf ((popped 0 holding).key / 4)) e = true from holding_has x (H x hx).1 (H x hx).2]
  simp

theorem test_ContextSaveRestore_restore : ∃ (s t u v : State) (h : Acc) (accs : List Acc) (pages : List Nat), CanIssue 0 s ∧
    s.ctx.priv = true ∧ Settled [1] s ∧ s.ctx.ldaWait = false ∧ (popped 0 s).ctx.drained = true ∧
    (popped 0 s).ctx.lsQuiet = true ∧ s.chkS (s.ctx.reg 1) 4096 4096 .write .none 0 = .ok h ∧ CanTouch (popped 0 s) true [h] ∧
    t = touched (popped 0 s) true [h] ∧ (t.areaValid [h.loc] && t.areaFits [h.loc] t.ctx) = true ∧
    accs.length = (0x5000 + 1024 * t.ctx.gran + 4095) / 4096 ∧ pages = accs.map (·.loc) ∧
    (∀ j : Fin accs.length, t.chkS (s.ctx.reg 1 + BitVec.ofNat 64 (4096 * j)) 4096 4096 .read .none 0 = .ok accs[j]) ∧
    CanTouch t false accs ∧ u = touched t false accs ∧ u.bad = [] ∧ u.areaHeldOut pages = false ∧ v = u.restoreInto pages :=
  ⟨holding, popped 0 holding, popped 0 holding, _, area0, areaAccs, _, ⟨rfl, rfl, rfl⟩, rfl, rfl, rfl, rfl, rfl, by decide +kernel,
    holding_can area0_sectors (by decide +kernel), (holding_touched area0_sectors).symm, by decide +kernel, by decide +kernel, rfl,
    by decide +kernel, holding_can area_sectors (by decide +kernel), (holding_touched area_sectors).symm, rfl, by decide +kernel,
    rfl⟩

/-! ### Engines and copies -/

/-- A command of the context in service at engine 0, with the operands and setup given. -/
def serviced (e : QEntry) : State :=
  { base with turn := .engine 0, engines := [(0, { Engine.reset with serving := some 0 })], ctx := { base.ctx with min := [e] } }

/-- A command's entry. -/
def command (i : Instr) (x y : Word) (setup : List Word) : QEntry := { entryOf i with x := x, y := y, setup := setup }

theorem test_MatrixPortWorks_alloc : ∃ (s : State) (en k b0 : Nat) (c : Ctx) (e : QEntry), s.turn = .engine en ∧
    s.served en = some (k, c, e) ∧ e.word = some (.mballoc 0 1 2 3) ∧ lowestRun (s.engine en) e.y.toNat b0 :=
  ⟨serviced (command (.mballoc 0 1 2 3) 0 256 []), 0, 0, 0, _, _, rfl, rfl, rfl, by decide, fun _ _ => rfl,
    fun b h => absurd h (Nat.not_lt_zero b)⟩

theorem test_MatrixPortWorks_none : ∃ (s : State) (en k : Nat) (c : Ctx) (e : QEntry), s.turn = .engine en ∧
    s.served en = some (k, c, e) ∧ e.word = some (.mballoc 0 1 2 3) ∧ ∀ b0, ¬ lowestRun (s.engine en) e.y.toNat b0 :=
  ⟨serviced (command (.mballoc 0 1 2 3) 0 257 []), 0, 0, _, _, rfl, rfl, rfl, fun b h => by
    have h1 : b + 257 ≤ 256 := h.1
    omega⟩

/-- One chunk of one element from `x` and `y`. -/
def chunk (x : Word) : QEntry := command (.mmac 0 1 2 3) x 0x10000 [0x200101]

theorem test_MatrixPortWorks_runs : ∃ (s : State) (en k n : Nat) (c : Ctx) (e : QEntry), s.turn = .engine en ∧
    s.served en = some (k, c, e) ∧ n = e.prog.toNat :=
  ⟨serviced (chunk 0x10000), 0, 0, 0, _, _, rfl, rfl, rfl⟩

theorem test_MatrixPortWorks_fill : ∃ (s : State) (u : Issuer) (en k : Nat) (c : Ctx) (e : QEntry), s.turn = .engine en ∧
    s.served en = some (k, c, e) ∧ u = { k := k, id := e.id, priv := e.priv, handle := e.ms 6 % 4096, view := accType e.mAcc } :=
  ⟨serviced (command (.mfill 0 1 2 3) 0x10000 0 [0x101]), _, 0, 0, _, _, rfl, rfl, rfl⟩

theorem test_MatrixPortWorks_mstat : ∃ (s : State) (e : QEntry), s.turn = .start .m ∧ s.ctx.mact = some e :=
  ⟨{ base with turn := .start .m, ctx := { base.ctx with mact := some (entryOf (.mstat 0 5)) } }, _, rfl, rfl⟩

theorem test_MatrixChunkAccumulates : ∃ (s t : State) (u : Issuer) (e : QEntry) (va vb : List (List Val)), e.shapeOk = true ∧
    s.bad = [] ∧ s.mem.wf = true ∧ s.mmacAdd u 0 e va vb = t :=
  ⟨base, _, { k := 0, id := 0, priv := false }, command (.mmac 0 1 2 3) 0 0 [0x208080], [], [], by decide +kernel, rfl,
    by decide +kernel, rfl⟩

/-- A copy command at C of core 0. -/
def atC (e : QEntry) : State := { base with turn := .start .c, ctx := { base.ctx with cact := some e } }

/-- The command with its core's bank formats. -/
def started (e : QEntry) : QEntry := { e with setup := e.setup.take 8 ++ (List.range 16).map fun _ => 0xF }

theorem started_atC (e : QEntry) : started e = { e with
    setup := e.setup.take 8 ++ (List.range 16).map fun b => mgetD (atC e).fmts (16 * ((atC e).key / 4) + b) 0xF } := rfl

theorem test_CopyCommandsRun_bad : ∃ (s : State) (e0 e : QEntry), copyWordOf (.copy 0 1 2) = some false ∧ AtC s e0 ∧
    e = { e0 with setup := e0.setup.take 8 ++ (List.range 16).map fun b => mgetD s.fmts (16 * (s.key / 4) + b) 0xF } ∧
    e.copyBad false (s.key / 4) = true :=
  ⟨atC (command (.copy 0 1 2) ownWin ownWin [0x100000000, 0, 0, 0, 0, 0, 0, 0]), _, _, rfl, ⟨rfl, rfl⟩, started_atC _,
    by decide +kernel⟩

theorem test_CopyCommandsRun_misaligned : ∃ (s : State) (e0 e : QEntry) (va : Word), copyWordOf (.copy 0 1 2) = some false ∧
    AtC s e0 ∧
    e = { e0 with setup := e0.setup.take 8 ++ (List.range 16).map fun b => mgetD s.fmts (16 * (s.key / 4) + b) 0xF } ∧
    e.copyBad false (s.key / 4) = false ∧ e.copyMisaligned false (s.key / 4) = some va :=
  ⟨atC (command (.copy 0 1 2) ownWin ownWin [7, 1, 0, 0, 0, 0, 2, 0]), _, _, ownWin, rfl, ⟨rfl, rfl⟩, started_atC _,
    by decide +kernel,
    by decide +kernel⟩

/-- A copy of one row of 17 bytes within the core's scratchpad. -/
def copy17 : QEntry := command (.copy 0 1 2) ownWin (ownWin + 0x20) [17, 1, 0, 0, 0, 0, 0, 0]

theorem test_CopyCommandsRun_starts : ∃ (s : State) (e0 e : QEntry), copyWordOf (.copy 0 1 2) = some false ∧ AtC s e0 ∧
    e = { e0 with setup := e0.setup.take 8 ++ (List.range 16).map fun b => mgetD s.fmts (16 * (s.key / 4) + b) 0xF } ∧
    e.copyBad false (s.key / 4) = false ∧ e.copyMisaligned false (s.key / 4) = none :=
  ⟨atC copy17, _, _, rfl, ⟨rfl, rfl⟩, started_atC _, by decide +kernel, by decide +kernel⟩

theorem test_CopyCommandsRun_goes_on : ∃ (s : State) (e : QEntry), copyWordOf (.copy 0 1 2) = some false ∧ s.turn = .copy ∧
    s.ctx.cact = some e :=
  ⟨{ atC (started copy17) with turn := .copy }, _, rfl, rfl, rfl⟩

/-! ### The relay -/

/-- The same with a channel. -/
def withChannel (ch : Nat) (c : Channel) (s : State) : State := { s with channels := [(ch, c)] }

/-- An enabled channel from core 0 to core 768 with 8 slots of 16 bytes. -/
def outbound : Channel := { Channel.reset with d0 := 0x106180000 }

/-- An enabled channel from core 768 to core 0. -/
def inbound : Channel := { Channel.reset with d0 := 0x106000300, held := 8 }

/-- RSEND of 16 bytes on channel 0. -/
def send16 : QEntry := command (.rsend 0 1 2) ownWin 16 []

theorem test_RelayWordsRun_traps : ∃ (s : State) (e : QEntry) (t : Trap), AtC s e ∧
    s.rsendCheck (s.key / 4) (.rsend 0 1 2) e = some t :=
  ⟨atC send16, _, _, ⟨rfl, rfl⟩, rfl⟩

theorem test_RelayWordsRun_sends : ∃ (s : State) (e : QEntry) (c : Channel) (ch : Nat) (acc : Acc), AtC s e ∧
    s.rsendCheck (s.key / 4) (.rsend 0 1 2) e = none ∧ ch = chanOf (s.key / 4) (e.y.toNat / 2 ^ 56 % 256) true ∧
    s.channel ch = c ∧ 0 < c.permits ∧
    acc = ⟨0, spadLoc (s.key / 4) ((ownOff (s.key / 4) e.x).getD 0), e.y.toNat % 2 ^ 32, 0, false⟩ :=
  ⟨withChannel 32 { outbound with permits := 1 } (atC send16), _, { outbound with permits := 1 }, _, _, ⟨rfl, rfl⟩,
    by decide +kernel, rfl, by decide +kernel, by decide, rfl⟩

theorem test_RelayWordsRun_permits : ∃ (s : State) (e : QEntry) (c : Channel) (n : Nat), AtC s e ∧ e.x.toNat = n ∧
    s.channel (chanOf (s.key / 4) n false) = c ∧
    (n < 32 ∧ c.en = true ∧ c.receiverCore = s.key / 4 ∧ 1 ≤ e.y.toNat ∧ e.y.toNat ≤ 8 ∧ e.y.toNat ≤ c.held) :=
  ⟨withChannel 31 inbound (atC (command (.rpermit 0 1 2) 31 8 [])), _, inbound, 31, ⟨rfl, rfl⟩, rfl, by decide +kernel,
    by decide +kernel⟩

theorem test_RelayWordsRun_refused : ∃ (s : State) (e : QEntry) (c : Channel) (n : Nat), AtC s e ∧ e.x.toNat = n ∧
    s.channel (chanOf (s.key / 4) n false) = c ∧
    ¬ (n < 32 ∧ c.en = true ∧ c.receiverCore = s.key / 4 ∧ 1 ≤ e.y.toNat ∧ e.y.toNat ≤ 8 ∧ e.y.toNat ≤ c.held) :=
  ⟨withChannel 31 inbound (atC (command (.rpermit 0 1 2) 31 9 [])), _, inbound, 31, ⟨rfl, rfl⟩, rfl, by decide +kernel,
    by decide +kernel⟩

theorem test_RelayWordsRun_status_bad : ∃ (s : State) (e : QEntry), AtC s e ∧ (32 ≤ e.x.toNat ∨ 1 < e.y.toNat) :=
  ⟨atC (command (.rstat 0 1 2) 31 2 []), _, ⟨rfl, rfl⟩, by decide⟩

theorem test_RelayWordsRun_status : ∃ (s : State) (e : QEntry), AtC s e ∧ e.x.toNat < 32 ∧ e.y.toNat = 0 :=
  ⟨atC (command (.rstat 0 1 2) 31 0 []), _, ⟨rfl, rfl⟩, by decide, rfl⟩

theorem test_RelayWordsRun_status_in : ∃ (s : State) (e : QEntry) (c : Channel), AtC s e ∧ e.x.toNat < 32 ∧ e.y.toNat = 1 ∧
    s.channel (chanOf (s.key / 4) e.x.toNat false) = c ∧ c.receiverCore = s.key / 4 :=
  ⟨withChannel 31 inbound (atC (command (.rstat 0 1 2) 31 1 [])), _, inbound, ⟨rfl, rfl⟩, by decide, rfl, by decide +kernel,
    by decide +kernel⟩

theorem test_RelayWordsRun_status_other : ∃ (s : State) (e : QEntry), AtC s e ∧ e.x.toNat < 32 ∧ e.y.toNat = 1 ∧
    (s.channel (chanOf (s.key / 4) e.x.toNat false)).receiverCore ≠ s.key / 4 :=
  ⟨withChannel 31 outbound (atC (command (.rstat 0 1 2) 31 1 [])), _, ⟨rfl, rfl⟩, by decide, rfl, by decide +kernel⟩

end Sys2Proof.Tests
end

