-- ==== Sys2Proof/Tests/WitnessUnits.lean ====
section
/-! SUPPORT. Witnesses: states that meet the hypotheses of the statements about landings, engines, the relay, traps, threads,
and work from outside. -/

namespace Sys2Proof.Tests

set_option Elab.async false -- one theorem at a time, so that few threads wait on the kernel

open Sys2Proof Sys2Proof.Machine Sys2Proof.Safety

theorem unmirrored_base {s : State} (h : s.windows = []) (loc n : Nat) : Unmirrored s loc n := by
  intro w hw
  rw [h] at hw
  cases hw

/-! ### Starts, landings and stores -/

theorem some_val {α : Type} {x : Option α} (h : x.isSome = true) : ∃ c, x = some c := Option.isSome_iff_exists.1 h

/-- The context changed, a cycle later. -/
def later (f : Ctx → Ctx) : State := { on f with now := 1 }

theorem test_StationsStart_v : ∃ (k : Nat) (s : State) (c : Ctx) (e : QEntry) (rest : List QEntry) (i : Instr),
    HeadReady s k .v c e rest i ∧ isVsf i = true :=
  ⟨0, later fun c => { c with vq := [entryOf (.vexp2 0 1 2), entryOf (.vfadd 0 1 2 3)] }, _, _, _, _,
    ⟨rfl, rfl, rfl, by decide, rfl, rfl, rfl, by decide +kernel⟩, rfl⟩

theorem test_StationsStart_m : ∃ (k : Nat) (s : State) (c : Ctx) (e : QEntry) (rest : List QEntry) (i : Instr),
    HeadReady s k .m c e rest i ∧ portWord i = true :=
  ⟨0, later fun c => { c with mq := [entryOf (.mmac 0 1 2 3)] }, _, _, _, _,
    ⟨rfl, rfl, rfl, by decide, rfl, rfl, rfl, by decide +kernel⟩, rfl⟩

theorem test_StationsStart_c : ∃ (k : Nat) (s : State) (c : Ctx) (e : QEntry) (rest : List QEntry) (i : Instr),
    HeadReady s k .c c e rest i ∧ portWord i = false :=
  ⟨0, later fun c => { c with cq := [entryOf (.rsend 0 1 2)] }, _, _, _, _,
    ⟨rfl, rfl, rfl, by decide, rfl, rfl, rfl, by decide +kernel⟩, rfl⟩

/-- A package whose die 0 has modified the sector at 0x10000. -/
def ours (s : State) : State := { s with dir := [(0x400, [.m, .i, .i, .i, .i, .i])] }

/-- A context with one pending word, number 0. -/
def pending (p : Pend) : State := ours (on fun c => { c with pend := [p] })

/-- A load, atomic or result that is due. -/
def duePend (act : Act) (accs : List Acc) (ds : List Dst) (ws : List Wr) : Pend :=
  { Pend.mk0 0 .s 0 with due := some 0, act := act, accs := accs, dsts := ds, wr := ws }

theorem test_LandingsTakeEffect_waits : ∃ (s : State) (c : Ctx) (p : Pend), s.ctxAt 0 = some c ∧ c.pendOf 0 = some p ∧
    s.landable (0 / 4) c p = false := ⟨pending (Pend.mk0 0 .s 0), _, _, rfl, rfl, rfl⟩

theorem test_LandingsTakeEffect_value : ∃ (s : State) (c : Ctx) (p : Pend) (d : SReg) (v : Word), MayLand s 0 0 c p ∧
    p.act = .vals ∧ p.wr = [.s d v] ∧ p.accs = [] ∧ (d ≠ 0 → .s d ∈ p.dsts) :=
  ⟨pending (duePend .vals [] [.s 31] [.s 31 7]), _, _, 31, 7, ⟨rfl, rfl, rfl, by decide +kernel⟩, rfl, rfl, rfl, fun _ => by decide⟩

theorem test_LandingsTakeEffect_discarded : ∃ (s : State) (c : Ctx) (p : Pend) (v : Word), MayLand s 0 0 c p ∧
    p.act = .vals ∧ p.wr = [.s 0 v] ∧ p.accs = [] ∧ v ≠ 0 :=
  ⟨pending (duePend .vals [] [] [.s 0 7]), _, _, 7, ⟨rfl, rfl, rfl, by decide +kernel⟩, rfl, rfl, rfl, by decide⟩

theorem test_LandingsTakeEffect_load : ∃ (s : State) (c : Ctx) (p : Pend) (size : Nat) (sgn : Bool) (d : SReg) (a : Acc),
    MayLand s 0 0 c p ∧ p.act = .load size sgn d ∧ p.accs = [a] ∧ Passes s p.anew a ∧ s.bad = [] ∧ isFmtLoc a.loc = false ∧
    barOf a.loc = none ∧ p.dsts = (if d = 0 then [] else [.s d]) ∧ c.pendingBefore 0 (.s d) = false ∧ a.len = size ∧ p.flags = 0 :=
  ⟨pending (duePend (.load 1 true 5) [⟨0x10000, 0x10000, 1, 0, true⟩] [.s 5] []), _, _, 1, true, 5, _,
    ⟨rfl, rfl, rfl, by decide +kernel⟩, rfl, rfl, ⟨by decide +kernel, nofun⟩, rfl, by decide +kernel, by decide +kernel, rfl,
      by decide +kernel, rfl,
    rfl⟩

theorem test_LandingsTakeEffect_atomic : ∃ (s : State) (c : Ctx) (p : Pend) (op : AmoOp) (b x : Word) (d : SReg) (a : Acc),
    MayLand s 0 0 c p ∧ p.act = .amo op b x d ∧ p.accs = [a] ∧ Passes s p.anew a ∧ s.bad = [] ∧ Unmirrored s a.loc 8 ∧
    isFmtLoc a.loc = false ∧ reserved a.loc = false ∧ barOf a.loc = none ∧ a.len = 8 ∧ p.dsts = (if d = 0 then [] else [.s d]) ∧
      c.pendingBefore 0 (.s d) = false ∧ p.flags = 0 :=
  ⟨pending (duePend (.amo .cas 1 2 5) [⟨0x10000, 0x10000, 8, 0, true⟩] [.s 5] []), _, _, .cas, 1, 2, 5, _,
    ⟨rfl, rfl, rfl, by decide +kernel⟩, rfl, rfl, ⟨by decide +kernel, nofun⟩, rfl, unmirrored_base rfl _ _, by decide +kernel,
    by decide +kernel, by decide +kernel, rfl, rfl, by decide +kernel, rfl⟩

/-- A context with one store, number 0. -/
def storing (p : PStore) : State := ours (on fun c => { c with stores := [p], sc := 1 })

/-- A store that is due. -/
def dueStore (kind : StKind) (parts : List StPart) : PStore :=
  { id := 0, st := .s, pc := 0, word := none, x := 0, due := some 0, parts := parts, kind := kind, push := [], rel := false,
    late := false, anew := false }

theorem test_StoresTakeEffect_plain : ∃ (s : State) (c : Ctx) (p : PStore) (a : Acc) (m v : Word), MayStore s 0 0 c p ∧
    p.kind = .plain ∧ p.parts = [⟨a, m, v⟩] ∧ Passes s p.anew a ∧ Unmirrored s a.loc a.len ∧ isFmtLoc a.loc = false ∧
      reserved a.loc = false ∧
    barOf a.loc = none :=
  ⟨storing (dueStore .plain [⟨⟨0x10000, 0x10000, 8, 0, true⟩, 0xFF, 5⟩]), _, _, _, _, _, ⟨rfl, by rfl⟩, rfl, rfl,
    ⟨by decide +kernel, fun h => absurd h (by decide)⟩, unmirrored_base rfl _ _, by decide +kernel, by decide +kernel,
      by decide +kernel⟩

theorem test_StoresTakeEffect_message : ∃ (s : State) (c : Ctx) (p : PStore) (core off len entry incr : Nat) (accs : List Acc),
    MayStore s 0 0 c p ∧ p.kind = .msgw core off len entry incr ∧ p.parts.map (·.acc) = accs ∧ (∀ a ∈ accs, Passes s p.anew a) ∧
    s.bad = [] ∧ Unmirrored s (spadLoc core off) len ∧ accs.length = len / 16 ∧ off + len ≤ 2 ^ 19 ∧ core < numCores ∧
      off % 16 = 0 ∧ s.arrivals = [] :=
  ⟨storing (dueStore (.msgw 1279 0x7FFF0 16 63 1) [⟨⟨0x10000, 0x10000, 16, 0, true⟩, 0, 0⟩]), _, _, 1279, 0x7FFF0, 16, 63, 1, _,
    ⟨rfl, by rfl⟩, rfl, rfl, fun a h => ⟨by
      revert a h
      decide +kernel, fun h => absurd h (by decide)⟩, rfl, unmirrored_base rfl _ _, rfl, by decide, by decide, by decide, rfl⟩

/-- A shipment of routine 127 to the sector at 0x10000. -/
def shipping (ws : List IWord) : State :=
  { pending (duePend (.fsh 127 1 2 5 none) [⟨0x10000, 0x10000, 8, 0, true⟩] [.s 5] []) with
    cellars := if ws = [] then [] else [(127, ws)] }

theorem test_StoresTakeEffect_no_routine : ∃ (s : State) (c : Ctx) (p : Pend) (n : BitVec 7) (x y : Word) (d : SReg) (a : Acc),
    s.ctxAt 0 = some c ∧ c.pendOf 0 = some p ∧ p.id = 0 ∧ p.act = .fsh n x y d none ∧ p.accs = [a] ∧
      mgetD s.cellars n.toNat [] = [] :=
  ⟨shipping [], _, _, 127, 1, 2, 5, _, rfl, rfl, rfl, rfl, rfl, rfl⟩

/-- The routine `add s2, s2, s3; sd s2, 0(s0)`. -/
def addStore : List IWord := (encode (.add 0 2 2 3)).toList ++ (encode (.sd 0 2 0 0)).toList

theorem test_StoresTakeEffect_shipped : ∃ (s s1 : State) (c : Ctx) (p : Pend) (n : BitVec 7) (x y v : Word) (d : SReg) (a : Acc),
    s.ctxAt 0 = some c ∧ c.pendOf 0 = some p ∧ p.id = 0 ∧ p.act = .fsh n x y d none ∧ p.accs = [a] ∧
    mgetD s.cellars n.toNat [] ≠ [] ∧ isHbm a.loc = true ∧ Passes s p.anew a ∧ s.bad = [] ∧
    (s.takeSector (a.loc / 64)).cellarRun n a.loc x y = (s1, v) ∧ s1.ctxAt 0 = some c :=
  ⟨shipping addStore, _, _, _, 127, 1, 2, _, 5, _, rfl, rfl, rfl, rfl, rfl, by decide +kernel, by decide +kernel,
    ⟨by decide +kernel, nofun⟩, rfl, rfl, by decide +kernel⟩

/-- A routine that ends, and one whose first store is misaligned. -/
theorem test_StoresTakeEffect_routine : (∃ z, addStore ≠ [] ∧ cellRun addStore 0 (cellEntry 0 1 2 (List.replicate 64 0)) = some z) ∧
    cellRun ((encode (.sd 0 2 1 0)).toList) 0 (cellEntry 4 1 2 (List.replicate 64 0)) = none ∧
    decode ((encode (.add 0 2 2 3)).getD 0) = some (.add 0 2 2 3) ∧ decode ((encode (.beq 0 1 2 1)).getD 0) = some (.beq 0 1 2 1) ∧
    decode ((encode (.ld 0 2 0 7)).getD 0) = some (.ld 0 2 0 7) ∧ decode ((encode (.sd 0 2 0 7)).getD 0) = some (.sd 0 2 0 7) :=
  ⟨⟨_, by decide +kernel,
    some_val (x := cellRun addStore 0 (cellEntry 0 1 2 (List.replicate 64 0))) (by decide +kernel) |>.choose_spec⟩,
    by decide +kernel, by decide +kernel, by decide +kernel, by decide +kernel, by decide +kernel⟩

/-! ### Units -/

theorem test_EnginesServe_accepts : ∃ (s : State) (c : Ctx) (e : QEntry) (en : Nat), s.ctxAt 0 = some c ∧ c.mact = some e ∧
    e.cap.toNat / 2 ^ 40 % 2 ^ 12 = en ∧ e.cap.toNat / 2 ^ 52 % 16 = 1 ∧ en < 160 :=
  let e := { entryOf (.mmac 0 1 2 3) with cap := 0x109F0000000000 }
  ⟨on fun c => { c with mact := some e }, _, e, 159, rfl, rfl, by decide, by decide, by decide⟩

theorem test_EnginesServe_names_none : ∃ (s : State) (c : Ctx) (e : QEntry) (en : Nat), s.ctxAt 0 = some c ∧ c.mact = some e ∧
    e.cap.toNat / 2 ^ 40 % 2 ^ 12 = en ∧ (e.cap.toNat / 2 ^ 52 % 16 ≠ 1 ∨ 160 ≤ en) :=
  let e := { entryOf (.mmac 0 1 2 3) with cap := 0x10A00000000000 }
  ⟨on fun c => { c with mact := some e }, _, e, 160, rfl, rfl, by decide, by decide⟩

/-- A command at engine 0 that the engine may pick. -/
def atEngine (e : QEntry) : State :=
  { on fun c => { c with min := [e], pend := [{ Pend.mk0 0 .m 0 with ctr := some .tc }], tc := 1 } with
    now := 1, engines := [(0, { Engine.reset with rot := [1], serving := none })] }

theorem test_EnginesServe_serves : ∃ (s : State) (c : Ctx) (e : QEntry) (i : Instr), s.ctxAt 0 = some c ∧
    s.matPick 0 = some (0, e) ∧ e.word = some i ∧ (e.begun = true ∨ s.matCode 0 c e i = 0) :=
  ⟨atEngine { entryOf (.mmac 0 1 2 3) with begun := true, cap := 0x10000000000000 }, _, _, _, rfl, rfl, rfl, .inl rfl⟩

theorem test_EnginesServe_refuses : ∃ (s : State) (c : Ctx) (e : QEntry) (i : Instr), s.ctxAt 0 = some c ∧
    s.matPick 0 = some (0, e) ∧ e.word = some i ∧ e.begun = false ∧ s.matCode 0 c e i ≠ 0 :=
  ⟨{ atEngine { entryOf (.mmac 0 1 2 3) with cap := 0x10000000000000 } with retiredEngines := [0] }, _, _, _, rfl, rfl, rfl, rfl,
    by decide +kernel⟩

theorem test_EnginesServe_ends : ∃ (s : State) (c : Ctx) (e : QEntry) (p : Pend), s.served 0 = some (0, c, e) ∧
    c.pendOf e.id = some p ∧ p.wr = [] ∧ p.flags = 0 ∧ p.st = .m :=
  ⟨{ atEngine (entryOf (.mmac 0 1 2 3)) with engines := [(0, { Engine.reset with serving := some 0 })] }, _, _, _, rfl, rfl, rfl,
    rfl, rfl⟩

/-- A package whose engine 0 has an MBALLOC whose result, for s31, stands. -/
def allocated : State :=
  { atEngine (entryOf (.mballoc 0 31 2 3)) with
    engines := [(0, { Engine.reset with serving := some 0 })],
    ctx := { (atEngine (entryOf (.mballoc 0 31 2 3))).ctx with
      pend := [{ Pend.mk0 0 .m 0 with ctr := some .tc, dsts := [.s 31], wr := [.s 31 7] }] } }

theorem test_EnginesServe_ends_with_result : ∃ (s : State) (c : Ctx) (e : QEntry) (p : Pend) (d : SReg) (v : Word),
    s.served 0 = some (0, c, e) ∧ c.pendOf e.id = some p ∧ p.wr = [.s d v] ∧ p.flags = 0 ∧ p.st = .m ∧
    (d ≠ 0 → .s d ∈ p.dsts) ∧ c.pendingBefore e.id (.s d) = false :=
  ⟨allocated, _, _, _, 31, 7, rfl, rfl, rfl, rfl, rfl, fun _ => by decide, by decide +kernel⟩

theorem test_EnginesServe_copied : ∃ (s : State) (c : Ctx) (e : QEntry), s.ctxAt 0 = some c ∧ c.cact = some e ∧ e.cKind ≠ 2 :=
  ⟨atC copy17, _, _, rfl, rfl, by decide +kernel⟩

theorem test_EnginesServe_posted : ∃ (s : State) (c : Ctx) (e : QEntry), s.ctxAt 0 = some c ∧ c.cact = some e ∧ e.cKind = 2 :=
  ⟨atC (command (.copy 0 1 2) ownWin ownWin [1, 0, 0, 0, 0, 2, 0, 0]), _, _, rfl, rfl, by decide +kernel⟩

theorem test_EnginesServe_formats : fmtRefused 0xC = true ∧ fmtRefused 0xF = false ∧ fmtRefused 0x4B = false := by decide +kernel

/-- A send on its way. -/
def moving : RelaySend := { ctx := 1, id := 0, src := spadLoc 0 0, len := 16, slot := none, d0 := 0x106180000, d1 := 0 }

theorem test_RelayChannels_arrives : ∃ (s : State) (c : Channel) (x : RelaySend) (rest : List RelaySend) (k recv off : Nat) (c0 : Ctx),
    s.channel 32 = c ∧ c.sends = x :: rest ∧ x.slot = none ∧ s.berthOf x.ctx = some k ∧ s.ctxAt k = some c0 ∧
    (c0.pendOf x.id).isSome = true ∧ s.bad = [] ∧ (∀ y ∈ s.saved, y.2.uid ≠ x.ctx) ∧ recv = x.d0.toNat / 2 ^ 11 % 2 ^ 11 ∧
    off = x.d1.toNat % 2 ^ 19 + 16 * (x.d0.toNat / 2 ^ 32 % 2 ^ 15) * c.next ∧
    s.arrivalLocked recv [⟨0, spadLoc recv off, x.len, 0, false⟩] = false ∧ Unmirrored s (spadLoc recv off) x.len :=
  ⟨withChannel 32 { outbound with sends := [moving] } (pending (Pend.mk0 0 .c 0)), { outbound with sends := [moving] }, _, _, 0, _,
    _, _, by decide +kernel, rfl, rfl, by decide +kernel, rfl, rfl, rfl, by decide, rfl, rfl, by decide +kernel,
      unmirrored_base rfl _ _⟩

theorem test_RelayChannels_returns : ∃ (s : State) (c : Channel) (uid id n : Nat) (valid : Bool)
    (rest : List (Nat × Nat × Nat × Bool)) (k : Nat) (c0 : Ctx), s.channel 32 = c ∧ c.returns = (uid, id, n, valid) :: rest ∧
    s.berthOf uid = some k ∧ s.ctxAt k = some c0 ∧ (c0.pendOf id).isSome = true ∧ ∀ y ∈ s.saved, y.2.uid ≠ uid :=
  ⟨withChannel 32 { outbound with returns := [(1, 0, 8, true)] } (pending (Pend.mk0 0 .c 0)),
    { outbound with returns := [(1, 0, 8, true)] }, _, _, _, _, _, 0, _, by decide +kernel, rfl, by decide +kernel, rfl, rfl,
    by decide⟩

theorem test_RelayChannels_writes : chanRefuses 32 outbound (chanLow outbound) 0x10 = true ∧
    chanRefuses 32 Channel.reset (chanLow Channel.reset) 0x7FFF0 = false ∧
    chanRefuses 32 Channel.reset 0x106180000 0 = false ∧ Channel.reset.en = false ∧
    chanRefuses 32 Channel.reset 0x106000000 0 = true ∧ chanReserved 0x102180000 0 = false ∧ outbound.en = true := by
  decide +kernel

/-! ### Traps -/

theorem test_TrapsAreTaken_trap : ∃ (s : State) (c c1 : Ctx), s.ctxAt 0 = some c ∧ c.priv = false ∧
    (s.drain 0).ctxAt 0 = some c1 := by
  obtain ⟨c1, h⟩ := some_val (x := (base.drain 0).ctxAt 0) (by decide +kernel)
  exact ⟨base, _, c1, rfl, rfl, h⟩

theorem test_TrapsAreTaken_double : ∃ (s : State) (c : Ctx), s.ctxAt 0 = some c ∧ c.priv = true := ⟨inHandler, _, rfl, rfl⟩

/-- A fault record of a cause. -/
def record (cause : Word) : Afr := ⟨2 + 16 * cause, 0, 0, 0, none, none⟩

/-- A context with fault records. -/
def recorded (rs : List Afr) : State := on fun c => { c with afr := rs }

theorem test_TrapsAreTaken_fault : ∃ (s s1 : State) (c c1 : Ctx), s.ctxAt 0 = some c ∧
    s1 = (s.putCtx 0 (c.atBoundary s.now)).drain 0 ∧
    s1.ctxAt 0 = some c1 ∧ c.priv = false ∧ (c.block = .halted → c.preempt ≠ none) ∧ ∃ r ∈ c.afr, r.w0.toNat / 16 % 256 ≠ 19 := by
  obtain ⟨c1, h⟩ := some_val (x := (((recorded [record 19, record 11]).putCtx 0
    ((recorded [record 19, record 11]).ctx.atBoundary 0)).drain 0).ctxAt 0) (by decide +kernel)
  exact ⟨recorded [record 19, record 11], _, _, c1, rfl, rfl, h, rfl, by decide, record 11, .tail _ (.head _), by decide⟩

theorem test_TrapsAreTaken_memory : ∃ (s s1 : State) (c c1 : Ctx), s.ctxAt 0 = some c ∧
    s1 = (s.putCtx 0 (c.atBoundary s.now)).drain 0 ∧ s1.ctxAt 0 = some c1 ∧ c.priv = false ∧
    (c.block = .halted → c.preempt ≠ none) ∧ c.afr ≠ [] ∧
    ∀ r ∈ c.afr, r.w0.toNat / 16 % 256 = 19 := by
  obtain ⟨c1, h⟩ := some_val (x := (((recorded [record 19]).putCtx 0 ((recorded [record 19]).ctx.atBoundary 0)).drain 0).ctxAt 0)
    (by decide +kernel)
  refine ⟨recorded [record 19], _, _, c1, rfl, rfl, h, rfl, by decide, by decide, ?_⟩
  intro r hr
  cases hr with
  | head => decide
  | tail _ h => cases h

/-- A context with a pre-emption pending. -/
def preempted : State := on fun c => { c with preempt := some 1279 }

theorem test_TrapsAreTaken_preempted : ∃ (s s1 : State) (c c1 : Ctx) (who : Word), s.ctxAt 0 = some c ∧
    s1 = ((s.haltEngines 0).updCtx 0 fun x => { x.atBoundary s.now with preempt := none }).drain 0 ∧ s1.ctxAt 0 = some c1 ∧
    c.priv = false ∧ (c.block = .halted → c.preempt ≠ none) ∧ c.afr = [] ∧ c.preempt = some who := by
  obtain ⟨c1, h⟩ := some_val (x := (((preempted.haltEngines 0).updCtx 0 fun x =>
    { x.atBoundary preempted.now with preempt := none }).drain 0).ctxAt 0) (by decide +kernel)
  exact ⟨preempted, _, _, c1, _, rfl, rfl, h, rfl, nofun, rfl, rfl⟩

theorem test_TrapsAreTaken_engine_m : ∃ (s : State) (c : Ctx) (e : QEntry), s.ctxAt 0 = some c ∧ e.id = 0 ∧ e.susp = false ∧
    (c.min.find? fun x => x.id == 0) = some e :=
  ⟨on fun c => { c with min := [{ blankEntry 1 with susp := true }, entryOf (.mmac 0 1 2 3)] }, _, _, rfl, rfl, rfl, rfl⟩

theorem test_TrapsAreTaken_engine_c : ∃ (s : State) (c : Ctx) (e : QEntry), s.ctxAt 0 = some c ∧ e.id = 0 ∧ e.susp = false ∧
    c.cact = some e := ⟨on fun c => { c with cact := some (entryOf (.copy 0 1 2)) }, _, _, rfl, rfl, rfl, rfl⟩

theorem test_PrivilegedSteps_capability : ∃ v : Word, v.toNat / 2 ^ 52 % 16 = 1 ∧ v.toNat / 2 ^ 40 % 2 ^ 12 < 160 ∧
    v.getLsbD 31 = false ∧ v.toNat / 2 ^ 36 % 16 = 0 ∧ v.toNat / 2 ^ 56 = 0 := ⟨0x109F0F7FFFFFFF, by decide⟩

theorem test_PrivilegedSteps_no_engine : ∃ v : Word, ¬ (v.toNat / 2 ^ 52 % 16 = 1 ∧ v.toNat / 2 ^ 40 % 2 ^ 12 < 160 ∧
    v.getLsbD 31 = false ∧ v.toNat / 2 ^ 36 % 16 = 0 ∧ v.toNat / 2 ^ 56 = 0) := ⟨0x10A00000000000, by decide⟩

theorem test_PrivilegedSteps_drop : ∃ (s : State) (c : Ctx) (r : Afr) (l : List Afr), s.ctxAt 0 = some c ∧ c.afr = r :: l ∧
    r.held = none := ⟨recorded [record 11], _, _, _, rfl, rfl, rfl⟩

theorem test_PrivilegedSteps_drop_held : ∃ (s : State) (c : Ctx) (r : Afr) (l : List Afr) (id : Nat) (p : Pend),
    s.ctxAt 0 = some c ∧
    c.afr = r :: l ∧ r.held = some id ∧ (c.pend.find? fun q => q.id == id && q.late) = some p ∧ p.ctr = some .lc :=
  ⟨on fun c => { c with lc := 1, afr := [{ record 19 with held := some 0 }],
                        pend := [{ Pend.mk0 0 .s 0 with late := true, ctr := some .lc }] }, _, _, _, _, _, rfl, rfl, rfl, rfl, rfl⟩

theorem test_PrivilegedSteps_drop_store : ∃ (s : State) (c : Ctx) (r : Afr) (l : List Afr) (id : Nat) (p : PStore),
    s.ctxAt 0 = some c ∧
    c.afr = r :: l ∧ r.held = some id ∧ (c.pend.find? fun q => q.id == id && q.late) = none ∧
    (c.stores.find? fun q => q.id == id && q.late) = some p :=
  ⟨on fun c => { c with sc := 1, afr := [{ record 19 with held := some 0 }], stores := [{ dueStore .plain [] with late := true }] },
    _, _, _, _, _, rfl, rfl, rfl, rfl, rfl⟩

theorem test_PrivilegedSteps_request : ∃ (k : Nat) (v : Word) (s : State) (c : Ctx), s.ctxAt k = some c ∧ k < 4 * numCores ∧
    v.toNat = k / 4 + 2 ^ 11 + 2 ^ 22 * 2 ^ (k % 4) :=
  ⟨5119, 1279 + 2 ^ 11 + 2 ^ 25, { base with parked := [(5119, base.ctx)] }, _, rfl, by decide, by decide⟩

theorem test_PrivilegedSteps_halt : ∃ (s : State) (c : Ctx), s.ctxAt 0 = some c ∧ c.priv = false := ⟨base, _, rfl, rfl⟩

theorem test_PrivilegedSteps_wfe : ∃ (s : State) (c : Ctx), s.ctxAt 0 = some c ∧ c.block = .wfe :=
  ⟨on fun c => { c with block := .wfe }, _, rfl, rfl⟩

/-! ### Threads -/

theorem test_ThreadsRun_stays : ∃ s : State, s.mustSwitch 0 = false := ⟨base, by decide +kernel⟩

/-- Two ready contexts of equal standing, and no running one. -/
def twoReady : State := { base with parked := [(1, base.ctx)], cores := [(0, Core.reset)] }

theorem test_ThreadsRun_switches : ∃ (s : State) (b : Nat) (cb : Ctx), s.mustSwitch 0 = true ∧
    (b, cb) ∈ s.readyOthers 0 (s.coreAt 0).run ∧ ∀ x ∈ s.readyOthers 0 (s.coreAt 0).run, x.1 ≠ b →
      cb.readySince s.now < x.2.readySince s.now ∨
        (cb.readySince s.now = x.2.readySince s.now ∧ (x.2.prio < cb.prio ∨ (x.2.prio = cb.prio ∧ b < x.1))) :=
  ⟨twoReady, 0, twoReady.ctx, by decide +kernel, by decide +kernel, by decide +kernel⟩

/-- A record of a context with 16 rows and 32 granules in environment 0. -/
def rec0 : QRec := { r := { recOfNat 0 with code := 0x10000, rows := 16, gran := 32 }, env := 0 }

theorem test_ThreadsRun_fires : ∃ (s : State) (w : WtEntry) (m : Nat) (q : QRec), mgetD s.wt (64 * 0 + 63) WtEntry.reset = w ∧
    m = Nat.min (w.counter + 1) (2 ^ 32 - 1) ∧ w.armed = true ∧ w.thr ≤ m ∧ w.qr = some q ∧
    ((s.coreAt 0).ready.all fun x => x.entry != some 63) = true :=
  ⟨{ base with wt := [(63, { counter := 0, thr := 1, armed := true, qr := some rec0 })] },
    { counter := 0, thr := 1, armed := true, qr := some rec0 }, 1, rec0, rfl, rfl, rfl, by decide, rfl, rfl⟩

theorem test_ThreadsRun_counts : ∃ (s : State) (w : WtEntry) (m : Nat), mgetD s.wt (64 * 0 + 63) WtEntry.reset = w ∧
    m = Nat.min (w.counter + 1) (2 ^ 32 - 1) ∧ (w.armed = false ∨ m < w.thr) :=
  ⟨{ base with wt := [(63, { counter := 0, thr := 2, armed := true, qr := some rec0 })] },
    { counter := 0, thr := 2, armed := true, qr := some rec0 }, 1, rfl, rfl, .inr (by decide)⟩

theorem test_ThreadsRun_wakes : ∃ (s : State) (b : Fin 4) (c : Ctx) (id thr m : Nat) (p : Pend) (d : SReg) (v : Word),
    m = Nat.min ((mgetD s.wt (64 * 0 + 63) WtEntry.reset).counter + 1) (2 ^ 32 - 1) ∧ s.ctxAt (4 * 0 + b) = some c ∧
    c.waitNow = .cntwait id 63 thr ∧ thr ≤ m ∧ c.pendOf id = some p ∧ p.wr = [.s d v] :=
  ⟨on fun c => { c with block := .cntwait 0 63 1, pend := [{ Pend.mk0 0 .s 0 with act := .remote, wr := [.s 5 0] }] }, 0, _, 0, 1,
    1,
    _, 5, 0, rfl, rfl, rfl, by decide, rfl, rfl⟩

/-- A package with environment 0, core 1 holding `r` on its ready list, and the run queues of die 0 level 0 holding `q`. -/
def startable (ready : List Ready) (items : List QRec) : State :=
  { serving 0 0 0 0 with cores := [(1, { Core.reset with ready := ready })], runqs := [(0, { RunQ.reset with items := items })] }

theorem test_ThreadsRun_takes : ∃ (s : State) (b : Nat) (e : EnvEntry) (q : QRec), s.freeBerth 1 = some b ∧ s.env q.env = some e ∧
    s.readyPick 1 = some ⟨q, none⟩ := by
  obtain ⟨e, h⟩ := some_val (x := (startable [⟨rec0, none⟩] []).env 0) (by decide +kernel)
  exact ⟨startable [⟨rec0, none⟩] [], 0, e, rec0, by decide +kernel, h, by decide +kernel⟩

theorem test_ThreadsRun_pops : ∃ (s : State) (b : Nat) (e : EnvEntry) (q : QRec) (l : Nat) (aged : Bool), s.freeBerth 1 = some b ∧
    s.env q.env = some e ∧ s.popOk 1 = some (l, aged, q) := by
  obtain ⟨e, h⟩ := some_val (x := (startable [] [rec0]).env 0) (by decide +kernel)
  exact ⟨startable [] [rec0], 0, e, rec0, 0, false, by decide +kernel, h, by decide +kernel⟩

theorem test_DeadlockIsBroken_open : ∃ (s : State) (c : Ctx), s.ctxAt 0 = some c ∧
    s.probeGo (16 * s.liveKeys.length * s.liveKeys.length + 16) [c.uid] [] = none := ⟨base, _, rfl, by decide +kernel⟩

/-- A context that waits for a token that nothing outstanding pushes. -/
def stuck : State := on fun c => { c with block := .tokens 8 }

theorem test_DeadlockIsBroken_closed : ∃ (s s1 : State) (c cv ca c1 : Ctx) (set : List Nat) (v : Nat) (w : Awaited) (p : Dep),
    s.ctxAt 0 = some c ∧ s.probeGo (16 * s.liveKeys.length * s.liveKeys.length + 16) [c.uid] [] = some set ∧ v ∈ set ∧
    (∀ x ∈ set, v ≤ x) ∧ s.ctxAt v = some cv ∧ s.awaited v = some w ∧ cv.block = .tokens p ∧
    (∀ q ∈ waitsOf .s p, cv.pushComing q = false) ∧ (s.abandon v).ctxAt v = some ca ∧
    ca.priv = false ∧ s1 = (s.abandon v).drain v ∧ s1.ctxAt v = some c1 := by
  obtain ⟨c1, h⟩ := some_val (x := ((stuck.abandon 0).drain 0).ctxAt 0) (by decide +kernel)
  obtain ⟨w, hw⟩ := some_val (x := stuck.awaited 0) (by decide +kernel)
  exact ⟨stuck, _, _, _, _, c1, [0], 0, w, 8, rfl, by decide +kernel, .head _, by decide, rfl, hw, rfl, by decide +kernel, rfl, rfl,
    rfl, h⟩

/-! ### Work from outside -/

theorem test_HostWritesWork_busy : ∃ (s : State) (o : Nat), o = 0x1030 + 64 * (7 : BitVec 3).toNat ∧
    (s.cfg.read o).getLsbD 0 = true :=
  ⟨{ base with cfg := [(0x11F0, 1)] }, _, rfl, by decide +kernel⟩

theorem test_HostWritesWork_refused : ∃ (s u : State) (o : Nat) (v : Word) (w : Wake), o = 0x1030 + 64 * (7 : BitVec 3).toNat ∧
    (s.cfg.read o).getLsbD 0 = false ∧ v.getLsbD 0 = true ∧ w = s.wakeOf 7 ∧
    u = { s with cfg := s.cfg.write o (s.cfg.read o ||| 1) } ∧ wakeEarly u w ≠ 0 :=
  ⟨base, _, _, 1, _, rfl, by decide +kernel, by decide, rfl, rfl, by decide +kernel⟩

theorem test_HostWritesWork_ignored : ∃ (s : State) (o : Nat) (v : Word), o = 0x1030 + 64 * (7 : BitVec 3).toNat ∧
    (s.cfg.read o).getLsbD 0 = false ∧ v.getLsbD 0 = false := ⟨base, _, 2, rfl, by decide +kernel, by decide⟩

/-- A package with a wake of one thread on core 0 in slot 0, its header at 0x20000, and core 0 given to address space 1. -/
def waking : State :=
  let s := serving 0 0 0 0
  { s with
    mem := (((s.mem.writeLE 0x20000 8 (0x4B484E31 + 2 ^ 32 + 16 * 2 ^ 48 + 32 * 2 ^ 56)).writeLE 0x20010 8 0x10000).writeLE 0x20018 8
      0).writeBytes 0x20018 (List.replicate 40 0),
    cfg := ((s.cfg.writeLE 0x1000 8 0x20000).writeLE 0x1010 8 (2 ^ 16 + 2 ^ 32)).writeLE 0x1018 8 0x30000,
    roles := [(0, { index := 0, asid := 1, text := (0, 2 ^ 30), const := (0, 2 ^ 30), data := (0, 2 ^ 30) })] }

/-- The same with its slot busy. -/
def wakingBusy : State := { waking with cfg := waking.cfg.write 0x1030 (waking.cfg.read 0x1030 ||| 1) }

/-- The hub's view of the address space of a wake's environment. -/
def hubOfEnv (e : EnvEntry) : Hub := { root := e.root.toNat, asid := e.asid, ks := [] }

/-- What a list of locations comes to. -/
def locsOf (x : State × Except HubNo (List Nat)) : Option (List Nat) :=
  match x.2 with
  | .ok ps => some ps
  | .error _ => none

theorem eq_of_locs {x : State × Except HubNo (List Nat)} {ps : List Nat} (h : locsOf x = some ps) : x = (x.1, .ok ps) := by
  obtain ⟨s, z | qs⟩ := x
  · cases h
  · cases h; rfl

/-- Environment 0 of it, and what the checks of its wake find on the way. -/
def wakeEnv : EnvEntry := { root := 0x40000, asid := 1, tvec := 0 }
def wakeRead : State × Eng (List Byte) := wakingBusy.hubRead (hubOfEnv wakeEnv) 0x20000 64
def wakeBytes : List Byte := (valOf wakeRead).getD []
def wakeLocs : State × Except HubNo (List Nat) := wakeRead.1.statusLocs wakeEnv 0x30000

theorem test_HostWritesWork_launched : ∃ (s u s1 s2 : State) (o : Nat) (v : Word) (w : Wake) (e : EnvEntry) (bs : List Byte)
    (ps : List Nat) (l : Launch), o = 0x1030 + 64 * (0 : BitVec 3).toNat ∧ (s.cfg.read o).getLsbD 0 = false ∧ v.getLsbD 0 = true ∧
    w = s.wakeOf 0 ∧ u = { s with cfg := s.cfg.write o (s.cfg.read o ||| 1) } ∧ wakeEarly u w = 0 ∧ u.env w.env = some e ∧
    u.hubRead { root := e.root.toNat, asid := e.asid, ks := [] } w.hdr 64 = (s1, .ok bs) ∧
    s1.statusLocs e w.status = (s2, .ok ps) ∧ wakeLate s2 w e.asid bs = 0 ∧ l = launchMade s2 0 w bs := by
  have hw : waking.wakeOf 0 = { hdr := 0x20000, args := 0, first := 0, count := 1, threads := 1, status := 0x30000, save := 0,
                                env := 0, reserved := false } := by decide +kernel
  have h1 : wakeRead = (wakeRead.1, .ok wakeBytes) := by
    have h : (valOf wakeRead).isSome = true := by decide +kernel
    obtain ⟨v, hv⟩ := some_val h
    rw [show wakeBytes = v by simp [wakeBytes, hv]]
    exact eq_of_val hv
  have h2 : wakeLocs = (wakeLocs.1, .ok ((locsOf wakeLocs).getD [])) := by
    obtain ⟨v, hv⟩ := some_val (x := locsOf wakeLocs) (by decide +kernel)
    rw [hv]
    exact eq_of_locs hv
  refine ⟨waking, wakingBusy, wakeRead.1, wakeLocs.1, 0x1030, 1, waking.wakeOf 0, wakeEnv, wakeBytes,
    (locsOf wakeLocs).getD [], launchMade wakeLocs.1 0 (waking.wakeOf 0) wakeBytes, by decide,
    by decide +kernel, by decide, rfl, rfl, by decide +kernel, by decide +kernel, ?_, ?_, by decide +kernel, rfl⟩
  · rw [hw]; exact h1
  · rw [hw]; exact h2

theorem test_HostWritesWork_reports : ∃ s : State, (∀ l ∈ s.launches, l.slot ≠ 7 ∨ l.reported = true) ∧
    ∀ l ∈ s.launches, l.teams ≤ l.fresh ∧ l.swapped = [] := ⟨base, by decide, by decide⟩

theorem test_HostWritesWork_slice : ∃ v : BitVec 32, 1 ≤ v.toNat ∧ v.toNat < 2 ^ 24 := ⟨0xFFFFFF, by decide, by decide⟩

theorem test_HostWritesWork_slots : ∃ (s : State) (slot f off : Nat), slot < 8 ∧ f < 48 ∧ off = 0x1000 + 64 * slot + f ∧
    (s.cfg.read (0x1030 + 64 * slot)).getLsbD 0 = false := ⟨base, 7, 47, _, by decide, by decide, rfl, by decide +kernel⟩

theorem test_HostWritesWork_slots_busy : ∃ (s : State) (slot f off : Nat), slot < 8 ∧ f < 48 ∧ off = 0x1000 + 64 * slot + f ∧
    (s.cfg.read (0x1030 + 64 * slot)).getLsbD 0 = true :=
  ⟨{ base with cfg := [(0x11F0, 1)] }, 7, 47, _, by decide, by decide, rfl, by decide +kernel⟩

theorem test_HostWritesWork_vocabulary_bad : ∃ (s : State) (o : Nat), o = 0x20000 + 128 * (7 : BitVec 3).toNat ∧
    s.vocBad 7 = true :=
  ⟨base, _, rfl, by decide +kernel⟩

theorem test_HostWritesWork_vocabulary : ∃ s : State, s.vocBad 0 = false := ⟨serving 0 0 0 0, by decide +kernel⟩

theorem test_HostWritesWork_window : ∃ (s : State) (off : Nat) (bs : List Byte) (n : Nat), bs.length = n ∧ s.boot.phase ≠ 3 ∧
    0 < n ∧ off + n ≤ numCores * 2 ^ 19 ∧ s.bad = [] :=
  ⟨base, 1280 * 2 ^ 19 - 9, List.replicate 9 1, 9, rfl, by decide, by decide, by decide, rfl⟩

theorem test_HostWritesWork_window_formats : ∃ (s : State) (off core bank : Nat) (bs : List Byte) (n : Nat), bs.length = n ∧
    s.boot.phase ≠ 3 ∧ core < numCores ∧ bank < 16 ∧ off = 0x30000000 + 4096 * core + 8 * bank ∧ n = 8 :=
  ⟨base, _, 1279, 15, List.replicate 8 1, 8, rfl, by decide, by decide, by decide, rfl, rfl⟩

theorem test_HostWritesWork_window_bad : ∃ (off : Nat) (bs : List Byte) (n : Nat), bs.length = n ∧
    numCores * 2 ^ 19 < off + n ∧
    ∀ core bank, core < numCores → bank < 16 → off = 0x30000000 + 4096 * core + 8 * bank → n ≠ 8 :=
  ⟨1280 * 2 ^ 19 - 8, List.replicate 9 1, 9, rfl, by decide, by intros; decide⟩

theorem test_HostWritesWork_window_recovery : ∃ s : State,
    s.boot.phase = 3 := ⟨{ base with boot := { base.boot with phase := 3 } }, rfl⟩

/-- The 32 bytes of a record whose flags, rows and allocation are given. -/
def recordBytes (flags rows gran : Byte) : List Byte := List.replicate 20 0 ++ [flags, rows, gran] ++ List.replicate 9 0

/-- Run queue 31 of capacity `cap`, its memory at 0x30000. -/
def queueCap (cap : Nat) : State := { base with cfg := (base.cfg.writeLE 0x21F0 8 0x30000).writeLE 0x21F8 4 cap }

theorem test_OutsideRecordsQueue_place : ∃ (s : State) (rq : RunQ) (r : Rec) (off code : Nat), s.boot.phase ≠ 3 ∧
    mgetD s.runqs 31 RunQ.reset = rq ∧ r = recOfNat (leNat (recordBytes 0 16 32)) ∧ code = 3 ∧ off ≠ 0 :=
  ⟨base, _, _, 8, 3, by decide, rfl, rfl, rfl, by decide⟩

theorem test_OutsideRecordsQueue_bad : ∃ (s : State) (rq : RunQ) (r : Rec) (bs : List Byte), s.boot.phase ≠ 3 ∧
    mgetD s.runqs 31 RunQ.reset = rq ∧ bs.length = 32 ∧ r = recOfNat (leNat bs) ∧ r.bad = true :=
  ⟨base, _, _, recordBytes 0x80 16 32, by decide, rfl, rfl, rfl, by decide +kernel⟩

theorem test_OutsideRecordsQueue_full : ∃ (s : State) (rq : RunQ) (r : Rec) (bs : List Byte), s.boot.phase ≠ 3 ∧
    mgetD s.runqs 31 RunQ.reset = rq ∧ bs.length = 32 ∧ r = recOfNat (leNat bs) ∧ r.bad = false ∧
    s.cfg.readLE (0x2008 + 16 * 31) 4 ≤ rq.items.length :=
  ⟨base, _, _, recordBytes 0 16 32, by decide, rfl, rfl, rfl, by decide +kernel, by decide +kernel⟩

theorem test_OutsideRecordsQueue_taken : ∃ (s : State) (rq : RunQ) (r : Rec) (bs : List Byte), s.boot.phase ≠ 3 ∧
    mgetD s.runqs 31 RunQ.reset = rq ∧ bs.length = 32 ∧ r = recOfNat (leNat bs) ∧ r.bad = false ∧
    rq.items.length < s.cfg.readLE (0x2008 + 16 * 31) 4 ∧ ∃ place, place = (s.cfg.readLE (0x2000 + 16 * 31) 8 +
      64 * ((rq.head + rq.items.length) % s.cfg.readLE (0x2008 + 16 * 31) 4)) % 2 ^ 52 ∧
    reserved place = false ∧ barOf place = none ∧ Unmirrored s place 64 :=
  ⟨queueCap 1, _, _, recordBytes 0 16 32, by decide, rfl, rfl, rfl, by decide +kernel, by decide +kernel, 0x30000,
    by decide +kernel,
    by decide +kernel, by decide +kernel, unmirrored_base rfl _ _⟩

theorem test_OutsideRecordsQueue_length : ∃ (s : State) (rq : RunQ) (r : Rec) (off code : Nat) (bs : List Byte), s.boot.phase ≠ 3 ∧
    mgetD s.runqs 31 RunQ.reset = rq ∧ r = recOfNat (leNat bs) ∧ code = 3 ∧ off = 0 ∧ bs.length ≠ 32 :=
  ⟨base, _, _, 0, 3, List.replicate 31 0, by decide, rfl, rfl, rfl, rfl, by decide⟩

/-- The same with a peer entry of peer 1,023, valid and enabled for queue 31. -/
def peered (e : Nat) : State := { queueCap 1 with cfg := (queueCap 1).cfg.writeLE 0x307F8 8 e }

theorem test_OutsideRecordsQueue_peer : ∃ (s : State) (rq : RunQ) (r : Rec) (bs : List Byte) (e : Word), s.boot.phase ≠ 3 ∧
    mgetD s.runqs 31 RunQ.reset = rq ∧ bs.length = 32 ∧ r = recOfNat (leNat bs) ∧ r.bad = false ∧
    rq.items.length < s.cfg.readLE (0x2008 + 16 * 31) 4 ∧ s.peerEntry 1023 = some e ∧ e.getLsbD (16 + 31) = true ∧
    (4 ≤ r.flags.toNat % 8 → e.getLsbD 49 = true) :=
  ⟨peered (1023 + 2 ^ 47 + 2 ^ 48), _, _, recordBytes 3 16 32, 0x18000000003FF, by decide, rfl, rfl, rfl, by decide +kernel,
    by decide +kernel, by decide +kernel, by decide, by decide +kernel⟩

/-- The counter in which a packet's refusal is counted; 0 where it is taken. -/
def refusal (s : State) (bs : List Byte) (rq : RunQ) : Nat :=
  match s.peerEntry 1023 with
  | none => 0x148
  | some e => if e.getLsbD (16 + 31) = false then 0x150
      else if 4 ≤ (recOfNat (leNat bs)).flags.toNat % 8 ∧ e.getLsbD 49 = false then 0x158 else if (recOfNat (leNat bs)).bad = true
      then 0x160 else if s.cfg.readLE (0x2008 + 16 * 31) 4 ≤ rq.items.length then 0x168 else 0

theorem test_OutsideRecordsQueue_refused :
    refusal base (recordBytes 0 16 32) RunQ.reset = 0x148 ∧
    refusal (peered (1023 + 2 ^ 48)) (recordBytes 0 16 32) RunQ.reset = 0x150 ∧
    refusal (peered (1023 + 2 ^ 47 + 2 ^ 48)) (recordBytes 4 16 32) RunQ.reset = 0x158 ∧
    refusal (peered (1023 + 2 ^ 47 + 2 ^ 48)) (recordBytes 0x80 16 32) RunQ.reset = 0x160 ∧
    refusal (peered (1023 + 2 ^ 47 + 2 ^ 48)) (recordBytes 3 16 32) { RunQ.reset with items := [rec0] } = 0x168 := by decide +kernel

theorem test_OutsideRecordsQueue_writes : ∃ (s : State) (pa : Nat) (xs : List Byte), isDevice pa = true ∧
    isDevice (pa + (xs.length - 1)) = true ∧ reserved pa = false ∧ Unmirrored s pa xs.length :=
  ⟨base, 0x3F, [1, 2], by decide +kernel, by decide +kernel, by decide +kernel, unmirrored_base rfl _ _⟩

theorem test_OutsideRecordsQueue_config : ∃ (s : State) (rq : RunQ), s.boot.phase ≠ 3 ∧ mgetD s.runqs 31 RunQ.reset = rq ∧
    rq.items ≠ [] :=
  ⟨{ base with runqs := [(31, { RunQ.reset with items := [rec0] })] }, { RunQ.reset with items := [rec0] }, by decide, rfl,
    by decide⟩

/-! ### Futures -/

/-- A pending future of the descriptor at 0x20000 in environment 0. -/
def fut : Future := { Future.reset with state := .pending, gen := 1, desc := 0x20000 }

/-- A package with future 65,535. -/
def futureAt (f : Future) (s : State) : State := { s with futures := [(65535, f)] }

/-- The hub's view of environment 0 for what no berth has asked. -/
def hubQuiet : Hub := { root := 0x40000, asid := 1, ks := [] }

theorem test_FuturesResolve_injected : ∃ (s s1 s2 : State) (f : Future) (h : Hub) (d n : Nat) (ids : List (BitVec 32)),
    mgetD s.futures (0xFFFF : BitVec 16).toNat Future.reset = f ∧ s.hubOf f.env [] = some h ∧
    s.hubLoc h f.desc 256 .write = (s1, .ok d) ∧
    n = Nat.min ids.length (field s1 d 48 4 - (field s1 d 52 4 + 2 ^ 32 - field s1 d 56 4) % 2 ^ 32) ∧
    s1.hubPuts h ((ids.take n).mapIdx fun i v => spread (BitVec.ofNat 64 (field s1 d 40 8 +
      4 * ((field s1 d 52 4 + i) % field s1 d 48 4))) (leBytes v.toNat 4)).flatten = (s2, .ok ()) := by
  obtain ⟨⟨⟩, h⟩ := ok_of (x := (futureAt fut (serving 2 0xFFFF 0 0)).hubPuts hubQuiet ((([7] : List (BitVec 32)).take 1).mapIdx fun i v =>
    spread (BitVec.ofNat 64 (field (futureAt fut (serving 2 0xFFFF 0 0)) 0x20000 40 8 +
      4 * ((field (futureAt fut (serving 2 0xFFFF 0 0)) 0x20000 52 4 + i) % field (futureAt fut (serving 2 0xFFFF 0 0)) 0x20000 48 4)))
      (leBytes v.toNat 4)).flatten) (by decide +kernel)
  exact ⟨futureAt fut (serving 2 0xFFFF 0 0), futureAt fut (serving 2 0xFFFF 0 0), _, fut, hubQuiet, 0x20000, 1, [7], rfl,
    by decide +kernel, hubLoc_ok (by decide +kernel) (hubXl_ok (g := 0) rfl (by decide +kernel)), by decide +kernel, h⟩

theorem test_FuturesResolve_timed_out : ∃ (s : State) (f : Future) (t : Nat),
    mgetD s.futures (0xFFFF : BitVec 16).toNat Future.reset = f ∧ f.state = .pending ∧ f.timer = some t ∧ t ≤ s.now :=
  ⟨futureAt { fut with timer := some 0 } base, { fut with timer := some 0 }, 0, rfl, rfl, rfl, by decide⟩

theorem test_FuturesResolve_running : ∃ (s : State) (f : Future) (t : Nat),
    mgetD s.futures (0xFFFF : BitVec 16).toNat Future.reset = f ∧ f.timer = some t ∧ s.now < t :=
  ⟨futureAt { fut with timer := some 1 } base, { fut with timer := some 1 }, 1, rfl, rfl, by decide⟩

theorem test_FuturesResolve_retried : ∃ (s : State) (f : Future) (ids : List (BitVec 32)) (late : Bool),
    mgetD s.futures (0xFFFF : BitVec 16).toNat Future.reset = f ∧ f.inj = some (ids, late) :=
  ⟨futureAt { fut with inj := some ([7], false) } base, { fut with inj := some ([7], false) }, _, _, rfl, rfl⟩

theorem test_FuturesResolve_nothing_held : ∃ (s : State) (f : Future), mgetD s.futures (0xFFFF : BitVec 16).toNat Future.reset = f ∧
    f.inj = none ∧ s.held = [] ∧ s.calls = [] := ⟨futureAt fut base, fut, rfl, rfl, rfl, rfl⟩

theorem test_FuturesResolve_no_mailbox : ∃ (s : State) (c : Call), s.calls = [c] ∧
    s.mailboxFor ((c.bytes.getD 4 0).toNat % 8) = none ∧ ∀ e ∈ s.agenda, e.2 ≠ .mailboxPost :=
  ⟨{ base with calls := [⟨List.replicate 64 0⟩], agenda := [] }, _, rfl, by decide +kernel, by decide⟩

theorem test_FuturesResolve_pushed : ∃ (s s1 : State) (q : QRec) (die : Nat), s.held = [(q, die)] ∧
    ({ s with held := [] } : State).pushRunq (8 * die + q.r.flags.toNat % 8) q = some s1 ∧ s1.held = [] := by
  have h : ((queueCap 1).pushRunq (8 * 3 + 7) { rec0 with r := { rec0.r with flags := 7 } }).map State.held = some [] := by
    decide +kernel
  obtain ⟨s1, h1, h2⟩ := Option.map_eq_some_iff.1 h
  exact ⟨{ queueCap 1 with held := [({ rec0 with r := { rec0.r with flags := 7 } }, 3)] }, s1, _, 3, rfl, h1, h2⟩

theorem test_FuturesResolve_no_room : ∃ (s : State) (q : QRec) (die : Nat), s.held = [(q, die)] ∧
    ({ s with held := [] } : State).pushRunq (8 * die + q.r.flags.toNat % 8) q = none :=
  ⟨{ base with held := [(rec0, 0)] }, _, _, rfl, by decide +kernel⟩

/-- A hart with a mailbox of one place at 0x30000 for slot 0. -/
def mailHart : Hart := { Hart.reset with mbbase := 0x30000, mbcfg := 0x10100 }

theorem test_FuturesResolve_mailbox : ∃ (s : State) (c : Call) (h b : Nat) (t : Hart), s.calls = [c] ∧
    s.mailboxFor ((c.bytes.getD 4 0).toNat % 8) = some h ∧ mgetD s.harts h Hart.reset = t ∧ t.mbbase.toNat = b ∧
    ∀ x, x = b ∨ x = b + 64 + 64 * (s.mem.readLE b 4 % 2 ^ (t.mbcfg.toNat % 32)) → reserved x = false ∧ barOf x = none ∧
      Unmirrored s x c.bytes.length ∧ Unmirrored s x 4 := by
  refine ⟨{ base with calls := [⟨List.replicate 64 0⟩], harts := [(63, mailHart)] }, _, 63, 0x30000, mailHart, rfl,
    by decide +kernel,
    by decide +kernel, by decide, ?_⟩
  intro x h
  have h2 : 0x30000 + 64 + 64 * (base.mem.readLE 0x30000 4 % 2 ^ (mailHart.mbcfg.toNat % 32)) = 0x30040 := by decide +kernel
  rcases h with rfl | h
  · exact ⟨by decide +kernel, by decide +kernel, unmirrored_base rfl _ _, unmirrored_base rfl _ _⟩
  · have : x = 0x30040 := h.trans h2
    subst this
    exact ⟨by decide +kernel, by decide +kernel, unmirrored_base rfl _ _, unmirrored_base rfl _ _⟩

theorem test_FuturesResolve_message_short : ∃ bs : List Byte, bs.length ≠ 16 + 4 * leNat ((bs.drop 8).take 4) :=
  ⟨List.replicate 15 0, by decide +kernel⟩

/-- A message of no tokens with its check code. -/
def message (c : BitVec 16) : List Byte := List.replicate 4 0 ++ leBytes c.toNat 2 ++ List.replicate 10 0

theorem message_code (c : BitVec 16) : BitVec.ofNat 16 (leNat (((message c).drop 4).take 2)) = c := by
  have h : ((message c).drop 4).take 2 = leBytes c.toNat 2 := rfl
  rw [h]
  simp [leBytes, leNat]
  apply BitVec.eq_of_toNat_eq
  simp
  omega

theorem message_form (c : BitVec 16) : (message c).length = 16 + 4 * leNat (((message c).drop 8).take 4) ∧
    leNat (((message c).drop 8).take 4) ≤ 4096 ∧ leNat (((message c).drop 6).take 2) = 0 ∧
    leNat (((message c).drop 12).take 4) = 0 := ⟨rfl, by change 0 ≤ 4096; decide, rfl, rfl⟩

theorem test_FuturesResolve_message_good : ∃ (s : State) (bs : List Byte), bs.length = 16 + 4 * leNat ((bs.drop 8).take 4) ∧
    BitVec.ofNat 16 (leNat ((bs.drop 4).take 2)) =
      Config.futCheck s.resets (BitVec.ofNat 16 (leNat ((bs.drop 0).take 2))) (BitVec.ofNat 16 (leNat ((bs.drop 2).take 2))) :=
  ⟨base, message (Config.futCheck base.resets 0 0), (message_form _).1, message_code _⟩

theorem test_FuturesResolve_message_bad : ∃ (s : State) (bs : List Byte), bs.length = 16 + 4 * leNat ((bs.drop 8).take 4) ∧
    BitVec.ofNat 16 (leNat ((bs.drop 4).take 2)) ≠
      Config.futCheck s.resets (BitVec.ofNat 16 (leNat ((bs.drop 0).take 2))) (BitVec.ofNat 16 (leNat ((bs.drop 2).take 2))) :=
  ⟨base, message (Config.futCheck base.resets 0 0 + 1), (message_form _).1, by
    rw [message_code]
    change Config.futCheck base.resets 0 0 + 1 ≠ Config.futCheck base.resets 0 0
    simp⟩

end Sys2Proof.Tests
end

