-- ==== Sys2Proof/Tests/WitnessSystem.lean ====
section
/-! SUPPORT. Witnesses: states that meet the hypotheses of the statements about the Hostel, coherence, the page agent, boot,
repair, and every word and step. -/

namespace Sys2Proof.Tests

set_option Elab.async false -- one theorem at a time, so that few threads wait on the kernel

open Sys2Proof Sys2Proof.Machine Sys2Proof.Safety

/-! ### The Hostel -/

/-- The Hostel has the only copy of the sectors `secs`. -/
def hostelHas (secs : List Nat) (s : State) : State := { s with dir := secs.map fun x => (x, [.i, .i, .i, .i, .m, .i]) }

/-- Hart 63 with the registers x1 and x2 given, in its turn. -/
def hartTurn (a b : Word) (f : Hart → Hart) : State :=
  { hostelHas [0x400, 0x404, 0x43F] base with turn := .hart 63, harts := [(63, f ((Hart.reset.setReg 1 a).setReg 2 b))] }

theorem test_HostelRuns_misaligned : ∃ (s : State) (t : Hart), mgetD s.harts 63 Hart.reset = t ∧ s.turn = .hart 63 ∧
    (t.reg 1).toNat % 8 ≠ 0 := ⟨hartTurn 0x10004 0 id, _, rfl, rfl, by decide +kernel⟩

/-- What a hart's read gives. -/
def readVal (x : HartRead) : Option (List Byte) :=
  match x with
  | .ok _ bs => some bs
  | _ => none

theorem read_of {x : HartRead} {bs : List Byte} (h : readVal x = some bs) : ∃ s, x = .ok s bs := by
  obtain ⟨s, b⟩ | _ | _ := x
  · exact ⟨s, congrArg _ (Option.some.inj h)⟩
  · cases h
  · cases h

/-- A read that gives `bs` and leaves a state of which `f` holds. -/
def readSeen (x : HartRead) (bs : List Byte) (f : State → Bool) : Bool :=
  match x with
  | .ok s b => b == bs && f s
  | _ => false

theorem seen_of {x : HartRead} {bs : List Byte} {f : State → Bool} (h : readSeen x bs f = true) :
    ∃ s, x = .ok s bs ∧ f s = true := by
  obtain ⟨s, b⟩ | _ | _ := x
  · simp only [readSeen, Bool.and_eq_true, beq_iff_eq] at h
    exact ⟨s, by rw [h.1], h.2⟩
  · cases h
  · cases h

/-- A hart's read traps. -/
def readTrap (x : HartRead) : Bool :=
  match x with
  | .trap .. => true
  | _ => false

theorem trap_of {x : HartRead} (h : readTrap x = true) : ∃ y, x = .trap y := by
  obtain _ | y | _ := x
  · cases h
  · exact ⟨y, rfl⟩
  · cases h

/-- A hart's read waits. -/
def readWaits (x : HartRead) : Bool :=
  match x with
  | .wait => true
  | _ => false

theorem wait_of {x : HartRead} (h : readWaits x = true) : x = .wait := by
  obtain _ | _ | _ := x
  · cases h
  · cases h
  · rfl

/-- An outcome is a next state. -/
def goesOn (x : Host.Outcome State Fault Refusal) : Bool :=
  match x with
  | .next _ => true
  | _ => false

theorem next_of {x : Host.Outcome State Fault Refusal} (h : goesOn x = true) : ∃ t, x = .next t := by
  obtain t | _ | _ := x
  · exact ⟨t, rfl⟩
  · cases h
  · cases h

/-- The bytes of a descriptor of one token at address 0x10100. -/
def doneBytes : List Byte := [0, 0, 0, 0, 1, 0, 0, 0, 0, 1, 1] ++ List.replicate 13 0

/-- A hart that signals the completion of future 0. -/
def doing : State := let s := hartTurn 0x10000 0 id; { s with mem := s.mem.writeBytes 0x10000 doneBytes }

theorem test_HostelRuns_done : ∃ (s s1 s2 : State) (t : Hart) (bs is : List Byte) (n : Nat) (ids : Word),
    mgetD s.harts 63 Hart.reset = t ∧ s.turn = .hart 63 ∧ (t.reg 1).toNat % 8 = 0 ∧ s.hartRead 63 t (t.reg 1) 24 = .ok s1 bs ∧
    n = leNat ((bs.drop 4).take 4) ∧ ids = BitVec.ofNat 64 (leNat ((bs.drop 8).take 8)) ∧ n ≤ 4096 ∧ ids.toNat % 4 = 0 ∧
    s1.hartSees t ids (4 * n) = none ∧ s1.hartRead 63 t ids (4 * n) = .ok s2 is := by
  obtain ⟨s1, h, h1⟩ := seen_of (x := doing.hartRead 63 (doing.hartAt 63) 0x10000 24) (bs := doneBytes)
    (f := fun s => (s.hartSees (doing.hartAt 63) 0x10100 4).isNone && (readVal (s.hartRead 63 (doing.hartAt 63) 0x10100 4)).isSome)
    (by decide +kernel)
  simp only [Bool.and_eq_true] at h1
  obtain ⟨is, h2⟩ := Option.isSome_iff_exists.1 h1.2
  obtain ⟨s2, h2⟩ := read_of h2
  exact ⟨doing, s1, s2, doing.hartAt 63, doneBytes, is, 1, 0x10100, rfl, rfl, by decide +kernel, h, by decide, by decide,
    by decide, by decide, Option.isNone_iff_eq_none.1 h1.1, h2⟩

/-- The same with a descriptor of 4,097 tokens. -/
def doingMany : State := { doing with mem := doing.mem.writeLE 0x10004 4 4097 }

theorem test_HostelRuns_done_dropped : ∃ (s s1 : State) (t : Hart) (bs : List Byte) (n : Nat), mgetD s.harts 63 Hart.reset = t ∧
    s.turn = .hart 63 ∧ (t.reg 1).toNat % 8 = 0 ∧ s.hartRead 63 t (t.reg 1) 24 = .ok s1 bs ∧ n = leNat ((bs.drop 4).take 4) ∧
    s1.hartSees t 0x10100 (4 * n) = none ∧ 4096 < n := by
  obtain ⟨s1, h, h1⟩ := seen_of (x := doingMany.hartRead 63 (doingMany.hartAt 63) 0x10000 24)
    (bs := [0, 0, 0, 0, 1, 16, 0, 0, 0, 1, 1] ++ List.replicate 13 0)
    (f := fun s => (s.hartSees (doingMany.hartAt 63) 0x10100 (4 * 4097)).isNone) (by decide +kernel)
  exact ⟨doingMany, s1, doingMany.hartAt 63, _, 4097, rfl, rfl, by decide +kernel, h, by decide, Option.isNone_iff_eq_none.1 h1,
    by decide⟩

/-- The same with ids outside memory. -/
def doingOut : State := { doing with mem := doing.mem.writeLE 0x10008 8 0x10000000000000 }

theorem test_HostelRuns_done_ids : ∃ (s s1 : State) (t : Hart) (bs : List Byte) (n : Nat) (x : HTrap),
    mgetD s.harts 63 Hart.reset = t ∧
    s.turn = .hart 63 ∧ (t.reg 1).toNat % 8 = 0 ∧ s.hartRead 63 t (t.reg 1) 24 = .ok s1 bs ∧ n = leNat ((bs.drop 4).take 4) ∧
    s1.hartSees t 0x10000000000000 (4 * n) = some x := by
  obtain ⟨s1, h, h1⟩ := seen_of (x := doingOut.hartRead 63 (doingOut.hartAt 63) 0x10000 24)
    (bs := [0, 0, 0, 0, 1, 0, 0, 0, 0, 0, 0, 0, 0, 0, 0x10] ++ List.replicate 9 0)
    (f := fun s => (s.hartSees (doingOut.hartAt 63) 0x10000000000000 (4 * 1)).isSome) (by decide +kernel)
  obtain ⟨x, h2⟩ := Option.isSome_iff_exists.1 h1
  exact ⟨doingOut, s1, doingOut.hartAt 63, _, 1, x, rfl, rfl, by decide +kernel, h, by decide, h2⟩

theorem test_HostelRuns_done_traps : ∃ (s : State) (t : Hart) (x : HTrap), mgetD s.harts 63 Hart.reset = t ∧
    s.turn = .hart 63 ∧ (t.reg 1).toNat % 8 = 0 ∧ s.hartRead 63 t (t.reg 1) 24 = .trap x := by
  obtain ⟨x, h⟩ := trap_of (x := (hartTurn 0x10000000000000 0 id).hartRead 63
    ((hartTurn 0x10000000000000 0 id).hartAt 63) 0x10000000000000 24) (by decide +kernel)
  exact ⟨hartTurn 0x10000000000000 0 id, _, x, rfl, rfl, by decide +kernel, h⟩

theorem test_HostelRuns_done_ids_wait : ∃ (s s1 : State) (t : Hart) (bs : List Byte) (n : Nat) (ids : Word),
    mgetD s.harts 63 Hart.reset = t ∧ s.turn = .hart 63 ∧ (t.reg 1).toNat % 8 = 0 ∧ s.hartRead 63 t (t.reg 1) 24 = .ok s1 bs ∧
    n = leNat ((bs.drop 4).take 4) ∧ ids = BitVec.ofNat 64 (leNat ((bs.drop 8).take 8)) ∧ n ≤ 4096 ∧ ids.toNat % 4 = 0 ∧
    s1.hartSees t ids (4 * n) = none ∧ s1.hartRead 63 t ids (4 * n) = .wait := by
  let s : State := hostelHas [0x400] doing
  obtain ⟨s1, h, h1⟩ := seen_of (x := s.hartRead 63 (doing.hartAt 63) 0x10000 24) (bs := doneBytes)
    (f := fun s => (s.hartSees (doing.hartAt 63) 0x10100 4).isNone && readWaits (s.hartRead 63 (doing.hartAt 63) 0x10100 4))
    (by decide +kernel)
  simp only [Bool.and_eq_true] at h1
  exact ⟨s, s1, doing.hartAt 63, doneBytes, 1, 0x10100, rfl, rfl, by decide +kernel, h, by decide, by decide,
    by decide, by decide, Option.isNone_iff_eq_none.1 h1.1, wait_of h1.2⟩

/-- A request that is being served at the home of sector `sec`. -/
def asked (sec who : Nat) (acks : List Nat) : Ask :=
  { home := homeOf (64 * sec), sec := sec, who := who, excl := true, pa := 64 * sec, bytes := [], at_ := 0, adm := true,
    begun := true,
    acks := acks, granted := false }

/-- The sector at 0x10000 is taken at its home. -/
def homeBusy (s : State) : State := { s with asks := [asked 0x400 0 [1]] }

theorem test_HostelRuns_done_waits : ∃ (s : State) (t : Hart), mgetD s.harts 63 Hart.reset = t ∧ s.turn = .hart 63 ∧
    (t.reg 1).toNat % 8 = 0 ∧ s.hartRead 63 t (t.reg 1) 24 = .wait :=
  ⟨hostelHas [] doing, _, rfl, rfl, by decide +kernel, wait_of (by decide +kernel)⟩

theorem test_HostelRuns_poll : ∃ (s : State) (t : Hart), mgetD s.harts 63 Hart.reset = t ∧ s.turn = .hart 63 ∧
    (t.reg 1).toNat < 2 ^ 32 := ⟨hartTurn 0xFFFFFFFF 0 id, _, rfl, rfl, by decide +kernel⟩

theorem test_HostelRuns_poll_unused : ∃ (s : State) (t : Hart), mgetD s.harts 63 Hart.reset = t ∧ s.turn = .hart 63 ∧
    2 ^ 32 ≤ (t.reg 1).toNat := ⟨hartTurn 0x100000000 0 id, _, rfl, rfl, by decide +kernel⟩

/-- Hart 63 at a SBOX of a table of 16 windows at 0x20000. -/
def boxing : State := hostelHas [0x800, 0x801, 0x802, 0x803, 0x804, 0x805] (hartTurn 0x20000 0x30 id)

/-- The same of one window with a right that does not exist. -/
def boxingBad : State :=
  let s := hostelHas [0x800] (hartTurn 0x20000 1 id)
  { s with mem := s.mem.writeLE 0x20010 1 8 }

theorem test_HostelRuns_box : ∃ (s s1 : State) (t : Hart) (bs : List Byte) (ws : List (Word × Word × Byte)),
    mgetD s.harts 63 Hart.reset = t ∧ s.turn = .hart 63 ∧ t.mode ≠ 0 ∧ t.virt = false ∧ (t.reg 2).toNat < 64 ∧
    (t.reg 2).toNat % 32 ≤ 16 ∧ (t.reg 1).toNat % 64 = 0 ∧ s.hartRead 63 t (t.reg 1) (24 * ((t.reg 2).toNat % 32)) = .ok s1 bs ∧
    boxEntries ((t.reg 2).toNat % 32) bs = some ws := by
  obtain ⟨s1, h⟩ := read_of (x := boxing.hartRead 63 (boxing.hartAt 63) 0x20000 (24 * 16))
    (bs := List.replicate 384 0) (by decide +kernel)
  exact ⟨boxing, s1, _, _, List.replicate 16 (0, 0, 0), rfl, rfl, by decide +kernel,
    by decide +kernel, by decide +kernel, by decide +kernel, by decide +kernel, h, by decide +kernel⟩

theorem test_HostelRuns_box_bad : ∃ (s s1 : State) (t : Hart) (bs : List Byte), mgetD s.harts 63 Hart.reset = t ∧
    s.turn = .hart 63 ∧ t.mode ≠ 0 ∧ t.virt = false ∧ (t.reg 2).toNat < 64 ∧ (t.reg 2).toNat % 32 ≤ 16 ∧ (t.reg 1).toNat % 64 = 0 ∧
    s.hartRead 63 t (t.reg 1) (24 * ((t.reg 2).toNat % 32)) = .ok s1 bs ∧ boxEntries ((t.reg 2).toNat % 32) bs = none := by
  obtain ⟨s1, h⟩ := read_of (x := boxingBad.hartRead 63 (boxingBad.hartAt 63) 0x20000 24)
    (bs := List.replicate 16 0 ++ 8 :: List.replicate 7 0) (by decide +kernel)
  exact ⟨boxingBad, s1, _, _, rfl, rfl, by decide +kernel,
    by decide +kernel, by decide +kernel, by decide +kernel, by decide +kernel, h, by decide +kernel⟩

theorem test_HostelRuns_box_misaligned : ∃ (s : State) (t : Hart), mgetD s.harts 63 Hart.reset = t ∧ s.turn = .hart 63 ∧
    t.mode ≠ 0 ∧ t.virt = false ∧ (t.reg 2).toNat < 64 ∧ (t.reg 2).toNat % 32 ≤ 16 ∧ (t.reg 1).toNat % 64 ≠ 0 :=
  ⟨hartTurn 0x10020 1 id, _, rfl, rfl, by decide +kernel, by decide +kernel, by decide +kernel, by decide +kernel,
    by decide +kernel⟩

theorem test_HostelRuns_box_traps : ∃ (s : State) (t : Hart) (x : HTrap), mgetD s.harts 63 Hart.reset = t ∧ s.turn = .hart 63 ∧
    t.mode ≠ 0 ∧ t.virt = false ∧ (t.reg 2).toNat < 64 ∧ (t.reg 2).toNat % 32 ≤ 16 ∧ (t.reg 1).toNat % 64 = 0 ∧
    s.hartRead 63 t (t.reg 1) (24 * ((t.reg 2).toNat % 32)) = .trap x := by
  obtain ⟨x, h⟩ := trap_of (x := (hartTurn 0x10000000000000 1 id).hartRead 63
    ((hartTurn 0x10000000000000 1 id).hartAt 63) 0x10000000000000 (24 * 1)) (by decide +kernel)
  exact ⟨hartTurn 0x10000000000000 1 id, _, x, rfl, rfl, by decide +kernel, by decide +kernel, by decide +kernel, by decide +kernel,
    by decide +kernel, h⟩

theorem test_HostelRuns_box_waits : ∃ (s : State) (t : Hart), mgetD s.harts 63 Hart.reset = t ∧ s.turn = .hart 63 ∧
    t.mode ≠ 0 ∧ t.virt = false ∧ (t.reg 2).toNat < 64 ∧ (t.reg 2).toNat % 32 ≤ 16 ∧ (t.reg 1).toNat % 64 = 0 ∧
    s.hartRead 63 t (t.reg 1) (24 * ((t.reg 2).toNat % 32)) = .wait :=
  ⟨hartTurn 0x20000 1 id, _, rfl, rfl, by decide +kernel, by decide +kernel, by decide +kernel, by decide +kernel,
    by decide +kernel, wait_of (by decide +kernel)⟩

theorem test_HostelRuns_box_refused : ∃ (s : State) (t : Hart), mgetD s.harts 63 Hart.reset = t ∧ s.turn = .hart 63 ∧
    (t.mode = 0 ∨ t.virt = true) := ⟨hartTurn 0 0 fun t => { t with mode := 0 }, _, rfl, rfl, .inl rfl⟩

theorem unmirrored_none {s : State} (h : s.windows = []) (a n : Nat) : Unmirrored s a n := by
  intro w hw
  simp [h] at hw

theorem test_HostelRuns_access : ∃ (s s1 s2 : State) (t : Hart) (va : Word) (n pa : Nat), mgetD s.harts 63 Hart.reset = t ∧ 1 ≤ n ∧
    n ≤ 8 ∧ t.mode = 3 ∧ t.mstatus.getLsbD 17 = false ∧ va.toNat = pa ∧ pa % 4096 + n ≤ 4096 ∧ isDevice pa = true ∧
    isDevice (pa + (n - 1)) = true ∧ reserved pa = false ∧ s.bad = [] ∧ Unmirrored s pa n ∧ released s 63 ∧
    (∀ x ∈ s.hops, x.hart ≠ 63) ∧ s.blocked 4 false (sectorsAt pa n) = false ∧
    s1 = s.ownAll 4 false (sectorsAt pa n) ∧ s1.bad = [] ∧ s.blocked 4 true (sectorsAt pa n) = false ∧
    s2 = s.ownAll 4 true (sectorsAt pa n) ∧ s2.bad = [] ∧ t.resv ≠ some (pa, n) :=
  ⟨hartTurn 0 0 id, _, _, _, 0x10FF8, 8, _, rfl, by decide, by decide, rfl, rfl, rfl, by decide, by decide +kernel,
    by decide +kernel,
    by decide +kernel, rfl, unmirrored_none rfl _ _, ⟨by decide, .inr rfl, by decide⟩, by decide, by decide +kernel, rfl,
    by decide +kernel, by decide +kernel, rfl, by decide +kernel, by decide +kernel⟩

theorem test_HostelRuns_access_reserved : ∃ (s s1 : State) (t : Hart) (va : Word) (n pa : Nat), mgetD s.harts 63 Hart.reset = t ∧
    1 ≤ n ∧ n ≤ 8 ∧ t.mode = 3 ∧ t.mstatus.getLsbD 17 = false ∧ va.toNat = pa ∧ pa % 4096 + n ≤ 4096 ∧ isDevice pa = true ∧
    isDevice (pa + (n - 1)) = true ∧ reserved pa = false ∧ s.bad = [] ∧ Unmirrored s pa n ∧ released s 63 ∧
    (∀ x ∈ s.hops, x.hart ≠ 63) ∧ s.blocked 4 true (sectorsAt pa n) = false ∧
    s1 = s.ownAll 4 true (sectorsAt pa n) ∧ s1.bad = [] ∧ t.resv = some (pa, n) :=
  ⟨hartTurn 0 0 fun t => { t with resv := some (0x10FF8, 8) }, _, _, 0x10FF8, 8, _, rfl, by decide, by decide, rfl, rfl, rfl,
    by decide,
    by decide +kernel, by decide +kernel, by decide +kernel, rfl, unmirrored_none rfl _ _, ⟨by decide, .inr rfl, by decide⟩,
      by decide,
    by decide +kernel, rfl, by decide +kernel, rfl⟩

theorem test_HostelRuns_access_waits : ∃ (s : State) (t : Hart) (va : Word) (n pa : Nat), mgetD s.harts 63 Hart.reset = t ∧
    1 ≤ n ∧ n ≤ 8 ∧ t.mode = 3 ∧ t.mstatus.getLsbD 17 = false ∧ va.toNat = pa ∧ pa % 4096 + n ≤ 4096 ∧ isDevice pa = true ∧
    isDevice (pa + (n - 1)) = true ∧ reserved pa = false ∧ s.bad = [] ∧ Unmirrored s pa n ∧ released s 63 ∧
    (∀ x ∈ s.hops, x.hart ≠ 63) ∧ s.blocked 4 true (sectorsAt pa n) = true :=
  ⟨hostelHas [] (hartTurn 0 0 id), _, 0x10FF8, 8, _, rfl, by decide, by decide, rfl, rfl, rfl, by decide,
    by decide +kernel, by decide +kernel, by decide +kernel, rfl, unmirrored_none rfl _ _, ⟨by decide, .inr rfl, by decide⟩,
      by decide,
    by decide +kernel⟩

theorem test_HostelRuns_held : ∃ s : State, ¬ released s 63 :=
  ⟨{ base with retiredHarts := [63] }, fun h => h.2.2 (by decide)⟩

theorem test_HostelRuns_access_behind : ∃ s : State, released s 63 ∧ ∃ x ∈ s.hops, x.hart = 63 :=
  ⟨{ base with hops := [⟨63, .store, 0, 8, 0⟩] }, ⟨by decide, .inr rfl, by decide⟩, _, .head _, rfl⟩

/-- A hart in U-mode whose one window ends a byte short of 0x10008. -/
def windowed : Hart := { Hart.reset with mode := 0, boxed := true, windows := [(0x10000, 0x10007, 7)] }

theorem test_HostelRuns_windows : ∃ (s : State) (t : Hart) (va : Word), mgetD s.harts 63 Hart.reset = t ∧ t.mode = 0 ∧
    t.boxed = true ∧ released s 63 ∧ (∀ x ∈ s.hops, x.hart ≠ 63) ∧
    ∀ w ∈ t.windows, ¬ (w.1.toNat ≤ va.toNat ∧ va.toNat + 8 ≤ w.2.1.toNat ∧ Nat.land w.2.2.toNat 1 = 1) := by
  refine ⟨{ base with harts := [(63, windowed)] }, windowed, 0x10000, rfl, rfl, rfl, ⟨by decide, .inr rfl, by decide⟩, by decide,
    ?_⟩
  intro w hw
  have : w = (0x10000, 0x10007, 7) := List.mem_singleton.1 hw
  subst this
  decide

theorem test_HostelRuns_mailbox : ∃ (s : State) (t : Hart) (v : Word), mgetD s.harts 63 Hart.reset = t ∧
    (t.mode = 3 ∨ t.mode = 1 ∧ t.virt = false) ∧ t.mbcfg.getLsbD 16 = false ∧ v.toNat / 65536 % 2 = 0 ∧ v.toNat % 32 ≤ 16 ∧
    v.toNat < 2 ^ 48 :=
  ⟨hartTurn 0 0 fun t => { t with mode := 1 }, _, 0x2FF10, rfl, .inr ⟨rfl, rfl⟩, by decide +kernel, by decide, by decide, by decide⟩

theorem test_HostelRuns_signing : ∃ (s : State) (t : Hart) (v : Word), mgetD s.harts 63 Hart.reset = t ∧
    (t.mode = 3 ∨ t.mode = 1 ∧ t.virt = false) ∧ 2 ^ 48 ≤ v.toNat :=
  ⟨hartTurn 0 0 id, _, 0x1000000000000, rfl, .inl rfl, by decide⟩

theorem test_HostelRuns_mailbox_same : ∃ (s : State) (t : Hart) (v : Word), mgetD s.harts 63 Hart.reset = t ∧
    (t.mode = 3 ∨ t.mode = 1 ∧ t.virt = false) ∧ v.toNat % 32 ≤ 16 ∧ ((v &&& 0x3FF1F) ||| 0x10000 = t.mbcfg) ∧
    v.toNat / 65536 % 2 = 1 ∧ isDevice t.mbbase.toNat = true ∧ t.mbcfg.getLsbD 16 = true :=
  ⟨hartTurn 0 0 fun t => { t with mbbase := 0x30000, mbcfg := 0x10100 }, _, 0x10100, rfl, .inl rfl, by decide, by decide, by decide,
    by decide +kernel, by decide⟩

theorem test_HostelRuns_mailbox_locked : ∃ (s : State) (t : Hart) (v w : Word), mgetD s.harts 63 Hart.reset = t ∧
    (t.mode = 3 ∨ t.mode = 1 ∧ t.virt = false) ∧ t.mbcfg.getLsbD 16 = true ∧ v &&& 0xFFFFFFFFFFFC0 ≠ t.mbbase ∧
    (w &&& 0x3FF1F) ||| 0x10000 ≠ t.mbcfg :=
  ⟨hartTurn 0 0 fun t => { t with mbbase := 0x30000, mbcfg := 0x10100 }, _, 0x40000, 0x10101, rfl, .inl rfl, by decide, by decide,
    by decide⟩

theorem test_HostelRuns_mailbox_user : ∃ (s : State) (t : Hart), mgetD s.harts 63 Hart.reset = t ∧
    (t.mode = 0 ∨ t.mode = 1 ∧ t.virt = true) := ⟨hartTurn 0 0 fun t => { t with mode := 0 }, _, rfl, .inl rfl⟩

theorem test_HostelRuns_mailbox_refused : ∃ (s : State) (t : Hart) (v : Word), mgetD s.harts 63 Hart.reset = t ∧
    (t.mode = 3 ∨ t.mode = 1 ∧ t.virt = false) ∧ v.toNat / 65536 % 2 = 1 ∧ isDevice t.mbbase.toNat = false :=
  ⟨hartTurn 0 0 fun t => { t with mbbase := 0x8000000000000 }, _, 0x10000, rfl, .inl rfl, by decide, by decide +kernel⟩

theorem test_HostelRuns_drive : ∃ (s : State) (pa : Nat) (bs : List Byte), bs ≠ [] ∧
    (∀ i, i < bs.length → isDevice (pa + i) = true ∧ reserved (pa + i) = false) ∧
    s.windows = [] ∧ (∀ sec, pa / 64 ≤ sec → sec ≤ (pa + (bs.length - 1)) / 64 → s.idle sec = true) ∧ s.bad = [] :=
  ⟨base, 0x10000, [1], by decide, fun i h => by have : i = 0 := by simpa using h
                                                subst this; decide +kernel, rfl, fun sec h1 h2 => by rfl, rfl⟩

theorem test_HostelRuns_drive_waits : ∃ (s : State) (pa : Nat) (bs : List Byte), bs ≠ [] ∧
    (∀ i, i < bs.length → isDevice (pa + i) = true ∧ reserved (pa + i) = false) ∧ pa % 64 + bs.length ≤ 64 ∧
    s.idle (pa / 64) = false :=
  ⟨homeBusy base, 0x10000, [1], by decide, fun i h => by have : i = 0 := by simpa using h
                                                         subst this; decide +kernel, by decide, by decide +kernel⟩

theorem test_HostelRuns_drive_outside : ∃ (pa : Nat) (bs : List Byte), bs ≠ [] ∧
    ∃ i, i < bs.length ∧ (isDevice (pa + i) = false ∨ reserved (pa + i) = true) :=
  ⟨2 ^ 51, [1], by decide, 0, by decide, .inl (by decide +kernel)⟩

/-! ### Coherence and the page agent -/

/-- A package after its boot in which nothing but `f` is due. -/
def due (f : State → State) : State :=
  f { State.reset with agenda := [], boot := { State.reset.boot with phase := 2 }, now := 1 }

theorem test_HomesServeSectors_last : ∃ (s s1 : State) (kind : ReqKind) (a : Ask), kind ≠ .evict ∧ s1 = s.countAccess 5 0x10000 ∧
    a = asking s1 5 0x10000 (decide (kind ≠ .read)) [] ∧
    (∀ b ∈ s1.asks, ¬ (b.who = 6 ∧ b.sec / 2 = 0x400 / 2 ∧ s1.pageState (b.sec / 64) % 2 = 1)) ∧
    ∀ b ∈ s1.asks, b.sec = 0x400 → b.at_ = a.at_ → b.begun = false → b.who ≤ 5 :=
  ⟨base, _, .read, _, by decide, rfl, rfl, by decide +kernel, by decide +kernel⟩

/-- A request of holder `who` that waits at the home of the sector at 0x10000. -/
def queuedAsk (who : Nat) : Ask := { asked 0x400 who [] with begun := false }

theorem test_HomesServeSectors_before : ∃ (s s1 : State) (kind : ReqKind) (a b : Ask) (l r : List Ask), kind ≠ .evict ∧
    s1 = s.countAccess 0 0x10000 ∧ a = asking s1 0 0x10000 (decide (kind ≠ .read)) [] ∧ s1.asks = l ++ b :: r ∧ b.sec = 0x400 ∧
    b.at_ = a.at_ ∧ b.begun = false ∧ 0 < b.who ∧ ∀ x ∈ l, x.sec = 0x400 → x.at_ = a.at_ → x.begun = false → x.who ≤ 0 :=
  ⟨{ base with asks := [queuedAsk 5] }, _, .read, _, queuedAsk 5, [], [], by decide, rfl, rfl, by decide +kernel, rfl,
    by decide +kernel, rfl, by decide, by decide⟩

/-- A recall of the sector at 0x10000, whose frame is in host bias, and that the host has yet to answer. -/
def recalling : State :=
  { base with asks := [asked 0x400 6 [5]], mem := base.mem.writeLE (0x1FE00000000 + 8 * 16) 8 1 }

/-- The recalls that a request of the host for the line at 0x10000 meets. -/
def met (s1 : State) (b : Ask) : Bool := b.who == 6 && b.sec / 2 == 0x200 && s1.pageState (b.sec / 64) % 2 == 1

theorem test_HomesServeSectors_host_first : ∃ (s s1 : State) (kind : ReqKind) (a : Ask) (hit : Ask → Bool), kind ≠ .evict ∧
    s1 = s.countAccess 5 0x10040 ∧ a = asking s1 5 0x10040 (decide (kind ≠ .read)) [] ∧
    (∀ b, hit b = true ↔ b.who = 6 ∧ b.sec / 2 = 0x401 / 2 ∧ s1.pageState (b.sec / 64) % 2 = 1) ∧ ∃ b ∈ s1.asks, hit b = true :=
  ⟨recalling, _, .read, _, met (recalling.countAccess 5 0x10040), by decide, rfl, rfl,
    fun b => by simp [met, and_assoc], by decide +kernel⟩

theorem test_HomesServeSectors_next : ∃ (s : State) (a : Ask), s.nextAsk = some a :=
  ⟨{ base with asks := [queuedAsk 5] }, queuedAsk 5, by decide +kernel⟩

/-- A package whose die 1 has modified the sector at 0x10000, and at its home a request of the host. -/
def serving1 (dir : SMap (List Moesi)) : State :=
  { State.reset with agenda := [], boot := { State.reset.boot with phase := 2 }, dir := dir, asks := [queuedAsk 5], now := 1 }

theorem test_HomesServeSectors_serves : ∃ (s : State) (a : Ask), s.turn = .sched ∧ s.nextJob = .serve a ∧ s.needs a = [] :=
  ⟨serving1 [], queuedAsk 5, rfl, by decide +kernel, by decide +kernel⟩

theorem test_HomesServeSectors_asks : ∃ (s : State) (a : Ask), s.turn = .sched ∧ s.nextJob = .serve a ∧ s.needs a ≠ [] :=
  ⟨serving1 [(0x400, [.i, .m, .i, .i, .i, .i])], queuedAsk 5, rfl, by decide +kernel, by decide +kernel⟩

theorem test_HomesServeSectors_answers : ∃ (s : State) (j : Nat) (a : Ask),
    (s.asks.find? fun x => x.sec == 0x400 && x.begun && x.acks.contains j) = some a ∧ a.granted = false ∧ ∀ x ∈ a.acks, x = j :=
  ⟨{ base with asks := [asked 0x400 0 [1]] }, 1, _, rfl, rfl, by decide⟩

theorem test_HomesServeSectors_answers_more : ∃ (s : State) (j : Nat) (a : Ask),
    (s.asks.find? fun x => x.sec == 0x400 && x.begun && x.acks.contains j) = some a ∧ a.granted = false ∧ ∃ x ∈ a.acks, x ≠ j :=
  ⟨{ base with asks := [asked 0x400 0 [1, 5]] }, 1, _, rfl, rfl, 5, by decide, by decide⟩

theorem test_HomesServeSectors_answers_closed : ∃ (s : State) (j : Nat) (a : Ask),
    (s.asks.find? fun x => x.sec == 0x400 && x.begun && x.acks.contains j) = some a ∧ a.granted = true ∧ ∀ x ∈ a.acks, x = j :=
  ⟨{ base with asks := [{ asked 0x400 0 [1] with granted := true }] }, 1, _, rfl, rfl, by decide⟩

theorem test_HomesServeSectors_none : ∃ (s : State) (j : Nat), j < 6 ∧ ∀ x ∈ s.asks, x.sec = 0x400 → x.begun = true → j ∉ x.acks :=
  ⟨base, 3, by decide, by decide⟩

theorem test_HomesServeSectors_grants : ∃ (s : State) (a : Ask), a.who < 6 ∧ a.bytes = [] ∧ s.bad = [] ∧ a.excl = true ∧
    (∃ b : Ask, b.who < 6 ∧ b.bytes = [] ∧ b.excl = false ∧ ∀ j, j < 6 → j ≠ b.who → dirState s b.sec j = .i) ∧
    (∃ u : State, ∃ b : Ask, b.who < 6 ∧ b.bytes = [] ∧ b.excl = false ∧ dirState u b.sec b.who = .i ∧
      ∃ j, j < 6 ∧ j ≠ b.who ∧ dirState u b.sec j ≠ .i) :=
  ⟨serving1 [], queuedAsk 5, by decide, rfl, rfl, rfl, ⟨{ queuedAsk 5 with excl := false }, by decide, rfl, rfl, by decide +kernel⟩,
    serving1 [(0x400, [.i, .s, .i, .i, .i, .i])], { queuedAsk 5 with excl := false }, by decide, rfl, rfl, by decide +kernel, 1,
    by decide, by decide, by decide +kernel⟩

theorem test_HomesServeSectors_host_writes : ∃ (s : State) (a : Ask), a.who = 5 ∧ a.excl = true ∧ a.bytes ≠ [] ∧
    reserved a.pa = false ∧ barOf a.pa = none ∧ Unmirrored s a.pa a.bytes.length :=
  ⟨base, { queuedAsk 5 with bytes := [1] }, rfl, rfl, by decide, by decide +kernel, by decide +kernel, unmirrored_none rfl _ _⟩

theorem test_HomesServeSectors_drive : ∃ (s : State) (a : Ask), a.who = 7 ∧ a.excl = false ∧ s.bad = [] :=
  ⟨base, { queuedAsk 7 with excl := false }, rfl, rfl, rfl⟩

theorem test_HomesServeSectors_written : ∃ (s : State) (a : Ask),
    (s.asks.find? fun x => x.sec == 0x400 && x.begun && !x.granted && x.acks == [3]) = some a :=
  ⟨{ base with asks := [asked 0x400 0 [3]] }, _, rfl⟩

theorem test_HomesServeSectors_written_alone : ∃ s : State,
    ∀ x ∈ s.asks, ¬ (x.sec = 0x400 ∧ x.begun = true ∧ x.granted = false ∧ x.acks = [3]) := ⟨base, by decide⟩

/-- The record of frame 16 holds `v`. -/
def framed (v : Nat) (flips : List Nat) : State :=
  { base with mem := base.mem.writeLE (0x1FE00000000 + 8 * 16) 8 v, flips := flips, dir := [] }

theorem test_PageRecordsFlip_fails : ∃ (s : State) (old : Word) (v : Nat), v = s.mem.readLE (0x1FE00000000 + 8 * 16) 8 ∧
    v ≠ old.toNat :=
  ⟨framed 1 [], 0, 1, by decide +kernel, by decide⟩

theorem test_PageRecordsFlip_writes : ∃ (s : State) (old new : Word) (v k : Nat), v = s.mem.readLE (0x1FE00000000 + 8 * 16) 8 ∧
    k = v % 2 + new.toNat / 2 % 2 * 2 + v / 4 % 4 * 4 + new.toNat / 16 % 4096 * 16 ∧ v = old.toNat ∧
    (k / 2 % 2 = k % 2 ∨ k / 4 % 4 ≠ 0) :=
  ⟨framed 1 [], 1, 0xFFF3, 1, 0xFFF3, by decide +kernel, by decide, rfl, by decide⟩

theorem test_PageRecordsFlip_begins : ∃ (s : State) (old new : Word) (v k : Nat), v = s.mem.readLE (0x1FE00000000 + 8 * 16) 8 ∧
    k = v % 2 + new.toNat / 2 % 2 * 2 + v / 4 % 4 * 4 + new.toNat / 16 % 4096 * 16 ∧ v = old.toNat ∧ k / 2 % 2 ≠ k % 2 ∧
      k / 4 % 4 = 0 :=
  ⟨framed 3 [], 3, 0x11, 3, 0x11, by decide +kernel, by decide, rfl, by decide, by decide⟩

/-- The host has the sector at 0x10040 of the frame, which goes to the devices. -/
def losing (flips : List Nat) (v : Nat) : State := { framed v flips with dir := [(0x401, [.i, .i, .i, .i, .i, .m])] }

theorem test_PageRecordsFlip_recalls : ∃ (s : State) (old new : Word) (v k : Nat), v = s.mem.readLE (0x1FE00000000 + 8 * 16) 8 ∧
    k = v % 2 + new.toNat / 2 % 2 * 2 + v / 4 % 4 * 4 + new.toNat / 16 % 4096 * 16 ∧ v = old.toNat ∧ k / 2 % 2 ≠ k % 2 ∧
    k / 4 % 4 = 0 ∧ ∃ e ∈ s.dir, e.1 / 64 = 16 ∧ e.1 ≠ (0x1FE00000000 + 8 * 16) / 64 ∧ ∃ j, loses (k % 2) j ∧
      dirState s e.1 j ≠ .i :=
  ⟨losing [] 3, 3, 0x11, 3, 0x11, by decide +kernel, by decide, rfl, by decide, by decide, _, .head _, by decide, by decide, 5,
    rfl, by decide +kernel⟩

theorem test_PageRecordsFlip_idle : ∃ s : State, 16 ∉ s.flips := ⟨base, by decide⟩

theorem test_PageRecordsFlip_admitted : ∃ s : State, 16 ∈ s.flips ∧ ∃ a ∈ s.asks, a.sec / 64 = 16 ∧ a.adm = true :=
  ⟨{ framed 5 [16] with asks := [asked 0x400 0 [1]] }, by decide, _, .head _, by decide, rfl⟩

theorem test_PageRecordsFlip_recalls_again : ∃ (s : State) (v : Nat), v = s.mem.readLE (0x1FE00000000 + 8 * 16) 8 ∧ 16 ∈ s.flips ∧
    (∃ a ∈ s.asks, a.sec / 64 = 16 ∧ a.adm = true) ∧ ∃ e ∈ s.dir, e.1 / 64 = 16 ∧ ∃ j, loses (v % 2) j ∧ dirState s e.1 j ≠ .i :=
  ⟨{ losing [16] 5 with asks := [asked 0x400 0 [1]] }, 5, by decide +kernel, by decide, ⟨_, .head _, by decide, rfl⟩, _, .head _,
    by decide, 5, rfl, by decide +kernel⟩

theorem test_PageRecordsFlip_ends : ∃ (s : State) (v : Nat), v = s.mem.readLE (0x1FE00000000 + 8 * 16) 8 ∧ 16 ∈ s.flips ∧
    (∀ a ∈ s.asks, a.sec / 64 = 16 → a.adm = false) ∧
    (∀ e ∈ s.dir, e.1 / 64 = 16 → ∀ j, loses (v % 2) j → dirState s e.1 j = .i) ∧ v / 2 % 2 ≠ v % 2 :=
  ⟨framed 5 [16], 5, by decide +kernel, by decide, by decide, by (intro e he; cases he), by decide⟩

theorem test_PageRecordsFlip_turns_again : ∃ (s : State) (v : Nat), v = s.mem.readLE (0x1FE00000000 + 8 * 16) 8 ∧ 16 ∈ s.flips ∧
    (∀ a ∈ s.asks, a.sec / 64 = 16 → a.adm = false) ∧
    (∀ e ∈ s.dir, e.1 / 64 = 16 → ∀ j, loses (v % 2) j → dirState s e.1 j = .i) ∧ v / 2 % 2 = v % 2 ∧ v / 8 % 2 = 0 :=
  ⟨framed 7 [16], 7, by decide +kernel, by decide, by decide, by (intro e he; cases he), by decide, by decide⟩

/-- Die 0 has the sectors `secs`. -/
def dieHas (secs : List Nat) (s : State) : State := { s with dir := secs.map fun x => (x, [.s, .i, .i, .i, .i, .i]) }

/-- A context that walks for an address, in the address space of `serving`, whose tables its die holds. -/
def walker (va : Word) (want : Want) : State :=
  let s := dieHas [0x1000, 0x2000] (serving 0 0 0 0)
  { s with ctx := { s.ctx with block := .walk va want 0, root := 0x40000 } }

/-- The entry at 0x80000, which maps the first gigabyte, is `e`. -/
def leafIs (e : Nat) : State := let s := walker 0 .read; { s with mem := s.mem.writeLE 0x80000 8 e }

theorem test_PagesMove_walk_table : ∃ (s : State) (tab : Nat), tableAfter s.mem 0 0x40008 0 = some tab ∧ tableGood 3 tab = false :=
  ⟨base, 0x40008, rfl, by decide +kernel⟩

theorem test_PagesMove_walk_page : ∃ (s : State) (tab loc e : Nat), tableAfter s.mem 0x40000000 0x40000 1 = some tab ∧
    loc = entryLoc 0x40000000 2 tab ∧ e = s.mem.readLE loc 8 ∧ tableGood 2 tab = true ∧ e % 2 = 0 ∧ 2 ≠ 0 :=
  ⟨leafIs 0x3F, 0x80000, _, _, by decide +kernel, rfl, rfl, by decide +kernel, by decide +kernel, by decide⟩

theorem test_PagesMove_walk_pointer : ∃ (s : State) (tab loc e : Nat), tableAfter s.mem 0 0x40000 1 = some tab ∧
    loc = entryLoc 0 2 tab ∧ e = s.mem.readLE loc 8 ∧ tableGood 2 tab = true ∧ e % 4 = 1 ∧ e / 4 % 2 ^ 18 ≠ 0 :=
  ⟨leafIs 5, 0x80000, _, _, by decide +kernel, rfl, rfl, by decide +kernel, by decide +kernel, by decide +kernel⟩

theorem test_PagesMove_walk_leaf : ∃ (s : State) (tab loc e : Nat), tableAfter s.mem 0 0x40000 1 = some tab ∧
    loc = entryLoc 0 2 tab ∧ e = s.mem.readLE loc 8 ∧ tableGood 2 tab = true ∧ e % 4 = 3 ∧ leafBad s.mem 2 loc e = false ∧
    leafLets e .write false = true :=
  ⟨leafIs 0x3F, 0x80000, _, _, by decide +kernel, rfl, rfl, by decide +kernel, by decide +kernel, by decide +kernel,
    by decide +kernel⟩

theorem test_PagesMove_walk_denied : ∃ (s : State) (tab loc e : Nat), tableAfter s.mem 0 0x40000 1 = some tab ∧
    loc = entryLoc 0 2 tab ∧ e = s.mem.readLE loc 8 ∧ tableGood 2 tab = true ∧ e % 4 = 3 ∧ leafBad s.mem 2 loc e = false ∧
    leafLets e .write false = false :=
  ⟨leafIs 0x37, 0x80000, _, _, by decide +kernel, rfl, rfl, by decide +kernel, by decide +kernel, by decide +kernel,
    by decide +kernel⟩

theorem test_PagesMove_walk_bad : ∃ (s : State) (tab loc e : Nat), tableAfter s.mem 0 0x40000 1 = some tab ∧
    loc = entryLoc 0 2 tab ∧ e = s.mem.readLE loc 8 ∧ tableGood 2 tab = true ∧ e % 4 = 3 ∧ leafBad s.mem 2 loc e = true :=
  ⟨leafIs (0x3F + 2 ^ 60), 0x80000, _, _, by decide +kernel, rfl, rfl, by decide +kernel, by decide +kernel, by decide +kernel⟩

theorem test_PagesMove_leaf : ∃ (s : State) (c : Ctx) (t : Tlb) (pa : Nat) (g : BitVec 12), s.ctxAt 0 = some c ∧
    c.block = .walk 0x3FFFFFFF .write 0 ∧
    s.blocked (dieOf (0 / 4)) false (s.walkSecs c.root.toNat (0x3FFFFFFF : Word).toNat) = false ∧ s.bad = [] ∧
    s.walk c.root.toNat c.asid.toNat (0x3FFFFFFF : Word).toNat = .leaf t ∧
    (s.walk c.root.toNat c.asid.toNat (0x3FFFFFFF : Word).toNat).use (0x3FFFFFFF : Word).toNat .write c.priv = .ok pa g :=
  ⟨walker 0x3FFFFFFF .write, _,
    { asid := 1, base := 0, size := 2 ^ 30, pa := 0, gen := 0, r := true, w := true, x := true, u := true },
    0x3FFFFFFF, 0, rfl, rfl, by decide +kernel, rfl, by decide +kernel, by decide +kernel⟩

theorem test_PagesMove_lacks : ∃ (s : State) (c : Ctx), s.ctxAt 0 = some c ∧ c.block = .walk 0x3FFFFFFF .write 0 ∧
    s.blocked (dieOf (0 / 4)) false (s.walkSecs c.root.toNat (0x3FFFFFFF : Word).toNat) = true :=
  ⟨dieHas [0x1000] (walker 0x3FFFFFFF .write), _, rfl, rfl, by decide +kernel⟩

theorem test_PagesMove_fault : ∃ (s s1 : State) (c c1 : Ctx) (cause : Nat) (b : Bool), s.ctxAt 0 = some c ∧
    c.block = .walk 0x40000000 .fetch 0 ∧
    s.blocked (dieOf (0 / 4)) false (s.walkSecs c.root.toNat (0x40000000 : Word).toNat) = false ∧ s.bad = [] ∧
    (s.walk c.root.toNat c.asid.toNat (0x40000000 : Word).toNat).use (0x40000000 : Word).toNat .fetch c.priv = .fault cause b ∧
    c.priv = false ∧ s1 = (s.putCtx 0 { c with block := .none, readyAt := s.now }).drain 0 ∧ s1.ctxAt 0 = some c1 := by
  generalize hs : ((walker 0x40000000 .fetch).putCtx 0
    { (walker 0x40000000 .fetch).ctx with block := .none, readyAt := (walker 0x40000000 .fetch).now }).drain 0 = s1
  have h : (s1.ctxAt 0).isSome = true := by
    rw [← hs]
    decide +kernel
  obtain ⟨c1, h1⟩ := some_val h
  exact ⟨walker 0x40000000 .fetch, s1, _, c1, 11, false, rfl, rfl, by decide +kernel, rfl, by decide +kernel, rfl, hs.symm, h1⟩

theorem test_PagesMove_cache : ∃ (s : State) (c : Ctx) (cause : Nat) (b : Bool), s.ctxAt 0 = some c ∧
    c.block = .walk 0x80000000 .cache 0 ∧
    s.blocked (dieOf (0 / 4)) false (s.walkSecs c.root.toNat (0x80000000 : Word).toNat) = false ∧ s.bad = [] ∧ cause ≠ 11 ∧
    (s.walk c.root.toNat c.asid.toNat (0x80000000 : Word).toNat).use (0x80000000 : Word).toNat .cache c.priv = .fault cause b := by
  let s := walker 0x80000000 .cache
  exact ⟨{ s with mem := s.mem.writeLE 0x80010 8 (0x3F + 2 ^ 51) }, _, 12, true, rfl, rfl, by decide +kernel, rfl, by decide,
    by decide +kernel⟩

/-- The page at 0x40000000 in a grow region whose descriptor at 0xD0000 has `n` frames, the last of them `f`. -/
def growFrom (n f : Nat) : State :=
  let s := walker 0x40000000 .write
  { s with mem := ((((((s.mem.writeLE 0x80008 8 (1 + 0xC0 * 2 ^ 20)).writeLE 0xC0000 8 (1 + 0xC1 * 2 ^ 20)).writeLE 0xC1000 8
      (0x80 + 0xD0000)).writeLE 0xD0018 8 0xD1000).writeLE 0xD0020 4 n).writeLE 0xD1000 8 f) }

/-- The same with one frame, 0x100000. -/
def growing : State := growFrom 1 0x100000

theorem test_PagesMove_walk_grow : ∃ (s : State) (tab loc e : Nat), tableAfter s.mem 0x40000000 0x40000 3 = some tab ∧
    loc = entryLoc 0x40000000 0 tab ∧ e = s.mem.readLE loc 8 ∧ tableGood 0 tab = true ∧ e % 2 = 0 ∧ e / 2 ^ 7 % 2 = 1 :=
  ⟨growing, 0xC1000, _, _, by decide +kernel, rfl, rfl, by decide +kernel, by decide +kernel, by decide +kernel⟩

theorem test_PagesMove_grow : ∃ (s : State) (c : Ctx) (pc pp pf n f : Nat) (x : Nat → Xl), s.ctxAt 0 = some c ∧
    c.block = .walk 0x40000000 .write 0 ∧
    s.walk c.root.toNat c.asid.toNat (0x40000000 : Word).toNat = .grow 0xC1000 0xD0000 ∧
    (∀ a, x a = s.xlateHub c.root.toNat c.asid.toNat a .read true) ∧ x (0xD0000 + 32) = .ok pc 0 ∧ n = s.mem.readLE pc 4 ∧ n ≠ 0 ∧
    x (0xD0000 + 24) = .ok pp 0 ∧ x (s.mem.readLE pp 8 + 8 * (n - 1)) = .ok pf 0 ∧ f = s.mem.readLE pf 8 ∧ f % 65536 = 0 ∧
    isDevice f = true ∧ f < 0x1FE00000000 :=
  ⟨growing, growing.ctx, 0xD0020, 0xD0018, 0xD1000, 1, 0x100000, fun a => growing.xlateHub 0x40000 1 a .read true, rfl, rfl,
    by decide +kernel, fun a => rfl, by decide +kernel, by decide +kernel, by decide, by decide +kernel, by decide +kernel,
    by decide +kernel, by decide, by decide +kernel, by decide⟩

theorem test_PagesMove_grow_empty : ∃ (s s1 : State) (c c1 : Ctx) (pc : Nat) (g : BitVec 12), s.ctxAt 0 = some c ∧
    c.block = .walk 0x40000000 .write 0 ∧
    s.walk c.root.toNat c.asid.toNat (0x40000000 : Word).toNat = .grow 0xC1000 0xD0000 ∧ c.priv = false ∧
    s1 = (s.putCtx 0 { c with block := .none, readyAt := s.now }).drain 0 ∧ s1.ctxAt 0 = some c1 ∧
    s.xlateHub c.root.toNat c.asid.toNat (0xD0000 + 32) .read true = .ok pc g ∧ s.mem.readLE pc 4 = 0 := by
  generalize hs : ((growFrom 0 0).putCtx 0 { (growFrom 0 0).ctx with block := .none, readyAt := (growFrom 0 0).now }).drain 0 = s1
  have h : (s1.ctxAt 0).isSome = true := by
    rw [← hs]
    decide +kernel
  obtain ⟨c1, h1⟩ := some_val h
  exact ⟨growFrom 0 0, s1, _, c1, 0xD0020, 0, rfl, rfl, by decide +kernel, rfl, hs.symm, h1, by decide +kernel, by decide +kernel⟩

theorem test_PagesMove_grow_bad : ∃ (s s1 : State) (c c1 : Ctx) (pc pp pf n f : Nat), s.ctxAt 0 = some c ∧
    c.block = .walk 0x40000000 .write 0 ∧
    s.walk c.root.toNat c.asid.toNat (0x40000000 : Word).toNat = .grow 0xC1000 0xD0000 ∧ c.priv = false ∧
    s1 = (s.putCtx 0 { c with block := .none, readyAt := s.now }).drain 0 ∧ s1.ctxAt 0 = some c1 ∧
    s.xlateHub c.root.toNat c.asid.toNat (0xD0000 + 32) .read true = .ok pc 0 ∧ n = s.mem.readLE pc 4 ∧ n ≠ 0 ∧
    s.xlateHub c.root.toNat c.asid.toNat (0xD0000 + 24) .read true = .ok pp 0 ∧
    s.xlateHub c.root.toNat c.asid.toNat (s.mem.readLE pp 8 + 8 * (n - 1)) .read true = .ok pf 0 ∧ f = s.mem.readLE pf 8 ∧
    f % 65536 ≠ 0 := by
  generalize hs : ((growFrom 1 4096).putCtx 0
    { (growFrom 1 4096).ctx with block := .none, readyAt := (growFrom 1 4096).now }).drain 0 = s1
  have h : (s1.ctxAt 0).isSome = true := by
    rw [← hs]
    decide +kernel
  obtain ⟨c1, h1⟩ := some_val h
  exact ⟨growFrom 1 4096, s1, _, c1, 0xD0020, 0xD0018, 0xD1000, 1, 4096, rfl, rfl, by decide +kernel, rfl, hs.symm, h1,
    by decide +kernel, by decide +kernel, by decide, by decide +kernel, by decide +kernel, by decide +kernel, by decide⟩

/-- A package in which region 1 is called for by die 3 and can move to it: its leaf line at 0x50000, a threshold of 1, one free
frame, one more migration allowed. -/
def migrating : State :=
  let l : List (Nat × Nat × Nat) := [(0x1FF00000030, 8, 0x50000), (0x1FF00000026, 2, 1), (0x1FF40000000, 4, 1),
    (0x1FF400000A0, 8, 0x60000), (0x1FF400000A8, 4, 1), (0x1FF400000B0, 8, 0x61000), (0x1FF400000BC, 4, 1), (0x60000, 8, 0x100000)]
  { due id with mem := l.foldl (fun m x => Mem.writeLE m x.1 x.2.1 x.2.2) [] }

theorem test_PagesMove_opens : ∃ (s : State) (d n : Nat), callsFor s 1 3 ∧ mayMove s 1 3 ∧ mget s.windows 1 = none ∧
    16 * 1 + 16 ≤ 2 ^ 29 ∧ d = 0x1FF40000000 + 64 + 32 * 3 ∧ n = s.mem.readLE (d + 8) 4 := by
  refine ⟨migrating, _, _, ⟨by decide +kernel, by decide, by decide +kernel, by decide +kernel, ?_⟩,
    ⟨by decide +kernel, by decide +kernel, by decide +kernel, by decide +kernel⟩, rfl, by decide, rfl, rfl⟩
  intro d h
  have h0 : dieHolding (65536 * 1) = some 0 := by decide +kernel
  rw [h0] at h
  cases h
  decide +kernel

theorem test_PagesMove_stays : ∃ s : State, ¬ (callsFor s 1 3 ∧ mayMove s 1 3) ∧ mget s.windows 1 = none :=
  ⟨due id, fun h => h.1.1 (by decide +kernel), rfl⟩

/-- The window of that migration, with `n` lines copied. -/
def window (n : Nat) (fenced : Bool) : Window :=
  { frame := 0x100000, die := 3, line := 0x50000, gen := 0, copied := n, fenced := fenced, due := 0 }

/-- The package with that window open, whose leaf line maps the region with `flags`. -/
def open_ (n : Nat) (fenced : Bool) (flags : Nat) : State :=
  { migrating with
    windows := [(1, window n fenced)]
    mem := (List.range 16).foldl (fun m i => m.writeLE (0x50000 + 8 * i) 8 (flags + (16 + i) * 2 ^ 20)) migrating.mem }

theorem test_PagesMove_copies : ∃ (s : State) (w : Window), s.turn = .sched ∧ s.nextJob = .migrateOn 1 ∧ mget s.windows 1 = some w ∧
    w.copied < 512 ∧ s.bad = [] := ⟨open_ 511 false 3, _, rfl, by decide +kernel, rfl, by decide, rfl⟩

theorem test_PagesMove_fences : ∃ (s : State) (w : Window), s.turn = .sched ∧ s.nextJob = .migrateOn 1 ∧ mget s.windows 1 = some w ∧
    512 ≤ w.copied ∧ w.fenced = false ∧ 16 * 1 + 16 ≤ 2 ^ 29 :=
  ⟨open_ 512 false 3, _, rfl, by decide +kernel, rfl, by decide, rfl, by decide⟩

theorem test_PagesMove_mirrors : ∃ (s : State) (w : Window) (pa : Nat) (bs : List Byte), s.windows = [(1, w)] ∧ bs ≠ [] ∧
    pa % 64 + bs.length ≤ 64 ∧ pa / 65536 = 1 ∧ isDevice pa = true ∧ reserved pa = false ∧ s.idle (pa / 64) = true :=
  ⟨open_ 1 false 3, _, 0x1FFFF, [1], rfl, by decide, by decide, by decide, by decide +kernel, by decide +kernel, by decide +kernel⟩

theorem test_PagesMove_not_done : ∃ (s : State) (w : Window), mget s.windows 1 = some w ∧ w.copied < 512 :=
  ⟨open_ 511 false 3, _, rfl, by decide⟩

theorem test_PagesMove_moves : ∃ (s : State) (w : Window) (d n p : Nat), mget s.windows 1 = some w ∧ 512 ≤ w.copied ∧
    16 * 1 + 16 ≤ 2 ^ 29 ∧ w.die < 4 ∧ d = 0x1FF40000000 + 64 + 32 * w.die ∧ w.line + 128 ≤ 0x1FE00000000 ∧
    (∀ i < 16, lineEntry s.mem w.line i % 4 = 3 ∧ lineEntry s.mem w.line i / 2 ^ 20 % 2 ^ 40 = 16 * 1 + i ∧
      lineEntry s.mem w.line i / 256 % 4096 = w.gen) ∧
    w.frame + 65536 ≤ 0x1FE00000000 ∧ w.frame % 65536 = 0 ∧ w.frame ≠ 65536 * 1 ∧
    (w.line + 128 ≤ w.frame ∨ w.frame + 65536 ≤ w.line) ∧ n = s.mem.readLE (d + 24) 4 ∧
    p = (s.mem.readLE (d + 16) 8 + 8 * n) % 2 ^ 52 ∧ p + 8 ≤ 0x1FE00000000 ∧ (p + 8 ≤ w.frame ∨ w.frame + 65536 ≤ p) ∧
    (p + 8 ≤ w.line ∨ w.line + 128 ≤ p) :=
  ⟨open_ 512 true 0x6F, _, _, 0, 0x61000, rfl, by decide, by decide, by decide, rfl, by decide, by decide +kernel, by decide,
    by decide,
    by decide, by decide, by decide +kernel, by decide +kernel, by decide, by decide, by decide⟩

theorem test_PagesMove_changed : ∃ (s : State) (w : Window) (d n p : Nat), mget s.windows 1 = some w ∧ 512 ≤ w.copied ∧
    16 * 1 + 16 ≤ 2 ^ 29 ∧ w.die < 4 ∧ d = 0x1FF40000000 + 64 + 32 * w.die ∧ w.line + 128 ≤ 0x1FE00000000 ∧
    (∃ i < 16, ¬ (lineEntry s.mem w.line i % 4 = 3 ∧ lineEntry s.mem w.line i / 2 ^ 20 % 2 ^ 40 = 16 * 1 + i ∧
      lineEntry s.mem w.line i / 256 % 4096 = w.gen)) ∧
    n = s.mem.readLE (d + 8) 4 ∧ p = (s.mem.readLE d 8 + 8 * n) % 2 ^ 52 ∧ p + 8 ≤ 0x1FE00000000 ∧
    (p + 8 ≤ w.line ∨ w.line + 128 ≤ p) ∧ w.frame < 2 ^ 64 :=
  ⟨open_ 512 true 0, _, _, 1, 0x60008, rfl, by decide, by decide, by decide, rfl, by decide, ⟨15, by decide, by decide +kernel⟩,
    by decide +kernel, by decide +kernel, by decide, by decide, by decide⟩

/-! ### Cellars, keys, boot, repair, power -/

/-- The package with `n` bytes of value `v` at `a`. -/
def holds (a n v : Nat) (s : State) : State := { s with mem := s.mem.writeLE a n v }

/-- A load of slot 127 whose staged routine is the one word ADDI s2, s2, 1. -/
def loading : State :=
  holds 0x1FF50010000 8 255 (holds (staging 127) 4 1 (holds (staging 127 + 256) 4 0x00C42001 base))

theorem test_AgentsAnswer_loads : ∃ (s : State) (v slot len st : Nat) (ws : List IWord), v = s.mem.readLE 0x1FF50010000 8 ∧
    slot = v % 128 ∧ st = 0x1FF50000000 + 512 * slot ∧ len = s.mem.readLE st 4 ∧ v / 128 % 2 = 1 ∧
    ws = (List.range len).map (fun i => BitVec.ofNat 32 (s.mem.readLE (st + 256 + 4 * i) 4)) ∧ len ≤ 64 ∧
    (∀ x, 4 ≤ x → x < 256 → s.mem.read (st + x) = 0) ∧ (∀ x, 256 + 4 * len ≤ x → x < 512 → s.mem.read (st + x) = 0) ∧
    ∀ i < len, routineWord len i ws[i]? := by
  have h1 : ∀ x < 256, 4 ≤ x → loading.mem.read (0x1FF50000000 + 512 * 127 + x) = 0 := by decide +kernel
  have h2 : ∀ x < 512, 260 ≤ x → loading.mem.read (0x1FF50000000 + 512 * 127 + x) = 0 := by decide +kernel
  refine ⟨loading, 255, 127, 1, 0x1FF50000000 + 512 * 127, [0x00C42001], by decide +kernel, rfl, rfl, by decide +kernel, by decide,
    by decide +kernel, by decide, fun x a b => h1 x b a, fun x a b => h2 x b a, ?_⟩
  intro i hi
  obtain rfl : i = 0 := by omega
  exact ⟨_, .addi 0 2 2 1, rfl, by decide +kernel, trivial⟩

theorem test_AgentsAnswer_empties : ∃ (s : State) (v slot st : Nat), v = s.mem.readLE 0x1FF50010000 8 ∧ slot = v % 128 ∧
    st = 0x1FF50000000 + 512 * slot ∧ 0 = s.mem.readLE st 4 ∧ v / 128 % 2 = 1 ∧
    (∀ x, 4 ≤ x → x < 256 → s.mem.read (st + x) = 0) ∧ ∀ x, 256 ≤ x → x < 512 → s.mem.read (st + x) = 0 := by
  have h : ∀ x < 512, (holds 0x1FF50010000 8 255 base).mem.read (0x1FF50000000 + 512 * 127 + x) = 0 := by decide +kernel
  exact ⟨holds 0x1FF50010000 8 255 base, 255, 127, _, by decide +kernel, rfl, rfl, by decide +kernel, by decide,
    fun x _ b => h x (by omega), fun x _ b => h x b⟩

theorem test_AgentsAnswer_idle : ∃ (s : State) (v : Nat), v = s.mem.readLE 0x1FF50010000 8 ∧ v / 128 % 2 = 0 :=
  ⟨holds 0x1FF50010000 8 127 base, 127, by decide +kernel, by decide⟩

theorem test_AgentsAnswer_refused : ∃ (s : State) (v slot len st : Nat), v = s.mem.readLE 0x1FF50010000 8 ∧ slot = v % 128 ∧
    st = 0x1FF50000000 + 512 * slot ∧ len = s.mem.readLE st 4 ∧ v / 128 % 2 = 1 ∧ 64 < len :=
  ⟨holds 0x1FF50010000 8 255 (holds (staging 127) 4 65 base), 255, 127, 65, _, by decide +kernel, rfl, rfl, by decide +kernel,
    by decide, by decide⟩

theorem test_AgentsAnswer_refused_byte : ∃ (s : State) (v slot st : Nat), v = s.mem.readLE 0x1FF50010000 8 ∧ slot = v % 128 ∧
    st = 0x1FF50000000 + 512 * slot ∧ v / 128 % 2 = 1 ∧ ∃ x, 4 ≤ x ∧ x < 256 ∧ s.mem.read (st + x) ≠ 0 :=
  ⟨holds 0x1FF50010000 8 255 (holds (staging 127 + 255) 1 1 base), 255, 127, _, by decide +kernel, rfl, rfl, by decide, 255,
    by decide,
    by decide, by decide +kernel⟩

theorem test_AgentsAnswer_refused_word : ∃ (s : State) (v slot len st : Nat) (ws : List IWord), v = s.mem.readLE 0x1FF50010000 8 ∧
    slot = v % 128 ∧ st = 0x1FF50000000 + 512 * slot ∧ len = s.mem.readLE st 4 ∧ v / 128 % 2 = 1 ∧
    ws = (List.range len).map (fun i => BitVec.ofNat 32 (s.mem.readLE (st + 256 + 4 * i) 4)) ∧
    ∃ i < len, ¬ routineWord len i ws[i]? := by
  refine ⟨holds 0x1FF50010000 8 255 (holds (staging 127) 4 1 base), 255, 127, 1, _, [0], by decide +kernel, rfl, rfl,
    by decide +kernel,
    by decide, by decide +kernel, 0, by decide, ?_⟩
  rintro ⟨x, i, hx, hd, _⟩
  obtain rfl : (0 : IWord) = x := Option.some.inj hx
  exact absurd hd (by rw [show decode 0 = none from by decide +kernel]; simp)

/-- A request of the key table: operation, handle `h`, and the second key's first byte. -/
def keyed (op h v : Nat) : State := holds 0x1FF60000030 1 v (holds 0x1FF60000000 4 (h + 65536 * op) base)

theorem test_AgentsAnswer_no_request : ((base.mem.read 0x1FF60000002).toNat) = 0 := by decide +kernel

theorem test_AgentsAnswer_keys : ∀ op < 3, op ≠ 0 → ∃ (s : State) (hd : Nat), op = (s.mem.read 0x1FF60000002).toNat ∧
    hd = s.mem.readLE 0x1FF60000000 2 ∧ ¬ (hd = 0 ∨ 4096 ≤ hd ∨
      (∃ x, (4 ≤ x ∧ x < 16 ∨ 80 ≤ x ∧ x < 128) ∧ s.mem.read (0x1FF60000000 + x) ≠ 0) ∨
      s.mem.readBytes 0x1FF60000010 32 = s.mem.readBytes 0x1FF60000030 32) := by
  intro op h1 h2
  have h : ∀ x < 128, (4 ≤ x ∧ x < 16 ∨ 80 ≤ x ∧ x < 128) → (keyed op 4095 1).mem.read (0x1FF60000000 + x) = 0 := by
    obtain rfl | rfl : op = 1 ∨ op = 2 := by omega
    · decide +kernel
    · decide +kernel
  have h3 : op = ((keyed op 4095 1).mem.read 0x1FF60000002).toNat ∧ 4095 = (keyed op 4095 1).mem.readLE 0x1FF60000000 2 ∧
      (keyed op 4095 1).mem.readBytes 0x1FF60000010 32 ≠ (keyed op 4095 1).mem.readBytes 0x1FF60000030 32 := by
    obtain rfl | rfl : op = 1 ∨ op = 2 := by omega
    · decide +kernel
    · decide +kernel
  refine ⟨keyed op 4095 1, 4095, h3.1, h3.2.1, ?_⟩
  rintro (e | e | ⟨x, e, f⟩ | e)
  · cases e
  · omega
  · exact f (h x (by omega) e)
  · exact h3.2.2 e

theorem test_AgentsAnswer_keys_bad : ((keyed 1 4096 1).mem.read 0x1FF60000002).toNat = 1 ∧
    4096 ≤ (keyed 1 4096 1).mem.readLE 0x1FF60000000 2 ∧ ((keyed 2 1 0).mem.read 0x1FF60000002).toNat = 2 ∧
    (keyed 2 1 0).mem.readBytes 0x1FF60000010 32 = (keyed 2 1 0).mem.readBytes 0x1FF60000030 32 ∧
    2 < ((keyed 3 1 1).mem.read 0x1FF60000002).toNat := by decide +kernel

/-- Record 4,095 of the tensor layouts with its valid bit set and `rows` rows. -/
def layout (rows : Nat) : State := holds 0x1FF6103FFC8 4 rows (holds 0x1FF6103FFDD 1 1 base)

theorem test_AgentsAnswer_layout_fails : ((layout 0).mem.read (0x1FF61000000 + 64 * 4095 + 29)).getLsbD 0 = true ∧
    layoutFails (layout 0).mem (0x1FF61000000 + 64 * 4095) := ⟨by decide +kernel, .inr (.inr (.inl (by decide +kernel)))⟩

theorem test_AgentsAnswer_layout : ((layout 1).mem.read (0x1FF61000000 + 64 * 4095 + 29)).getLsbD 0 = true ∧
    ¬ layoutFails (layout 1).mem (0x1FF61000000 + 64 * 4095) ∧
      (base.mem.read (0x1FF61000000 + 64 * 4095 + 29)).getLsbD 0 = false := by
  refine ⟨by decide +kernel, ?_, by decide +kernel⟩
  have h : ∀ x < 64, (30 ≤ x ∧ x < 32 ∨ 40 ≤ x ∧ x < 64) →
    (layout 1).mem.read (0x1FF61000000 + 64 * 4095 + x) = 0 := by decide +kernel
  rintro (e | ⟨_, e⟩ | e | e | e | e | ⟨x, e, f⟩)
  · exact e (by decide +kernel)
  · revert e; decide +kernel
  · revert e; decide +kernel
  · exact e (by decide +kernel)
  · revert e; decide +kernel
  · revert e; decide +kernel
  · exact f (h x (by omega) e)

theorem test_PackageBoots : ∃ s : State, ¬ containerPasses s.boot s.boot.slotA ∧ ¬ containerPasses s.boot s.boot.slotB :=
  ⟨base, fun h => absurd h.1 (by decide), fun h => absurd h.1 (by decide)⟩

theorem test_PackageBoots_no_image : base.mem.read 0x1FF80000014 = 0 := by decide +kernel

theorem test_PackageBoots_other_request : ∃ x : Byte, x = (holds 0x1FF80000014 1 2 base).mem.read 0x1FF80000014 ∧ x ≠ 0 ∧ x ≠ 1 :=
  ⟨2, by decide +kernel, by decide, by decide⟩

theorem test_PackageBoots_image : ∃ (s : State) (im : List Byte) (n a len : Nat), s.mem.read 0x1FF80000014 = 1 ∧
    a = s.mem.readLE 0x1FF80000000 8 ∧ len = s.mem.readLE 0x1FF80000008 8 ∧
    im = (if memRange a len then s.mem.readBytes a len else []) ∧ imageCode s.boot im = n ∧ n ≠ 0 :=
  ⟨holds 0x1FF80000014 1 1 base, [], 1, 0, 0, by decide +kernel, by decide +kernel, by decide +kernel, by decide +kernel,
    by decide +kernel, by decide⟩

/-- An image of one role, main, whose text is the byte 0x5A at virtual address `va`, placed on core 0. -/
def oneRole (va : Nat) : List Byte :=
  -- the header: magic, version, counts, the tables' places, the size
  [0x53, 0x59, 0x4C, 0x4B, 1, 0, 1, 0] ++ leBytes 1 8 ++ leBytes 64 8 ++ leBytes 128 8 ++ leBytes 136 8 ++ leBytes 137 8 ++
  List.replicate 16 0 ++
  -- the role: its name, address, lengths, and the places of its bytes
  [0x6D, 0x61, 0x69, 0x6E] ++ List.replicate 12 0 ++ leBytes va 8 ++ leBytes 1 16 ++ leBytes 136 8 ++ leBytes 137 8 ++
    leBytes 137 8 ++
  -- the placement, and the text
  [0, 0, 1, 0, 0, 0, 0, 0, 0x5A]

/-- A request to load that image from 0x30000 into address space `asid`, of which environment 0 names number 1. -/
def loadAsked (va asid : Nat) : State :=
  let s := serving 0 0 0 0
  let m := ((s.mem.writeBytes 0x30000 (oneRole va)).writeLE 0x1FF80000000 8 0x30000).writeLE 0x1FF80000008 8 137
  { s with mem := m.writeLE 0x1FF80000010 8 (asid + 2 ^ 32) }

/-- The request is made, and its image passes every check. -/
def Passing (s : State) (im : List Byte) (asid : Nat) : Prop :=
  s.mem.read 0x1FF80000014 = 1 ∧ asid = s.mem.readLE 0x1FF80000010 4 % 2 ^ 20 ∧
  im = (if memRange (s.mem.readLE 0x1FF80000000 8) (s.mem.readLE 0x1FF80000008 8) then
    s.mem.readBytes (s.mem.readLE 0x1FF80000000 8) (s.mem.readLE 0x1FF80000008 8) else []) ∧ imageCode s.boot im = 0

theorem test_PackageBoots_no_space : ∃ (s : State) (im : List Byte) (asid : Nat), Passing s im asid ∧ s.envOfAsid asid = none :=
  ⟨{ loadAsked 0x100000 2 with cfg := [] }, oneRole 0x100000, 2,
    ⟨by decide +kernel, by decide +kernel, by decide +kernel, by decide +kernel⟩, by decide +kernel⟩

theorem space_of {s : State} {x : Word} (h : (s.envOfAsid 1).map (·.root) = some x) : ∃ e, s.envOfAsid 1 = some e ∧ e.root = x := by
  obtain ⟨e, h1, h2⟩ := Option.map_eq_some_iff.1 h
  exact ⟨e, h1, h2⟩

theorem end_of {x : State × LoadEnd} {y : LoadEnd} (h : x.2 = y) : ∃ s, x = (s, y) := ⟨x.1, by rw [← h]⟩

theorem test_PackageBoots_loads : ∃ (s s1 : State) (im : List Byte) (e : EnvEntry) (all : List (Nat × Byte)), Passing s im 1 ∧
    s.envOfAsid 1 = some e ∧ all = imageBytes im ∧
    State.loadBytes e.root.toNat 1 (all.drop s.boot.loaded) s = (s1, .done) := by
  let s := hostelHas [0x4000] (loadAsked 0x100000 1)
  obtain ⟨s1, h⟩ := end_of (x := State.loadBytes (0x40000 : Word).toNat 1 ((imageBytes (oneRole 0x100000)).drop s.boot.loaded) s)
    (y := .done) (by decide +kernel)
  obtain ⟨e, h1, h2⟩ := space_of (s := s) (x := 0x40000) (by decide +kernel)
  exact ⟨s, s1, oneRole 0x100000, e, _, ⟨by decide +kernel, by decide +kernel, by decide +kernel, by decide +kernel⟩, h1, rfl,
    h2 ▸ h⟩

theorem test_PackageBoots_load_waits : ∃ (s s1 : State) (im : List Byte) (e : EnvEntry) (all : List (Nat × Byte)), Passing s im 1 ∧
    s.envOfAsid 1 = some e ∧ all = imageBytes im ∧
    State.loadBytes e.root.toNat 1 (all.drop s.boot.loaded) s = (s1, .later) := by
  let s := loadAsked 0x100000 1
  obtain ⟨s1, h⟩ := end_of (x := State.loadBytes (0x40000 : Word).toNat 1 ((imageBytes (oneRole 0x100000)).drop s.boot.loaded) s)
    (y := .later) (by decide +kernel)
  obtain ⟨e, h1, h2⟩ := space_of (s := s) (x := 0x40000) (by decide +kernel)
  exact ⟨s, s1, oneRole 0x100000, e, _, ⟨by decide +kernel, by decide +kernel, by decide +kernel, by decide +kernel⟩, h1, rfl,
    h2 ▸ h⟩

theorem test_PackageBoots_load_faults : ∃ (s s1 : State) (im : List Byte) (e : EnvEntry) (all : List (Nat × Byte)), Passing s im 1 ∧
    s.envOfAsid 1 = some e ∧ all = imageBytes im ∧
    State.loadBytes e.root.toNat 1 (all.drop s.boot.loaded) s = (s1, .fault) := by
  let s := loadAsked 0x40000000 1
  obtain ⟨s1, h⟩ := end_of (x := State.loadBytes (0x40000 : Word).toNat 1 ((imageBytes (oneRole 0x40000000)).drop s.boot.loaded) s)
    (y := .fault) (by decide +kernel)
  obtain ⟨e, h1, h2⟩ := space_of (s := s) (x := 0x40000) (by decide +kernel)
  exact ⟨s, s1, oneRole 0x40000000, e, _, ⟨by decide +kernel, by decide +kernel, by decide +kernel, by decide +kernel⟩, h1, rfl,
    h2 ▸ h⟩

theorem test_PackageBoots_stores : ∃ (s s1 s2 s3 : State) (pa : Nat) (g : BitVec 12) (c : Nat) (k : Bool),
    s.hubXl 0x40000 1 0x100000 .write = (s1, .ok pa g) ∧ s.hubXl 0x40000 1 0x40000000 .write = (s2, .fault c k) ∧
    ({ s with mem := s.mem.writeLE 0x1FE00000800 8 16 } : State).hubXl 0x40000 1 0x100000 .write = (s3, .miss) :=
  ⟨serving 0 0 0 0, _, _, _, 0x100000, 0, 11, false, hubXl_ok rfl (by decide +kernel),
    by simp only [State.hubXl, walkScrub_none _ _ _ (show (serving 0 0 0 0).bad = [] from rfl)]
       rw [show (serving 0 0 0 0).xlateHub 0x40000 1 0x40000000 .write true = .fault 11 false from by decide +kernel],
    by simp only [State.hubXl, walkScrub_none _ _ _ (show (({ serving 0 0 0 0 with
         mem := (serving 0 0 0 0).mem.writeLE 0x1FE00000800 8 16 } : State)).bad = [] from rfl)]
       rw [show ({ serving 0 0 0 0 with mem := (serving 0 0 0 0).mem.writeLE 0x1FE00000800 8 16 } : State).xlateHub 0x40000 1 0x100000
         .write true = .miss from by decide +kernel]⟩

theorem test_PackageBoots_quotes : ∃ s : State, s.boot.phase = 2 ∧ s.boot.nextIndex < 2 ^ 20 ∧ s.boot.nvBroken = false :=
  ⟨{ base with boot := { base.boot with nextIndex := 2 ^ 20 - 1 } }, rfl, by decide, rfl⟩

theorem test_PackageBoots_last_index : ∃ s : State, s.boot.phase = 2 ∧ 2 ^ 20 ≤ s.boot.nextIndex :=
  ⟨{ base with boot := { base.boot with nextIndex := 2 ^ 20 } }, rfl, by decide⟩

theorem test_PackageBoots_broken : ∃ s : State, s.boot.phase = 2 ∧ s.boot.nextIndex < 2 ^ 20 ∧ s.boot.nvBroken = true :=
  ⟨{ base with boot := { base.boot with nvBroken := true } }, rfl, by decide, rfl⟩

theorem test_PackageBoots_no_firmware : ∃ s : State, s.boot.phase ≠ 2 := ⟨State.reset, by decide⟩

theorem test_RepairAndPower_window : ∃ (cls : Nat) (v : Word), cls < 3 ∧ v.toNat % 256 ≠ 0 ∧ v.toNat / 256 % 2 ^ 24 ≠ 0 ∧
    v.toNat < 2 ^ 32 := ⟨2, 0xFFFFFFFF, by decide⟩

theorem test_RepairAndPower_window_bad : ∃ v : Word, v.toNat % 256 = 0 ∨ v.toNat / 256 % 2 ^ 24 = 0 ∨ 2 ^ 32 ≤ v.toNat :=
  ⟨0x100000101, by decide⟩

/-- A package whose link lanes last at their second failure. -/
def strict : State := { base with cfg := base.cfg.writeLE 0x40008 8 (2 + 86400 * 256) }

theorem test_RepairAndPower_lasting : ∃ (s : State) (w : Nat × Nat), w = s.windowCfg 0 ∧ (0, 33, 7) ∉ s.lasting ∧
    w.1 ≤ 1 + (((mgetD s.stamps (33 * 2 ^ 32 + 7) []).take 254).filter fun a => decide (s.hubUs ≤ a + w.2)).length :=
  ⟨{ strict with stamps := [(33 * 2 ^ 32 + 7, [0])] }, _, rfl, by decide, by decide +kernel⟩

theorem test_RepairAndPower_passing : ∃ (s : State) (w : Nat × Nat), w = s.windowCfg 0 ∧ (0, 33, 65543) ∉ s.lasting ∧
    ¬ w.1 ≤ 1 + (((mgetD s.stamps (33 * 2 ^ 32 + 65543) []).take 254).filter fun a => decide (s.hubUs ≤ a + w.2)).length :=
  ⟨strict, _, rfl, by decide, by decide +kernel⟩

theorem test_RepairAndPower_replay : ∃ (s : State) (l : List (Nat × Incident)), s.turn = .sched ∧ s.nextJob = .incident ∧
    s.incidents = (0, .replayFails 33 true) :: l ∧ s.now < (mgetD s.links 33 Link.reset).idle1 :=
  ⟨due fun s => { s with incidents := [(0, .replayFails 33 true)], links := [(33, { Link.reset with idle1 := 9 })] }, [], rfl,
    by decide +kernel, rfl, by decide +kernel⟩

theorem test_RepairAndPower_replay_port : ∃ (s : State) (l : List (Nat × Incident)), s.turn = .sched ∧ s.nextJob = .incident ∧
    s.incidents = (0, .replayFails 53 false) :: l :=
  ⟨due fun s => { s with incidents := [(0, .replayFails 53 false)] }, [], rfl, by decide +kernel, rfl⟩

theorem test_RepairAndPower_spares : ∃ (s : State) (l : Link) (x : Nat), mgetD s.links 33 Link.reset = l ∧
    (l.waiting.find? fun y => decide (65536 ≤ y) == true) = some x ∧ (if true = true then l.idle1 else l.idle0) ≤ s.now :=
  ⟨{ base with links := [(33, { Link.reset with waiting := [3, 65536] })] }, { Link.reset with waiting := [3, 65536] }, 65536, rfl,
    rfl, by decide⟩

theorem test_RepairAndPower_no_lane : ∃ s : State, (mgetD s.links 33 Link.reset).waiting = [] := ⟨base, rfl⟩

theorem test_RepairAndPower_control_bad : ∃ v : Word, v.toNat % 4096 < 600 := ⟨599, by decide⟩

theorem test_RepairAndPower_control : ∃ (s : State) (v : Word) (old : Nat), old = s.mem.readLE 0x1FF71000000 8 ∧
    600 ≤ v.toNat % 4096 ∧ v.toNat % 4096 ≤ 2800 ∧ v.toNat / 2 ^ 13 = old / 2 ^ 13 ∧ old / 2 ^ 13 % 8 = 0 ∧ old / 2 ^ 28 % 16 = 0 ∧
    old < 2 ^ 40 ∧ v.toNat / 4096 % 2 = 1 :=
  ⟨base, 0x1000 + 600, 0x1AF0, by decide +kernel, by decide, by decide, by decide, by decide, by decide, by decide, by decide⟩

/-! ### Every word, every step -/

theorem test_WordsWait_privileged : ∃ (i : Instr) (p : Dep) (s : State), issueMarks i = some (p, true) ∧ s.live = true ∧
    s.ctx.priv = false := ⟨.eret 0, 0, base, rfl, rfl, rfl⟩

theorem test_WordsWait_owes : ∃ (i : Instr) (p : Dep) (b : Bool) (s : State), issueMarks i = some (p, b) ∧ s.live = true ∧
    (b = true → s.ctx.priv = true) ∧ s.ctx.owes .s = true :=
  ⟨.add 0 1 2 3, 0, false, on fun c => { c with owed := [(.s, 0)] }, rfl, rfl, by decide, rfl⟩

theorem test_WordsWait_tokens : ∃ (i : Instr) (p : Dep) (b : Bool) (s : State), issueMarks i = some (p, b) ∧ s.live = true ∧
    (b = true → s.ctx.priv = true) ∧ s.ctx.owes .s = false ∧ s.ctx.canPop .s p = false :=
  ⟨.add 8 1 2 3, 8, false, base, rfl, rfl, by decide, rfl, rfl⟩

theorem test_AccessChecks_lda : ∃ (i : Instr) (r : CheckRow) (s : State), checkRow i = some r ∧ CanIssue r.p s ∧
    s.ctx.ldaWait = true :=
  ⟨.ld 0 5 1 0, _, on fun c => { c with pend := [{ Pend.mk0 0 .s 0 with word := some (.lda 0 5 1 .pkg 0) }] }, rfl,
    ⟨rfl, rfl, rfl⟩, rfl⟩

theorem test_AccessChecks_full : ∃ (i : Instr) (r : CheckRow) (s : State), checkRow i = some r ∧ CanIssue r.p s ∧
    s.ctx.ldaWait = false ∧ 63 ≤ s.ctx.ctr r.ctr :=
  ⟨.sd 0 5 1 0, _, on fun c => { c with sc := 63 }, rfl, ⟨rfl, rfl, rfl⟩, rfl, by decide⟩

theorem test_AccessChecks_early : ∃ (i : Instr) (r : CheckRow) (s : State) (d : Dst), checkRow i = some r ∧ CanIssue r.p s ∧
    LsOpen r.ctr s ∧ s.earlyS r.srcs = some d :=
  ⟨.ld 0 5 1 0, _, on fun c => { c with erc := true, nextId := 1, pend := [duePend .vals [] [.s 1] []] }, .s 1, rfl,
    ⟨rfl, rfl, rfl⟩, ⟨rfl, by decide⟩, rfl⟩

theorem test_AccessChecks_canonical : ∃ (i : Instr) (r : CheckRow) (s : State) (a : Word) (last : Nat), checkRow i = some r ∧
    CanIssue r.p s ∧ r.addr s = a ∧ a.toNat + r.size - 1 = last ∧ LsOpen r.ctr s ∧ Settled r.srcs s ∧ 2 ^ 57 ≤ last :=
  ⟨.lw 0 5 1 0, _, s1Holds 0x1FFFFFFFFFFFFFD, 0x1FFFFFFFFFFFFFD, 2 ^ 57, rfl, ⟨rfl, rfl, rfl⟩, rfl, by decide, ⟨rfl, by decide⟩,
    rfl,
    by decide⟩

theorem test_AccessChecks_window : ∃ (i : Instr) (r : CheckRow) (s : State) (a : Word) (last : Nat), checkRow i = some r ∧
    CanIssue r.p s ∧ r.addr s = a ∧ a.toNat + r.size - 1 = last ∧ LsOpen r.ctr s ∧ Settled r.srcs s ∧ last < 2 ^ 57 ∧
    (r.win.allows (placeOf s.core a.toNat) && r.win.allowsEnd (placeOf s.core last)) = false :=
  ⟨.lb 0 5 1 0, _, s1Holds 0x1FF800028000000, 0x1FF800028000000, 0x1FF800028000000, rfl, ⟨rfl, rfl, rfl⟩, rfl, by decide,
    ⟨rfl, by decide⟩, rfl, by decide, by decide +kernel⟩

theorem test_AccessChecks_misaligned : ∃ (i : Instr) (r : CheckRow) (s : State) (a : Word) (last : Nat), checkRow i = some r ∧
    CanIssue r.p s ∧ r.addr s = a ∧ a.toNat + r.size - 1 = last ∧ LsOpen r.ctr s ∧ Settled r.srcs s ∧ last < 2 ^ 57 ∧
    (r.win.allows (placeOf s.core a.toNat) && r.win.allowsEnd (placeOf s.core last)) = true ∧ a.toNat % r.size ≠ 0 :=
  ⟨.lw 0 5 1 0, _, s1Holds 0x10002, 0x10002, 0x10005, rfl, ⟨rfl, rfl, rfl⟩, rfl, by decide, ⟨rfl, by decide⟩, rfl, by decide,
    by decide +kernel, by decide⟩

theorem test_AccessChecks_miss : ∃ (i : Instr) (r : CheckRow) (s : State) (a : Word) (last : Nat), checkRow i = some r ∧
    CanIssue r.p s ∧ r.addr s = a ∧ a.toNat + r.size - 1 = last ∧ LsOpen r.ctr s ∧ Settled r.srcs s ∧ last < 2 ^ 57 ∧
    (r.win.allows (placeOf s.core a.toNat) && r.win.allowsEnd (placeOf s.core last)) = true ∧ a.toNat % r.size = 0 ∧
    placeOf s.core a.toNat = .trans ∧ s.xlateS a.toNat r.want = .miss :=
  ⟨.sd 0 5 1 0, _, s1Holds 0x11000, 0x11000, 0x11007, rfl, ⟨rfl, rfl, rfl⟩, rfl, by decide, ⟨rfl, by decide⟩, rfl, by decide,
    by decide +kernel, by decide, by decide +kernel, rfl⟩

/-- A context whose page may not be written. -/
def readOnly : State :=
  { s1Holds 0x10000 with cores := [(0, { Core.reset with run := some 0, tlb := [{ tableTlb with w := false }] })] }

theorem test_AccessChecks_denied : ∃ (i : Instr) (r : CheckRow) (s : State) (a : Word) (last z : Nat) (b : Bool),
    checkRow i = some r ∧
    CanIssue r.p s ∧ r.addr s = a ∧ a.toNat + r.size - 1 = last ∧ LsOpen r.ctr s ∧ Settled r.srcs s ∧ last < 2 ^ 57 ∧
    (r.win.allows (placeOf s.core a.toNat) && r.win.allowsEnd (placeOf s.core last)) = true ∧ a.toNat % r.size = 0 ∧
    placeOf s.core a.toNat = .trans ∧ s.xlateS a.toNat r.want = .fault z b :=
  ⟨.sd 0 5 1 0, _, readOnly, 0x10000, 0x10007, 12, false, rfl, ⟨rfl, rfl, rfl⟩, rfl, by decide, ⟨rfl, by decide⟩, rfl, by decide,
    by decide +kernel, by decide, by decide +kernel, rfl⟩

theorem test_EncodingRoundTrip : ∃ (i : Instr) (w : IWord), i.wf = true ∧ encode i = some w ∧ decode w = some i :=
  ⟨.add 15 31 31 31, _, rfl, rfl, rfl⟩

theorem test_EncodingRoundTrip_hostel : ∃ (i : Instr) (w : IWord), i.wf = true ∧ encode i = some w ∧ decodeHostel w = some i :=
  ⟨.sbox 31 31, _, rfl, rfl, rfl⟩

/-- A fetch from the sector that die 0 holds, of the word `w`: what a step of S meets. -/
theorem test_StepRunsTheWord_issue : ∃ (s t : State) (k pa : Nat) (pc : Word) (gen : BitVec 12) (w : IWord) (i : Instr),
    s.turn = .sched ∧ s.nextJob = .issue k ∧ s.toIssue k = t ∧ t.ctx.pc = pc ∧ t.draining t.core t.ctx = false ∧
      pc.toNat < winBase ∧
    pc.toNat % 4 = 0 ∧ t.xlateS pc.toNat .fetch = .ok pa gen ∧ t.genOk ⟨pc, pa, 4, gen, isDevice pa⟩ = true ∧
    (∀ x ∈ sectorsAt pa 4, dirState t x (dieOf (t.key / 4)) ≠ .i) ∧ t.bad = [] ∧ word32 t.mem pa = w ∧ decode w = some i :=
  ⟨base, base, 0, 0x10000, 0x10000, 0, 0x00400000, .nop 0, rfl, rfl, rfl, rfl, by decide +kernel,
    by decide +kernel, by decide +kernel, by decide +kernel, by decide +kernel, by decide +kernel, rfl, by decide +kernel,
      by decide⟩

theorem test_StepRunsTheWord_illegal : ∃ (s t : State) (k pa : Nat) (pc : Word) (gen : BitVec 12) (w : IWord),
    s.turn = .sched ∧ s.nextJob = .issue k ∧ s.toIssue k = t ∧ t.ctx.pc = pc ∧ t.draining t.core t.ctx = false ∧
      pc.toNat < winBase ∧
    pc.toNat % 4 = 0 ∧ t.xlateS pc.toNat .fetch = .ok pa gen ∧ t.genOk ⟨pc, pa, 4, gen, isDevice pa⟩ = true ∧
    (∀ x ∈ sectorsAt pa 4, dirState t x (dieOf (t.key / 4)) ≠ .i) ∧ t.bad = [] ∧ word32 t.mem pa = w ∧ decode w = none :=
  ⟨State.reset.withFetchWord 32 0, State.reset.withFetchWord 32 0, 0, 0x10000, 0x10000, 0, 0, rfl, rfl, rfl, rfl,
    by decide +kernel, by decide +kernel, by decide +kernel, by decide +kernel, by decide +kernel, by decide +kernel, rfl,
    by decide +kernel, by decide⟩

/-- A store of a context that has yet to take effect. -/
def lateStore : PStore :=
  { id := 0, st := .s, pc := 0, word := none, x := 0, due := some 9, parts := [], kind := .plain, push := [], rel := false,
    late := false, anew := false }

/-- A handler whose context has such a store from before it. -/
def drains : State := on fun c => { c with hid := some 1, nextId := 1, stores := [lateStore] }

theorem test_StepRunsTheWord_drains : ∃ (s t : State) (k : Nat), s.turn = .sched ∧ s.nextJob = .issue k ∧ s.toIssue k = t ∧
    t.draining t.core t.ctx = true := ⟨drains, drains, 0, rfl, rfl, rfl, by decide +kernel⟩

/-- The context stands at `pc`. -/
def atPc (pc : Word) : State := on fun c => { c with pc := pc }

theorem test_StepRunsTheWord_fetch_high : (atPc 0x200000000000000).turn = .sched ∧ (atPc 0x200000000000000).nextJob = .issue 0 ∧
    (atPc 0x200000000000000).toIssue 0 = atPc 0x200000000000000 ∧
      (atPc 0x200000000000000).draining 0 (atPc 0x200000000000000).ctx = false ∧
    2 ^ 57 ≤ (0x200000000000000 : Word).toNat :=
  ⟨rfl, rfl, rfl, by decide +kernel, by decide⟩

theorem test_StepRunsTheWord_fetch_odd : (atPc 0x10002).turn = .sched ∧ (atPc 0x10002).nextJob = .issue 0 ∧
    (atPc 0x10002).toIssue 0 = atPc 0x10002 ∧ (atPc 0x10002).draining 0 (atPc 0x10002).ctx = false ∧
    (0x10002 : Word).toNat < 2 ^ 57 ∧ (0x10002 : Word).toNat % 4 ≠ 0 :=
  ⟨rfl, rfl, rfl, by decide +kernel, by decide⟩

theorem test_StepRunsTheWord_fetch_window : (atPc 0x1FF800000000000).turn = .sched ∧ (atPc 0x1FF800000000000).nextJob = .issue 0 ∧
    (atPc 0x1FF800000000000).toIssue 0 = atPc 0x1FF800000000000 ∧
      (atPc 0x1FF800000000000).draining 0 (atPc 0x1FF800000000000).ctx = false ∧
    (0x1FF800000000000 : Word).toNat < 2 ^ 57 ∧
    (0x1FF800000000000 : Word).toNat % 4 = 0 ∧ winBase ≤ (0x1FF800000000000 : Word).toNat :=
  ⟨rfl, rfl, rfl, by decide +kernel, by decide⟩

/-- A context whose page may not be executed. -/
def noExec : State := { base with cores := [(0, { Core.reset with run := some 0, tlb := [{ tableTlb with x := false }] })] }

theorem test_StepRunsTheWord_fetch_denied : noExec.turn = .sched ∧ noExec.nextJob = .issue 0 ∧ noExec.toIssue 0 = noExec ∧
    noExec.draining noExec.core noExec.ctx = false ∧ noExec.xlateS 0x10000 .fetch = .fault 12 false :=
  ⟨rfl, rfl, rfl, by decide +kernel, by decide +kernel⟩

theorem test_StepRunsTheWord_fetch_miss : (atPc 0x11000).turn = .sched ∧ (atPc 0x11000).nextJob = .issue 0 ∧
    (atPc 0x11000).toIssue 0 = atPc 0x11000 ∧ (atPc 0x11000).draining (atPc 0x11000).core (atPc 0x11000).ctx = false ∧
    (atPc 0x11000).xlateS 0x11000 .fetch = .miss := ⟨rfl, rfl, rfl, by decide +kernel, by decide +kernel⟩

/-- The frame's generation is another than the core's translation says. -/
def staleFetch : State := { base with mem := base.mem.writeLE (0x1FE00000000 + 8 * 16) 8 16 }

theorem test_StepRunsTheWord_fetch_stale : staleFetch.turn = .sched ∧ staleFetch.nextJob = .issue 0 ∧
    staleFetch.toIssue 0 = staleFetch ∧ staleFetch.draining staleFetch.core staleFetch.ctx = false ∧
    staleFetch.xlateS 0x10000 .fetch = .ok 0x10000 0 ∧
    staleFetch.genOk ⟨0x10000, 0x10000, 4, 0, isDevice 0x10000⟩ = false :=
  ⟨rfl, rfl, rfl, by decide +kernel, by decide +kernel, by decide +kernel⟩

/-- The die lacks the sector. -/
def unheld : State := { base with dir := [] }

theorem test_StepRunsTheWord_fetch_asks : unheld.turn = .sched ∧ unheld.nextJob = .issue 0 ∧ unheld.toIssue 0 = unheld ∧
    unheld.draining unheld.core unheld.ctx = false ∧ unheld.xlateS 0x10000 .fetch = .ok 0x10000 0 ∧
    unheld.genOk ⟨0x10000, 0x10000, 4, 0, isDevice 0x10000⟩ = true ∧
    ∃ x ∈ sectorsAt 0x10000 4, dirState unheld x (dieOf (unheld.key / 4)) = .i :=
  ⟨rfl, rfl, rfl, by decide +kernel, by decide +kernel, by decide +kernel, by decide +kernel⟩

theorem test_StepRunsTheWord_unit : ∃ (s : State) (i : Instr), s.turn = .sched ∧ s.nextJob = .unit i :=
  ⟨pending (duePend .vals [] [] []), .landing 0 0, rfl, by decide +kernel⟩

theorem test_StepRunsTheWord_input : ∃ (s : State) (n : Nat) (i : Instr), s.turn = .sched ∧ s.nextJob = .input n i :=
  ⟨State.reset, 0, .packageReset, rfl, by decide +kernel⟩

theorem test_StepRunsTheWord_started : ∃ (s : State) (st : Station) (e : QEntry) (i : Instr), s.turn = .start st ∧
    s.ctx.started st = some e ∧ e.word = some i := ⟨atV (.vfadd 0 1 2 3) id, .v, _, _, rfl, rfl, rfl⟩

theorem test_StepRunsTheWord_engine : ∃ (s : State) (en k : Nat) (c : Ctx) (e : QEntry) (i : Instr), s.turn = .engine en ∧
    s.served en = some (k, c, e) ∧ e.word = some i := ⟨serviced (chunk 0x10000), 0, 0, _, _, _, rfl, rfl, rfl⟩

theorem test_StepRunsTheWord_copy : ∃ (s : State) (e : QEntry) (i : Instr), s.turn = .copy ∧ s.ctx.cact = some e ∧
    e.word = some i :=
  ⟨{ atC copy17 with turn := .copy }, _, _, rfl, rfl, rfl⟩

/-- The word of an HS-mode FDONE at a hart's pc. -/
def hartAt0 : State := State.reset.withFetchWord 32 0x0000000B

/-- What a hart fetches. -/
def fetched (x : HartFetch) : Option IWord :=
  match x with
  | .word _ w => some w
  | _ => none

theorem fetched_of {x : HartFetch} {w : IWord} (h : fetched x = some w) : ∃ s, x = .word s w := by
  obtain ⟨s, v⟩ | _ | _ := x
  · exact ⟨s, congrArg _ (Option.some.inj h)⟩
  · cases h
  · cases h

theorem test_StepRunsTheWord_hart : ∃ (s s1 : State) (h : Nat) (w : IWord) (i : Instr), s.turn = .hart h ∧
    s.hartFetch h = .word s1 w ∧ decodeHostel w = some i := by
  obtain ⟨s1, h⟩ := fetched_of (x := hartAt0.hartFetch 0) (w := 0x0000000B) (by decide +kernel)
  exact ⟨hartAt0, s1, 0, 0x0000000B, .fdone 0 0, by decide +kernel, h, by decide⟩

theorem test_StepRunsTheWord_hart_other : ∃ (s : State) (h : Nat), s.turn = .hart h ∧
    ∀ s1 w, s.hartFetch h = .word s1 w → decodeHostel w = none := by
  refine ⟨{ hartAt0 with mem := hartAt0.mem.writeLE 0x10000 4 0x13 }, 0, by decide +kernel, fun s1 w h => ?_⟩
  have h1 : fetched ((({ hartAt0 with mem := hartAt0.mem.writeLE 0x10000 4 0x13 } : State)).hartFetch 0) = some 0x13 := by
    decide +kernel
  rw [h] at h1
  obtain rfl : w = 0x13 := Option.some.inj h1
  decide

theorem test_StepRunsTheWord_other_jobs : (due id).turn = .sched ∧ (due id).nextJob = .tick ∧
    (due fun s => { s with incidents := [(0, .fuse 3)] }).nextJob = .incident ∧
    (serving1 []).nextJob = .serve (queuedAsk 5) := by decide +kernel

theorem test_StepRunsTheWord_async : ∃ (s : State) (k : Nat), s.turn = .sched ∧ s.nextJob = .async k :=
  ⟨recorded [record 11], 0, rfl, by decide +kernel⟩

theorem test_StepRunsTheWord_probe : ∃ (s : State) (k : Nat), s.turn = .sched ∧ s.nextJob = .probe k :=
  ⟨{ stuck with now := 18000 }, 0, rfl, by decide +kernel⟩

theorem test_StepRunsTheWord_grow : ∃ (s : State) (k : Nat), s.turn = .sched ∧ s.nextJob = .grow k :=
  ⟨dieHas [0x1000, 0x2000, 0x3000, 0x3040] { growing with ctx := { growing.ctx with blockedAt := 0 } }, 0, rfl, by decide +kernel⟩

theorem test_StepRunsTheWord_hart_due : ∃ (s : State) (h : Nat), s.turn = .sched ∧ s.nextJob = .hart h :=
  ⟨due fun s => { s with hartDue := [(0, 63)], harts := [(63, Hart.reset)] }, 63, rfl, by decide +kernel⟩

theorem test_StepRunsTheWord_engine_due : ∃ (s : State) (en : Nat), s.turn = .sched ∧ s.nextJob = .engineOn en :=
  ⟨{ serviced (chunk 0x10000) with turn := .sched }, 0, rfl, by decide +kernel⟩

theorem test_StepRunsTheWord_copy_due : ∃ (s : State) (k : Nat), s.turn = .sched ∧ s.nextJob = .copyOn k :=
  ⟨{ atC (started copy17) with
      turn := .sched, cores := [(0, { Core.reset with run := some 0, copying := some 0, copyAt := some 0 })] },
    0, rfl, by decide +kernel⟩

theorem test_StepRunsTheWord_migration_due : ∃ (s : State) (r : Nat), s.turn = .sched ∧ s.nextJob = .migrate r :=
  ⟨open_ 512 true 3, 1, rfl, by decide +kernel⟩

theorem test_StepRunsTheWord_lane_due : ∃ (s : State) (u : Nat) (dir : Bool), s.turn = .sched ∧ s.nextJob = .lane u dir :=
  ⟨due fun s => { s with links := [(33, { Link.reset with waiting := [65536] })] }, 33, true, rfl, by decide +kernel⟩

/-- A fact about hart 63 after a base word with x1 = `a` and x2 = `b`. -/
def afterBase (w : IWord) (a b : Word) (p : Hart → Bool) : Bool :=
  p (mgetD ((hartTurn a b id).hartBase 63 w).harts 63 Hart.reset)

/-- c.addi sp, -16; c.sdsp ra, 8; c.ldsp ra, 8; c.li a0, 1; c.jr ra; c.mv a0, a1; c.addi4spn s0, 16; c.beqz a0, 8: the words that
the RISC-V manual's compressed encodings stand for. -/
theorem test_compressed : rvc 0x1141 = some 0xFF010113 ∧ rvc 0xE406 = some 0x00113423 ∧ rvc 0x60A2 = some 0x00813083 ∧
    rvc 0x4505 = some 0x00100513 ∧ rvc 0x8082 = some 0x00008067 ∧ rvc 0x852E = some 0x00B00533 ∧ rvc 0x0800 = some 0x01010413 ∧
    rvc 0xC501 = some 0x00050463 ∧ rvc 0 = none := by decide +kernel

/-- A page of Sv57 whose leaf is a gigapage with every right at va 0xC0000000: five levels, the leaf at the third. -/
def paged : State :=
  let m := (base.mem.writeLE 0x20000 8 (0x21 * 1024 + 1)).writeLE 0x21000 8 (0x22 * 1024 + 1)
  { base with mem := m.writeLE 0x22018 8 (0x80000 * 1024 + 0xCF) }

theorem test_sv57 :
    (let t : Hart := { Hart.reset with mode := 1, satp := 0xA000000000000020 }
     (match paged.hartXl t 1 0xC0001234 with | .ok pa => decide (pa = 0x80001234) | .error _ => false) &&
     (match paged.hartXl { t with mode := 0 } 1 0xC0001234 with | .error .page => true | _ => false) &&
     (match paged.hartXl t 1 0x100000000000000 with | .error .page => true | _ => false)) = true := by decide +kernel

/-- MBI delegated to HS-mode is taken there from U-mode (R389, R392). -/
theorem test_mbi_delegated :
    ((let t : Hart := { Hart.reset with mode := 0, mideleg := 0x11444, mie := 0x10000, mbirq := true, stvec := 0x8000 }
      t.irq.map fun t => (t.mode, t.pc, t.scause)) = some (1, 0x8000, 0x8000000000000010)) := by decide +kernel

/-- ADDI x3, x1, -1; SUB x3, x1, x2; BLT x1, x2, 8; JALR x3, 1(x1): the base encodings of RV64I (log entry 89). -/
theorem test_hostel_base : afterBase 0xFFF08193 5 0 (fun t => t.reg 3 == 4 && t.pc == Hart.reset.pc + 4) = true ∧
    afterBase 0x402081B3 5 7 (fun t => t.reg 3 == 0xFFFFFFFFFFFFFFFE) = true ∧
    afterBase 0x0020C463 0xFFFFFFFFFFFFFFFF 0 (fun t => t.pc == Hart.reset.pc + 8) = true ∧
    afterBase 0x001081E7 0x2000 0 (fun t => t.reg 3 == Hart.reset.pc + 4 && t.pc == 0x2000) = true := by decide +kernel

/-- R160, R165: a reduction's only active element in FP32: a signalling NaN gives the canonical one and nv, and under ftz a
subnormal gives a zero of its sign (log entry 86). -/
theorem test_reduction_of_one : redLone 1 false 0xFF800001 = (0x7FC00000, fNv) ∧ redLone 1 true 0x80000001 = (0x80000000, 0) := by
  decide +kernel

theorem test_MemoryStaysCanonical : ∃ s t : State, s.mem.wf = true ∧ step s = .next t := by
  obtain ⟨t, h⟩ := next_of (x := step base) (by decide +kernel)
  exact ⟨base, t, by decide +kernel, h⟩

end Sys2Proof.Tests
end

