-- ==== Sys2Proof/Tests/WitnessBoot.lean ====
section
/-! SUPPORT. Witnesses: a firmware container that passes the boot ROM's checks, for the statement about boot. Its signature is
built as RFC 8391 builds one, so that no permutation is evaluated. -/

namespace Sys2Proof.Tests

set_option Elab.async false -- one theorem at a time, so that few threads wait on the kernel

open Sys2Proof Sys2Proof.Machine Sys2Proof.Safety

/-! ### Lengths -/

theorem keccakRound_length (a : List Word) (rc : Word) : (keccakRound a rc).length = 25 := by
  unfold keccakRound
  simp only []
  split
  · rename_i h
    have := congrArg List.length h
    simp [lanes25] at this
  · rename_i h
    have := congrArg List.length h
    simp [lanes25] at this ⊢
    omega

theorem foldl_keccakRound_length (l : List Word) (a : List Word) (h : a.length = 25) : (l.foldl keccakRound a).length = 25 := by
  induction l generalizing a with
  | nil => exact h
  | cons c l ih => exact ih _ (keccakRound_length a c)

theorem absorb_length (a : List Word) (b : List Byte) (h : a.length = 25) : (absorb a b).length = 25 :=
  foldl_keccakRound_length _ _ (by simp [h])

theorem leBytes_length (v n : Nat) : (leBytes v n).length = n := by
  induction n generalizing v with
  | zero => rfl
  | succ n ih => simp [leBytes, ih]

theorem flatMap_leBytes_length (l : List Word) : (l.flatMap fun w => leBytes w.toNat 8).length = 8 * l.length := by
  induction l with
  | nil => rfl
  | cons a l ih => simp [leBytes_length, ih]; omega

theorem shake_length (rate : Nat) (m : List Byte) (n : Nat) (h : n ≤ 200) : (shake rate m n).length = n := by
  have hl : ∀ (l : List Nat) (f : Nat → List Byte) (a : List Word), a.length = 25 →
      (l.foldl (fun a i => absorb a (f i)) a).length = 25 := by
    intro l f
    induction l with
    | nil => exact fun a h => h
    | cons i l ih => exact fun a h => ih _ (absorb_length a _ h)
  simp only [shake, List.length_take, flatMap_leBytes_length]
  rw [hl _ _ _ (by simp)]
  omega

theorem wotsChain_length (seed : List Byte) (o c n i : Nat) (x : List Byte) (h : x.length = 32) :
    (wotsChain seed o c n i x).length = 32 := by
  induction n generalizing i x with
  | zero => exact h
  | succ n ih => exact ih _ _ (shake_length _ _ _ (by decide))

theorem treeRoot_length (seed : List Byte) (k idx : Nat) (l : List (List Byte)) (x : List Byte) (h : l ≠ []) :
    (treeRoot seed k idx l x).length = 32 := by
  have hs : ∀ (l : List (List Byte)) (k idx : Nat) (x : List Byte), x.length = 32 → (treeRoot seed k idx l x).length = 32 := by
    intro l
    induction l with
    | nil => exact fun k idx x h => h
    | cons a l ih => exact fun k idx x _ => ih _ _ _ (by split <;> exact shake_length _ _ _ (by decide))
  obtain ⟨a, r, rfl⟩ := List.exists_cons_of_ne_nil h
  exact hs r _ _ _ (by split <;> exact shake_length _ _ _ (by decide))

/-! ### A signature -/

theorem wotsChain_add (seed : List Byte) (o c a b i : Nat) (x : List Byte) :
    wotsChain seed o c b (i + a) (wotsChain seed o c a i x) = wotsChain seed o c (a + b) i x := by
  induction a generalizing i x with
  | zero => simp [wotsChain]
  | succ a ih =>
    rw [show a + 1 + b = (a + b) + 1 by omega, wotsChain, wotsChain, ← ih]
    congr 1
    omega

theorem nibbles_length (bs : List Byte) : (nibbles bs).length = 2 * bs.length := by
  induction bs with
  | nil => rfl
  | cons a l ih => simp [nibbles] at ih ⊢; omega

theorem nibbles_lt (bs : List Byte) : ∀ x ∈ nibbles bs, x ≤ 15 := by
  intro x hx
  simp only [nibbles, List.mem_flatMap, List.mem_cons, List.not_mem_nil, or_false] at hx
  obtain ⟨b, -, h⟩ := hx
  have := b.isLt
  rcases h with rfl | rfl
  · omega
  · omega

theorem span_flatten (l : List (List Byte)) (n i : Nat) (h : ∀ x ∈ l, x.length = n) (hi : i < l.length) (r : List Byte) :
    ((l.flatten ++ r).drop (n * i)).take n = l[i] := by
  induction l generalizing i with
  | nil => simp at hi
  | cons a l ih =>
    have ha : a.length = n := h a (by simp)
    cases i with
    | zero => simp [ha]
    | succ i =>
      rw [Nat.mul_succ, Nat.add_comm, ← List.drop_drop]
      simp only [List.flatten_cons, List.append_assoc, List.getElem_cons_succ]
      rw [List.drop_left' ha]
      exact ih i (fun x hx => h x (by simp [hx])) (by simpa using hi)

/-- The digits that a message's hash gives, with those of their checksum. -/
def digits (root m : List Byte) : List Nat :=
  let d := nibbles (xmssMsg (List.replicate 32 0 ++ root ++ beBytes 0 32) m)
  d ++ (nibbles (beBytes ((d.map (15 - ·)).sum * 16) 2)).take 3

theorem digits_length (root m : List Byte) : (digits root m).length = 67 := by
  simp [digits, nibbles_length, xmssMsg, shake128, shake_length, beBytes, leBytes_length]

theorem digits_le (root m : List Byte) : ∀ x ∈ digits root m, x ≤ 15 := by
  intro x hx
  rcases List.mem_append.1 hx with h | h
  · exact nibbles_lt _ x h
  · exact nibbles_lt _ x (List.mem_of_mem_take h)

/-- The secret starts of the chains, and the authentication path, are zero. -/
def zero32 : List Byte := List.replicate 32 0

/-- The root of the key whose secrets are zero. -/
def zeroRoot (seed : List Byte) : List Byte :=
  treeRoot seed 0 0 (List.replicate 20 zero32) (ltree seed 0 7 0 ((List.range 67).map fun i => wotsChain seed 0 i 15 0 zero32))

/-- Its signature of `m`. -/
def zeroSign (seed m : List Byte) : List Byte :=
  beBytes 0 4 ++ (zero32 ++ (((digits (zeroRoot seed) m).mapIdx fun i x => wotsChain seed 0 i x 0 zero32).flatten ++
    List.replicate 640 0))

theorem chains_length (seed m : List Byte) :
    (((digits (zeroRoot seed) m).mapIdx fun i x => wotsChain seed 0 i x 0 zero32).flatten).length = 2144 := by
  have h : ∀ l : List (List Byte), (∀ x ∈ l, x.length = 32) → l.flatten.length = 32 * l.length := by
    intro l hl
    induction l with
    | nil => rfl
    | cons a l ih =>
      simp only [List.flatten_cons, List.length_append, List.length_cons, hl a (by simp), ih fun x hx => hl x (by simp [hx])]
      omega
  rw [h _ fun x hx => by
    obtain ⟨i, hi, rfl⟩ := List.mem_mapIdx.1 hx
    exact wotsChain_length _ _ _ _ _ _ (by simp [zero32])]
  simp [digits_length]

theorem zeroSign_length (seed m : List Byte) : (zeroSign seed m).length = 2820 := by
  have h4 : (beBytes 0 4).length = 4 := by rw [beBytes, List.length_reverse, leBytes_length]
  have hz : zero32.length = 32 := List.length_replicate
  rw [zeroSign, List.length_append, List.length_append, List.length_append, h4, hz, chains_length, List.length_replicate]

theorem zeroSign_verifies (key seed m : List Byte) (h1 : span key 4 32 = zeroRoot seed) (h2 : span key 36 32 = seed) :
    xmssVerify key m (zeroSign seed m) = true := by
  have h4 : (beBytes 0 4).length = 4 := by simp [beBytes, leBytes_length]
  have hz : zero32.length = 32 := by simp [zero32]
  have ha : span (zeroSign seed m) 0 4 = beBytes 0 4 := by
    rw [span, zeroSign, List.drop_zero, List.take_left' h4]
  have hr : span (zeroSign seed m) 4 32 = zero32 := by
    rw [span, zeroSign, List.drop_left' h4, List.take_left' hz]
  have hc : ∀ i (hi : i < 67), span (zeroSign seed m) (36 + 32 * i) 32 =
      wotsChain seed 0 i ((digits (zeroRoot seed) m)[i]'(by rw [digits_length]; exact hi)) 0 zero32 := by
    intro i hi
    rw [span, zeroSign, show 36 + 32 * i = 4 + (32 + 32 * i) by omega, ← List.drop_drop, List.drop_left' h4, ← List.drop_drop,
      List.drop_left' hz, span_flatten _ 32 i (fun x hx => by
        obtain ⟨j, hj, rfl⟩ := List.mem_mapIdx.1 hx
        exact wotsChain_length _ _ _ _ _ _ hz) (by simp [digits_length, hi])]
    simp
  have hp : ((List.range 20).map fun i => span (zeroSign seed m) (2180 + 32 * i) 32) = List.replicate 20 zero32 := by
    refine List.eq_replicate_iff.2 ⟨by simp, fun x hx => ?_⟩
    obtain ⟨i, hi, rfl⟩ := List.mem_map.1 hx
    have hi : i < 20 := List.mem_range.1 hi
    rw [span, zeroSign, show 2180 + 32 * i = 4 + (32 + (2144 + 32 * i)) by omega, ← List.drop_drop, List.drop_left' h4,
      ← List.drop_drop, List.drop_left' hz, ← List.drop_drop, List.drop_left' (chains_length seed m), List.drop_replicate,
      List.take_replicate, zero32]
    congr 1
    omega
  have hd : (nibbles (xmssMsg (zero32 ++ zeroRoot seed ++ beBytes 0 32) m) ++
      (nibbles (beBytes (((nibbles (xmssMsg (zero32 ++ zeroRoot seed ++ beBytes 0 32) m)).map (15 - ·)).sum * 16) 2)).take 3) =
      digits (zeroRoot seed) m := rfl
  have hk : (digits (zeroRoot seed) m).mapIdx (fun i x => wotsChain seed 0 i (15 - x) x (span (zeroSign seed m) (36 + 32 * i) 32)) =
      (List.range 67).map fun i => wotsChain seed 0 i 15 0 zero32 := by
    refine List.ext_getElem (by simp [digits_length]) fun i hi _ => ?_
    have hi : i < 67 := by simpa [digits_length] using hi
    have hx := digits_le (zeroRoot seed) m _ (List.getElem_mem (by rw [digits_length]; exact hi : i < _))
    simp only [List.getElem_mapIdx, hc i hi, List.getElem_map, List.getElem_range]
    have := wotsChain_add seed 0 i ((digits (zeroRoot seed) m)[i]'(by rw [digits_length]; exact hi))
      (15 - (digits (zeroRoot seed) m)[i]'(by rw [digits_length]; exact hi)) 0 zero32
    rw [Nat.zero_add, Nat.add_sub_cancel' hx] at this
    exact this
  have hi : leNat (beBytes 0 4).reverse = 0 := by decide
  simp only [xmssVerify, h1, h2, ha, hr, hi, hp, hd, hk, zeroSign_length]
  simp [zeroRoot]

/-! ### A container -/

/-- The public key of the container: its OID, its root, its seed. -/
def fwKey : List Byte := [9, 0, 0, 0] ++ zeroRoot zero32 ++ zero32

theorem zeroRoot_length (seed : List Byte) : (zeroRoot seed).length = 32 := by
  rw [zeroRoot, treeRoot_length _ _ _ _ _ (by simp)]

theorem fwKey_length : fwKey.length = 68 := by
  rw [fwKey, List.length_append, List.length_append, zeroRoot_length, zero32, List.length_replicate]
  rfl

/-- The first 24 bytes of the head. -/
def fwStart : List Byte :=
  [0x57, 0x46, 0x4E, 0x46, 1, 0, 0, 0, 0, 0x10, 0, 0, 0, 0, 0, 0, 0, 0, 0, 0, 0, 0, 0, 0]

theorem fwStart_length : fwStart.length = 24 := rfl

/-- The head of a container of 4,096 bytes entered at its start. -/
def fwHead : List Byte := fwStart ++ (fwKey ++ List.replicate 4260 0)

/-- The container. -/
def firmware : List Byte := fwHead ++ zeroSign zero32 fwHead

theorem fwHead_length : fwHead.length = 4352 := by
  rw [fwHead, List.length_append, List.length_append, fwStart_length, fwKey_length, List.length_replicate]

theorem firmware_low (o n : Nat) (h : o + n ≤ 24) :
    bytesAt firmware o n = bytesAt fwStart o n := by
  simp only [bytesAt, firmware, fwHead, List.append_assoc]
  rw [List.drop_append_of_le_length (by rw [fwStart_length]; omega),
    List.take_append_of_le_length (by rw [List.length_drop, fwStart_length]; omega)]

theorem firmware_high (o n : Nat) (h1 : 92 ≤ o) (h2 : o + n ≤ 4352) : bytesAt firmware o n = List.replicate n 0 := by
  obtain ⟨k, rfl⟩ := Nat.exists_eq_add_of_le h1
  rw [bytesAt, firmware, fwHead, List.append_assoc, show 92 + k = 24 + (68 + k) by omega, ← List.drop_drop,
    List.drop_left' fwStart_length,
    List.append_assoc, ← List.drop_drop, List.drop_left' fwKey_length,
    List.drop_append_of_le_length (by rw [List.length_replicate]; omega), List.drop_replicate,
    List.take_append_of_le_length (by rw [List.length_replicate]; omega), List.take_replicate]
  congr 1
  omega

theorem firmware_key : bytesAt firmware 24 68 = fwKey := by
  simp only [bytesAt, firmware, fwHead, List.append_assoc]
  rw [List.drop_left' fwStart_length, List.take_left' fwKey_length]

theorem firmware_oid : bytesAt firmware 24 4 = [9, 0, 0, 0] := by
  simp only [bytesAt, firmware, fwHead, fwKey, List.append_assoc]
  rw [List.drop_left' fwStart_length]
  exact List.take_left' rfl

theorem firmware_head : firmware.take (256 + 4096) = fwHead := by
  rw [firmware, List.take_left' fwHead_length]

theorem firmware_signature : bytesAt firmware (256 + 4096) 2820 = zeroSign zero32 fwHead := by
  rw [bytesAt, firmware, List.drop_left' fwHead_length, List.take_of_length_le (by rw [zeroSign_length])]

theorem firmware_length : firmware.length = 7172 := by rw [firmware, List.length_append, fwHead_length, zeroSign_length]

/-- What the fuses hold for the container. -/
def fused (b : Boot) : Boot := { b with fuseDigest := shake256 fwKey, fuseMin := 0, slotA := [], slotB := [] }

theorem firmware_passes (b : Boot) (h1 : b.fuseDigest = shake256 fwKey) (h2 : b.fuseMin = 0) : containerPasses b firmware := by
  have hs : leNat (bytesAt firmware 8 4) = 4096 := by rw [firmware_low 8 4 (by decide)]; decide
  have hk : span fwKey 4 32 = zeroRoot zero32 := by
    rw [span, fwKey, List.append_assoc, show List.drop 4 ([9, 0, 0, 0] ++ (zeroRoot zero32 ++ zero32)) = zeroRoot zero32 ++
      zero32 from
      List.drop_left' rfl, List.take_left' (zeroRoot_length _)]
  have hz : span fwKey 36 32 = zero32 := by
    have hl : ([9, 0, 0, 0] ++ zeroRoot zero32 : List Byte).length = 36 := by
      rw [List.length_append, zeroRoot_length]
      rfl
    rw [span, fwKey, List.drop_left' hl, List.take_of_length_le (by rw [zero32, List.length_replicate])]
  unfold containerPasses
  simp only [hs, firmware_low 0 4 (by decide), firmware_low 4 2 (by decide), firmware_low 12 4 (by decide),
    firmware_low 16 8 (by decide), firmware_low 6 2 (by decide), firmware_high 160 1 (by decide) (by decide),
    firmware_high 161 95 (by decide) (by decide), firmware_oid, firmware_key, firmware_head, firmware_signature, firmware_length,
    h1, h2, zeroSign_verifies fwKey zero32 fwHead hk hz]
  decide

/-- The container in the first slot, and in the second with nothing in the first. -/
def inA : State := { State.reset with boot := { fused State.reset.boot with slotA := firmware } }
def inB : State := { State.reset with boot := { fused State.reset.boot with slotB := firmware } }

theorem test_PackageBoots_slot_a : ∃ s : State, containerPasses s.boot s.boot.slotA := by
  have h : inA.boot.slotA = firmware := by simp only [inA]
  refine ⟨inA, ?_⟩
  rw [h]
  exact firmware_passes _ (by simp only [inA, fused]) (by simp only [inA, fused])

theorem test_PackageBoots_slot_b : ∃ s : State, ¬ containerPasses s.boot s.boot.slotA ∧ containerPasses s.boot s.boot.slotB := by
  have h : inB.boot.slotB = firmware := by simp only [inB]
  have h2 : inB.boot.slotA = [] := by simp only [inB, fused]
  refine ⟨inB, ?_, ?_⟩
  · rw [h2]
    exact fun h => absurd h.1 (by decide)
  · rw [h]
    exact firmware_passes _ (by simp only [inB, fused]) (by simp only [inB, fused])

end Sys2Proof.Tests
end

