-- ==== Sys2Proof/Tests/WitnessClauses.lean ====
section
/-! SUPPORT. Witnesses: states and operands that meet the hypotheses of the clauses that say what groups, the token post, the
prefix index, the engines, the cellars and the launches do. -/

namespace Sys2Proof.Tests

set_option Elab.async false -- one theorem at a time, so that few threads wait on the kernel

open Sys2Proof Sys2Proof.Machine Sys2Proof.Safety

/-! ### Groups -/

/-- Group 16385 as given. -/
def grouped (g : Group) : State := { base with groups := [(16385, g)] }

/-- A group of two contexts, of which the second joined while the phase was open. -/
def mixed : Group := { Group.reset with live := true, isOpen := true, need := 1, members := [(1, false), (2, true)] }

theorem test_GroupWords_membership : ∃ (s : State) (gk : Nat) (g : Group), mgetD s.groups gk Group.reset = g ∧
    (∀ m ∈ g.members, m.1 ≠ 3) ∧ (∃ m ∈ g.members, m.1 = 1) ∧ (g.isOpen = true ∧ (2, true) ∈ g.members) ∧
    (g.isOpen = true ∧ (1, true) ∉ g.members ∧ 1 ∉ g.arr) ∧
    ((∃ m ∈ g.members, m.1 = 2) ∧ (g.isOpen = false ∨ (2, true) ∈ g.members ∨ 2 ∈ g.arr)) :=
  ⟨grouped mixed, 16385, mixed, rfl, by decide, by decide, by decide, by decide, by decide⟩

/-- What `PhaseGoes` says of the arrival of context 1 is not empty: the phase completes, and the context that waits is met. -/
theorem test_GroupWords_completes : ∃ (s : State) (g o : Group) (c : Ctx) (p : Pend), mgetD s.groups 16385 Group.reset = g ∧
    o = (if g.isOpen then g else { g with isOpen := true, need := g.members.length,
                                            members := g.members.map fun m => (m.1, false) }) ∧
    o.isOpen = true ∧ (o.arr ++ [1]).length = (if o.fixed then o.n else o.need) ∧ o.next = [] ∧
    s.ctxAt 0 = some c ∧ c.waitNow = .gbar 0 4 1 g.phase ∧ c.uid ∈ o.arr ++ [1] ∧ c.pendOf 0 = some p ∧ p.wr = [.s 5 0] :=
  ⟨{ grouped { mixed with isOpen := false, members := [(1, false)] } with
      ctx := { base.ctx with block := .gbar 0 4 1 0, pend := [{ Pend.mk0 0 .s 0 with act := .remote, wr := [.s 5 0] }] } },
    _, _, _, _, rfl, rfl, rfl, rfl, rfl, rfl, rfl, by decide, rfl, rfl⟩

/-- A mode set in an open phase that lacks an arrival. -/
theorem test_GroupWords_mode : ∃ (s : State) (g : Group), mgetD s.groups 16385 Group.reset = g ∧ g.isOpen = true ∧
    g.arr.length < 2 := ⟨grouped mixed, mixed, rfl, rfl, by decide⟩

/-! ### The token post -/

/-- EMIT of token `id` at the descriptor, with `n` bytes held back. -/
def emitting (st f n : Nat) (id : Word) : State :=
  let s := serving st f 0x20000 id
  { s with mem := (s.mem.writeLE 0x20002 1 n).writeLE 0x20040 8 0x30000 }

/-- What the clauses share: EMIT runs at a descriptor of this state. -/
def Emits (s : State) (id : Nat) : Prop :=
  CanSerialise 0 [1, 2] s ∧ (s.ctx.reg 2).toNat = id ∧ id < 2 ^ 32 ∧
  Descriptor (popped 0 s) (.emit 0 5 1 2) (s.ctx.reg 1) (popped 0 s) hub0 0x20000 ∧
  id < (popped 0 s).cfgLE (vocOff (field (popped 0 s) 0x20000 0 1 % 8)) 4 ∧ (popped 0 s).bad = []

theorem emits_open (n : Nat) (h : n = 0 ∨ n = 2) : Emits (emitting 0 0 n 8) 8 := by
  refine ⟨⟨⟨rfl, rfl, rfl⟩, rfl, rfl, rfl⟩, rfl, by decide, ?_, ?_, rfl⟩
  · rcases h with rfl | rfl <;>
      exact descriptor_serving (by decide +kernel) (by decide +kernel) (by decide +kernel) rfl (by decide +kernel)
  · rcases h with rfl | rfl <;> decide +kernel

/-- The opening token with nothing held back, and with held bytes that become U+FFFD in the ring. -/
theorem test_EmitWord_opening : Emits (emitting 0 0 0 8) 8 ∧ Emits (emitting 0 0 2 8) 8 ∧
    field (popped 0 (emitting 0 0 0 8)) 0x20000 1 1 = 0 ∧ field (popped 0 (emitting 0 0 0 8)) 0x20000 2 1 = 0 ∧
    8 = (popped 0 (emitting 0 0 0 8)).cfgLE (vocOff (field (popped 0 (emitting 0 0 0 8)) 0x20000 0 1 % 8) + 4) 4 ∧
    field (popped 0 (emitting 0 0 2 8)) 0x20000 1 1 = 0 ∧ field (popped 0 (emitting 0 0 2 8)) 0x20000 2 1 ≠ 0 ∧
    3 ≤ (popped 0 (emitting 0 0 2 8)).textFree 0x20000 ∧
    ∃ t, (popped 0 (emitting 0 0 2 8)).hubPuts hub0 (([0xEF, 0xBF, 0xBD] : List Byte).mapIdx fun i x =>
      (BitVec.ofNat 64 (field (popped 0 (emitting 0 0 2 8)) 0x20000 64 8) + BitVec.ofNat 64
        ((field (popped 0 (emitting 0 0 2 8)) 0x20000 76 4 + i) % field (popped 0 (emitting 0 0 2 8)) 0x20000 72 4), x)) = (t,
          .ok ()) :=
  ⟨emits_open 0 (.inl rfl), emits_open 2 (.inr rfl), by decide +kernel, by decide +kernel, by decide +kernel, by decide +kernel,
    by decide +kernel, by decide +kernel, _, eq_of_val (by decide +kernel)⟩

/-- The same with a full ring. -/
def emitHeld : State := let s := emitting 0 0 2 8; { s with mem := s.mem.writeLE 0x2004C 4 256 }

theorem test_EmitWord_no_room : Emits emitHeld 8 ∧ field (popped 0 emitHeld) 0x20000 1 1 = 0 ∧
    field (popped 0 emitHeld) 0x20000 2 1 ≠ 0 ∧ (popped 0 emitHeld).textFree 0x20000 < 3 :=
  ⟨⟨⟨⟨rfl, rfl, rfl⟩, rfl, rfl, rfl⟩, rfl, by decide,
    descriptor_serving (by decide +kernel) (by decide +kernel) (by decide +kernel) rfl (by decide +kernel), by decide +kernel, rfl⟩,
    by decide +kernel, by decide +kernel, by decide +kernel⟩

/-- An ordinary token of two bytes, "a" and the lead of a pair, in text and in a call of which 63 bytes are captured. -/
def emitText (st : Nat) : State :=
  let s := emitting st 0 0 5
  { s with mem := (((s.mem.writeLE 40 4 0x31000).writeLE 44 1 2).writeBytes 0x31000 [0x61, 0xC3]).writeLE 0x20064 4 63 }

theorem emits_text (st : Nat) (h : st = 0 ∨ st = 1) : Emits (emitText st) 5 := by
  refine ⟨⟨⟨rfl, rfl, rfl⟩, rfl, rfl, rfl⟩, rfl, by decide, ?_, ?_, rfl⟩
  · rcases h with rfl | rfl <;>
      exact descriptor_serving (by decide +kernel) (by decide +kernel) (by decide +kernel) rfl (by decide +kernel)
  · rcases h with rfl | rfl <;> decide +kernel

theorem test_EmitWord_text : ∃ (s s1 t : State) (bs : List Byte) (out : List Byte × HoldBack), s1 = popped 0 s ∧ Emits s 5 ∧
    field s1 0x20000 1 1 = 0 ∧ 5 ≠ s1.cfgLE (vocOff (field s1 0x20000 0 1 % 8) + 4) 4 ∧ bs.length = 2 ∧
    bs = s1.tokenBytes (field s1 0x20000 0 1 % 8) 5 ∧ 3 * (bs.length + 3) ≤ s1.textFree 0x20000 ∧
    out = holdAll ⟨s1.mem.readBytes (0x20000 + 4) (Nat.min 3 (field s1 0x20000 2 1)), field s1 0x20000 3 1⟩ bs ∧
    s1.hubPuts hub0 (out.1.mapIdx fun i x => (BitVec.ofNat 64 (field s1 0x20000 64 8) +
      BitVec.ofNat 64 ((field s1 0x20000 76 4 + i) % field s1 0x20000 72 4), x)) = (t, .ok ()) :=
  ⟨emitText 0, _, _, [0x61, 0xC3], _, rfl, emits_text 0 (.inl rfl), by decide +kernel, by decide +kernel, rfl, by decide +kernel,
    by decide +kernel, rfl, eq_of_val (by decide +kernel)⟩

theorem test_EmitWord_captures : ∃ (s s1 t : State) (bs took : List Byte), s1 = popped 0 s ∧ Emits s 5 ∧
    field s1 0x20000 1 1 = 1 ∧ 5 ≠ s1.cfgLE (vocOff (field s1 0x20000 0 1 % 8) + 8) 4 ∧ took.length < bs.length ∧
    bs = s1.tokenBytes (field s1 0x20000 0 1 % 8) 5 ∧ took = bs.take (field s1 0x20000 96 4 - field s1 0x20000 100 4) ∧
    s1.hubPuts hub0 (took.mapIdx fun i x => (BitVec.ofNat 64 (field s1 0x20000 88 8 + field s1 0x20000 100 4) + BitVec.ofNat 64 i,
      x)) =
      (t, .ok ()) :=
  ⟨emitText 1, _, _, [0x61, 0xC3], [0x61], rfl, emits_text 1 (.inr rfl), by decide +kernel, by decide +kernel, by decide,
    by decide +kernel, by decide +kernel, eq_of_val (by decide +kernel)⟩

/-- The closing token, with future 1 free. -/
theorem test_EmitWord_closes : ∃ (s s1 : State) (f : Fin 65536), s1 = popped 0 s ∧ Emits s 9 ∧ field s1 0x20000 1 1 = 1 ∧
    9 = s1.cfgLE (vocOff (field s1 0x20000 0 1 % 8) + 8) 4 ∧ f ≠ 0 ∧ (mgetD s1.futures f.val Future.reset).state = .free ∧
    ∀ j < f, j ≠ 0 → (mgetD s1.futures j.val Future.reset).state ≠ .free :=
  ⟨emitting 1 0 0 9, _, 1, rfl, ⟨⟨⟨rfl, rfl, rfl⟩, rfl, rfl, rfl⟩, rfl, by decide,
    descriptor_serving (by decide +kernel) (by decide +kernel) (by decide +kernel) rfl (by decide +kernel), by decide +kernel, rfl⟩,
    by decide +kernel, by decide +kernel, by decide, rfl, fun j h1 h2 => absurd (Fin.lt_one_iff j |>.1 h1) h2⟩

/-- A continuation byte in and out of each lead's range. -/
theorem test_EmitWord_holdback : ∃ (a b c : HoldBack) (x y : Byte), a.held = [] ∧ b.held = [0xE0] ∧ b.need = 2 ∧ c.held = [0xF4] ∧
    ((0xA0 : Byte) ≤ x ∧ x ≤ 0xBF) ∧ ((0x8F : Byte) < y) :=
  ⟨⟨[], 0⟩, ⟨[0xE0], 2⟩, ⟨[0xF4], 3⟩, 0xA0, 0x90, rfl, rfl, rfl, rfl, by decide, by decide⟩

/-! ### The prefix index -/

/-- The request after it has been read, with one entry of the index. -/
def knowing (x : Prefix) : State := { requested with index := [(3, x)] }

/-- An entry of the hash `x`, whose block is at 0. -/
def entryFor (x : Word) : Prefix := { Prefix.reset with valid := true, hash := x, asid := 1 }

/-- The ids of the request's one block are zeros. -/
def ids16 : List (BitVec 32) := List.replicate 16 0

theorem test_PrefixWords_scan_none : ∃ (s s1 : State) (x : Word), s.pxIds hub0 px16 0 = (s1, .ok ids16) ∧ x = mix 0 ids16 ∧
    ∀ e, ¬ indexed s1 x px16.slot hub0.asid e :=
  ⟨requested, _, _, eq_of_val (by decide +kernel), rfl, fun e h => absurd h.2.1 (by
    rw [show mgetD (requested.pxIds hub0 px16 0).1.index e Prefix.reset = Prefix.reset from rfl]; decide)⟩

theorem knowing_lowest {s : State} {x : Word} {i slot asid e : Nat} {p : Prefix} (h : s.index = [(i, p)]) (he : e < i) :
    ¬ indexed s x slot asid e := by
  intro h2
  have h3 : mgetD s.index e Prefix.reset = Prefix.reset := by
    rw [h, mgetD, mget, if_neg (by simpa using Nat.ne_of_lt he)]
    rfl
  have h4 := h2.2.1
  rw [h3] at h4
  exact absurd h4 (by decide)

theorem test_PrefixWords_scan_found : ∃ (s s1 s2 s3 : State) (x : Word) (e d : Nat) (bs : List Byte),
    s.pxIds hub0 px16 0 = (s1, .ok ids16) ∧ x = mix 0 ids16 ∧ indexed s1 x px16.slot hub0.asid e ∧
    (∀ j < e, ¬ indexed s1 x px16.slot hub0.asid j) ∧ s1.hubRead hub0 (mgetD s1.index e Prefix.reset).block 64 = (s2, .ok bs) ∧
    idsOf bs = ids16 ∧ s2.hubLoc hub0 (mgetD s2.index e Prefix.reset).block 128 .write = (s3, .ok d) :=
  ⟨knowing (entryFor (mix 0 ids16)), _, _, _, _, 3, 0, List.replicate 64 0, eq_of_val (by decide +kernel), rfl,
    by unfold indexed; decide +kernel, fun j h => knowing_lowest rfl h, eq_of_val (by decide +kernel), by decide,
      eq_of_val (by decide +kernel)⟩

theorem test_PrefixWords_scan_other : ∃ (s s1 s2 : State) (x : Word) (e : Nat) (bs : List Byte),
    s.pxIds hub0 px16 0 = (s1, .ok ids16) ∧ x = mix 0 ids16 ∧ indexed s1 x px16.slot hub0.asid e ∧
    (∀ j < e, ¬ indexed s1 x px16.slot hub0.asid j) ∧ s1.hubRead hub0 (mgetD s1.index e Prefix.reset).block 64 = (s2, .ok bs) ∧
    idsOf bs ≠ ids16 :=
  ⟨{ knowing (entryFor (mix 0 ids16)) with index := [(3, { entryFor (mix 0 ids16) with block := 0x20000 })] }, _, _, _, 3,
    (popped 0 request).mem.readBytes 0x20000 64, eq_of_val (by decide +kernel), rfl,
    by unfold indexed; decide +kernel, fun j h => knowing_lowest rfl h, eq_of_val (by decide +kernel), by decide +kernel⟩

/-- The package in which the block at 0 of hash 7 is being inserted. -/
def inserting (index : SMap Prefix) : State := { requested with index := index }

theorem test_PrefixWords_insert_again : ∃ (s s1 s2 : State) (e : Nat) (bs : List Byte), s1 = headed s 0 0 7 ids16 ∧
    indexed s1 7 0 hub0.asid e ∧ (∀ j < e, ¬ indexed s1 7 0 hub0.asid j) ∧
    s1.hubRead hub0 (mgetD s1.index e Prefix.reset).block 64 = (s2, .ok bs) ∧ idsOf bs = ids16 :=
  ⟨inserting [(3, entryFor 7)], _, _, 3, List.replicate 64 0, rfl, by unfold indexed; decide +kernel,
    fun j h => knowing_lowest rfl h, eq_of_val (by decide +kernel), by decide⟩

theorem everywhere_at {β : Type} (v d : β) (n j : Nat) (h : j < n) : mgetD (everywhere v 0 n) j d = v := by
  have := mget_everywhere v n 0 j h
  rw [Nat.zero_add] at this
  rw [mgetD, this, Option.getD_some]

/-- None of the entries is of hash 7. -/
theorem not_indexed {s : State} {x : Prefix} (h : s.index = everywhere x 0 64) (hx : x.hash ≠ 7) (j slot asid : Nat) :
    ¬ indexed s 7 slot asid j := by
  intro h2
  have h3 := h2.2.2.1
  rw [h, everywhere_at x Prefix.reset 64 j h2.1] at h3
  exact hx h3

theorem test_PrefixWords_insert_new : ∃ (s s1 : State) (e : Nat), s1 = headed s 0 0 7 ids16 ∧
    (∀ j, ¬ indexed s1 7 0 hub0.asid j) ∧ lowestFree s1 e :=
  ⟨inserting (everywhere (entryFor 8) 0 1), _, 1, rfl, fun j h => by
    have h3 := h.2.1
    rcases Nat.eq_zero_or_pos j with rfl | hj
    · exact absurd h.2.2.1 (by decide)
    · have h4 : mgetD (headed (inserting (everywhere (entryFor 8) 0 1)) 0 0 7 ids16).index j Prefix.reset = Prefix.reset := by
        show (if j = 0 then some _ else none).getD Prefix.reset = _
        rw [if_neg (by omega)]
        rfl
      rw [h4] at h3
      exact absurd h3 (by decide), ⟨by decide, rfl, fun j h => by
    obtain rfl : j = 0 := by omega
    rfl⟩⟩

theorem test_PrefixWords_insert_evicts : ∃ (s s1 s2 : State) (e d : Nat), s1 = headed s 0 0 7 ids16 ∧
    (∀ j, ¬ indexed s1 7 0 hub0.asid j) ∧ givenUp s1 e ∧ (mgetD s1.index e Prefix.reset).asid = hub0.asid ∧
    s1.hubLoc hub0 (mgetD s1.index e Prefix.reset).block 128 .write = (s2, .ok d) :=
  ⟨inserting (everywhere (entryFor 8) 0 64), _, _, 0, 0, rfl, fun j => not_indexed rfl (by decide) j 0 hub0.asid,
    ⟨by decide, rfl, fun j h => by
      rw [show (headed (inserting (everywhere (entryFor 8) 0 64)) 0 0 7 ids16).index = everywhere (entryFor 8) 0 64 from rfl,
        everywhere_at _ _ 64 j h]
      rfl, fun j h _ => by
      rw [show (headed (inserting (everywhere (entryFor 8) 0 64)) 0 0 7 ids16).index = everywhere (entryFor 8) 0 64 from rfl,
        everywhere_at _ _ 64 j h]
      exact .inr ⟨rfl, Nat.zero_le _⟩⟩, rfl, eq_of_val (by decide +kernel)⟩

theorem test_PrefixWords_insert_full : ∃ (s s1 : State), s1 = headed s 0 0 7 ids16 ∧ (∀ j, ¬ indexed s1 7 0 hub0.asid j) ∧
    ∀ j < 64, (mgetD s1.index j Prefix.reset).valid = true ∧ (mgetD s1.index j Prefix.reset).pins ≠ 0 :=
  ⟨inserting (everywhere { entryFor 8 with pins := 1 } 0 64), _, rfl, fun j => not_indexed rfl (by decide) j 0 hub0.asid,
    fun j h => by
      rw [show (headed (inserting (everywhere { entryFor 8 with pins := 1 } 0 64)) 0 0 7 ids16).index =
        everywhere { entryFor 8 with pins := 1 } 0 64 from rfl, everywhere_at _ _ 64 j h]
      decide⟩

/-- PXREL's first address, of block 0: an entry has it, or none. -/
theorem test_PrefixWords_named : ∃ (s s1 s2 : State) (bs : List Byte) (e d : Nat), s.hubRead hub0 0 8 = (s1, .ok bs) ∧
    (e < 64 ∧ (mgetD s1.index e Prefix.reset).valid = true ∧ (mgetD s1.index e Prefix.reset).asid = hub0.asid ∧
      (mgetD s1.index e Prefix.reset).block = BitVec.ofNat 64 (leNat bs)) ∧ e = 0 ∧
    s1.hubLoc hub0 (BitVec.ofNat 64 (leNat bs)) 128 .write = (s2, .ok d) :=
  ⟨inserting [(0, entryFor 8)], _, _, List.replicate 8 0, 0, 0, eq_of_val (by decide +kernel),
    ⟨by decide, by decide +kernel, by decide +kernel, by decide +kernel⟩, rfl, eq_of_val (by decide +kernel)⟩

theorem test_PrefixWords_unnamed : ∃ (s s1 : State) (bs : List Byte), s.hubRead hub0 0 8 = (s1, .ok bs) ∧
    ∀ e, ¬ (e < 64 ∧ (mgetD s1.index e Prefix.reset).valid = true) :=
  ⟨requested, _, List.replicate 8 0, eq_of_val (by decide +kernel), fun e h => absurd h.2 (by
    rw [show mgetD (requested.hubRead hub0 0 8).1.index e Prefix.reset = Prefix.reset from rfl]; decide)⟩

/-- Reference counts at each bound. -/
theorem test_PrefixWords_counts : ∀ v ∈ [0, 1, 2, 4094, 4095, 32768, 36863], ∃ s : State, s.mem.readLE (0 + 64) 2 = v := by
  intro v h
  simp only [List.mem_cons, List.not_mem_nil, or_false] at h
  rcases h with rfl | rfl | rfl | rfl | rfl | rfl | rfl
  · exact ⟨{ base with mem := base.mem.writeLE 64 2 0 }, by decide +kernel⟩
  · exact ⟨{ base with mem := base.mem.writeLE 64 2 1 }, by decide +kernel⟩
  · exact ⟨{ base with mem := base.mem.writeLE 64 2 2 }, by decide +kernel⟩
  · exact ⟨{ base with mem := base.mem.writeLE 64 2 4094 }, by decide +kernel⟩
  · exact ⟨{ base with mem := base.mem.writeLE 64 2 4095 }, by decide +kernel⟩
  · exact ⟨{ base with mem := base.mem.writeLE 64 2 32768 }, by decide +kernel⟩
  · exact ⟨{ base with mem := base.mem.writeLE 64 2 36863 }, by decide +kernel⟩

/-! ### Rows of the engines -/

/-- A drain with its band's arrival of kind `kind`, of 16 rows of 70 elements in the format `acc` from row 30 of bank 2 on. -/
def draining (acc kind : Nat) : QEntry :=
  command (.mdrain 0 1 2 3) 1 0 [0x204610, BitVec.ofNat 64 (256 * acc), 0, 0, 0x1E02, 0, 0, 0,
    BitVec.ofNat 64 (0x4000008000 + 2 ^ 30 * kind)]

/-- Core 0's context issues it. -/
def byCore0 : Issuer := { k := 0, id := 0, priv := false }

/-- Its first row, which crosses no bank's end, and its last, which ends the band, with arrivals of each kind. -/
theorem test_MatrixPortWorks_drained : ∀ acc ∈ [0, 1, 2], ∀ kind ∈ [0, 1, 2], ∀ i ∈ [0, 15], ∃ (s t : State) (e : QEntry),
    e = draining acc kind ∧
    e.shapeOk = true ∧ e.mapOk 0 = true ∧ i < e.mM ∧ e.mapKind 0 = kind ∧ 0 = i / 16 ∧ s.bad = [] ∧ s.windows = [] ∧
    s.mem.wf = true ∧ (s.engine 7).has 2 = true ∧ (s.engine 7).has 4 = false ∧ s.drainRow byCore0 7 e i = t := by
  intro acc h1 kind h2 i h3
  refine ⟨{ base with engines := [(7, { Engine.reset with owner := [(2, 0)] })] }, _, _, rfl, ?_, ?_, ?_, ?_, ?_, rfl, rfl, rfl,
    rfl, rfl, rfl⟩ <;>
    simp only [List.mem_cons, List.not_mem_nil, or_false] at h1 h2 h3 <;> rcases h1 with rfl | rfl | rfl <;>
    rcases h2 with rfl | rfl | rfl <;> rcases h3 with rfl | rfl <;> decide

theorem test_MatrixPortWorks_filled : ∃ (s t : State) (e : QEntry) (bs : List Byte), e.shapeOk = true ∧ 0 < e.mM ∧
    bs.length = e.mN * accBytes e.mAcc ∧ s.windows = [] ∧ s.mem.wf = true ∧ s.fillRow byCore0 7 e 0 bs = t :=
  ⟨base, _, draining 1 0, List.replicate 560 0, by decide, by decide, by rw [List.length_replicate]; decide, rfl, rfl, rfl⟩

theorem test_MatrixPortWorks_unallocated : ∃ (s : State) (c : Ctx) (e : QEntry), s.bad = [] ∧ s.ctxAt byCore0.k = some c ∧
    e.mapKind (0 / 16) ≠ 1 ∧ ∃ j < e.mN, (s.engine 7).has (e.tile 0 j).1 = false :=
  ⟨base, _, draining 1 0, rfl, rfl, by decide, 0, by decide, rfl⟩

/-- An INT32 accumulator whose chunk has a number for its sum. -/
theorem test_MatrixChunkAccumulates_int : ∃ (s t : State) (e : QEntry) (va vb : List (List Val)) (q : Q), e.shapeOk = true ∧
    s.bad = [] ∧ s.mem.wf = true ∧ s.mmacAdd byCore0 0 e va vb = t ∧ e.mAcc = 2 ∧ 0 < e.mM ∧ 0 < e.mN ∧
    chunkSum (nthD va 0 []) (vb.map fun r => nthD r 0 (.nan false)) = .fin q :=
  ⟨base, _, command (.mmac 0 1 2 3) 0 0 [0x200101, 0x200], [[.fin (qOfInt 3 1 false)]], [[.fin (qOfInt 5 1 false)]], _, by decide,
    rfl, rfl, rfl, by decide, by decide,
    by decide, rfl⟩

/-- The row of 17 bytes within the scratchpad: its second granule. -/
theorem test_CopyCommandsRun_raw : ∃ (n m c1 o1 c2 o2 : Nat) (s : State) (e : QEntry) (bs : List Byte), e.dLen false (0 / 4) 0 = n ∧
    16 < n ∧ m = Nat.min (16 - (e.dRow 0 + BitVec.ofNat 64 16).toNat % 16) (n - 16) ∧
    placeOf (0 / 4) (e.dRow 0 + BitVec.ofNat 64 16).toNat = .spad c2 o2 ∧ e.cDstKey = false ∧
    placeOf (0 / 4) (e.sRow 0).toNat = .spad c1 o1 ∧ o1 + e.cLen ≤ 2 ^ 19 ∧ e.cSrcKey false = false ∧ s.bad = [] ∧
    s.windows = [] ∧ e.rowForm false (0 / 4) 0 = .raw ∧ bs = s.mem.readBytes (spadLoc c1 (o1 + 16)) m :=
  ⟨17, 1, 0, 32, 0, 16, atC (started copy17), started copy17, [0], by decide +kernel, by decide, by decide +kernel,
    by decide +kernel,
    by decide +kernel, by decide +kernel, by decide +kernel, by decide +kernel, rfl, rfl, by decide +kernel, by decide +kernel⟩

/-- A row of 64 bytes of FP32 converted to BF16, with full-empty arrivals. -/
def convCopy : QEntry := started (command (.copy 0 1 2) ownWin (ownWin + 0x40) [64, 1, 0, 0, 0, 1, 0x212, 0])

theorem test_CopyCommandsRun_converted : ∃ (m c1 o1 c2 o2 se de : Nat) (sf df : Option Nat) (s : State) (e : QEntry),
    e.dLen false (0 / 4) 0 = 32 ∧ m = Nat.min (16 - (e.dRow 0 + BitVec.ofNat 64 16).toNat % 16) (32 - 16) ∧
    placeOf (0 / 4) (e.dRow 0 + BitVec.ofNat 64 16).toNat = .spad c2 o2 ∧ e.cDstKey = false ∧
    placeOf (0 / 4) (e.sRow 0).toNat = .spad c1 o1 ∧ o1 + e.cLen ≤ 2 ^ 19 ∧ e.cSrcKey false = false ∧ s.bad = [] ∧
    s.windows = [] ∧ e.rowForm false (0 / 4) 0 = .conv se de sf df ∧ se < 12 ∧ de < 12 ∧ e.cLen * 8 % tyWidth se = 0 ∧
    e.cLen * 8 / tyWidth se * tyWidth de % 8 = 0 ∧ e.cKind = 1 ∧ e.lastWrite false (0 / 4) 0 16 = true :=
  ⟨16, 0, 64, 0, 16, 1, 2, none, none, atC convCopy, convCopy, by decide +kernel, by decide +kernel, by decide +kernel,
    by decide +kernel, by decide +kernel, by decide +kernel, by decide +kernel, rfl, rfl, by decide +kernel, by decide, by decide,
    by decide +kernel, by decide +kernel, by decide +kernel, by decide +kernel⟩

theorem test_CopyCommandsRun_filled : ∃ (n c2 o2 : Nat) (s : State) (e : QEntry), e.dLen true (0 / 4) 0 = n ∧ 0 < n ∧
    placeOf (0 / 4) (e.dRow 0 + BitVec.ofNat 64 0).toNat = .spad c2 o2 ∧ e.cDstKey = false ∧ s.bad = [] ∧ s.windows = [] ∧
    ∀ se de sf df, e.rowForm true (0 / 4) 0 ≠ .conv se de sf df :=
  ⟨17, 0, 0, atC (started copy17), started (command (.cfill 0 1 2) ownWin 0x0102030405060708 [17, 1, 0, 0, 0, 0, 0, 0]),
    by decide +kernel,
    by decide, by decide +kernel, by decide +kernel, rfl, rfl, fun _ _ _ _ h => nomatch h⟩

/-! ### Engines, the relay, traps -/

/-- A refused MBALLOC for s31. -/
theorem test_EnginesServe_refused_alloc : ∃ (s : State) (c : Ctx) (e : QEntry) (p0 : Pend), s.ctxAt 0 = some c ∧
    e.word = some (.mballoc 0 31 2 3) ∧ c.pendOf e.id = some p0 ∧ p0.st = .m ∧ p0.flags = 0 ∧ (31 : SReg) ≠ 0 ∧ .s 31 ∈ p0.dsts ∧
    c.pendingBefore e.id (.s 31) = false :=
  ⟨allocated, _, entryOf (.mballoc 0 31 2 3), _, rfl, rfl, rfl, rfl, rfl, by decide, by decide, by decide +kernel⟩

theorem test_EnginesServe_idle : ∃ s : State, s.matPick 159 = none := ⟨base, by decide +kernel⟩

/-- A band of one granule, and of none. -/
theorem test_EnginesServe_band : ∃ len g off : Nat, 0 < len ∧ off / 16 ≤ g ∧ 16 * g < off + len := ⟨1, 2, 32, by decide,
    by decide, by decide⟩

/-- The send on its way under a descriptor of an arrival kind, in slot 7. -/
def fixedMove (kind : Nat) : RelaySend := { moving with slot := some 7, d1 := BitVec.ofNat 64 (2 ^ 27 + 2 ^ 19 * kind) }
def fixedSend (kind : Nat) : Channel := { outbound with sends := [fixedMove kind] }

/-- A send that a disable gave slot 7, under a descriptor whose arrivals fill granules, are counted, and neither. -/
theorem test_RelayChannels_fixed : ∀ kind ∈ [0, 1, 2],
    ∃ (s : State) (c : Channel) (x : RelaySend) (rest : List RelaySend) (k recv off : Nat)
    (c0 : Ctx), s.channel 32 = c ∧ c.sends = x :: rest ∧ x.slot = some 7 ∧ s.berthOf x.ctx = some k ∧ s.ctxAt k = some c0 ∧
    (c0.pendOf x.id).isSome = true ∧ s.bad = [] ∧ (∀ y ∈ s.saved, y.2.uid ≠ x.ctx) ∧ recv = x.d0.toNat / 2 ^ 11 % 2 ^ 11 ∧
    off = x.d1.toNat % 2 ^ 19 + 16 * (x.d0.toNat / 2 ^ 32 % 2 ^ 15) * x.slot.getD c.next ∧
    s.arrivalLocked recv [⟨0, spadLoc recv off, x.len, 0, false⟩] = false ∧ Unmirrored s (spadLoc recv off) x.len ∧
    x.d1.toNat / 2 ^ 19 % 4 = kind := by
  intro kind h
  refine ⟨withChannel 32 (fixedSend kind) (pending (Pend.mk0 0 .c 0)), fixedSend kind, fixedMove kind, [], 0, 768, 112, _, ?_,
    rfl, rfl,
    ?_, rfl, rfl, ?_, ?_, ?_, ?_, ?_, unmirrored_base rfl _ _, ?_⟩ <;>
    simp only [List.mem_cons, List.not_mem_nil, or_false] at h <;> rcases h with rfl | rfl | rfl <;> decide +kernel

/-- The enablement, kept and disabled. -/
theorem test_RelayChannels_kept : chanRefuses 32 outbound ((outbound.d0 ||| 0x4000000) &&& 0x7FFFFFFFFFFFFFFF) outbound.d1 = false ∧
    outbound.en = true ∧ chanRefuses 32 outbound ((0x106180008 ||| 0x4000000) &&& 0x7FFFFFFFFFFFFFFF) outbound.d1 = true ∧
    chanReserved 0x40000000 0 = true ∧ chanReserved (outbound.d0 &&& 0x7FFFFFFFFBFFFFFF) outbound.d1 = false ∧
      Channel.reset.en = false := by
  decide +kernel

theorem test_TrapsAreTaken_nobody : ∃ s : State, s.ctxAt 4 = none := ⟨base, by decide +kernel⟩

theorem test_TrapsAreTaken_quiet : ∃ (s : State) (c : Ctx), s.ctxAt 0 = some c ∧ c.priv = false ∧ c.afr = [] ∧ c.preempt = none :=
  ⟨base, _, rfl, rfl, rfl, rfl⟩

theorem test_TrapsAreTaken_halted : ∃ (s : State) (c : Ctx), s.ctxAt 0 = some c ∧ c.block = .halted ∧ c.preempt = none :=
  ⟨on fun c => { c with block := .halted, afr := [record 11] }, _, rfl, rfl, rfl⟩

/-- An entry that is suspended already, and one that is not there. -/
theorem test_TrapsAreTaken_engine_again : ∃ (s : State) (c : Ctx), s.ctxAt 0 = some c ∧
    (∀ x ∈ c.min, x.id = 0 → x.susp = true) ∧ (∀ x ∈ c.cact, x.id = 0 → x.susp = true) ∧ (∀ x ∈ c.min, x.id ≠ 9) ∧
    c.min ≠ [] ∧ c.cact ≠ none :=
  ⟨on fun c => { c with min := [{ blankEntry 0 with susp := true }], cact := some { blankEntry 0 with susp := true } }, _, rfl,
    by decide,
    by decide, by decide, by decide, by decide⟩

theorem test_TrapsAreTaken_engine_turn : ∃ (s : State) (c : Ctx) (e : QEntry), s.ctxAt 0 = some c ∧
    (c.min.find? fun x => x.id == 0) = some e ∧ e.susp = false ∧ (s.engine (capObj e.cap)).serving = some 0 :=
  ⟨{ atEngine (entryOf (.mmac 0 1 2 3)) with engines := [(0, { Engine.reset with serving := some 0 })] }, _, _, rfl, rfl, rfl, rfl⟩

theorem test_PrivilegedSteps_saved : ∃ (s : State) (c : Ctx), s.ctxAt 0 = some c ∧ c.saved = true ∧ ∃ x ∈ s.saved,
    x.2.uid = c.uid :=
  ⟨{ on (fun c => { c with saved := true }) with saved := [(0x10000, base.ctx.toSaved 0)] }, _, rfl, rfl, _, .head _, rfl⟩

/-! ### Wakes and slices -/

/-- The wake with its header or its status word in a page that is not there, and with a frame whose generation has changed. -/
def wakeHdr (hdr status gen : Nat) : State :=
  { waking with
    cfg := (waking.cfg.writeLE 0x1000 8 hdr).writeLE 0x1018 8 status
    mem := waking.mem.writeLE (0x1FE00000000 + 8 * gen) 8 16 }

/-- What the wakes of slot 0 share. -/
def Wakes (s u : State) (e : EnvEntry) : Prop :=
  (s.cfg.read 0x1030).getLsbD 0 = false ∧ u = { s with cfg := s.cfg.write 0x1030 (s.cfg.read 0x1030 ||| 1) } ∧
  wakeEarly u (s.wakeOf 0) = 0 ∧ u.env (s.wakeOf 0).env = some e

/-- The state after such a doorbell has set busy. -/
def rung (s : State) : State := { s with cfg := s.cfg.write 0x1030 (s.cfg.read 0x1030 ||| 1) }

/-- How a unit's work ends: 0 well, 1 with a fault, 2 with another try. -/
def endOf {α : Type} (x : State × Eng α) : Nat := match x.2 with | .ok _ => 0 | .fault _ => 1 | .retry => 2

theorem fault_of {α : Type} {x : State × Eng α} (h : endOf x = 1) : ∃ z, x = (x.1, .fault z) := by
  obtain ⟨s, v | t | _⟩ := x
  · cases h
  · exact ⟨t, rfl⟩
  · cases h

theorem retry_of {α : Type} {x : State × Eng α} (h : endOf x = 2) : x = (x.1, .retry) := by
  obtain ⟨s, v | t | _⟩ := x
  · cases h
  · cases h
  · rfl

/-- How a search for locations ends. -/
def locsEnd (x : State × Except HubNo (List Nat)) : Nat :=
  match x.2 with | .ok _ => 0 | .error .fault => 1 | .error .later => 2

theorem locs_fault {x : State × Except HubNo (List Nat)} (h : locsEnd x = 1) : x = (x.1, .error .fault) := by
  obtain ⟨s, (_ | _) | v⟩ := x
  · rfl
  · cases h
  · cases h

theorem locs_later {x : State × Except HubNo (List Nat)} (h : locsEnd x = 2) : x = (x.1, .error .later) := by
  obtain ⟨s, (_ | _) | v⟩ := x
  · cases h
  · rfl
  · cases h

/-- The header's bytes as the wake's checks read them. -/
def hdrRead (s : State) : State × Eng (List Byte) := (rung s).hubRead { root := 0x40000, asid := 1, ks := [] } (s.wakeOf 0).hdr 64

theorem test_HostWritesWork_header_fault : ∃ (s u s1 : State) (e : EnvEntry) (z : Trap), Wakes s u e ∧
    u.hubRead { root := e.root.toNat, asid := e.asid, ks := [] } (s.wakeOf 0).hdr 64 = (s1, .fault z) := by
  obtain ⟨z, h⟩ := fault_of (x := hdrRead (wakeHdr 0x40000000 0x30000 0)) (by decide +kernel)
  exact ⟨wakeHdr 0x40000000 0x30000 0, _, _, wakeEnv, z, ⟨by decide +kernel, rfl, by decide +kernel, by decide +kernel⟩, h⟩

theorem test_HostWritesWork_header_later : ∃ (s u s1 : State) (e : EnvEntry), Wakes s u e ∧
    u.hubRead { root := e.root.toNat, asid := e.asid, ks := [] } (s.wakeOf 0).hdr 64 = (s1, .retry) :=
  ⟨wakeHdr 0x20000 0x30000 0x20, _, _, wakeEnv, ⟨by decide +kernel, rfl, by decide +kernel, by decide +kernel⟩,
    retry_of (x := hdrRead (wakeHdr 0x20000 0x30000 0x20)) (by decide +kernel)⟩

theorem hdrRead_ok (s : State) (h : okB (hdrRead s) = true) : hdrRead s = ((hdrRead s).1, .ok ((valOf (hdrRead s)).getD [])) := by
  revert h
  generalize hdrRead s = x
  obtain ⟨t, v | z | _⟩ := x
  · exact fun _ => rfl
  · exact nofun
  · exact nofun

theorem test_HostWritesWork_status_fault : ∃ (s u s1 s2 : State) (e : EnvEntry) (bs : List Byte), Wakes s u e ∧
    u.hubRead { root := e.root.toNat, asid := e.asid, ks := [] } (s.wakeOf 0).hdr 64 = (s1, .ok bs) ∧
    s1.statusLocs e (s.wakeOf 0).status = (s2, .error .fault) :=
  ⟨wakeHdr 0x20000 0x40000000 0, _, _, _, wakeEnv, _, ⟨by decide +kernel, rfl, by decide +kernel, by decide +kernel⟩,
    hdrRead_ok (wakeHdr 0x20000 0x40000000 0) (by decide +kernel), locs_fault (by decide +kernel)⟩

theorem test_HostWritesWork_status_later : ∃ (s u s1 s2 : State) (e : EnvEntry) (bs : List Byte), Wakes s u e ∧
    u.hubRead { root := e.root.toNat, asid := e.asid, ks := [] } (s.wakeOf 0).hdr 64 = (s1, .ok bs) ∧
    s1.statusLocs e (s.wakeOf 0).status = (s2, .error .later) :=
  ⟨wakeHdr 0x20000 0x30000 0x30, _, _, _, wakeEnv, _, ⟨by decide +kernel, rfl, by decide +kernel, by decide +kernel⟩,
    hdrRead_ok (wakeHdr 0x20000 0x30000 0x30) (by decide +kernel), locs_later (by decide +kernel)⟩

/-- A header of another magic number. -/
def wakeBad : State := { waking with mem := waking.mem.writeLE 0x20000 1 0 }

theorem test_HostWritesWork_late_code : ∃ (s u s1 s2 : State) (e : EnvEntry) (bs : List Byte) (ps : List Nat), Wakes s u e ∧
    u.hubRead { root := e.root.toNat, asid := e.asid, ks := [] } (s.wakeOf 0).hdr 64 = (s1, .ok bs) ∧
    s1.statusLocs e (s.wakeOf 0).status = (s2, .ok ps) ∧ wakeLate s2 (s.wakeOf 0) e.asid bs ≠ 0 := by
  obtain ⟨ps, hp⟩ := some_val (x := locsOf ((hdrRead wakeBad).1.statusLocs wakeEnv (wakeBad.wakeOf 0).status)) (by decide +kernel)
  refine ⟨wakeBad, rung wakeBad, (hdrRead wakeBad).1, ((hdrRead wakeBad).1.statusLocs wakeEnv (wakeBad.wakeOf 0).status).1, wakeEnv,
    (valOf (hdrRead wakeBad)).getD [], ps, ?_, ?_, ?_, ?_⟩
  · exact ⟨by decide +kernel, rfl, by decide +kernel, by decide +kernel⟩
  · exact hdrRead_ok wakeBad (by decide +kernel)
  · exact eq_of_locs hp
  · decide +kernel

/-- A launch of `n` threads on core 1, of one thread a team. -/
def launchOn (first n cap rows : Nat) (resident : List Team) : Launch :=
  { id := 1, slot := 0, hdr := 0x20000, args := 0, first := first, count := 1, threads := n, status := 0x30000, save := 0x50000,
    env := 0,
    entry := 0x10000, rows := rows, gran := 16, scratch := 0, prio := 0, cap := cap, fresh := resident.length, swapped := [],
    resident := resident, ended := 0, bits := 0, gone := [], leaving := none, reported := true, again := none }

theorem test_HostWritesWork_reported : ∃ (s : State) (l : Launch), s.launches = [l] ∧ l.slot = 0 ∧ l.reported = false :=
  ⟨{ base with launches := [{ launchOn 1 1 1 16 [] with reported := false }] }, _, rfl, rfl, rfl⟩

/-- A slice boundary admits a team to core 1 where it fits, and not where its rows do not. -/
theorem test_HostWritesWork_admits : ∀ rows ∈ [16, 80], ∃ (s : State) (l : Launch) (e : EnvEntry) (b : Nat), s.launches = [l] ∧
    l.leaving = none ∧ l.count = 1 ∧ l.fresh < l.threads ∧ l.fresh ∉ l.gone ∧ l.resident.length + 1 = l.cap ∧ s.env l.env = some e ∧
    s.freeBerth l.first = some b ∧ s.fits l.first l.rows l.gran l.scratch = decide (rows = 16) := by
  intro rows h
  simp only [List.mem_cons, List.not_mem_nil, or_false] at h
  rcases h with rfl | rfl
  · exact ⟨{ serving 0 0 0 0 with launches := [launchOn 1 2 1 16 []] }, _, wakeEnv, 0, rfl, rfl, rfl, by decide, by decide, rfl,
      by decide +kernel, by decide +kernel, by decide +kernel⟩
  · exact ⟨{ serving 0 0 0 0 with launches := [launchOn 1 2 1 80 []] }, _, wakeEnv, 0, rfl, rfl, rfl, by decide, by decide, rfl,
      by decide +kernel, by decide +kernel, by decide +kernel⟩

/-- The one team of a launch of two on core 0, whose thread is the context of berth 0, its save area at `save`. -/
def swapping (priv : Bool) (save : Word) : State :=
  let s := serving 0 0 0 0
  { s with
    launches := [{ launchOn 0 2 1 16 [⟨0, 0, [0]⟩] with save := save }],
    ctx := { s.ctx with priv := priv, launch := some 1, thread := 0 } }

/-- The launch of it, and what stands once its team's context is halted. -/
def swapped1 (save : Word) : Launch := { launchOn 0 2 1 16 [⟨0, 0, [0]⟩] with save := save }
def halted1 (save : Word) : State := { (swapping false save).halt 0 with launches := [{ swapped1 save with leaving := some 0 }] }

theorem test_HostWritesWork_swap_refused : ∃ (s : State) (l : Launch) (m : Team) (n k : Nat) (c : Ctx), s.launches = [l] ∧
    l.leaving = none ∧ l.fresh < l.teams ∧ l.cap ≤ l.resident.length ∧ m ∈ l.resident ∧ m.left = [n] ∧ s.threadAt l.id n = some k ∧
    (∀ y ∈ l.resident, y ≠ m → y.num ≠ m.num ∧ (m.at_ < y.at_ ∨ m.at_ = y.at_ ∧ m.num < y.num)) ∧ s.ctxAt k = some c ∧
      c.priv = true :=
  ⟨swapping true 0x50000, _, ⟨0, 0, [0]⟩, 0, 0, _, rfl, rfl, by decide, by decide, .head _, rfl, by decide +kernel, by decide,
    rfl, rfl⟩

/-- What the end of a swap needs of the state `u` in which the context is halted. -/
def SwapGoes (s u : State) (l : Launch) (c c1 : Ctx) (e : EnvEntry) : Prop :=
  s.launches = [l] ∧ l.leaving = none ∧ l.fresh < l.teams ∧ l.cap ≤ l.resident.length ∧ (⟨0, 0, [0]⟩ : Team) ∈ l.resident ∧
  s.threadAt l.id 0 = some 0 ∧ (∀ y ∈ l.resident, y = ⟨0, 0, [0]⟩) ∧ s.ctxAt 0 = some c ∧ c.priv = false ∧
  u = { s.halt 0 with launches := [{ l with leaving := some 0 }] } ∧ (s.halt 0).launches = [l] ∧ u.threadAt l.id 0 = some 0 ∧
  u.ctxAt 0 = some c1 ∧ c1.priv = false ∧ c1.mustFinish = false ∧ (∀ x, l.again = some x → x ≤ u.now) ∧ u.env l.env = some e

theorem swap_goes (save : Word) (h : save = 0x50000 ∨ save = 0x40000000) :
    ∃ c1, SwapGoes (swapping false save) (halted1 save) (swapped1 save) (swapping false save).ctx c1 wakeEnv := by
  rcases h with rfl | rfl
  · obtain ⟨c1, h1⟩ := some_val (x := (halted1 0x50000).ctxAt 0) (by decide +kernel)
    refine ⟨c1, rfl, rfl, by decide, by decide, .head _, by decide +kernel, by decide, rfl, rfl, rfl, rfl, by decide +kernel, h1,
      ?_, ?_,
      nofun, by decide +kernel⟩
    · have : ((halted1 0x50000).ctxAt 0).map Ctx.priv = some false := by decide +kernel
      rw [h1] at this
      exact Option.some.inj this
    · have : ((halted1 0x50000).ctxAt 0).map Ctx.mustFinish = some false := by decide +kernel
      rw [h1] at this
      exact Option.some.inj this
  · obtain ⟨c1, h1⟩ := some_val (x := (halted1 0x40000000).ctxAt 0) (by decide +kernel)
    refine ⟨c1, rfl, rfl, by decide, by decide, .head _, by decide +kernel, by decide, rfl, rfl, rfl, rfl, by decide +kernel, h1,
      ?_, ?_,
      nofun, by decide +kernel⟩
    · have : ((halted1 0x40000000).ctxAt 0).map Ctx.priv = some false := by decide +kernel
      rw [h1] at this
      exact Option.some.inj this
    · have : ((halted1 0x40000000).ctxAt 0).map Ctx.mustFinish = some false := by decide +kernel
      rw [h1] at this
      exact Option.some.inj this

/-- The pages of the area of thread 0. -/
def swapPages (save : Word) : State × Except HubNo (List (Nat × Nat × List Nat)) :=
  (halted1 save).teamPages { swapped1 save with leaving := some 0 } wakeEnv .write [(0, 0)]

theorem test_HostWritesWork_swap : ∃ (s u u2 : State) (l : Launch) (c c1 c2 : Ctx) (e : EnvEntry) (ps : List Nat),
    SwapGoes s u l c c1 e ∧
    u.teamPages { l with leaving := some 0 } e .write [(0, 0)] = (u2, .ok [(0, 0, ps)]) ∧ u2.launches = u.launches ∧
    u2.threadAt l.id 0 = some 0 ∧ u2.ctxAt 0 = some c2 := by
  obtain ⟨c1, h⟩ := swap_goes 0x50000 (.inl rfl)
  obtain ⟨c2, h2⟩ := some_val (x := (swapPages 0x50000).1.ctxAt 0) (by decide +kernel)
  have h3 : (match (swapPages 0x50000).2 with | .ok [(0, 0, _)] => true | _ => false) = true := by decide +kernel
  have h4 : ∃ ps, swapPages 0x50000 = ((swapPages 0x50000).1, .ok [(0, 0, ps)]) := by
    revert h3
    generalize swapPages 0x50000 = x
    obtain ⟨s, z | ps⟩ := x
    · exact nofun
    · match ps with
      | [(0, 0, qs)] => exact fun _ => ⟨qs, rfl⟩
      | [] => exact nofun
      | (_ + 1, _, _) :: _ => exact nofun
      | (0, _ + 1, _) :: _ => exact nofun
      | (0, 0, _) :: _ :: _ => exact nofun
  obtain ⟨ps, h4⟩ := h4
  exact ⟨_, _, _, _, _, c1, c2, wakeEnv, ps, h, h4, by decide +kernel, by decide +kernel, h2⟩

theorem test_HostWritesWork_swap_cancelled : ∃ (s u u2 : State) (l : Launch) (c c1 : Ctx) (e : EnvEntry), SwapGoes s u l c c1 e ∧
    u.teamPages { l with leaving := some 0 } e .write [(0, 0)] = (u2, .error .fault) ∧ u2.launches = u.launches := by
  obtain ⟨c1, h⟩ := swap_goes 0x40000000 (.inr rfl)
  have h3 : (match (swapPages 0x40000000).2 with | .error .fault => true | _ => false) = true := by decide +kernel
  have h4 : swapPages 0x40000000 = ((swapPages 0x40000000).1, .error .fault) := by
    revert h3
    generalize swapPages 0x40000000 = x
    obtain ⟨s, (_ | _) | ps⟩ := x
    · exact fun _ => rfl
    · exact nofun
    · exact nofun
  exact ⟨_, _, _, _, _, c1, wakeEnv, h, h4, by decide +kernel⟩

end Sys2Proof.Tests
end

section
/-! SUPPORT. How the answer of a body of S ends the step, said in the terms of the statements (R20, R27 to R33). -/

namespace Sys2Proof.Machine

open Sys2Proof.Safety

/-! ### Two writes of one table entry -/

theorem mput_mput {β : Type} (m : SMap β) (a : Nat) (v w : β) : mput (mput m a v) a w = mput m a w := by
  induction m with
  | nil => simp [mput]
  | cons x r ih =>
    obtain ⟨k, u⟩ := x
    rcases Nat.lt_trichotomy a k with h | h | h
    · simp [mput, h]
    · simp [mput, h]
    · have h1 : ¬ a < k := by omega
      have h2 : a ≠ k := by omega
      simp [mput, h1, h2, ih]

theorem mupd_mupd {β : Type} (m : SMap β) (a : Nat) (d : β) (f g : β → β) :
    mupd (mupd m a d f) a d g = mupd m a d fun x => g (f x) := by
  simp only [mupd, mput_mput, mgetD_mput_same]

/-! ### What S answers -/

/-- A trap that a body answers. -/
theorem finish_trap (t : Trap) (s : State) : (Body.trap t).finish s = .next (trapped s t) := rfl

theorem finish_stall (s : State) : Body.stall.finish s = .next (heldAt false s) := rfl

/-- S holds a word that no stalled RSEND holds (R140). -/
theorem finish_hold {full rs : Bool} {s : State} (h : rs = true → s.rsendWait s.key = none) :
    (Body.hold full rs).finish s = .next (heldAt full s) := by
  have hr : (rs && (s.rsendWait s.key).any fun x => !(s.ctx.stopped x.2.id)) = false := by
    cases rs
    · rfl
    · simp [h rfl]
  have hu : (s.markS.heldS.updCore s.core fun c => { c with full := full }) = heldAt full s := by
    simp only [State.updCore, State.heldS, State.withCtx, State.markS, heldAt, State.core, mupd_mupd]
  rw [Body.finish, hr, ← hu]
  rfl

theorem finish_walk (va : Word) (want : Want) (s : State) :
    (Body.walk va want 0).finish s = .next (walking s va want) := rfl

/-- A word that completes as it retires (R28). -/
theorem finish_doneS (p : Dep) (s s0 : State) :
    (doneS (popped p s) p).finish s0 = .next (issued s (completed p (s.ctx.pc + 4) s.ctx)) := by
  simp only [doneS, finish_done, State.completeS, popped, State.retire, State.withCtx, State.pc4, State.markS_eq, issued,
    completed, Ctx.popToks_nextId, Ctx.popToks_pc, Ctx.complete_retired, Ctx.complete_nextId, Ctx.popToks_retired]

/-- A word whose one result lands after a fixed latency (R32, R79). -/
theorem finish_landS (i : Instr) (p : Dep) (d : SReg) (v : Word) (fl : Fl) (lat : Nat) (pc : Word) (s s0 : State) :
    (Body.done ((popped p s).landS i p d v fl lat) pc).finish s0 = .next (landed s i p d v fl lat pc) := by
  have hd : dstS d = if d = 0 then [] else [.s d] := rfl
  simp only [finish_done, State.landS, popped, State.retire, State.withCtx, State.markS_eq, landed, landing, retired, issued,
    Ctx.popToks_nextId, Ctx.popToks_pc, Ctx.popToks_retired, Ctx.popToks_pend, Pend.mk0, hd]

end Sys2Proof.Machine
end

section
/-! SUPPORT. Every word of S begins with S's own checks: which shared word each instruction is. -/

namespace Sys2Proof.Machine

open Sys2Proof.Safety

/-- The answer `r` is that of a word of S with the marks `p`: S's own checks (R27 to R31), then a body. -/
def IssuesAs (i : Instr) (p : Dep) (np : Bool) (s : State) (r : Res) : Prop := ∃ body, r = sWord i p np s body

theorem sWord_issues (i : Instr) (p : Dep) (np : Bool) (s : State) (body : State → Body) :
    IssuesAs i p np s (sWord i p np s body) := ⟨body, rfl⟩

theorem sAlu_issues (i : Instr) (p : Dep) (d : SReg) (l : List SReg) (lat : Nat) (f : State → Word × Fl) (s : State) :
    IssuesAs i p false s (sAlu i p d l lat f s) := sWord_issues ..

theorem alu2_issues (i : Instr) (p : Dep) (d a b : SReg) (lat : Nat) (f : Word → Word → Word) (s : State) :
    IssuesAs i p false s (alu2 i p d a b lat f s) := sAlu_issues ..

theorem alu1_issues (i : Instr) (p : Dep) (d a : SReg) (lat : Nat) (f : Word → Word) (s : State) :
    IssuesAs i p false s (alu1 i p d a lat f s) := sAlu_issues ..

theorem divWord_issues (i : Instr) (p : Dep) (d a b : SReg) (f : Word → Word → Word) (s : State) :
    IssuesAs i p false s (divWord i p d a b f s) := sWord_issues ..

theorem fps_issues (i : Instr) (p : Dep) (d : SReg) (l : List SReg) (vt dv : Bool) (lat : Nat)
    (f : Rnd → Bool → State → Word × Fl) (s : State) : IssuesAs i p false s (fps i p d l vt dv lat f s) := sWord_issues ..

theorem fps2_issues (i : Instr) (p : Dep) (d a b : SReg) (vt dv : Bool) (lat : Nat)
    (f : Rnd → Bool → Nat → Nat → Nat × Fl) (s : State) : IssuesAs i p false s (fps2 i p d a b vt dv lat f s) := fps_issues ..

theorem fps1_issues (i : Instr) (p : Dep) (d a : SReg) (dv : Bool) (lat : Nat) (f : Rnd → Bool → Nat → Nat × Fl) (s : State) :
    IssuesAs i p false s (fps1 i p d a dv lat f s) := fps_issues ..

theorem branch_issues (i : Instr) (p : Dep) (a b : SReg) (o : BitVec 12) (c : Word → Word → Bool) (s : State) :
    IssuesAs i p false s (branch i p a b o c s) := sWord_issues ..

theorem countedWord_issues (ls : Bool) (i : Instr) (p : Dep) (k : Ctr) (l : List SReg) (body : State → Body) (s : State) :
    IssuesAs i p false s (countedWord ls i p k l body s) := sWord_issues ..

theorem lsWord_issues (i : Instr) (p : Dep) (k : Ctr) (l : List SReg) (body : State → Body) (s : State) :
    IssuesAs i p false s (lsWord i p k l body s) := countedWord_issues ..

theorem loadWord_issues (i : Instr) (p : Dep) (d a : SReg) (o : BitVec 9) (n : Nat) (sgn : Bool) (s : State) :
    IssuesAs i p false s (loadWord i p d a o n sgn s) := lsWord_issues ..

theorem storeWord_issues (i : Instr) (p : Dep) (d a : SReg) (o : BitVec 9) (n : Nat) (s : State) :
    IssuesAs i p false s (storeWord i p d a o n s) := lsWord_issues ..

theorem lfeWord_issues (i : Instr) (p : Dep) (d a : SReg) (o : BitVec 9) (clear : Bool) (s : State) :
    IssuesAs i p false s (lfeWord i p d a o clear s) := lsWord_issues ..

theorem amoWord_issues (i : Instr) (op : AmoOp) (p : Dep) (d a b : SReg) (ar : Bool) (s : State) :
    IssuesAs i p false s (amoWord i op p d a b ar s) := lsWord_issues ..

theorem waitWord_issues (i : Instr) (p : Dep) (ready rs : State → Bool) (s : State) :
    IssuesAs i p false s (waitWord i p ready rs s) := sWord_issues ..

theorem cacheWord_issues (i : Instr) (p : Dep) (a : SReg) (o : BitVec 12) (s : State) :
    IssuesAs i p false s (cacheWord i p a o s) := lsWord_issues ..

theorem tWord_issues (i : Instr) (p : Dep) (l : List SReg) (bad : State → Bool) (body : State → Body) (s : State) :
    IssuesAs i p false s (tWord i p l bad body s) := sWord_issues ..

/-- Every word that S executes itself begins with S's own checks (R27 to R31). -/
theorem exec_issues {i : Instr} {p : Dep} {np : Bool} (h : issueMarks i = some (p, np)) (s : State) :
    IssuesAs i p np s (exec i s) := by
  cases i <;> cases h <;> dsimp only [exec]
  case add | sub | mul | mulh | mulhu | and | or | xor | sll | srl | sra | slt | sltu | min | max | minu | maxu =>
    exact alu2_issues ..
  case clz | ctz | popc | addi | andi | ori | xori | slti | slli | srli | srai => exact alu1_issues ..
  case lui | auipc | getid => exact sAlu_issues ..
  case div | divu | rem | remu => exact divWord_issues ..
  case fadd | fsub | fmul | fdiv | fmin | fmax | fcmpeq | fcmplt => exact fps2_issues ..
  case fsqrt | fcvti | fcvtf => exact fps1_issues ..
  case beq | bne | blt | bge | bltu | bgeu => exact branch_issues ..
  case lb | lbu | lh | lhu | lw | lwu | ld => exact loadWord_issues ..
  case sb | sh | sw | sd => exact storeWord_issues ..
  case lda | stl | sfe | feclr | fepoll => exact lsWord_issues ..
  case lfe | lfec => exact lfeWord_issues ..
  case amoadd | amoand | amoor | amoxor | amomin | amomax | amoswap | amocas => exact amoWord_issues ..
  case fsh => exact countedWord_issues ..
  case fence | xfence | waitc => exact waitWord_issues ..
  case cwb | cinv => exact cacheWord_issues ..
  case wtarm | wtdis | cntwait | spawn | joindec | gnew | gjoin | gleave | gbar | gbcfg | gfree | emit | pxlook | pxins
    | pxrel => exact tWord_issues ..
  case nop | jal | jalr | msgw | retire | yield | pref | trap | brk | wfe | sld | sst | capld | capclr | csave
    | tlbinv | tlbflush | eret => exact sWord_issues ..
  case crestore | rdcsr | wrcsr | fwait =>
    dsimp only [execCrestore, execRdcsr, execWrcsr, execFwait]
    exact sWord_issues ..

/-- Settles O54: each word of S begins with `sWord`, whose checks come in the order stated. -/
theorem wordsWait : Obligations.WordsWait := by
  intro i p np s hm hl
  obtain ⟨body, hb⟩ := exec_issues hm s
  rw [hb]
  refine ⟨fun hn hp => ?_, fun hp => ⟨fun ho => ?_, fun ho hc => ?_⟩⟩
  · subst hn
    exact sWord_unpriv hl hp
  · exact sWord_owes hl hp ho
  · exact sWord_tokens hl hp ho hc

end Sys2Proof.Machine
end

section
/-! SUPPORT. MKFENCE (R250): what its checks read, and the five ways it ends. -/

namespace Sys2Proof.Machine

open Sys2Proof.Safety

/-! ### The places of a station's queue (R77) -/

theorem queueCap_eq_places (st : Station) : queueCap st = places st := by cases st <;> rfl

theorem Ctx.places_eq_taken (c : Ctx) (st : Station) : c.places st = taken c st := by cases st <;> rfl

@[simp] theorem taken_popToks (c : Ctx) (st q : Station) (p : Dep) : taken (c.popToks q p) st = taken c st := by
  cases st <;> simp [taken]

/-- Some named station has no place left. -/
theorem markList_full_iff (c : Ctx) (l : List Station) :
    (l.any fun st => decide (queueCap st ≤ c.places st)) = true ↔ ∃ st ∈ l, places st ≤ taken c st := by
  simp [queueCap_eq_places, Ctx.places_eq_taken]

/-! ### The marker -/

/-- The marker that MKFENCE puts into the named queues (R250). -/
def markerOf (p : Dep) (s : State) : QEntry :=
  { blankEntry s.ctx.nextId with pc := s.ctx.pc, p := p, at_ := s.now }

/-- The named queues with the marker at their ends. -/
theorem foldl_markList (c : Ctx) (p : Dep) (now : Nat) (l : BitVec 3) :
    (markList l).foldl (fun c st =>
        c.setQueue st (c.queue st ++ [{ blankEntry c.nextId with pc := c.pc, p := p, at_ := now }])) c =
      { c with vq := if l.getLsbD 2 then c.vq ++ [{ blankEntry c.nextId with pc := c.pc, p := p, at_ := now }] else c.vq,
               mq := if l.getLsbD 1 then c.mq ++ [{ blankEntry c.nextId with pc := c.pc, p := p, at_ := now }] else c.mq,
               cq := if l.getLsbD 0 then c.cq ++ [{ blankEntry c.nextId with pc := c.pc, p := p, at_ := now }] else c.cq } := by
  rw [markList]
  cases l.getLsbD 2 <;> cases l.getLsbD 1 <;> cases l.getLsbD 0 <;> rfl

/-! ### How MKFENCE ends -/

/-- No marker stands yet: MKFENCE issues as a word of S. -/
theorem mkfence_unmarked {p : Dep} {l : BitVec 3} {s : State} (hl : s.live = true) (hm : s.ctx.marked = false)
    (hc : CanIssue p s) :
    exec (.mkfence p l) s = Body.finish
      (if l = 0 then doneS (popped p s) p
       else if (markList l).any fun st => queueCap st ≤ (popped p s).ctx.places st then .hold true (l.getLsbD 0)
       else .left (((popped p s).withCtx ((markList l).foldl (fun c st =>
         c.setQueue st (c.queue st ++ [{ blankEntry c.nextId with pc := c.pc, p := p, at_ := s.now }]))
           (popped p s).ctx)).markS)) s := by
  dsimp only [exec, execMkfence]
  rw [hl, hm, sWord_ready hc (by simp)]
  rfl

/-- A marker stands: MKFENCE waits for it or completes. -/
theorem mkfence_marked {p : Dep} {l : BitVec 3} {s : State} (hl : s.live = true) (hm : s.ctx.marked = true) :
    exec (.mkfence p l) s = Body.finish
      (if (markList l).all s.ctx.markDone then doneS (s.withCtx s.ctx.unmark) p else .hold false (l.getLsbD 0)) s := by
  dsimp only [exec, execMkfence]
  rw [hl, hm]
  rfl

/-- MKFENCE with room in the queues that it names puts its marker there and does not retire (R250). -/
theorem mkfence_marks {p : Dep} {l : BitVec 3} {s : State} (hl : s.live = true) (hm : s.ctx.marked = false)
    (hc : CanIssue p s) (h0 : l ≠ 0) (hr : ∀ st ∈ markList l, taken s.ctx st < places st) :
    exec (.mkfence p l) s = .next (issued s { s.ctx.popToks .s p with
      vq := if l.getLsbD 2 then s.ctx.vq ++ [markerOf p s] else s.ctx.vq,
      mq := if l.getLsbD 1 then s.ctx.mq ++ [markerOf p s] else s.ctx.mq,
      cq := if l.getLsbD 0 then s.ctx.cq ++ [markerOf p s] else s.ctx.cq }) := by
  have hfull : ¬ ((markList l).any fun st => decide (queueCap st ≤ (popped p s).ctx.places st)) = true := by
    rw [markList_full_iff]
    rintro ⟨st, hst, hle⟩
    have := hr st hst
    simp [popped] at hle
    omega
  rw [mkfence_unmarked hl hm hc, if_neg h0, if_neg hfull, foldl_markList]
  simp only [Body.finish, popped, State.withCtx_ctx, Ctx.popToks_vq, Ctx.popToks_mq, Ctx.popToks_cq, Ctx.popToks_nextId,
    Ctx.popToks_pc, markerOf]
  rfl

/-- Settles O25: before its marker stands MKFENCE is a word of S, after that it waits for its stations. -/
theorem markerFence : Obligations.MarkerFence := by
  intro p l s hl
  refine ⟨fun hm hc h0 => ?_, fun hm hc h0 hr => ⟨markerOf p s, rfl, rfl, rfl, rfl, mkfence_marks hl hm hc h0 hr⟩,
    fun hm hc hf hw => ?_, fun hm hd hw => ?_, fun hm hd => ?_⟩
  · rw [mkfence_unmarked hl hm hc, if_pos h0, finish_doneS]
  · have h0 : l ≠ 0 := by
      rintro rfl
      obtain ⟨st, hst, -⟩ := hf
      cases hst
    have hfull : ((markList l).any fun st => decide (queueCap st ≤ (popped p s).ctx.places st)) = true := by
      rw [markList_full_iff]
      simpa [popped] using hf
    rw [mkfence_unmarked hl hm hc, if_neg h0, if_pos hfull, finish_hold fun _ => hw]
  · have hd' : ¬ (markList l).all s.ctx.markDone = true := by
      obtain ⟨st, hst, hn⟩ := hd
      rw [List.all_eq_true]
      intro h
      simp [h st hst] at hn
    rw [mkfence_marked hl hm, if_neg hd', finish_hold fun _ => hw]
  · rw [mkfence_marked hl hm, if_pos (List.all_eq_true.mpr hd)]
    rfl

end Sys2Proof.Machine
end

section
/-! SUPPORT. Reading the control registers (R19 to R23, R238, R381). -/

namespace Sys2Proof.Machine

open Sys2Proof.Safety

/-! ### The values that a table composes -/

theorem Ctx.sbindWord_eq (c : Ctx) : c.sbindWord = BitVec.ofNat 64 ((if c.gens[0].bound then 1 else 0) +
    2 * (if c.gens[1].bound then 1 else 0) + 4 * (if c.gens[2].bound then 1 else 0) + 8 * (if c.gens[3].bound then 1 else 0)) := by
  have h : c.sbindWord = BitVec.ofNat 64 (0 + (if c.gens[0].bound then 2 ^ 0 else 0) + (if c.gens[1].bound then 2 ^ 1 else 0) +
      (if c.gens[2].bound then 2 ^ 2 else 0) + (if c.gens[3].bound then 2 ^ 3 else 0)) := rfl
  rw [h]
  cases c.gens[0].bound <;> cases c.gens[1].bound <;> cases c.gens[2].bound <;> cases c.gens[3].bound <;> rfl

theorem Ctx.ctlWord_eq (c : Ctx) : c.ctlWord = BitVec.ofNat 64 ((if c.erc then 1 else 0) + 2 * (if c.priv then 1 else 0) +
    4 * (if c.saved then 1 else 0)) := by
  unfold Ctx.ctlWord
  cases c.erc <;> cases c.priv <;> cases c.saved <;> rfl

/-- The record that RDCSR shows: the head one, or zeros (R384). -/
def Ctx.afrHead (c : Ctx) : Afr := c.afr.headD ⟨0, 0, 0, 0, none, none⟩

theorem Ctx.afrWord_eq (c : Ctx) : c.afrWord 0 = c.afrHead.w0 ∧ c.afrWord 1 = c.afrHead.w1 ∧ c.afrWord 2 = c.afrHead.w2 ∧
    c.afrWord 3 = c.afrHead.w3 := by
  cases h : c.afr <;> simp [Ctx.afrWord, Ctx.afrHead, h]

/-- The model's table of control registers is the statement's. -/
theorem csr_eq_csrValue (s : State) (n : Nat) : s.csr n = csrValue s n := by
  obtain ⟨h0, h1, h2, h3⟩ := s.ctx.afrWord_eq
  unfold State.csr csrValue
  simp only [Ctx.sbindWord_eq, Ctx.ctlWord_eq, h0, h1, h2, h3, State.allocWord, BitVec.zeroExtend, BitVec.ofNat_toNat,
    Ctx.afrHead] <;> rfl

@[simp] theorem Ctx.portStatus_popToks (c : Ctx) (st : Station) (p : Dep) (q : Bool) :
    (c.popToks st p).portStatus q = c.portStatus q := by
  simp [Ctx.portStatus]

/-- No control register shows the tokens of the word that reads it: `tok` is sampled. -/
@[simp] theorem csrValue_popped (p : Dep) (s : State) (n : Nat) : csrValue (popped p s) n = csrValue s n := by
  simp only [csrValue, popped, State.withCtx_ctx, State.withCtx_now, State.withCtx_key, Ctx.popToks_fpsr, Ctx.popToks_vt,
    Ctx.popToks_cnt0, Ctx.popToks_tok0, Ctx.portStatus_popToks, Ctx.popToks_rows, Ctx.popToks_gran, Ctx.popToks_gens,
    Ctx.popToks_retired, Ctx.popToks_erc, Ctx.popToks_priv, Ctx.popToks_saved, Ctx.popToks_tvec, Ctx.popToks_epc,
    Ctx.popToks_cause, Ctx.popToks_tval, Ctx.popToks_tinfo, Ctx.popToks_scr0, Ctx.popToks_scr1, Ctx.popToks_root,
    Ctx.popToks_asid, Ctx.popToks_afr, Ctx.popToks_derr, Ctx.popToks_capsign]

/-- RDCSR past S's own checks: its checks in their order, then the value lands. -/
theorem rdcsr_ready {p : Dep} {d : SReg} {n : BitVec 8} {s : State} (hc : CanIssue p s) :
    exec (.rdcsr p d n) s = Body.finish
      (if 0x80 ≤ n.toNat ∧ s.ctx.priv = false then .trap (wordTrap 2 (.rdcsr p d n))
       else match csrValue s n.toNat with
        | none => .trap (wordTrap 1 (.rdcsr p d n))
        | some v => match s.ctx.early s.ctx.nextId (csrReads n.toNat) with
          | some e => .trap (earlyTrap e)
          | none => .done ((popped p s).landS (.rdcsr p d n) p d v 0 1) (s.ctx.pc + 4)) s := by
  dsimp only [exec, execRdcsr]
  rw [sWord_ready hc (by simp)]
  simp only [csr_eq_csrValue, State.pc4, State.withCtx_ctx, Ctx.popToks_priv, Ctx.early_popToks, Ctx.popToks_nextId,
    Ctx.popToks_pc]
  simp only [← popped.eq_1, csrValue_popped] <;> rfl

/-- What RDCSR reads that can be pending (R24). -/
theorem csrReads_toNat (n : BitVec 8) : csrReads n.toNat = if n = 0 then [.fpsr] else if n = 1 then [.vt] else [] := by
  have h0 : n.toNat = 0 ↔ n = 0 := by simp [BitVec.toNat_eq]
  have h1 : n.toNat = 1 ↔ n = 1 := by simp [BitVec.toNat_eq]
  simp [csrReads, h0, h1]

/-- Settles O26: RDCSR checks its privilege, its number and its early read, in that order, and lands the table's value. -/
theorem readControlRegister : Obligations.ReadControlRegister := by
  intro p d n s hc
  refine ⟨fun v hv hp he => ?_, fun hv hp => ?_, fun hn hp => ?_⟩
  · have hno : ¬ (0x80 ≤ n.toNat ∧ s.ctx.priv = false) := fun h => by simp [hp h.1] at h
    rw [rdcsr_ready hc, if_neg hno, hv]
    simp only [csrReads_toNat, he, finish_landS]
  · have hno : ¬ (0x80 ≤ n.toNat ∧ s.ctx.priv = false) := fun h => by simp [hp h.1] at h
    rw [rdcsr_ready hc, if_neg hno, hv, finish_trap]
  · rw [rdcsr_ready hc, if_pos ⟨hn, hp⟩, finish_trap]

end Sys2Proof.Machine
end

section
/-! SUPPORT. A write of ctl lets go of what a save had bound (R386). -/

namespace Sys2Proof.Machine

open Sys2Proof.Safety

/-- A privileged context whose ctl says that it is saved (R23). -/
def savedCtx : Ctx := { Ctx.reset with priv := true, saved := true }

/-- That context in berth 0, with one saved area bound to it. -/
def savedState : State :=
  { State.reset with live := true, ctx := savedCtx, saved := [(0, savedCtx.toSaved 0)] }

/-- How many saved areas an answer leaves bound. -/
def Res.areas : Res → Nat
  | .next t => t.saved.length
  | _ => 0

theorem savedState_canIssue : CanIssue 0 savedState := ⟨rfl, rfl, rfl⟩

/-- The write of ctl unbinds the area. -/
theorem areas_wrcsr_ctl : Res.areas (exec (.wrcsr 0 0 0x10) savedState) = 0 := by rfl

/-- Refutes O27: WRCSR of ctl in a context that a save had bound drops the area's entry from `saved` (R386), where the
statement keeps the entries as they are. -/
theorem not_writeControlRegister : ¬ Obligations.WriteControlRegister := by
  rintro ⟨h, -⟩
  obtain ⟨-, hctl, -⟩ := h 0 0 0x10 savedState savedState_canIssue (fun _ => rfl) rfl
  have hkept : Res.areas (exec (.wrcsr 0 0 0x10) savedState) = 1 := by
    rw [hctl rfl]
    rfl
  rw [areas_wrcsr_ctl] at hkept
  exact absurd hkept (by decide)

end Sys2Proof.Machine
end

section
/-! SUPPORT. The floating-point words of S (R22, R223, R230, R231). -/

namespace Sys2Proof.Machine

open Sys2Proof.Safety

/-- A word with a fixed-latency result that also takes the divider (R223). -/
theorem finish_landS_takeDiv (i : Instr) (p : Dep) (d : SReg) (v : Word) (fl : Fl) (lat : Nat) (pc : Word) (s s0 : State) :
    (Body.done ((popped p s).landS i p d v fl lat).takeDiv pc).finish s0 =
      .next (withDivider s (landed s i p d v fl lat pc)) := by
  have hswap : ((((popped p s).landS i p d v fl lat).takeDiv).retire pc).markS =
      withDivider s (((popped p s).landS i p d v fl lat).retire pc).markS := by
    simp only [State.takeDiv, State.markS, State.updCore, State.retire, State.withCtx, withDivider, State.landS, popped,
      State.core, mupd_mupd]
  have hl := finish_landS i p d v fl lat pc s s0
  rw [finish_done, Host.Outcome.next.injEq] at hl
  rw [finish_done, hswap, hl]

/-- An FPS word that reads nothing early and finds the divider free lands its value (R230). -/
theorem fps_ready {i : Instr} {p : Dep} {d : SReg} {l : List SReg} {vt dv : Bool} {lat : Nat}
    {f : Rnd → Bool → State → Word × Fl} {s : State} (hc : CanIssue p s)
    (he : s.ctx.early s.ctx.nextId (l.flatMap dstS ++ if vt then [.vt] else []) = none)
    (hd : dv = true → (s.coreAt (s.key / 4)).sdiv ≤ s.now) :
    fps i p d l vt dv lat f s = .next ((if dv then withDivider s else id)
      (landed s i p d (f (vtRnd s.ctx.vt) s.ctx.ftz (popped p s)).1 (f (vtRnd s.ctx.vt) s.ctx.ftz (popped p s)).2 lat
        (s.ctx.pc + 4))) := by
  have hb : (dv && (popped p s).divBusy) = false := by
    cases dv with
    | false => rfl
    | true =>
      have := hd rfl
      simp only [State.divBusy, Bool.true_and, decide_eq_false_iff_not, not_lt]
      exact this
  have hz : (s.ctx.popToks .s p).ftz = s.ctx.ftz := by simp [Ctx.ftz]
  rw [fps, sWord_ready hc (by simp), ← popped]
  rw [hb]
  simp only [Bool.false_eq_true, ↓reduceIte, popped, State.withCtx_ctx, Ctx.early_popToks, Ctx.popToks_nextId, he,
    Ctx.popToks_vt, hz, State.pc4, Ctx.popToks_pc]
  cases dv
  · simp only [Bool.false_eq_true, ↓reduceIte, id]
    exact finish_landS ..
  · simp only [↓reduceIte]
    exact finish_landS_takeDiv ..

/-- The statement of a floating-point word, at its row. -/
def LandsFloat (i : Instr) (r : FRow) (s : State) : Prop :=
  ∃ v fl, r.val (vtRnd s.ctx.vt) s.ctx.ftz s = (v, fl) ∧
    exec i s = .next ((if r.dv then withDivider s else id)
      (landed s i r.p r.d (BitVec.ofNat 64 v) fl r.lat (s.ctx.pc + 4)))

/-- A row of two registers is what `fps2` lands. -/
theorem landsFloat_of_fps2 {i : Instr} {p : Dep} {d a b : SReg} {vt dv : Bool} {lat : Nat}
    {f : Rnd → Bool → Nat → Nat → Nat × Fl} {s : State} (hx : exec i s = fps2 i p d a b vt dv lat f s) (hc : CanIssue p s)
    (he : s.ctx.early s.ctx.nextId ([a, b].flatMap dstS ++ if vt then [.vt] else []) = none)
    (hd : dv = true → (s.coreAt (s.key / 4)).sdiv ≤ s.now) : LandsFloat i (frow2 p d a b vt dv lat f) s := by
  refine ⟨_, _, rfl, ?_⟩
  rw [hx, fps2, fps_ready hc he hd]
  simp only [popped, State.withCtx_ctx, Ctx.popToks_reg]
  rfl

/-- A row of one register is what `fps1` lands. -/
theorem landsFloat_of_fps1 {i : Instr} {p : Dep} {d a : SReg} {dv : Bool} {lat : Nat}
    {f : Rnd → Bool → Nat → Nat × Fl} {s : State} (hx : exec i s = fps1 i p d a dv lat f s) (hc : CanIssue p s)
    (he : s.ctx.early s.ctx.nextId ([a].flatMap dstS ++ [.vt]) = none)
    (hd : dv = true → (s.coreAt (s.key / 4)).sdiv ≤ s.now) : LandsFloat i (frow1 p d a dv lat f) s := by
  refine ⟨_, _, rfl, ?_⟩
  rw [hx, fps1, fps_ready hc he hd]
  simp only [popped, State.withCtx_ctx, Ctx.popToks_reg]
  rfl

/-- Settles O3: every floating-point word is `fps2` or `fps1` with its row's function. -/
theorem floatWordsLand : Obligations.FloatWordsLand := by
  intro i r s hr hc he hd
  cases i <;> cases hr
  case fadd | fsub | fmul | fdiv | fmin | fmax | fcmpeq | fcmplt => exact landsFloat_of_fps2 rfl hc he hd
  case fsqrt | fcvti | fcvtf => exact landsFloat_of_fps1 rfl hc he hd

end Sys2Proof.Machine
end

section
/-! SUPPORT. The scalar memory words of S up to their access (R19, R24, R240, R241, R245). -/

namespace Sys2Proof.Machine

open Sys2Proof.Safety

/-! ### Addresses -/

/-- The scaled address of R240 is whole-number arithmetic in 64 bits. -/
theorem State.ea_eq_scaled (s : State) (a : SReg) (n : Nat) (o : BitVec 9) : s.ea a n o = scaled s a n o := by
  unfold State.ea scaled
  rw [BitVec.ofInt_add, BitVec.ofInt_mul, BitVec.ofInt_toInt, BitVec.mul_comm]
  congr 2

@[simp] theorem scaled_popped (p : Dep) (s : State) (a : SReg) (n : Nat) (o : BitVec 9) :
    scaled (popped p s) a n o = scaled s a n o := by
  simp [scaled, popped]

/-! ### What stands before the access -/

@[simp] theorem Ctx.ldaWait_popToks (c : Ctx) (st : Station) (p : Dep) : (c.popToks st p).ldaWait = c.ldaWait := by
  simp [Ctx.ldaWait]

@[simp] theorem Ctx.ctr_popToks (c : Ctx) (st : Station) (p : Dep) (k : Ctr) : (c.popToks st p).ctr k = c.ctr k := by
  cases k <;> simp [Ctx.ctr]

/-- An LS word past S's own checks: an LDA, its counter and an early read stand before its body. -/
theorem lsWord_ready {i : Instr} {p : Dep} {k : Ctr} {l : List SReg} {body : State → Body} {s : State} (hc : CanIssue p s) :
    lsWord i p k l body s = Body.finish
      (if s.ctx.ldaWait = true then .stall
       else if 63 ≤ s.ctx.ctr k then .hold true false
       else (s.earlyS l).elim (body (popped p s)) fun e => .trap (earlyTrap e)) s := by
  unfold lsWord countedWord
  rw [sWord_ready hc (by simp)]
  simp only [State.withCtx_ctx, Ctx.ldaWait_popToks, Ctx.ctr_popToks, State.earlyS_popToks, Bool.true_and]
  cases s.earlyS l <;> rfl

theorem lsWord_lda {i : Instr} {p : Dep} {k : Ctr} {l : List SReg} {body : State → Body} {s : State} (hc : CanIssue p s)
    (h : s.ctx.ldaWait = true) : lsWord i p k l body s = .next (heldAt false s) := by
  rw [lsWord_ready hc, if_pos h, finish_stall]

theorem lsWord_full {i : Instr} {p : Dep} {k : Ctr} {l : List SReg} {body : State → Body} {s : State} (hc : CanIssue p s)
    (h : s.ctx.ldaWait = false) (hk : 63 ≤ s.ctx.ctr k) : lsWord i p k l body s = .next (heldAt true s) := by
  rw [lsWord_ready hc, if_neg (by simp [h]), if_pos hk, finish_hold (by simp)]

theorem lsWord_early {i : Instr} {p : Dep} {k : Ctr} {l : List SReg} {body : State → Body} {s : State} {d : Dst}
    (hc : CanIssue p s) (ho : LsOpen k s) (he : s.earlyS l = some d) :
    lsWord i p k l body s = .next (trapped s ⟨6, earlyTval d, 0⟩) := by
  obtain ⟨h, hk⟩ := ho
  rw [lsWord_ready hc, if_neg (by simp [h]), if_neg (by omega), he]
  rfl

theorem lsWord_open {i : Instr} {p : Dep} {k : Ctr} {l : List SReg} {body : State → Body} {s : State}
    (hc : CanIssue p s) (ho : LsOpen k s) (he : Settled l s) :
    lsWord i p k l body s = (body (popped p s)).finish s := by
  obtain ⟨h, hk⟩ := ho
  rw [lsWord_ready hc, if_neg (by simp [h]), if_neg (by omega), he]
  rfl

/-! ### The checks of the access -/

/-- The checks of an access do not read tokens. -/
theorem State.chkS_popped (p : Dep) (s : State) (a : Word) (len al : Nat) (want : Want) (w : Win) (lane : Nat) :
    (popped p s).chkS a len al want w lane = s.chkS a len al want w lane := by
  have hx : (popped p s).xlateS a.toNat want = s.xlateS a.toNat want := by
    simp only [State.xlateS, popped, State.withCtx_ctx, Ctx.popToks_asid, Ctx.popToks_priv]
    rfl
  simp only [State.chkS, hx]
  rfl

/-- One checked access whose check traps, misses or passes. -/
theorem State.access_trap {s : State} {a : Word} {len al : Nat} {want : Want} {w : Win} {k : Acc → Body} {t : Trap}
    (h : s.chkS a len al want w 0 = .trap t) : s.access a len al want w k = .trap t := by
  simp only [State.access, State.accessAt, h]

theorem State.access_miss {s : State} {a : Word} {len al : Nat} {want : Want} {w : Win} {k : Acc → Body}
    (h : s.chkS a len al want w 0 = .miss) : s.access a len al want w k = .walk a want 0 := by
  simp only [State.access, State.accessAt, h]

/-! ### The memory words of a table -/

/-- The word `i` is an LS word that makes the access of its row (R240). -/
def ChecksAs (i : Instr) (r : CheckRow) (s : State) : Prop :=
  0 < r.size ∧ (∀ p, r.addr (popped p s) = r.addr s) ∧
  ∃ k : State → Acc → Body, exec i s =
    lsWord i r.p r.ctr r.srcs (fun t => t.access (r.addr t) r.size r.size r.want r.win (k t)) s

/-- The checks of a word that counts in lc. -/
def loadChecks (r : LRow) : CheckRow := ⟨r.p, r.srcs, .lc, r.addr, r.size, r.want, r.win⟩

/-- The checks of a word that counts in sc. -/
def storeChecks (r : TRow) : CheckRow := ⟨r.p, r.srcs, .sc, r.addr, r.size, .write, r.win⟩

theorem checksAs_loadWord {i : Instr} {p : Dep} {d a : SReg} {o : BitVec 9} {n : Nat} {sgn : Bool} {s : State}
    (hx : exec i s = loadWord i p d a o n sgn s) (hn : 0 < n) : ChecksAs i (loadChecks (ldRow p d a o n sgn)) s := by
  refine ⟨hn, fun q => scaled_popped .., ?k, hx.trans ?h⟩
  case h =>
    simp only [loadWord, State.ea_eq_scaled]
    exact rfl

theorem checksAs_storeWord {i : Instr} {p : Dep} {d a : SReg} {o : BitVec 9} {n : Nat} {s : State}
    (hx : exec i s = storeWord i p d a o n s) (hn : 0 < n) : ChecksAs i (storeChecks (stRow p d a o n)) s := by
  refine ⟨hn, fun q => scaled_popped .., ?k, hx.trans ?h⟩
  case h =>
    simp only [storeWord, State.ea_eq_scaled]
    exact rfl

theorem checksAs_lfeWord {i : Instr} {p : Dep} {d a : SReg} {o : BitVec 9} {c : Bool} {s : State}
    (hx : exec i s = lfeWord i p d a o c s) :
    ChecksAs i ⟨p, [a], .lc, fun t => scaled t a 8 o, 8, .read, .spadOnly⟩ s := by
  refine ⟨Nat.succ_pos 7, fun q => scaled_popped .., ?k, hx.trans ?h⟩
  case h =>
    simp only [lfeWord, State.ea_eq_scaled]
    exact rfl

theorem checksAs_amoWord {i : Instr} {op : AmoOp} {p : Dep} {d a b : SReg} {ar : Bool} {s : State}
    (hx : exec i s = amoWord i op p d a b ar s) : ChecksAs i (loadChecks (amoRow op p d a b ar)) s :=
  ⟨Nat.succ_pos 7, fun _ => Ctx.popToks_reg .., _, hx⟩

/-- Every row of the table is an LS word that makes its row's access. -/
theorem exec_checksAs {i : Instr} {r : CheckRow} (h : checkRow i = some r) (s : State) : ChecksAs i r s := by
  cases i <;> cases h
  case lb | lbu | lh | lhu | lw | lwu | ld => exact checksAs_loadWord rfl (Nat.succ_pos _)
  case sb | sh | sw | sd => exact checksAs_storeWord rfl (Nat.succ_pos _)
  case lfe | lfec => exact checksAs_lfeWord rfl
  case amoadd | amoand | amoor | amoxor | amomin | amomax | amoswap | amocas => exact checksAs_amoWord rfl
  case lda | stl =>
    dsimp only [ChecksAs, exec, execLda, execStl]
    exact ⟨Nat.two_pow_pos _, fun _ => Ctx.popToks_reg .., _, rfl⟩
  case fepoll | sfe =>
    dsimp only [ChecksAs, exec, execFepoll, execSfe]
    simp only [State.ea_eq_scaled]
    exact ⟨Nat.succ_pos _, fun _ => scaled_popped .., _, rfl⟩

/-! ### What the checks of R240 answer -/

/-- The last byte of an access. -/
theorem add_pred_eq {a n last : Nat} (hn : 0 < n) (h : a + n - 1 = last) : a + (n - 1) = last := by omega

/-- An access past the canonical addresses traps first. -/
theorem precheck_form {core : Nat} {a : Word} {size al last : Nat} {w : Win} (hl : a.toNat + (size - 1) = last)
    (h : 2 ^ 57 ≤ last) : precheck core a size al w 0 = some ⟨8, a, 0⟩ := by
  simp only [precheck, hl, h, ↓reduceIte]
  rfl

/-- Then one whose window does not allow it. -/
theorem precheck_window {core : Nat} {a : Word} {size al last : Nat} {w : Win} (hl : a.toNat + (size - 1) = last)
    (h : last < 2 ^ 57) (hw : (w.allows (placeOf core a.toNat) && w.allowsEnd (placeOf core last)) = false) :
    precheck core a size al w 0 = some ⟨9, a, 0⟩ := by
  simp only [precheck, hl, Nat.not_le.mpr h, hw, Bool.not_false, ↓reduceIte]
  rfl

/-- Then one that is not aligned. -/
theorem precheck_aligned {core : Nat} {a : Word} {size al last : Nat} {w : Win} (hl : a.toNat + (size - 1) = last)
    (h : last < 2 ^ 57) (hw : (w.allows (placeOf core a.toNat) && w.allowsEnd (placeOf core last)) = true) :
    precheck core a size al w 0 = if a.toNat % al ≠ 0 then some ⟨10, a, 0⟩ else none := by
  simp only [precheck, hl, Nat.not_le.mpr h, hw, Bool.not_true, Bool.false_eq_true, ↓reduceIte]
  rfl

theorem State.chkS_of_precheck {s : State} {a : Word} {len al : Nat} {want : Want} {w : Win} {t : Trap}
    (h : precheck s.core a len al w 0 = some t) : s.chkS a len al want w 0 = .trap t := by
  simp only [State.chkS, h]

/-- A translated access that passes the other checks is what its translation says. -/
theorem State.chkS_of_trans {s : State} {a : Word} {len al : Nat} {want : Want} {w : Win}
    (h : precheck s.core a len al w 0 = none) (hp : placeOf s.core a.toNat = .trans) :
    s.chkS a len al want w 0 = (s.xlateS a.toNat want).chk a len want 0 := by
  simp only [State.chkS, h, chkWith, hp]

/-- A word of the table whose checks trap. -/
theorem exec_access_trap {i : Instr} {r : CheckRow} {s : State} {a : Word} {t : Trap} (hr : ChecksAs i r s)
    (hc : CanIssue r.p s) (ho : LsOpen r.ctr s) (hs : Settled r.srcs s) (ha : r.addr s = a)
    (h : s.chkS a r.size r.size r.want r.win 0 = .trap t) : exec i s = .next (trapped s t) := by
  obtain ⟨-, hq, k, hx⟩ := hr
  rw [hx, lsWord_open hc ho hs, hq, ha, State.access_trap ((s.chkS_popped ..).trans h), finish_trap]

/-- A word of the table whose core does not hold the translation. -/
theorem exec_access_miss {i : Instr} {r : CheckRow} {s : State} {a : Word} (hr : ChecksAs i r s)
    (hc : CanIssue r.p s) (ho : LsOpen r.ctr s) (hs : Settled r.srcs s) (ha : r.addr s = a)
    (h : s.chkS a r.size r.size r.want r.win 0 = .miss) : exec i s = .next (walking s a r.want) := by
  obtain ⟨-, hq, k, hx⟩ := hr
  rw [hx, lsWord_open hc ho hs, hq, ha, State.access_miss ((s.chkS_popped ..).trans h), finish_walk]

/-- Settles O55: the checks stand in the order of `countedWord`, `precheck` and the translation. -/
theorem accessChecks : Obligations.AccessChecks := by
  intro i r s a last hi hc ha hl
  have hr := exec_checksAs hi s
  obtain ⟨hn, -, k, hx⟩ := id hr
  replace hl := add_pred_eq hn hl
  refine ⟨fun h => ?_, fun h hk => ?_, fun ho => ⟨fun d he => ?_, fun hs => ⟨fun h => ?_, fun h => ⟨fun hw => ?_,
    fun hw => ⟨fun hal => ?_, fun hal hp => ⟨fun hm => ?_, fun z b hf => ?_⟩⟩⟩⟩⟩⟩
  · rw [hx, lsWord_lda hc h]
  · rw [hx, lsWord_full hc h hk]
  · rw [hx, lsWord_early hc ho he]
  · exact exec_access_trap hr hc ho hs ha (State.chkS_of_precheck (precheck_form hl h))
  · exact exec_access_trap hr hc ho hs ha (State.chkS_of_precheck (precheck_window hl h hw))
  · exact exec_access_trap hr hc ho hs ha (State.chkS_of_precheck ((precheck_aligned hl h hw).trans (if_pos hal)))
  · refine exec_access_miss hr hc ho hs ha ((State.chkS_of_trans ((precheck_aligned hl h hw).trans (if_neg ?_)) hp).trans ?_)
    · simpa using hal
    · rw [hm]
      rfl
  · refine exec_access_trap hr hc ho hs ha ((State.chkS_of_trans ((precheck_aligned hl h hw).trans (if_neg ?_)) hp).trans ?_)
    · simpa using hal
    · rw [hf]
      rfl

end Sys2Proof.Machine
end

section
/-! SUPPORT. The state that reset leaves, and the boot ROM's first step on it (R146, R401, R410 to R412, R424). -/

namespace Sys2Proof.Machine

open Sys2Proof.Safety

/-! ### Memory that nothing has written -/

/-- Outside the two control areas of R401 and R424 an unlisted byte reads as zero. -/
theorem memDefault_eq_zero {a : Nat} (h : a < ageCaps ∨ powerCtl + 1 < a) : memDefault a = 0 := by
  have hp : a ≠ powerCtl := by
    simp only [ageCaps, powerCtl] at *
    omega
  have hq : a ≠ powerCtl + 1 := by
    simp only [ageCaps, powerCtl] at *
    omega
  have hc : ¬ (ageCaps ≤ a ∧ a < ageCaps + 8 * 13 ∧ a % 8 = 1) := by
    simp only [ageCaps, powerCtl] at *
    omega
  rw [memDefault, if_neg hp, if_neg hq, if_neg hc]

theorem read_nil (a : Nat) : Mem.read [] a = memDefault a := rfl

/-- The scratchpads lie above the control areas. -/
theorem read_nil_spadLoc (core off : Nat) : Mem.read [] (spadLoc core off) = 0 := by
  refine (read_nil _).trans (memDefault_eq_zero (.inr ?_))
  simp only [spadLoc, winBase, powerCtl]
  omega

/-- The hub's registers lie below the control areas. -/
theorem read_nil_low {off : Nat} (h : off < 0xC0000) : Mem.read [] off = 0 := by
  refine (read_nil _).trans (memDefault_eq_zero (.inl ?_))
  simp only [ageCaps]
  omega

/-! ### The registers of a fresh context -/

theorem reg_reset (r : SReg) : Ctx.reset.reg r = 0 := by
  simp [Ctx.reg, Ctx.reset]

theorem mask_reset : ∀ m : MReg, m ≠ 0 → Ctx.reset.mask m = 0 := by
  decide

theorem tok_reset (q : Nat) : Ctx.reset.tok q = 0 := by
  simp [Ctx.tok, Ctx.reset]

theorem ctr_reset (k : Ctr) : Ctx.reset.ctr k = 0 := by
  cases k <;> rfl

theorem unbound_reset (n : Fin 4) : Ctx.reset.gens[n].bound = false := by
  simp [Ctx.reset, Gen.reset]

/-! ### The boot ROM -/

/-- A fresh package has no firmware in its slots (R410): both fail their format check (R411), and the ROM ends in recovery with
the package cleared. -/
theorem boots_reset : State.reset.boots =
    { State.reset.cleared with boot := { State.reset.cleared.boot with phase := 3, fail := 5 } } := by
  have hfail : containerFail State.reset.cleared.boot [] = 5 := by decide
  have hA : State.reset.cleared.boot.slotA = [] := rfl
  have hB : State.reset.cleared.boot.slotB = [] := rfl
  simp only [State.boots, hA, hB, hfail]
  rfl

/-- The slice length and the windows of every class as the boot ROM leaves them. -/
theorem cfg_boots_reset : State.reset.boots.cfg.readLE 0x3000 4 = 1000 ∧
    ∀ c < 3, State.reset.boots.cfg.readLE (0x40008 + 8 * c) 8 = 16 + 86400 * 256 := by
  rw [boots_reset]
  decide

/-- Settles O60: nothing is written at reset, and the boot ROM clears the package and sets the slice length and windows. -/
theorem resetState : Obligations.ResetState :=
  ⟨rfl, fun core off _ _ => read_nil_spadLoc core off, rfl, fun _ _ => rfl, rfl, rfl, rfl, fun _ => rfl, ⟨rfl, rfl⟩,
    fun _ h => read_nil_low (by omega), ⟨_, rfl, cfg_boots_reset⟩, reg_reset, rfl, mask_reset, rfl, tok_reset, ctr_reset,
    unbound_reset, ⟨0, rfl⟩⟩

end Sys2Proof.Machine
end

section
/-! SUPPORT. One berth's context: reading it after it is replaced, and the steps of its privileged registers (R373, R381, R385). -/

namespace Sys2Proof.Machine

open Sys2Proof.Safety

/-! ### The context of a berth -/

@[simp] theorem State.ctxAt_putCtx (s : State) (k : Nat) (c : Ctx) : (s.putCtx k c).ctxAt k = some c := by
  unfold State.ctxAt State.putCtx
  split <;> simp_all [mget_mput_same]

theorem State.updCtx_eq {s : State} {k : Nat} {c : Ctx} (h : s.ctxAt k = some c) (f : Ctx → Ctx) :
    s.updCtx k f = s.putCtx k (f c) := by
  rw [State.updCtx, h]

@[simp] theorem State.putCtx_now (s : State) (k : Nat) (c : Ctx) : (s.putCtx k c).now = s.now := by
  unfold State.putCtx; split <;> rfl

@[simp] theorem State.putCtx_mem (s : State) (k : Nat) (c : Ctx) : (s.putCtx k c).mem = s.mem := by
  unfold State.putCtx; split <;> rfl

/-- The next variable latency (log entry 2). -/
theorem State.delay_eq (s : State) : s.delay = (s.delays.headD 0, delayed s) := by
  have h : s.delays = [] → s = delayed s := fun h => by rw [delayed, h, List.drop_nil, ← h]
  unfold State.delay delayed
  cases hd : s.delays with
  | nil => exact congrArg (Prod.mk 0) ((h hd).trans (by rw [delayed, hd]))
  | cons d r => rfl

/-! ### capsign (R17, R381) -/

/-- The low 16 bits of a capability replaced by its check. -/
theorem capability_with_check (v : Word) (x : BitVec 16) :
    (v &&& ~~~0xFFFF#64) ||| x.zeroExtend 64 = BitVec.ofNat 64 (v.toNat / 2 ^ 16 * 2 ^ 16 + x.toNat) := by
  apply BitVec.eq_of_getLsbD_eq
  intro i hi
  have hm : (0xFFFF#64).getLsbD i = decide (i < 16) := by
    have : (0xFFFF#64).getLsbD i = Nat.testBit (2 ^ 16 - 1) i := rfl
    rw [this, Nat.testBit_two_pow_sub_one]
  have hs : (v.toNat / 2 ^ 16 * 2 ^ 16 + x.toNat).testBit i = if i < 16 then x.toNat.testBit i else v.toNat.testBit i := by
    rw [Nat.mul_comm, Nat.testBit_two_pow_mul_add _ x.isLt]
    split
    · rfl
    · rw [Nat.testBit_div_two_pow, Nat.sub_add_cancel (by omega)]
  rw [BitVec.getLsbD_or, BitVec.getLsbD_and, BitVec.getLsbD_not, hm, BitVec.getLsbD_ofNat, hs, BitVec.getLsbD_setWidth]
  by_cases h : i < 16
  · simp [h, hi, BitVec.getLsbD]
  · have hx : x.toNat.testBit i = false := BitVec.getLsbD_of_ge x i (by omega)
    simp [h, hi, hx, BitVec.getLsbD]

/-- A capability word names an engine and has no reserved bit set (R17). -/
def CapWord (v : Word) : Prop :=
  v.toNat / 2 ^ 52 % 16 = 1 ∧ v.toNat / 2 ^ 40 % 2 ^ 12 < 160 ∧ v.getLsbD 31 = false ∧ v.toNat / 2 ^ 36 % 16 = 0 ∧
    v.toNat / 2 ^ 56 = 0

/-- What `capSigned` refuses. -/
theorem capSigned_eq (n : Nat) (v : Word) : (CapWord v → capSigned n v = BitVec.ofNat 64 (v.toNat / 2 ^ 16 * 2 ^ 16 +
      (Config.capCheck n (v.toNat / 2 ^ 40 % 2 ^ 12) (v.extractLsb' 16 48)).toNat)) ∧
    (¬ CapWord v → capSigned n v = 0) := by
  have hv := v.isLt
  have htop : wfld v 56 8 = v.toNat / 2 ^ 56 := by
    rw [wfld, bitsOf]
    omega
  have hbad : (wfld v 52 4 ≠ 1 ∨ 160 ≤ capObj v ∨ wbit v 31 ∨ wfld v 36 4 ≠ 0 ∨ wfld v 56 8 ≠ 0) ↔ ¬ CapWord v := by
    rw [htop]
    simp only [CapWord, wfld, bitsOf, capObj, wbit, not_and_or, not_lt, Bool.not_eq_false, ne_eq, Nat.reducePow]
  refine ⟨fun h => ?_, fun h => ?_⟩
  · rw [capSigned, if_neg (by rw [hbad]; exact not_not.mpr h), capability_with_check]
    rfl
  · rw [capSigned, if_pos (hbad.mpr h)]

/-! ### A request for pre-emption (R385) -/

/-- A request with one core and one berth in its mask names that berth. -/
theorem preqTargets_single {k : Nat} {v : Word} (hk : k < 4 * numCores) (hv : v.toNat = k / 4 + 2 ^ 11 + 2 ^ 22 * 2 ^ (k % 4)) :
    preqTargets v = [k] := by
  have hn : numCores = 1280 := rfl
  have hb : k % 4 < 4 := Nat.mod_lt _ (by decide)
  obtain ⟨f, b, rfl, hf, hb4⟩ : ∃ f b, k = 4 * f + b ∧ f < 1280 ∧ b < 4 := ⟨k / 4, k % 4, by omega, by omega, hb⟩
  have h1 : (4 * f + b) / 4 = f := by omega
  have h2 : (4 * f + b) % 4 = b := by omega
  rw [h1, h2] at hv
  have hp : 2 ^ b ≤ 8 ∧ 0 < 2 ^ b := ⟨by interval_cases b <;> decide, Nat.two_pow_pos b⟩
  have hfirst : wfld v 0 11 = f := by rw [wfld, bitsOf, hv]; omega
  have hcount : wfld v 11 11 = 1 := by rw [wfld, bitsOf, hv]; omega
  have hmask : wfld v 22 4 = 2 ^ b := by rw [wfld, bitsOf, hv]; omega
  have hrest : wfld v 26 38 = 0 := by rw [wfld, bitsOf, hv]; omega
  have hok : ¬ (1 = 0 ∨ numCores < f + 1 ∨ 0 ≠ 0) := by omega
  have hberth : ((List.range 4).filter fun x => 2 ^ b / 2 ^ x % 2 == 1) = [b] := by interval_cases b <;> decide
  simp only [preqTargets, hfirst, hcount, hmask, hrest, if_neg hok, hberth]
  rfl

theorem preqTargets_none {v : Word} (hv : v.toNat / 2 ^ 11 % 2 ^ 11 = 0) : preqTargets v = [] := by
  have h : wfld v 11 11 = 0 := hv
  simp [preqTargets, h]

/-- The request of one berth, taken up within the bound (R385). -/
theorem preemptRequest_single {s : State} {k core : Nat} {c : Ctx} {v : Word} (hk : s.ctxAt k = some c)
    (hv : preqTargets v = [k]) : s.preemptRequest core v =
      (delayed s).at_ (s.now + 1 + Nat.min (s.delays.headD 0) 358) (.preemptionHalt k core) := by
  simp only [State.preemptRequest, hv, List.foldl_cons, List.foldl_nil, hk, Option.isSome_some, ↓reduceIte, s.delay_eq,
    preemptBound]

/-! ### A held access is dropped (R373) -/

/-- A dropped load: its counter falls, its record is gone, no register changes. -/
theorem Ctx.dropHeld_load {c : Ctx} {id : Nat} {p : Pend} (hp : (c.pend.find? fun q => q.id == id && q.late) = some p)
    (hk : p.ctr = some .lc) : (c.dropHeld id).regs = c.regs ∧ (c.dropHeld id).grid = c.grid ∧ (c.dropHeld id).lc = c.lc - 1 ∧
      (c.dropHeld id).pend = c.pend.filter fun q => q.id != id := by
  have h : c.dropHeld id = ((c.dropPend id).decCtr .lc).complete p.st id p.push := by
    rw [Ctx.dropHeld, hp]
    simp only [hk, Ctx.decCtr?]
  rw [h]
  exact ⟨Ctx.complete_regs .., Ctx.complete_grid .., Ctx.complete_lc .., Ctx.complete_pend ..⟩

/-- A dropped store. -/
theorem Ctx.dropHeld_store {c : Ctx} {id : Nat} {p : PStore} (hn : (c.pend.find? fun q => q.id == id && q.late) = none)
    (hp : (c.stores.find? fun q => q.id == id && q.late) = some p) :
    (c.dropHeld id).regs = c.regs ∧ (c.dropHeld id).grid = c.grid ∧ (c.dropHeld id).sc = c.sc - 1 ∧
      (c.dropHeld id).stores = c.stores.filter fun q => q.id != id := by
  have h : c.dropHeld id = ((({ c with stores := c.stores.filter fun q => q.id != id } : Ctx).decCtr .sc).complete p.st id
      p.push) := by
    rw [Ctx.dropHeld, hn, hp]
  rw [h]
  exact ⟨Ctx.complete_regs .., Ctx.complete_grid .., Ctx.complete_sc .., Ctx.complete_stores ..⟩

/-- The head record, and what it holds. -/
theorem afpopDrop_held {s : State} {k id : Nat} {c : Ctx} {r : Afr} {l : List Afr} (hk : s.ctxAt k = some c)
    (ha : c.afr = r :: l) (hr : r.held = some id) : s.afpopDrop k = s.putCtx k ((popRecord c).dropHeld id) := by
  rw [State.afpopDrop, State.updCtx_eq hk, ha]
  simp only [List.head?_cons, Option.bind_some, hr]
  rfl

/-- The end of a WFE's wait changes the wait and the WFE's record alone (R332). -/
theorem Ctx.wfeEnd_fields {c : Ctx} (now : Nat) (h : c.block = .wfe) : (c.wfeEnd now).block = .none ∧
    (c.wfeEnd now).regs = c.regs ∧ (c.wfeEnd now).grid = c.grid ∧ (c.wfeEnd now).pc = c.pc := by
  rw [Ctx.wfeEnd, if_pos h]
  exact ⟨rfl, rfl, rfl, rfl⟩

/-- A write of ctl, with what a save had bound let go (R386). -/
theorem ctlWrite_eq {s : State} {k : Nat} {c : Ctx} (v : Word) (hk : s.ctxAt k = some c) : s.ctlWrite k v =
    ({ s with saved := if c.saved then s.saved.filter (fun x => x.2.uid != c.uid) else s.saved } : State).putCtx k
      { c with erc := v.getLsbD 0, saved := false } := by
  simp only [State.ctlWrite, hk]
  cases c.saved
  · simp only [Bool.false_eq_true, ↓reduceIte]
    exact State.updCtx_eq hk _
  · simp only [↓reduceIte]
    exact State.updCtx_eq (s := { s with saved := s.saved.filter fun x => x.2.uid != c.uid }) hk _

/-- Settles O41: each step is one replacement of the berth's context. -/
theorem privilegedSteps : Obligations.PrivilegedSteps := by
  intro k s c hk
  refine ⟨fun v => congrArg Host.Outcome.next (ctlWrite_eq v hk), fun v h1 h2 h3 h4 h5 => ?_, fun v hn => ?_, ?_,
    fun r l ha => ⟨fun hr => ?_,
    fun id p hr hp hl => ?_, fun id p hr hn hp => ?_⟩, fun core v hlt => ⟨fun hv => ?_, fun hv => ?_⟩, fun core hp => ?_,
    fun core s1 s2 hp h1 h2 => ?_, fun hb => ?_⟩
  · exact congrArg Host.Outcome.next ((State.updCtx_eq hk _).trans
      (by rw [(capSigned_eq s.resets v).1 ⟨h1, h2, h3, h4, h5⟩]))
  · exact congrArg Host.Outcome.next ((State.updCtx_eq hk _).trans (by rw [(capSigned_eq s.resets v).2 hn]))
  · exact congrArg Host.Outcome.next (State.updCtx_eq hk _)
  · refine congrArg Host.Outcome.next ((State.updCtx_eq hk _).trans ?_)
    simp only [ha, List.head?_cons, Option.bind_some, hr]
    rfl
  · obtain ⟨h1, h2, h3, h4⟩ := Ctx.dropHeld_load (c := popRecord c) hp hl
    exact ⟨_, _, congrArg Host.Outcome.next (afpopDrop_held hk ha hr), State.ctxAt_putCtx .., h1, h2, h3, h4, State.putCtx_mem ..⟩
  · obtain ⟨h1, h2, h3, h4⟩ := Ctx.dropHeld_store (c := popRecord c) hn hp
    exact ⟨_, _, congrArg Host.Outcome.next (afpopDrop_held hk ha hr), State.ctxAt_putCtx .., h1, h2, h3, h4, State.putCtx_mem ..⟩
  · exact ⟨_, Nat.min_le_right _ _, congrArg Host.Outcome.next (preemptRequest_single hk (preqTargets_single hlt hv))⟩
  · refine congrArg Host.Outcome.next ?_
    rw [State.preemptRequest, preqTargets_none hv, List.foldl_nil]
  · refine congrArg Host.Outcome.next ?_
    simp only [State.preemptHalt, hk, hp, ↓reduceIte]
  · refine congrArg Host.Outcome.next ?_
    simp only [State.preemptHalt, hk, hp, Bool.false_eq_true, ↓reduceIte, State.halt, h2, h1, State.putCtx_now]
  · obtain ⟨h1, h2, h3, h4⟩ := Ctx.wfeEnd_fields s.now hb
    exact ⟨_, _, congrArg Host.Outcome.next (State.updCtx_eq hk _), State.ctxAt_putCtx .., h1, h2, h3, h4, State.putCtx_mem ..⟩

end Sys2Proof.Machine
end

section
/-! SUPPORT. What an access that takes effect leaves alone: the caches' copies, errors that nothing has met, generations that
agree, and writes to memory outside the special regions (R90, R362 to R364, R371, R376, R418). -/

namespace Sys2Proof.Machine

open Sys2Proof.Safety

/-! ### Copies in the caches -/

/-- What the movement of copies may change: the cores' signatures and the directory. -/
def CachesOnly (s t : State) : Prop := t = { s with cores := t.cores, dir := t.dir }

theorem CachesOnly.refl (s : State) : CachesOnly s s := rfl

theorem CachesOnly.trans {s t u : State} (h : CachesOnly s t) (g : CachesOnly t u) : CachesOnly s u := by
  unfold CachesOnly at *
  rw [g, h]

theorem CachesOnly.foldl {α : Type} (f : State → α → State) (hf : ∀ s a, CachesOnly s (f s a)) (l : List α) (s : State) :
    CachesOnly s (l.foldl f s) := by
  induction l generalizing s with
  | nil => exact .refl s
  | cons a r ih => exact (hf s a).trans (ih (f s a))

theorem State.dirty_cachesOnly (s : State) (h sec : Nat) : CachesOnly s (s.dirty h sec) := by
  unfold State.dirty
  split <;> rfl

theorem State.invalidate_cachesOnly (s : State) (die : Nat) (but : Option Nat) (pa : Nat) :
    CachesOnly s (s.invalidate die but pa) := rfl

theorem State.takeCopies_cachesOnly (s : State) (core : Nat) (excl : Bool) (accs : List Acc) :
    CachesOnly s (s.takeCopies core excl accs) := by
  unfold State.takeCopies
  split
  · exact .refl s
  · have hu : ∀ f, CachesOnly s (s.updCore core f) := fun _ => rfl
    cases excl
    · exact hu _
    · exact (hu _).trans (CachesOnly.foldl _
        (fun s x => (s.dirty_cachesOnly (dieOf core) x).trans (State.invalidate_cachesOnly ..)) _ _)

theorem CachesOnly.ctxAt {s t : State} (h : CachesOnly s t) (k : Nat) : t.ctxAt k = s.ctxAt k := by
  unfold CachesOnly at h
  rw [h]
  rfl

theorem CachesOnly.mem {s t : State} (h : CachesOnly s t) : t.mem = s.mem := by
  unfold CachesOnly at h
  rw [h]

theorem CachesOnly.windows {s t : State} (h : CachesOnly s t) : t.windows = s.windows := by
  unfold CachesOnly at h
  rw [h]

theorem CachesOnly.fmts {s t : State} (h : CachesOnly s t) : t.fmts = s.fmts := by
  unfold CachesOnly at h
  rw [h]

theorem CachesOnly.now {s t : State} (h : CachesOnly s t) : t.now = s.now := by
  unfold CachesOnly at h
  rw [h]

/-- No access that has left the list empty takes a copy. -/
@[simp] theorem State.takeCopies_nil (s : State) (core : Nat) (excl : Bool) : s.takeCopies core excl [] = s := rfl

/-! ### Reads that meet no error -/

theorem State.scrub_clean {s : State} (h : s.bad = []) (ks : List Nat) (loc n : Nat) : s.scrub ks loc n = s := by
  rw [State.scrub, h]
  rfl

theorem State.scrubFor_clean {s : State} (h : s.bad = []) (k id loc n : Nat) : s.scrubFor k id loc n = s := by
  simp only [State.scrubFor, s.scrub_clean h, ↓reduceIte]

theorem State.foldl_scrubFor_clean {s : State} (h : s.bad = []) (k id : Nat) (accs : List Acc) :
    accs.foldl (fun s a => s.scrubFor k id a.loc a.len) s = s := by
  induction accs with
  | nil => rfl
  | cons a r ih => rw [List.foldl_cons, s.scrubFor_clean h, ih]

/-! ### Generations that agree -/

/-- Accesses that pass their comparison stay as they are (R371). -/
theorem State.regen_passes {s : State} {anew : Bool} (c : Ctx) (core : Nat) (want : Want) :
    ∀ {accs : List Acc}, (∀ a ∈ accs, Passes s anew a) → s.regen c core want anew accs = (s, .ok accs)
  | [], _ => rfl
  | a :: r, h => by
    obtain ⟨hg, hd⟩ := h a (List.mem_cons_self ..)
    have ha : (s.genOk a && !(anew && a.dev)) = true := by
      cases anew <;> simp_all
    rw [State.regen, ha, State.regen_passes c core want fun b hb => h b (List.mem_cons_of_mem _ hb)]
    rfl

/-! ### Plain memory -/

/-- No dual-home window copies the write. -/
theorem State.mirror_eq {s : State} {loc : Nat} {bs : List Byte} (h : Unmirrored s loc bs.length) : s.mirror loc bs = s := by
  have hfold : ∀ l : SMap Window, (∀ w ∈ l, loc + bs.length ≤ 65536 * w.1 ∨ 65536 * w.1 + 65536 ≤ loc) →
      l.foldl (fun s w =>
        let lo := 65536 * w.1
        let a := Nat.max lo loc
        if meets loc bs.length lo 65536 then
          { s with mem := s.mem.writeBytes (w.2.frame + (a - lo)) ((bs.drop (a - loc)).take (lo + 65536 - a)) }
        else s) s = s := by
    intro l
    induction l with
    | nil => intro _; rfl
    | cons w r ih =>
      intro hl
      have hw : meets loc bs.length (65536 * w.1) 65536 = false := by
        have := hl w (List.mem_cons_self ..)
        simp only [meets, Bool.and_eq_false_iff, decide_eq_false_iff_not]
        omega
      simp only [List.foldl_cons, hw, Bool.false_eq_true, ↓reduceIte]
      exact ih fun x hx => hl x (List.mem_cons_of_mem _ hx)
  exact hfold s.windows h

/-- A write outside the page agent's area, the hub's regions and the dual-home windows changes the bytes that it names; it ends
reservations and replaces bad units. -/
theorem State.memWrite_eq {s : State} {loc : Nat} {bs : List Byte} (hr : reserved loc = false) (hb : barOf loc = none)
    (hw : Unmirrored s loc bs.length) : s.memWrite loc bs =
      { s with mem := s.mem.writeBytes loc bs, harts := (s.dropResvs loc bs.length).harts,
               bad := s.bad.filter fun b => decide (b.loc < loc) || decide (loc + bs.length < b.loc + b.size) } := by
  rw [State.memWrite, hr, hb]
  exact State.mirror_eq hw

theorem State.memWrite_mem {s : State} {loc : Nat} {bs : List Byte} (hr : reserved loc = false) (hb : barOf loc = none)
    (hw : Unmirrored s loc bs.length) : (s.memWrite loc bs).mem = s.mem.writeBytes loc bs := by
  rw [State.memWrite_eq hr hb hw]

theorem State.memWrite_ctxAt {s : State} {loc : Nat} {bs : List Byte} (hr : reserved loc = false) (hb : barOf loc = none)
    (hw : Unmirrored s loc bs.length) (k : Nat) : (s.memWrite loc bs).ctxAt k = s.ctxAt k := by
  rw [State.memWrite_eq hr hb hw]
  rfl

theorem CachesOnly.unmirrored {s t : State} (h : CachesOnly s t) {loc n : Nat} (hw : Unmirrored s loc n) : Unmirrored t loc n := by
  unfold Unmirrored
  rw [h.windows]
  exact hw

/-- A read outside the format registers and the hub's regions gives the bytes of memory. -/
theorem State.accRead_eq {s : State} {a : Acc} (hf : isFmtLoc a.loc = false) (hb : barOf a.loc = none) :
    s.accRead a = s.mem.readLE a.loc a.len := by
  rw [State.accRead, hf, hb]
  rfl

theorem Mem.readLE_lt (m : Mem) (a n : Nat) : m.readLE a n < 2 ^ (8 * n) := by
  have h := leNat_lt (m.readBytes a n)
  rwa [Mem.length_readBytes, show (256 : Nat) = 2 ^ 8 from rfl, ← Nat.pow_mul] at h

end Sys2Proof.Machine
end

section
/-! SUPPORT. Landings (R9, R19, R22, R32, R79, R82, R92, R247). -/

namespace Sys2Proof.Machine

open Sys2Proof.Safety

/-! ### One scalar write lands -/

/-- The context after the word `id`, with the one write of `v` to `d`, has landed whole. -/
structure LandsScalar (c : Ctx) (id : Nat) (d : SReg) (v : Word) (fl : Fl) (c' : Ctx) : Prop where
  regs : c'.regs = (c.setReg d v).regs
  grid : c'.grid = c.grid
  masks : c'.masks = c.masks
  vt : c'.vt = c.vt
  pc : c'.pc = c.pc
  fpsr : c'.fpsr = c.fpsr ||| fl.setWidth 64
  pend : c'.pend = c.pend.filter fun q => q.id != id

theorem LandsScalar.reg_same {c c' : Ctx} {id : Nat} {d : SReg} {v : Word} {fl : Fl} (h : LandsScalar c id d v fl c') :
    c'.reg d = if d = 0 then 0 else v := by
  have hr : c'.reg d = (c.setReg d v).reg d := by rw [Ctx.reg, Ctx.reg, h.regs]
  rw [hr]
  split
  · next h0 => rw [h0, Ctx.reg_zero]
  · next h0 => exact Ctx.reg_setReg_same c v h0

theorem LandsScalar.reg_other {c c' : Ctx} {id : Nat} {d r : SReg} {v : Word} {fl : Fl} (h : LandsScalar c id d v fl c')
    (hr : r ≠ d) : c'.reg r = c.reg r := by
  have hs : c'.reg r = (c.setReg d v).reg r := by rw [Ctx.reg, Ctx.reg, h.regs]
  rw [hs, Ctx.reg_setReg_other c v hr]

/-- A word without flags leaves fpsr as it is. -/
theorem LandsScalar.fpsr_noFlags {c c' : Ctx} {id : Nat} {d : SReg} {v : Word} {fl : Fl}
    (h : LandsScalar c id d v (fl ||| 0) c') (hfl : fl = 0) : c'.fpsr = c.fpsr := by
  rw [h.fpsr, hfl]
  simp

/-- The end of a wait on the landing changes no register (R79). -/
theorem LandsScalar.goOn {c c' : Ctx} {id : Nat} {d : SReg} {v : Word} {fl : Fl} (h : LandsScalar c id d v fl c') (now : Nat) :
    LandsScalar c id d v fl { c'.setWait .none with readyAt := now } := by
  obtain ⟨h1, h2, h3, h4, h5, h6, h7⟩ := h
  unfold Ctx.setWait
  split <;> exact ⟨h1, h2, h3, h4, h5, h6, h7⟩

theorem LandsScalar.of_endOnly {c c1 c2 : Ctx} {id : Nat} {d : SReg} {v : Word} {fl : Fl} (h : LandsScalar c id d v fl c1)
    (he : EndOnly c1 c2) : LandsScalar c id d v fl c2 := by
  obtain ⟨h1, h2, h3, h4, h5, h6, h7⟩ := h
  unfold EndOnly at he
  rw [he]
  exact ⟨h1, h2, h3, h4, h5, h6, h7⟩

/-- A word that lands its last write completes: its record leaves, its counter falls, its flags land (R19, R22, R28). -/
theorem LandsScalar.complete {c c1 : Ctx} {p : Pend} {d : SReg} {v : Word} (he : EndOnly (c.setReg d v) c1) :
    LandsScalar c p.id d v p.flags
      ((((c1.dropPend p.id).decCtr? p.ctr).landFlags p.id p.flags).complete p.st p.id p.push) := by
  refine LandsScalar.of_endOnly ?_ (Ctx.complete_only ..)
  refine LandsScalar.of_endOnly ?_ (Ctx.older_only ..)
  have hk : ∀ x : Ctx, ∀ k, (x.decCtr? k).regs = x.regs ∧ (x.decCtr? k).grid = x.grid ∧ (x.decCtr? k).masks = x.masks ∧
      (x.decCtr? k).vt = x.vt ∧ (x.decCtr? k).pc = x.pc ∧ (x.decCtr? k).fpsr = x.fpsr ∧ (x.decCtr? k).pend = x.pend := by
    intro x k
    rcases k with _ | _ | _ | _ | _ <;> exact ⟨rfl, rfl, rfl, rfl, rfl, rfl, rfl⟩
  obtain ⟨h1, h2, h3, h4, h5, h6, h7⟩ := hk (c1.dropPend p.id) p.ctr
  rw [Ctx.setReg_eq] at he
  unfold EndOnly at he
  refine ⟨h1.trans ?_, h2.trans ?_, h3.trans ?_, h4.trans ?_, h5.trans ?_, ?_, h7.trans ?_⟩
  case refine_6 =>
    show _ ||| _ = _
    rw [h6]
    rw [he]
    rfl
  all_goals
    rw [he]
    rfl

/-- The writes that still belong to a word with one scalar write (R9, R82). -/
theorem Pend.own_scalar {p : Pend} {d : SReg} {v : Word} (hw : p.wr = [.s d v]) (hd : d ≠ 0 → .s d ∈ p.dsts) :
    p.own = if d = 0 then [] else [.s d v] := by
  unfold Pend.own
  rw [hw]
  by_cases h : d = 0
  · simp [h, Wr.dst]
  · have hown : (decide (d ≠ 0) && p.dsts.contains (.s d)) = true := by
      rw [decide_eq_true h, Bool.true_and, List.contains_iff_mem]
      exact hd h
    rw [if_neg h]
    exact List.filter_cons_of_pos hown

/-- Such a word lands whole where its write may land. -/
theorem Ctx.landVals_scalar {c : Ctx} {p : Pend} {d : SReg} {v : Word} (hw : p.wr = [.s d v]) (hd : d ≠ 0 → .s d ∈ p.dsts)
    (hm : d ≠ 0 → c.pendingBefore p.id (.s d) = false) : LandsScalar c p.id d v p.flags (c.landVals p) := by
  have ho := Pend.own_scalar hw hd
  by_cases h : d = 0
  · have hv : c.landVals p = (((c.dropPend p.id).decCtr? p.ctr).landFlags p.id p.flags).complete p.st p.id p.push := by
      simp only [Ctx.landVals, ho, h, ↓reduceIte, List.filter_nil, List.foldl_nil]
    rw [hv]
    refine LandsScalar.complete ?_
    rw [h]
    rfl
  · have hl : c.mayLand p (.s d v) = true := by
      simp [Ctx.mayLand, Wr.dst, hm h]
    have hv : c.landVals p = ((((c.landWr p.id (.s d v)).dropPend p.id).decCtr? p.ctr).landFlags p.id p.flags).complete p.st
        p.id p.push := by
      rw [if_neg h] at ho
      simp [Ctx.landVals, ho, hl]
    rw [hv]
    exact LandsScalar.complete (Ctx.older_only ..)

/-! ### The step -/

/-- What a landing needs (R92): its values or its access may take effect, and its die holds the sectors. -/
theorem State.landable_iff {s : State} {core : Nat} {c : Ctx} {p : Pend} : s.landable core c p = true ↔
    s.landReady core c p = true ∧ (p.isLs = true → s.coheres core p.excl p.accs = true) := by
  cases h : p.isLs <;> simp [State.landable, h]

/-- A word that delivers no pop, whose accesses pass their comparisons and meet no error, lands what it resolves to. -/
theorem State.landOne_eq {s : State} {k : Nat} {c : Ctx} {p : Pend} (hg : ∀ a ∈ p.accs, Passes s p.anew a)
    (hb : p.accs.foldl (fun s a => s.scrubFor k p.id a.loc a.len) s = s) (hc : s.coheres (k / 4) p.excl p.accs = true)
    (hr : ∀ t : State, t.actReady p = true) (hp : ∀ g e n y, p.act ≠ .pop g e n y) {s2 s3 : State} {ws : List Wr} {fl : Fl}
    (h2 : s.takeCopies (k / 4) p.excl p.accs = s2) (hv : s2.resolve p = (s3, ws, fl)) :
    s.landOne k c p =
      s3.updCtx k fun c => c.landVals { p with wr := ws, flags := p.flags ||| fl, act := .vals, accs := [] } := by
  simp only [State.landOne, State.regen_passes c (k / 4) _ hg, hc, hb, hr, Bool.not_true, Bool.false_eq_true, ↓reduceIte]
  rw [h2, hv]

/-- A word that lands its one scalar write in the state `s3`, in which its access has had its effect. -/
theorem landing_scalar {s s2 s3 : State} {k id : Nat} {c : Ctx} {p : Pend} {d : SReg} {v : Word} {fl : Fl}
    (hl : MayLand s k id c p) (hg : ∀ a ∈ p.accs, Passes s p.anew a)
    (hb : p.accs.foldl (fun s a => s.scrubFor k p.id a.loc a.len) s = s) (hc : s.coheres (k / 4) p.excl p.accs = true)
    (hr : ∀ t : State, t.actReady p = true) (hp : ∀ g e n y, p.act ≠ .pop g e n y)
    (h2 : s.takeCopies (k / 4) p.excl p.accs = s2) (hv : s2.resolve p = (s3, [.s d v], fl)) (h3 : s3.ctxAt k = some c)
    (hd : d ≠ 0 → .s d ∈ p.dsts) (hm : d ≠ 0 → c.pendingBefore id (.s d) = false) :
    ∃ t c', exec (.landing k id) s = .next t ∧ t.ctxAt k = some c' ∧ LandsScalar c id d v (p.flags ||| fl) c' ∧
      t.mem = s3.mem := by
  obtain ⟨hk, hpend, hid, hland⟩ := hl
  have hx : exec (.landing k id) s = .next ((s.landOne k c p).updCtx k fun c1 =>
      if c1.waitNow = .landing id ∧ (c1.pendOf id).isNone then { c1.setWait .none with readyAt := s.now } else c1) := by
    show Host.Outcome.next (s.land k id) = _
    simp only [State.land, hk, hpend, hland, ↓reduceIte]
  rw [State.landOne_eq hg hb hc hr hp h2 hv, State.updCtx_eq h3, State.updCtx_eq (State.ctxAt_putCtx ..)] at hx
  have hs := Ctx.landVals_scalar (c := c) (p := { p with wr := [.s d v], flags := p.flags ||| fl, act := .vals, accs := [] })
    rfl hd (hid ▸ hm)
  refine ⟨_, _, hx, State.ctxAt_putCtx .., ?_, ?_⟩
  · rw [← hid]
    split
    · exact hs.goOn s.now
    · exact hs
  · rw [State.putCtx_mem, State.putCtx_mem]

/-! ### Values, loads and atomics -/

/-- The destinations of a word with one scalar result. -/
theorem mem_scalar_dsts {l : List Dst} {d : SReg} (h : l = if d = 0 then [] else [.s d]) (hd : d ≠ 0) : .s d ∈ l := by
  rw [h, if_neg hd]
  exact List.mem_singleton_self _

/-- A word whose values are known lands where its write may (R82). -/
theorem landReady_vals {s : State} {core : Nat} {c : Ctx} {p : Pend} {d : SReg} {v : Word}
    (h : s.landReady core c p = true) (ha : p.act = .vals) (hw : p.wr = [.s d v]) (hd : d ≠ 0 → .s d ∈ p.dsts)
    (h0 : d ≠ 0) : c.pendingBefore p.id (.s d) = false := by
  have hown : p.own = [.s d v] := (Pend.own_scalar hw hd).trans (if_neg h0)
  unfold State.landReady at h
  cases ht : p.due with
  | none => simp [ht] at h
  | some t =>
    simp only [ht, ha, hown, Bool.and_eq_true, List.isEmpty_cons, Bool.false_or, List.any_cons, List.any_nil, Bool.or_false,
      Ctx.mayLand, Wr.dst, Bool.not_eq_true'] at h
    exact h.2

/-- A load's value is R243's: two's complement of its bytes where it is signed. -/
theorem extLoad_eq {size n : Nat} {sgn : Bool} (h : n < 2 ^ (8 * size)) : extLoad size sgn n = loadedValue size sgn n := by
  cases sgn
  · rfl
  · simp only [extLoad, loadedValue, sInt, Nat.mod_eq_of_lt h, ↓reduceIte, true_and]
    by_cases hn : n < 2 ^ (8 * size - 1)
    · rw [if_pos hn, if_neg (by omega), BitVec.ofInt_natCast]
    · rw [if_neg hn, if_pos (by omega)]
      push_cast
      rfl

/-- An atomic's new value is R247's. -/
theorem amoNew_toNat (op : AmoOp) (old b c : Word) : (amoNew op old b c).toNat = atomicLeaves op old b c := by
  cases op with
  | add => exact BitVec.toNat_add ..
  | and => exact BitVec.toNat_and ..
  | or => exact BitVec.toNat_or ..
  | xor => exact BitVec.toNat_xor ..
  | min => simp only [amoNew, atomicLeaves, BitVec.sle_eq_decide, decide_eq_true_eq]; split <;> rfl
  | max =>
    simp only [amoNew, atomicLeaves, BitVec.sle_eq_decide, decide_eq_true_eq]
    rcases lt_trichotomy old.toInt b.toInt with h | h | h
    · rw [if_neg (not_le.mpr h), if_pos h.le]
    · rw [BitVec.eq_of_toInt_eq h, if_pos le_rfl, if_pos le_rfl]
    · rw [if_pos h.le, if_neg (not_le.mpr h)]
  | swap => rfl
  | cas => simp only [amoNew, atomicLeaves, BitVec.toNat_eq]; split <;> rfl

/-- A load lands what its bytes hold now (R92, R243). -/
theorem landing_load {s : State} {k id size : Nat} {sgn : Bool} {d : SReg} {c : Ctx} {p : Pend} {a : Acc}
    (hl : MayLand s k id c p) (ha : p.act = .load size sgn d) (hacc : p.accs = [a]) (hg : Passes s p.anew a) (hbad : s.bad = [])
    (hf : isFmtLoc a.loc = false) (hb : barOf a.loc = none) (hds : p.dsts = if d = 0 then [] else [.s d])
    (hm : c.pendingBefore id (.s d) = false) (hlen : a.len = size) :
    ∃ t c', exec (.landing k id) s = .next t ∧ t.ctxAt k = some c' ∧
      LandsScalar c id d (loadedValue size sgn (s.mem.readLE a.loc size)) (p.flags ||| 0) c' ∧ t.mem = s.mem := by
  have ⟨hk, _, _, hland⟩ := hl
  have hc : s.coheres (k / 4) p.excl p.accs = true := (State.landable_iff.mp hland).2 (by simp [Pend.isLs, hacc, ha])
  have ht := s.takeCopies_cachesOnly (k / 4) p.excl p.accs
  generalize h2 : s.takeCopies (k / 4) p.excl p.accs = s2 at ht
  have hv : s2.resolve p = (s2, [.s d (loadedValue size sgn (s.mem.readLE a.loc size))], 0) := by
    have hn := extLoad_eq (sgn := sgn) (s.mem.readLE_lt a.loc size)
    simp only [State.resolve, ha, hacc, List.headD_cons, State.accRead_eq hf hb, hlen, ← hn, ht.mem]
  obtain ⟨t, c', hx, htk, hs, hmem⟩ := landing_scalar hl (by simpa [hacc] using hg) (State.foldl_scrubFor_clean hbad ..) hc
    (fun _ => by rw [State.actReady, ha]) (by simp [ha]) h2 hv ((ht.ctxAt k).trans hk) (mem_scalar_dsts hds) (fun _ => hm)
  exact ⟨t, c', hx, htk, hs, hmem.trans ht.mem⟩

/-- An atomic lands what its doubleword held, and leaves the new value there (R247). -/
theorem landing_amo {s : State} {k id : Nat} {op : AmoOp} {b x : Word} {d : SReg} {c : Ctx} {p : Pend} {a : Acc}
    (hl : MayLand s k id c p) (ha : p.act = .amo op b x d) (hacc : p.accs = [a]) (hg : Passes s p.anew a) (hbad : s.bad = [])
    (hw : Unmirrored s a.loc 8) (hf : isFmtLoc a.loc = false) (hr : reserved a.loc = false) (hb : barOf a.loc = none)
    (hlen : a.len = 8) (hds : p.dsts = if d = 0 then [] else [.s d]) (hm : c.pendingBefore id (.s d) = false) :
    ∃ t c', exec (.landing k id) s = .next t ∧ t.ctxAt k = some c' ∧
      LandsScalar c id d (s.mem.read64 a.loc) (p.flags ||| 0) c' ∧
      t.mem = s.mem.writeLE a.loc 8 (atomicLeaves op (s.mem.read64 a.loc) b x) := by
  have ⟨hk, _, _, hland⟩ := hl
  have hc : s.coheres (k / 4) p.excl p.accs = true := (State.landable_iff.mp hland).2 (by simp [Pend.isLs, hacc, ha])
  have ht := s.takeCopies_cachesOnly (k / 4) p.excl p.accs
  generalize h2 : s.takeCopies (k / 4) p.excl p.accs = s2 at ht
  have hold : BitVec.ofNat 64 (s2.accRead a) = s.mem.read64 a.loc := by
    rw [State.accRead_eq hf hb, hlen, ht.mem]
    rfl
  have hv : s2.resolve p = (s2.memWrite a.loc (leBytes (atomicLeaves op (s.mem.read64 a.loc) b x) 8),
      [.s d (s.mem.read64 a.loc)], 0) := by
    simp only [State.resolve, ha, hacc, List.headD_cons, hold, amoNew_toNat]
  have hu : Unmirrored s2 a.loc (leBytes (atomicLeaves op (s.mem.read64 a.loc) b x) 8).length := by
    rw [length_leBytes]
    exact ht.unmirrored hw
  obtain ⟨t, c', hx, htk, hs, hmem⟩ := landing_scalar hl (by simpa [hacc] using hg) (State.foldl_scrubFor_clean hbad ..) hc
    (fun _ => by rw [State.actReady, ha]) (by simp [ha]) h2 hv
    ((State.memWrite_ctxAt hr hb hu k).trans ((ht.ctxAt k).trans hk)) (mem_scalar_dsts hds) (fun _ => hm)
  refine ⟨t, c', hx, htk, hs, ?_⟩
  rw [hmem, State.memWrite_mem hr hb hu, ht.mem]
  rfl

/-- Settles O36: a landing that may be made resolves its value and lands the one write. -/
theorem landingsTakeEffect : Obligations.LandingsTakeEffect := by
  intro k id s c p hk hpend
  refine ⟨fun h => ?_, fun d v hl ha hw hacc hd => ?_, fun size sgn d a hl ha hacc hg hbad hf hb hds hm hlen hfl => ?_,
    fun op b x d a hl ha hacc hg hbad hw hf hr hb hlen hds hm hfl => ?_⟩
  · show Host.Outcome.next (s.land k id) = _
    simp only [State.land, hk, hpend, h, Bool.false_eq_true, ↓reduceIte]
  · have ⟨_, _, hid, hland⟩ := hl
    have hpb := landReady_vals (State.landable_iff.mp hland).1 ha hw hd
    obtain ⟨t, c', hx, ht, hs, hmem⟩ := landing_scalar (s2 := s) (s3 := s) (fl := p.flags) (v := v) hl (by simp [hacc])
      (by rw [hacc]; rfl) (by rw [hacc]; rfl) (fun _ => by rw [State.actReady, ha]) (by simp [ha])
      (by rw [hacc, State.takeCopies_nil]) (by rw [State.resolve, ha, hw]) hk hd (hid ▸ hpb)
    rw [BitVec.or_self] at hs
    exact ⟨t, c', hx, ht, hs.reg_same, fun r hr => hs.reg_other hr, hs.grid, hs.masks, hs.vt, hs.pc, hs.fpsr, hs.pend, hmem⟩
  · obtain ⟨t, c', hx, ht, hs, hmem⟩ := landing_load hl ha hacc hg hbad hf hb hds hm hlen
    exact ⟨t, c', hx, ht, hs.reg_same, fun r hr => hs.reg_other hr, hs.grid, hs.masks, hs.fpsr_noFlags hfl, hs.pend, hmem⟩
  · obtain ⟨t, c', hx, ht, hs, hmem⟩ := landing_amo hl ha hacc hg hbad hw hf hr hb hlen hds hm
    exact ⟨t, c', hx, ht, hs.reg_same, fun r hr => hs.reg_other hr, hs.grid, hs.masks, hs.fpsr_noFlags hfl, hmem⟩

end Sys2Proof.Machine
end

section
/-! SUPPORT. Stores, messages and shipped routines as they take effect (R19, R28, R92, R149, R248, R316, R403, R404). -/

namespace Sys2Proof.Machine

open Sys2Proof.Safety

/-! ### Contexts and the rest of the package -/

/-- What an update of contexts may change. -/
def CtxOnly (s t : State) : Prop := t = { s with ctx := t.ctx, live := t.live, parked := t.parked }

theorem CtxOnly.trans {s t u : State} (h : CtxOnly s t) (g : CtxOnly t u) : CtxOnly s u := by
  unfold CtxOnly at *
  rw [g, h]

theorem State.updCtx_ctxOnly (s : State) (k : Nat) (f : Ctx → Ctx) : CtxOnly s (s.updCtx k f) := by
  unfold State.updCtx State.putCtx
  split
  · rfl
  · split <;> rfl

/-- The fields that the effects here are stated of stay. -/
theorem CtxOnly.fields {s t : State} (h : CtxOnly s t) : t.mem = s.mem ∧ t.fe = s.fe ∧ t.arrivals = s.arrivals ∧
    t.bad = s.bad ∧ t.windows = s.windows ∧ t.dir = s.dir := by
  unfold CtxOnly at h
  rw [h]
  exact ⟨rfl, rfl, rfl, rfl, rfl, rfl⟩

theorem CtxOnly.mem {s t : State} (h : CtxOnly s t) : t.mem = s.mem := h.fields.1

theorem State.ctxAt_putCtx_other (s : State) {j k : Nat} (c : Ctx) (h : j ≠ k) : (s.putCtx j c).ctxAt k = s.ctxAt k := by
  unfold State.putCtx
  split
  · next hj =>
    have hk : k ≠ s.key := fun hk => h (hj.trans hk.symm)
    simp only [State.ctxAt, if_neg hk]
  · simp only [State.ctxAt, mget_mput_other s.parked c h.symm]

/-- An update of berth `j` as berth `k` sees it. -/
theorem State.ctxAt_updCtx (s : State) (j k : Nat) (f : Ctx → Ctx) :
    (s.updCtx j f).ctxAt k = if j = k then (s.ctxAt k).map f else s.ctxAt k := by
  unfold State.updCtx
  split_ifs with h
  · subst h
    cases hc : s.ctxAt j with
    | none => exact hc
    | some c => exact State.ctxAt_putCtx ..
  · cases hc : s.ctxAt j with
    | none => rfl
    | some c => exact State.ctxAt_putCtx_other _ _ h

/-! ### The end of a store -/

/-- The context with the store `p` out of its list, its counter and its tokens (R19, R28). -/
def Ctx.storeDone (c : Ctx) (p : PStore) : Ctx :=
  (({ c with stores := c.stores.filter fun q => q.id != p.id } : Ctx).decCtr .sc).complete p.st p.id p.push

theorem Ctx.storeDone_fields (c : Ctx) (p : PStore) : (c.storeDone p).sc = c.sc - 1 ∧ (c.storeDone p).regs = c.regs ∧
    (c.storeDone p).grid = c.grid ∧ (c.storeDone p).pend = c.pend ∧
    (c.storeDone p).stores = c.stores.filter fun q => q.id != p.id := by
  have h := Ctx.complete_only (({ c with stores := c.stores.filter fun q => q.id != p.id } : Ctx).decCtr .sc) p.st p.id p.push
  change EndOnly _ (c.storeDone p) at h
  unfold EndOnly at h
  rw [h]
  exact ⟨rfl, rfl, rfl, rfl, rfl⟩

/-- What may take effect is the listed store, whose sectors its die holds. -/
theorem coheres_of_mayStore {s : State} {k id : Nat} {c : Ctx} {p : PStore} (h : MayStore s k id c p) :
    s.coheres (k / 4) p.excl p.cached = true := by
  have := List.find?_some h.2
  simp only [State.storable, Bool.and_eq_true] at this
  exact this.2.2

/-- A store whose accesses pass their comparisons has its effect and ends (R92). -/
theorem State.storeEffect_eq {s : State} {k id : Nat} {c : Ctx} {p : PStore} (h : MayStore s k id c p)
    (hg : ∀ a ∈ p.cached, Passes s p.anew a) : s.storeEffect k id =
      (match p.kind with
        | .msgw core off len entry incr =>
          s.msgwApply k p.id core off entry incr ((p.cached).take (len / 16)) 0
        | _ => ((p.parts.foldl State.partWrite s).takeCopies (k / 4) p.excl p.cached).storeKind k p).updCtx k
          (·.storeDone p) := by
  have hcached : p.parts.map (·.acc) = p.cached := rfl
  have hparts : ((p.parts.zip p.cached).map fun x => ({ acc := x.2, mask := x.1.mask, val := x.1.val } : StPart)) = p.parts := by
    rw [← hcached]
    induction p.parts with
    | nil => rfl
    | cons a r ih => rw [List.map_cons, List.zip_cons_cons, List.map_cons, ih]
  simp only [State.storeEffect, h.1, h.2, State.storeOne, hcached, State.regen_passes c (k / 4) _ hg, coheres_of_mayStore h,
    hparts, Bool.not_true, Bool.false_eq_true, ↓reduceIte]
  rfl

/-! ### A plain store -/

/-- A part of a plain store outside the special regions writes the bits under its mask. -/
theorem State.partWrite_eq {s : State} {a : Acc} {m v : Word} (hf : isFmtLoc a.loc = false) :
    s.partWrite ⟨a, m, v⟩ = s.memWrite a.loc
      (leBytes ((BitVec.ofNat 64 (s.mem.readLE a.loc a.len) &&& ~~~m) ||| (v &&& m)).toNat a.len) := by
  simp only [State.partWrite, hf, Bool.false_eq_true, ↓reduceIte]

theorem plain_store {s : State} {k id : Nat} {c : Ctx} {p : PStore} {a : Acc} {m v : Word} (h : MayStore s k id c p)
    (hkind : p.kind = .plain) (hparts : p.parts = [⟨a, m, v⟩]) (hg : Passes s p.anew a) (hu : Unmirrored s a.loc a.len)
    (hf : isFmtLoc a.loc = false) (hr : reserved a.loc = false) (hb : barOf a.loc = none) :
    ∃ t, exec (.storeTakesEffect k id) s = .next t ∧ t.ctxAt k = some (c.storeDone p) ∧
      t.mem = s.mem.writeLE a.loc a.len
        ((BitVec.ofNat 64 (s.mem.readLE a.loc a.len) &&& ~~~m) ||| (v &&& m)).toNat := by
  have hx : exec (.storeTakesEffect k id) s = .next (s.storeEffect k id) := rfl
  rw [State.storeEffect_eq h (by simpa [PStore.cached, hparts] using hg), hkind] at hx
  simp only [State.storeKind, hkind, hparts, List.foldl_cons, List.foldl_nil, State.partWrite_eq hf] at hx
  generalize hbs : leBytes _ a.len = bs at hx
  have hl : bs.length = a.len := by rw [← hbs, length_leBytes]
  have hw := s.memWrite_eq hr hb (hl ▸ hu)
  have ht := (s.memWrite a.loc bs).takeCopies_cachesOnly (k / 4) p.excl p.cached
  refine ⟨_, hx, ?_, ?_⟩
  · rw [State.ctxAt_updCtx, if_pos rfl, ht.ctxAt, State.memWrite_ctxAt hr hb (hl ▸ hu), h.1]
    rfl
  · rw [(State.updCtx_ctxOnly ..).mem, ht.mem, State.memWrite_mem hr hb (hl ▸ hu), ← hbs]
    rfl

/-! ### A message -/

/-- A scratchpad's window is outside the page agent's area. -/
theorem reserved_spadLoc (core off : Nat) : reserved (spadLoc core off) = false := by
  have h : ¬ spadLoc core off < 0x20000000000 := by
    simp only [spadLoc, winBase]
    omega
  simp only [reserved, h, decide_false, Bool.and_false]

/-- A scratchpad's window is above the hub's regions. -/
theorem barOf_spadLoc (core off : Nat) : barOf (spadLoc core off) = none := by
  have h : 2 ^ 52 ≤ spadLoc core off := by
    simp only [spadLoc, winBase]
    omega
  simp only [barOf, h, decide_true, Bool.or_true, ↓reduceIte]

/-- What the end of a WFE's wait may change (R332). -/
def WakeOnly (c d : Ctx) : Prop := d = { c with block := d.block, readyAt := d.readyAt, pend := d.pend }

theorem WakeOnly.trans {c d e : Ctx} (h : WakeOnly c d) (g : WakeOnly d e) : WakeOnly c e := by
  unfold WakeOnly at *
  rw [g, h]

theorem Ctx.wfeEnd_wakeOnly (c : Ctx) (now : Nat) : WakeOnly c (c.wfeEnd now) := by
  unfold Ctx.wfeEnd
  split <;> rfl

/-- A context as it stands after others, or it, may have been woken. -/
def Woken (s t : State) (k : Nat) : Prop := ∀ c, s.ctxAt k = some c → ∃ d, t.ctxAt k = some d ∧ WakeOnly c d

theorem Woken.trans {s t u : State} {k : Nat} (h : Woken s t k) (g : Woken t u k) : Woken s u k := by
  intro c hc
  obtain ⟨d, hd, hcd⟩ := h c hc
  obtain ⟨e, he, hde⟩ := g d hd
  exact ⟨e, he, hcd.trans hde⟩

/-- An event on a core ends waits and does nothing else (R332). -/
theorem State.coreEvent_woken (s : State) (core k : Nat) : CtxOnly s (s.coreEvent core) ∧ Woken s (s.coreEvent core) k := by
  have hfold : ∀ (l : List Nat) (t : State), CtxOnly t (l.foldl (fun s b => s.updCtx (4 * core + b) fun c => c.wfeEnd s.now) t) ∧
      Woken t (l.foldl (fun s b => s.updCtx (4 * core + b) fun c => c.wfeEnd s.now) t) k := by
    intro l
    induction l with
    | nil => exact fun t => ⟨rfl, fun c hc => ⟨c, hc, rfl⟩⟩
    | cons b r ih =>
      intro t
      obtain ⟨h1, h2⟩ := ih (t.updCtx (4 * core + b) fun c => c.wfeEnd t.now)
      refine ⟨(State.updCtx_ctxOnly ..).trans h1, Woken.trans (fun c hc => ?_) h2⟩
      rw [State.ctxAt_updCtx, hc]
      split
      · exact ⟨_, rfl, c.wfeEnd_wakeOnly _⟩
      · exact ⟨c, rfl, rfl⟩
  exact hfold _ s

/-- A full-empty bit set leaves the rest as it is. -/
theorem State.setFull_fields (s : State) (core g k : Nat) : (s.setFull core g).mem = s.mem ∧
    (s.setFull core g).arrivals = s.arrivals ∧ (s.setFull core g).bad = s.bad ∧ (s.setFull core g).windows = s.windows ∧
    (s.setFull core g).ctxAt k = s.ctxAt k := by
  unfold State.setFull
  dsimp only
  split <;> exact ⟨rfl, rfl, rfl, rfl, rfl⟩

theorem State.isFull_setFull (s : State) (core g h : Nat) (hs : s.isFull core h = true ∨ h = g) :
    (s.setFull core g).isFull core h = true := by
  simp only [State.isFull, State.setFull, List.contains_iff_mem] at *
  split
  · next hg =>
    rcases hs with hs | rfl
    · exact hs
    · exact hg
  · rcases hs with hs | rfl
    · rcases lt_trichotomy (32768 * core + h) (32768 * core + g) with hlt | heq | hgt
      · exact List.mem_append_left _ (List.mem_filter.mpr ⟨hs, decide_eq_true hlt⟩)
      · exact List.mem_append_right _ (heq ▸ List.mem_cons_self ..)
      · exact List.mem_append_right _ (List.mem_cons_of_mem _ (List.mem_filter.mpr ⟨hs, decide_eq_true hgt⟩))
    · exact List.mem_append_right _ (List.mem_cons_self ..)

/-- Granules of a message in place: the memory `m`, granules full that were, or that are `gs` of them from `g` on. -/
structure Delivered (s t : State) (k core g gs : Nat) (m : Mem) : Prop where
  mem : t.mem = m
  kept : ∀ x, s.isFull core x = true → t.isFull core x = true
  full : ∀ j, j < gs → t.isFull core (g + j) = true
  arrivals : t.arrivals = s.arrivals
  bad : t.bad = s.bad
  windows : t.windows = s.windows
  woken : Woken s t k

/-- A plain write as the full-empty bits, the posted arrivals and the contexts see it. -/
theorem State.memWrite_fields (s : State) (k : Nat) {loc : Nat} {bs : List Byte} (hr : reserved loc = false)
    (hb : barOf loc = none) (hw : Unmirrored s loc bs.length) : (s.memWrite loc bs).mem = s.mem.writeBytes loc bs ∧
      (s.memWrite loc bs).fe = s.fe ∧ (s.memWrite loc bs).arrivals = s.arrivals ∧
      (s.bad = [] → (s.memWrite loc bs).bad = s.bad) ∧ (s.memWrite loc bs).windows = s.windows ∧
      (s.memWrite loc bs).ctxAt k = s.ctxAt k := by
  rw [State.memWrite_eq hr hb hw]
  refine ⟨rfl, rfl, rfl, fun hbad => ?_, rfl, rfl⟩
  rw [hbad]
  rfl

/-- One granule of a message: its bytes, then its bit (R316). -/
theorem delivered_one {s : State} {core o g : Nat} (k loc : Nat) (hbad : s.bad = []) (hu : Unmirrored s (spadLoc core o) 16) :
    Delivered s ((s.memWrite (spadLoc core o) (s.mem.readBytes loc 16)).feSet core g) k core g 1
      (s.mem.writeBytes (spadLoc core o) (s.mem.readBytes loc 16)) := by
  obtain ⟨hmem1, hfe1, harr1, hbad1, hwin1, hctx1⟩ := s.memWrite_fields k (bs := s.mem.readBytes loc 16)
    (reserved_spadLoc core o) (barOf_spadLoc core o) (by rwa [Mem.length_readBytes])
  generalize s.memWrite (spadLoc core o) (s.mem.readBytes loc 16) = s1 at *
  obtain ⟨hmem2, harr2, hbad2, hwin2, hctx2⟩ := s1.setFull_fields core g k
  have hfull : ∀ x, s.isFull core x = true ∨ x = g → (s1.setFull core g).isFull core x = true := fun x hx =>
    s1.isFull_setFull core g x (by rw [State.isFull, hfe1]; exact hx)
  obtain ⟨ho, hk⟩ := (s1.setFull core g).coreEvent_woken core k
  obtain ⟨hmem3, hfe3, harr3, hbad3, hwin3, -⟩ := ho.fields
  unfold State.feSet
  generalize (s1.setFull core g).coreEvent core = t at *
  generalize s1.setFull core g = s2 at *
  refine ⟨hmem3.trans (hmem2.trans hmem1), fun x hx => ?_, fun j hj => ?_, harr3.trans (harr2.trans harr1),
    hbad3.trans (hbad2.trans (hbad1 hbad)), hwin3.trans (hwin2.trans hwin1), fun c hc => hk c (hctx2.trans (hctx1.trans hc))⟩
  · rw [State.isFull, hfe3]
    exact hfull x (.inl hx)
  · rw [State.isFull, hfe3]
    exact hfull (g + j) (.inr (by omega))

theorem Delivered.trans {s t u : State} {k core g n : Nat} {m m' : Mem} (h : Delivered s t k core g 1 m)
    (h' : Delivered t u k core (g + 1) n m') : Delivered s u k core g (n + 1) m' where
  mem := h'.mem
  kept x hx := h'.kept x (h.kept x hx)
  full j hj := by
    cases j with
    | zero => exact h'.kept _ (h.full 0 (by omega))
    | succ j =>
      rw [show g + (j + 1) = g + 1 + j by omega]
      exact h'.full j (by omega)
  arrivals := h'.arrivals.trans h.arrivals
  bad := h'.bad.trans h.bad
  windows := h'.windows.trans h.windows
  woken := h.woken.trans h'.woken

/-- The memory that granules of a message from number `i` on leave. -/
def granulesCopied (core off i : Nat) (accs : List Acc) (m : Mem) : Mem :=
  (accs.mapIdx fun j a => (i + j, a)).foldl (fun m (x : Nat × Acc) =>
    m.writeBytes (spadLoc core (off + 16 * x.1)) (m.readBytes x.2.loc 16)) m

theorem granulesCopied_cons (core off i : Nat) (a : Acc) (r : List Acc) (m : Mem) : granulesCopied core off i (a :: r) m =
    granulesCopied core off (i + 1) r (m.writeBytes (spadLoc core (off + 16 * i)) (m.readBytes a.loc 16)) := by
  simp only [granulesCopied, List.mapIdx_cons, List.foldl_cons, Nat.add_zero, Nat.add_assoc, Nat.add_comm 1]

/-- A message copies its granules in ascending order, each full then, and posts its arrival (R316). -/
theorem State.msgwApply_eq (k id core off entry incr : Nat) : ∀ (accs : List Acc) (s : State) (i : Nat), s.bad = [] →
    Unmirrored s (spadLoc core (off + 16 * i)) (16 * accs.length) →
    ∃ t, s.msgwApply k id core off entry incr accs i = t.postArrival core entry incr ∧
      Delivered s t k core (off / 16 + i) accs.length (granulesCopied core off i accs s.mem)
  | [], s, i, _, _ => ⟨s, rfl, ⟨rfl, fun _ h => h, by simp, rfl, rfl, rfl, fun c hc => ⟨c, hc, rfl⟩⟩⟩
  | a :: r, s, i, hbad, hu => by
    have hloc : ∀ x, spadLoc core (off + x) = spadLoc core off + x := fun x => by simp only [spadLoc]; omega
    rw [List.length_cons] at hu
    have h1 := delivered_one (g := off / 16 + i) k a.loc hbad (fun w hw => by
      have := hu w hw
      omega : Unmirrored s (spadLoc core (off + 16 * i)) 16)
    obtain ⟨t, he, h2⟩ := State.msgwApply_eq k id core off entry incr r _ (i + 1) (h1.bad.trans hbad) (fun w hw => by
      rw [h1.windows] at hw
      have := hu w hw
      rw [hloc] at this ⊢
      omega)
    refine ⟨t, ?_, ?_⟩
    · rw [State.msgwApply, s.scrubFor_clean hbad]
      exact he
    · rw [h1.mem] at h2
      rw [granulesCopied_cons]
      exact h1.trans h2

theorem message_arrives {s : State} {k id core off len entry incr : Nat} {c : Ctx} {p : PStore} {accs : List Acc}
    (h : MayStore s k id c p) (hkind : p.kind = .msgw core off len entry incr) (haccs : p.parts.map (·.acc) = accs)
    (hg : ∀ a ∈ accs, Passes s p.anew a) (hbad : s.bad = []) (hu : Unmirrored s (spadLoc core off) len)
    (hlen : accs.length = len / 16) (ha : s.arrivals = []) :
    ∃ t c', exec (.msgwArrival k id) s = .next t ∧ t.ctxAt k = some c' ∧ c'.sc = c.sc - 1 ∧ c'.regs = c.regs ∧
      t.mem = granulesCopied core off 0 accs s.mem ∧ (∀ j, j < accs.length → t.isFull core (off / 16 + j) = true) ∧
      t.arrivals = [(64 * core + entry, incr)] := by
  have hx : exec (.msgwArrival k id) s = .next (s.storeEffect k id) := rfl
  have hcached : p.cached = accs := haccs
  rw [State.storeEffect_eq h (by rwa [hcached]), hkind, hcached] at hx
  simp only [← hlen, List.take_length] at hx
  obtain ⟨t, he, hd⟩ := State.msgwApply_eq k p.id core off entry incr accs s 0 hbad fun w hw => by
    have := hu w hw
    simp only [Nat.mul_zero, Nat.add_zero]
    omega
  rw [he] at hx
  obtain ⟨d, htk, hcd⟩ := hd.woken c h.1
  obtain ⟨hsc, hregs, -⟩ := d.storeDone_fields p
  obtain ⟨hmem, hfe, harr, -⟩ := ((t.postArrival core entry incr).updCtx_ctxOnly k (·.storeDone p)).fields
  unfold WakeOnly at hcd
  refine ⟨_, d.storeDone p, hx, ?_, ?_, ?_, hmem.trans hd.mem, fun j hj => ?_, harr.trans ?_⟩
  · rw [State.ctxAt_updCtx, if_pos rfl]
    show (t.ctxAt k).map _ = _
    rw [htk]
    rfl
  · rw [hsc, hcd]
  · rw [hregs, hcd]
  · rw [State.isFull, hfe]
    exact hd.full j hj
  · simp [State.postArrival, hd.arrivals, ha, mupd, mgetD, mget, mput]

/-! ### A shipped routine (R402 to R404) -/

theorem Cell.reg_put (z : Cell) (d q : SReg) (v : Word) :
    (z.put d v).reg q = if q = d ∧ d ≠ 0 then v else z.reg q := by
  by_cases hd : d = 0
  · rw [if_neg (fun h => h.2 hd), Cell.put, if_pos hd]
  · rw [Cell.put, if_neg hd]
    by_cases hq : q = d
    · rw [if_pos ⟨hq, hd⟩, hq, Cell.reg, if_neg hd]
      exact Vector.getElem_set_self _
    · have hne : d.toNat ≠ q.toNat := fun h => hq (BitVec.eq_of_toNat_eq h.symm)
      rw [if_neg (fun h => hq h.1), Cell.reg, Cell.reg]
      simp only [Vector.getElem_set_ne _ _ hne]

/-- The registers at entry: the offset, the two operands, and zeros (R403). -/
theorem cellEntry_reg (off : Nat) (x y : Word) (buf : List Byte) :
    (cellEntry off x y buf).reg 1 = BitVec.ofNat 64 off ∧ (cellEntry off x y buf).reg 2 = x ∧
      (cellEntry off x y buf).reg 3 = y ∧ ∀ r, r = 0 ∨ 3 < r → (cellEntry off x y buf).reg r = 0 := by
  refine ⟨rfl, rfl, rfl, fun r hr => ?_⟩
  unfold Cell.reg
  split
  · rfl
  · next h0 =>
    have h3 : 3 < r.toNat := by
      rcases hr with hr | hr
      · exact absurd hr h0
      · exact hr
    simp [cellEntry, Vector.getElem_set_ne, show 1 ≠ r.toNat by omega, show 2 ≠ r.toNat by omega, show 3 ≠ r.toNat by omega]

theorem cellRun_go {w : IWord} {i : Instr} {z z1 : Cell} (r : List IWord) (hd : decode w = some i)
    (hw : cellWord i z = some (.go z1)) : cellRun (w :: r) 0 z = cellRun r 0 z1 := by
  rw [cellRun, hd, Option.bind_some, hw]

theorem cellRun_skip {w : IWord} {i : Instr} {z : Cell} {n : Nat} (r : List IWord) (hd : decode w = some i)
    (hw : cellWord i z = some (.skip n)) : cellRun (w :: r) 0 z = cellRun r n z := by
  rw [cellRun, hd, Option.bind_some, hw]

theorem cellRun_abort {w : IWord} {i : Instr} {z : Cell} (r : List IWord) (hd : decode w = some i)
    (hw : cellWord i z = some .abort) : cellRun (w :: r) 0 z = none := by
  rw [cellRun, hd, Option.bind_some, hw]

/-- A doubleword's offset in the sector: aligned and below 64 (R404). -/
theorem Cell.off_eight (z : Cell) (a : SReg) (i : BitVec 9) : z.off a i 8 =
    if (z.reg a + i.signExtend 64 * 8).toNat < 64 ∧ (z.reg a + i.signExtend 64 * 8).toNat % 8 = 0
    then some (z.reg a + i.signExtend 64 * 8).toNat else none := by
  unfold Cell.off
  show (if _ then none else some (z.reg a + i.signExtend 64 * 8).toNat) = _
  by_cases h : (z.reg a + i.signExtend 64 * 8).toNat < 64 ∧ (z.reg a + i.signExtend 64 * 8).toNat % 8 = 0
  · rw [if_pos h, if_neg]
    rintro (h1 | h1)
    · exact absurd h.1 (not_lt.mpr h1)
    · exact h1 h.2
  · rw [if_neg h, if_pos]
    rcases not_and_or.mp h with h1 | h1
    · exact .inl (not_lt.mp h1)
    · exact .inr h1

theorem cellRun_ld {w : IWord} {z : Cell} {d a : SReg} {i : BitVec 9} (r : List IWord) (h : decode w = some (.ld 0 d a i)) :
    cellRun (w :: r) 0 z =
      if (z.reg a + i.signExtend 64 * 8).toNat < 64 ∧ (z.reg a + i.signExtend 64 * 8).toNat % 8 = 0 then
        cellRun r 0 (z.put d (BitVec.ofNat 64 (leNat ((z.buf.drop (z.reg a + i.signExtend 64 * 8).toNat).take 8))))
      else none := by
  have hw : cellWord (.ld 0 d a i) z = some (z.load d a i 8 false) := rfl
  rw [Cell.load, Cell.off_eight] at hw
  split
  · next hc =>
    rw [if_pos hc] at hw
    exact cellRun_go r h hw
  · next hc =>
    rw [if_neg hc] at hw
    exact cellRun_abort r h hw

theorem cellRun_sd {w : IWord} {z : Cell} {d a : SReg} {i : BitVec 9} (r : List IWord) (h : decode w = some (.sd 0 d a i)) :
    cellRun (w :: r) 0 z =
      if (z.reg a + i.signExtend 64 * 8).toNat < 64 ∧ (z.reg a + i.signExtend 64 * 8).toNat % 8 = 0 then
        cellRun r 0 { z with
          buf := z.buf.take (z.reg a + i.signExtend 64 * 8).toNat ++ leBytes (z.reg d).toNat 8 ++
            z.buf.drop ((z.reg a + i.signExtend 64 * 8).toNat + 8) }
      else none := by
  have hw : cellWord (.sd 0 d a i) z = some (z.store d a i 8) := rfl
  rw [Cell.store, Cell.off_eight] at hw
  split
  · next hc =>
    rw [if_pos hc] at hw
    exact cellRun_go r h hw
  · next hc =>
    rw [if_neg hc] at hw
    exact cellRun_abort r h hw

theorem cellRun_beq {w : IWord} {z : Cell} {a b : SReg} {f : BitVec 12} (r : List IWord) (h : decode w = some (.beq 0 a b f)) :
    cellRun (w :: r) 0 z = cellRun r (if z.reg a = z.reg b then f.toNat - 1 else 0) z := by
  have hw : cellWord (.beq 0 a b f) z = some (z.branch f (z.reg a == z.reg b)) := rfl
  by_cases hc : z.reg a = z.reg b
  · rw [Cell.branch, if_pos (beq_iff_eq.mpr hc)] at hw
    rw [if_pos hc]
    exact cellRun_skip r h hw
  · rw [Cell.branch, if_neg (fun hb => hc (beq_iff_eq.mp hb))] at hw
    rw [if_neg hc]
    exact cellRun_go r h hw

/-! ### A sector taken from its holders -/

/-- A holder that gives up its copy holds nothing of the sector, and the others what they held (R361). -/
theorem State.surrender_dirOf (s : State) (sec j i : Nat) :
    (s.surrender sec j true).dirOf sec i = if i = j then .i else s.dirOf sec i := by
  have hset : ∀ t : State, t.dir = s.dir → (t.setDir sec j .i).dirOf sec i = if i = j then .i else s.dirOf sec i := by
    intro t ht
    have hat : t.dirAt sec = s.dirAt sec := by rw [State.dirAt, ht, State.dirAt]
    simp only [State.dirOf, State.setDir, hat]
    rw [State.dirAt, mgetD_mput_same, nthD, List.getElem?_set]
    by_cases hij : j = i
    · rw [if_pos hij, if_pos hij.symm]
      split_ifs <;> rfl
    · rw [if_neg hij, if_neg (Ne.symm hij)]
      rfl
  unfold State.surrender
  rw [if_pos (.inl rfl)]
  refine hset _ ?_
  split_ifs <;> rfl

theorem State.surrender_bad (s : State) (sec j : Nat) : (s.surrender sec j true).bad = s.bad := by
  unfold State.surrender
  rw [if_pos (.inl rfl)]
  split_ifs <;> rfl

/-- A sector taken from its home is held by none (R106). -/
theorem State.takeSector_dirOf (s : State) (sec : Nat) {i : Nat} (hi : i < 6) : (s.takeSector sec).dirOf sec i = .i := by
  have hfold : ∀ (l : List Nat) (t : State), i ∈ l ∨ t.dirOf sec i = .i →
      (l.foldl (fun s j => s.surrender sec j true) t).dirOf sec i = .i := by
    intro l
    induction l with
    | nil => exact fun t h => h.resolve_left List.not_mem_nil
    | cons j r ih =>
      intro t h
      refine ih _ ?_
      rw [State.surrender_dirOf]
      by_cases hij : i = j
      · exact .inr (if_pos hij)
      · rw [if_neg hij]
        exact h.imp_left fun hm => (List.mem_cons.mp hm).resolve_left hij
  refine hfold _ s ?_
  by_cases h : s.dirOf sec i = .i
  · exact .inr h
  · exact .inl (List.mem_filter.mpr ⟨List.mem_range.mpr hi, bne_iff_ne.mpr h⟩)

theorem State.takeSector_bad (s : State) (sec : Nat) : (s.takeSector sec).bad = s.bad := by
  have hfold : ∀ (l : List Nat) (t : State), (l.foldl (fun s j => s.surrender sec j true) t).bad = t.bad := by
    intro l
    induction l with
    | nil => exact fun _ => rfl
    | cons j r ih => exact fun t => (ih _).trans (t.surrender_bad sec j)
  exact hfold _ s

/-- A dual-home window's copy of a write changes memory alone (R376). -/
theorem State.mirror_dir (s : State) (loc : Nat) (bs : List Byte) : (s.mirror loc bs).dir = s.dir := by
  have hfold : ∀ (f : State → Nat × Window → State), (∀ t w, (f t w).dir = t.dir) → ∀ (l : SMap Window) (t : State),
      (l.foldl f t).dir = t.dir := by
    intro f hf l
    induction l with
    | nil => exact fun _ => rfl
    | cons w r ih => exact fun t => (ih _).trans (hf t w)
  refine hfold _ (fun t w => ?_) s.windows s
  dsimp only
  split <;> rfl

theorem reserved_of_lt {loc : Nat} (h : loc < 0xC000000000) : reserved loc = false := by
  have h1 : ¬ 0x1FE00000000 ≤ loc := by omega
  simp only [reserved, h1, decide_false, Bool.false_and]

theorem barOf_of_lt {loc : Nat} (h : loc < 0xC000000000) : barOf loc = none := by
  simp only [barOf, isDevice, h, decide_true, Bool.true_or, ↓reduceIte]

/-- A routine's stores leave the directory as it is. -/
theorem State.cellarRun_dir (s : State) (n : BitVec 7) {loc : Nat} (x y : Word) (h : isHbm loc = true) :
    (s.cellarRun n loc x y).1.dir = s.dir := by
  have hlt : loc / 64 * 64 < 0xC000000000 := by
    have := of_decide_eq_true h
    omega
  unfold State.cellarRun
  dsimp only
  split
  · rfl
  · split
    · rfl
    · dsimp only
      split
      · rfl
      · rw [State.memWrite, reserved_of_lt hlt, barOf_of_lt hlt]
        exact State.mirror_dir ..

/-- A record replaced is the one found under its number. -/
theorem Ctx.pendOf_setPend {c : Ctx} {p q : Pend} {id : Nat} (h : c.pendOf id = some p) (hq : q.id = id) :
    (c.setPend q).pendOf id = some q := by
  subst hq
  have hfind : ∀ l : List Pend, (l.find? fun x => x.id == q.id) = some p →
      ((l.map fun x => if x.id == q.id then q else x).find? fun x => x.id == q.id) = some q := by
    intro l
    induction l with
    | nil => exact fun h => nomatch h
    | cons x r ih =>
      intro h
      cases hx : x.id == q.id with
      | true => simp only [List.map_cons, List.find?_cons, hx, beq_self_eq_true, ↓reduceIte]
      | false =>
        simp only [List.find?_cons, hx] at h
        simpa only [List.map_cons, List.find?_cons, hx, Bool.false_eq_true, ↓reduceIte] using ih h
  exact hfind c.pend h

/-- The record of a shipped routine whose result is on the way. -/
def Pend.onTheWay (p : Pend) (now : Nat) (d : SReg) (v : Word) : Pend :=
  { p with act := .vals, wr := [.s d v], accs := [], due := some (now + 1) }

/-- A routine's result is on the way: it lands in the next cycle (R404). -/
theorem fsh_onTheWay {s s1 : State} {k id : Nat} {c : Ctx} {p : Pend} {d : SReg} {v : Word}
    (hx : s.fshRun k id = s1.updCtx k fun c => c.setPend (p.onTheWay s.now d v))
    (hk : s1.ctxAt k = some c) (hp : c.pendOf id = some p) (hid : p.id = id) :
    ∃ t c', exec (.fshAtCellar k id) s = .next t ∧ t.ctxAt k = some c' ∧ c'.regs = c.regs ∧ t.mem = s1.mem ∧ t.dir = s1.dir ∧
      (c'.pendOf id).map (fun q => (q.due, q.wr, q.act)) = some (some (s.now + 1), [.s d v], .vals) := by
  obtain ⟨hmem, -, -, -, -, hdir⟩ := (s1.updCtx_ctxOnly k fun c => c.setPend (p.onTheWay s.now d v)).fields
  refine ⟨_, c.setPend (p.onTheWay s.now d v), congrArg Host.Outcome.next hx, ?_, rfl, hmem, hdir, ?_⟩
  · rw [State.ctxAt_updCtx, if_pos rfl, hk]
    rfl
  · rw [Ctx.pendOf_setPend (q := p.onTheWay s.now d v) hp hid]
    rfl

/-- An empty slot makes no access (R248). -/
theorem fsh_empty {s : State} {k id : Nat} {c : Ctx} {p : Pend} {n : BitVec 7} {x y : Word} {d : SReg}
    (hk : s.ctxAt k = some c) (hp : c.pendOf id = some p) (hact : p.act = .fsh n x y d none)
    (hc : mgetD s.cellars n.toNat [] = []) :
    s.fshRun k id = (s.count 0x198 1).updCtx k fun c => c.setPend (p.onTheWay s.now d 0x8000000000000000) := by
  simp only [State.fshRun, hk, hp, hact, hc, State.cellarRun, ↓reduceIte]
  rfl

/-- A routine runs on the sector that its cellar has taken (R404). -/
theorem fsh_runs {s s1 : State} {k id : Nat} {c : Ctx} {p : Pend} {n : BitVec 7} {x y v : Word} {d : SReg} {a : Acc}
    (hk : s.ctxAt k = some c) (hp : c.pendOf id = some p) (hact : p.act = .fsh n x y d none) (hacc : p.accs = [a])
    (hc : mgetD s.cellars n.toNat [] ≠ []) (hh : isHbm a.loc = true) (hg : Passes s p.anew a) (hbad : s.bad = [])
    (hr : (s.takeSector (a.loc / 64)).cellarRun n a.loc x y = (s1, v)) :
    s.fshRun k id = s1.updCtx k fun c => c.setPend (p.onTheWay s.now d v) := by
  have hregen : s.regen c (k / 4) .write p.anew [a] = (s, .ok [a]) := State.regen_passes c (k / 4) .write (by simpa using hg)
  have hscrub := (s.takeSector (a.loc / 64)).scrub_clean ((s.takeSector_bad _).trans hbad) [k] (a.loc / 64 * 64) 64
  simp only [State.fshRun, hk, hp, hact, hc, hacc, hregen, cellarOk, hh, List.find?_cons, List.find?_nil, Bool.not_true,
    List.headD_cons, hscrub, hr, ↓reduceIte]
  rfl

/-- Settles O37: a store, a message and a shipped routine each from the equation of its step; a routine's words from `cellWord`. -/
theorem storesTakeEffect : Obligations.StoresTakeEffect := by
  intro k id s c
  refine ⟨fun p a m v h hkind hparts hg hu hf hr hb => ?_,
    fun p core off len entry incr accs h hkind haccs hg hbad hu hlen _ _ _ ha =>
      by simpa only [granulesCopied, Nat.zero_add] using message_arrives h hkind haccs hg hbad hu hlen ha,
    fun p n x y d a hk hp hid hact hacc => ⟨fun hc => ?_, fun s1 v hc hh hg hbad hr h1 => ?_⟩,
    fun n loc x y z0 ws old hws hold hz => ⟨hz ▸ cellEntry_reg .., fun hne hrun => ?_, fun z hne hrun => ?_⟩,
    fun w r z d a b i f n o v => ⟨rfl, rfl, fun q => z.reg_put d q v, fun hd => cellRun_go r hd rfl, cellRun_beq r,
      fun ho => ⟨fun hd => ho ▸ cellRun_ld r hd, fun hd => ho ▸ cellRun_sd r hd⟩⟩⟩
  · obtain ⟨t, hx, ht, hmem⟩ := plain_store h hkind hparts hg hu hf hr hb
    obtain ⟨hsc, hregs, hgrid, hpend, hstores⟩ := c.storeDone_fields p
    refine ⟨t, _, hx, ht, hsc, hregs, hgrid, hpend, hstores, fun x hx => ?_, ?_⟩
    · rw [hmem, Mem.writeLE]
      exact Mem.read_writeBytes_other _ _ (by rwa [length_leBytes])
    · rw [hmem, Mem.readLE_writeLE_same]
  · exact fsh_onTheWay (s1 := s.count 0x198 1) (fsh_empty hk hp hact hc) hk hp hid
  · obtain ⟨t, c', hx, ht, hregs, hmem, hdir, hpend⟩ := fsh_onTheWay (fsh_runs hk hp hact hacc hc hh hg hbad hr) h1 hp hid
    refine ⟨t, c', hx, ht, hregs, hmem, fun j hj => ?_, hpend⟩
    have h := (s.takeSector (a.loc / 64)).cellarRun_dir n x y hh
    rw [hr] at h
    rw [dirState, hdir, h]
    exact s.takeSector_dirOf (a.loc / 64) hj
  · subst hws hold hz
    simp only [State.cellarRun, hne, hrun, ↓reduceIte]
    rfl
  · subst hws hold hz
    simp only [State.cellarRun, hne, hrun, ↓reduceIte]

end Sys2Proof.Machine
end

section
/-! SUPPORT. What S sends with a word of V, M or C that it forwards (R19, R28, R77, R80, R258 to R261). -/

namespace Sys2Proof.Machine

open Sys2Proof.Safety

/-! ### Counters and queues, said once for every station -/

/-- An entry put at the end of a station's queue, said queue by queue (R77). -/
theorem Ctx.setQueue_append (c : Ctx) {st : Station} (h : st ≠ .s) (e : QEntry) : c.setQueue st (c.queue st ++ [e]) =
    { c with
      vq := if st = .v then c.vq ++ [e] else c.vq, mq := if st = .m then c.mq ++ [e] else c.mq,
      cq := if st = .c then c.cq ++ [e] else c.cq } := by
  cases st
  · exact absurd rfl h
  all_goals rfl

/-! ### Bound rows (R15) -/

theorem nthD_map_false {α : Type} {f : α → Bool} {l : List α} (h : ∀ x ∈ l, f x = false) (n : Nat) :
    nthD (l.map f) n false = false := by
  rw [nthD, List.getElem?_map]
  cases hx : l[n]? with
  | none => rfl
  | some x => exact h x (List.mem_of_getElem? hx)

/-- Without a binding no operand stands for a generator. -/
theorem genRow_unbound {c : Ctx} (h : Unbound c) (g : GOp) : genRow c.boundNow g = none := by
  have hb : ∀ n, nthD c.boundNow n false = false := nthD_map_false fun x hx => by
    obtain ⟨i, hi, rfl⟩ := List.getElem_of_mem hx
    simpa using h ⟨i, by simpa using hi⟩
  rw [genRow, hb, Bool.and_false]
  rfl

/-- The word makes no pop and no append. -/
def NoTransfer (f : Fwd) (c : Ctx) : Prop := f.popGens c = [] ∧ f.appGen c = none

theorem noTransfer_of_unbound (f : Fwd) {c : Ctx} (h : Unbound c) : NoTransfer f c := by
  have hg : genRow c.boundNow = fun _ => none := funext (genRow_unbound h)
  constructor
  · have hp : f.pops.filterMap (fun _ => (none : Option Nat)) = [] := List.filterMap_none _
    rw [Fwd.popGens, Fwd.popsOf, hg, hp]
    rfl
  · rw [Fwd.appGen, Fwd.appOf, hg]
    cases f.app <;> rfl

/-- A word without single grid operands makes none, whatever is bound. -/
theorem noTransfer_of_noOperands {f : Fwd} (hp : f.pops = []) (ha : f.app = none) (c : Ctx) : NoTransfer f c := by
  constructor
  · rw [Fwd.popGens, Fwd.popsOf, hp]
    rfl
  · rw [Fwd.appGen, Fwd.appOf, ha]
    rfl

/-! ### Forwarding -/

/-- What the model sends with the word is what the row says. -/
structure Forwards (i : Instr) (r : QRow) : Prop where
  st : (fwdOf i).st = r.st
  x : (fwdOf i).x = r.x
  y : (fwdOf i).y = r.y
  scal : (fwdOf i).scal = r.scal
  hold : (fwdOf i).hold = false
  ctr : ctrOf i = r.ctr
  dsts : (fwdOf i).dsts ++ (if mayFlag i then [.fpsr] else []) = r.dsts
  queued : r.st ≠ .s
  rows : r.rows = false → (fwdOf i).pops = [] ∧ (fwdOf i).app = none

/-- The context with the word in its queue, before it retires: what goes with it but for its capability. -/
def entered (s : State) (i : Instr) (r : QRow) : Ctx :=
  { queued s i { r with cap := fun _ => 0 } with
    pc := s.ctx.pc, retired := s.ctx.retired, nextId := s.ctx.nextId, heldAt := s.ctx.heldAt }

/-- S has room for the word. -/
theorem held_none {i : Instr} {r : QRow} {s : State} (hf : Forwards i r) (h : CanQueue r s) (hn : NoTransfer (fwdOf i) s.ctx) :
    (fwdOf i).held i false s.ctx = none := by
  obtain ⟨-, -, -, hroom, hctr⟩ := h
  obtain ⟨hpop, happ⟩ := hn
  have hcount : (fwdOf i).popCount s.ctx = 0 := by
    rw [Fwd.popCount, hpop]
    rfl
  have hqueue : ¬ queueCap r.st ≤ s.ctx.places r.st := by
    rw [queueCap_eq_places, Ctx.places_eq_taken]
    omega
  unfold Fwd.held
  simp only [hcount, happ, hf.st, hqueue, decide_false, ne_eq, not_true_eq_false, Bool.or_false, Bool.false_and,
    Bool.false_eq_true, Option.isSome_none, false_and, or_false, Nat.zero_add, ↓reduceIte]
  cases hk : ctrOf i with
  | none => simp
  | some k =>
    have h63 := hctr k (hf.ctr ▸ hk)
    have hc : ¬ 63 ≤ s.ctx.ctr k := not_le.mpr h63
    have hlc : ¬ (0 < (if some k = some Ctr.lc then 1 else 0) ∧
        63 < s.ctx.lc + (if some k = some Ctr.lc then 1 else 0)) := by
      split_ifs with h0
      · cases h0
        have : s.ctx.lc < 63 := h63
        omega
      · omega
    rw [if_neg hlc]
    simp only [hc, decide_false, Bool.false_eq_true, ↓reduceIte]

theorem enqueue_eq {i : Instr} {r : QRow} (hf : Forwards i r) (s : State) :
    s.enqueue i r.p (fwdOf i).st (fwdOf i).x (fwdOf i).y (fwdOf i).dsts [] none [] = s.withCtx (entered s i r) := by
  have hd : Ctx.recordOf s.ctx s.ctx.nextId i r.p r.st (s.ctx.reg r.x) (s.ctx.reg r.y) (fwdOf i).dsts =
      queuePend s i r := by
    rw [Ctx.recordOf, hf.dsts, hf.ctr]
    rfl
  simp only [State.enqueue, hf.st, hf.x, hf.y, hd, hf.ctr, Ctx.setQueue_append _ hf.queued]
  obtain ⟨p, st, x, y, scal, dsts, ctr, rows, cap, setup⟩ := r
  rcases ctr with _ | _ | _ | _ | _ <;> rfl

/-- S forwards a word with room for it, its sources at rest, that makes no transfer (R77). -/
theorem forward_eq {i : Instr} {r : QRow} {s : State} (hf : Forwards i r) (h : CanQueue r s) (hs : Settled r.scal s)
    (hn : NoTransfer (fwdOf i) s.ctx) : forward i r.p s = .done (s.withCtx (entered s i r)) (s.ctx.pc + 4) := by
  obtain ⟨hpop, happ⟩ := hn
  have hearly : s.earlyS (fwdOf i).scal = none := hf.scal ▸ hs
  simp only [forward, forwardChk, held_none hf h ⟨hpop, happ⟩, hearly, forwardGo, hpop, State.forPops, happ, State.forApp,
    hf.hold, enqueue_eq hf, Bool.false_eq_true, ↓reduceIte]
  rfl

/-- The word of a live context to whose station S owes nothing. -/
theorem fWord_eq {r : QRow} {s : State} (h : CanQueue r s) (body : State → Body) : fWord s body = (body s).finish s := by
  obtain ⟨hl, -, ho, -⟩ := h
  simp only [fWord, hl, ho, Bool.not_true, Bool.false_eq_true, ↓reduceIte]

end Sys2Proof.Machine
end

section
/-! SUPPORT. The words that S forwards without an address check (R15, R19, R21, R27, R28, R77, R80). -/

namespace Sys2Proof.Machine

open Sys2Proof.Safety

/-! ### What the model sends with each word -/

/-- The halves of a pair are the two operands that it names. -/
theorem halves_dsts (g : PairOp) : (halves g).flatMap dstG ++ [.fpsr] = both g ++ [.fpsr] := by
  simp only [halves, both, List.flatMap_cons, List.flatMap_nil, List.append_nil, gNext]

/-- The row of a CSET that names a setup register. -/
def csetRow (p : Dep) (a b : SReg) (n : BitVec 3) (hn : n.toNat < 7) : QRow :=
  { p := p, st := .c, scal := [a, b], setup := fun c d =>
      { d with cs := d.cs.set n.toNat ((c.reg b).extractLsb' 0 32 ++ (c.reg a).extractLsb' 0 32) hn } }

theorem queueRow_cset {p : Dep} {a b : SReg} {n : BitVec 3} {r : QRow} (h : queueRow (.cset p a b n) = some r) :
    ∃ hn : n.toNat < 7, r = csetRow p a b n hn := by
  by_cases hn : n.toNat < 7
  · have hq : queueRow (.cset p a b n) = some (csetRow p a b n hn) := dif_pos hn
    exact ⟨hn, Option.some.inj (h.symm.trans hq)⟩
  · have hq : queueRow (.cset p a b n) = none := dif_neg hn
    cases h.symm.trans hq

theorem forwards_of_queueRow {i : Instr} {r : QRow} (h : queueRow i = some r) : Forwards i r := by
  cases i
  case cset p a b n =>
    obtain ⟨-, rfl⟩ := queueRow_cset h
    exact ⟨rfl, rfl, rfl, rfl, rfl, rfl, rfl, nofun, fun _ => ⟨rfl, rfl⟩⟩
  all_goals cases h
  case vfadd | vfsub | vfmul | vfma | vfms | vfnma | vfdiv | vfmin | vfmax | vfsqrt | vredsum | vredmax | vredmin | dwrnd |
      vexp2 | vlog2 | vrsq | vrcp | vtanh | vsigm | vcmpeq | vcmplt | vcmple | vcvt | vpack =>
    exact ⟨rfl, rfl, rfl, rfl, rfl, rfl, rfl, nofun, nofun⟩
  case vadd | vsub | vmul | vmulh | vmin | vmax | vminu | vmaxu | vadds | vsubs | vand | vor | vxor | vsll | vsrl | vsra |
      vperm | vperm2 | vfabs | vfneg | vmov | mand | mor | mnot | mpopc | vshuf | vslide | vsplat | vext | vins =>
    exact ⟨rfl, rfl, rfl, rfl, rfl, rfl, List.append_nil _, nofun, nofun⟩
  case xadd g _ _ | xsub g _ _ | xmul g _ _ | xfma g _ _ | dwadd g _ _ | dwsub g _ _ | dwmul g _ _ | xred g _ | dwnorm g _ =>
    exact ⟨rfl, rfl, rfl, rfl, rfl, rfl, halves_dsts g, nofun, nofun⟩
  case vcfg | gsld | gsst | mset | mballoc | mbfree | mzero | mmac | mdrain | mfill | mstat | copy | cfill | rsend | rpermit |
      rstat =>
    exact ⟨rfl, rfl, rfl, rfl, rfl, rfl, List.append_nil _, nofun, fun _ => ⟨rfl, rfl⟩⟩
  case vwiden =>
    exact ⟨rfl, rfl, rfl, rfl, rfl, rfl, rfl, nofun, nofun⟩

/-- Such a word makes no transfer where its operands are not bound rows. -/
theorem noTransfer_of_forwards {i : Instr} {r : QRow} {c : Ctx} (hf : Forwards i r) (hu : r.rows = true → Unbound c) :
    NoTransfer (fwdOf i) c := by
  cases hr : r.rows with
  | true => exact noTransfer_of_unbound _ (hu hr)
  | false =>
    obtain ⟨hp, ha⟩ := hf.rows hr
    exact noTransfer_of_noOperands hp ha c

/-! ### What every such word does as S forwards it -/

/-- S can forward the word of the row now. -/
structure MayForward (i : Instr) (r : QRow) (s : State) : Prop where
  fits : Forwards i r
  room : CanQueue r s
  settled : Settled r.scal s
  noTransfer : NoTransfer (fwdOf i) s.ctx

theorem MayForward.sched {i : Instr} {r : QRow} {s : State} (h : MayForward i r s) : s.turn = .sched := h.room.2.1

theorem MayForward.forward {i : Instr} {r : QRow} {s : State} (h : MayForward i r s) :
    Machine.forward i r.p s = .done (s.withCtx (entered s i r)) (s.ctx.pc + 4) :=
  forward_eq h.fits h.room h.settled h.noTransfer

/-- The context as a word that S forwards retires: the next pc, one more word retired, no tokens popped. -/
def advanced (pc : Word) (c : Ctx) : Ctx := { c with pc := pc, retired := c.retired + 1, nextId := c.nextId + 1, heldAt := none }

theorem markS_retire (s : State) (c : Ctx) (pc : Word) : ((s.withCtx c).retire pc).markS = issued s (advanced pc c) := rfl

theorem queued_eq_advanced {s : State} {i : Instr} {r : QRow} (hcap : r.cap = fun _ => 0) :
    queued s i r = advanced (s.ctx.pc + 4) (entered s i r) := by
  obtain ⟨p, st, x, y, scal, dsts, ctr, rows, cap, setup⟩ := r
  subst hcap
  rfl

/-- A word without capability or setup register is queued. -/
theorem MayForward.queues {i : Instr} {r : QRow} {s : State} (h : MayForward i r s) (hcap : r.cap = fun _ => 0)
    (hset : r.setup = fun _ c => c) (hx : exec i s = fWord s (Machine.forward i r.p)) :
    exec i s = .next (issued s (r.setup s.ctx (queued s i r))) := by
  rw [hx, fWord_eq h.room, h.forward, finish_done, hset, queued_eq_advanced hcap, markS_retire]

/-- A grid word (R262). -/
theorem MayForward.gridWord {i : Instr} {r : QRow} {s : State} {spec : Ctx → VSpec} {lat : Nat} {f : Ctx → QEntry → VOut}
    (h : MayForward i r s) (hcap : r.cap = fun _ => 0) (hset : r.setup = fun _ c => c)
    (hx : exec i s = Machine.gridWord i r.p spec lat f s) : exec i s = .next (issued s (r.setup s.ctx (queued s i r))) := by
  refine h.queues hcap hset (hx.trans ?_)
  simp only [Machine.gridWord, h.sched]

/-- A grid word that takes a variable latency only as it starts (R267, R275). -/
theorem MayForward.delayedWord {i : Instr} {r : QRow} {s t : State} {spec : Ctx → VSpec} {lat : Nat} {f : Ctx → QEntry → VOut}
    (h : MayForward i r s) (hcap : r.cap = fun _ => 0) (hset : r.setup = fun _ c => c)
    (hx : exec i s = Machine.gridWord i r.p spec lat f (if s.turn = .start .v then t else s)) :
    exec i s = .next (issued s (r.setup s.ctx (queued s i r))) := by
  rw [h.sched, if_neg (by decide)] at hx
  exact h.gridWord hcap hset hx

/-- A matrix command goes with the capability that its register holds (R293). -/
theorem MayForward.matWord {i : Instr} {r : QRow} {s : State} {cap : BitVec 3} {eff : State → Nat → Issuer → QEntry → MatOut}
    (h : MayForward i r s) (hst : r.st = .m) (hcap : r.cap = fun c => c.capReg cap) (hset : r.setup = fun _ c => c)
    (hx : exec i s = Machine.matWord i r.p cap eff s) : exec i s = .next (issued s (r.setup s.ctx (queued s i r))) := by
  have hf := h.forward
  rw [hx, Machine.matWord, h.sched]
  dsimp only
  rw [fWord_eq h.room, hf, finish_done]
  obtain ⟨p, st, x, y, scal, dsts, ctr, rows, rcap, setup⟩ := r
  subst hst hcap hset
  simp only [entered, queued, State.withCtx, List.reverse_append, List.reverse_cons, List.reverse_nil, List.nil_append,
    List.cons_append, List.reverse_reverse, reduceCtorEq, ↓reduceIte]
  rfl

/-- MSET and CSET write their setup register as the word is queued (R294). -/
theorem MayForward.setupWord {i : Instr} {r : QRow} {s : State} {st : Station} {a b : SReg} {f : Ctx → Word → Ctx}
    (h : MayForward i r s)
    (hcap : r.cap = fun _ => 0)
    (hset : ∀ c : Ctx, r.setup s.ctx c = f c ((s.ctx.reg b).extractLsb' 0 32 ++ (s.ctx.reg a).extractLsb' 0 32))
    (hret : ∀ c v, advanced (s.ctx.pc + 4) (f c v) = f (advanced (s.ctx.pc + 4) c) v)
    (hx : exec i s = Machine.setupWord i r.p st a b f s) : exec i s = .next (issued s (r.setup s.ctx (queued s i r))) := by
  rw [hx, Machine.setupWord, h.sched]
  dsimp only
  rw [fWord_eq h.room, h.forward, hset, queued_eq_advanced hcap, ← hret]
  exact congrArg Host.Outcome.next (markS_retire s _ _)

/-! ### The words of no family, at S -/

section

variable {s : State} (ht : s.turn = .sched) (p : Dep) (a b : SReg)

include ht

theorem execGsld_sched (n : BitVec 4) (o : BitVec 14) : execGsld p n o s = fWord s (forward (.gsld p n o) p) := by
  simp only [execGsld, ht]

theorem execGsst_sched (n : BitVec 4) (o : BitVec 14) : execGsst p n o s = fWord s (forward (.gsst p n o) p) := by
  simp only [execGsst, ht]

theorem execMstat_sched : execMstat p a s = fWord s (forward (.mstat p a) p) := by
  simp only [execMstat, ht]

theorem copyWord_sched (i : Instr) (fill : Bool) : copyWord i p fill s = fWord s (forward i p) := by
  simp only [copyWord, ht]

theorem execRsend_sched : execRsend p a b s = fWord s (forward (.rsend p a b) p) := by
  simp only [execRsend, ht]

theorem execRpermit_sched : execRpermit p a b s = fWord s (forward (.rpermit p a b) p) := by
  simp only [execRpermit, ht]

theorem execRstat_sched : execRstat p a b s = fWord s (forward (.rstat p a b) p) := by
  simp only [execRstat, ht]

end

/-- Settles O9: each word's step is that of its family, and a family's word is queued as its row says. -/
theorem forwardingQueues : Obligations.ForwardingQueues := by
  intro i r s hrow hroom hsettled hunbound
  have h : MayForward i r s := ⟨forwards_of_queueRow hrow, hroom, hsettled,
    noTransfer_of_forwards (forwards_of_queueRow hrow) hunbound⟩
  cases i
  case cset p a b n =>
    obtain ⟨hn, rfl⟩ := queueRow_cset hrow
    refine h.setupWord (f := fun c v => if h : n.toNat < 7 then { c with cs := c.cs.set n.toNat v } else c) rfl
      (fun c => ?_) (fun c v => ?_) rfl
    · rw [dif_pos hn]
      rfl
    · rw [dif_pos hn, dif_pos hn]
      rfl
  all_goals cases hrow
  case vcfg | vfadd | vfsub | vfmul | vfma | vfms | vfnma | vfdiv | vfmin | vfmax | vfsqrt | vredsum | vredmax | vredmin |
      dwrnd | vcmpeq | vcmplt | vcmple | vcvt | vpack | vwiden =>
    exact h.gridWord rfl rfl rfl
  case vadd | vsub | vmul | vmulh | vmin | vmax | vminu | vmaxu | vadds | vsubs | vand | vor | vxor | vsll | vsrl | vsra |
      vperm | vperm2 | vfabs | vfneg | vmov | mand | mor | mnot | mpopc | vshuf | vslide | vsplat | vins =>
    exact h.gridWord rfl rfl rfl
  case xadd | xsub | xmul | xfma | dwadd | dwsub | dwmul | xred | dwnorm => exact h.gridWord rfl rfl rfl
  case vexp2 | vlog2 | vrsq | vrcp | vtanh | vsigm | vext => exact h.delayedWord (t := s.delay.2) rfl rfl rfl
  case gsld => exact h.queues rfl rfl (execGsld_sched h.sched ..)
  case gsst => exact h.queues rfl rfl (execGsst_sched h.sched ..)
  case mstat => exact h.queues rfl rfl (execMstat_sched h.sched ..)
  case copy | cfill => exact h.queues rfl rfl (copyWord_sched h.sched ..)
  case rsend => exact h.queues rfl rfl (execRsend_sched h.sched ..)
  case rpermit => exact h.queues rfl rfl (execRpermit_sched h.sched ..)
  case rstat => exact h.queues rfl rfl (execRstat_sched h.sched ..)
  case mballoc | mbfree | mzero | mmac | mdrain | mfill =>
    apply h.matWord rfl rfl rfl
    dsimp only [exec, execMballoc, execMbfree, execMzero, execMmac, execMdrain, execMfill]
    rfl
  case mset p a b n =>
    exact h.setupWord (f := fun c v => { c with ms := c.ms.set n.toNat v (by have := n.isLt; omega) })
      rfl (fun _ => rfl) (fun _ _ => rfl) rfl

end Sys2Proof.Machine
end

section
/-! SUPPORT. SSET, SBIND and SUNBIND as S forwards them (R15, R257 to R259). -/

namespace Sys2Proof.Machine

open Sys2Proof.Safety

theorem forwards_of_genWord {i : Instr} {r : GRow} (h : genWord i = some r) : Forwards i r.q := by
  cases i <;> cases h
  case sset | sbind | sunbind => exact ⟨rfl, rfl, rfl, rfl, rfl, rfl, rfl, nofun, fun _ => ⟨rfl, rfl⟩⟩

/-- A generator word has no capability and no grid operand. -/
theorem genWord_row {i : Instr} {r : GRow} (h : genWord i = some r) : r.q.cap = (fun _ => 0) ∧ r.q.rows = false := by
  cases i <;> cases h
  case sset | sbind | sunbind => exact ⟨rfl, rfl⟩

/-! ### The step of a generator word at S -/

section

variable {i : Instr} {r : GRow} {s : State} {chk : State → Option Nat} {f : Ctx → Gen → Gen}

/-- A generator word whose checks fail traps, whatever its sources (R31, R257). -/
theorem streamWord_traps {z : Nat} (hf : Forwards i r.q) (h : CanQueue r.q s) (hn : NoTransfer (fwdOf i) s.ctx)
    (hchk : chk s = some z) : streamWord i r.q.p r.n chk f s = .next (trapped s (wordTrap z i)) := by
  have ht : s.turn = .sched := h.2.1
  rw [streamWord, ht]
  dsimp only
  rw [fWord_eq h, held_none hf h hn, hchk]
  exact finish_trap _ s

/-- The context in which a generator word has been queued, before it retires: its entry keeps what the generator held. -/
def genEntered (s : State) (i : Instr) (r : GRow) (g : Gen) : Ctx :=
  let c := entered s i r.q
  (({ c with vq := c.vq.map fun e => if e.id == c.nextId then { e with gold := some (c.gen r.n.toNat) } else e } :
    Ctx).setGen r.n.toNat g).reIpos

theorem genQueued_eq_advanced (hcap : r.q.cap = fun _ => 0) :
    genQueued s i r = advanced (s.ctx.pc + 4) (genEntered s i r (r.new s.ctx (s.ctx.gen r.n.toNat))) := by
  have hn : r.n.toNat < 4 := r.n.isLt
  simp only [genQueued, genEntered, queued_eq_advanced hcap, Ctx.setGen, hn, ↓reduceDIte, beq_iff_eq]
  rfl

/-- A generator word whose checks pass is queued, its generator set (R257, R258). -/
theorem streamWord_queues (h : MayForward i r.q s) (hcap : r.q.cap = fun _ => 0) (hchk : chk s = none)
    (hnew : ∀ c, f c (s.ctx.gen r.n.toNat) = r.new s.ctx (s.ctx.gen r.n.toNat)) :
    streamWord i r.q.p r.n chk f s = .next (issued s (genQueued s i r)) := by
  rw [streamWord, h.sched]
  dsimp only
  rw [fWord_eq h.room, held_none h.fits h.room h.noTransfer, hchk, h.forward, genQueued_eq_advanced hcap, ← markS_retire,
    ← hnew (entered s i r.q)]
  rfl

end

/-! ### The checks and the new values -/

/-- SSET's checks are those of its row (R257). -/
theorem sset_check (c : Ctx) (p : Dep) (n : BitVec 2) (a b : SReg) (r : GRow) (h : genWord (.sset p n a b) = some r) :
    (if c.rows = 0 then some 3
      else if 12 ≤ wfld (c.reg a) 58 4 ∨ wfld (c.reg a) 62 2 ≠ 0 ∨ wfld (c.reg a) 0 4 ≠ 0 ∨ wfld (c.reg b) 0 4 ≠ 0 ∨
        (c.gen n.toNat).bound then some 4 else none) = r.bad c := by
  cases h
  have hx := (c.reg a).isLt
  have h62 : wfld (c.reg a) 62 2 ≠ 0 ↔ 2 ^ 62 ≤ (c.reg a).toNat := by
    simp only [wfld, bitsOf]
    omega
  simp only [h62]
  simp only [wfld, bitsOf, Nat.pow_zero, Nat.div_one, Nat.reducePow]

/-- The fields of SSET's new generator (R15, R257). -/
theorem sset_fields (x y : Word) :
    BitVec.ofNat 57 x.toNat = x.setWidth 57 ∧ BitVec.ofNat 32 y.toNat = y.setWidth 32 ∧
      BitVec.ofNat 32 (wfld y 32 32) = y.extractLsb' 32 32 ∧ BitVec.ofNat 4 (wfld x 58 4) = x.extractLsb' 58 4 := by
  refine ⟨?_, ?_, ?_, ?_⟩ <;> apply BitVec.eq_of_toNat_eq <;>
    simp [wfld, bitsOf, Nat.shiftRight_eq_div_pow]

theorem sbind_check (c : Ctx) (p : Dep) (n : BitVec 2) (r : GRow) (h : genWord (.sbind p n) = some r) :
    (if c.rows ≤ 12 + n.toNat then some 3 else if (c.gen n.toNat).bound then some 4 else none) = r.bad c := by
  cases h
  have hr : c.rows ≤ 12 + n.toNat ↔ c.rows < 13 + n.toNat := by omega
  simp only [hr]

/-- The step of each generator word, with the checks and the new value of its row. -/
theorem exec_genWord {i : Instr} {r : GRow} (s : State) (h : genWord i = some r) :
    ∃ chk f, exec i s = streamWord i r.q.p r.n chk f s ∧ chk s = r.bad s.ctx ∧
      ∀ c, f c (s.ctx.gen r.n.toNat) = r.new s.ctx (s.ctx.gen r.n.toNat) := by
  cases i
  case sset p n a b =>
    have hc := sset_check s.ctx p n a b r h
    obtain ⟨h1, h2, h3, h4⟩ := sset_fields (s.ctx.reg a) (s.ctx.reg b)
    cases h
    dsimp only [exec, execSset]
    refine ⟨_, _, rfl, hc, fun c => ?_⟩
    rw [h1, h2, h3, h4]
    rfl
  case sbind p n =>
    have hc := sbind_check s.ctx p n r h
    cases h
    dsimp only [exec, execSbind]
    exact ⟨_, _, rfl, hc, fun _ => rfl⟩
  case sunbind p n =>
    cases h
    dsimp only [exec, execSunbind]
    exact ⟨_, _, rfl, rfl, fun _ => rfl⟩
  all_goals cases h

/-- Settles O16: a generator word's checks and new value are those of its row. -/
theorem generatorWordsForward : Obligations.GeneratorWordsForward := by
  intro i r s hrow hroom
  have hf := forwards_of_genWord hrow
  obtain ⟨hcap, hrows⟩ := genWord_row hrow
  obtain ⟨chk, f, hx, hchk, hnew⟩ := exec_genWord s hrow
  have hn : NoTransfer (fwdOf i) s.ctx := noTransfer_of_forwards hf fun h => absurd (hrows.symm.trans h) nofun
  rw [hx]
  exact ⟨fun z hz => streamWord_traps hf hroom hn (hchk.trans hz),
    fun hz hs => streamWord_queues ⟨hf, hroom, hs, hn⟩ hcap (hchk.trans hz) hnew⟩

end Sys2Proof.Machine
end

section
/-! SUPPORT. Decoding and encoding are inverse (R26, R35 to R61, R333): the words of each format put together again from their
fields, what each major's decoder answers on the words of its format, and which instruction each of its answers encodes. -/

namespace Sys2Proof

set_option Elab.async false -- one theorem at a time, so that few threads wait on the kernel

open Safety

/-! ### Fields put together again -/

theorem fld_append (w : IWord) (lo a b : Nat) : fld w (lo + b) a ++ fld w lo b = fld w lo (a + b) := by
  apply BitVec.eq_of_getLsbD_eq
  intro i hi
  simp only [fld, BitVec.getLsbD_append, BitVec.getLsbD_extractLsb']
  grind

/-- A field within the low `k` bits. -/
theorem fld_low (w : IWord) {lo n k : Nat} (h : lo + n ≤ k) : fld w lo n = (fld w 0 k).extractLsb' lo n := by
  apply BitVec.eq_of_getLsbD_eq
  intro i hi
  simp only [fld, BitVec.getLsbD_extractLsb']
  grind

theorem fld_all (w : IWord) : fld w 0 32 = w := extract_all w

theorem encR_fields (w : IWord) :
    encR (fld w 28 4) (fld w 22 6) (fld w 17 5) (fld w 12 5) (fld w 7 5) (fld w 0 7) = w := by
  rw [encR, fld_append w 22 4 6, fld_append w 17 10 5, fld_append w 12 15 5, fld_append w 7 20 5, fld_append w 0 25 7]
  exact fld_all w

theorem encI_fields (w : IWord) : encI (fld w 28 4) (fld w 22 6) (fld w 17 5) (fld w 12 5) (fld w 0 12) = w := by
  rw [encI, fld_append w 22 4 6, fld_append w 17 10 5, fld_append w 12 15 5, fld_append w 0 20 12]
  exact fld_all w

theorem encU_fields (w : IWord) : encU (fld w 28 4) (fld w 22 6) (fld w 17 5) (fld w 0 17) = w := by
  rw [encU, fld_append w 22 4 6, fld_append w 17 10 5, fld_append w 0 15 17]
  exact fld_all w

theorem encM_fields (w : IWord) :
    encM (fld w 28 4) (fld w 22 6) (fld w 17 5) (fld w 12 5) (fld w 9 3) (fld w 0 9) = w := by
  rw [encM, fld_append w 22 4 6, fld_append w 17 10 5, fld_append w 12 15 5, fld_append w 9 20 3, fld_append w 0 23 9]
  exact fld_all w

theorem encG_fields (w : IWord) :
    encG (fld w 28 4) (fld w 22 6) (fld w 16 6) (fld w 10 6) (fld w 4 6) (fld w 0 4) = w := by
  rw [encG, fld_append w 22 4 6, fld_append w 16 10 6, fld_append w 10 16 6, fld_append w 4 22 6, fld_append w 0 28 4]
  exact fld_all w

theorem encGM_fields (w : IWord) :
    encGM (fld w 28 4) (fld w 22 6) (fld w 16 6) (fld w 11 5) (fld w 9 2) (fld w 0 9) = w := by
  rw [encGM, fld_append w 22 4 6, fld_append w 16 10 6, fld_append w 11 16 5, fld_append w 9 21 2, fld_append w 0 23 9]
  exact fld_all w

theorem encGS_fields (w : IWord) :
    encGS (fld w 28 4) (fld w 22 6) (fld w 16 6) (fld w 11 5) (fld w 6 5) (fld w 0 6) = w := by
  rw [encGS, fld_append w 22 4 6, fld_append w 16 10 6, fld_append w 11 16 5, fld_append w 6 21 5, fld_append w 0 26 6]
  exact fld_all w

theorem encE_fields (w : IWord) (h : fld w 0 3 = 0#3) :
    encE (fld w 28 4) (fld w 22 6) (fld w 17 5) (fld w 12 5) (fld w 9 3) (fld w 3 6) = w := by
  rw [encE, ← h, fld_append w 22 4 6, fld_append w 17 10 5, fld_append w 12 15 5, fld_append w 9 20 3, fld_append w 3 23 6,
    fld_append w 0 29 3]
  exact fld_all w

theorem encP_fields (w : IWord) : encP (fld w 28 4) (fld w 22 6) (fld w 16 6) (fld w 14 2) (fld w 0 14) = w := by
  rw [encP, fld_append w 22 4 6, fld_append w 16 10 6, fld_append w 14 16 2, fld_append w 0 18 14]
  exact fld_all w

theorem encH_fields (w : IWord) (h7 : fld w 0 7 = 0b0001011#7) (h25 : fld w 25 7 = 0#7) :
    encH (fld w 12 3) (fld w 7 5) (fld w 15 5) (fld w 20 5) = w := by
  rw [encH, ← h7, ← h25, fld_append w 20 7 5, fld_append w 15 12 5, fld_append w 12 17 3, fld_append w 7 20 5,
    fld_append w 0 25 7]
  exact fld_all w


/-! ### A field cut in two -/

theorem exists_append {a b : Nat} (x : BitVec (a + b)) : ∃ (h : BitVec a) (l : BitVec b), x = h ++ l := by
  refine ⟨x.extractLsb' b a, x.extractLsb' 0 b, BitVec.eq_of_getLsbD_eq fun i hi => ?_⟩
  simp only [BitVec.getLsbD_append, BitVec.getLsbD_extractLsb']
  grind

@[simp] theorem extract_append_low {a b : Nat} (x : BitVec a) (y : BitVec b) : (x ++ y).extractLsb' 0 b = y :=
  (extract_low x y 0 b (Nat.zero_add b).le).trans (extract_all y)

@[simp] theorem extract_append_high {a b : Nat} (x : BitVec a) (y : BitVec b) : (x ++ y).extractLsb' b a = x := by
  rw [extract_high x y b a le_rfl, Nat.sub_self, extract_all]

theorem eq_ofNat {n k : Nat} {x : BitVec n} (h : x.toNat = k) : x = BitVec.ofNat n k := by
  rw [← h, BitVec.ofNat_toNat, BitVec.setWidth_eq]

/-! ### Codes -/

theorem scopeOf_eq_some {c : BitVec 3} {s : Scope} : scopeOf c = some s ↔ c = scopeCode s := by
  cases s <;> revert c <;> decide

theorem pathOf_eq_some {c : BitVec 4} {x : Path} : pathOf c = some x ↔ c = pathCode x := by
  cases x <;> revert c <;> decide

theorem shufOf_eq_some {c : BitVec 6} {x : Shuf} : shufOf c = some x ↔ c = shufCode x := by
  cases x <;> revert c <;> decide

@[simp] theorem evenOp_pairField (x : PairOp) : evenOp (pairField x) = some x := by
  rw [evenOp, pairField, extract_append_low, extract_append_high]
  rfl

theorem evenOp_eq_some {g : GOp} {x : PairOp} : evenOp g = some x ↔ g = pairField x := by
  refine ⟨fun h => ?_, fun h => h ▸ evenOp_pairField x⟩
  obtain ⟨y, l, rfl⟩ := exists_append (a := 5) (b := 1) g
  rw [evenOp, extract_append_low, extract_append_high] at h
  obtain ⟨rfl, ⟨⟩⟩ := Option.ite_none_right_eq_some.mp h
  rfl

theorem maskOf_eq_some {g : GOp} {m : MReg} : maskOf g = some m ↔ g = maskField m := by
  revert g m; decide

@[simp] theorem scopeOf_scopeCode (s : Scope) : scopeOf (scopeCode s) = some s := scopeOf_eq_some.mpr rfl
@[simp] theorem pathOf_pathCode (x : Path) : pathOf (pathCode x) = some x := pathOf_eq_some.mpr rfl
@[simp] theorem shufOf_shufCode (x : Shuf) : shufOf (shufCode x) = some x := shufOf_eq_some.mpr rfl
@[simp] theorem maskOf_maskField (m : MReg) : maskOf (maskField m) = some m := maskOf_eq_some.mpr rfl
@[simp] theorem bit1_ofBit (b : Bool) : bit1 (ofBit b) = b := by cases b <;> rfl
@[simp] theorem ofBit_bit1 (b : BitVec 1) : ofBit (bit1 b) = b := by revert b; decide

/-! ### What a decoder's answer encodes -/

/-- The instruction `i` is a word of the cores, and `w` is its one encoding. -/
def DeviceWord (i : Instr) (w : IWord) : Prop := i.wf = true ∧ hostelWord i = false ∧ encode i = some w

section

variable {p : Dep} {d a b : SReg} {n : Nat} {j : Instr}

theorem decAlu_word (h : decAlu p d a b n = some j) : DeviceWord j (encR p 0x02 d a b (BitVec.ofNat 7 n)) := by
  unfold decAlu at h
  split at h
  case h_22 | h_23 | h_24 =>
    obtain ⟨rfl, ⟨⟩⟩ := Option.ite_none_right_eq_some.mp h
    exact ⟨rfl, rfl, rfl⟩
  all_goals cases h
  all_goals exact ⟨rfl, rfl, rfl⟩

theorem decFps_word (h : decFps p d a b n = some j) : DeviceWord j (encR p 0x0B d a b (BitVec.ofNat 7 n)) := by
  unfold decFps at h
  split at h
  case h_5 | h_10 | h_11 =>
    obtain ⟨rfl, ⟨⟩⟩ := Option.ite_none_right_eq_some.mp h
    exact ⟨rfl, rfl, rfl⟩
  all_goals cases h
  all_goals exact ⟨rfl, rfl, rfl⟩

theorem decMsg_word (h : decMsg p d a b n = some j) : DeviceWord j (encR p 0x30 d a b (BitVec.ofNat 7 n)) := by
  unfold decMsg at h
  split at h
  case h_3 =>
    obtain ⟨rfl, ⟨⟩⟩ := Option.ite_none_right_eq_some.mp h
    exact ⟨rfl, rfl, rfl⟩
  all_goals cases h
  all_goals exact ⟨rfl, rfl, rfl⟩

theorem decTask_word (h : decTask p d a b n = some j) : DeviceWord j (encR p 0x31 d a b (BitVec.ofNat 7 n)) := by
  unfold decTask at h
  split at h
  case h_1 =>
    obtain ⟨⟨rfl, rfl⟩, ⟨⟩⟩ := Option.ite_none_right_eq_some.mp h
    exact ⟨rfl, rfl, rfl⟩
  case h_2 =>
    obtain ⟨rfl, ⟨⟩⟩ := Option.ite_none_right_eq_some.mp h
    exact ⟨rfl, rfl, rfl⟩
  case h_3 | h_4 =>
    obtain ⟨⟨rfl, rfl, rfl⟩, ⟨⟩⟩ := Option.ite_none_right_eq_some.mp h
    exact ⟨rfl, rfl, rfl⟩
  case h_5 => cases h

theorem decGrp_word (h : decGrp p d a b n = some j) : DeviceWord j (encR p 0x32 d a b (BitVec.ofNat 7 n)) := by
  unfold decGrp at h
  split at h
  case h_1 | h_4 | h_5 =>
    obtain ⟨rfl, ⟨⟩⟩ := Option.ite_none_right_eq_some.mp h
    exact ⟨rfl, rfl, rfl⟩
  case h_2 | h_3 | h_6 =>
    obtain ⟨⟨rfl, rfl⟩, ⟨⟩⟩ := Option.ite_none_right_eq_some.mp h
    exact ⟨rfl, rfl, rfl⟩
  case h_7 => cases h

theorem decSrv_word (h : decSrv p d a b n = some j) : DeviceWord j (encR p 0x34 d a b (BitVec.ofNat 7 n)) := by
  unfold decSrv at h
  split at h
  case h_1 =>
    cases h
    exact ⟨rfl, rfl, rfl⟩
  case h_2 =>
    obtain ⟨⟨rfl, rfl⟩, ⟨⟩⟩ := Option.ite_none_right_eq_some.mp h
    exact ⟨rfl, rfl, rfl⟩
  case h_3 | h_4 | h_5 =>
    obtain ⟨rfl, ⟨⟩⟩ := Option.ite_none_right_eq_some.mp h
    exact ⟨rfl, rfl, rfl⟩
  case h_6 => cases h

theorem decSyncm_word {fn : BitVec 7} (h : decSyncm p d a b fn = some j) : DeviceWord j (encR p 0x16 d a b fn) := by
  obtain ⟨x, z, rfl⟩ := exists_append (a := 5) (b := 2) fn
  obtain ⟨op, c, rfl⟩ := exists_append (a := 2) (b := 3) x
  simp (disch := decide) only [decSyncm, extract_low, extract_high, Nat.reduceSub, extract_all] at h
  split at h
  case h_1 hop hc =>
    obtain ⟨rfl, ⟨⟩⟩ := Option.ite_none_right_eq_some.mp h
    rw [eq_ofNat hop, scopeOf_eq_some.mp hc]
    exact ⟨rfl, rfl, rfl⟩
  case h_2 hop hc =>
    obtain ⟨rfl, ⟨⟩⟩ := Option.ite_none_right_eq_some.mp h
    rw [eq_ofNat hop, scopeOf_eq_some.mp hc]
    exact ⟨rfl, rfl, rfl⟩
  case h_3 => cases h

theorem decAmo_word {fn : BitVec 7} (h : decAmo p d a b fn = some j) : DeviceWord j (encR p 0x18 d a b fn) := by
  obtain ⟨x, c, rfl⟩ := exists_append (a := 4) (b := 3) fn
  obtain ⟨op, ar, rfl⟩ := exists_append (a := 3) (b := 1) x
  simp (disch := decide) only [decAmo, extract_low, extract_high, Nat.reduceSub, extract_all] at h
  split at h
  case h_1 => cases h
  case h_2 sc hc =>
    obtain ⟨v, rfl⟩ : ∃ v, ar = ofBit v := ⟨bit1 ar, (ofBit_bit1 ar).symm⟩
    have hop : op.toNat < 8 := op.isLt
    rw [scopeOf_eq_some.mp hc]
    rw [bit1_ofBit] at h
    generalize hn : op.toNat = n at h hop
    rw [eq_ofNat hn]
    split at h
    case h_8 h0 h1 h2 h3 h4 h5 h6 =>
      obtain rfl : n = 7 := by grind
      cases h
      exact ⟨rfl, rfl, rfl⟩
    all_goals cases h
    all_goals exact ⟨rfl, rfl, rfl⟩

end

section

variable {p : Dep} {d a : SReg} {f : BitVec 12} {j : Instr}

theorem decShi_word (h : decShi p d a f = some j) : DeviceWord j (encI p 0x07 d a f) := by
  obtain ⟨x, s, rfl⟩ := exists_append (a := 6) (b := 6) f
  obtain ⟨k, z, rfl⟩ := exists_append (a := 2) (b := 4) x
  simp (disch := decide) only [decShi, extract_low, extract_high, Nat.reduceSub, extract_all] at h
  rw [Option.ite_none_right_eq_some] at h
  obtain ⟨rfl, h⟩ := h
  generalize hn : k.toNat = n at h
  rw [eq_ofNat hn]
  split at h
  all_goals cases h
  all_goals exact ⟨rfl, rfl, rfl⟩

theorem decVcfg_word (h : decVcfg p d a f = some j) : DeviceWord j (encI p 0x1D d a f) := by
  obtain ⟨z, i, rfl⟩ := exists_append (a := 2) (b := 10) f
  simp (disch := decide) only [decVcfg, extract_low, extract_high, Nat.reduceSub, extract_all] at h
  obtain ⟨⟨rfl, rfl, rfl⟩, ⟨⟩⟩ := Option.ite_none_right_eq_some.mp h
  exact ⟨rfl, rfl, rfl⟩

theorem decFence_word (h : decFence p d a f = some j) : DeviceWord j (encI p 0x1A d a f) := by
  rw [decFence, Option.ite_none_right_eq_some] at h
  obtain ⟨⟨rfl, rfl⟩, h⟩ := h
  split at h
  case h_1 hk =>
    obtain ⟨x, c, rfl⟩ := exists_append (a := 9) (b := 3) f
    obtain ⟨k, z, rfl⟩ := exists_append (a := 4) (b := 5) x
    simp (disch := decide) only [extract_low, extract_high, Nat.reduceSub, extract_all] at h hk
    obtain ⟨rfl, h⟩ := Option.ite_none_right_eq_some.mp h
    obtain ⟨sc, hc, rfl⟩ := Option.map_eq_some_iff.mp h
    rw [eq_ofNat hk, scopeOf_eq_some.mp hc]
    exact ⟨rfl, rfl, rfl⟩
  case h_2 hk =>
    obtain ⟨x, c, rfl⟩ := exists_append (a := 8) (b := 4) f
    obtain ⟨k, z, rfl⟩ := exists_append (a := 4) (b := 4) x
    simp (disch := decide) only [extract_low, extract_high, Nat.reduceSub, extract_all] at h hk
    split at h
    · cases h
      rename_i hx hy
      rw [eq_ofNat hk, pathOf_eq_some.mp hx, pathOf_eq_some.mp hy]
      exact ⟨rfl, rfl, rfl⟩
    · cases h
  case h_3 => cases h

theorem decWaits_word (h : decWaits p d a f = some j) : DeviceWord j (encI p 0x1B d a f) := by
  rw [decWaits] at h
  split at h
  case h_1 hk =>
    obtain ⟨x, l, rfl⟩ := exists_append (a := 9) (b := 3) f
    obtain ⟨k, z, rfl⟩ := exists_append (a := 4) (b := 5) x
    simp (disch := decide) only [extract_low, extract_high, Nat.reduceSub, extract_all] at h hk
    obtain ⟨⟨rfl, rfl, rfl⟩, ⟨⟩⟩ := Option.ite_none_right_eq_some.mp h
    rw [eq_ofNat hk]
    exact ⟨rfl, rfl, rfl⟩
  case h_2 hk =>
    obtain ⟨x, l, rfl⟩ := exists_append (a := 9) (b := 3) f
    obtain ⟨y, s, rfl⟩ := exists_append (a := 6) (b := 3) x
    obtain ⟨k, z, rfl⟩ := exists_append (a := 4) (b := 2) y
    obtain ⟨zd, t, rfl⟩ := exists_append (a := 2) (b := 3) d
    obtain ⟨za, c, rfl⟩ := exists_append (a := 2) (b := 3) a
    simp (disch := decide) only [extract_low, extract_high, Nat.reduceSub, extract_all] at h hk
    obtain ⟨⟨rfl, rfl, rfl⟩, ⟨⟩⟩ := Option.ite_none_right_eq_some.mp h
    rw [eq_ofNat hk]
    exact ⟨rfl, rfl, rfl⟩
  case h_3 => cases h

theorem decId_word (h : decId p d a f = some j) : DeviceWord j (encI p 0x33 d a f) := by
  rw [decId] at h
  split at h
  case h_1 hk =>
    obtain ⟨x, c, rfl⟩ := exists_append (a := 9) (b := 3) f
    obtain ⟨k, z, rfl⟩ := exists_append (a := 4) (b := 5) x
    simp (disch := decide) only [extract_low, extract_high, Nat.reduceSub, extract_all] at h hk
    obtain ⟨⟨rfl, rfl⟩, ⟨⟩⟩ := Option.ite_none_right_eq_some.mp h
    rw [eq_ofNat hk]
    exact ⟨rfl, rfl, rfl⟩
  case h_2 hk | h_3 hk =>
    obtain ⟨k, c, rfl⟩ := exists_append (a := 4) (b := 8) f
    simp (disch := decide) only [extract_low, extract_high, Nat.reduceSub, extract_all] at h hk
    obtain ⟨rfl, ⟨⟩⟩ := Option.ite_none_right_eq_some.mp h
    rw [eq_ofNat hk]
    exact ⟨rfl, rfl, rfl⟩
  case h_4 => cases h

theorem decPriv_word (h : decPriv p d a f = some j) : DeviceWord j (encI p 0x35 d a f) := by
  rw [decPriv, Option.ite_none_right_eq_some] at h
  obtain ⟨rfl, h⟩ := h
  split at h
  case h_1 hk =>
    obtain ⟨x, c, rfl⟩ := exists_append (a := 9) (b := 3) f
    obtain ⟨k, z, rfl⟩ := exists_append (a := 4) (b := 5) x
    simp (disch := decide) only [extract_low, extract_high, Nat.reduceSub, extract_all] at h hk
    obtain ⟨rfl, ⟨⟩⟩ := Option.ite_none_right_eq_some.mp h
    rw [eq_ofNat hk]
    exact ⟨rfl, rfl, rfl⟩
  case h_2 hk =>
    obtain ⟨x, c, rfl⟩ := exists_append (a := 9) (b := 3) f
    obtain ⟨k, z, rfl⟩ := exists_append (a := 4) (b := 5) x
    simp (disch := decide) only [extract_low, extract_high, Nat.reduceSub, extract_all] at h hk
    obtain ⟨⟨rfl, rfl⟩, ⟨⟩⟩ := Option.ite_none_right_eq_some.mp h
    rw [eq_ofNat hk]
    exact ⟨rfl, rfl, rfl⟩
  case h_3 hk | h_4 hk | h_5 hk =>
    obtain ⟨k, c, rfl⟩ := exists_append (a := 4) (b := 8) f
    simp (disch := decide) only [extract_low, extract_high, Nat.reduceSub, extract_all] at h hk
    obtain ⟨rfl, ⟨⟩⟩ := Option.ite_none_right_eq_some.mp h
    rw [eq_ofNat hk]
    exact ⟨rfl, rfl, rfl⟩
  case h_6 hk =>
    obtain ⟨x, c, rfl⟩ := exists_append (a := 9) (b := 3) f
    obtain ⟨k, z, rfl⟩ := exists_append (a := 4) (b := 5) x
    simp (disch := decide) only [extract_low, extract_high, Nat.reduceSub, extract_all] at h hk
    obtain ⟨⟨rfl, rfl⟩, h⟩ := Option.ite_none_right_eq_some.mp h
    obtain ⟨sc, hc, rfl⟩ := Option.map_eq_some_iff.mp h
    rw [eq_ofNat hk, scopeOf_eq_some.mp hc]
    exact ⟨rfl, rfl, rfl⟩
  case h_7 hk =>
    obtain ⟨k, c, rfl⟩ := exists_append (a := 4) (b := 8) f
    simp (disch := decide) only [extract_low, extract_high, Nat.reduceSub, extract_all] at h hk
    obtain ⟨⟨rfl, rfl⟩, ⟨⟩⟩ := Option.ite_none_right_eq_some.mp h
    rw [eq_ofNat hk]
    exact ⟨rfl, rfl, rfl⟩
  case h_8 => cases h

theorem decCache_word (h : decCache p d a f = some j) : DeviceWord j (encI p 0x36 d a f) := by
  unfold decCache at h
  generalize hn : d.toNat = n at h
  rw [eq_ofNat hn]
  split at h
  all_goals cases h
  all_goals exact ⟨rfl, rfl, rfl⟩

theorem decTraps_word (h : decTraps p d a f = some j) : DeviceWord j (encI p 0x37 d a f) := by
  obtain ⟨k, c, rfl⟩ := exists_append (a := 4) (b := 8) f
  simp (disch := decide) only [decTraps, extract_low, extract_high, Nat.reduceSub, extract_all] at h
  rw [Option.ite_none_right_eq_some] at h
  obtain ⟨⟨rfl, rfl⟩, h⟩ := h
  generalize hn : k.toNat = n at h
  rw [eq_ofNat hn]
  split at h
  case h_1 =>
    cases h
    exact ⟨rfl, rfl, rfl⟩
  case h_2 | h_3 =>
    obtain ⟨rfl, ⟨⟩⟩ := Option.ite_none_right_eq_some.mp h
    exact ⟨rfl, rfl, rfl⟩
  case h_4 => cases h

end

section

variable {p : Dep} {d a : SReg} {i : BitVec 9} {n : Nat} {j : Instr}

theorem decLoad_word (h : decLoad p d a i n = some j) : DeviceWord j (encM p 0x14 d a (BitVec.ofNat 3 n) i) := by
  unfold decLoad at h
  split at h
  all_goals cases h
  all_goals exact ⟨rfl, rfl, rfl⟩

theorem decStore_word (h : decStore p d a i n = some j) : DeviceWord j (encM p 0x15 d a (BitVec.ofNat 3 n) i) := by
  unfold decStore at h
  split at h
  all_goals cases h
  all_goals exact ⟨rfl, rfl, rfl⟩

theorem decFe_word (h : decFe p d a i n = some j) : DeviceWord j (encM p 0x17 d a (BitVec.ofNat 3 n) i) := by
  unfold decFe at h
  split at h
  all_goals cases h
  all_goals exact ⟨rfl, rfl, rfl⟩

end

section

variable {p : Dep} {g : GOp} {a b : SReg} {q : BitVec 2} {i : BitVec 9} {n : Nat} {j : Instr}

theorem decVld_word (h : decVld p g a q i = some j) : DeviceWord j (encGM p 0x1E g a q i) := by
  unfold decVld at h
  have hq : q.toNat < 4 := q.isLt
  generalize hn : q.toNat = n at h hq
  rw [eq_ofNat hn]
  split at h
  case h_4 h0 h1 h2 =>
    obtain rfl : n = 3 := by grind
    cases h
    exact ⟨rfl, rfl, rfl⟩
  all_goals cases h
  all_goals exact ⟨rfl, rfl, rfl⟩

theorem decVst_word (h : decVst p g a q i = some j) : DeviceWord j (encGM p 0x1F g a q i) := by
  unfold decVst at h
  generalize hn : q.toNat = n at h
  rw [eq_ofNat hn]
  split at h
  all_goals cases h
  all_goals exact ⟨rfl, rfl, rfl⟩

theorem decStream_word (h : decStream p g a b n = some j) : DeviceWord j (encGS p 0x1C g a b (BitVec.ofNat 6 n)) := by
  obtain ⟨z, m, rfl⟩ := exists_append (a := 4) (b := 2) g
  simp (disch := decide) only [decStream, extract_low, extract_high, Nat.reduceSub, extract_all] at h
  rw [Option.ite_none_right_eq_some] at h
  obtain ⟨rfl, h⟩ := h
  split at h
  case h_1 =>
    cases h
    exact ⟨rfl, rfl, rfl⟩
  case h_2 | h_3 =>
    obtain ⟨⟨rfl, rfl⟩, ⟨⟩⟩ := Option.ite_none_right_eq_some.mp h
    exact ⟨rfl, rfl, rfl⟩
  case h_4 => cases h

theorem decVmemx_word (h : decVmemx p g a b n = some j) : DeviceWord j (encGS p 0x20 g a b (BitVec.ofNat 6 n)) := by
  unfold decVmemx at h
  split at h
  case h_5 =>
    obtain ⟨rfl, ⟨⟩⟩ := Option.ite_none_right_eq_some.mp h
    exact ⟨rfl, rfl, rfl⟩
  all_goals cases h
  all_goals exact ⟨rfl, rfl, rfl⟩

theorem decVsc_word (h : decVsc p g a b n = some j) : DeviceWord j (encGS p 0x27 g a b (BitVec.ofNat 6 n)) := by
  unfold decVsc at h
  split at h
  case h_1 =>
    obtain ⟨rfl, ⟨⟩⟩ := Option.ite_none_right_eq_some.mp h
    exact ⟨rfl, rfl, rfl⟩
  all_goals cases h
  all_goals exact ⟨rfl, rfl, rfl⟩

theorem decSlc_word (h : decSlc p g a b n = some j) : DeviceWord j (encGS p 0x2C g a b (BitVec.ofNat 6 n)) := by
  unfold decSlc at h
  split at h
  case h_1 | h_2 =>
    obtain ⟨x, hx, rfl⟩ := Option.map_eq_some_iff.mp h
    rw [evenOp_eq_some.mp hx]
    exact ⟨rfl, rfl, rfl⟩
  case h_3 => cases h

end

section

variable {p : Dep} {g a b : GOp} {n : Nat} {j : Instr}

theorem decVfa_word (h : decVfa p g a b n = some j) : DeviceWord j (encG p 0x21 g a b (BitVec.ofNat 4 n)) := by
  unfold decVfa at h
  split at h
  case h_8 | h_11 | h_12 =>
    obtain ⟨rfl, ⟨⟩⟩ := Option.ite_none_right_eq_some.mp h
    exact ⟨rfl, rfl, rfl⟩
  all_goals cases h
  all_goals exact ⟨rfl, rfl, rfl⟩

theorem decVsf_word (h : decVsf p g a b n = some j) : DeviceWord j (encG p 0x22 g a b (BitVec.ofNat 4 n)) := by
  unfold decVsf at h
  split at h
  case h_7 => cases h
  all_goals
    obtain ⟨rfl, ⟨⟩⟩ := Option.ite_none_right_eq_some.mp h
    exact ⟨rfl, rfl, rfl⟩

theorem decVia_word (h : decVia p g a b n = some j) : DeviceWord j (encG p 0x23 g a b (BitVec.ofNat 4 n)) := by
  unfold decVia at h
  split at h
  all_goals cases h
  all_goals exact ⟨rfl, rfl, rfl⟩

theorem decVlg_word (h : decVlg p g a b n = some j) : DeviceWord j (encG p 0x24 g a b (BitVec.ofNat 4 n)) := by
  unfold decVlg at h
  split at h
  all_goals cases h
  all_goals exact ⟨rfl, rfl, rfl⟩

theorem decVcm_word (h : decVcm p g a b n = some j) : DeviceWord j (encG p 0x25 g a b (BitVec.ofNat 4 n)) := by
  unfold decVcm at h
  split at h
  case h_1 | h_2 | h_3 =>
    obtain ⟨m, hm, rfl⟩ := Option.map_eq_some_iff.mp h
    rw [maskOf_eq_some.mp hm]
    exact ⟨rfl, rfl, rfl⟩
  case h_4 | h_5 =>
    split at h
    case h_1 hd hx hy =>
      cases h
      rw [maskOf_eq_some.mp hd, maskOf_eq_some.mp hx, maskOf_eq_some.mp hy]
      exact ⟨rfl, rfl, rfl⟩
    case h_2 => cases h
  case h_6 =>
    split at h
    case h_1 hd hx =>
      obtain ⟨rfl, ⟨⟩⟩ := Option.ite_none_right_eq_some.mp h
      rw [maskOf_eq_some.mp hd, maskOf_eq_some.mp hx]
      exact ⟨rfl, rfl, rfl⟩
    case h_2 => cases h
  case h_7 =>
    split at h
    case h_1 hx =>
      obtain ⟨z, d, rfl⟩ := exists_append (a := 1) (b := 5) g
      simp (disch := decide) only [extract_low, extract_high, Nat.reduceSub, extract_all] at h
      obtain ⟨⟨rfl, rfl⟩, ⟨⟩⟩ := Option.ite_none_right_eq_some.mp h
      rw [maskOf_eq_some.mp hx]
      exact ⟨rfl, rfl, rfl⟩
    case h_2 => cases h
  case h_8 => cases h

theorem decVpm_word (h : decVpm p g a b n = some j) : DeviceWord j (encG p 0x26 g a b (BitVec.ofNat 4 n)) := by
  unfold decVpm at h
  split at h
  case h_2 =>
    obtain ⟨x, hx, rfl⟩ := Option.map_eq_some_iff.mp h
    rw [evenOp_eq_some.mp hx]
    exact ⟨rfl, rfl, rfl⟩
  case h_3 =>
    obtain ⟨c, hc, rfl⟩ := Option.map_eq_some_iff.mp h
    rw [shufOf_eq_some.mp hc]
    exact ⟨rfl, rfl, rfl⟩
  case h_5 =>
    obtain ⟨rfl, ⟨⟩⟩ := Option.ite_none_right_eq_some.mp h
    exact ⟨rfl, rfl, rfl⟩
  all_goals cases h
  all_goals exact ⟨rfl, rfl, rfl⟩

theorem decVcv_word (h : decVcv p g a b n = some j) : DeviceWord j (encG p 0x28 g a b (BitVec.ofNat 4 n)) := by
  obtain ⟨z, t, rfl⟩ := exists_append (a := 2) (b := 4) b
  simp (disch := decide) only [decVcv, extract_low, extract_high, Nat.reduceSub, extract_all] at h
  rw [Option.ite_none_right_eq_some] at h
  obtain ⟨rfl, h⟩ := h
  split at h
  all_goals cases h
  all_goals exact ⟨rfl, rfl, rfl⟩

theorem decVrd_word (h : decVrd p g a b n = some j) : DeviceWord j (encG p 0x29 g a b (BitVec.ofNat 4 n)) := by
  unfold decVrd at h
  split at h
  case h_4 => cases h
  all_goals
    obtain ⟨rfl, ⟨⟩⟩ := Option.ite_none_right_eq_some.mp h
    exact ⟨rfl, rfl, rfl⟩

theorem decXp_word (h : decXp p g a b n = some j) : DeviceWord j (encG p 0x2A g a b (BitVec.ofNat 4 n)) := by
  unfold decXp at h
  split at h
  case h_1 | h_2 | h_3 | h_4 =>
    obtain ⟨x, hx, rfl⟩ := Option.map_eq_some_iff.mp h
    rw [evenOp_eq_some.mp hx]
    exact ⟨rfl, rfl, rfl⟩
  case h_5 =>
    split at h
    case h_1 hd hx =>
      obtain ⟨rfl, ⟨⟩⟩ := Option.ite_none_right_eq_some.mp h
      rw [evenOp_eq_some.mp hd, evenOp_eq_some.mp hx]
      exact ⟨rfl, rfl, rfl⟩
    case h_2 => cases h
  case h_6 => cases h

theorem even3_eq_some {mk : PairOp → PairOp → PairOp → Instr} (h : even3 g a b mk = some j) :
    ∃ x y z, g = pairField x ∧ a = pairField y ∧ b = pairField z ∧ j = mk x y z := by
  unfold even3 at h
  split at h
  case h_1 hx hy hz =>
    cases h
    exact ⟨_, _, _, evenOp_eq_some.mp hx, evenOp_eq_some.mp hy, evenOp_eq_some.mp hz, rfl⟩
  case h_2 => cases h

theorem decDw_word (h : decDw p g a b n = some j) : DeviceWord j (encG p 0x2B g a b (BitVec.ofNat 4 n)) := by
  unfold decDw at h
  split at h
  case h_1 | h_2 | h_3 =>
    obtain ⟨x, y, z, rfl, rfl, rfl, rfl⟩ := even3_eq_some h
    exact ⟨rfl, rfl, rfl⟩
  case h_4 =>
    split at h
    case h_1 hd hx =>
      obtain ⟨rfl, ⟨⟩⟩ := Option.ite_none_right_eq_some.mp h
      rw [evenOp_eq_some.mp hd, evenOp_eq_some.mp hx]
      exact ⟨rfl, rfl, rfl⟩
    case h_2 => cases h
  case h_5 =>
    split at h
    case h_1 hx =>
      obtain ⟨rfl, ⟨⟩⟩ := Option.ite_none_right_eq_some.mp h
      rw [evenOp_eq_some.mp hx]
      exact ⟨rfl, rfl, rfl⟩
    case h_2 => cases h
  case h_6 => cases h

end

section

variable {p : Dep} {a b : SReg} {c : BitVec 3} {kind : BitVec 6} {j : Instr}

theorem decMat_word (h : decMat p a b c kind = some j) : DeviceWord j (encE p 0x2D a b c kind) := by
  unfold decMat at h
  split at h
  case isTrue hk =>
    obtain ⟨z, r, rfl⟩ := exists_append (a := 2) (b := 4) kind
    simp (disch := decide) only [extract_low, extract_high, Nat.reduceSub, extract_all] at h hk
    subst hk
    obtain ⟨rfl, ⟨⟩⟩ := Option.ite_none_right_eq_some.mp h
    exact ⟨rfl, rfl, rfl⟩
  case isFalse =>
    generalize hn : kind.toNat = n at h
    rw [eq_ofNat hn]
    split at h
    case h_7 =>
      obtain ⟨⟨rfl, rfl⟩, ⟨⟩⟩ := Option.ite_none_right_eq_some.mp h
      exact ⟨rfl, rfl, rfl⟩
    all_goals cases h
    all_goals exact ⟨rfl, rfl, rfl⟩

/-- CPY kind 0x07 is no setup register, so the answer is well-formed (R18). -/
theorem decCpy_word (h : decCpy p a b c kind = some j) : DeviceWord j (encE p 0x2E a b c kind) := by
  rw [decCpy, Option.ite_none_right_eq_some] at h
  obtain ⟨rfl, h⟩ := h
  split at h
  case isTrue hk =>
    obtain ⟨z, r, rfl⟩ := exists_append (a := 3) (b := 3) kind
    simp (disch := decide) only [extract_low, extract_high, Nat.reduceSub, extract_all] at h hk
    subst hk
    obtain ⟨h7, ⟨⟩⟩ := Option.ite_none_left_eq_some.mp h
    exact ⟨bne_iff_ne.mpr h7, rfl, rfl⟩
  case isFalse =>
    generalize hn : kind.toNat = n at h
    rw [eq_ofNat hn]
    split at h
    all_goals cases h
    all_goals exact ⟨rfl, rfl, rfl⟩

theorem decRly_word {n : Nat} (h : decRly p a b c n = some j) : DeviceWord j (encE p 0x2F a b c (BitVec.ofNat 6 n)) := by
  unfold decRly at h
  rw [Option.ite_none_right_eq_some] at h
  obtain ⟨rfl, h⟩ := h
  split at h
  all_goals cases h
  all_goals exact ⟨rfl, rfl, rfl⟩

end

theorem decSpill_word {p : Dep} {dst : BitVec 6} {n : Nat} {o : BitVec 14} {j : Instr} (h : decSpill p dst n o = some j) :
    DeviceWord j (encP p 0x38 dst (BitVec.ofNat 2 n) o) := by
  unfold decSpill at h
  split at h
  case h_1 | h_2 =>
    obtain ⟨z, d, rfl⟩ := exists_append (a := 1) (b := 5) dst
    simp (disch := decide) only [extract_low, extract_high, Nat.reduceSub, extract_all] at h
    obtain ⟨rfl, ⟨⟩⟩ := Option.ite_none_right_eq_some.mp h
    exact ⟨rfl, rfl, rfl⟩
  case h_3 | h_4 =>
    obtain ⟨z, d, rfl⟩ := exists_append (a := 2) (b := 4) dst
    simp (disch := decide) only [extract_low, extract_high, Nat.reduceSub, extract_all] at h
    obtain ⟨rfl, ⟨⟩⟩ := Option.ite_none_right_eq_some.mp h
    exact ⟨rfl, rfl, rfl⟩
  case h_5 => cases h

/-! ### What a word decodes to -/

section

variable {w : IWord} {m : BitVec 6} {j : Instr} (hm : fld w 22 6 = m)

include hm

theorem DeviceWord.ofR {fn : BitVec 7}
    (h : DeviceWord j (encR (fld w 28 4) m (fld w 17 5) (fld w 12 5) (fld w 7 5) fn)) (hf : fn = fld w 0 7 := by simp) :
    DeviceWord j w := by
  rwa [← hm, hf, encR_fields] at h

theorem DeviceWord.ofI (h : DeviceWord j (encI (fld w 28 4) m (fld w 17 5) (fld w 12 5) (fld w 0 12))) :
    DeviceWord j w := by
  rwa [← hm, encI_fields] at h

theorem DeviceWord.ofU (h : DeviceWord j (encU (fld w 28 4) m (fld w 17 5) (fld w 0 17))) : DeviceWord j w := by
  rwa [← hm, encU_fields] at h

theorem DeviceWord.ofM {sz : BitVec 3}
    (h : DeviceWord j (encM (fld w 28 4) m (fld w 17 5) (fld w 12 5) sz (fld w 0 9))) (hf : sz = fld w 9 3 := by simp) :
    DeviceWord j w := by
  rwa [← hm, hf, encM_fields] at h

theorem DeviceWord.ofG {fn : BitVec 4}
    (h : DeviceWord j (encG (fld w 28 4) m (fld w 16 6) (fld w 10 6) (fld w 4 6) fn)) (hf : fn = fld w 0 4 := by simp) :
    DeviceWord j w := by
  rwa [← hm, hf, encG_fields] at h

theorem DeviceWord.ofGM
    (h : DeviceWord j (encGM (fld w 28 4) m (fld w 16 6) (fld w 11 5) (fld w 9 2) (fld w 0 9))) : DeviceWord j w := by
  rwa [← hm, encGM_fields] at h

theorem DeviceWord.ofGS {fn : BitVec 6}
    (h : DeviceWord j (encGS (fld w 28 4) m (fld w 16 6) (fld w 11 5) (fld w 6 5) fn)) (hf : fn = fld w 0 6 := by simp) :
    DeviceWord j w := by
  rwa [← hm, hf, encGS_fields] at h

theorem DeviceWord.ofE {kind : BitVec 6} (hz : fld w 0 3 = 0#3)
    (h : DeviceWord j (encE (fld w 28 4) m (fld w 17 5) (fld w 12 5) (fld w 9 3) kind)) (hf : kind = fld w 3 6 := by simp) :
    DeviceWord j w := by
  rwa [← hm, hf, encE_fields w hz] at h

theorem DeviceWord.ofP {op : BitVec 2} (h : DeviceWord j (encP (fld w 28 4) m (fld w 16 6) op (fld w 0 14)))
    (hf : op = fld w 14 2 := by simp) : DeviceWord j w := by
  rwa [← hm, hf, encP_fields] at h

end

/-- The one encoding of what a word decodes to is the word itself. -/
theorem decode_word {w : IWord} {j : Instr} (h : decode w = some j) : DeviceWord j w := by
  unfold decode at h
  dsimp only at h
  generalize hn : (fld w 22 6).toNat = n at h
  replace hn := eq_ofNat hn
  split at h
  case h_1 =>
    obtain ⟨h0, ⟨⟩⟩ := Option.ite_none_right_eq_some.mp h
    refine .ofU hn ?_
    rw [fld_low w (lo := 17) (n := 5) (k := 22) (by decide), fld_low w (lo := 0) (n := 17) (k := 22) (by decide), h0]
    exact ⟨rfl, rfl, rfl⟩
  case h_9 | h_10 | h_18 =>
    cases h
    exact .ofU hn ⟨rfl, rfl, rfl⟩
  case h_25 =>
    cases h
    exact .ofR hn ⟨rfl, rfl, rfl⟩
  case h_3 | h_4 | h_5 | h_6 | h_8 | h_12 | h_13 | h_14 | h_15 | h_16 | h_17 | h_19 =>
    cases h
    exact .ofI hn ⟨rfl, rfl, rfl⟩
  case h_2 => exact .ofR hn (decAlu_word h)
  case h_7 => exact .ofI hn (decShi_word h)
  case h_11 => exact .ofR hn (decFps_word h)
  case h_20 => exact .ofM hn (decLoad_word h)
  case h_21 => exact .ofM hn (decStore_word h)
  case h_22 => exact .ofR hn (decSyncm_word h)
  case h_23 => exact .ofM hn (decFe_word h)
  case h_24 => exact .ofR hn (decAmo_word h)
  case h_26 => exact .ofI hn (decFence_word h)
  case h_27 => exact .ofI hn (decWaits_word h)
  case h_28 => exact .ofGS hn (decStream_word h)
  case h_29 => exact .ofI hn (decVcfg_word h)
  case h_30 => exact .ofGM hn (decVld_word h)
  case h_31 => exact .ofGM hn (decVst_word h)
  case h_32 => exact .ofGS hn (decVmemx_word h)
  case h_33 => exact .ofG hn (decVfa_word h)
  case h_34 => exact .ofG hn (decVsf_word h)
  case h_35 => exact .ofG hn (decVia_word h)
  case h_36 => exact .ofG hn (decVlg_word h)
  case h_37 => exact .ofG hn (decVcm_word h)
  case h_38 => exact .ofG hn (decVpm_word h)
  case h_39 => exact .ofGS hn (decVsc_word h)
  case h_40 => exact .ofG hn (decVcv_word h)
  case h_41 => exact .ofG hn (decVrd_word h)
  case h_42 => exact .ofG hn (decXp_word h)
  case h_43 => exact .ofG hn (decDw_word h)
  case h_44 => exact .ofGS hn (decSlc_word h)
  case h_45 =>
    obtain ⟨hz, h⟩ := Option.ite_none_right_eq_some.mp h
    exact .ofE hn hz (decMat_word h)
  case h_46 =>
    obtain ⟨hz, h⟩ := Option.ite_none_right_eq_some.mp h
    exact .ofE hn hz (decCpy_word h)
  case h_47 =>
    obtain ⟨hz, h⟩ := Option.ite_none_right_eq_some.mp h
    exact .ofE hn hz (decRly_word h)
  case h_48 => exact .ofR hn (decMsg_word h)
  case h_49 => exact .ofR hn (decTask_word h)
  case h_50 => exact .ofR hn (decGrp_word h)
  case h_51 => exact .ofI hn (decId_word h)
  case h_52 => exact .ofR hn (decSrv_word h)
  case h_53 => exact .ofI hn (decPriv_word h)
  case h_54 => exact .ofI hn (decCache_word h)
  case h_55 => exact .ofI hn (decTraps_word h)
  case h_56 => exact .ofP hn (decSpill_word h)
  case h_57 => cases h

/-! ### The Hostel's words (R333) -/

theorem decodeHostel_word {w : IWord} {j : Instr} (h : decodeHostel w = some j) :
    hostelWord j = true ∧ encode j = some w := by
  unfold decodeHostel at h
  rw [Option.ite_none_right_eq_some] at h
  obtain ⟨⟨h7, h25⟩, h⟩ := h
  rw [← encH_fields w h7 h25]
  generalize hn : (fld w 12 3).toNat = n at h
  rw [eq_ofNat hn]
  split at h
  case h_4 => cases h
  all_goals
    obtain ⟨h0, ⟨⟩⟩ := Option.ite_none_right_eq_some.mp h
    rw [h0]
    exact ⟨rfl, rfl⟩

/-! ### The major's decoder (R38) -/

theorem decode_alu (p : Dep) (d a b : SReg) (fn : BitVec 7) :
    decode (encR p 0x02 d a b fn) = decAlu p d a b fn.toNat := by
  simp [decode]

theorem decode_fps (p : Dep) (d a b : SReg) (fn : BitVec 7) :
    decode (encR p 0x0B d a b fn) = decFps p d a b fn.toNat := by
  simp [decode]

theorem decode_msg (p : Dep) (d a b : SReg) (fn : BitVec 7) :
    decode (encR p 0x30 d a b fn) = decMsg p d a b fn.toNat := by
  simp [decode]

theorem decode_task (p : Dep) (d a b : SReg) (fn : BitVec 7) :
    decode (encR p 0x31 d a b fn) = decTask p d a b fn.toNat := by
  simp [decode]

theorem decode_grp (p : Dep) (d a b : SReg) (fn : BitVec 7) :
    decode (encR p 0x32 d a b fn) = decGrp p d a b fn.toNat := by
  simp [decode]

theorem decode_srv (p : Dep) (d a b : SReg) (fn : BitVec 7) :
    decode (encR p 0x34 d a b fn) = decSrv p d a b fn.toNat := by
  simp [decode]

theorem decode_syncm (p : Dep) (d a b : SReg) (fn : BitVec 7) :
    decode (encR p 0x16 d a b fn) = decSyncm p d a b fn := by
  simp [decode]

theorem decode_amo (p : Dep) (d a b : SReg) (fn : BitVec 7) :
    decode (encR p 0x18 d a b fn) = decAmo p d a b fn := by
  simp [decode]

theorem decode_shi (p : Dep) (d a : SReg) (i : BitVec 12) : decode (encI p 0x07 d a i) = decShi p d a i := by
  simp [decode]

theorem decode_fence (p : Dep) (d a : SReg) (i : BitVec 12) : decode (encI p 0x1A d a i) = decFence p d a i := by
  simp [decode]

theorem decode_waits (p : Dep) (d a : SReg) (i : BitVec 12) : decode (encI p 0x1B d a i) = decWaits p d a i := by
  simp [decode]

theorem decode_vcfg (p : Dep) (d a : SReg) (i : BitVec 12) : decode (encI p 0x1D d a i) = decVcfg p d a i := by
  simp [decode]

theorem decode_id (p : Dep) (d a : SReg) (i : BitVec 12) : decode (encI p 0x33 d a i) = decId p d a i := by
  simp [decode]

theorem decode_priv (p : Dep) (d a : SReg) (i : BitVec 12) : decode (encI p 0x35 d a i) = decPriv p d a i := by
  simp [decode]

theorem decode_cache (p : Dep) (d a : SReg) (i : BitVec 12) : decode (encI p 0x36 d a i) = decCache p d a i := by
  simp [decode]

theorem decode_traps (p : Dep) (d a : SReg) (i : BitVec 12) : decode (encI p 0x37 d a i) = decTraps p d a i := by
  simp [decode]

theorem decode_load (p : Dep) (d a : SReg) (sz : BitVec 3) (i : BitVec 9) :
    decode (encM p 0x14 d a sz i) = decLoad p d a i sz.toNat := by
  simp [decode]

theorem decode_store (p : Dep) (d a : SReg) (sz : BitVec 3) (i : BitVec 9) :
    decode (encM p 0x15 d a sz i) = decStore p d a i sz.toNat := by
  simp [decode]

theorem decode_fe (p : Dep) (d a : SReg) (sz : BitVec 3) (i : BitVec 9) :
    decode (encM p 0x17 d a sz i) = decFe p d a i sz.toNat := by
  simp [decode]

theorem decode_vfa (p : Dep) (g a b : GOp) (fn : BitVec 4) :
    decode (encG p 0x21 g a b fn) = decVfa p g a b fn.toNat := by
  simp [decode]

theorem decode_vsf (p : Dep) (g a b : GOp) (fn : BitVec 4) :
    decode (encG p 0x22 g a b fn) = decVsf p g a b fn.toNat := by
  simp [decode]

theorem decode_via (p : Dep) (g a b : GOp) (fn : BitVec 4) :
    decode (encG p 0x23 g a b fn) = decVia p g a b fn.toNat := by
  simp [decode]

theorem decode_vlg (p : Dep) (g a b : GOp) (fn : BitVec 4) :
    decode (encG p 0x24 g a b fn) = decVlg p g a b fn.toNat := by
  simp [decode]

theorem decode_vcm (p : Dep) (g a b : GOp) (fn : BitVec 4) :
    decode (encG p 0x25 g a b fn) = decVcm p g a b fn.toNat := by
  simp [decode]

theorem decode_vpm (p : Dep) (g a b : GOp) (fn : BitVec 4) :
    decode (encG p 0x26 g a b fn) = decVpm p g a b fn.toNat := by
  simp [decode]

theorem decode_vcv (p : Dep) (g a b : GOp) (fn : BitVec 4) :
    decode (encG p 0x28 g a b fn) = decVcv p g a b fn.toNat := by
  simp [decode]

theorem decode_vrd (p : Dep) (g a b : GOp) (fn : BitVec 4) :
    decode (encG p 0x29 g a b fn) = decVrd p g a b fn.toNat := by
  simp [decode]

theorem decode_xp (p : Dep) (g a b : GOp) (fn : BitVec 4) :
    decode (encG p 0x2A g a b fn) = decXp p g a b fn.toNat := by
  simp [decode]

theorem decode_dw (p : Dep) (g a b : GOp) (fn : BitVec 4) :
    decode (encG p 0x2B g a b fn) = decDw p g a b fn.toNat := by
  simp [decode]

theorem decode_vld (p : Dep) (g : GOp) (a : SReg) (q : BitVec 2) (i : BitVec 9) :
    decode (encGM p 0x1E g a q i) = decVld p g a q i := by
  simp [decode]

theorem decode_vst (p : Dep) (g : GOp) (a : SReg) (q : BitVec 2) (i : BitVec 9) :
    decode (encGM p 0x1F g a q i) = decVst p g a q i := by
  simp [decode]

theorem decode_stream (p : Dep) (g : GOp) (a b : SReg) (fn : BitVec 6) :
    decode (encGS p 0x1C g a b fn) = decStream p g a b fn.toNat := by
  simp [decode]

theorem decode_vmemx (p : Dep) (g : GOp) (a b : SReg) (fn : BitVec 6) :
    decode (encGS p 0x20 g a b fn) = decVmemx p g a b fn.toNat := by
  simp [decode]

theorem decode_vsc (p : Dep) (g : GOp) (a b : SReg) (fn : BitVec 6) :
    decode (encGS p 0x27 g a b fn) = decVsc p g a b fn.toNat := by
  simp [decode]

theorem decode_slc (p : Dep) (g : GOp) (a b : SReg) (fn : BitVec 6) :
    decode (encGS p 0x2C g a b fn) = decSlc p g a b fn.toNat := by
  simp [decode]

theorem decode_mat (p : Dep) (a b : SReg) (c : BitVec 3) (kind : BitVec 6) :
    decode (encE p 0x2D a b c kind) = decMat p a b c kind := by
  simp [decode]

theorem decode_cpy (p : Dep) (a b : SReg) (c : BitVec 3) (kind : BitVec 6) :
    decode (encE p 0x2E a b c kind) = decCpy p a b c kind := by
  simp [decode]

theorem decode_rly (p : Dep) (a b : SReg) (c : BitVec 3) (kind : BitVec 6) :
    decode (encE p 0x2F a b c kind) = decRly p a b c kind.toNat := by
  simp [decode]

theorem decode_spill (p : Dep) (dst : BitVec 6) (op : BitVec 2) (o : BitVec 14) :
    decode (encP p 0x38 dst op o) = decSpill p dst op.toNat o := by
  simp [decode]

theorem decode_nop (p : Dep) : decode (encU p 0x01 0 0) = some (.nop p) := by
  have h : fld (encU p 0x01 0 0) 0 22 = 0#22 := by
    rw [← fld_append _ 0 5 17, encU_d, encU_i]
    rfl
  simp only [decode, encU_m, encU_p, h]
  rfl

/-- The word of a device instruction decodes to it. -/
theorem decode_encode {i : Instr} {w : IWord} (hwf : i.wf = true) (hd : hostelWord i = false) (h : encode i = some w) :
    decode w = some i := by
  cases i
  all_goals cases h
  case add | sub | mul | mulh | mulhu | div | divu | rem | remu | and | or | xor | sll | srl | sra | slt | sltu | min | max |
      minu | maxu | clz | ctz | popc =>
    rw [decode_alu]
    rfl
  case slli | srli | srai =>
    rw [decode_shi]
    simp (disch := decide) only [decShi, extract_low, extract_high, Nat.reduceSub, extract_all]
    rfl
  case fadd | fsub | fmul | fdiv | fsqrt | fmin | fmax | fcmpeq | fcmplt | fcvti | fcvtf =>
    rw [decode_fps]
    rfl
  case lb | lbu | lh | lhu | lw | lwu | ld =>
    rw [decode_load]
    rfl
  case sb | sh | sw | sd =>
    rw [decode_store]
    rfl
  case lda | stl =>
    rw [decode_syncm]
    simp (disch := decide) only [decSyncm, extract_low, extract_high, Nat.reduceSub, extract_all,
      scopeOf_scopeCode]
    rfl
  case lfe | lfec | sfe | feclr | fepoll =>
    rw [decode_fe]
    rfl
  case amoadd | amoand | amoor | amoxor | amomin | amomax | amoswap | amocas =>
    rw [decode_amo]
    simp (disch := decide) only [decAmo, extract_low, extract_high, Nat.reduceSub, extract_all,
      scopeOf_scopeCode, bit1_ofBit] <;> rfl
  case fence | xfence =>
    rw [decode_fence]
    simp (disch := decide) only [decFence, extract_low, extract_high, Nat.reduceSub, extract_all,
      scopeOf_scopeCode, pathOf_pathCode]
    rfl
  case mkfence | waitc =>
    rw [decode_waits]
    simp (disch := decide) only [decWaits, extract_low, extract_high, Nat.reduceSub, extract_all]
    rfl
  case sset | sbind | sunbind =>
    rw [decode_stream]
    simp (disch := decide) only [decStream, extract_low, extract_high, Nat.reduceSub, extract_all]
    rfl
  case vcfg =>
    rw [decode_vcfg]
    simp (disch := decide) only [decVcfg, extract_low, extract_high, Nat.reduceSub, extract_all]
    rfl
  case vld p g a n i | vst p g a n i =>
    cases n <;> simp only [decode_vld, decode_vst] <;> rfl
  case vldFeKeep | vldFeClear =>
    rw [decode_vld]
    rfl
  case vlds | vsts | vldx | vstx | vbcast =>
    rw [decode_vmemx]
    rfl
  case vfadd | vfsub | vfmul | vfma | vfms | vfnma | vfdiv | vfsqrt | vfmin | vfmax | vfabs | vfneg =>
    rw [decode_vfa]
    rfl
  case vexp2 | vlog2 | vrsq | vrcp | vtanh | vsigm =>
    rw [decode_vsf]
    rfl
  case vadd | vsub | vmul | vmulh | vmin | vmax | vminu | vmaxu | vadds | vsubs =>
    rw [decode_via]
    rfl
  case vand | vor | vxor | vsll | vsrl | vsra =>
    rw [decode_vlg]
    rfl
  case mpopc =>
    rw [decode_vcm]
    simp (disch := decide) only [decVcm, extract_low, extract_high, Nat.reduceSub, extract_all, maskOf_maskField]
    rfl
  case vcmpeq | vcmplt | vcmple | mand | mor | mnot =>
    rw [decode_vcm]
    simp [decVcm, maskOf_maskField]
  case vperm | vperm2 | vshuf | vslide | vmov =>
    rw [decode_vpm]
    simp [decVpm, evenOp_pairField, shufOf_shufCode]
  case vsplat | vext | vins =>
    rw [decode_vsc]
    rfl
  case vcvt | vpack | vwiden =>
    rw [decode_vcv]
    simp (disch := decide) only [decVcv, extract_low, extract_high, Nat.reduceSub, extract_all]
    rfl
  case vredsum | vredmax | vredmin =>
    rw [decode_vrd]
    rfl
  case xadd | xsub | xmul | xfma | xred =>
    rw [decode_xp]
    simp [decXp, evenOp_pairField]
  case dwadd | dwsub | dwmul | dwnorm | dwrnd =>
    rw [decode_dw]
    simp [decDw, even3, evenOp_pairField]
  case sldep | slmerge =>
    rw [decode_slc]
    simp [decSlc, evenOp_pairField]
  case mset | mballoc | mbfree | mzero | mmac | mdrain | mfill | mstat =>
    rw [decode_mat]
    simp (disch := decide) only [decMat, extract_low, extract_high, Nat.reduceSub, extract_all]
    rfl
  case cset p a b r =>
    have hr : ¬ r = 7#3 := bne_iff_ne.mp hwf
    rw [decode_cpy]
    simp (disch := decide) only [decCpy, extract_low, extract_high, Nat.reduceSub, extract_all, if_neg hr]
    rfl
  case copy | cfill =>
    rw [decode_cpy]
    rfl
  case rsend | rpermit | rstat =>
    rw [decode_rly]
    rfl
  case msgw | wtarm | wtdis | cntwait =>
    rw [decode_msg]
    rfl
  case spawn | joindec | retire | yield =>
    rw [decode_task]
    rfl
  case gnew | gjoin | gleave | gbar | gbcfg | gfree =>
    rw [decode_grp]
    rfl
  case getid | rdcsr | wrcsr =>
    rw [decode_id]
    simp (disch := decide) only [decId, extract_low, extract_high, Nat.reduceSub, extract_all]
    rfl
  case emit | fwait | pxlook | pxins | pxrel =>
    rw [decode_srv]
    rfl
  case capld | capclr | csave | crestore | tlbinv | tlbflush | eret =>
    rw [decode_priv]
    simp (disch := decide) only [decPriv, extract_low, extract_high, Nat.reduceSub, extract_all,
      scopeOf_scopeCode]
    rfl
  case cwb | cinv | pref =>
    rw [decode_cache]
    rfl
  case trap | brk | wfe =>
    rw [decode_traps]
    simp (disch := decide) only [decTraps, extract_low, extract_high, Nat.reduceSub, extract_all]
    rfl
  case sld | sst | gsld | gsst =>
    rw [decode_spill]
    simp (disch := decide) only [decSpill, extract_low, extract_high, Nat.reduceSub, extract_all]
    rfl
  case nop =>
    rw [decode_nop]
  case addi | andi | ori | xori | slti | lui | auipc | beq | bne | blt | bge | bltu | bgeu | jal | jalr | fsh => simp [decode]
  all_goals cases hd

theorem decodeHostel_encode {i : Instr} {w : IWord} (hh : hostelWord i = true) (h : encode i = some w) :
    decodeHostel w = some i := by
  cases i
  all_goals cases hh
  all_goals cases h
  all_goals simp [decodeHostel]

/-- Settles O56: each major's decoder answers what the encoder's row of that major wrote, and nothing else. -/
theorem encodingRoundTrip : Obligations.EncodingRoundTrip := by
  refine ⟨fun i w hwf he => ?_, fun i w hd => decode_word hd, fun i w hd => decodeHostel_word hd⟩
  cases hh : hostelWord i with
  | true => exact decodeHostel_encode hh he
  | false => exact decode_encode hwf hh he

/-- Settles O57: each word written out is the encoding of its instruction. -/
theorem decodeSamples : Obligations.DecodeSamples :=
  ⟨decode_encode rfl rfl rfl, decode_encode rfl rfl rfl, decode_encode rfl rfl rfl, decode_encode rfl rfl rfl,
    decode_encode rfl rfl rfl, decode_encode rfl rfl rfl, decode_encode rfl rfl rfl, decode_encode rfl rfl rfl,
    decodeHostel_encode rfl rfl, rfl⟩

end Sys2Proof
end

section
/-! SUPPORT. The head of a station's queue starts (R27, R77, R78, R138, R182): what the start leaves alone in the context, in
the package, and as the berth is focused for the word's own effect. -/

namespace Sys2Proof.Machine

set_option Elab.async false -- one theorem at a time, so that few threads wait on the kernel

open Sys2Proof.Safety

/-! ### The focus -/

@[simp] theorem State.focus_key (s : State) (k : Nat) : (s.focus k).key = k := by
  unfold State.focus
  split
  · next h => exact h.symm
  · dsimp only
    split <;> rfl

@[simp] theorem State.focus_mem (s : State) (k : Nat) : (s.focus k).mem = s.mem := by
  unfold State.focus
  split
  · rfl
  · dsimp only
    split <;> rfl

/-- The focused berth holds the same context as before. -/
@[simp] theorem State.ctxAt_focus (s : State) (k : Nat) : (s.focus k).ctxAt k = s.ctxAt k := by
  by_cases h : k = s.key
  · rw [State.focus, if_pos h]
  · have hp : mget (if s.live then mput s.parked s.key s.ctx else s.parked) k = mget s.parked k := by
      split
      · exact mget_mput_other _ _ h
      · rfl
    simp only [State.focus, State.ctxAt, if_neg h]
    rw [hp]
    cases hc : mget s.parked k <;> simp

/-! ### The head leaves its queue -/

@[simp] theorem Ctx.older_toks (c : Ctx) (id : Nat) (f : Entry → Entry) : (c.older id f).toks = c.toks := by
  unfold Ctx.older
  split
  · split_ifs <;> rfl
  · rfl

/-- The rest of the queue is the same entries, the first of them the head from now on (R78). -/
theorem map_id_newHead (now : Nat) (q : List QEntry) :
    (match q with | _ :: x :: r => { x with headAt := now } :: r | _ => []).map QEntry.id = q.tail.map QEntry.id := by
  match q with
  | [] => rfl
  | [_] => rfl
  | _ :: _ :: _ => rfl

/-- What a word's completion leaves alone. -/
theorem EndOnly.fields {c d : Ctx} (h : EndOnly c d) :
    d.regs = c.regs ∧ d.grid = c.grid ∧ d.masks = c.masks ∧ d.pend = c.pend ∧ d.pc = c.pc := by
  unfold EndOnly at h
  rw [h]
  exact ⟨rfl, rfl, rfl, rfl, rfl⟩

/-- What the start changes in the context, and what it leaves alone. -/
theorem Ctx.takeHead_fields {c : Ctx} {st : Station} {e : QEntry} {rest : List QEntry} (now : Nat) (hst : st ≠ .s)
    (hq : c.queue st = e :: rest) :
    atStation (c.takeHead now st e) st = some e ∧ ((c.takeHead now st e).queue st).map QEntry.id = rest.map QEntry.id ∧
      (c.takeHead now st e).toks = (c.popToks st e.p).toks ∧ (c.takeHead now st e).regs = c.regs ∧
      (c.takeHead now st e).grid = c.grid ∧ (c.takeHead now st e).masks = c.masks ∧ (c.takeHead now st e).pend = c.pend ∧
      (c.takeHead now st e).pc = c.pc := by
  have hids := map_id_newHead now (c.queue st)
  rw [hq, List.tail_cons] at hids
  obtain ⟨hregs, hgrid, hmasks, hpend, hpc⟩ := ((c.popToks_only st e.p).end.trans
    (Ctx.older_only (c.popToks st e.p) e.id (Entry.pop (waitsOf st e.p)))).fields
  have htoks := Ctx.older_toks (c.popToks st e.p) e.id (Entry.pop (waitsOf st e.p))
  cases st
  case s => exact absurd rfl hst
  case v | m | c =>
    simp only [Ctx.takeHead, hq]
    exact ⟨rfl, hids, htoks, hregs, hgrid, hmasks, hpend, hpc⟩

/-! ### The step -/

section

variable {s : State} {k : Nat} {st : Station} {c : Ctx} {e : QEntry} {rest : List QEntry} {i : Instr}

theorem station_of_headReady (h : HeadReady s k st c e rest i) : st ≠ .s := by
  obtain ⟨-, -, -, -, -, -, -, hu⟩ := h
  rintro rfl
  cases hu

theorem startable_of_headReady (h : HeadReady s k st c e rest i) : s.startable k st = some (e, i) := by
  obtain ⟨hc, hq, hw, hat, hpop, howes, hstop, hu⟩ := h
  simp only [State.startable, hc, hq, hw]
  rw [if_pos ⟨hat, hpop, by simp [howes], by simp [hstop], hu⟩]

/-- The package as the head has left its queue for the station. -/
def headStarted (s : State) (k : Nat) (st : Station) (c : Ctx) (e : QEntry) (i : Instr) : State :=
  (s.updCore (k / 4) fun x => x.noteStart s.now st i).putCtx k (c.takeHead s.now st e)

theorem stationStart_eq (h : HeadReady s k st c e rest i) : s.stationStart k st =
      if portWord i then headStarted s k st c e i else { (headStarted s k st c e i).focus k with turn := .start st } := by
  have hc : (s.updCore (k / 4) fun x => x.noteStart s.now st i).ctxAt k = some c := h.1
  simp only [State.stationStart, startable_of_headReady h, State.updCtx_eq hc]
  rfl

@[simp] theorem State.putCtx_turn (s : State) (k : Nat) (c : Ctx) : (s.putCtx k c).turn = s.turn := by
  unfold State.putCtx
  split <;> rfl

/-- The package after a start: the context without its head, memory as it was, and the turn. -/
theorem stationStart_fields (h : HeadReady s k st c e rest i) :
    (s.stationStart k st).ctxAt k = some (c.takeHead s.now st e) ∧ (s.stationStart k st).mem = s.mem ∧
      (s.stationStart k st).turn = (if portWord i then s.turn else .start st) ∧
      (portWord i = false → (s.stationStart k st).key = k) := by
  rw [stationStart_eq h]
  cases portWord i
  case true =>
    exact ⟨State.ctxAt_putCtx .., State.putCtx_mem .., State.putCtx_turn .., nofun⟩
  case false =>
    exact ⟨(State.ctxAt_focus ..).trans (State.ctxAt_putCtx ..), (State.focus_mem ..).trans (State.putCtx_mem ..), rfl,
      fun _ => State.focus_key ..⟩

/-- A special-function word runs at V and not at an engine's port. -/
theorem portWord_of_isVsf {i : Instr} (h : isVsf i = true) : portWord i = false := by
  unfold isVsf at h
  split at h
  case h_7 => cases h
  all_goals rfl

/-- A special-function word takes its place in the cluster's queue as it starts (R138). -/
theorem sfuAccept_eq (h : HeadReady s k .v c e rest i) (hv : isVsf i = true) :
    s.sfuAccept k e.id = { s.stationStart k .v with sfu := mput s.sfu (k / 4 / 8) (s.sfuHeld (k / 4 / 8) ++
      [Nat.max s.now ((s.sfuHeld (k / 4 / 8)).getLastD s.now) + 16]) } := by
  have hn : ¬ (e.id ≠ e.id ∨ (!true) = true) := by simp
  simp only [State.sfuAccept, startable_of_headReady h, hv]
  rw [if_neg hn]
  rfl

end

/-- Settles O35: the start is `takeHead` of the berth's context, and the berth is focused for the word's effect. -/
theorem stationsStart : Obligations.StationsStart := by
  intro k st s c e rest i h
  obtain ⟨hctx, hmem, hturn, hkey⟩ := stationStart_fields h
  obtain ⟨hat, hq, htoks, hregs, hgrid, hmasks, hpend, hpc⟩ := Ctx.takeHead_fields s.now (station_of_headReady h) h.2.1
  refine ⟨⟨_, _, rfl, hctx, hat, hq, htoks, hregs, hgrid, hmasks, hpend, hpc, hmem, hturn, hkey⟩, ?_⟩
  rintro rfl hv
  have hp := portWord_of_isVsf hv
  rw [hp] at hturn
  exact ⟨_, _, congrArg Host.Outcome.next (sfuAccept_eq h hv), hctx, hat, hregs, hgrid, hpend, hmem, hturn, hkey hp,
    mgetD_mput_same ..⟩

end Sys2Proof.Machine
end

section
/-! SUPPORT. Taking a trap (R33, R83, R379), the asynchronous causes (R380) and the faults at the engines (R192, R310, R384). -/

namespace Sys2Proof.Machine

set_option Elab.async false -- one theorem at a time, so that few threads wait on the kernel

open Sys2Proof.Safety

/-! ### Synchronous traps -/

theorem takeTrap_none {s : State} {k : Nat} (t : Trap) (epc : Word) (h : s.ctxAt k = none) : s.takeTrap k t epc = s := by
  rw [State.takeTrap, h]

/-- Outside a handler a trap enters it after the drain (R379). -/
theorem takeTrap_enters {s : State} {k : Nat} {c : Ctx} (t : Trap) (epc : Word) (h : s.ctxAt k = some c)
    (hp : c.priv = false) :
    s.takeTrap k t epc = (s.drain k).updCtx k fun c1 => Safety.entered c1 t.cause t.tval t.tinfo epc := by
  rw [State.takeTrap, h]
  dsimp only
  rw [hp]
  rfl

/-- A trap in privileged code discards the context after the drain (R379). -/
theorem takeTrap_discards {s : State} {k : Nat} {c : Ctx} (t : Trap) (epc : Word) (h : s.ctxAt k = some c)
    (hp : c.priv = true) :
    s.takeTrap k t epc = ({ counted 0x180 (s.drain k) with
      doubled := (s.drain k).doubled ++ [(BitVec.ofNat 64 t.cause, epc)] } : State).endCtx k true := by
  rw [State.takeTrap, h]
  dsimp only
  rw [hp]
  rfl

/-! ### Asynchronous causes -/

/-- The cause of a fault record (R384). -/
theorem afr_cause (w : Word) : wfld w 4 8 = w.toNat / 16 % 256 := rfl

theorem asyncTrap_none {s : State} {k : Nat} (h : s.ctxAt k = none) : s.asyncTrap k = s := by
  rw [State.asyncTrap, h]

/-- A handler, a swap that holds the program halted, and a context with nothing pending have no cause to take (R380). -/
theorem asyncCause_none {c : Ctx}
    (h : c.priv = true ∨ c.block = .halted ∧ c.preempt = none ∨ c.afr = [] ∧ c.preempt = none) : c.asyncCause = none := by
  rcases h with hp | ⟨hb, hn⟩ | ⟨ha, hn⟩
  · simp [Ctx.asyncCause, hp]
  · simp [Ctx.asyncCause, hb, hn]
  · simp [Ctx.asyncCause, ha, hn]

/-- Outside a handler and a swap, a cause other than 19 comes first. -/
theorem asyncCause_eq {c : Ctx} (hp : c.priv = false) (hb : c.block = .halted → c.preempt ≠ none) : c.asyncCause =
    if c.afr.any fun r => wfld r.w0 4 8 != 19 then some 18
    else if c.afr.any fun r => wfld r.w0 4 8 == 19 then some 19
    else if c.preempt.isSome then some 20 else none := by
  have hn : ¬ (c.priv || (c.block == .halted && c.preempt.isNone)) = true := by
    rw [hp, Bool.false_or, Bool.and_eq_true, beq_iff_eq, Option.isNone_iff_eq_none]
    exact fun h => hb h.1 h.2
  rw [Ctx.asyncCause, if_neg hn]

/-- Causes 18 and 19 count the records in the queue of eight. -/
theorem asyncTrap_record {s : State} {k z : Nat} {c : Ctx} (hk : s.ctxAt k = some c) (hz : c.asyncCause = some z)
    (h20 : z ≠ 20) : s.asyncTrap k = ((s.putCtx k (c.atBoundary s.now)).drain k).updCtx k fun c1 =>
      Safety.entered c1 z 0 (BitVec.ofNat 64 c.afr.length) c.pc := by
  simp only [State.asyncTrap, hk, hz, if_neg h20, State.updCtx_eq hk]
  rfl

/-- Cause 20 halts the engines' commands, and its value is the requesting core. -/
theorem asyncTrap_preempt {s : State} {k : Nat} {c : Ctx} {who : Word} (hk : s.ctxAt k = some c)
    (hz : c.asyncCause = some 20) (hw : c.preempt = some who) :
    s.asyncTrap k = (((s.haltEngines k).updCtx k fun x => { x.atBoundary s.now with preempt := none }).drain k).updCtx k
      fun c1 => Safety.entered c1 20 who 0 c.pc := by
  simp only [State.asyncTrap, hk, hz, hw]
  rfl

/-! ### Faults at the engines -/

/-- The record's first word: path, cause, whether the access writes, whether the grow pool was empty, position (R384). -/
theorem engAfr_eq (path place : Nat) (cause : BitVec 8) (wr grow : Bool) (va prog : Word) (word : Option Instr) (id : Nat) :
    engAfr path place ⟨cause.toNat, va, BitVec.ofNat 64 (wr.toNat + 2 * grow.toNat)⟩ prog word id =
      ⟨BitVec.ofNat 64 (path + 16 * cause.toNat + (if wr then 4096 else 0) +
        (if cause = 11 ∧ grow = true then 8192 else 0) + 16384 * (place % 8)), va, prog, wordBits word, none, some id⟩ := by
  have h0 : (BitVec.ofNat 64 (wr.toNat + 2 * grow.toNat)).getLsbD 0 = wr := by cases wr <;> cases grow <;> rfl
  have h1 : (BitVec.ofNat 64 (wr.toNat + 2 * grow.toNat)).getLsbD 1 = grow := by cases wr <;> cases grow <;> rfl
  have hc : cause.toNat = 11 ↔ cause = 11 := ⟨fun h => BitVec.eq_of_toNat_eq h, fun h => h ▸ rfl⟩
  simp only [engAfr, h0, h1, hc, Bool.and_eq_true, decide_eq_true_eq]

theorem matAfrPath_eq (e : QEntry) : matAfrPath e = matrixPath e.word := rfl

/-- The context after the fault of the accepted command `id` at its progress. -/
theorem setMin_postAfr (c : Ctx) (id : Nat) (prog : Word) (r : Afr) :
    (c.setMin id fun e => { e with susp := true, begun := true, prog := prog }).postAfr r =
      posted { c with min := c.min.map fun x =>
        if x.id = id then { x with susp := true, begun := true, prog := prog } else x } r := by
  simp only [Ctx.setMin, beq_iff_eq]
  rfl

/-- The issuer's turn at the engine ends (R191). -/
theorem rotate_eq_turnOver (g : Engine) (en : Nat) (c : Ctx) :
    { g.rotate en c with serving := none, ran := false } = turnOver en c g := by
  have h : c.minAt en = 0 ↔ (c.min.filter fun x => capObj x.cap == en).isEmpty = true := by
    rw [List.isEmpty_iff_length_eq_zero]
    rfl
  simp only [Engine.rotate, turnOver, h]

theorem endTurn_engine {s : State} {en k : Nat} {c : Ctx} (h : s.ctxAt k = some c) :
    (s.endTurn en k).engine en = turnOver en c (s.engine en) := by
  simp only [State.endTurn, State.updEngine, State.engine, mgetD_mupd_same, h, rotate_eq_turnOver]

theorem engineFault_none {s : State} {k id : Nat} (st : Station) (t : Trap) (prog : Word) (h : s.ctxAt k = none) :
    s.engineFault k st id t prog = s := by
  rw [State.engineFault, h]

/-- No command that is there and goes on: the fault changes nothing. -/
theorem engineFault_again {s : State} {k id : Nat} {st : Station} {c : Ctx} (t : Trap) (prog : Word) (h : s.ctxAt k = some c)
    (hm : st = .m → ∀ x ∈ c.min, x.id = id → x.susp = true) (hc : st = .c → ∀ x ∈ c.cact, x.id = id → x.susp = true) :
    s.engineFault k st id t prog = s := by
  rw [State.engineFault, h]
  cases st
  case s | v => rfl
  case m =>
    dsimp only
    cases hf : c.min.find? fun x => x.id == id with
    | none => rfl
    | some e =>
      have hs : e.susp = true := hm rfl e (List.mem_of_find?_eq_some hf) (by simpa using List.find?_some hf)
      simp [hs]
  case c =>
    dsimp only
    cases ha : c.cact with
    | none => rfl
    | some e =>
      have hs : ¬ (e.id = id ∧ e.susp = false) := fun he => by
        have := hc rfl e ha he.1
        simp [this] at he
      simp only [if_neg hs]

/-- The context after the fault `t` of its accepted command `e`. -/
def matFaulted (c : Ctx) (e : QEntry) (id : Nat) (t : Trap) (prog : Word) : Ctx :=
  posted { c with min := c.min.map fun x => if x.id = id then { x with susp := true, begun := true, prog := prog } else x }
    (engAfr (matrixPath e.word) (c.mPlace id) t prog e.word id)

@[simp] theorem State.putCtx_engine (s : State) (k : Nat) (c : Ctx) (en : Nat) : (s.putCtx k c).engine en = s.engine en := by
  unfold State.putCtx
  split <;> rfl

theorem engineFault_m {s : State} {k id : Nat} {c : Ctx} {e : QEntry} (t : Trap) (prog : Word) (h : s.ctxAt k = some c)
    (hf : (c.min.find? fun x => x.id == id) = some e) (hs : e.susp = false) :
    s.engineFault k .m id t prog =
      if (s.engine (capObj e.cap)).serving = some k then
        (s.putCtx k (matFaulted c e id t prog)).endTurn (capObj e.cap) k
      else s.putCtx k (matFaulted c e id t prog) := by
  simp only [State.engineFault, h, hf, hs, ↓reduceIte, matFaulted, ← setMin_postAfr, matAfrPath_eq]

/-- What the fault of a command of M leaves in the package. -/
theorem engineFault_m_fields {s : State} {k id : Nat} {c : Ctx} {e : QEntry} (t : Trap) (prog : Word)
    (h : s.ctxAt k = some c) (hf : (c.min.find? fun x => x.id == id) = some e) (hs : e.susp = false) :
    (s.engineFault k .m id t prog).mem = s.mem ∧
      (s.engineFault k .m id t prog).ctxAt k = some (matFaulted c e id t prog) ∧
      (s.engineFault k .m id t prog).engine (capObj e.cap) = if (s.engine (capObj e.cap)).serving = some k
        then turnOver (capObj e.cap) (matFaulted c e id t prog) (s.engine (capObj e.cap)) else s.engine (capObj e.cap) := by
  rw [engineFault_m t prog h hf hs]
  split
  · exact ⟨State.putCtx_mem .., State.ctxAt_putCtx .., by rw [endTurn_engine (State.ctxAt_putCtx ..), State.putCtx_engine]⟩
  · exact ⟨State.putCtx_mem .., State.ctxAt_putCtx .., State.putCtx_engine ..⟩

theorem engineFault_c {s : State} {k id : Nat} {c : Ctx} {e : QEntry} (t : Trap) (prog : Word) (h : s.ctxAt k = some c)
    (hf : c.cact = some e) (hi : e.id = id) (hs : e.susp = false) :
    s.engineFault k .c id t prog =
      (s.putCtx k (posted { c with cact := some { e with susp := true, begun := true, prog := prog } }
        (engAfr 1 0 t prog e.word id))).updCore (k / 4) fun x =>
          if x.copying = some k then { x with copying := none, copyAt := none } else x := by
  simp only [State.engineFault, h, hf, hi, hs, and_self, ↓reduceIte]
  rfl

/-- Settles O40: each trap is `takeTrap` or `enter` at its cause, and an engine's fault one change of its command. -/
theorem trapsAreTaken : Obligations.TrapsAreTaken := by
  intro k s
  refine ⟨fun cause tval tinfo epc => ⟨fun h => ?_, fun c h hp => ?_, fun c h hp => ?_⟩,
    fun c h => ⟨fun hq => ?_, fun hp hb => ⟨fun s1 hs1 => ⟨fun hr => ?_, fun hne hr => ?_⟩, fun who s1 hs1 ha hw => ?_⟩⟩,
    fun st id cause wr grow va prog => ?_⟩
  · exact ⟨congrArg Host.Outcome.next (takeTrap_none _ _ h), congrArg Host.Outcome.next (asyncTrap_none h)⟩
  · exact congrArg Host.Outcome.next (takeTrap_enters _ _ h hp)
  · exact congrArg Host.Outcome.next (takeTrap_discards _ _ h hp)
  · refine congrArg Host.Outcome.next ?_
    rw [State.asyncTrap, h]
    simp only [asyncCause_none hq]
  · have hz : c.asyncCause = some 18 := by
      rw [asyncCause_eq hp hb, if_pos (by simpa [afr_cause] using hr)]
    rw [hs1]
    exact congrArg Host.Outcome.next (asyncTrap_record h hz (by decide))
  · have hz : c.asyncCause = some 19 := by
      obtain ⟨r, hr1⟩ := List.exists_mem_of_ne_nil _ hne
      rw [asyncCause_eq hp hb, if_neg (by simpa [afr_cause] using hr), if_pos]
      rw [List.any_eq_true]
      exact ⟨r, hr1, by simpa [afr_cause] using hr r hr1⟩
    rw [hs1]
    exact congrArg Host.Outcome.next (asyncTrap_record h hz (by decide))
  · have hz : c.asyncCause = some 20 := by
      rw [asyncCause_eq hp hb, ha, hw]
      rfl
    rw [hs1]
    exact congrArg Host.Outcome.next (asyncTrap_preempt h hz hw)
  · refine ⟨fun h => congrArg Host.Outcome.next (engineFault_none _ _ _ h), fun c h =>
      ⟨fun hm hc => congrArg Host.Outcome.next (engineFault_again _ _ h hm hc), ?_, ?_⟩⟩
    · rintro e rfl hf hs
      obtain ⟨hmem, hctx, hen⟩ := engineFault_m_fields
        ⟨cause.toNat, va, BitVec.ofNat 64 (wr.toNat + 2 * grow.toNat)⟩ prog h hf hs
      refine ⟨_, _, congrArg _ (engAfr_eq ..), rfl, hmem, hctx, hen⟩
    · rintro e rfl hf hi hs
      refine ⟨_, congrArg Host.Outcome.next (engineFault_c _ _ h hf hi hs), State.putCtx_mem .., ?_, ?_⟩
      · rw [State.coreAt, State.updCore_cores, mgetD_mupd_same]
        split
        · nofun
        · assumption
      · rw [engAfr_eq]
        exact State.ctxAt_putCtx ..

end Sys2Proof.Machine
end

section
/-! SUPPORT. The memory words of the grid at V: a word whose own checks fail takes its trap there (R236, R241, R256, R379). -/

namespace Sys2Proof.Machine

set_option Elab.async false -- one theorem at a time, so that few threads wait on the kernel

open Sys2Proof.Safety

/-! ### Addresses -/

/-- The scaled address of a VLD or VST is whole-number arithmetic in 64 bits (R253). -/
theorem vmAddr_eq_rowAddr (e : QEntry) (imm : BitVec 9) : vmAddr e imm = rowAddr e.x imm := by
  unfold vmAddr rowAddr
  rw [BitVec.ofInt_add, BitVec.ofInt_mul, BitVec.ofInt_toInt, BitVec.mul_comm]
  congr 2

theorem ixOp_eq_ofNat (x : BitVec 5) : ixOp x = BitVec.ofNat 6 x.toNat := (BitVec.ofNat_toNat ..).symm

theorem indexAddr_eq_laneAddr (s : State) (e : QEntry) (x : BitVec 5) :
    indexAddr x s.ctx e = laneAddr s e (some (BitVec.ofNat 6 x.toNat)) := by
  funext j
  rw [indexAddr, ixOp_eq_ofNat]
  rfl

/-! ### The start at V -/

section

variable {i : Instr} {p : Dep} {s s1 : State} {e : QEntry} {t : Trap}

/-- A memory word that passes the common checks of a grid word traps as its own check says. -/
theorem memStart_trap {spec : Ctx → VSpec} {go : State → QEntry → MemOut} (hv : VFits (spec s.ctx) e s)
    (hg : go s e = .trap s1 t) : memStart i spec go s = .next (s1.startTrap s1.key .v e t) := by
  obtain ⟨-, ha, hb, he⟩ := hv
  simp only [memStart, ha, hb, he, hg]

/-- A VLD whose form traps (R241, R253, R254). -/
theorem vldWord_trap {g : GOp} {imm : BitVec 9} {fe clear : Bool} (hv : VFits { fixedDsts := [g], keeps := false } e s)
    (hf : s.vmForm e (rowAddr e.x imm) = .trap t) :
    vldWord i p g imm fe clear s = .next (s.startTrap s.key .v e t) := by
  have ht := hv.1
  simp only [vldWord, ht]
  exact memStart_trap hv (by simp only [vmAddr_eq_rowAddr, hf])

/-- A strided, indexed or broadcast word one of whose active cells traps (R256). -/
theorem vmemWord_trap {spec : VSpec} {want : Want} {addr : Ctx → QEntry → Nat → Word}
    {go : State → QEntry → List (Nat × Acc) → State} (hv : VFits spec e s)
    (hl : s.lanes want (addr s.ctx e) s.ctx.activeLanes [] = (s1, some (.inl t))) :
    vmemWord i p spec want addr go s = .next (s1.startTrap s1.key .v e t) := by
  have ht := hv.1
  simp only [vmemWord, ht]
  exact memStart_trap hv (by simp only [hl])

theorem execVst_trap {g : GOp} {a : SReg} {n : Bool} {imm : BitVec 9} (hv : VFits { fixedSrcs := [g], keeps := false } e s)
    (hf : s.vmForm e (rowAddr e.x imm) = .trap t) : execVst p g a n imm s = .next (s.startTrap s.key .v e t) := by
  have ht := hv.1
  simp only [execVst, ht]
  exact memStart_trap hv (by simp only [vmAddr_eq_rowAddr, hf])

/-- A spill word of the grid out of its context's spill memory (R236). -/
theorem execGsld_trap {n : BitVec 4} {o : BitVec 14}
    (hv : VFits { fixedDsts := [hRow n.toNat], useVt := false, useMask := false, keeps := false } e s)
    (hb : s.ctx.spillBad o 128 = some t) : execGsld p n o s = .next (s.startTrap s.key .v e t) := by
  have ht := hv.1
  simp only [execGsld, ht]
  exact memStart_trap hv (by simp only [hb])

theorem execGsst_trap {n : BitVec 4} {o : BitVec 14}
    (hv : VFits { fixedSrcs := [hRow n.toNat], useVt := false, useMask := false, keeps := false } e s)
    (hb : s.ctx.spillBad o 128 = some t) : execGsst p n o s = .next (s.startTrap s.key .v e t) := by
  have ht := hv.1
  simp only [execGsst, ht]
  exact memStart_trap hv (by simp only [hb])

end

/-! ### The rows of the table -/

theorem formTrap_eq_some {s s1 : State} {e : QEntry} {ss ds : List GOp} {imm : BitVec 9} {sp : VSpec} {t : Trap}
    (h : gridTrap.formTrap s e ss ds imm = some (sp, s1, t)) :
    sp = { fixedSrcs := ss, fixedDsts := ds, keeps := false } ∧ s1 = s ∧ s.vmForm e (rowAddr e.x imm) = .trap t := by
  unfold gridTrap.formTrap at h
  split at h
  case h_1 hf =>
    cases h
    exact ⟨rfl, rfl, hf⟩
  case h_2 => cases h

theorem laneTrap_eq_some {s s1 : State} {ss ds : List GOp} {want : Want} {addr : Nat → Word} {sp : VSpec} {t : Trap}
    (h : gridTrap.laneTrap s ss ds want addr = some (sp, s1, t)) :
    sp = { fixedSrcs := ss, fixedDsts := ds, keeps := false } ∧
      s.lanes want addr s.ctx.activeLanes [] = (s1, some (.inl t)) := by
  unfold gridTrap.laneTrap at h
  split at h
  case h_1 hl =>
    cases h
    exact ⟨rfl, hl⟩
  case h_2 => cases h

theorem spillTrap_eq_some {s s1 : State} {ss ds : List GOp} {o : BitVec 14} {sp : VSpec} {t : Trap}
    (h : gridTrap.spillTrap s ss ds o = some (sp, s1, t)) :
    sp = { fixedSrcs := ss, fixedDsts := ds, useVt := false, useMask := false, keeps := false } ∧ s1 = s ∧
      s.ctx.spillBad o 128 = some t := by
  rw [gridTrap.spillTrap, Option.ite_none_right_eq_some] at h
  obtain ⟨hlt, ⟨⟩⟩ := h
  exact ⟨rfl, rfl, if_pos hlt⟩

/-- Settles O15: the word's row says which of its checks trapped, and that is what `memStart` answers. -/
theorem gridAccessesTrap : Obligations.GridAccessesTrap := by
  intro i s s1 e sp t h hv
  cases i
  case vld | vldFeKeep | vldFeClear =>
    obtain ⟨rfl, rfl, hf⟩ := formTrap_eq_some h
    exact vldWord_trap hv hf
  case vst =>
    obtain ⟨rfl, rfl, hf⟩ := formTrap_eq_some h
    exact execVst_trap hv hf
  case vlds | vsts =>
    obtain ⟨rfl, hl⟩ := laneTrap_eq_some h
    exact vmemWord_trap hv hl
  case vbcast =>
    obtain ⟨rfl, hl⟩ := laneTrap_eq_some h
    exact vmemWord_trap (addr := fun _ e _ => e.x) hv hl
  case vldx | vstx =>
    obtain ⟨rfl, hl⟩ := laneTrap_eq_some h
    rw [← indexAddr_eq_laneAddr] at hl
    rw [← ixOp_eq_ofNat] at hv
    exact vmemWord_trap hv hl
  case gsld =>
    obtain ⟨rfl, rfl, hb⟩ := spillTrap_eq_some h
    exact execGsld_trap hv hb
  case gsst =>
    obtain ⟨rfl, rfl, hb⟩ := spillTrap_eq_some h
    exact execGsst_trap hv hb
  all_goals cases h

end Sys2Proof.Machine
end

section
/-! SUPPORT. FECLR, FSH, CWB, CINV and MSGW at S (R246, R248, R252, R316). -/

namespace Sys2Proof.Machine

set_option Elab.async false -- one theorem at a time, so that few threads wait on the kernel

open Sys2Proof.Safety

/-! ### A word leaves S on the LS path -/

theorem popped_key (p : Dep) (s : State) : (popped p s).key = s.key := rfl

@[simp] theorem popped_ctx (p : Dep) (s : State) : (popped p s).ctx = s.ctx.popToks .s p := rfl

/-- A word that counts in sc: its record, the next pc (R92). -/
theorem finish_issueStore {i : Instr} {p : Dep} {x : Word} {parts : List StPart} {kind : StKind} {rel : Bool} {s s0 : State} :
    (Body.done ((popped p s).issueStore i p x parts kind rel) (popped p s).pc4).finish s0 =
      .next (storeSent s i p x parts kind rel) := by
  rw [finish_done, State.issueStore, State.delay_eq]
  simp only [State.retire, State.withCtx, State.pc4, State.markS_eq, storeSent, sent, arrival, retired, issued, delayed, popped,
    Ctx.incCtr, Ctx.setCtr, Ctx.ctr, Ctx.popToks_nextId, Ctx.popToks_pc, Ctx.popToks_retired, Ctx.popToks_stores, Ctx.popToks_sc]

/-- A word that counts in lc: its record, the next pc (R92). -/
theorem finish_issueLoad {i : Instr} {r : LRow} {acc : Acc} {s s0 : State} :
    (Body.done ((popped r.p s).issueLoad i r.p r.d (r.x s) (r.y s) [acc] (r.act s acc) r.acq r.rel) (popped r.p s).pc4).finish s0 =
      .next (loadSent s i r acc) := by
  rw [finish_done, State.issueLoad, State.delay_eq]
  simp only [State.retire, State.withCtx, State.pc4, State.markS_eq, loadSent, outgoing, arrival, retired, issued, delayed, popped,
    Ctx.incCtr, Ctx.setCtr, Ctx.ctr, Ctx.popToks_nextId, Ctx.popToks_pc, Ctx.popToks_retired, Ctx.popToks_pend,
    Ctx.popToks_lc, Pend.mk0, dstS]

theorem State.access_ok {s : State} {a : Word} {len al : Nat} {want : Want} {w : Win} {k : Acc → Body} {acc : Acc}
    (h : s.chkS a len al want w 0 = .ok acc) : s.access a len al want w k = k acc := by
  simp only [State.access, State.accessAt, h]

/-! ### FECLR -/

theorem execFeclr_sent {p : Dep} {d a : SReg} {o : BitVec 9} {s : State} {core off : Nat} (hc : CanIssue p s)
    (ho : LsOpen .sc s) (hs : Settled [a, d] s)
    (hk : precheck (s.key / 4) (scaled s a 8 o) (Nat.max 1 (s.ctx.reg d).toNat) 1 .spadOnly 0 = none)
    (hp : placeOf (s.key / 4) (scaled s a 8 o).toNat = .spad core off) (hn : off + (s.ctx.reg d).toNat ≤ 2 ^ 19) :
    execFeclr p d a o s =
      .next (storeSent s (.feclr p d a o) p (s.ctx.reg d) [] (.feclr core off (s.ctx.reg d).toNat) false) := by
  have hin : ¬ 0x80000 < off + (s.ctx.reg d).toNat := by omega
  rw [execFeclr, lsWord_open hc ho hs]
  simp only [State.ea_eq_scaled, scaled_popped, State.core, popped_key, popped_ctx, Ctx.popToks_reg, hk, hp, if_neg hin]
  exact finish_issueStore

/-! ### FSH -/

/-- FSH is no LS word: only its counter holds it (R242, R245). -/
theorem execFsh_ready {p : Dep} {d a b : SReg} {n : BitVec 7} {s : State} (hc : CanIssue p s) (hl : s.ctx.lc < 63)
    (hs : Settled [a, b, d] s) :
    execFsh p d a b n s = ((popped p s).access (s.ctx.reg a) 8 8 .write .none fun acc =>
      if !(isHbm acc.loc) then .trap ⟨12, s.ctx.reg a, faultInfo .write false 0⟩
      else .done ((popped p s).issueLoad (.fsh p d a b n) p d (s.ctx.reg b) (s.ctx.reg d) [acc]
        (.fsh n (s.ctx.reg d) (s.ctx.reg b) d none) false false) (popped p s).pc4).finish s := by
  have he : (s.withCtx (s.ctx.popToks .s p)).earlyS [a, b, d] = none := (State.earlyS_popToks ..).trans hs
  have hk : ¬ 63 ≤ s.ctx.ctr .lc := Nat.not_le.mpr hl
  rw [execFsh, countedWord, sWord_ready hc (by simp)]
  simp only [State.withCtx_ctx, Ctx.ctr_popToks, Bool.false_and, Bool.false_eq_true, ↓reduceIte, if_neg hk, he,
    Ctx.popToks_reg]
  rfl

theorem execFsh_checked {p : Dep} {d a b : SReg} {n : BitVec 7} {s : State} {acc : Acc} (hc : CanIssue p s)
    (hl : s.ctx.lc < 63) (hs : Settled [a, b, d] s) (ha : s.chkS (s.ctx.reg a) 8 8 .write .none 0 = .ok acc) :
    execFsh p d a b n s = (if !(isHbm acc.loc) then .trap ⟨12, s.ctx.reg a, faultInfo .write false 0⟩
      else .done ((popped p s).issueLoad (.fsh p d a b n) p d (s.ctx.reg b) (s.ctx.reg d) [acc]
        (.fsh n (s.ctx.reg d) (s.ctx.reg b) d none) false false) (popped p s).pc4 : Body).finish s := by
  rw [execFsh_ready hc hl hs, State.access_ok ((s.chkS_popped ..).trans ha)]

/-! ### CWB and CINV -/

/-- The address of CWB and CINV is whole-number arithmetic in 64 bits (R252). -/
theorem reg_add_signExtend (v : Word) (o : BitVec 12) : v + o.signExtend 64 = BitVec.ofInt 64 (v.toInt + o.toInt) := by
  rw [BitVec.ofInt_add, BitVec.ofInt_toInt]
  rfl

/-- The translation that CWB and CINV ask for: no right of the page matters to them. -/
def cacheBody (i : Instr) (p : Dep) (s : State) (va : Word) (x w : Xl) : Body :=
  match x, w with
  | .miss, .fault 12 _ => .done (s.issueStore i p 0 [] .cache false) s.pc4
  | .miss, _ => .walk va .cache 0
  | _, _ => .done (s.issueStore i p 0 [] .cache false) s.pc4

theorem cacheBody_sent {i : Instr} {p : Dep} {s : State} {va : Word} {x w : Xl} (h : x ≠ .miss ∨ ∃ b, w = .fault 12 b) :
    cacheBody i p s va x w = .done (s.issueStore i p 0 [] .cache false) s.pc4 := by
  unfold cacheBody
  split <;> grind

theorem cacheBody_walks {i : Instr} {p : Dep} {s : State} {va : Word} {w : Xl} (h : ∀ b, w ≠ .fault 12 b) :
    cacheBody i p s va .miss w = .walk va .cache 0 := by
  unfold cacheBody
  split <;> grind

theorem cacheWord_ready {i : Instr} {p : Dep} {a : SReg} {o : BitVec 12} {s : State} {va : Word} (hc : CanIssue p s)
    (ho : LsOpen .sc s) (hs : Settled [a] s) (hv : va = BitVec.ofInt 64 ((s.ctx.reg a).toInt + o.toInt)) :
    cacheWord i p a o s = (if 2 ^ 57 ≤ va.toNat then .trap ⟨8, va, 0⟩
      else if winBase ≤ va.toNat then doneS (popped p s) p
      else cacheBody i p (popped p s) va (s.xlateS va.toNat .cache)
        ((s.walk s.ctx.root.toNat s.ctx.asid.toNat va.toNat).use va.toNat .cache s.ctx.priv) : Body).finish s := by
  have hx : (popped p s).xlateS va.toNat .cache = s.xlateS va.toNat .cache := by
    simp only [State.xlateS, popped_ctx, Ctx.popToks_asid, Ctx.popToks_priv]
    rfl
  have ha : s.ctx.reg a + o.signExtend 64 = va := (reg_add_signExtend ..).trans hv.symm
  rw [cacheWord, lsWord_open hc ho hs, ← hx]
  simp only [popped_ctx, Ctx.popToks_reg, Ctx.popToks_root, Ctx.popToks_asid, Ctx.popToks_priv, ha]
  rfl

theorem cacheWord_cases {i : Instr} {p : Dep} {a : SReg} {o : BitVec 12} {s : State} {va : Word} (hc : CanIssue p s)
    (ho : LsOpen .sc s) (hs : Settled [a] s) (hv : va = BitVec.ofInt 64 ((s.ctx.reg a).toInt + o.toInt)) :
    (2 ^ 57 ≤ va.toNat → cacheWord i p a o s = .next (trapped s ⟨8, va, 0⟩)) ∧
    (winBase ≤ va.toNat → va.toNat < 2 ^ 57 →
      cacheWord i p a o s = .next (issued s (completed p (s.ctx.pc + 4) s.ctx))) ∧
    (va.toNat < winBase →
      (s.xlateS va.toNat .cache ≠ .miss ∨
        ∃ b, (s.walk s.ctx.root.toNat s.ctx.asid.toNat va.toNat).use va.toNat .cache s.ctx.priv = .fault 12 b) →
      cacheWord i p a o s = .next (storeSent s i p 0 [] .cache false)) ∧
    (va.toNat < winBase → s.xlateS va.toNat .cache = .miss →
      (∀ b, (s.walk s.ctx.root.toNat s.ctx.asid.toNat va.toNat).use va.toNat .cache s.ctx.priv ≠ .fault 12 b) →
      cacheWord i p a o s = .next (walking s va .cache)) := by
  have hbase : winBase ≤ 2 ^ 57 := by decide
  rw [cacheWord_ready hc ho hs hv]
  refine ⟨fun h => ?_, fun hw h => ?_, fun hw h => ?_, fun hw hm h => ?_⟩
  · rw [if_pos h, finish_trap]
  · rw [if_neg (Nat.not_le.mpr h), if_pos hw, finish_doneS]
  · rw [if_neg (by omega), if_neg (Nat.not_le.mpr hw), cacheBody_sent h, finish_issueStore]
  · rw [if_neg (by omega), if_neg (Nat.not_le.mpr hw), hm, cacheBody_walks h, finish_walk]

/-! ### MSGW -/

/-- MSGW past S's own checks and its counter: its values, then an early read, then its source granules. -/
theorem execMsgw_open {p : Dep} {d a b : SReg} {s : State} (hc : CanIssue p s) (ho : LsOpen .sc s) :
    execMsgw p d a b s = (if msgwBad (s.ctx.reg d) (s.ctx.reg b) = true then .trap (wordTrap 4 (.msgw p d a b))
      else (s.earlyS [a, b, d]).elim
        ((popped p s).accesses (s.ctx.reg a) 16 16 .read .spad (Nat.max 1 (msgwLen (s.ctx.reg d) / 16)) [] fun accs =>
          .done ((popped p s).issueStore (.msgw p d a b) p 0 (accs.map fun c => ⟨c, 0, 0⟩)
            (.msgw (msgwCore (s.ctx.reg b)) (msgwOff (s.ctx.reg b)) (msgwLen (s.ctx.reg d)) (msgwEntry (s.ctx.reg b))
              (msgwIncr (s.ctx.reg d))) true) (popped p s).pc4)
        fun e => .trap (earlyTrap e) : Body).finish s := by
  obtain ⟨hl, hk⟩ := ho
  have hk' : ¬ 63 ≤ s.ctx.sc := Nat.not_le.mpr hk
  have hsc : (s.ctx.popToks .s p).sc = s.ctx.sc := Ctx.ctr_popToks s.ctx .s p .sc
  rw [execMsgw, sWord_ready hc (by simp)]
  simp only [State.withCtx_ctx, Ctx.ldaWait_popToks, hl, Bool.false_eq_true, ↓reduceIte, hsc, if_neg hk', Ctx.popToks_reg,
    State.earlyS_popToks]
  cases s.earlyS [a, b, d] <;> rfl

/-- Checked pieces that all pass are one list of accesses. -/
theorem State.accesses_ok {s : State} {a : Word} {step al : Nat} {want : Want} {w : Win} {k : List Acc → Body}
    (accs before : List Acc)
    (h : ∀ j (hj : j < accs.length), s.chkS (a + BitVec.ofNat 64 (step * (before.length + j))) step al want w 0 = .ok accs[j]) :
    s.accesses a step al want w accs.length before k = k (before.reverse ++ accs) := by
  induction accs generalizing before with
  | nil => simp [State.accesses]
  | cons c cs ih =>
    have h0 : s.chkS (a + BitVec.ofNat 64 (step * before.length)) step al want w 0 = .ok c := h 0 (Nat.succ_pos _)
    rw [List.length_cons, State.accesses, State.access_ok h0, ih]
    · simp
    · intro j hj
      have := h (j + 1) (by simpa using hj)
      simpa [Nat.add_comm, Nat.add_left_comm] using this

/-- MSGW's operands within their limits (R316). -/
def MsgwLegal (d b : Word) : Prop :=
  d.toNat % 65536 % 16 = 0 ∧ d.toNat % 65536 ≤ 32768 ∧ d.toNat < 2 ^ 32 ∧ b.toNat % 2 ^ 19 % 16 = 0 ∧
    b.toNat % 2 ^ 19 + d.toNat % 65536 ≤ 2 ^ 19 ∧ b.toNat / 2 ^ 19 % 2 ^ 11 < numCores ∧ b.toNat < 2 ^ 36

/-- The bits of a word from `lo` up, when they reach bit 63, are zero exactly below `2 ^ lo`. -/
theorem wfld_top_eq_zero {v : Word} {lo n : Nat} (h : lo + n = 64) : wfld v lo n = 0 ↔ v.toNat < 2 ^ lo := by
  have hlt : v.toNat / 2 ^ lo < 2 ^ n := by
    rw [Nat.div_lt_iff_lt_mul (Nat.two_pow_pos lo), ← Nat.pow_add, Nat.add_comm, h]
    exact v.isLt
  rw [wfld, bitsOf, Nat.mod_eq_of_lt hlt, Nat.div_eq_zero_iff_lt (Nat.two_pow_pos lo)]

theorem msgwBad_iff (d b : Word) : msgwBad d b = true ↔ ¬ MsgwLegal d b := by
  have hd := wfld_top_eq_zero (v := d) (lo := 32) (n := 32) rfl
  have hb := wfld_top_eq_zero (v := b) (lo := 36) (n := 28) rfl
  have hlen : msgwLen d = d.toNat % 65536 := by simp [msgwLen, wfld, bitsOf]
  have hoff : msgwOff b = b.toNat % 2 ^ 19 := by simp [msgwOff, wfld, bitsOf]
  simp only [msgwBad, Bool.or_eq_true, decide_eq_true_eq, ne_eq, hd, hb, hlen, hoff, MsgwLegal]
  rw [show msgwCore b = b.toNat / 2 ^ 19 % 2 ^ 11 from rfl]
  omega

theorem execMsgw_bad {p : Dep} {d a b : SReg} {s : State} (hc : CanIssue p s) (ho : LsOpen .sc s)
    (h : ¬ MsgwLegal (s.ctx.reg d) (s.ctx.reg b)) :
    execMsgw p d a b s = .next (trapped s (wordTrap 4 (.msgw p d a b))) := by
  rw [execMsgw_open hc ho, if_pos ((msgwBad_iff ..).mpr h), finish_trap]

theorem execMsgw_sent {p : Dep} {d a b : SReg} {s : State} {accs : List Acc} (hc : CanIssue p s) (ho : LsOpen .sc s)
    (hs : Settled [a, b, d] s) (hb : msgwBad (s.ctx.reg d) (s.ctx.reg b) = false)
    (hn : accs.length = Nat.max 1 (msgwLen (s.ctx.reg d) / 16))
    (ha : ∀ j : Fin accs.length, s.chkS (s.ctx.reg a + BitVec.ofNat 64 (16 * j)) 16 16 .read .spad 0 = .ok accs[j]) :
    execMsgw p d a b s = .next (storeSent s (.msgw p d a b) p 0 (accs.map fun c => ⟨c, 0, 0⟩)
      (.msgw (msgwCore (s.ctx.reg b)) (msgwOff (s.ctx.reg b)) (msgwLen (s.ctx.reg d)) (msgwEntry (s.ctx.reg b))
        (msgwIncr (s.ctx.reg d))) true) := by
  have hs' : s.earlyS [a, b, d] = none := hs
  rw [execMsgw_open hc ho, hb, if_neg Bool.false_ne_true, hs', ← hn, Option.elim_none, State.accesses_ok]
  · exact finish_issueStore
  · intro j hj
    rw [State.chkS_popped, List.length_nil, Nat.zero_add]
    exact ha ⟨j, hj⟩

/-- Settles O24, one word after the other. -/
theorem otherMemoryWords : Obligations.OtherMemoryWords := by
  refine ⟨fun p d a o s core off hc ho hs hk hp hn => execFeclr_sent hc ho hs hk hp hn,
    fun p d a b n s acc hc hl hs ha => ⟨fun h => ?_, fun h => ⟨⟨12, s.ctx.reg a, faultInfo .write false 0⟩, rfl, rfl, ?_⟩⟩,
    fun i p a o s va hi hc ho hs hv => ?_, fun p d a b s accs hc ho hs hb hn ha => ?_,
    fun p d a b s hc ho h => execMsgw_bad hc ho h⟩
  · refine (execFsh_checked hc hl hs ha).trans ?_
    rw [h]
    exact finish_issueLoad (r := ⟨p, d, [a, b, d], fun s => s.ctx.reg a, 8, .write, .none,
      fun s _ => .fsh n (s.ctx.reg d) (s.ctx.reg b) d none, false, false, fun s => s.ctx.reg b, fun s => s.ctx.reg d⟩)
  · refine (execFsh_checked hc hl hs ha).trans ?_
    rw [h]
    rfl
  · obtain rfl | rfl := hi <;> exact cacheWord_cases hc ho hs hv
  · refine (execMsgw_sent hc ho hs hb (hn.trans ?_) ha).trans ?_
    · simp [msgwLen, wfld, bitsOf]
    · simp [msgwLen, msgwOff, msgwCore, msgwEntry, msgwIncr, wfld, bitsOf]

end Sys2Proof.Machine
end

section
/-! SUPPORT. A step runs the word or row that is due: the fetch (R39, R155, R234, R241, R371), the issue of what it answers, and
the scheduler's choices. -/

namespace Sys2Proof.Machine

set_option Elab.async false -- one theorem at a time, so that few threads wait on the kernel

open Sys2Proof.Safety

/-! ### The fetched word -/

/-- Four bytes from memory are the number that they hold, lowest first (R26). -/
theorem State.wordAt_eq_word32 (s : State) (loc : Nat) : s.wordAt loc = word32 s.mem loc := by
  apply BitVec.eq_of_toNat_eq
  have h0 := (s.mem.read loc).isLt
  have h1 := (s.mem.read (loc + 1)).isLt
  have h2 := (s.mem.read (loc + 2)).isLt
  have h3 := (s.mem.read (loc + 3)).isLt
  simp only [State.wordAt, wordOfBytes, word32, Mem.readLE, Mem.readBytes, leNat, BitVec.toNat_append, BitVec.toNat_ofNat,
    ← Nat.shiftLeft_add_eq_or_of_lt h0, ← Nat.shiftLeft_add_eq_or_of_lt h1, ← Nat.shiftLeft_add_eq_or_of_lt h2]
  simp only [Nat.shiftLeft_eq, Nat.add_assoc loc, Nat.reduceAdd]
  omega

/-- A fetch's sectors are those of its four bytes, whatever the page and its generation. -/
theorem sectorsOf_fetch (pc : Word) (pa : Nat) (gen : BitVec 12) (dev : Bool) : sectorsOf [⟨pc, pa, 4, gen, dev⟩] = sectorsAt pa 4 := by
  have hs : Acc.cached ⟨0, pa, 4, 0, false⟩ = Acc.cached ⟨pc, pa, 4, gen, dev⟩ := rfl
  unfold sectorsAt sectorsOf
  by_cases h : Acc.cached ⟨pc, pa, 4, gen, dev⟩ = true
  · rw [List.filter_cons_of_pos h, List.filter_cons_of_pos (hs ▸ h)]
    rfl
  · rw [List.filter_cons_of_neg h, List.filter_cons_of_neg (hs ▸ h)]

/-- A read needs the sectors that its die has not invalid (R361). -/
theorem State.holds_read_iff (s : State) (sec h : Nat) : s.holds sec h false = true ↔ dirState s sec h ≠ .i := by
  have hd : s.dirOf sec h = dirState s sec h := rfl
  unfold State.holds
  rw [hd]
  cases dirState s sec h <;> simp

theorem State.coheres_read_iff (s : State) (core : Nat) (accs : List Acc) :
    s.coheres core false accs = true ↔ ∀ x ∈ sectorsOf accs, dirState s x (dieOf core) ≠ .i := by
  simp only [State.coheres, List.all_eq_true, State.holds_read_iff]

/-- A fetch leaves its block in the core's signature, and none for a window or a hub's region (R362). -/
theorem State.takeCopies_fetch (s : State) (pc : Word) (pa : Nat) (gen : BitVec 12) (dev : Bool) :
    s.takeCopies s.core false [⟨pc, pa, 4, gen, dev⟩] = copyTaken s pa := by
  have hc : Acc.cached ⟨pc, pa, 4, gen, dev⟩ = false ↔ 2 ^ 52 ≤ pa ∨ (barOf pa).isSome = true := by
    simp only [Acc.cached, Bool.and_eq_false_iff, decide_eq_false_iff_not, Nat.not_lt, Option.isNone_eq_false_iff]
  unfold copyTaken
  split
  next h => rw [State.takeCopies, List.filter_cons, if_neg (by simp [hc.mpr h])]; rfl
  next h =>
    have ht : Acc.cached ⟨pc, pa, 4, gen, dev⟩ = true := by simpa using mt hc.mp h
    rw [State.takeCopies, List.filter_cons, if_pos ht]
    simp only [List.filter_nil, Bool.false_eq_true, ↓reduceIte, List.foldl_cons, List.foldl_nil, List.contains_iff_mem]
    rfl

@[simp] theorem copyTaken_mem (s : State) (pa : Nat) : (copyTaken s pa).mem = s.mem := by
  unfold copyTaken
  split <;> rfl

@[simp] theorem copyTaken_key (s : State) (pa : Nat) : (copyTaken s pa).key = s.key := by
  unfold copyTaken
  split <;> rfl

/-! ### What a fetch answers -/

/-- A core without its translations of a context's pc (R371). -/
def forgetsPc (x : Ctx) (c : Core) : Core :=
  { c with tlb := c.tlb.filter fun t =>
    !(t.asid == x.asid.toNat && decide (t.base ≤ x.pc.toNat) && decide (x.pc.toNat < t.base + t.size)) }

theorem of_mem_tlb_forgetsPc {x : Ctx} {c : Core} {t : Tlb} (h : t ∈ (forgetsPc x c).tlb) :
    ¬ (t.asid = x.asid.toNat ∧ t.base ≤ x.pc.toNat ∧ x.pc.toNat < t.base + t.size) := by
  rintro ⟨ha, hb, hc⟩
  simpa [ha, hb, hc] using (List.mem_filter.mp h).2

/-- What lies below the windows is a canonical address (R145). -/
theorem below_top {n : Nat} (h : n < winBase) : ¬ 2 ^ 57 ≤ n := Nat.not_le.mpr (h.trans_le (by decide))

theorem State.fetch_draining {s : State} (h : s.draining s.core s.ctx = true) : s.fetch = .stale s := by
  rw [State.fetch, if_pos h]

section
variable {s : State} (hd : s.draining s.core s.ctx = false)
include hd

theorem State.fetch_form (h : 2 ^ 57 ≤ s.ctx.pc.toNat) : s.fetch = .trap ⟨7, s.ctx.pc, 1⟩ := by
  simp only [State.fetch, hd, Bool.false_eq_true, ↓reduceIte, h]

theorem State.fetch_misaligned (h : s.ctx.pc.toNat < 2 ^ 57) (ha : s.ctx.pc.toNat % 4 ≠ 0) :
    s.fetch = .trap ⟨7, s.ctx.pc, 2⟩ := by
  simp only [State.fetch, hd, Bool.false_eq_true, ↓reduceIte, Nat.not_le.mpr h, ha, ne_eq, not_false_eq_true]

theorem State.fetch_window (h : s.ctx.pc.toNat < 2 ^ 57) (ha : s.ctx.pc.toNat % 4 = 0) (hw : winBase ≤ s.ctx.pc.toNat) :
    s.fetch = .trap ⟨7, s.ctx.pc, 5⟩ := by
  simp only [State.fetch, hd, Bool.false_eq_true, ↓reduceIte, Nat.not_le.mpr h, ha, ne_eq, not_true_eq_false, hw]

variable (hw : s.ctx.pc.toNat < winBase) (ha : s.ctx.pc.toNat % 4 = 0)
include hw ha

/-- The core does not hold the translation: the berth walks for it (R241). -/
theorem State.fetch_miss (hx : s.xlateS s.ctx.pc.toNat .fetch = .miss) : s.fetch = .miss := by
  simp only [State.fetch, hd, Bool.false_eq_true, ↓reduceIte, below_top hw, ha, ne_eq,
    not_true_eq_false, Nat.not_le.mpr hw, hx]

theorem State.fetch_fault {z : Nat} {b : Bool} (hx : s.xlateS s.ctx.pc.toNat .fetch = .fault z b) :
    s.fetch = .trap ⟨7, s.ctx.pc, if z = 11 then 3 else 4⟩ := by
  simp only [State.fetch, hd, Bool.false_eq_true, ↓reduceIte, below_top hw, ha, ne_eq,
    not_true_eq_false, Nat.not_le.mpr hw, hx]

variable {pa : Nat} {gen : BitVec 12} (hx : s.xlateS s.ctx.pc.toNat .fetch = .ok pa gen)
include hx

/-- A frame of another generation: the core drops the translation (R371). -/
theorem State.fetch_stale (hg : s.genOk ⟨s.ctx.pc, pa, 4, gen, isDevice pa⟩ = false) :
    s.fetch = .stale (s.updCore s.core (forgetsPc s.ctx)) := by
  simp only [State.fetch, hd, Bool.false_eq_true, ↓reduceIte, below_top hw, ha, ne_eq,
    not_true_eq_false, Nat.not_le.mpr hw, hx, hg]
  rfl

variable (hg : s.genOk ⟨s.ctx.pc, pa, 4, gen, isDevice pa⟩ = true)
include hg

/-- A sector that the die lacks is asked for (R363). -/
theorem State.fetch_asked (h : ∃ x ∈ sectorsAt pa 4, dirState s x (dieOf s.core) = .i) :
    s.fetch = .asked (s.queueAsks (dieOf s.core) false (sectorsAt pa 4)) := by
  have hc : s.coheres s.core false [⟨s.ctx.pc, pa, 4, gen, isDevice pa⟩] = false := by
    rw [← Bool.not_eq_true, State.coheres_read_iff, sectorsOf_fetch]
    simpa using h
  simp only [State.fetch, hd, Bool.false_eq_true, ↓reduceIte, below_top hw, ha, ne_eq,
    not_true_eq_false, Nat.not_le.mpr hw, hx, hg,
    hc, Bool.not_false, sectorsOf_fetch]

/-- Else memory's four bytes are the word. -/
theorem State.fetch_word (h : ∀ x ∈ sectorsAt pa 4, dirState s x (dieOf s.core) ≠ .i) (hb : s.bad = []) :
    s.fetch = .word (copyTaken s pa) (word32 s.mem pa) := by
  have hc : s.coheres s.core false [⟨s.ctx.pc, pa, 4, gen, isDevice pa⟩] = true := by
    rw [State.coheres_read_iff, sectorsOf_fetch]
    exact h
  simp only [State.fetch, hd, Bool.false_eq_true, ↓reduceIte, below_top hw, ha, ne_eq,
    not_true_eq_false, Nat.not_le.mpr hw, hx, hg,
    hc, Bool.not_true, State.scrub_clean hb, State.takeCopies_fetch, State.wordAt_eq_word32, copyTaken_mem]

end

/-! ### What S does with the answer -/

@[simp] theorem State.toIssue_key (s : State) (k : Nat) : (s.toIssue k).key = k := by
  unfold State.toIssue
  dsimp only
  split
  · exact s.focus_key k
  · exact s.focus_key k

theorem issueStep_trap {k : Nat} {s : State} {t : Trap} (h : (s.toIssue k).fetch = .trap t) :
    issueStep k s = .next (trapped (s.toIssue k) t) := by
  simp only [issueStep, h, trapped, State.toIssue_key]
  rfl

theorem issueStep_miss {k : Nat} {s : State} (h : (s.toIssue k).fetch = .miss) :
    issueStep k s = .next (walking (s.toIssue k) (s.toIssue k).ctx.pc .fetch) := by
  simp only [issueStep, h]
  rfl

theorem issueStep_stale {k : Nat} {s u : State} (h : (s.toIssue k).fetch = .stale u) : issueStep k s = .next u.markS := by
  simp only [issueStep, h]

theorem issueStep_asked {k : Nat} {s u : State} (h : (s.toIssue k).fetch = .asked u) : issueStep k s = .next u := by
  simp only [issueStep, h]

theorem issueStep_word {k : Nat} {s u : State} {w : IWord} {i : Instr} (h : (s.toIssue k).fetch = .word u w)
    (hi : decode w = some i) : issueStep k s = exec i u := by
  simp only [issueStep, h, hi]

theorem issueStep_illegal {k : Nat} {s u : State} {w : IWord} (h : (s.toIssue k).fetch = .word u w) (hk : u.key = k)
    (hi : decode w = none) : issueStep k s = .next (trapped u ⟨1, w.zeroExtend 64, 0⟩) := by
  simp only [issueStep, h, hi, trapped, hk]
  rfl

/-- The frame has another generation: S has issued, and the core holds no translation of the pc any more (R371). -/
theorem issueStep_retries {k : Nat} {s u : State} {c : Ctx} (h : (s.toIssue k).fetch = .stale (u.updCore u.core (forgetsPc c))) :
    ∃ v, issueStep k s = .next v ∧ v.ctx = u.ctx ∧ v.mem = u.mem ∧ (mgetD v.cores (u.key / 4) Core.reset).sAt = u.now + 1 ∧
      ∀ e ∈ (mgetD v.cores (u.key / 4) Core.reset).tlb,
        ¬ (e.asid = c.asid.toNat ∧ e.base ≤ c.pc.toNat ∧ c.pc.toNat < e.base + e.size) := by
  refine ⟨_, issueStep_stale h, rfl, rfl, ?_, ?_⟩
  · simp [State.markS_eq, State.updCore, State.core]
  · intro e he
    simp only [State.markS_eq, State.updCore, State.core, mgetD_mupd_same] at he
    exact of_mem_tlb_forgetsPc he

/-! ### The scheduler's choice -/

theorem step_sched {s : State} (h : s.turn = .sched) : step s = jobStep s.nextJob s := by
  simp only [step, h]

theorem step_issue {s : State} {k : Nat} (h : s.turn = .sched) (hj : s.nextJob = .issue k) : step s = issueStep k s := by
  rw [step_sched h, hj]
  rfl

/-- A word that stands at a unit is run. -/
theorem wordStep_some {e : QEntry} {i : Instr} (s : State) (h : e.word = some i) : wordStep (some e) s = exec i s := by
  simp only [wordStep, h]

/-- A hart whose fetch gives no custom word leaves the next step to the scheduler (R389). -/
theorem hartStep_sched {h : Nat} {s : State} (hf : ∀ s1 w, s.hartFetch h = .word s1 w → decodeHostel w = none) :
    ∃ t, hartStep h s = .next t ∧ t.turn = .sched := by
  unfold hartStep
  cases ha : s.hartFetch h with
  | left s1 | short s1 c => exact ⟨_, rfl, rfl⟩
  | word s1 w =>
    simp only [hf s1 w ha]
    exact ⟨_, rfl, rfl⟩

/-- S issues at an address that no page can hold (R234, R382). -/
theorem step_issue_no_page {s t : State} {k : Nat} {pc : Word} (h : s.turn = .sched) (hj : s.nextJob = .issue k) (ht : s.toIssue k = t)
    (hp : t.ctx.pc = pc) (hd : t.draining t.core t.ctx = false) :
    (2 ^ 57 ≤ pc.toNat → step s = .next (trapped t ⟨7, pc, 1⟩)) ∧
    (pc.toNat < 2 ^ 57 → pc.toNat % 4 ≠ 0 → step s = .next (trapped t ⟨7, pc, 2⟩)) ∧
    (pc.toNat < 2 ^ 57 → pc.toNat % 4 = 0 → winBase ≤ pc.toNat → step s = .next (trapped t ⟨7, pc, 5⟩)) := by
  subst ht hp
  rw [step_issue h hj]
  exact ⟨fun hf => issueStep_trap (State.fetch_form hd hf), fun hf ha => issueStep_trap (State.fetch_misaligned hd hf ha),
    fun hf ha hw => issueStep_trap (State.fetch_window hd hf ha hw)⟩

/-- Settles O58: `step` and `issueStep` take up what `nextJob` and `fetch` answer. -/
theorem stepRunsTheWord : Obligations.StepRunsTheWord := by
  refine ⟨fun s t k pc h hj ht hp => ⟨fun hd => ?drain, fun hd => ?issue⟩, fun s i h hj => ?unit, fun s n i h hj => ?input,
    fun s k h hj => ?async, fun s k h hj => ?probe, fun s k h hj => ?grow, fun s r h hj => ?migrate, fun s u d h hj => ?lane,
    fun s k h hj => ?copyOn, fun s en h hj => ?engineOn, fun s x h hj => ?hart, fun s h => ?rest, fun s st e i h he hi => ?start,
    fun s en k c e i h he hi => ?served, fun s e i h he hi => ?copy, fun s s1 x w i h hf hi => ?custom, fun s x h hf => ?base⟩
  case drain =>
    subst ht
    rw [step_issue h hj, issueStep_stale (State.fetch_draining hd)]
    rfl
  case issue =>
    obtain ⟨hform, hal, hwin⟩ := step_issue_no_page h hj ht hp hd
    refine ⟨hform, hal, hwin, fun hw ha => ?_⟩
    subst ht hp
    rw [step_issue h hj]
    refine ⟨fun z b hx => issueStep_trap (State.fetch_fault hd hw ha hx), fun hx => issueStep_miss (State.fetch_miss hd hw ha hx),
      fun pa gen hx => ⟨fun hg => issueStep_retries (State.fetch_stale hd hw ha hx hg), fun hg => ⟨fun hi =>
        issueStep_asked (State.fetch_asked hd hw ha hx hg hi), fun w hs hb hm => ?_⟩⟩⟩
    have hf := hm ▸ State.fetch_word hd hw ha hx hg hs hb
    exact ⟨fun i hi => issueStep_word hf hi, fun hi => issueStep_illegal hf ((copyTaken_key ..).trans (s.toIssue_key k)) hi⟩
  case unit | input | async | probe | grow | migrate | lane | copyOn | engineOn | hart =>
    rw [step_sched h, hj]
    rfl
  case rest =>
    rw [step_sched h]
    cases s.nextJob with
    | incident | migrateOn | result | swap | admission | status | door | inject | ask | serve | hop | posted => exact ⟨_, rfl⟩
    | tick => exact ⟨_, rfl, rfl, rfl⟩
    | input | hart | unit | migrate | lane | grow | copyOn | engineOn | async | probe | issue => trivial
  case start =>
    simp only [step, h, he]
    exact wordStep_some s hi
  case served =>
    simp only [step, h, he]
    exact wordStep_some s hi
  case copy =>
    simp only [step, h, he]
    exact wordStep_some s hi
  case custom => simp only [step, h, hartStep, hf, hi]
  case base =>
    simp only [step, h]
    exact hartStep_sched hf

end Sys2Proof.Machine
end

section
/-! SUPPORT. What a completion leaves aside: the commands at M and C and the spill writes of the cycle (R28, R87). -/

namespace Sys2Proof.Machine

open Sys2Proof.Safety

/-! ### A completion beside the units and the spill writes -/

/-- The context with other commands at M and C and other spill writes of the cycle, which no completion reads or changes. -/
def Ctx.beside (c : Ctx) (m k : Option QEntry) (w : List (Nat × Nat × List Byte)) : Ctx :=
  { c with mact := m, cact := k, spillW := w }

variable (c : Ctx) (m k : Option QEntry) (w : List (Nat × Nat × List Byte))

@[simp] theorem Ctx.tok_beside (q : Nat) : (c.beside m k w).tok q = c.tok q := rfl

theorem Ctx.setTok_beside (q n : Nat) : (c.beside m k w).setTok q n = (c.setTok q n).beside m k w := by
  unfold Ctx.setTok
  split <;> rfl

theorem Ctx.push1_beside (st : Station) (q : Nat) : (c.beside m k w).push1 st q = (c.push1 st q).beside m k w := by
  rw [Ctx.push1, Ctx.push1, Ctx.tok_beside, Ctx.setTok_beside]
  split_ifs <;> rfl

theorem Ctx.older_beside (id : Nat) (f : Entry → Entry) : (c.beside m k w).older id f = (c.older id f).beside m k w := by
  rw [Ctx.older, Ctx.older, show (c.beside m k w).entry = c.entry from rfl]
  cases c.entry with
  | none => rfl
  | some e =>
    dsimp only
    split_ifs <;> rfl

theorem Ctx.pushes_beside (st : Station) (id : Nat) (qs : List Nat) :
    (qs.foldl (fun c q => c.push1 st q) (c.beside m k w)).older id (Entry.push qs) =
      ((qs.foldl (fun c q => c.push1 st q) c).older id (Entry.push qs)).beside m k w := by
  rw [List.foldl_hom (fun c : Ctx => c.beside m k w) fun c q => c.push1_beside m k w st q, Ctx.older_beside]

theorem Ctx.flush_beside : (c.beside m k w).flush = c.flush.beside m k w := by
  unfold Ctx.flush
  refine List.foldl_hom (fun c : Ctx => c.beside m k w) (init := { c with done := [] }) fun c d => ?_
  have hb : (c.beside m k w).pushBefore d.1 d.2.1 = c.pushBefore d.1 d.2.1 := rfl
  rw [hb]
  split_ifs
  · rfl
  · exact c.pushes_beside m k w d.1 d.2.1 d.2.2

theorem Ctx.complete_beside (st : Station) (id : Nat) (qs : List Nat) :
    (c.beside m k w).complete st id qs = (c.complete st id qs).beside m k w := by
  have other : ∀ st', (if qs.isEmpty then (c.beside m k w).flush
      else ({ c.beside m k w with done := insDone (st', id, qs) c.done } : Ctx).flush) =
      (if qs.isEmpty then c.flush else ({ c with done := insDone (st', id, qs) c.done } : Ctx).flush).beside m k w := by
    intro st'
    split_ifs
    · exact c.flush_beside m k w
    · exact Ctx.flush_beside { c with done := insDone (st', id, qs) c.done } m k w
  cases st with
  | s => exact c.pushes_beside m k w .s id qs
  | v => exact other .v
  | m => exact other .m
  | c => exact other .c

variable (st : Station) (id : Nat) (qs : List Nat)

/-- A station may be set free before or after the completion. -/
theorem complete_freed_m : (freed c .m).complete st id qs = freed (c.complete st id qs) .m := by
  have hf : ∀ x : Ctx, freed x .m = x.beside none x.cact x.spillW := fun _ => rfl
  rw [hf, hf, Ctx.complete_beside, Ctx.complete_cact, Ctx.complete_spillW]

theorem complete_freed_c : (freed c .c).complete st id qs = freed (c.complete st id qs) .c := by
  have hf : ∀ x : Ctx, freed x .c = x.beside x.mact none x.spillW := fun _ => rfl
  rw [hf, hf, Ctx.complete_beside, Ctx.complete_mact, Ctx.complete_spillW]

/-- A spill write left before a completion stands after it. -/
theorem Ctx.complete_spillPut (wid o : Nat) (bs : List Byte) : (c.spillPut wid o bs).complete st id qs =
    { c.complete st id qs with spillW := c.spillW ++ [(wid, o, bs)] } := by
  have hf : c.spillPut wid o bs = c.beside c.mact c.cact (c.spillW ++ [(wid, o, bs)]) := rfl
  rw [hf, Ctx.complete_beside, Ctx.beside]
  simp only [← Ctx.complete_mact c st id qs, ← Ctx.complete_cact c st id qs]

end Sys2Proof.Machine
end

section
/-! SUPPORT. The words that only hold a place in a queue, at their start (R77, R257, R258, R294). -/

namespace Sys2Proof.Machine

open Sys2Proof.Safety

/-- SSET, SBIND and SUNBIND at V (R257, R258). -/
theorem exec_genWord_start {i : Instr} {r : GRow} {s : State} {e : QEntry} (hr : genWord i = some r)
    (ht : s.turn = .start .v) (he : standing s .v = some e) :
    exec i s = .next (vEnded s (freed ((s.ctx.dropPend e.id).complete .v e.id (pushesOf .v e.p)) .v)) := by
  obtain ⟨chk, f, hx, -⟩ := exec_genWord s hr
  have ha : s.ctx.active = some e := he
  rw [hx]
  simp only [streamWord, ht, ha]
  rfl

/-- MSET at M (R294). -/
theorem setupWord_start_m {i : Instr} {p : Dep} {a b : SReg} {f : Ctx → Word → Ctx} {s : State} {e : QEntry}
    (ht : s.turn = .start .m) (he : standing s .m = some e) : setupWord i p .m a b f s =
      .next (vEnded s (freed ((s.ctx.dropPend e.id).complete .m e.id (pushesOf .m e.p)) .m)) := by
  have hm : s.ctx.mact = some e := he
  have hx : setupWord i p .m a b f s =
      .next (vEnded s ((freed (s.ctx.dropPend e.id) .m).complete .m e.id (pushesOf .m e.p))) := by
    simp only [setupWord, ht, hm, ↓reduceIte]
    rfl
  rw [hx, complete_freed_m]

/-- CSET at C (R294). -/
theorem setupWord_start_c {i : Instr} {p : Dep} {a b : SReg} {f : Ctx → Word → Ctx} {s : State} {e : QEntry}
    (ht : s.turn = .start .c) (he : standing s .c = some e) : setupWord i p .c a b f s =
      .next (vEnded s (freed ((s.ctx.dropPend e.id).complete .c e.id (pushesOf .c e.p)) .c)) := by
  have hm : s.ctx.cact = some e := he
  have hx : setupWord i p .c a b f s =
      .next (vEnded s ((freed (s.ctx.dropPend e.id) .c).complete .c e.id (pushesOf .c e.p))) := by
    simp only [setupWord, ht, hm, reduceCtorEq, ↓reduceIte]
    rfl
  rw [hx, complete_freed_c]

/-- Settles O17: a generator word at V, MSET at M, CSET at C. -/
theorem markersComplete : Obligations.MarkersComplete := by
  intro i st s e hr ht he
  unfold markerRow at hr
  split at hr
  case h_1 | h_2 | h_3 =>
    cases hr
    exact exec_genWord_start rfl ht he
  case h_4 p a b r =>
    cases hr
    have hx : exec (.mset p a b r) s = execMset p a b r s := rfl
    exact hx.trans (setupWord_start_m ht he)
  case h_5 p a b r =>
    cases hr
    have hx : exec (.cset p a b r) s = execCset p a b r s := rfl
    exact hx.trans (setupWord_start_c ht he)
  case h_6 => cases hr

end Sys2Proof.Machine
end

section
/-! SUPPORT. A grid word that has started at V and passes its checks (R24, R31, R79, R261). -/

namespace Sys2Proof.Machine

open Sys2Proof.Safety

/-- The writes of a started word go on their way, and V is free (R79). -/
theorem freed_vLand (s : State) (e : QEntry) (dst : Option GOp) (gs : List GOp) (mk : BitVec 256) (lat : Nat)
    (ws : List Wr) (fl : Fl) :
    freed (s.ctx.vLand e dst gs mk s.now lat ws fl) .v = Safety.performed s e dst gs mk lat (ws, fl) := by
  have hd : flagDst fl = flagDsts fl := rfl
  unfold Ctx.vLand Safety.performed
  cases e.app <;> cases dst
  all_goals
    simp only [beq_iff_eq, Option.isNone_iff_eq_none, hd]
    rfl

/-- A grid word that passes its checks and finds no fault in its values is performed. -/
theorem gridWord_performed {i : Instr} {p : Dep} {spec : Ctx → VSpec} {lat : Nat} {f : Ctx → QEntry → VOut} {s : State}
    {e : QEntry} {o : List Wr × Fl} (hv : VFits (spec s.ctx) e s) (hf : f s.ctx e = .ok o.1 o.2) :
    gridWord i p spec lat f s = .next (vEnded s (Safety.performed s e (spec s.ctx).dst
      ((spec s.ctx).dst.toList ++ (spec s.ctx).fixedDsts)
      (if (spec s.ctx).whole then BitVec.allOnes 256 else s.ctx.vtMask) lat o)) := by
  obtain ⟨ht, ha, hb, he⟩ := hv
  simp only [gridWord, ht, vStart, ha, hb, hf, he]
  rw [← freed_vLand]
  rfl

end Sys2Proof.Machine
end

section
/-! SUPPORT. The spill words: a range in the allocation is moved, any other traps (R87, R235, R236). -/

namespace Sys2Proof.Machine

open Sys2Proof.Safety

/-! ### The range -/

theorem Ctx.spillBad_inside {c : Ctx} {o : BitVec 14} {n : Nat} (h : 8 * o.toNat + n ≤ 1024 * c.gran) :
    c.spillBad o n = none := if_neg (Nat.not_lt.mpr h)

theorem Ctx.spillBad_outside {c : Ctx} {o : BitVec 14} {n : Nat} (h : 1024 * c.gran < 8 * o.toNat + n) :
    c.spillBad o n = some ⟨13, BitVec.ofNat 64 (8 * o.toNat), 0⟩ := if_pos h

/-- The range is judged by the allocation alone. -/
@[simp] theorem Ctx.spillBad_popToks (c : Ctx) (st : Station) (p : Dep) (o : BitVec 14) (n : Nat) :
    (c.popToks st p).spillBad o n = c.spillBad o n := by
  simp only [Ctx.spillBad, Ctx.popToks_gran]

/-! ### SLD and SST -/

section

variable {p : Dep} {d : SReg} {o : BitVec 14} {s : State}

theorem execSld_trap {t : Trap} (hc : CanIssue p s) (hb : s.ctx.spillBad o 8 = some t) :
    execSld p d o s = .next (trapped s t) := by
  rw [execSld, sWord_ready hc (by simp)]
  simp only [State.withCtx_ctx, Ctx.spillBad_popToks, hb]
  exact finish_trap t s

theorem execSld_lands (hc : CanIssue p s) (hb : s.ctx.spillBad o 8 = none) : execSld p d o s =
    .next (landed s (.sld p d o) p d (s.ctx.spill.read64 (8 * o.toNat)) 0 1 (s.ctx.pc + 4)) := by
  rw [execSld, sWord_ready hc (by simp)]
  simp only [State.withCtx_ctx, Ctx.spillBad_popToks, hb, State.pc4, Ctx.popToks_spill,
    Ctx.popToks_pc]
  exact finish_landS ..

theorem execSst_trap {t : Trap} (hc : CanIssue p s) (hs : Settled [d] s) (hb : s.ctx.spillBad o 8 = some t) :
    execSst p d o s = .next (trapped s t) := by
  have he : s.earlyS [d] = none := hs
  rw [execSst, sWord_ready hc (by simp)]
  simp only [State.earlyS_popToks, he, State.withCtx_ctx, Ctx.spillBad_popToks, hb]
  exact finish_trap t s

theorem execSst_leaves (hc : CanIssue p s) (hs : Settled [d] s) (hb : s.ctx.spillBad o 8 = none) : execSst p d o s =
    .next (issued s { completed p (s.ctx.pc + 4) s.ctx with
      spillW := s.ctx.spillW ++ [(s.ctx.nextId, 8 * o.toNat, leBytes (s.ctx.reg d).toNat 8)] }) := by
  have he : s.earlyS [d] = none := hs
  rw [execSst, sWord_ready hc (by simp)]
  simp only [State.earlyS_popToks, he, State.withCtx_ctx, Ctx.spillBad_popToks, hb, Ctx.popToks_reg, Ctx.popToks_nextId]
  simp only [doneS, finish_done, State.completeS, State.retire, State.markS_eq, State.withCtx, State.pc4,
    Ctx.complete_spillPut, Ctx.popToks_spillW]
  simp only [completed, issued, Ctx.spillPut, Ctx.popToks_nextId, Ctx.popToks_pc,
    Ctx.complete_retired, Ctx.popToks_retired, Ctx.complete_nextId]
  rfl

end

/-! ### GSLD and GSST -/

section

variable {p : Dep} {n : BitVec 4} {o : BitVec 14} {s : State} {e : QEntry}

/-- A memory word that passes every check of its start leaves V. -/
theorem memStart_ok {i : Instr} {spec : Ctx → VSpec} {go : State → QEntry → MemOut} {s1 t : State}
    (hv : VFits (spec s.ctx) e s) (hg : go s e = .ok s1) (ht : s1.vDone (s1.ctx.vChecked s1.now e.id) = t) :
    memStart i spec go s = .next t := by
  obtain ⟨-, ha, hb, he⟩ := hv
  simp only [memStart, ha, hb, he, hg, ht]

theorem execGsst_leaves (hb : s.ctx.spillBad o 128 = none)
    (hv : VFits { fixedSrcs := [hRow n.toNat], useVt := false, useMask := false, keeps := false } e s) :
    execGsst p n o s = .next (vLeft s e
      ({ s.ctx.dropPend e.id with
          spillW := s.ctx.spillW ++ [(e.id, 8 * o.toNat,
            (s.ctx.readOp (hRow n.toNat)).flatMap fun (w : Word) => leBytes w.toNat 8)] }.complete .v e.id (pushesOf .v e.p))) := by
  have ht := hv.1
  simp only [execGsst, ht]
  refine memStart_ok hv (by simp only [hb]; rfl) ?_
  rfl

theorem Ctx.setWait_freed (c : Ctx) (b : Block) : (freed c .v).setWait b = freed (c.setWait b) .v := by
  have hh : (freed c .v).hwait = c.hwait := rfl
  rw [Ctx.setWait, Ctx.setWait, hh]
  split_ifs <;> rfl

/-- V may be set free before or after S's wait for its checks ends. -/
theorem Ctx.vChecked_freed (c : Ctx) (now id : Nat) : (freed c .v).vChecked now id = freed (c.vChecked now id) .v := by
  have hw : (freed c .v).waitNow = c.waitNow := rfl
  rw [Ctx.vChecked, Ctx.vChecked, hw]
  split_ifs
  · exact Ctx.setWait_freed { c with readyAt := now } .none
  · rfl

/-- V is free once a memory word's access is made. -/
theorem vDone_withCtx (s : State) (e : QEntry) (c : Ctx) :
    (s.withCtx c).vDone ((s.withCtx c).ctx.vChecked (s.withCtx c).now e.id) = vLeft s e (freed c .v) := by
  have hd : ∀ x : Ctx, (s.withCtx c).vDone x = vEnded s (freed x .v) := fun _ => rfl
  have hl : ∀ x : Ctx, vLeft s e x = vEnded s (freed (x.vChecked s.now e.id) .v) := fun _ => rfl
  have hf : ∀ x : Ctx, freed (freed x .v) .v = freed x .v := fun _ => rfl
  rw [hd, hl, Ctx.vChecked_freed, hf, State.withCtx_ctx, State.withCtx_now]

theorem execGsld_lands (hb : s.ctx.spillBad o 128 = none)
    (hv : VFits { fixedDsts := [hRow n.toNat], useVt := false, useMask := false, keeps := false } e s) :
    execGsld p n o s = .next (vLeft s e (performed s e none [hRow n.toNat] maskOnes 1
      (rawWrites (hRow n.toNat) ((List.range 16).map fun j => s.ctx.spill.read64 (8 * o.toNat + 8 * j)), 0))) := by
  have ht := hv.1
  simp only [execGsld, ht]
  refine memStart_ok hv (by simp only [hb]; rfl) ?_
  rw [vDone_withCtx, freed_vLand]
  rfl

end

/-! ### The end of the cycle -/

/-- One spill write, which no trap's entry was before (R87, R329). -/
theorem Ctx.flushSpill_single {c : Ctx} {id o : Nat} {bs : List Byte} (hw : c.spillW = [(id, o, bs)])
    (he : ∀ e, c.entry = some e → e.id ≤ id) :
    c.flushSpill = { c with spillW := [], spill := c.spill.writeBytes o bs } := by
  have hold : ∀ (d : Ctx) (f : Entry → Entry), d.entry = c.entry → d.older id f = d := by
    intro d f hd
    unfold Ctx.older
    cases h : d.entry with
    | none => rfl
    | some x => exact if_neg (Nat.not_lt.mpr (he x (hd ▸ h)))
  rw [Ctx.flushSpill, hw, List.foldl_cons, List.foldl_nil]
  exact hold _ _ rfl

/-- Settles O5: each word of S and of the grid, inside and outside the allocation, and the end of the cycle. -/
theorem spillWords : Obligations.SpillWords := by
  refine ⟨fun p d o s hc => ⟨fun hin => ?inside, fun hout => ?outside⟩, fun p n o s e hin => ?rows,
    fun c id o bs hw he => Ctx.flushSpill_single hw he⟩
  case inside =>
    have hb := Ctx.spillBad_inside hin
    have hl : exec (.sld p d o) s = execSld p d o s := rfl
    have hs : exec (.sst p d o) s = execSst p d o s := rfl
    exact ⟨hl.trans (execSld_lands hc hb), fun hd => hs.trans (execSst_leaves hc hd hb)⟩
  case outside =>
    have hb := Ctx.spillBad_outside hout
    have hl : exec (.sld p d o) s = execSld p d o s := rfl
    have hs : exec (.sst p d o) s = execSst p d o s := rfl
    exact ⟨hl.trans (execSld_trap hc hb), fun hd => hs.trans (execSst_trap hc hd hb)⟩
  case rows =>
    have hb := Ctx.spillBad_inside hin
    have hl : exec (.gsld p n o) s = execGsld p n o s := rfl
    have hs : exec (.gsst p n o) s = execGsst p n o s := rfl
    exact ⟨fun hv => hl.trans (execGsld_lands hb hv), fun hv => hs.trans (execGsst_leaves hb hv)⟩

end Sys2Proof.Machine
end

section
/-! SUPPORT. The elements that the grid words compute (R11, R14, R262 to R287). -/

namespace Sys2Proof.Machine

open Sys2Proof.Safety

/-! ### Elements -/

theorem perVec_eq_sixteen_mul (t : Nat) : perVec t = 16 * perCell t := by
  unfold perVec perCell tyWidth
  split <;> rfl

theorem tyWidth_pos (t : Nat) : 0 < tyWidth t := by
  unfold tyWidth
  split <;> decide

theorem length_elems (t : Nat) (ws : List Word) : (elems t ws).length = ws.length * perCell t := by
  simp [elems, cellElems, List.length_flatMap]

theorem length_elems_readOp (t : Nat) (c : Ctx) (g : GOp) : (elems t (c.readOp g)).length = perVec t := by
  simp [length_elems, Ctx.readOp, gCells, perVec_eq_sixteen_mul]

theorem lt_of_mem_elems {t x : Nat} {ws : List Word} (h : x ∈ elems t ws) : x < 2 ^ tyWidth t := by
  simp only [elems, cellElems, List.mem_flatMap, List.mem_map] at h
  obtain ⟨w, -, k, -, rfl⟩ := h
  exact Nat.mod_lt _ (Nat.two_pow_pos _)

theorem nthD_elems_lt (t : Nat) (ws : List Word) (j : Nat) : nthD (elems t ws) j 0 < 2 ^ tyWidth t := by
  unfold nthD
  cases h : (elems t ws)[j]? with
  | none => exact Nat.two_pow_pos _
  | some x => exact lt_of_mem_elems (List.mem_of_getElem? h)

theorem el_lt (c : Ctx) (e : QEntry) (g : GOp) (j : Nat) : el c e g j < 2 ^ tyWidth c.t := nthD_elems_lt ..

/-- Element k of two operands one after the other (R272). -/
theorem nthD_elems_append (c : Ctx) (t : Nat) (g h : GOp) (k : Nat) :
    nthD (elems t (c.readOp g ++ c.readOp h)) k 0 =
      if k < perVec t then rawEl c t g k else rawEl c t h (k - perVec t) := by
  have hl := length_elems_readOp t c g
  rw [elems, List.flatMap_append, nthD, List.getElem?_append]
  simp only [← elems.eq_def, hl, rawEl, nthD]
  split_ifs <;> rfl

/-- The lanes of two operands, each with its place. -/
theorem lanes2_mapIdx {β : Type} (t : Nat) (c : Ctx) (a b : GOp) (f : Nat → Nat × Nat → β) :
    (lanes2 t c a b).mapIdx f = (List.range (perVec t)).map fun j => f j (rawEl c t a j, rawEl c t b j) := by
  have ha := length_elems_readOp t c a
  have hb := length_elems_readOp t c b
  refine List.ext_getElem (by simp [lanes2, ha, hb]) fun j h1 h2 => ?_
  have hj : j < perVec t := by simpa using h2
  simp [lanes2, rawEl, nthD, ha, hb, hj]

/-! ### Numbers of an element's width -/

theorem wrapEl_natCast (c : Ctx) (n : Nat) : wrapEl c n = n % 2 ^ tyWidth c.t := by
  rw [wrapEl, ← Int.natCast_emod, Int.toNat_natCast]

theorem wrapEl_sub (c : Ctx) {x y : Nat} (h : y < 2 ^ tyWidth c.t) :
    wrapEl c ((x : Int) - y) = (x + 2 ^ tyWidth c.t - y) % 2 ^ tyWidth c.t := by
  rw [← wrapEl_natCast, Nat.cast_sub (by omega), Nat.cast_add, wrapEl, wrapEl, add_sub_right_comm, Int.add_emod_right]

/-- A number read as signed and written back is itself (R11). -/
theorem wrapEl_sg (c : Ctx) {x : Nat} (h : x < 2 ^ tyWidth c.t) : wrapEl c (sg c x) = x := by
  have hx := wrapEl_natCast c x
  rw [Nat.mod_eq_of_lt h] at hx
  unfold sg sInt
  rw [Nat.mod_eq_of_lt h]
  split_ifs
  · exact hx
  · rw [wrapEl, Int.sub_emod_right]
    exact hx

/-- Saturation to the type's signed range (R268). -/
theorem clampS_eq_satEl (c : Ctx) (n : Int) : clampS (tyWidth c.t) n = satEl c n := by
  have hp : (0 : Int) < 2 ^ (tyWidth c.t - 1) := by positivity
  unfold clampS satEl
  push_cast
  generalize (2 : Int) ^ (tyWidth c.t - 1) = m at hp ⊢
  rw [max_def, min_def]
  split_ifs <;> omega

/-- The sign bit cleared (R265). -/
theorem mod_two_pow_pred {w x : Nat} (hw : 0 < w) (h : x < 2 ^ w) :
    x % 2 ^ (w - 1) = if 2 ^ (w - 1) ≤ x then x - 2 ^ (w - 1) else x := by
  obtain ⟨n, rfl⟩ : ∃ n, w = n + 1 := ⟨w - 1, by omega⟩
  rw [pow_succ] at h
  rw [Nat.add_sub_cancel]
  split_ifs with hx
  · rw [Nat.mod_eq_sub_mod hx, Nat.mod_eq_of_lt (by omega)]
  · exact Nat.mod_eq_of_lt (by omega)

/-- The sign bit inverted (R265). -/
theorem xor_two_pow_pred {w x : Nat} (hw : 0 < w) (h : x < 2 ^ w) :
    Nat.xor x (2 ^ (w - 1)) = if 2 ^ (w - 1) ≤ x then x - 2 ^ (w - 1) else x + 2 ^ (w - 1) := by
  obtain ⟨n, rfl⟩ : ∃ n, w = n + 1 := ⟨w - 1, by omega⟩
  rw [pow_succ] at h
  rw [Nat.add_sub_cancel]
  change x ^^^ 2 ^ n = _
  have hpos := Nat.two_pow_pos n
  have hm : (x ^^^ 2 ^ n) % 2 ^ n = x % 2 ^ n := by rw [Nat.xor_mod_two_pow, Nat.mod_self, Nat.xor_zero]
  have hd : (x ^^^ 2 ^ n) / 2 ^ n = x / 2 ^ n ^^^ 1 := by rw [Nat.xor_div_two_pow, Nat.div_self hpos]
  rw [← Nat.div_add_mod (x ^^^ 2 ^ n) (2 ^ n), hm, hd]
  split_ifs with hx
  · have h1 : x / 2 ^ n = 1 := by rw [Nat.div_eq_iff hpos]; omega
    have h2 := Nat.div_add_mod x (2 ^ n)
    rw [h1] at h2 ⊢
    simp; omega
  · rw [Nat.div_eq_of_lt (by omega), Nat.mod_eq_of_lt (by omega)]
    simp [Nat.add_comm]

/-! ### Masks -/

/-- The n low bits of a mask (R14). -/
theorem maskLow_eq_bitsBelow (n : Nat) (m : BitVec 256) : maskLow n m = bitsBelow n fun j => m.getLsbD j := by
  refine BitVec.eq_of_getLsbD_eq fun i hi => ?_
  rw [maskLow, bitsBelow, BitVec.getLsbD_setWidth, BitVec.getLsbD_and, BitVec.getLsbD_ofNat, Nat.testBit_two_pow_sub_one,
    BitVec.getLsbD_ofBoolListLE]
  simp [hi, Bool.and_comm]

theorem bitsBelow_congr {n : Nat} {f g : Nat → Bool} (h : ∀ j < 256, f j = g j) : bitsBelow n f = bitsBelow n g := by
  have hm : ((List.range 256).map fun j => decide (j < n) && f j) = (List.range 256).map fun j => decide (j < n) && g j :=
    List.map_congr_left fun j hj => by rw [h j (List.mem_range.mp hj)]
  rw [bitsBelow, bitsBelow, hm]

end Sys2Proof.Machine
end

section
/-! SUPPORT. Each family of grid words performs what its row says (R262 to R287). -/

namespace Sys2Proof.Machine

open Sys2Proof.Safety

/-- A started grid word ends as its row says. -/
def Performs (x : Res) (r : VRow) (s : State) (e : QEntry) : Prop := x = .next (vEnded s (r.performed s e))

variable {i : Instr} {p : Dep} {s : State} {e : QEntry} {lat : Nat}

theorem gridWord_performs {spec : Ctx → VSpec} {f : Ctx → QEntry → VOut} {r : VRow} (hv : VFits r.spec e s)
    (hs : spec s.ctx = r.spec) (hl : lat = r.lat) (hf : f s.ctx e = .ok r.out.1 r.out.2) :
    Performs (gridWord i p spec lat f s) r s e := by
  rw [Performs, gridWord_performed (hs ▸ hv) hf, hs, hl]
  rfl

/-- The type of a word that passes its checks is one that it has (R31). -/
theorem VSpec.types_of_bad {sp : VSpec} {c : Ctx} (h : sp.bad c e = none) : sp.types c.t = true := by
  unfold VSpec.bad at h
  split_ifs at h with _ _ _ ht
  simpa only [Ctx.t, Bool.not_eq_true', Bool.not_eq_false] using ht

/-! ### Element by element -/

theorem elemWord_performs {g : GOp} {srcs : List GOp} {addend : Bool} {types : Nat → Bool}
    {f : Nat → Rnd → Bool → List Nat → Nat × Fl} {h : Nat → Nat × Fl}
    (hv : VFits { srcs := srcs, dst := some g, addend := addend, types := types } e s)
    (hf : ∀ j, f s.ctx.t s.ctx.m s.ctx.ftz ((srcs ++ if addend then [g] else []).map fun o => el s.ctx e o j) = h j) :
    Performs (elemWord i p g srcs addend types lat f s)
      { spec := { srcs := srcs, dst := some g, addend := addend, types := types }, lat := lat, out := masked s.ctx g h }
      s e := by
  refine gridWord_performs hv rfl rfl ?_
  simp only [masked, ← hf, List.map_map]
  rfl

/-- An integer word, on elements of the type's width (R268, R269). -/
theorem intWord_performs {g a b : GOp} {f : Nat → Nat → Nat → Nat} {h : Nat → Nat → Nat}
    (hv : VFits { srcs := [a, b], dst := some g, types := isInt } e s)
    (hf : ∀ x y, x < 2 ^ tyWidth s.ctx.t → y < 2 ^ tyWidth s.ctx.t → f (tyWidth s.ctx.t) x y = h x y) :
    Performs (intWord i p g a b lat f s) (vi2 g a b isInt lat s.ctx e h) s e :=
  elemWord_performs hv fun j => Prod.ext (hf _ _ (el_lt s.ctx e a j) (el_lt s.ctx e b j)) rfl

/-- A bitwise word, on elements of any type (R269). -/
theorem bitWord_performs {g a b : GOp} {f : Nat → Nat → Nat} (hv : VFits { srcs := [a, b], dst := some g, types := tyAny } e s) :
    Performs (bitWord i p g a b f s) (vi2 g a b tyAny 1 s.ctx e f) s e :=
  elemWord_performs hv fun _ => rfl

/-- A word that moves elements, each from the place that the pattern names (R272 to R274). -/
theorem moveWord_performs {g a : GOp} {f : Nat → Nat → Option Nat} {h : Nat → Nat}
    (hv : VFits { srcs := [a], dst := some g } e s)
    (hf : ∀ j, (f (perVec s.ctx.t) j).elim 0 (el s.ctx e a) = h j) :
    Performs (moveWord i p g a lat f s)
      { spec := { srcs := [a], dst := some g }, lat := lat, out := moved s.ctx g h } s e := by
  refine gridWord_performs hv rfl rfl ?_
  simp only [moved]
  congr 3
  refine List.map_congr_left fun j _ => (Eq.trans ?_ (hf j))
  cases f (perVec s.ctx.t) j <;> rfl

/-- A mask word writes its one result (R271). -/
theorem maskWord_performs {ms : List MReg} {f : Nat → Ctx → Wr} {w : Wr}
    (hv : VFits { masks := ms, useMask := false, keeps := false } e s) (hf : f (perVec s.ctx.t) s.ctx = w) :
    Performs (maskWord i p ms lat f s) (vmask ms lat w) s e :=
  gridWord_performs hv rfl rfl (by rw [hf]; rfl)

/-! ### Reductions -/

theorem isFloat_of_tyVrd {t : Nat} (h : tyVrd t = true) : isFloat t = decide (t < 4) := by
  have : t < 4 ∨ 7 ≤ t := by
    simp only [tyVrd, tyVfa, isInt, Bool.or_eq_true, Bool.and_eq_true, decide_eq_true_eq] at h
    omega
  rw [isFloat, decide_eq_decide]
  omega

/-- The result of a reduction: the only active element, or the tree's (R277). -/
theorem redWord_performs {g a : GOp} {f : Nat → Rnd → Bool → Nat → Nat → Nat × Fl} {h : Nat → Nat → Nat × Fl}
    (hv : VFits { srcs := [a], dst := some g, types := tyVrd, keeps := false, whole := true } e s)
    (hf : isFloat s.ctx.t = decide (s.ctx.t < 4) → f s.ctx.t s.ctx.m s.ctx.ftz = h) :
    Performs (redWord i p g a lat f s) (vred g a lat s.ctx e h) s e := by
  have ht : isFloat s.ctx.t = decide (s.ctx.t < 4) := isFloat_of_tyVrd (VSpec.types_of_bad hv.2.2.1)
  refine gridWord_performs hv rfl rfl ?_
  have hel : ∀ j, nthD (elems s.ctx.t (s.ctx.src e a)) j 0 = el s.ctx e a j := fun _ => rfl
  simp only [vred, ← hf ht, hel]
  rcases hl : (List.range (perVec s.ctx.t)).filter (fun j => s.ctx.vtMask.getLsbD j) with _ | ⟨j, _ | ⟨k, l⟩⟩
  · rfl
  · simp only [List.length_singleton, ↓reduceIte, List.headD_cons, redLone, ht, decide_eq_true_eq]
    split_ifs
    · cases decFloat s.ctx.t (el s.ctx e a j) <;> rfl
    · rfl
  · rfl

/-! ### Pairs -/

/-- A word that writes a pair lane by lane (R279). -/
theorem pairWord_performs {g : PairOp} {srcs os : List GOp} {addend : Bool} {f : Nat → Rnd → List Nat → Nat × Nat × Fl}
    {h : Nat → Nat × Nat × Fl} (ho : (srcs ++ if addend then [pairLo g] else []) = os)
    (hv : VFits { fixedSrcs := os, fixedDsts := two g, keeps := false, keepsFixed := true, types := tyPair } e s)
    (hf : ∀ j, f s.ctx.t s.ctx.m (os.map fun o => rawEl s.ctx s.ctx.t o j) = h j) :
    Performs (pairWord i p g srcs addend lat f s) (vpair g os lat s.ctx h) s e := by
  subst ho
  refine gridWord_performs hv rfl rfl ?_
  simp only [vpair, ← hf, List.map_map]
  rfl

/-- A double-word word reads the four halves of its two pairs (R285). -/
theorem dwWord_performs {g a b : PairOp} {f : Nat → Nat → Nat → Nat → Nat → Nat × Nat × Fl}
    (hv : VFits { fixedSrcs := two a ++ two b, fixedDsts := two g, keeps := false, keepsFixed := true, types := tyPair } e s) :
    Performs (dwWord i p g a b lat f s) (vpair g (two a ++ two b) lat s.ctx fun j =>
      f s.ctx.t (Safety.lane s.ctx a j).1 (Safety.lane s.ctx a j).2 (Safety.lane s.ctx b j).1 (Safety.lane s.ctx b j).2) s e :=
  pairWord_performs rfl hv fun _ => rfl

end Sys2Proof.Machine
end

section
/-! SUPPORT. The grid words that compute or move elements of V land what their rows say (R262 to R287). -/

namespace Sys2Proof.Machine

open Sys2Proof.Safety

variable {p : Dep} {s : State} {e : QEntry}

/-! ### Words of no family -/

/-- VCFG with a type and a mode that exist (R16, R264). -/
theorem performs_vcfg {i : BitVec 10} (hv : VFits { useVt := false, useMask := false, keeps := false } e s)
    (hi : i.toNat % 16 < 12 ∧ i.toNat / 128 < 5) :
    Performs (execVcfg p i s)
      { spec := { useVt := false, useMask := false, keeps := false }, lat := 1,
        fits := i.toNat % 16 < 12 ∧ i.toNat / 128 < 5, out := ([.vt (BitVec.ofNat 12 i.toNat)], 0) } s e := by
  have hn : ¬ (12 ≤ (i.extractLsb' 0 4).toNat ∨ 5 ≤ (i.extractLsb' 7 3).toNat) := by
    simp only [BitVec.extractLsb'_toNat, Nat.shiftRight_eq_div_pow]
    omega
  have hz : i.zeroExtend 12 = BitVec.ofNat 12 i.toNat := (BitVec.ofNat_toNat ..).symm
  exact gridWord_performs hv rfl rfl ((if_neg hn).trans (by rw [hz]))

/-- VINS of an element that the vector has (R275). -/
theorem performs_vins {r : VRow} {g : GOp} {a b : SReg} (hr : vRow s.ctx e (.vins p g a b) = some r) (hv : VFits r.spec e s)
    (hi : r.fits) : Performs (execVins p g a b s) r s e := by
  cases hr
  have hp : BitVec.ofNat 256 (2 ^ e.y.toNat) = BitVec.twoPow 256 e.y.toNat :=
    BitVec.eq_of_toNat_eq (by rw [BitVec.toNat_ofNat, BitVec.toNat_twoPow])
  exact gridWord_performs hv rfl rfl ((if_neg (Nat.not_le.mpr hi)).trans (by rw [hp]))

theorem performs_vcvt {r : VRow} {g a : GOp} {ty : BitVec 4} (hr : vRow s.ctx e (.vcvt p g a ty) = some r)
    (hv : VFits r.spec e s) (hi : r.fits) : Performs (execVcvt p g a ty s) r s e := by
  cases hr
  obtain ⟨hty, hw⟩ : ty.toNat < 12 ∧ tyWidth ty.toNat = tyWidth s.ctx.t := hi
  exact gridWord_performs hv rfl rfl (if_neg (by omega))

theorem performs_vpack {r : VRow} {g a : GOp} {ty : BitVec 4} (hr : vRow s.ctx e (.vpack p g a ty) = some r)
    (hv : VFits r.spec e s) (hi : r.fits) : Performs (execVpack p g a ty s) r s e := by
  cases hr
  obtain ⟨hty, hw, hn⟩ : ty.toNat < 12 ∧ tyWidth s.ctx.t < tyWidth ty.toNat ∧
    gIdx a + tyWidth ty.toNat / tyWidth s.ctx.t ≤ 16 := hi
  exact gridWord_performs hv rfl rfl (if_neg (by omega))

/-- A type wider than the source's fills at least one operand (R276). -/
theorem widenRows_eq_div {t : Nat} {ty : BitVec 4} (h : ty.toNat < 12) (hw : tyWidth ty.toNat < tyWidth t) :
    widenRows t ty = tyWidth t / tyWidth ty.toNat := by
  rw [widenRows, if_neg (by omega)]
  exact Nat.max_eq_right (Nat.div_pos hw.le (tyWidth_pos _))

theorem performs_vwiden {r : VRow} {g a : GOp} {ty : BitVec 4} (hr : vRow s.ctx e (.vwiden p g a ty) = some r)
    (hv : VFits r.spec e s) (hi : r.fits) : Performs (execVwiden p g a ty s) r s e := by
  cases hr
  obtain ⟨hty, hw, hn⟩ : ty.toNat < 12 ∧ tyWidth ty.toNat < tyWidth s.ctx.t ∧
    gIdx g + tyWidth s.ctx.t / tyWidth ty.toNat ≤ 16 := hi
  exact gridWord_performs hv (by rw [widenRows_eq_div hty hw]; rfl) rfl (if_neg (by omega))

theorem shufFrom_eq_shuffled (k : Shuf) (n j : Nat) : shufFrom k n j = shuffled k n j := by
  cases k <;> simp only [shufFrom, shuffled]
  case swap => split_ifs <;> omega
  case zip => split_ifs <;> omega
  case unzip => split_ifs <;> omega

/-- Settles O10: each word lands the elements, the mask or the pair of its row. -/
theorem gridWordsPerform : Obligations.GridWordsPerform := by
  intro i s e r hr hv hi
  change Performs (exec i s) r s e
  cases i
  case vins => exact performs_vins hr hv hi
  case vcvt => exact performs_vcvt hr hv hi
  case vpack => exact performs_vpack hr hv hi
  case vwiden => exact performs_vwiden hr hv hi
  all_goals cases hr
  all_goals dsimp only [exec]
  case vcfg => exact performs_vcfg hv hi
  case vfadd | vfsub | vfmul | vfma | vfms | vfnma | vfdiv | vfsqrt | vfmin | vfmax =>
    exact elemWord_performs hv fun _ => rfl
  case vand | vor | vxor => exact bitWord_performs hv
  case vfabs _ _ a =>
    exact elemWord_performs hv fun j => Prod.ext (mod_two_pow_pred (tyWidth_pos _) (el_lt s.ctx e a j)) rfl
  case vfneg _ _ a =>
    exact elemWord_performs hv fun j => Prod.ext (xor_two_pow_pred (tyWidth_pos _) (el_lt s.ctx e a j)) rfl
  case vadd => exact intWord_performs hv fun x y _ _ => (wrapEl_natCast s.ctx (x + y)).symm
  case vmul => exact intWord_performs hv fun x y _ _ => (wrapEl_natCast s.ctx (x * y)).symm
  case vsll => exact intWord_performs hv fun x k _ _ => (wrapEl_natCast s.ctx (x * 2 ^ (k % tyWidth s.ctx.t))).symm
  case vsub => exact intWord_performs hv fun x y _ hy => (wrapEl_sub s.ctx hy).symm
  case vmulh | vsrl | vsra => exact intWord_performs hv fun _ _ _ _ => rfl
  case vmin =>
    exact intWord_performs hv fun x y hx hy => by
      rw [min_def, apply_ite (wrapEl s.ctx), wrapEl_sg s.ctx hx, wrapEl_sg s.ctx hy]; rfl
  case vmax =>
    exact intWord_performs hv fun x y hx hy => by
      rw [max_comm, max_def, apply_ite (wrapEl s.ctx), wrapEl_sg s.ctx hx, wrapEl_sg s.ctx hy]; rfl
  case vminu => exact intWord_performs hv fun x y _ _ => (min_def x y).symm
  case vmaxu => exact intWord_performs hv fun x y _ _ => ((max_comm x y).trans (max_def y x)).symm
  case vadds => exact intWord_performs hv fun _ _ _ _ => congrArg (wrapEl s.ctx) (clampS_eq_satEl s.ctx _)
  case vsubs => exact intWord_performs hv fun _ _ _ _ => congrArg (wrapEl s.ctx) (clampS_eq_satEl s.ctx _)
  case vcmpeq | vcmplt | vcmple | vperm => exact gridWord_performs hv rfl rfl rfl
  case mand =>
    exact maskWord_performs hv (congrArg _ ((maskLow_eq_bitsBelow _ _).trans
      (bitsBelow_congr fun _ _ => BitVec.getLsbD_and)))
  case mor =>
    exact maskWord_performs hv (congrArg _ ((maskLow_eq_bitsBelow _ _).trans
      (bitsBelow_congr fun _ _ => BitVec.getLsbD_or)))
  case mnot =>
    exact maskWord_performs hv (congrArg _ ((maskLow_eq_bitsBelow _ _).trans
      (bitsBelow_congr fun j hj => by simp [hj])))
  case mpopc => exact maskWord_performs hv (congrArg _ (congrArg _ List.countP_eq_length_filter.symm))
  case vperm2 => exact gridWord_performs hv rfl rfl (by simp only [moved, nthD_elems_append]; rfl)
  case vshuf => exact moveWord_performs hv fun j => congrArg (el s.ctx e _) (shufFrom_eq_shuffled _ _ j)
  case vslide => exact moveWord_performs hv fun j => by dsimp only; split_ifs <;> rfl
  case vmov => exact moveWord_performs hv fun _ => rfl
  case vsplat => exact gridWord_performs hv rfl rfl (by simp only [moved, List.map_const', List.length_range])
  case vredsum =>
    exact redWord_performs hv fun ht => funext₂ fun x y => by
      simp only [ht, decide_eq_true_eq, ← Nat.cast_add, wrapEl_natCast]
  case vredmax | vredmin =>
    exact redWord_performs hv fun ht => funext₂ fun x y => by
      simp only [ht, decide_eq_true_eq]
      rfl
  case xadd | xsub | xmul | xfma | dwnorm => exact pairWord_performs rfl hv fun _ => rfl
  case dwadd | dwsub | dwmul => exact dwWord_performs hv
  case xred => exact gridWord_performs hv rfl rfl (by simp only [lanes2_mapIdx]; rfl)
  case dwrnd => exact gridWord_performs hv rfl rfl (by simp only [masked, lanes2_mapIdx]; rfl)

end Sys2Proof.Machine
end

section
/-! SUPPORT. The words that complete as they retire (R98, R100, R229, R251, R252, R328). -/

namespace Sys2Proof.Machine

open Sys2Proof.Safety

/-! ### Tokens beside a capability register -/

theorem Ctx.setCap_setTok (c : Ctx) (n : BitVec 3) (v : Word) (q k : Nat) :
    (c.setCap n v).setTok q k = (c.setTok q k).setCap n v := by
  unfold Ctx.setTok
  split <;> rfl

theorem Ctx.setCap_push1 (c : Ctx) (n : BitVec 3) (v : Word) (st : Station) (q : Nat) :
    (c.setCap n v).push1 st q = (c.push1 st q).setCap n v := by
  unfold Ctx.push1
  rw [Ctx.setCap_setTok, show (c.setCap n v).tok q = c.tok q from rfl]
  split <;> rfl

/-- A written capability register and popped tokens do not meet. -/
theorem Ctx.setCap_popToks (c : Ctx) (n : BitVec 3) (v : Word) (st : Station) (p : Dep) :
    (c.setCap n v).popToks st p = (c.popToks st p).setCap n v := by
  have hset : ∀ l : List Nat, l.foldl (fun c q => c.setTok q (c.tok q - 1)) (c.setCap n v) =
      (l.foldl (fun c q => c.setTok q (c.tok q - 1)) c).setCap n v := fun l =>
    List.foldl_hom (Ctx.setCap · n v) fun d q => d.setCap_setTok n v q _
  have hsettle : ∀ d : Ctx, (d.setCap n v).settle = d.settle.setCap n v := fun d =>
    List.foldl_hom (Ctx.setCap · n v) (init := { d with owed := [] }) fun x o => x.setCap_push1 n v o.1 o.2
  unfold Ctx.popToks
  split
  · rfl
  · rw [hset, hsettle]

/-! ### The condition of each word -/

/-- A word that waits retires where its condition holds (R98, R100, R251). -/
theorem waitWord_completes {i : Instr} {p : Dep} {ready rs : State → Bool} {s : State} (hc : CanIssue p s)
    (hr : ready (popped p s) = true) :
    waitWord i p ready rs s = .next (issued s (completed p (s.ctx.pc + 4) s.ctx)) := by
  rw [waitWord, sWord_ready hc (by simp)]
  exact (congrArg (Body.finish · s) (if_pos hr)).trans (finish_doneS p s s)

/-- What an XFENCE waits for (R100). -/
theorem State.fencePath_eq (s : State) (x y : Path) : s.fencePath x y =
    if x = .ho ∨ x = .hs then s.pathQuiet y
    else if x = y ∧ (x = .cp ∨ x = .mt ∨ x = .md ∨ x = .rl) then true else s.pathQuiet x := by
  cases x <;> cases y <;> rfl

theorem thrOf_eq_threshold (c : BitVec 3) : thrOf c = threshold c := by
  revert c
  decide

/-- A word that reads its sources and completes (R252, R328). -/
theorem readWord_completes {i : Instr} {p : Dep} {np : Bool} {l : List SReg} {f : State → State} {s : State}
    (hc : CanIssue p s) (hp : np = true → s.ctx.priv = true) (hs : Settled l s) :
    sWord i p np s (fun t => match t.earlyS l with
      | some e => .trap (earlyTrap e)
      | none => doneS (f t) p) = (doneS (f (popped p s)) p).finish s := by
  have he : (s.withCtx (s.ctx.popToks .s p)).earlyS l = none := (State.earlyS_popToks ..).trans hs
  rw [sWord_ready hc hp, he]
  rfl

/-- A capability register is written as the word completes (R328). -/
theorem finish_setCap (p : Dep) (n : BitVec 3) (v : Word) (s s0 : State) :
    (doneS ((popped p s).withCtx ((popped p s).ctx.setCap n v)) p).finish s0 =
      .next (issued s (completed p (s.ctx.pc + 4) (s.ctx.setCap n v))) := by
  have h : (popped p s).withCtx ((popped p s).ctx.setCap n v) = popped p (s.withCtx (s.ctx.setCap n v)) := by
    rw [popped_ctx, ← Ctx.setCap_popToks]
    rfl
  rw [h, finish_doneS]
  rfl

/-- Settles O6: each word is one that waits, one that only reads, or one that writes a capability register. -/
theorem wordsThatComplete : Obligations.WordsThatComplete := by
  intro i r s hi hc hp hs hr
  cases i <;> cases hi <;> dsimp only [exec, id] at hc hp hs hr ⊢
  case nop p =>
    rw [execNop, sWord_ready hc hp]
    exact finish_doneS p s s
  case pref => exact (readWord_completes (f := id) hc hp hs).trans (finish_doneS _ s s)
  case fence => exact waitWord_completes (ready := fun t => t.ctx.lsQuiet) hc hr
  case xfence p x y =>
    exact waitWord_completes (ready := fun t => t.fencePath x y) hc ((State.fencePath_eq ..).trans hr)
  case waitc =>
    refine waitWord_completes hc ?_
    simpa [thrOf_eq_threshold, and_assoc] using hr
  case capld p a n =>
    refine (readWord_completes (f := fun t => t.withCtx (t.ctx.setCap n (t.ctx.reg a))) hc hp hs).trans ?_
    rw [finish_setCap, popped_ctx, Ctx.popToks_reg]
    rfl
  case capclr p n =>
    rw [execCapclr, sWord_ready hc hp]
    exact finish_setCap p n 0 s s

end Sys2Proof.Machine
end

section
/-! SUPPORT. The memory words of S that pass their checks leave S (R92, R240 to R247). -/

namespace Sys2Proof.Machine

open Sys2Proof.Safety

/-! ### Loads, atomics and full-empty loads -/

/-- What a row's word does with its access once S has popped its tokens: `k` says how it leaves S. -/
def loadBody (i : Instr) (r : LRow) (k : State → State) (s : State) : Body :=
  s.access (r.addr s) r.size r.size r.want r.win fun acc =>
    .done (k (s.issueLoad i r.p r.d (r.x s) (r.y s) [acc] (r.act s acc) r.acq r.rel)) s.pc4

/-- Nothing of a row depends on the tokens. -/
def NoTokens (r : LRow) (s : State) : Prop :=
  r.addr (popped r.p s) = r.addr s ∧ r.x (popped r.p s) = r.x s ∧ r.y (popped r.p s) = r.y s ∧
    r.act (popped r.p s) = r.act s

theorem loadRow_noTokens {i : Instr} {r : LRow} (h : loadRow i = some r) (s : State) : NoTokens r s := by
  cases i <;> cases h
  case lb | lbu | lh | lhu | lw | lwu | ld | fepoll => exact ⟨scaled_popped .., rfl, rfl, rfl⟩
  case lda => exact ⟨Ctx.popToks_reg .., rfl, rfl, rfl⟩
  case amoadd | amoand | amoor | amoxor | amomin | amomax | amoswap | amocas =>
    simp [NoTokens, amoRow]

theorem lfeRow_noTokens {i : Instr} {r : LRow} (h : lfeRow i = some r) (s : State) : NoTokens r s := by
  cases i <;> cases h
  case lfe | lfec => exact ⟨scaled_popped .., rfl, rfl, rfl⟩

/-- A word whose access passes its checks leaves S as its row says. -/
theorem loadBody_passes {i : Instr} {r : LRow} {k : State → State} {s : State} {acc : Acc} (hn : NoTokens r s)
    (ha : s.chkS (r.addr s) r.size r.size r.want r.win 0 = .ok acc) :
    loadBody i r k (popped r.p s) = .done (k ((popped r.p s).issueLoad i r.p r.d (r.x s) (r.y s) [acc] (r.act s acc) r.acq r.rel))
      (popped r.p s).pc4 := by
  obtain ⟨haddr, hx, hy, hact⟩ := hn
  rw [loadBody, haddr, State.access_ok ((s.chkS_popped ..).trans ha), hx, hy, hact]

theorem loadWord_eq (i : Instr) (p : Dep) (d a : SReg) (o : BitVec 9) (n : Nat) (sgn : Bool) (s : State) :
    loadWord i p d a o n sgn s = lsWord i p .lc [a] (loadBody i (ldRow p d a o n sgn) id) s := by
  simp only [loadWord, State.ea_eq_scaled]
  rfl

theorem lfeWord_eq (i : Instr) (p : Dep) (d a : SReg) (o : BitVec 9) (clear : Bool) (s : State) :
    lfeWord i p d a o clear s = lsWord i p .lc [a] (loadBody i ⟨p, d, [a], fun s => scaled s a 8 o, 8, .read, .spadOnly,
      fun _ _ => .lfe clear d, true, false, fun _ => 0, fun _ => 0⟩ State.holdFor) s := by
  simp only [lfeWord, State.ea_eq_scaled]
  rfl

theorem exec_loadRow {i : Instr} {r : LRow} (h : loadRow i = some r) (s : State) :
    exec i s = lsWord i r.p .lc r.srcs (loadBody i r id) s := by
  cases i <;> cases h
  case lb | lbu | lh | lhu | lw | lwu | ld => exact loadWord_eq ..
  case fepoll =>
    dsimp only [exec]
    simp only [execFepoll, State.ea_eq_scaled]
    rfl
  case lda | amoadd | amoand | amoor | amoxor | amomin | amomax | amoswap | amocas => rfl

theorem exec_lfeRow {i : Instr} {r : LRow} (h : lfeRow i = some r) (s : State) :
    exec i s = lsWord i r.p .lc r.srcs (loadBody i r State.holdFor) s := by
  cases i <;> cases h
  case lfe | lfec => exact lfeWord_eq ..

/-- A word that counts in lc and holds its context until it lands (R79, R246). -/
theorem finish_issueLoad_holdFor {i : Instr} {r : LRow} {acc : Acc} {s s0 : State} :
    (Body.done ((popped r.p s).issueLoad i r.p r.d (r.x s) (r.y s) [acc] (r.act s acc) r.acq r.rel).holdFor
      (popped r.p s).pc4).finish s0 = .next (loadAwaited s i r acc) := by
  rw [finish_done, State.issueLoad, State.delay_eq]
  simp only [State.holdFor, State.retire, State.withCtx, State.pc4, State.markS_eq, loadAwaited, outgoing, arrival, retired,
    issued, delayed, popped, Ctx.incCtr, Ctx.setCtr, Ctx.ctr, Ctx.popToks_nextId, Ctx.popToks_pc, Ctx.popToks_retired,
    Ctx.popToks_pend, Ctx.popToks_lc, Pend.mk0, dstS]

/-- Settles O7: each word is an LS word that makes its row's access and leaves S with it. -/
theorem loadsLeaveS : Obligations.LoadsLeaveS := by
  refine ⟨fun i r s acc hi hc hs ho ha => ?_, fun i r s acc hi hc hs ho ha => ?_⟩
  · rw [exec_loadRow hi, lsWord_open hc ho hs, loadBody_passes (loadRow_noTokens hi s) ha]
    exact finish_issueLoad
  · rw [exec_lfeRow hi, lsWord_open hc ho hs, loadBody_passes (lfeRow_noTokens hi s) ha]
    exact finish_issueLoad_holdFor

/-! ### Stores -/

/-- What a row's word does with its access once S has popped its tokens. -/
def storeBody (i : Instr) (r : TRow) (s : State) : Body :=
  s.access (r.addr s) r.size r.size .write r.win fun acc =>
    .done (s.issueStore i r.p (r.val s) [⟨acc, BitVec.ofNat 64 (2 ^ (8 * r.size) - 1), r.val s⟩] (r.kind acc) r.rel) s.pc4

theorem storeRow_noTokens {i : Instr} {r : TRow} (h : storeRow i = some r) (s : State) :
    r.addr (popped r.p s) = r.addr s ∧ r.val (popped r.p s) = r.val s := by
  cases i <;> cases h
  case sb | sh | sw | sd | sfe => exact ⟨scaled_popped .., Ctx.popToks_reg ..⟩
  case stl => exact ⟨Ctx.popToks_reg .., Ctx.popToks_reg ..⟩

/-- A bank format register takes the write, any other place its bytes (R144, R148). -/
theorem storeKindOf_eq (acc : Acc) : storeKindOf acc = plainKind acc := by
  simp only [storeKindOf, plainKind, isFmtLoc, decide_eq_true_eq]

theorem storeWord_eq (i : Instr) (p : Dep) (d a : SReg) (o : BitVec 9) (n : Nat) (s : State) :
    storeWord i p d a o n s = lsWord i p .sc [a, d] (storeBody i (stRow p d a o n)) s := by
  simp only [storeWord, State.ea_eq_scaled, storeKindOf_eq]
  rfl

theorem exec_storeRow {i : Instr} {r : TRow} (h : storeRow i = some r) (s : State) :
    exec i s = lsWord i r.p .sc r.srcs (storeBody i r) s := by
  cases i <;> cases h
  case sb | sh | sw | sd => exact storeWord_eq ..
  case stl =>
    dsimp only [exec]
    simp only [execStl, storeKindOf_eq]
    rfl
  case sfe =>
    dsimp only [exec]
    simp only [execSfe, State.ea_eq_scaled]
    rfl

/-- Settles O8: each word is an LS word that makes its row's access and leaves S with its bytes. -/
theorem storesLeaveS : Obligations.StoresLeaveS := by
  intro i r s acc hi hc hs ho ha
  obtain ⟨haddr, hval⟩ := storeRow_noTokens hi s
  rw [exec_storeRow hi, lsWord_open hc ho hs, storeBody, haddr, hval, State.access_ok ((s.chkS_popped ..).trans ha)]
  exact finish_issueStore

end Sys2Proof.Machine
end

section
/-! SUPPORT. The translations of a started grid word leave its context as it was (R241, R255, R378, R418). -/

namespace Sys2Proof.Machine

open Sys2Proof.Safety

/-! ### Errors that no consumer counts -/

theorem State.log_ctx (s : State) (cls st u idx : Nat) : (s.log cls st u idx).ctx = s.ctx := by
  unfold State.log
  dsimp only
  split <;> rfl

theorem State.makeLasting_ctx (s : State) (cls u idx : Nat) : (s.makeLasting cls u idx).ctx = s.ctx := by
  unfold State.makeLasting
  dsimp only
  split_ifs
  · exact State.log_ctx ..
  · exact State.log_ctx ..
  · exact State.log_ctx ..

theorem State.errorEvent_ctx (s : State) (cls u idx : Nat) : (s.errorEvent cls u idx).ctx = s.ctx := by
  unfold State.errorEvent
  dsimp only
  split_ifs
  · exact State.makeLasting_ctx ..
  · rfl

/-- A read that is no context's counts in none (R418). -/
theorem State.meetBad_ctx (s : State) (b : Bad) : (s.meetBad [] b).ctx = s.ctx := by
  unfold State.meetBad
  simp only [List.filter_nil, List.eraseDups_nil, List.foldl_nil]
  split_ifs
  · rfl
  all_goals
    cases b.bank
    · rfl
    · exact State.errorEvent_ctx ..

theorem State.scrub_ctx (s : State) (loc n : Nat) : (s.scrub [] loc n).ctx = s.ctx := by
  have hfold : ∀ (l : List Bad) (t : State), (l.foldl (fun s b => s.meetBad [] b) t).ctx = t.ctx := by
    intro l
    induction l with
    | nil => exact fun _ => rfl
    | cons b r ih => exact fun t => (ih _).trans (t.meetBad_ctx b)
  unfold State.scrub
  split
  · rfl
  · exact hfold _ s

theorem State.walkScrub_ctx (s : State) (root va : Nat) : (s.walkScrub root va).ctx = s.ctx := by
  unfold State.walkScrub
  generalize walkReads s.mem va 3 root = l
  induction l generalizing s with
  | nil => rfl
  | cons a r ih => exact (ih _).trans (s.scrub_ctx a 8)

/-! ### Writes of the page agent -/

theorem State.surrender_ctx (s : State) (sec j : Nat) (excl : Bool) : (s.surrender sec j excl).ctx = s.ctx := by
  unfold State.surrender
  split_ifs <;> rfl

theorem State.takeSector_ctx (s : State) (sec : Nat) : (s.takeSector sec).ctx = s.ctx := by
  unfold State.takeSector
  generalize (List.range 6).filter _ = l
  induction l generalizing s with
  | nil => rfl
  | cons j r ih => exact (ih _).trans (s.surrender_ctx sec j true)

theorem State.agentBytes_ctx (s : State) (loc : Nat) (bs : List Byte) : (s.agentBytes loc bs).ctx = s.ctx := by
  unfold State.agentBytes
  generalize List.map _ _ = l
  change (l.foldl State.takeSector s).ctx = s.ctx
  induction l generalizing s with
  | nil => rfl
  | cons x r ih => exact (ih _).trans (s.takeSector_ctx x)

theorem State.growApply_ctx (s : State) (root asid pte desc : Nat) : (s.growApply root asid pte desc).1.ctx = s.ctx := by
  unfold State.growApply
  dsimp only
  split_ifs
  · rfl
  · split
    · rfl
    · split_ifs
      · rfl
      · split
        · rfl
        · split
          · rfl
          · split_ifs
            · exact (State.agentBytes_ctx ..).trans (State.agentBytes_ctx ..)
            · rfl
          · rfl
        · rfl
    · rfl

/-! ### Translations -/

/-- A translation that does not wait for a sector leaves the context as it was. -/
theorem State.xlateIn_ctx {s : State} {core root asid va : Nat} {want : Want} {priv : Bool}
    (h : (s.xlateIn core root asid va want priv).2 ≠ .miss) : (s.xlateIn core root asid va want priv).1.ctx = s.ctx := by
  unfold State.xlateIn at h ⊢
  split
  · rfl
  · next hf =>
    simp only [hf] at h ⊢
    split_ifs with hb
    · simp only [hb, ↓reduceIte, ne_eq, not_true_eq_false] at h
    · exact s.walkScrub_ctx root va

theorem State.xlateGrow_ctx {s : State} {core root asid va : Nat} {want : Want} {priv : Bool}
    (h : (s.xlateGrow core root asid va want priv).2 ≠ .miss) : (s.xlateGrow core root asid va want priv).1.ctx = s.ctx := by
  unfold State.xlateGrow at h ⊢
  have hx := @State.xlateIn_ctx s core root asid va want priv
  split
  · next s1 pte desc he =>
    rw [he] at hx
    have hg := s1.growApply_ctx root asid pte desc
    have h1 : s1.ctx = s.ctx := hx (by simp)
    split <;> next ha => rw [ha] at hg; exact hg.trans h1
  · next hne =>
    refine hx ?_
    split at h
    · next he => exact absurd he (hne _ _ _)
    · exact h

/-- An access that passes V's checks leaves the context as it was (R241). -/
theorem State.chkV_ctx {s : State} {a : Word} {len al : Nat} {want : Want} {w : Win} {lane : Nat} {acc : Acc}
    (h : (s.chkV a len al want w lane).2 = .ok acc) : (s.chkV a len al want w lane).1.ctx = s.ctx := by
  unfold State.chkV at h ⊢
  split
  · rfl
  · next hp =>
    simp only [hp] at h
    split
    · next ht =>
      simp only [ht] at h
      refine State.xlateGrow_ctx fun hm => ?_
      rw [hm] at h
      cases h
    · rfl

/-- Active cells that all pass their checks leave the context as it was (R256). -/
theorem State.lanes_ctx {want : Want} {addr : Nat → Word} {l : List Nat} {s s1 : State} {before as : List (Nat × Acc)}
    (h : s.lanes want addr l before = (s1, some (.inr as))) : s1.ctx = s.ctx := by
  induction l generalizing s before with
  | nil => cases h; rfl
  | cons j r ih =>
    rw [State.lanes] at h
    have hc := @State.chkV_ctx s (addr j) 8 8 want .spad j
    split at h
    · next hk =>
      rw [hk] at hc
      exact (ih h).trans (hc rfl)
    · cases h
    · cases h

end Sys2Proof.Machine
end

section
/-! SUPPORT. A grid load or store that V starts leaves with its accesses (R92, R149, R253 to R256, R288, R290). -/

namespace Sys2Proof.Machine

open Sys2Proof.Safety

/-! ### The end of the start at V -/

theorem Act.mayFlag_eq_forms (a : Act) : a.mayFlag = forms a := by cases a <;> rfl

/-- A grid load on its way (R253). -/
theorem vDone_vLoad (s : State) (e : QEntry) (act : Act) (accs : List Acc) (hold : Bool) :
    (s.vLoad e act accs hold).vDone ((s.vLoad e act accs hold).ctx.vChecked (s.vLoad e act accs hold).now e.id) =
      loadLeft s e act accs hold := by
  simp only [State.vLoad, s.delay_eq, Act.mayFlag_eq_forms, beq_iff_eq]
  rfl

/-- A grid store on its way, the flags of its conversions to land in the next cycle (R253). -/
theorem vDone_vStore (s : State) (e : QEntry) (parts : List StPart) (f : Fl) :
    (s.vStore e parts f).vDone ((s.vStore e parts f).ctx.vChecked (s.vStore e parts f).now e.id) = storeLeft s e parts f := by
  simp only [State.vStore, s.delay_eq]
  rfl

section

variable {i : Instr} {p : Dep} {s s1 : State} {e : QEntry} {spec : Ctx → VSpec} {go : State → QEntry → MemOut}

/-- A memory word that passes the common checks of a grid word and its own is on its way. -/
theorem memStart_load {act : Act} {accs : List Acc} {hold : Bool} (hv : VFits (spec s.ctx) e s)
    (hg : go s e = .ok (s1.vLoad e act accs hold)) : memStart i spec go s = .next (loadLeft s1 e act accs hold) := by
  obtain ⟨-, ha, hb, he⟩ := hv
  simp only [memStart, ha, hb, he, hg, vDone_vLoad]

theorem memStart_store {parts : List StPart} {f : Fl} (hv : VFits (spec s.ctx) e s)
    (hg : go s e = .ok (s1.vStore e parts f)) : memStart i spec go s = .next (storeLeft s1 e parts f) := by
  obtain ⟨-, ha, hb, he⟩ := hv
  simp only [memStart, ha, hb, he, hg, vDone_vStore]

/-! ### VLD and VST -/

/-- The cells in which some active element lies, with their accesses (R253). -/
theorem activeCells_eq (t : Nat) (mk : BitVec 256) (g : GOp) (accs : List Acc) :
    activeCells t mk g accs = (((List.range 16).zip accs).filter fun x => cellMask t mk x.1 != 0).map fun x =>
      ((cellNo g x.1, cellMask t mk x.1), x.2) := by
  rw [activeCells, ← List.filterMap_eq_map, List.filterMap_filter]
  congr 1
  funext x
  by_cases h : cellMask t mk x.1 = 0 <;> simp [h]

theorem vldWord_left {g : GOp} {imm : BitVec 9} {fe clear : Bool} {act : Act} {accs : List Acc} {hold : Bool}
    (hv : VFits { fixedDsts := [g], keeps := false } e s) (h : vldAct s e g imm fe clear = some (act, accs, hold)) :
    vldWord i p g imm fe clear s = .next (loadLeft s e act accs hold) := by
  have ht := hv.1
  simp only [vldWord, ht]
  refine memStart_load hv ?_
  unfold vldAct at h
  rw [vmAddr_eq_rowAddr]
  split at h
  · cases h
  · cases h
    simp only [activeCells_eq, List.map_map]
    cases fe <;> rfl
  · cases h
    have hrnd : (s.ctx.vt.extractLsb' 7 3).toNat = s.ctx.vt.toNat / 128 % 8 := by
      simp only [BitVec.extractLsb'_toNat, Nat.shiftRight_eq_div_pow, Nat.reducePow]
    simp only [hrnd, bitsOf, Nat.pow_zero, Nat.div_one, Nat.reducePow]
    cases fe <;> rfl

theorem execVst_left {g : GOp} {a : SReg} {n : Bool} {imm : BitVec 9} {parts : List StPart} {f : Fl}
    (hv : VFits { fixedSrcs := [g], keeps := false } e s) (h : vstOut s e g imm = some (parts, f)) :
    execVst p g a n imm s = .next (storeLeft s e parts f) := by
  have ht := hv.1
  simp only [execVst, ht]
  refine memStart_store hv ?_
  unfold vstOut at h
  rw [vmAddr_eq_rowAddr]
  split at h
  · cases h
  · cases h
    rfl
  · cases h
    rfl

/-! ### Strided, indexed and broadcast forms -/

/-- A strided, indexed or broadcast load whose active cells pass their checks (R255, R256). -/
theorem vmemWord_gathers {spec : VSpec} {addr : Ctx → QEntry → Nat → Word} {g : GOp} {one : Bool} {act : Act}
    {accs : List Acc} {hold : Bool} {go : State → QEntry → List (Nat × Acc) → State} (hv : VFits spec e s)
    (h : gatherAct s g (addr s.ctx e) one = some (s1, act, accs, hold))
    (hgo : ∀ as, s1.ctx = s.ctx → go s1 e as = s1.vLoad e
      (if one then .bcast (as.map fun x => (cellNo g x.1, cellMask s.ctx.t s.ctx.vtMask x.1))
        else .cells (as.map fun x => (cellNo g x.1, cellMask s.ctx.t s.ctx.vtMask x.1)))
      (if one then (as.map Prod.snd).take 1 else as.map Prod.snd) false) :
    vmemWord i p spec .read addr go s = .next (loadLeft s1 e act accs hold) := by
  have ht := hv.1
  simp only [vmemWord, ht]
  refine memStart_load (spec := fun _ => spec) hv ?_
  unfold gatherAct at h
  split at h
  · next s2 as hl =>
    cases h
    simp only [hl]
    rw [hgo as (State.lanes_ctx hl)]
  · cases h

theorem vmemWord_scatters {spec : VSpec} {addr : Ctx → QEntry → Nat → Word} {g : GOp} {parts : List StPart} {f : Fl}
    (hv : VFits spec e s) (h : scatterOut s g (addr s.ctx e) = some (s1, parts, f)) :
    vmemWord i p spec .write addr (scatter g) s = .next (storeLeft s1 e parts f) := by
  have ht := hv.1
  simp only [vmemWord, ht]
  refine memStart_store (spec := fun _ => spec) hv ?_
  unfold scatterOut at h
  split at h
  · next s2 as hl =>
    cases h
    simp only [hl, scatter, State.lanes_ctx hl]
  · cases h

end

/-! ### The rows of the tables -/

/-- A row whose form passes does not change the package before it leaves. -/
theorem map_form_eq_some {α : Type} {o : Option α} {sp0 sp : VSpec} {s s1 : State} {x : α}
    (h : o.map (fun x => (sp0, s, x)) = some (sp, s1, x)) : sp = sp0 ∧ s1 = s ∧ o = some x := by
  obtain ⟨y, hy, he⟩ := Option.map_eq_some_iff.mp h
  cases he
  exact ⟨rfl, rfl, hy⟩

theorem map_lanes_eq_some {α : Type} {o : Option α} {sp0 sp : VSpec} {x : α}
    (h : o.map (fun x => (sp0, x)) = some (sp, x)) : sp = sp0 ∧ o = some x := by
  obtain ⟨y, hy, he⟩ := Option.map_eq_some_iff.mp h
  cases he
  exact ⟨rfl, hy⟩

theorem halves_eq_two (g : PairOp) : halves g = two g := by
  revert g
  decide

/-- Every row of the loads leaves V with its accesses. -/
theorem gridLoad_leaves {i : Instr} {s s1 : State} {e : QEntry} {sp : VSpec} {act : Act} {accs : List Acc} {hold : Bool}
    (h : gridLoad s e i = some (sp, s1, act, accs, hold)) (hv : VFits sp e s) :
    exec i s = .next (loadLeft s1 e act accs hold) := by
  cases i
  case vld | vldFeKeep | vldFeClear =>
    obtain ⟨rfl, rfl, hf⟩ := map_form_eq_some h
    exact vldWord_left hv hf
  case vlds =>
    obtain ⟨rfl, hl⟩ := map_lanes_eq_some h
    exact vmemWord_gathers (one := false) hv hl fun as hc => by rw [gather, hc]; rfl
  case vldx =>
    obtain ⟨rfl, hl⟩ := map_lanes_eq_some h
    rw [← indexAddr_eq_laneAddr] at hl
    rw [← ixOp_eq_ofNat] at hv
    exact vmemWord_gathers (one := false) hv hl fun as hc => by rw [gather, hc]; rfl
  case vbcast =>
    obtain ⟨rfl, hl⟩ := map_lanes_eq_some h
    exact vmemWord_gathers (addr := fun _ e _ => e.x) (one := true) hv hl fun as hc => by rw [hc]; rfl
  case slmerge p g a b =>
    cases h
    have ht := hv.1
    dsimp only [exec]
    simp only [execSlmerge, ht]
    exact memStart_load (spec := fun _ => { fixedDsts := halves g, useMask := false, keeps := false, types := tyPair })
      (by rw [halves_eq_two]; exact hv) rfl
  all_goals cases h

/-- Every row of the stores leaves V with its values. -/
theorem gridStore_leaves {i : Instr} {s s1 : State} {e : QEntry} {sp : VSpec} {parts : List StPart} {f : Fl}
    (h : gridStore s e i = some (sp, s1, parts, f)) (hv : VFits sp e s) :
    exec i s = .next (storeLeft s1 e parts f) := by
  cases i
  case vst =>
    obtain ⟨rfl, rfl, hf⟩ := map_form_eq_some h
    exact execVst_left hv hf
  case vsts =>
    obtain ⟨rfl, hl⟩ := map_lanes_eq_some h
    exact vmemWord_scatters hv hl
  case vstx =>
    obtain ⟨rfl, hl⟩ := map_lanes_eq_some h
    rw [← indexAddr_eq_laneAddr] at hl
    rw [← ixOp_eq_ofNat] at hv
    exact vmemWord_scatters hv hl
  case sldep p g a b =>
    cases h
    have ht := hv.1
    dsimp only [exec]
    simp only [execSldep, ht]
    refine memStart_store (spec := fun _ => { fixedSrcs := halves g, useMask := false, keeps := false, types := tyPair })
      (by rw [halves_eq_two]; exact hv) ?_
    rw [halves_eq_two]
    rfl
  all_goals cases h

/-- Settles O14: what a row's word sends is what it reads or holds at its start. -/
theorem gridAccessesLeaveV : Obligations.GridAccessesLeaveV :=
  ⟨fun _ _ _ _ _ _ _ _ h hv => gridLoad_leaves h hv, fun _ _ _ _ _ _ _ h hv => gridStore_leaves h hv⟩

end Sys2Proof.Machine
end

section
/-! SUPPORT. The relay's words at C (R105, R193, R196 to R200). -/

namespace Sys2Proof.Machine

open Sys2Proof.Safety

section

variable {p : Dep} {a b : SReg} {s : State} {e : QEntry}

/-! ### RSEND -/

theorem execRsend_atC (h : AtC s e) : execRsend p a b s =
    match s.rsendCheck (s.key / 4) (.rsend p a b) e with
    | some t => .next (s.startTrap s.key .c e t)
    | none => .next { s.rsendGo e with turn := .sched } := by
  obtain ⟨ht, ha⟩ := h
  simp only [execRsend, ht, ha]
  rfl

/-- The send on its way: a permit of its channel taken, its source banks locked (R105, R197, R198). -/
theorem rsendGo_eq {c : Channel} {ch : Nat} {acc : Acc} (hch : ch = chanOf (s.key / 4) (e.y.toNat / 2 ^ 56 % 256) true)
    (hc : s.channel ch = c)
    (hacc : acc = ⟨0, spadLoc (s.key / 4) ((ownOff (s.key / 4) e.x).getD 0), e.y.toNat % 2 ^ 32, 0, false⟩) :
    s.rsendGo e = (({ delayed s with
        channels := mput s.channels ch { c with
          permits := c.permits - 1, sender := some s.ctx.uid,
          sends := c.sends ++ [{ ctx := s.ctx.uid, id := e.id, src := acc.loc, len := acc.len, slot := none, d0 := c.d0,
                                 d1 := c.d1 }] },
        ctx := { s.ctx with
          cact := none, block := if s.ctx.block = .rsend then .none else s.ctx.block,
          readyAt := if s.ctx.block = .rsend then s.now else s.ctx.readyAt } } : State).lockBanks (sendHolder ch)
            (banksOf [acc])).at_ (arrival s) (.relayArrival ch) := by
  have hnum : chanOf s.core e.rsChan true = ch := hch.symm
  have hsrc : e.rsAcc s.core = acc := by
    rw [hacc, QEntry.rsAcc, QEntry.rsLen, wfld, bitsOf, Nat.pow_zero, Nat.div_one]
    rfl
  have hlen : e.rsLen = acc.len := congrArg Acc.len hsrc
  simp only [State.rsendGo, hnum, hsrc, hlen, hc, s.delay_eq, State.setChannel, State.withCtx, delayed]
  split_ifs <;> rfl

/-! ### RPERMIT -/

theorem execRpermit_atC (h : AtC s e) {n : Nat} {c : Channel} (hn : e.x.toNat = n)
    (hc : s.channel (chanOf (s.key / 4) n false) = c) : execRpermit p a b s =
    if n < 32 ∧ c.en = true ∧ c.receiverCore = s.key / 4 ∧ 1 ≤ e.y.toNat ∧ e.y.toNat ≤ 8 ∧ e.y.toNat ≤ c.held then
      .next (cLeft (({ delayed s with
          channels := mput s.channels (chanOf (s.key / 4) n false) { c with
            held := c.held - e.y.toNat, returns := c.returns ++ [(s.ctx.uid, e.id, e.y.toNat, true)],
            receiver := some s.ctx.uid } } : State).at_ (arrival s) (.permitReturn (chanOf (s.key / 4) n false))))
    else .next (s.startTrap s.key .c e (wordTrap 4 (.rpermit p a b))) := by
  obtain ⟨ht, ha⟩ := h
  have hbad : (32 ≤ n ∨ (!c.en) = true ∨ c.receiverCore ≠ s.core ∨ e.y.toNat = 0 ∨ 8 < e.y.toNat ∨ c.held < e.y.toNat) ↔
      ¬ (n < 32 ∧ c.en = true ∧ c.receiverCore = s.key / 4 ∧ 1 ≤ e.y.toNat ∧ e.y.toNat ≤ 8 ∧ e.y.toNat ≤ c.held) := by
    rw [State.core]
    cases c.en
    · simp
    · simp only [Bool.not_true, Bool.false_eq_true, ne_eq, true_and, false_or]
      omega
  have hch : s.channel (chanOf s.core n false) = c := hc
  rw [← ite_not]
  simp only [execRpermit, ht, ha, hn, hch, hbad, s.delay_eq]
  rfl

/-! ### RSTAT -/

theorem execRstat_bad (h : AtC s e) (hb : 32 ≤ e.x.toNat ∨ 1 < e.y.toNat) :
    execRstat p a b s = .next (s.startTrap s.key .c e (wordTrap 4 (.rstat p a b))) := by
  obtain ⟨ht, ha⟩ := h
  simp only [execRstat, ht, ha, if_pos hb]

/-- The status `v` of a channel is to land; the receiver's read of its own channel is noted with it (R200). -/
theorem execRstat_lands (h : AtC s e) {inbound : Bool} {ch : Nat} {v : Word} (hx : e.x.toNat < 32)
    (hy : e.y.toNat = inbound.toNat) (hch : chanOf (s.key / 4) e.x.toNat (!inbound) = ch)
    (hv : s.chanStatus (s.key / 4) ch inbound = v) : execRstat p a b s =
    .next (cLeft { delayed s with
      channels := if inbound = true ∧ (s.channel ch).receiverCore = s.key / 4 then
          mput s.channels ch { s.channel ch with receiver := some s.ctx.uid } else s.channels,
      ctx := { s.ctx with pend := s.ctx.pend.map fun q => if q.id = e.id then
        { q with due := some (arrival s), wr := [.s a v] } else q } }) := by
  obtain ⟨ht, ha⟩ := h
  have hin : (e.y.toNat == 1) = inbound := by rw [hy]; cases inbound <;> rfl
  have hok : ¬ (32 ≤ e.x.toNat ∨ 1 < e.y.toNat) := by
    have := inbound.toNat_le
    omega
  simp only [execRstat, ht, ha, hin, if_neg hok, State.core, hch, hv, s.delay_eq, beq_iff_eq]
  by_cases hr : inbound = true ∧ (s.channel ch).receiverCore = s.key / 4
  · rw [if_pos hr, if_pos hr]
    rfl
  · rw [if_neg hr, if_neg hr]
    rfl

/-- A channel that is not the core's reads as zero (R200). -/
theorem chanStatus_other {core ch : Nat} (h : (s.channel ch).receiverCore ≠ core) : s.chanStatus core ch true = 0 :=
  if_pos h

end

/-- Settles O34: each word's step at C, and which of its checks its operands meet. -/
theorem relayWordsRun : Obligations.RelayWordsRun := by
  intro p a b s e h
  refine ⟨fun t ht => ?_, fun c ch acc hk hch hc hacc => ?_, fun n c hn hc => ⟨fun hok => ?_, fun hbad => ?_⟩, fun hbad => ?_,
    fun hx hy => ?_, fun c hx hy hc hr => ?_, fun hx hy hr => ?_⟩
  · refine (execRsend_atC h).trans ?_
    rw [ht]
  · refine (execRsend_atC h).trans ?_
    rw [hk, rsendGo_eq hch hc hacc]
  · exact (execRpermit_atC h hn hc).trans (if_pos hok)
  · exact (execRpermit_atC h hn hc).trans (if_neg hbad)
  · exact execRstat_bad h hbad
  · exact execRstat_lands (inbound := false) h hx hy rfl rfl
  · subst hc
    exact (execRstat_lands (inbound := true) h hx hy rfl rfl).trans (by rw [if_pos ⟨rfl, hr⟩]; rfl)
  · exact (execRstat_lands (inbound := true) h hx hy rfl (chanStatus_other hr)).trans
      (by rw [if_neg fun hc => hr hc.2]; rfl)

end Sys2Proof.Machine
end

section
/-! SUPPORT. Requests at the homes (R111, R361 to R367): their order, the holders that answer, the grant. -/

namespace Sys2Proof.Machine

open Sys2Proof.Safety

/-! ### The order of the requests (R363, R366) -/

/-- The request `b`, not begun, came to the same sector in the same cycle from a higher holder than `a`. -/
def Yields (a b : Ask) : Prop := b.sec = a.sec ∧ b.at_ = a.at_ ∧ b.begun = false ∧ a.who < b.who

theorem insAsk_cons_of_yields {a b : Ask} (h : Yields a b) (r : List Ask) : insAsk a (b :: r) = a :: b :: r := by
  obtain ⟨h1, h2, h3, h4⟩ := h
  simp [insAsk, h1, h2, h3, h4]

theorem insAsk_cons_of_not_yields {a b : Ask} (h : ¬ Yields a b) (r : List Ask) : insAsk a (b :: r) = b :: insAsk a r := by
  rw [insAsk, if_neg]
  simpa [Yields] using h

/-- Behind requests of which none yields, the new one goes on to those after them. -/
theorem insAsk_append_of_not_yields {a : Ask} {l : List Ask} (h : ∀ b ∈ l, ¬ Yields a b) (r : List Ask) :
    insAsk a (l ++ r) = l ++ insAsk a r := by
  induction l with
  | nil => rfl
  | cons b l ih =>
    rw [List.cons_append, insAsk_cons_of_not_yields (h b (List.mem_cons_self ..)),
      ih fun x hx => h x (List.mem_cons_of_mem _ hx), List.cons_append]

theorem insAsk_last {a : Ask} {l : List Ask} (h : ∀ b ∈ l, ¬ Yields a b) : insAsk a l = l ++ [a] := by
  simpa [insAsk] using insAsk_append_of_not_yields h []

theorem insAsk_before {a b : Ask} {l : List Ask} (h : ∀ x ∈ l, ¬ Yields a x) (hb : Yields a b) (r : List Ask) :
    insAsk a (l ++ b :: r) = l ++ a :: b :: r := by
  rw [insAsk_append_of_not_yields h, insAsk_cons_of_yields hb]

/-- The recall of a host's copy (R366). -/
theorem State.recallsHost_iff (s : State) (b : Ask) :
    s.recallsHost b = true ↔ b.who = 6 ∧ s.pageState (b.sec / 64) % 2 = 1 := by
  have hl : (s.losers (b.sec / 64)).contains 5 = true ↔ s.pageState (b.sec / 64) % 2 = 1 := by
    unfold State.losers
    split_ifs with h
    · simp [h]
    · simp; omega
  rw [State.recallsHost, Bool.and_eq_true, beq_iff_eq, hl]

/-- A request other than an evict, as it comes to its home (R363). -/
theorem State.homeRequest_eq {s : State} {h pa : Nat} {kind : ReqKind} (bs : List Byte) (hk : kind ≠ .evict) :
    s.homeRequest h kind pa bs =
      let s1 := s.countAccess h pa
      let a := asking s1 h pa (decide (kind ≠ .read)) (if h = 5 then bs else [])
      if h = 5 then s1.hostFirst a else { s1 with asks := insAsk a s1.asks } := by
  cases kind
  case evict => exact absurd rfl hk
  all_goals rfl

/-- A request of the host that meets no recall of its line stands in its order (R363). -/
theorem State.hostFirst_of_none {s : State} {a : Ask}
    (h : ∀ b ∈ s.asks, ¬ (b.who = 6 ∧ b.sec / 2 = a.sec / 2 ∧ s.pageState (b.sec / 64) % 2 = 1)) :
    s.hostFirst a = { s with asks := insAsk a s.asks } := by
  have hf : (s.asks.filter fun b => s.recallsHost b && b.sec / 2 == a.sec / 2) = [] := by
    rw [List.filter_eq_nil_iff]
    intro b hb hc
    rw [Bool.and_eq_true, s.recallsHost_iff, beq_iff_eq] at hc
    exact h b hb ⟨hc.1.1, hc.2, hc.1.2⟩
  simp only [State.hostFirst, hf]

/-- A request of the host that meets recalls of its line is served before them (R366). -/
theorem State.hostFirst_of_hit {s : State} {a : Ask} {hit : Ask → Bool}
    (hh : ∀ b, hit b = true ↔ b.who = 6 ∧ b.sec / 2 = a.sec / 2 ∧ s.pageState (b.sec / 64) % 2 = 1)
    (h : ∃ b ∈ s.asks, hit b = true) : s.hostFirst a = { s with
      asks := insAsk a (s.asks.filter fun b => !(hit b)) ++
        (s.asks.filter hit).map fun b => { b with begun := false, acks := [] },
      agenda := s.agenda.filter fun x => !((s.asks.filter hit).any fun b => x.2 == .snoopInvalidation 5 b.pa true) } := by
  have he : (fun b => s.recallsHost b && b.sec / 2 == a.sec / 2) = hit := by
    funext b
    rw [Bool.eq_iff_iff, hh, Bool.and_eq_true, s.recallsHost_iff, beq_iff_eq]
    exact ⟨fun ⟨⟨h6, h1⟩, hl⟩ => ⟨h6, hl, h1⟩, fun ⟨h6, hl, h1⟩ => ⟨⟨h6, h1⟩, hl⟩⟩
  have he' := congrFun he
  obtain ⟨b, hb, ht⟩ := h
  unfold State.hostFirst
  simp only [he']
  cases hs : s.asks.filter hit with
  | nil => exact absurd ht (by simpa using List.filter_eq_nil_iff.mp hs b hb)
  | cons x r => rfl

/-- The next request of its sector that can be served (R363, R365, R366). -/
theorem State.nextAsk_spec {s : State} {a : Ask} (h : s.nextAsk = some a) :
    ∃ l r, s.asks = l ++ a :: r ∧ (∀ b ∈ l, b.sec = a.sec → b.adm = false) ∧ a.adm = true ∧
      a.begun = false ∧ (∀ b ∈ s.asks, b.sec = a.sec → b.begun = false) ∧
      (a.who = 6 → s.pageState (a.sec / 64) % 2 = 1 → ∀ b ∈ s.asks, b.who = 5 → b.sec / 2 ≠ a.sec / 2) := by
  have hp := List.find?_some h
  simp only [Bool.and_eq_true, Bool.not_eq_true', beq_iff_eq, Bool.and_eq_false_iff] at hp
  obtain ⟨⟨⟨⟨hadm, hbegun⟩, hserving⟩, hfirst⟩, hrecall⟩ := hp
  obtain ⟨l, r, hl, hbefore⟩ := (List.find?_eq_some_iff_append.mp hfirst).2
  refine ⟨l, r, hl, fun b hb hs => ?_, hadm, hbegun, fun b hb hs => ?_, fun hw hbias b hb hb5 hline => ?_⟩
  · simpa [hs] using hbefore b hb
  · have := List.any_eq_false.mp hserving b hb
    simpa [hs] using this
  · rcases hrecall with hr | hr
    · rw [(s.recallsHost_iff a).mpr ⟨hw, hbias⟩] at hr
      cases hr
    · have := List.any_eq_false.mp hr b hb
      simp [hb5, hline] at this

/-! ### The holders that answer (R361 to R365) -/

theorem State.dirOf_eq (s : State) (sec j : Nat) : s.dirOf sec j = dirState s sec j := rfl

theorem State.setDir_eq (s : State) (sec h : Nat) (st : Moesi) : s.setDir sec h st = { s with dir := dirSet s sec h st } := rfl

/-- A recall goes to the losing side's holders of the sector (R365, R366). -/
theorem State.mem_needs_recall {s : State} {a : Ask} (ha : a.who = 6) (j : Nat) :
    j ∈ s.needs a ↔ loses (s.pageState (a.sec / 64) % 2) j ∧ dirState s a.sec j ≠ .i := by
  have hl : j ∈ s.losers (a.sec / 64) ↔ loses (s.pageState (a.sec / 64) % 2) j := by
    unfold State.losers loses
    split_ifs
    · simp; omega
    · simp
  simp only [State.needs, if_pos ha, List.mem_filter, hl, bne_iff_ne, ne_eq, State.dirOf_eq]

/-- A holder's copy answers a request: any copy an exclusive one, an owner's or the host's a read (R363, R364). -/
def Answers (s : State) (a : Ask) (j : Nat) : Prop :=
  if a.excl = true then dirState s a.sec j ≠ .i
  else dirState s a.sec j = .m ∨ dirState s a.sec j = .o ∨ dirState s a.sec j = .e ∨ j = 5 ∧ dirState s a.sec j = .s

/-- A request goes to the other holders whose copies answer it, and to the host where devices reach the line through it. -/
theorem State.mem_needs {s : State} {a : Ask} (ha : a.who ≠ 6) (j : Nat) :
    j ∈ s.needs a ↔ j ≠ a.who ∧ (j < 6 ∧ Answers s a j ∨ j = 5 ∧ s.viaHost a.pa = true) := by
  rw [State.needs, if_neg ha]
  dsimp only
  generalize hl : (List.range 6).filter _ = l
  have hmem : ∀ j, j ∈ l ↔ j < 6 ∧ j ≠ a.who ∧ Answers s a j := by
    intro j
    rw [← hl, List.mem_filter, List.mem_range, Bool.and_eq_true, bne_iff_ne]
    refine and_congr_right' (and_congr_right' ?_)
    simp only [State.dirOf_eq, Answers]
    cases a.excl <;> cases dirState s a.sec j <;> simp
  split_ifs with hv
  · obtain ⟨h5, hhost, hnot⟩ := hv
    rw [List.mem_append, List.mem_singleton, hmem]
    constructor
    · rintro (⟨hlt, hne, hans⟩ | rfl)
      · exact ⟨hne, .inl ⟨hlt, hans⟩⟩
      · exact ⟨Ne.symm h5, .inr ⟨rfl, hhost⟩⟩
    · rintro ⟨hne, ⟨hlt, hans⟩ | ⟨rfl, -⟩⟩
      · exact .inl ⟨hlt, hne, hans⟩
      · exact .inr rfl
  · rw [hmem]
    constructor
    · exact fun ⟨hlt, hne, hans⟩ => ⟨hne, .inl ⟨hlt, hans⟩⟩
    · rintro ⟨hne, ⟨hlt, hans⟩ | ⟨rfl, hhost⟩⟩
      · exact ⟨hlt, hne, hans⟩
      · have h5 : 5 ∈ l := by
          by_contra hn
          exact hv ⟨Ne.symm hne, hhost, by simpa using hn⟩
        exact (hmem 5).mp h5

/-- A step put on the agenda stands there with those that stood there. -/
theorem mem_at_ins {t : Nat} {i : Instr} {l : List (Nat × Instr)} (x : Nat × Instr) :
    x ∈ State.at_.ins t i l ↔ x = (t, i) ∨ x ∈ l := by
  induction l with
  | nil => simp [State.at_.ins]
  | cons y r ih =>
    rw [State.at_.ins]
    split_ifs
    · simp
    · rw [List.mem_cons, ih, List.mem_cons, or_left_comm]

/-- One holder is asked after a variable latency (R363). -/
def snooped (i : Nat → Instr) (s : State) (j : Nat) : State := (delayed s).at_ (arrival s) (i j)

theorem foldl_snooped (i : Nat → Instr) (l : List Nat) (s : State) :
    (l.foldl (snooped i) s).asks = s.asks ∧ (l.foldl (snooped i) s).mem = s.mem ∧ (l.foldl (snooped i) s).dir = s.dir ∧
      (∀ x ∈ s.agenda, x ∈ (l.foldl (snooped i) s).agenda) ∧
      ∀ j ∈ l, ∃ n, s.now < n ∧ (n, i j) ∈ (l.foldl (snooped i) s).agenda := by
  induction l generalizing s with
  | nil => exact ⟨rfl, rfl, rfl, fun _ h => h, nofun⟩
  | cons k r ih =>
    obtain ⟨hasks, hmem, hdir, hold, hnew⟩ := ih (snooped i s k)
    refine ⟨hasks, hmem, hdir, fun x hx => hold x ((mem_at_ins x).mpr (.inr hx)), fun j hj => ?_⟩
    rcases List.mem_cons.mp hj with rfl | hr
    · refine ⟨arrival s, ?_, hold _ ((mem_at_ins _).mpr (.inl rfl))⟩
      unfold arrival
      omega
    · exact hnew j hr

/-- A request that holders must answer goes to each of them, its place at the home kept (R363). -/
theorem State.serve_asks {s : State} {a : Ask} (h : s.needs a ≠ []) :
    (s.serve a).asks = putAsk a { a with begun := true, acks := s.needs a } s.asks ∧
      (s.serve a).mem = s.mem ∧ (s.serve a).dir = s.dir ∧
      ∀ j ∈ s.needs a, ∃ n, s.now < n ∧ (n, Instr.snoopInvalidation j a.pa a.excl) ∈ (s.serve a).agenda := by
  have hs : s.serve a = (s.needs a).foldl (snooped fun j => .snoopInvalidation j a.pa a.excl)
      { s with asks := putAsk a { a with begun := true, acks := s.needs a } s.asks } := by
    unfold State.serve
    cases hn : s.needs a with
    | nil => exact absurd hn h
    | cons j r => simp only [State.delay_eq]; rfl
  rw [hs]
  obtain ⟨hasks, hmem, hdir, -, hnew⟩ := foldl_snooped (fun j => .snoopInvalidation j a.pa a.excl) (s.needs a)
    { s with asks := putAsk a { a with begun := true, acks := s.needs a } s.asks }
  exact ⟨hasks, hmem, hdir, hnew⟩

theorem State.serve_granted {s : State} {a : Ask} (h : s.needs a = []) :
    s.serve a = ({ s with asks := dropAsk a s.asks } : State).grant a := by
  rw [State.serve, h]

/-! ### Answers (R361 to R363) -/

/-- A holder's answer to the request that its home is serving (R363). -/
theorem State.snoopReply_eq {s : State} {j pa : Nat} {inval : Bool} {a : Ask}
    (h : (s.asks.find? fun x => x.sec == pa / 64 && x.begun && x.acks.contains j) = some a) :
    s.snoopReply j pa inval =
      let u := if a.granted = true then s else s.surrender (pa / 64) j a.excl
      if a.acks.filter (· != j) ≠ [] then { u with asks := putAsk a { a with acks := a.acks.filter (· != j) } u.asks }
      else if a.granted = true then { u with asks := dropAsk a u.asks }
      else ({ u with asks := dropAsk a u.asks } : State).grant a := by
  simp only [State.snoopReply, h]

theorem filter_ne_eq_nil_iff {l : List Nat} {j : Nat} : l.filter (· != j) = [] ↔ ∀ x ∈ l, x = j := by
  simp [List.filter_eq_nil_iff]

theorem State.snoopReply_none {s : State} {j pa : Nat} (inval : Bool)
    (h : ∀ x ∈ s.asks, x.sec = pa / 64 → x.begun = true → j ∉ x.acks) :
    s.snoopReply j pa inval = if inval = true then s.surrender (pa / 64) j true else s := by
  have hf : (s.asks.find? fun x => x.sec == pa / 64 && x.begun && x.acks.contains j) = none := by
    simp only [List.find?_eq_none, Bool.and_eq_true, beq_iff_eq, List.contains_iff_mem, not_and, and_imp]
    exact h
  simp only [State.snoopReply, hf]

/-- A holder that gives up its copy, and a holder whom a read's snoop leaves without sole ownership (R361, R364). -/
theorem State.surrender_excl (s : State) (sec j : Nat) : (s.surrender sec j true).dir = dirSet s sec j .i := by
  unfold State.surrender
  rw [if_pos (.inl rfl)]
  split_ifs <;> rfl

theorem State.surrender_read (s : State) (sec j : Nat) : (s.surrender sec j false).dir =
    dirSet s sec j (if j = 5 ∧ s.viaHost (64 * sec) = false then .i
      else match dirState s sec j with | .m => .o | .e => .s | x => x) := by
  unfold State.surrender
  by_cases h : j = 5 ∧ s.viaHost (64 * sec) = false
  · obtain ⟨rfl, hv⟩ := h
    rw [if_pos (by simp [hv]), if_neg (by omega), if_neg (by omega), if_pos (And.intro rfl hv)]
    rfl
  · rw [if_neg (by simpa using h), if_neg h]
    rfl

theorem State.surrender_mem (s : State) (sec j : Nat) (excl : Bool) : (s.surrender sec j excl).mem = s.mem := by
  unfold State.surrender
  split_ifs <;> rfl

/-- The cores of a die that gives up a block lose its signature bit (R362). -/
theorem State.surrender_sig {s : State} {sec j : Nat} (hj : j < 4) {c : Nat × Core}
    (hc : c ∈ (s.surrender sec j true).cores) (hd : dieOf c.1 = j) (hn : c.1 < numCores) : sigBit (64 * sec) ∉ c.2.sig := by
  unfold State.surrender at hc
  rw [if_pos (.inl rfl), if_pos hj] at hc
  obtain ⟨x, -, rfl⟩ := List.mem_map.mp hc
  simp only at hd hn ⊢
  rw [if_pos ⟨hd, hn, nofun⟩]
  simp

/-- A sector that the hub gives up is reserved by no hart (R110, R362). -/
theorem State.surrender_resv {s : State} {sec : Nat} {x : Nat × Hart} (hx : x ∈ (s.surrender sec 4 true).harts)
    {y : Nat × Nat} (hy : y ∈ x.2.resv) : meets y.1 y.2 (64 * sec) 64 = false := by
  unfold State.surrender at hx
  rw [if_pos (.inl rfl), if_neg (by omega), if_pos rfl] at hx
  obtain ⟨z, -, rfl⟩ := List.mem_map.mp hx
  simp only at hy
  split at hy
  · next pa n hr =>
    split_ifs at hy with hm
    · cases hy
    · rw [hr] at hy
      cases hy
      simpa using hm
  · next hr =>
    rw [hr] at hy
    cases hy

/-! ### The grant (R363) -/

/-- No other holder has a copy of the sector. -/
theorem State.sole_iff (s : State) (sec h : Nat) : ((List.range 6).all fun j => j == h || s.dirOf sec j == .i) = true ↔
    ∀ j, j < 6 → j ≠ h → dirState s sec j = .i := by
  simp only [List.all_eq_true, List.mem_range, Bool.or_eq_true, beq_iff_eq, State.dirOf_eq, or_iff_not_imp_left, ne_eq]

theorem State.take_excl (s : State) (sec h : Nat) : s.take sec h true = { s with dir := dirSet s sec h .m } := rfl

theorem State.take_sole {s : State} {sec h : Nat} (hs : ∀ j, j < 6 → j ≠ h → dirState s sec j = .i) :
    s.take sec h false = { s with dir := dirSet s sec h .e } := by
  rw [State.take, if_neg (Bool.false_ne_true), if_pos ((s.sole_iff sec h).mpr hs), State.setDir_eq]

theorem State.take_shared {s : State} {sec h : Nat} (hown : dirState s sec h = .i)
    (hs : ∃ j, j < 6 ∧ j ≠ h ∧ dirState s sec j ≠ .i) : s.take sec h false = { s with dir := dirSet s sec h .s } := by
  obtain ⟨j, hj, hne, hc⟩ := hs
  rw [State.take, if_neg (Bool.false_ne_true), if_neg fun hall => hc ((s.sole_iff sec h).mp hall j hj hne),
    State.dirOf_eq, if_pos hown, State.setDir_eq]

theorem State.take_bad (s : State) (sec h : Nat) (excl : Bool) : (s.take sec h excl).bad = s.bad := by
  unfold State.take
  split_ifs <;> rfl

/-- A holder's request that carries no bytes gives it the copy, and changes nothing else where a read of the host meets no error. -/
theorem State.grant_holder {s : State} {a : Ask} (hw : a.who < 6) (hb : a.bytes = []) (h5 : a.who = 5 → s.bad = []) :
    s.grant a = s.take a.sec a.who a.excl := by
  have h7 : ¬ (a.who = 7 ∧ a.excl = false) := fun h => by omega
  rw [State.grant, if_pos hw, if_neg h7, hb, if_pos List.isEmpty_nil]
  split_ifs with hh
  · exact State.scrub_clean ((s.take_bad ..).trans (h5 hh)) ..
  · rfl

/-- A driver's read takes no copy and brings the bytes to the driver. -/
theorem State.grant_driveRead {s : State} {a : Ask} (hw : a.who = 7) (he : a.excl = false) (hb : s.bad = []) :
    s.grant a = { s with
      driveReply := some (true, (s.driveReply.elim [] Prod.snd) ++ s.mem.readBytes a.pa a.bytes.length) } := by
  have hno : ¬ a.who < 6 := by omega
  rw [State.grant, if_neg hno, if_pos (And.intro hw he), State.driveRead, State.scrub_clean hb]
  cases s.driveReply <;> rfl

/-- What the host writes with its only copy takes effect with the grant (R111). -/
theorem State.grant_hostWrite {s : State} {a : Ask} (hw : a.who = 5) (he : a.excl = true) (hb : a.bytes ≠ [])
    (hr : reserved a.pa = false) (hbar : barOf a.pa = none) (hu : Unmirrored s a.pa a.bytes.length) :
    (s.grant a).mem = s.mem.writeBytes a.pa a.bytes ∧ (s.grant a).dir = dirSet s a.sec 5 .m := by
  have hg : s.grant a = ({ s with dir := dirSet s a.sec 5 .m } : State).memWrite a.pa a.bytes := by
    have h6 : a.who < 6 := by omega
    have h7 : ¬ (a.who = 7 ∧ a.excl = false) := fun h => by omega
    have hne : ¬ a.bytes.isEmpty = true := by simpa using hb
    rw [State.grant, if_pos h6, if_neg h7, if_neg hne, he, State.take_excl, hw]
  have hu' : Unmirrored ({ s with dir := dirSet s a.sec 5 .m } : State) a.pa a.bytes.length := hu
  rw [hg, State.memWrite_eq hr hbar hu']
  exact ⟨rfl, rfl⟩

/-! ### Write-backs (R367) -/

/-- The home serves a request for the sector `sec` and awaits the answer of `h` only. -/
def awaits (sec h : Nat) (a : Ask) : Bool := a.sec == sec && a.begun && !a.granted && a.acks == [h]

theorem awaits_iff (sec h : Nat) (a : Ask) :
    awaits sec h a = true ↔ a.sec = sec ∧ a.begun = true ∧ a.granted = false ∧ a.acks = [h] := by
  simp only [awaits, Bool.and_eq_true, beq_iff_eq, Bool.not_eq_true', and_assoc]

theorem State.writeBack_none {s : State} {h pa : Nat}
    (hn : ∀ x ∈ s.asks, ¬ (x.sec = pa / 64 ∧ x.begun = true ∧ x.granted = false ∧ x.acks = [h])) :
    s.writeBack h pa = { s with dir := dirSet s (pa / 64) h .i } := by
  have hf : (s.setDir (pa / 64) h .i).asks.find? (awaits (pa / 64) h) = none := by
    rw [List.find?_eq_none]
    exact fun x hx ha => hn x hx ((awaits_iff ..).mp ha)
  unfold awaits at hf
  simp only [State.writeBack, hf]
  rfl

theorem State.writeBack_some {s : State} {h pa : Nat} {a : Ask} (hf : s.asks.find? (awaits (pa / 64) h) = some a) :
    s.writeBack h pa = (({ s with
      dir := dirSet s (pa / 64) h .i, asks := putAsk a { a with granted := true } s.asks } : State).grant a) := by
  have hf' : (s.setDir (pa / 64) h .i).asks.find? (awaits (pa / 64) h) = some a := hf
  unfold awaits at hf'
  simp only [State.writeBack, hf']
  rfl

/-! ### The statement -/

/-- A request that meets no recall of the host's copy stands in its order at the home. -/
theorem State.homeRequest_queued {s : State} {h pa : Nat} {kind : ReqKind} (bs : List Byte) (hk : kind ≠ .evict) {a : Ask}
    (ha : a = asking (s.countAccess h pa) h pa (decide (kind ≠ .read)) (if h = 5 then bs else []))
    (hn : h = 5 → ∀ b ∈ (s.countAccess h pa).asks,
      ¬ (b.who = 6 ∧ b.sec / 2 = pa / 64 / 2 ∧ (s.countAccess h pa).pageState (b.sec / 64) % 2 = 1)) :
    s.homeRequest h kind pa bs = { s.countAccess h pa with asks := insAsk a (s.countAccess h pa).asks } := by
  subst ha
  rw [State.homeRequest_eq bs hk]
  dsimp only
  by_cases h5 : h = 5
  · rw [if_pos h5]
    exact State.hostFirst_of_none (hn h5)
  · rw [if_neg h5]

/-- A holder's answer, where the request has not been granted (R363). -/
theorem State.snoopReply_open {s : State} {j pa : Nat} (inval : Bool) {a : Ask}
    (h : (s.asks.find? fun x => x.sec == pa / 64 && x.begun && x.acks.contains j) = some a) (hg : a.granted = false) :
    s.snoopReply j pa inval = (fun u : State =>
      if ∀ x ∈ a.acks, x = j then ({ u with asks := dropAsk a u.asks } : State).grant a
      else { u with asks := putAsk a { a with acks := a.acks.filter (· != j) } u.asks }) (s.surrender (pa / 64) j a.excl) := by
  rw [State.snoopReply_eq h]
  simp only [hg, Bool.false_eq_true, if_false, ne_eq, filter_ne_eq_nil_iff, ite_not]

/-- The last answer to a request that a write-back has granted closes it (R367). -/
theorem State.snoopReply_closed {s : State} {j pa : Nat} (inval : Bool) {a : Ask}
    (h : (s.asks.find? fun x => x.sec == pa / 64 && x.begun && x.acks.contains j) = some a) (hg : a.granted = true)
    (hlast : ∀ x ∈ a.acks, x = j) : s.snoopReply j pa inval = { s with asks := dropAsk a s.asks } := by
  rw [State.snoopReply_eq h]
  simp only [hg, if_true, ne_eq, filter_ne_eq_nil_iff.mpr hlast, not_true_eq_false, if_false]

/-- Settles O48: each clause is the lemma above about the home's part in it. -/
theorem homesServeSectors : Obligations.HomesServeSectors := by
  unfold Obligations.HomesServeSectors
  rintro h pa sec s hh rfl
  refine ⟨fun bs => rfl, ?queued, ?hostFirst, fun a => State.nextAsk_spec, ?served, ?answered, ?unasked, ?gives, ?granted,
    fun a hw he hb => State.grant_driveRead hw he hb,
    fun a hw he hb hr hbar hu => State.grant_hostWrite hw he hb hr hbar hu, ?alone, ?writtenBack⟩
  case queued =>
    rintro kind bs s1 a hk rfl ha hn
    have hq := State.homeRequest_queued bs hk ha hn
    have hsec : a.sec = pa / 64 := by rw [ha]; rfl
    have hwho : a.who = h := by rw [ha]; rfl
    have hstays : ∀ b : Ask, (b.sec = pa / 64 → b.at_ = a.at_ → b.begun = false → b.who ≤ h) → ¬ Yields a b :=
      fun b hb ⟨h1, h2, h3, h4⟩ => Nat.not_lt.mpr (hb (h1.trans hsec) h2 h3) (hwho ▸ h4)
    refine ⟨fun hall => ?_, fun l b r hl hbs hba hbb hlt hbefore => ?_⟩
    · rw [insAsk_last fun b hb => hstays b (hall b hb)] at hq
      exact congrArg Host.Outcome.next hq
    · rw [hl, insAsk_before (fun b hb => hstays b (hbefore b hb)) ⟨hbs.trans hsec.symm, hba, hbb, hwho ▸ hlt⟩] at hq
      exact congrArg Host.Outcome.next hq
  case hostFirst =>
    rintro kind bs s1 a hit - hk rfl rfl hhit hex
    refine congrArg Host.Outcome.next ((State.homeRequest_eq bs hk).trans ?_)
    exact State.hostFirst_of_hit hhit hex
  case served =>
    intro a ht hj
    have hstep : step s = .next (s.serve a) := by rw [step_sched ht, hj]; rfl
    refine ⟨fun j hw => State.mem_needs hw j, fun j hw => State.mem_needs_recall hw j, fun hn => ?_, fun hn => ?_⟩
    · rw [hstep, State.serve_granted hn]
    · exact ⟨_, hstep, State.serve_asks hn⟩
  case answered =>
    intro j inval a hf
    refine ⟨fun hg hlast => ?_, fun hg ⟨x, hx, hne⟩ => ?_, fun hg hlast => ?_⟩
    · refine congrArg Host.Outcome.next ((State.snoopReply_open inval hf hg).trans ?_)
      exact if_pos hlast
    · refine congrArg Host.Outcome.next ((State.snoopReply_open inval hf hg).trans ?_)
      exact if_neg fun hall => hne (hall x hx)
    · exact congrArg Host.Outcome.next (State.snoopReply_closed inval hf hg hlast)
  case unasked =>
    intro j hn
    exact ⟨congrArg Host.Outcome.next (State.snoopReply_none false hn), congrArg Host.Outcome.next (State.snoopReply_none true hn)⟩
  case gives =>
    intro j hj
    refine ⟨s.surrender_excl .., s.surrender_read .., s.surrender_mem .., s.surrender_mem .., fun hd c => ?_, ?_⟩
    · exact State.surrender_sig hd
    · rintro rfl x hx y hy
      exact State.surrender_resv hx hy
  case granted =>
    intro a hw hb h5
    rw [State.grant_holder hw hb h5]
    refine ⟨fun he => ?_, fun he hnone => ?_, fun he hown hother => ?_⟩
    · rw [he, State.take_excl]
    · rw [he, State.take_sole hnone]
    · rw [he, State.take_shared hown hother]
  case alone =>
    exact fun hn => congrArg Host.Outcome.next (State.writeBack_none hn)
  case writtenBack =>
    exact fun a hf => congrArg Host.Outcome.next (State.writeBack_some hf)

end Sys2Proof.Machine
end

section
/-! SUPPORT. The checks of a matrix command in the order of R183, each against what its code means (R184 to R188, R295 to R300). -/

namespace Sys2Proof.Machine

open Sys2Proof.Safety

/-! ### The first check that fails -/

/-- The first number of a list with a property, 0 where none has it. -/
theorem firstOf_iff {order : List Nat} (P : Nat → Prop) [DecidablePred P] (h0 : 0 ∉ order) (code : Nat) :
    (order.find? fun n => decide (P n)).getD 0 = code ↔ (code = 0 ∧ ∀ n ∈ order, ¬ P n) ∨
      ∃ before after, order = before ++ code :: after ∧ P code ∧ ∀ n ∈ before, ¬ P n := by
  cases hf : order.find? fun n => decide (P n) with
  | none =>
    have hnone : ∀ n ∈ order, ¬ P n := by simpa using hf
    constructor
    · rintro rfl
      exact .inl ⟨rfl, hnone⟩
    · rintro (⟨rfl, -⟩ | ⟨before, after, rfl, hp, -⟩)
      · rfl
      · exact absurd hp (hnone code (by simp))
  | some m =>
    obtain ⟨hm, before, after, hsplit, hbefore⟩ := List.find?_eq_some_iff_append.mp hf
    have hmem : m ∈ order := by rw [hsplit]; simp
    constructor
    · rintro rfl
      exact .inr ⟨before, after, hsplit, by simpa using hm, by simpa using hbefore⟩
    · rintro (⟨rfl, hnone⟩ | ⟨before', after', hsplit', hp, hbefore'⟩)
      · exact absurd (by simpa using hm) (hnone m hmem)
      · have hf' : order.find? (fun n => decide (P n)) = some code :=
          List.find?_eq_some_iff_append.mpr ⟨by simpa using hp, before', after', hsplit', by simpa using hbefore'⟩
        rw [hf] at hf'
        exact Option.some.inj hf'

/-- The chain of the nine checks gives the code of the first that fails. -/
theorem firstCheck_iff (P : Nat → Prop) {c9 c1 c2 c3 c4 c5 c6 c7 c8 : Prop} [Decidable c9] [Decidable c1] [Decidable c2]
    [Decidable c3] [Decidable c4] [Decidable c5] [Decidable c6] [Decidable c7] [Decidable c8] (h9 : c9 ↔ P 9) (h1 : c1 ↔ P 1)
    (h2 : c2 ↔ P 2) (h3 : c3 ↔ P 3) (h4 : c4 ↔ P 4) (h5 : c5 ↔ P 5) (h6 : c6 ↔ P 6) (h7 : c7 ↔ P 7) (h8 : c8 ↔ P 8) (code : Nat) :
    (if c9 then 9 else if c1 then 1 else if c2 then 2 else if c3 then 3 else if c4 then 4 else if c5 then 5 else if c6 then 6
      else if c7 then 7 else if c8 then 8 else 0) = code ↔ (code = 0 ∧ ∀ n ∈ [9, 1, 2, 3, 4, 5, 6, 7, 8], ¬ P n) ∨
      ∃ before after, [9, 1, 2, 3, 4, 5, 6, 7, 8] = before ++ code :: after ∧ P code ∧ ∀ n ∈ before, ¬ P n := by
  classical
  rw [← firstOf_iff P (by decide)]
  simp only [h9, h1, h2, h3, h4, h5, h6, h7, h8, List.find?]
  refine Eq.congr_left ?_
  split_ifs <;> simp [*]

/-! ### The banks of a command (R181, R188) -/

theorem QEntry.span_eq (e : QEntry) (i : Instr) : e.span i = banksTouched e i := by
  unfold QEntry.span banksTouched QEntry.mBanks
  rfl

theorem mem_spanBanks {sp : Nat × Nat} {b : Nat} : b ∈ spanBanks sp ↔ sp.1 ≤ b ∧ b < sp.2 := by
  simp only [spanBanks, List.mem_map, List.mem_range]
  constructor
  · rintro ⟨i, hi, rfl⟩
    omega
  · rintro ⟨h1, h2⟩
    exact ⟨b - sp.1, by omega, by omega⟩

theorem not_isMember_iff {g : Group} {uid : Nat} : (!g.isMember uid) = true ↔ ∀ m ∈ g.members, m.1 ≠ uid := by
  simp [Group.isMember]

/-- A touched bank of another group, or of one that the issuer is no member of (R188). -/
theorem State.ownerBad_iff {s : State} {g : Engine} {c : Ctx} {e : QEntry} {i : Instr} : s.ownerBad g c e i = true ↔
    ∃ b o, (banksTouched e i).1 ≤ b ∧ b < (banksTouched e i).2 ∧ mget g.owner b = some o ∧
      (o ≠ e.cap.toNat / 2 ^ 16 % 2 ^ 15 ∨
        ∀ m ∈ (mgetD s.groups (e.cap.toNat / 2 ^ 16 % 2 ^ 15) Group.reset).members, m.1 ≠ c.uid) := by
  have hown : 4096 * wfld e.cap 28 3 + wfld e.cap 16 12 = e.cap.toNat / 2 ^ 16 % 2 ^ 15 := by
    unfold wfld bitsOf
    omega
  simp only [State.ownerBad, hown, List.any_eq_true, mem_spanBanks, e.span_eq, State.group]
  constructor
  · rintro ⟨b, ⟨hlo, hhi⟩, hb⟩
    cases ho : mget g.owner b with
    | none => simp [ho] at hb
    | some o =>
      simp only [ho, Bool.or_eq_true, bne_iff_ne, not_isMember_iff] at hb
      exact ⟨b, o, hlo, hhi, ho, hb⟩
  · rintro ⟨b, o, hlo, hhi, ho, hb⟩
    refine ⟨b, ⟨hlo, hhi⟩, ?_⟩
    simp only [ho, Bool.or_eq_true, bne_iff_ne, not_isMember_iff]
    exact hb

theorem Engine.not_has_iff {g : Engine} {b : Nat} : (!g.has b) = true ↔ mget g.owner b = none := by
  simp [Engine.has]

/-- A touched bank that is not allocated (R185). -/
theorem anyFree_iff {g : Engine} {e : QEntry} {i : Instr} : ((spanBanks (e.span i)).any fun b => !(g.has b)) = true ↔
    ∃ b, (banksTouched e i).1 ≤ b ∧ b < (banksTouched e i).2 ∧ mget g.owner b = none := by
  simp only [List.any_eq_true, mem_spanBanks, e.span_eq, Engine.not_has_iff, and_assoc]

/-- The count field is a count (R300). -/
theorem QEntry.countOk_iff (e : QEntry) : e.countOk = true ↔ e.y.toNat % 512 ≠ 0 ∧ e.y.toNat % 512 ≤ 256 := by
  simp only [QEntry.countOk, Bool.and_eq_true, decide_eq_true_eq]
  omega

/-- No run of `n` free banks is left where none is the lowest (R185). -/
theorem Engine.freeRun_isNone_iff {g : Engine} {n : Nat} (h1 : n ≤ 256) :
    (g.freeRun n).isNone = true ↔ ∀ b, ¬ lowestRun g n b := by
  have hnone : (g.freeRun n).isNone = true ↔ ∀ b, b + n ≤ 256 → ¬ ∀ i < n, mget g.owner (b + i) = none := by
    simp only [Engine.freeRun, Option.isNone_iff_eq_none, List.find?_eq_none, List.mem_range, List.all_eq_true,
      Engine.not_has_iff]
    exact forall_congr' fun b => ⟨fun h hb => h (by omega), fun h hb => h (by omega)⟩
  rw [hnone]
  constructor
  · rintro h b ⟨hb, hfree, -⟩
    exact h b hb hfree
  · intro h b hb hfree
    classical
    have hex : ∃ b, ∀ i < n, mget g.owner (b + i) = none := ⟨b, hfree⟩
    have hle := Nat.find_min' hex hfree
    refine h (Nat.find hex) ⟨by omega, Nat.find_spec hex, fun b' hb' => ?_⟩
    have hno := Nat.find_min hex hb'
    push Not at hno
    obtain ⟨i, hi, ho⟩ := hno
    exact ⟨i, hi, Option.isSome_iff_ne_none.mpr ho⟩

/-! ### The setup (R186, R187, R295 to R300) -/

theorem QEntry.shapeOk_iff (e : QEntry) : e.shapeOk = true ↔ ¬ setupWrong.shapeWrong e := by
  have hacc : e.mAcc = e.ms 1 / 256 % 4 := rfl
  simp only [QEntry.shapeOk, setupWrong.shapeWrong, Bool.and_eq_true, decide_eq_true_eq, hacc]
  omega

theorem mmacFormats_iff (a b acc : Nat) : mmacFormats a b acc = true ↔ (a, b, acc) ∈
    [(2, 2, 0), (3, 3, 0), (4, 4, 0), (4, 5, 0), (5, 4, 0), (5, 5, 0), (10, 10, 2), (4, 6, 0), (5, 6, 0), (10, 6, 0),
      (10, 6, 2), (4, 11, 0), (5, 11, 0), (1, 1, 0), (0, 0, 1)] := by
  simp only [mmacFormats, Bool.or_eq_true, Bool.and_eq_true, beq_iff_eq, List.mem_cons, Prod.mk.injEq, List.not_mem_nil, or_false]
  constructor
  · rintro ((((((((h | h) | h) | h) | h) | h) | h) | h) | h) <;> grind
  · rintro (h | h | h | h | h | h | h | h | h | h | h | h | h | h | h) <;> obtain ⟨rfl, rfl, rfl⟩ := h <;> simp

theorem wbit_iff (v : Word) (i : Nat) : wbit v i = true ↔ v.toNat / 2 ^ i % 2 = 1 := by
  rw [wbit, BitVec.getLsbD, Nat.testBit_eq_decide_div_mod_eq, decide_eq_true_eq]

/-- The elements of a scale block (R296). -/
theorem QEntry.mBlk_eq (e : QEntry) :
    e.mBlk = if e.ms 1 / 1024 % 4 = 0 then 0 else 16 * 2 ^ (e.ms 1 / 1024 % 4) := by
  have hb : bitsOf (e.ms 1) 10 2 = e.ms 1 / 1024 % 4 := rfl
  have hlt : e.ms 1 / 1024 % 4 < 4 := Nat.mod_lt _ (by decide)
  rw [QEntry.mBlk, hb]
  generalize e.ms 1 / 1024 % 4 = n at hlt ⊢
  interval_cases n <;> rfl

/-- One operand's scales: the type is at most a byte wide, and scales of two bytes are aligned (R187, R298). -/
theorem scales_iff {on half : Bool} {w n : Nat} {A B : Prop} (ha : on = true ↔ A) (hb : half = true ↔ B) :
    ((!on || decide (w ≤ 8)) = true ∧ (!(on && half) || decide (n % 2 = 0)) = true) ↔ ¬ (A ∧ (8 < w ∨ B ∧ n % 2 ≠ 0)) := by
  rw [← ha, ← hb]
  cases on <;> cases half <;> simp

/-- Scale blocks stand with scales, and the depth holds whole blocks of them (R187, R296). -/
theorem blocks_iff {as bs : Bool} {f q k blk : Nat} (ha : as = true ↔ f / 2 ^ 13 % 2 = 1) (hb : bs = true ↔ f / 2 ^ 14 % 2 = 1)
    (hq : blk = if q = 0 then 0 else 16 * 2 ^ q) :
    (((decide (blk = 0)) == !(as || bs)) = true ∧ (decide (blk = 0) || decide (k % blk = 0)) = true) ↔
      ¬ ((q = 0 ↔ f / 2 ^ 13 % 4 ≠ 0) ∨ q ≠ 0 ∧ k % (16 * 2 ^ q) ≠ 0) := by
  have hany : (as || bs) = true ↔ f / 2 ^ 13 % 4 ≠ 0 := by
    rw [Bool.or_eq_true, ha, hb]
    omega
  have hz : blk = 0 ↔ q = 0 := by
    rw [hq]
    split_ifs <;> simp [*]
  rw [← hany]
  by_cases h : q = 0
  · cases has : as || bs <;> simp [hz, h]
  · rw [if_neg h] at hq
    cases has : as || bs <;> simp [hz, h, ← hq]

theorem QEntry.mmacOk_iff (e : QEntry) (p : Dep) (a b : SReg) (c : BitVec 3) :
    e.mmacOk = true ↔ ¬ setupWrong e (.mmac p a b c) := by
  have ha := wbit_iff (nthD e.setup 1 0) 13
  have hb := wbit_iff (nthD e.setup 1 0) 14
  have hh : (!(wbit (nthD e.setup 1 0) 12)) = true ↔ e.ms 1 / 2 ^ 12 % 2 = 0 := by
    rw [Bool.not_eq_true', ← Bool.not_eq_true, wbit_iff, QEntry.ms]
    omega
  have hblk := blocks_iff (k := e.mK) ha hb e.mBlk_eq
  have hsa := scales_iff (w := tyWidth (bitsOf (e.ms 1) 0 4)) (n := (addI e.x (sx32 (bitsOf (e.ms 5) 0 32))).toNat) ha hh
  have hsb := scales_iff (w := tyWidth (bitsOf (e.ms 1) 4 4)) (n := (addI e.y (sx32 (bitsOf (e.ms 5) 32 32))).toNat) hb hh
  have hfa : bitsOf (e.ms 1) 0 4 = e.ms 1 % 16 := by simp [bitsOf]
  have hsc : bitsOf (e.ms 5) 0 32 = e.ms 5 % 2 ^ 32 := by simp [bitsOf]
  rw [hfa, hsc] at hsa
  simp only [QEntry.mmacOk, setupWrong, hfa, hsc, Bool.and_eq_true, not_or, and_assoc, e.shapeOk_iff, mmacFormats_iff]
  constructor
  · rintro ⟨hshape, hfmt, h2, h3, h6, hx, hy, hb16, hstride, hon, hk, hwa, hwb, haa, hab⟩
    simp only [Bool.or_eq_true, decide_eq_true_eq] at h2 h3 h6 hx hy hb16 hstride
    obtain ⟨hon', hk'⟩ := not_or.mp (hblk.mp ⟨hon, hk⟩)
    exact ⟨hshape, not_not.mpr hfmt, by omega, by omega, by omega, by omega, by omega, by omega, by omega, hon', hk',
      hsa.mp ⟨hwa, haa⟩, hsb.mp ⟨hwb, hab⟩⟩
  · rintro ⟨hshape, hfmt, h2, h3, h6, hx, hy, hb16, hstride, hon, hk, hsa', hsb'⟩
    simp only [Bool.or_eq_true, decide_eq_true_eq]
    obtain ⟨hon', hk'⟩ := hblk.mpr (not_or.mpr ⟨hon, hk⟩)
    obtain ⟨hwa, haa⟩ := hsa.mpr hsa'
    obtain ⟨hwb, hab⟩ := hsb.mpr hsb'
    simp only [Bool.or_eq_true, decide_eq_true_eq] at hk' hwa haa hwb hab
    exact ⟨hshape, not_not.mp hfmt, by omega, by omega, by omega, by omega, by omega, by omega, by omega, hon', hk',
      hwa, hwb, haa, hab⟩

/-- The map entry of a band (R299). -/
theorem QEntry.mapOk_iff (e : QEntry) (b : Nat) : e.mapOk b = true ↔
    ¬ (2 ^ 54 ≤ e.ms (8 + b) ∨ 1279 < e.ms (8 + b) % 2 ^ 11 ∨ e.ms (8 + b) / 2 ^ 11 % 16 ≠ 0 ∨ e.ms (8 + b) / 2 ^ 30 % 4 = 3 ∨
       (e.ms (8 + b) / 2 ^ 30 % 4 = 2 ∧ e.ms (8 + b) / 2 ^ 38 % 2 ^ 16 = 0) ∨
       2 ^ 19 < e.ms (8 + b) / 2 ^ 11 % 2 ^ 19 + Nat.min 16 (e.mM - 16 * b) * e.mN * accBytes e.mAcc) := by
  have hcore : e.mapCore b = e.ms (8 + b) % 2 ^ 11 := by simp [QEntry.mapCore, bitsOf]
  have hrows : e.bandRows b = Nat.min 16 (e.mM - 16 * b) := rfl
  have hoff : e.mapOff b = e.ms (8 + b) / 2 ^ 11 % 2 ^ 19 := rfl
  have hkind : e.mapKind b = e.ms (8 + b) / 2 ^ 30 % 4 := rfl
  have hinc : e.mapWinc b = e.ms (8 + b) / 2 ^ 38 % 2 ^ 16 := rfl
  simp only [QEntry.mapOk, hcore, hrows, hoff, hkind, hinc, numCores, Bool.and_eq_true, Bool.not_eq_true', Bool.and_eq_false_iff,
    decide_eq_true_eq, decide_eq_false_iff_not]
  generalize Nat.min 16 (e.mM - 16 * b) * e.mN * accBytes e.mAcc = bytes
  omega

theorem QEntry.mapsOk_iff (e : QEntry) : (List.range e.bands).all e.mapOk = true ↔
    ∀ b, 16 * b < e.mM → e.mapOk b = true := by
  simp only [List.all_eq_true, List.mem_range, QEntry.bands]
  exact forall_congr' fun b => ⟨fun h hb => h (by omega), fun h hb => h (by omega)⟩

/-- The check of the command's own setup (code 5 of R183). -/
theorem QEntry.setupOk_iff (e : QEntry) (i : Instr) : e.setupOk i = true ↔ ¬ setupWrong e i := by
  cases i
  case mballoc p a b c =>
    have hpad : bitsOf (e.ms 7) 12 3 = e.ms 7 / 2 ^ 12 % 8 := rfl
    simp only [QEntry.setupOk, setupWrong, hpad, Bool.and_eq_true, decide_eq_true_eq]
    omega
  case mmac p a b c => exact e.mmacOk_iff p a b c
  case mdrain p a b c =>
    simp only [QEntry.setupOk, setupWrong, Bool.and_eq_true, e.shapeOk_iff, e.mapsOk_iff, e.mapOk_iff, not_or, not_exists, not_and]
  case mfill p a b c =>
    simp only [QEntry.setupOk, setupWrong, Bool.and_eq_true, e.shapeOk_iff, decide_eq_true_eq]
    generalize setupWrong.shapeWrong e = wrong
    by_cases hw : wrong
    · simp [hw]
    · simp only [hw, false_or, not_false_eq_true, true_and]
      omega
  all_goals exact ⟨fun _ hw => hw, fun _ => rfl⟩

/-! ### The nine codes -/

/-- The capability's own fields (code 1 of R183). -/
theorem capFields_iff (cap : Word) : (wfld cap 52 4 ≠ 1 ∨ wbit cap 31 = true ∨ wfld cap 36 4 ≠ 0 ∨ wfld cap 56 8 ≠ 0) ↔
    (cap.toNat / 2 ^ 52 % 16 ≠ 1 ∨ cap.getLsbD 31 = true ∨ cap.toNat / 2 ^ 36 % 16 ≠ 0 ∨ cap.toNat / 2 ^ 56 ≠ 0) := by
  have htop : wfld cap 56 8 = 0 ↔ cap.toNat / 2 ^ 56 = 0 := by
    rw [wfld_top_eq_zero rfl]
    omega
  rw [ne_eq (wfld cap 56 8), htop]
  exact Iff.rfl

/-- The commands that are checked against the owners of their banks (code 4 of R183). -/
def drainsBanks (i : Instr) : Bool := match i with | .mdrain .. => true | .mbfree .. => true | _ => false

/-- The commands whose banks must be allocated (code 6 of R183). -/
def needsBanks (i : Instr) : Bool := match i with | .mmac .. => true | .mzero .. => true | _ => false

/-- The command that needs free banks (code 7 of R183). -/
def takesBanks (i : Instr) : Bool := match i with | .mballoc .. => true | _ => false

section
variable (s : State) (en : Nat) (c : Ctx) (e : QEntry) (i : Instr)

theorem rightCheck_iff : (!(wbit e.cap (rightBit i))) = true ↔ checkFails s en c e i 3 := by
  rw [Bool.not_eq_true']
  exact Iff.rfl

theorem ownerCheck_iff : (drainsBanks i && e.spanKnown i && s.ownerBad (s.engine en) c e i) = true ↔ checkFails s en c e i 4 := by
  cases i
  case mbfree p a b c' =>
    simp only [drainsBanks, checkFails, QEntry.spanKnown, Bool.true_and, Bool.and_eq_true, decide_eq_true_eq, e.countOk_iff,
      e.span_eq, State.ownerBad_iff]
    rw [and_comm (a := (banksTouched _ _).2 ≤ 256), and_assoc]
  case mdrain p a b c' =>
    simp only [drainsBanks, checkFails, QEntry.spanKnown, Bool.true_and, Bool.and_eq_true, decide_eq_true_eq, e.span_eq,
      State.ownerBad_iff, Nat.one_le_iff_ne_zero]
    rw [and_comm (a := (banksTouched _ _).2 ≤ 256)]
    simp only [and_assoc]
  all_goals exact ⟨fun h => absurd h Bool.false_ne_true, fun h => h.1.elim⟩

theorem banksCheck_iff : (256 < (e.span i).2 ∨ (needsBanks i && (spanBanks (e.span i)).any fun b => !((s.engine en).has b)) = true) ↔
    checkFails s en c e i 6 := by
  rw [Bool.and_eq_true, anyFree_iff, e.span_eq]
  refine or_congr_right (and_congr_left' ?_)
  cases i
  case mmac | mzero => exact ⟨fun _ => trivial, fun _ => rfl⟩
  all_goals exact ⟨fun h => absurd h Bool.false_ne_true, False.elim⟩

theorem freeCheck_iff : (takesBanks i && e.countOk && ((s.engine en).freeRun (e.y.toNat % 512)).isNone) = true ↔
    checkFails s en c e i 7 := by
  cases i
  case mballoc p a b c' =>
    simp only [takesBanks, checkFails, Bool.true_and, Bool.and_eq_true, e.countOk_iff, true_and, and_assoc]
    exact and_congr_right fun _ => and_congr_right fun h => Engine.freeRun_isNone_iff h
  all_goals exact ⟨fun h => absurd h Bool.false_ne_true, fun h => h.1.elim⟩

/-- The operands' ranges (code 8 of R183). -/
theorem operandsCheck_iff : (!(e.operandsOk i)) = true ↔ checkFails s en c e i 8 := by
  have hy : e.y = 0 ↔ e.y.toNat = 0 := BitVec.toNat_eq ..
  rw [Bool.not_eq_true', ← Bool.not_eq_true]
  cases i
  case mballoc | mbfree | mzero =>
    simp only [QEntry.operandsOk, checkFails, Bool.and_eq_true, decide_eq_true_eq, hy]
    omega
  case mdrain =>
    simp only [QEntry.operandsOk, checkFails, Bool.and_eq_true, decide_eq_true_eq, ne_eq, hy]
    omega
  all_goals exact ⟨fun h => h rfl, False.elim⟩

/-- An engine gives a command the code of the first check that fails, in the order of R183. -/
theorem State.matCode_iff (code : Nat) : s.matCode en c e i = code ↔ refusal s en c e i code := by
  have hretired : s.retiredEngines.contains en = true ↔ checkFails s en c e i 9 := List.contains_iff_mem
  have hsign : Config.capCheck s.resets en (e.cap.extractLsb' 16 48) ≠ e.cap.extractLsb' 0 16 ↔ checkFails s en c e i 2 := Iff.rfl
  have hsetup : (!(e.setupOk i)) = true ↔ checkFails s en c e i 5 := by
    rw [Bool.not_eq_true', ← Bool.not_eq_true, e.setupOk_iff, not_not]
    exact Iff.rfl
  exact firstCheck_iff (checkFails s en c e i) hretired (capFields_iff e.cap) hsign (rightCheck_iff ..) (ownerCheck_iff ..)
    hsetup (banksCheck_iff ..) (freeCheck_iff ..) (operandsCheck_iff ..) code

end

end Sys2Proof.Machine
end

section
/-! SUPPORT. The engines' service (R182 to R192), copies that are done (R304, R306), drain arrivals (R189), format registers (R148). -/

namespace Sys2Proof.Machine

open Sys2Proof.Safety

/-! ### A command's word completes (R185, R301) -/

/-- A command's record is ended: its one scalar write, if it has any, has landed, and its tc count has fallen. -/
structure CommandEnds (c : Ctx) (id : Nat) (wr : List Wr) (c' : Ctx) : Prop where
  landed : ∀ d v, wr = [.s d v] → d ≠ 0 → c'.reg d = v
  other : ∀ r, (∀ d v, wr = [.s d v] → r ≠ d) → c'.reg r = c.reg r
  tc : c'.tc = c.tc - 1
  pend : c'.pendOf id = none
  grid : c'.grid = c.grid

theorem Ctx.pendOf_of_filter {c c' : Ctx} {id : Nat} (h : c'.pend = c.pend.filter fun q => q.id != id) : c'.pendOf id = none := by
  rw [Ctx.pendOf, h, List.find?_eq_none]
  intro p hp
  simpa using (List.mem_filter.mp hp).2

/-- The fields of a context that no landing of a word's writes touches. -/
def SameCommands (c c' : Ctx) : Prop := c'.tc = c.tc ∧ c'.min = c.min ∧ c'.uid = c.uid ∧ c'.mport = c.mport

theorem SameCommands.rfl {c : Ctx} : SameCommands c c := ⟨Eq.refl _, Eq.refl _, Eq.refl _, Eq.refl _⟩

theorem SameCommands.trans {c c' c'' : Ctx} (h : SameCommands c c') (h' : SameCommands c' c'') : SameCommands c c'' := by
  obtain ⟨h1, h2, h3, h4⟩ := h
  obtain ⟨h1', h2', h3', h4'⟩ := h'
  exact ⟨h1'.trans h1, h2'.trans h2, h3'.trans h3, h4'.trans h4⟩

theorem EndOnly.sameCommands {c c' : Ctx} (h : EndOnly c c') : SameCommands c c' := by
  unfold EndOnly at h
  rw [h]
  exact SameCommands.rfl

theorem Ctx.applyWr_sameCommands (c : Ctx) (w : Wr) : SameCommands c (c.applyWr w) := by
  cases w with
  | s r v =>
    show SameCommands c (c.setReg r v)
    rw [Ctx.setReg_eq]
    exact SameCommands.rfl
  | mask r v =>
    show SameCommands c (c.setMask r v)
    rw [Ctx.setMask_eq]
    exact SameCommands.rfl
  | csr n v =>
    show SameCommands c (c.setCsr n v)
    unfold Ctx.setCsr
    split <;> exact SameCommands.rfl
  | cell n m v => exact SameCommands.rfl
  | vt v => exact SameCommands.rfl
  | fpsr v => exact SameCommands.rfl

theorem landWrs_sameCommands (id : Nat) (ws : List Wr) (c : Ctx) :
    SameCommands c (ws.foldl (fun c w => c.landWr id w) c) := by
  induction ws generalizing c with
  | nil => exact SameCommands.rfl
  | cons w ws ih =>
    exact ((c.applyWr_sameCommands w).trans (Ctx.older_only _ _ _).sameCommands).trans (ih _)

/-- A word that has landed its writes completes (R19, R28). -/
def Ctx.ended (c : Ctx) (p : Pend) : Ctx :=
  (((c.dropPend p.id).decCtr? p.ctr).landFlags p.id p.flags).complete p.st p.id p.push

theorem Ctx.ended_fields (c : Ctx) (p : Pend) :
    (c.ended p).min = c.min ∧ (c.ended p).uid = c.uid ∧ (c.ended p).mport = c.mport := by
  have hctr : ∀ (x : Ctx) (k : Option Ctr), (x.decCtr? k).min = x.min ∧ (x.decCtr? k).uid = x.uid ∧ (x.decCtr? k).mport = x.mport := by
    intro x k
    rcases k with _ | _ | _ | _ | _ <;> exact ⟨rfl, rfl, rfl⟩
  obtain ⟨-, h1, h2, h3⟩ := ((Ctx.older_only { (c.dropPend p.id).decCtr? p.ctr with
    fpsr := ((c.dropPend p.id).decCtr? p.ctr).fpsr ||| p.flags.zeroExtend 64 } p.id fun e =>
      { e with fpsr := e.fpsr ||| p.flags.zeroExtend 64 }).trans (Ctx.complete_only _ p.st p.id p.push)).sameCommands
  obtain ⟨g1, g2, g3⟩ := hctr (c.dropPend p.id) p.ctr
  exact ⟨h1.trans g1, h2.trans g2, h3.trans g3⟩

theorem Ctx.ended_tc {c : Ctx} {p : Pend} (h : p.ctr = some .tc) : (c.ended p).tc = c.tc - 1 := by
  unfold Ctx.ended
  rw [h]
  exact ((Ctx.older_only { (c.dropPend p.id).decCtr .tc with
    fpsr := ((c.dropPend p.id).decCtr .tc).fpsr ||| p.flags.zeroExtend 64 } p.id fun e =>
      { e with fpsr := e.fpsr ||| p.flags.zeroExtend 64 }).trans (Ctx.complete_only _ p.st p.id p.push)).sameCommands.1

/-- A word all of whose writes may land ends with them. -/
theorem Ctx.landVals_whole {c : Ctx} {p : Pend} (h : ∀ w ∈ p.own, c.mayLand p w = true) :
    c.landVals p = (p.own.foldl (fun c w => c.landWr p.id w) c).ended p := by
  have hgo : p.own.filter (c.mayLand p) = p.own := List.filter_eq_self.mpr h
  have hrest : (p.own.filter fun w => !(c.mayLand p w)) = [] := by simpa using h
  simp only [Ctx.landVals, hgo, hrest, Ctx.ended]

/-- The commands at M, the port and the context's number are no landing's. -/
theorem Ctx.landVals_fields (c : Ctx) (p : Pend) :
    (c.landVals p).min = c.min ∧ (c.landVals p).uid = c.uid ∧ (c.landVals p).mport = c.mport := by
  obtain ⟨-, h1, h2, h3⟩ := landWrs_sameCommands p.id (p.own.filter (c.mayLand p)) c
  unfold Ctx.landVals
  dsimp only
  split
  · obtain ⟨g1, g2, g3⟩ := Ctx.ended_fields ((p.own.filter (c.mayLand p)).foldl (fun c w => c.landWr p.id w) c) p
    exact ⟨g1.trans h1, g2.trans h2, g3.trans h3⟩
  · exact ⟨h1, h2, h3⟩

/-- A word with no write, or one scalar write that may land. -/
def LandsWhole (c : Ctx) (p : Pend) (wr : List Wr) : Prop :=
  wr = [] ∨ ∃ d v, wr = [.s d v] ∧ (d ≠ 0 → .s d ∈ p.dsts) ∧ (d ≠ 0 → c.pendingBefore p.id (.s d) = false)

theorem LandsWhole.mayLand {c : Ctx} {p : Pend} (h : LandsWhole c p p.wr) : ∀ w ∈ p.own, c.mayLand p w = true := by
  rcases h with hw | ⟨d, v, hw, hd, hm⟩
  · simp [Pend.own, hw]
  · rw [Pend.own_scalar hw hd]
    split_ifs with h0
    · nofun
    · intro w hmem
      rw [List.mem_singleton.mp hmem]
      simp [Ctx.mayLand, Wr.dst, hm h0]

/-- Such a word of M ends with its result landed (R79, R185). -/
theorem Ctx.landVals_ends {c : Ctx} {p : Pend} (hk : p.ctr = some .tc) (h : LandsWhole c p p.wr) :
    CommandEnds c p.id p.wr (c.landVals p) := by
  have htc : (c.landVals p).tc = c.tc - 1 := by
    rw [Ctx.landVals_whole h.mayLand, Ctx.ended_tc hk, (landWrs_sameCommands ..).1]
  rcases h with hw | ⟨d, v, hw, hd, hm⟩
  · have hs : LandsScalar c p.id 0 0 p.flags (c.landVals p) := by
      have ho : p.own = [] := by simp [Pend.own, hw]
      rw [Ctx.landVals_whole (by simp [ho]), ho]
      exact LandsScalar.complete rfl
    refine ⟨fun d v hdv => ?_, fun r _ => ?_, htc, Ctx.pendOf_of_filter hs.pend, hs.grid⟩
    · rw [hw] at hdv
      cases hdv
    · rw [Ctx.reg, Ctx.reg, hs.regs]
      rfl
  · have hs := Ctx.landVals_scalar hw hd hm
    refine ⟨fun d' v' hdv hd0 => ?_, fun r hr => hs.reg_other (hr d v hw), htc, Ctx.pendOf_of_filter hs.pend, hs.grid⟩
    rw [hw] at hdv
    obtain ⟨rfl, rfl⟩ : d = d' ∧ v = v' := by simpa using hdv
    rw [hs.reg_same, if_neg hd0]

theorem Ctx.id_of_pendOf {c : Ctx} {id : Nat} {p : Pend} (h : c.pendOf id = some p) : p.id = id := by
  simpa using List.find?_some h

theorem Ctx.matDone_fields (c : Ctx) (now id : Nat) (wr : List Wr) :
    (c.matDone now id wr).min = c.min ∧ (c.matDone now id wr).uid = c.uid ∧ (c.matDone now id wr).mport = c.mport := by
  unfold Ctx.matDone
  split
  · exact ⟨rfl, rfl, rfl⟩
  · exact Ctx.landVals_fields ..

theorem Ctx.matDone_ends {c : Ctx} {id : Nat} {p : Pend} {wr : List Wr} (now : Nat) (hp : c.pendOf id = some p)
    (h : LandsWhole c p wr) : CommandEnds c id wr (c.matDone now id wr) := by
  have hd : c.matDone now id wr = c.landVals { p with due := some now, ctr := some .tc, act := .vals, wr := wr } := by
    rw [Ctx.matDone, hp]
  rw [hd, ← Ctx.id_of_pendOf hp]
  exact Ctx.landVals_ends (p := { p with due := some now, ctr := some .tc, act := .vals, wr := wr }) rfl h

/-! ### A refusal in the port status (R184) -/

theorem portRefuse_eq (v : Word) (code : Nat) : portRefuse v code = refusedStatus v code := by
  simp [portRefuse, refusedStatus, wfld, bitsOf]

/-- The port status is changed apart from the rest, but for the state kept from a trap's entry. -/
theorem Ctx.setPort_only (c : Ctx) (id : Nat) (f : Word → Word) : EndOnly { c with mport := f c.mport } (c.setPort id f) :=
  Ctx.older_only ..

theorem Ctx.setPort_fields (c : Ctx) (id : Nat) (f : Word → Word) : (c.setPort id f).mport = f c.mport ∧
    (c.setPort id f).min = c.min ∧ (c.setPort id f).uid = c.uid := by
  obtain ⟨-, h1, h2, h3⟩ := (c.setPort_only id f).sameCommands
  exact ⟨h3, h1, h2⟩

theorem CommandEnds.setPort {c c' : Ctx} {id : Nat} {wr : List Wr} (h : CommandEnds c id wr c') (n : Nat) (f : Word → Word) :
    CommandEnds c id wr (c'.setPort n f) := by
  obtain ⟨h1, h2, h3, h4, h5⟩ := h
  obtain ⟨hregs, hgrid, -, hpend, -⟩ := (c'.setPort_only n f).fields
  have hreg : ∀ r, (c'.setPort n f).reg r = c'.reg r := fun r => by rw [Ctx.reg, Ctx.reg, hregs]
  have hpo : ∀ i, (c'.setPort n f).pendOf i = c'.pendOf i := fun i => by rw [Ctx.pendOf, Ctx.pendOf, hpend]
  exact ⟨fun d v hw hd => (hreg d).trans (h1 d v hw hd), fun r hr => (hreg r).trans (h2 r hr),
    (c'.setPort_only n f).sameCommands.1.trans h3, (hpo id).trans h4, hgrid.trans h5⟩

theorem Ctx.matRefuse_fields (c : Ctx) (now : Nat) (e : QEntry) (code : Nat) :
    (c.matRefuse now e code).mport = refusedStatus c.mport code ∧ (c.matRefuse now e code).min = c.min ∧
      (c.matRefuse now e code).uid = c.uid := by
  obtain ⟨h1, h2, h3⟩ := c.matDone_fields now e.id (e.landSa (BitVec.allOnes 64))
  obtain ⟨g1, g2, g3⟩ := (c.matDone now e.id (e.landSa (BitVec.allOnes 64))).setPort_fields e.id (portRefuse · code)
  refine ⟨g1.trans ?_, g2.trans h1, g3.trans h2⟩
  rw [h3, portRefuse_eq]

/-- A refused MBALLOC returns all ones (R184). -/
theorem Ctx.matRefuse_mballoc {c : Ctx} {e : QEntry} {p0 : Pend} {p : Dep} {a b : SReg} {cap : BitVec 3} (now code : Nat)
    (hw : e.word = some (.mballoc p a b cap)) (hp : c.pendOf e.id = some p0) (hd : .s a ∈ p0.dsts)
    (hm : c.pendingBefore e.id (.s a) = false) :
    CommandEnds c e.id [.s a (BitVec.allOnes 64)] (c.matRefuse now e code) := by
  have hl : e.landSa (BitVec.allOnes 64) = [.s a (BitVec.allOnes 64)] := by rw [QEntry.landSa, hw]
  unfold Ctx.matRefuse
  rw [hl]
  refine CommandEnds.setPort ?_ _ _
  refine Ctx.matDone_ends now hp (.inr ⟨a, _, rfl, fun _ => hd, fun _ => ?_⟩)
  rwa [Ctx.id_of_pendOf hp]

/-! ### The rotation (R191) -/

theorem State.engine_updEngine (s : State) (en : Nat) (f : Engine → Engine) :
    (s.updEngine en f).engine en = f (s.engine en) := mgetD_mupd_same ..

/-- The issuer's turn ends as one command leaves its engine (R191). -/
theorem Engine.rot_rotate {g : Engine} {en id : Nat} {c c1 : Ctx} (hm : c1.min = c.min.filter fun x => x.id != id)
    (hu : c1.uid = c.uid) : (g.rotate en c1).rot = g.rot.filter (· != c.uid) ++
      (if ∃ x ∈ c.min, x.id ≠ id ∧ capObj x.cap = en then [c.uid] else []) := by
  have hz : c1.minAt en = 0 ↔ ¬ ∃ x ∈ c.min, x.id ≠ id ∧ capObj x.cap = en := by
    simp only [Ctx.minAt, countAt, hm, List.length_eq_zero_iff, List.filter_filter, List.filter_eq_nil_iff, Bool.and_eq_true,
      beq_iff_eq, bne_iff_ne, not_exists, not_and]
    exact forall₂_congr fun x _ => ⟨fun h hn hc => h hc hn, fun h hc hn => h hn hc⟩
  simp only [Engine.rotate, hz, hu, ite_not]

/-- The next issuer is the first in rotation that has a command to serve. -/
theorem State.matPick_spec {s : State} {en k : Nat} {e : QEntry} (h : s.matPick en = some (k, e)) :
    ∃ before u after, (s.engine en).rot = before ++ u :: after ∧ s.berthOf u = some k ∧ s.matHead en k = some e ∧
      ∀ v ∈ before, ∀ j, s.berthOf v = some j → s.matHead en j = none := by
  obtain ⟨before, u, after, hrot, hu, hbefore⟩ := List.findSome?_eq_some_iff.mp h
  obtain ⟨j, hj, hh⟩ := Option.bind_eq_some_iff.mp hu
  obtain ⟨x, hx, hjx⟩ := Option.map_eq_some_iff.mp hh
  obtain ⟨rfl, rfl⟩ := Prod.mk.inj hjx
  refine ⟨before, u, after, hrot, hj, hx, fun v hv j' hj' => ?_⟩
  have hn := hbefore v hv
  rw [hj', Option.bind_some, Option.map_eq_none_iff] at hn
  exact hn

/-! ### Locks (R105) -/

theorem State.coreAt_updCore (s : State) (n m : Nat) (f : Core → Core) :
    (s.updCore n f).coreAt m = if m = n then f (s.coreAt n) else s.coreAt m := by
  unfold State.coreAt State.updCore
  split_ifs with h
  · subst h
    exact mgetD_mupd_same ..
  · exact mgetD_mupd_other _ _ _ _ h

theorem State.lockBanks_only (h : Nat) (bs : List (Nat × Nat)) (s : State) :
    ∃ cs, s.lockBanks h bs = { s with cores := cs } := by
  induction bs generalizing s with
  | nil => exact ⟨s.cores, rfl⟩
  | cons b bs ih =>
    obtain ⟨cs, hcs⟩ := ih (s.updCore b.1 fun c => { c with locks := c.locks ++ [(b.2, h)] })
    exact ⟨cs, hcs⟩

/-- Locked banks stay locked, and those of the list are. -/
theorem State.mem_lockBanks (h : Nat) (bs : List (Nat × Nat)) (s : State) (b : Nat × Nat)
    (hb : b ∈ bs ∨ (b.2, h) ∈ (s.coreAt b.1).locks) : (b.2, h) ∈ ((s.lockBanks h bs).coreAt b.1).locks := by
  induction bs generalizing s with
  | nil => exact hb.resolve_left List.not_mem_nil
  | cons x bs ih =>
    refine ih (s.updCore x.1 fun c => { c with locks := c.locks ++ [(x.2, h)] }) ?_
    rw [List.mem_cons, or_assoc] at hb
    rw [State.coreAt_updCore]
    rcases hb with rfl | hb | hb
    · exact .inr (by simp)
    · exact .inl hb
    · right
      split_ifs with hx
      · rw [← hx]
        exact List.mem_append_left _ hb
      · exact hb

/-! ### Acceptance and service (R182, R183, R191) -/

theorem State.putCtx_engines (s : State) (k : Nat) (c : Ctx) : (s.putCtx k c).engines = s.engines := by
  unfold State.putCtx
  split <;> rfl

theorem State.putCtx_arrivals (s : State) (k : Nat) (c : Ctx) : (s.putCtx k c).arrivals = s.arrivals := by
  unfold State.putCtx
  split <;> rfl

theorem portBad_iff (cap : Word) :
    portBad cap = true ↔ cap.toNat / 2 ^ 52 % 16 ≠ 1 ∨ 160 ≤ cap.toNat / 2 ^ 40 % 2 ^ 12 := by
  simp only [portBad, Bool.or_eq_true, decide_eq_true_eq]
  exact Iff.rfl

/-- The issuer stands in the rotation once (R191). -/
def joined (uid : Nat) (g : Engine) : Engine := { g with rot := if uid ∈ g.rot then g.rot else g.rot ++ [uid] }

theorem State.matAccept_accepts {s : State} {k : Nat} {c : Ctx} {e : QEntry} (hc : s.ctxAt k = some c) (he : c.mact = some e)
    (hp : portBad e.cap = false) : s.matAccept k = { s.putCtx k { c with mact := none, min := c.min ++ [e] } with
      engines := mupd s.engines (capObj e.cap) Engine.reset (joined c.uid) } := by
  have hj : (fun g : Engine => if g.rot.contains c.uid then g else { g with rot := g.rot ++ [c.uid] }) = joined c.uid := by
    funext g
    by_cases h : c.uid ∈ g.rot
    · simp [joined, h]
    · simp [joined, h]
  simp only [State.matAccept, hc, he, hp, Bool.false_eq_true, ↓reduceIte, hj, State.updEngine, State.putCtx_engines]

theorem State.matAccept_refuses {s : State} {k : Nat} {c : Ctx} {e : QEntry} (hc : s.ctxAt k = some c) (he : c.mact = some e)
    (hp : portBad e.cap = true) : s.matAccept k = s.putCtx k ({ c with mact := none }.matRefuse s.now e 1) := by
  simp only [State.matAccept, hc, he, hp, ↓reduceIte]

section
variable {s : State} {en k : Nat} {c : Ctx} {e : QEntry} {i : Instr}

/-- The package with the command of berth `k` in service, a drain with its banks locked. -/
def inService (s : State) (en k : Nat) (c : Ctx) (e : QEntry) : State :=
  { ((s.unlockBanks (drainHolder c.uid)).lockBanks (drainHolder c.uid) e.drainBanks).updEngine en fun g =>
      { g with serving := some k, ran := false } with turn := .engine en }

theorem State.matStart_serves (hp : s.matPick en = some (k, e)) (hc : s.ctxAt k = some c) (hw : e.word = some i)
    (ho : e.begun = true ∨ s.matCode en c e i = 0) : s.matStart en = inService s en k c e := by
  have h0 : (if e.begun = true then 0 else s.matCode en c e i) = 0 := by
    rcases ho with h | h
    · rw [if_pos h]
    · rw [h, ite_self]
  simp only [State.matStart, hp, hc, hw, h0, ne_eq, not_true_eq_false, ↓reduceIte]
  rfl

theorem State.matStart_refuses (hp : s.matPick en = some (k, e)) (hc : s.ctxAt k = some c) (hw : e.word = some i)
    (hb : e.begun = false) (hn : s.matCode en c e i ≠ 0) : s.matStart en =
      (s.putCtx k ((c.leaveMin e.id).matRefuse s.now e (s.matCode en c e i))).updEngine en fun g =>
        g.rotate en ((c.leaveMin e.id).matRefuse s.now e (s.matCode en c e i)) := by
  simp only [State.matStart, hp, hc, hw, hb, Bool.false_eq_true, ↓reduceIte, ne_eq, hn, not_false_eq_true]

/-- What service changes: the engine, the turn and the locks (R105, R191). -/
theorem inService_fields (hc : s.ctxAt k = some c) :
    (inService s en k c e).turn = .engine en ∧ ((inService s en k c e).engine en).serving = some k ∧
      ((inService s en k c e).engine en).ran = false ∧ ((inService s en k c e).engine en).rot = (s.engine en).rot ∧
      (inService s en k c e).mem = s.mem ∧ (inService s en k c e).ctxAt k = some c ∧
      ∀ b ∈ e.drainBanks, (b.2, drainHolder c.uid) ∈ ((inService s en k c e).coreAt b.1).locks := by
  have hlocks := fun b hb => State.mem_lockBanks (drainHolder c.uid) e.drainBanks (s.unlockBanks (drainHolder c.uid)) b (.inl hb)
  obtain ⟨cs, hcs⟩ := State.lockBanks_only (drainHolder c.uid) e.drainBanks (s.unlockBanks (drainHolder c.uid))
  have hg := State.engine_updEngine ((s.unlockBanks (drainHolder c.uid)).lockBanks (drainHolder c.uid) e.drainBanks) en
    fun g => { g with serving := some k, ran := false }
  have hge : (inService s en k c e).engine en = { s.engine en with serving := some k, ran := false } := by
    refine hg.trans ?_
    rw [hcs]
    rfl
  refine ⟨rfl, ?_, ?_, ?_, ?_, ?_, hlocks⟩
  · rw [hge]
  · rw [hge]
  · rw [hge]
  · unfold inService
    rw [hcs]
    rfl
  · unfold inService
    rw [hcs]
    exact hc

/-! ### Completion (R185, R191) -/

/-- The command in service leaves its engine with the result noted in its record. -/
theorem State.matComplete_eq {p : Pend} (hs : s.served en = some (k, c, e)) (hp : c.pendOf e.id = some p) :
    ∃ s1, (s1 = s ∨ s1 = s.unlockBanks (drainHolder c.uid)) ∧ s.matComplete en =
      (s1.putCtx k ((c.leaveMin e.id).matDone s.now e.id p.wr)).updEngine en fun g =>
        { g.rotate en ((c.leaveMin e.id).matDone s.now e.id p.wr) with serving := none, ran := false } := by
  refine ⟨if e.drainBanks.isEmpty then s else s.unlockBanks (drainHolder c.uid), ite_eq_or_eq .., ?_⟩
  simp only [State.matComplete, hs, hp, Option.map_some, Option.getD_some]

end

/-! ### A copy that is done (R304, R306) -/

theorem mem_mgetD {β : Type} {m : SMap β} {a : Nat} {d : β} : mgetD m a d = d ∨ (a, mgetD m a d) ∈ m := by
  induction m with
  | nil => exact .inl rfl
  | cons x r ih =>
    unfold mgetD mget
    split_ifs with h
    · subst h
      exact .inr (List.mem_cons_self ..)
    · exact ih.imp_right (List.mem_cons_of_mem _)

/-- After its locks end no core has one of the holder's. -/
theorem State.unlockBanks_locks {s : State} {h : Nat} {x : Nat × Core} (hx : x ∈ (s.unlockBanks h).cores) :
    ∀ l ∈ x.2.locks, l.2 ≠ h := by
  obtain ⟨y, -, rfl⟩ := List.mem_map.mp hx
  intro l hl
  simpa using (List.mem_filter.mp hl).2

/-- The context after its copy (R306). -/
def copyEnded (c : Ctx) (id : Nat) (qs : List Nat) : Ctx :=
  (({ c with cact := none }.dropPend id).decCtr .cc).complete .c id qs

theorem copyEnded_fields (c : Ctx) (id : Nat) (qs : List Nat) : (copyEnded c id qs).cact = none ∧
    (copyEnded c id qs).cc = c.cc - 1 ∧ (copyEnded c id qs).regs = c.regs ∧ (copyEnded c id qs).pendOf id = none := by
  have h := Ctx.complete_only (({ c with cact := none }.dropPend id).decCtr .cc) .c id qs
  have hpend : (copyEnded c id qs).pend = c.pend.filter fun q => q.id != id := h.fields.2.2.2.1
  refine ⟨?_, ?_, h.fields.1, Ctx.pendOf_of_filter hpend⟩
  · unfold EndOnly at h
    unfold copyEnded
    rw [h]
    rfl
  · unfold EndOnly at h
    unfold copyEnded
    rw [h]
    rfl

/-- The arrival of a copy, where it posts one (R304). -/
def copyPosted (s : State) (core : Nat) (e : QEntry) : State :=
  if e.cKind = 2 then s.postArrival (match placeOf core e.x.toNat with | .spad n _ => n | _ => core) e.cWent e.cWinc else s

theorem State.copyDone_eq {s : State} {k : Nat} {c : Ctx} {e : QEntry} (hc : s.ctxAt k = some c) (he : c.cact = some e) :
    s.copyDone k e.id = (((copyPosted s (k / 4) e).putCtx k (copyEnded c e.id (pushesOf .c e.p))).unlockBanks
      (copyHolder c.uid)).copyStops (k / 4) := by
  simp only [State.copyDone, hc, he, ne_eq, not_true_eq_false, ↓reduceIte]
  rfl

/-- The copy engine that stops keeps the locks of the cores. -/
theorem State.copyStops_locks {s : State} {h core : Nat} {x : Nat × Core} (hx : x ∈ ((s.unlockBanks h).copyStops core).cores) :
    ∀ l ∈ x.2.locks, l.2 ≠ h := by
  rcases mem_mput hx with rfl | hx
  · intro l hl
    rcases mem_mgetD (m := (s.unlockBanks h).cores) (a := core) (d := Core.reset) with hm | hm
    · rw [hm] at hl
      cases hl
    · exact State.unlockBanks_locks hm l hl
  · exact State.unlockBanks_locks hx

/-! ### Arrivals of a drain (R189) -/

theorem mem_granules {off len g : Nat} (h : 0 < len) (hg : off / 16 ≤ g) (hl : 16 * g < off + len) : g ∈ granules off len := by
  rw [granules, if_neg h.ne']
  exact List.mem_map.mpr ⟨g - off / 16, List.mem_range.mpr (by omega), by omega⟩

/-- A full-empty bit set leaves memory and the other bits (R151). -/
theorem State.feSet_fields (s : State) (core g : Nat) : (s.feSet core g).mem = s.mem ∧
    ∀ x, s.isFull core x = true ∨ x = g → (s.feSet core g).isFull core x = true := by
  obtain ⟨hmem, hfe, -⟩ := ((s.setFull core g).coreEvent_woken core 0).1.fields
  refine ⟨hmem.trans (s.setFull_fields core g 0).1, fun x hx => ?_⟩
  unfold State.feSet State.isFull
  rw [hfe]
  exact s.isFull_setFull core g x hx

theorem foldl_feSet (core : Nat) (l : List Nat) (s : State) : (l.foldl (fun s g => s.feSet core g) s).mem = s.mem ∧
    ∀ x, s.isFull core x = true ∨ x ∈ l → (l.foldl (fun s g => s.feSet core g) s).isFull core x = true := by
  induction l generalizing s with
  | nil => exact ⟨rfl, fun x hx => hx.resolve_right List.not_mem_nil⟩
  | cons g l ih =>
    obtain ⟨hmem, hfull⟩ := s.feSet_fields core g
    obtain ⟨hmem', hfull'⟩ := ih (s.feSet core g)
    refine ⟨hmem'.trans hmem, fun x hx => hfull' x ?_⟩
    rw [List.mem_cons, ← or_assoc] at hx
    exact hx.imp_left (hfull x)

/-! ### Format registers (R148) -/

/-- The defined bits of a format register: bits 0 to 6 and 12 to 30. -/
theorem fmtBits_iff (j : Nat) : (0x7FFFF07F : Word).getLsbD j = (decide (j < 7) || (decide (12 ≤ j) && decide (j < 31))) := by
  by_cases h : j < 31
  · interval_cases j <;> rfl
  · have hlt : (0x7FFFF07F : Word).toNat < 2 ^ j :=
      lt_of_lt_of_le (by decide : (0x7FFFF07F : Word).toNat < 2 ^ 31) (Nat.pow_le_pow_right (by decide) (by omega))
    rw [BitVec.getLsbD, Nat.testBit_lt_two_pow hlt]
    simp [h, show ¬ j < 7 by omega]

/-- The word that a format register takes (R148). -/
def fmtTaken (old v : Word) : Word :=
  (v &&& 0x7FFFF07F) ||| (if v.getLsbD 63 then 0 else old &&& 0x8000000000000000)

theorem fmtTaken_getLsbD (old v : Word) (j : Nat) : (fmtTaken old v).getLsbD j =
    (if j = 63 then old.getLsbD 63 && !v.getLsbD 63
      else (decide (j < 7) || (decide (12 ≤ j) && decide (j < 31))) && v.getLsbD j) := by
  have herr : (0x8000000000000000 : Word).getLsbD j = decide (j = 63) := by
    rw [show (0x8000000000000000 : Word) = BitVec.twoPow 64 63 from rfl, BitVec.getLsbD_twoPow]
    simp [eq_comm]
  have hkept : (if v.getLsbD 63 then 0 else old &&& 0x8000000000000000 : Word).getLsbD j =
      (!v.getLsbD 63 && (old.getLsbD j && decide (j = 63))) := by
    split_ifs with h
    · simp [h]
    · rw [BitVec.getLsbD_and, herr, Bool.eq_false_of_not_eq_true h, Bool.not_false, Bool.true_and]
  rw [fmtTaken, BitVec.getLsbD_or, BitVec.getLsbD_and, fmtBits_iff, hkept]
  split_ifs with h
  · subst h
    simp [Bool.and_comm]
  · simp [h, Bool.and_comm]

theorem State.fmtWrite_refused {s : State} {core bank : Nat} {v : Word} (h : fmtRefused v.toNat = true) :
    s.fmtWrite core bank v = { s with
      fmts := mput s.fmts (16 * core + bank) (mgetD s.fmts (16 * core + bank) 0xF ||| 0x8000000000000000) } := by
  simp only [State.fmtWrite, h, ↓reduceIte]
  rfl

theorem State.fmtWrite_taken {s : State} {core bank : Nat} {v : Word} (h : fmtRefused v.toNat = false) :
    s.fmtWrite core bank v = { s with
      fmts := mput s.fmts (16 * core + bank) (fmtTaken (mgetD s.fmts (16 * core + bank) 0xF) v) } := by
  simp only [State.fmtWrite, h, Bool.false_eq_true, ↓reduceIte]
  rfl

/-- Settles O38: each clause is the lemma above about the engine's part in it. -/
theorem enginesServe : Obligations.EnginesServe := by
  unfold Obligations.EnginesServe
  intro k en s c e hc
  refine ⟨?accepted, fun code => (c.matRefuse_fields s.now e code).1, fun code i _ => State.matCode_iff s en c e i code, ?mballoc,
    ?idle, fun hp => State.matPick_spec hp, ?started, ?completed, ?copied, ?arrived, ?format⟩
  case accepted =>
    rintro he rfl
    refine ⟨fun hkind hen => ?_, fun hbad => ?_⟩
    · have hp : portBad e.cap = false := by
        rw [← Bool.not_eq_true, portBad_iff]
        omega
      exact congrArg Host.Outcome.next (State.matAccept_accepts hc he hp)
    · exact congrArg Host.Outcome.next (State.matAccept_refuses hc he ((portBad_iff _).mpr hbad))
  case mballoc =>
    intro p0 p a b cap code hw hp _ _ ha hd hm
    obtain ⟨hland, hother, htc, hpend, -⟩ := Ctx.matRefuse_mballoc s.now code hw hp hd hm
    refine ⟨hland a _ rfl ha, fun r hr => hother r fun d v hdv => ?_, htc, hpend⟩
    obtain ⟨rfl, -⟩ : a = d ∧ BitVec.allOnes 64 = v := by simpa using hdv
    exact hr
  case idle =>
    intro hp
    refine congrArg Host.Outcome.next ?_
    rw [State.matStart, hp]
  case started =>
    intro i hp hw
    refine ⟨fun ho => ?_, fun hb hn => ?_⟩
    · exact ⟨_, congrArg Host.Outcome.next (State.matStart_serves hp hc hw ho), inService_fields hc⟩
    · obtain ⟨-, hmin, huid⟩ := (c.leaveMin e.id).matRefuse_fields s.now e (s.matCode en c e i)
      refine ⟨_, congrArg Host.Outcome.next (State.matStart_refuses hp hc hw hb hn), State.putCtx_turn .., State.putCtx_mem .., ?_,
        State.ctxAt_putCtx ..⟩
      rw [State.engine_updEngine, Engine.rot_rotate hmin huid, State.putCtx_engine]
  case completed =>
    intro p d v hs hp _ _ hwr
    obtain ⟨s1, hs1, heq⟩ := State.matComplete_eq hs hp
    have hmem : s1.mem = s.mem := by rcases hs1 with rfl | rfl <;> rfl
    have heng : s1.engine en = s.engine en := by rcases hs1 with rfl | rfl <;> rfl
    have hid := Ctx.id_of_pendOf hp
    have hwhole : LandsWhole (c.leaveMin e.id) p p.wr := by
      rcases hwr with h | ⟨h, hd, hm⟩
      · exact .inl h
      · exact .inr ⟨d, v, h, hd, fun _ => hid ▸ hm⟩
    obtain ⟨hland, hother, htc, hpend, hgrid⟩ := Ctx.matDone_ends s.now (show (c.leaveMin e.id).pendOf e.id = some p from hp) hwhole
    obtain ⟨hmin, huid, -⟩ := (c.leaveMin e.id).matDone_fields s.now e.id p.wr
    refine ⟨_, _, congrArg Host.Outcome.next heq, State.ctxAt_putCtx .., hmin, htc, hland d v, fun r hr => hother r fun d' v' h' => ?_,
      hgrid, hpend, ?_, (State.putCtx_mem ..).trans hmem, ?_⟩
    · rcases hwr with h | ⟨h, -, -⟩
      · rw [h] at h'
        cases h'
      · obtain ⟨rfl, -⟩ : d = d' ∧ v = v' := by simpa [h] using h'
        exact hr.resolve_left (by simp [h])
    · rw [State.engine_updEngine]
    · rw [State.engine_updEngine]
      refine (Engine.rot_rotate hmin huid).trans ?_
      rw [State.putCtx_engine, heng]
  case copied =>
    intro he
    obtain ⟨hact, hcc, hregs, hpend⟩ := copyEnded_fields c e.id (pushesOf .c e.p)
    refine ⟨_, _, congrArg Host.Outcome.next (State.copyDone_eq hc he), State.ctxAt_putCtx .., hact, hcc, hregs, hpend, ?_, ?_,
      fun x hx => State.copyStops_locks hx, fun hne => ?_, fun n hn h2 => ?_⟩
    · rw [State.copyStops, State.coreAt_updCore, if_pos rfl]
    · refine (State.putCtx_mem ..).trans ?_
      unfold copyPosted
      split_ifs <;> rfl
    · refine (State.putCtx_arrivals ..).trans ?_
      rw [copyPosted, if_neg hne]
    · refine (State.putCtx_arrivals ..).trans ?_
      rw [copyPosted, if_pos h2, hn]
      rfl
  case arrived =>
    refine fun core off len went winc => ⟨fun hlen => ?_, rfl, rfl⟩
    obtain ⟨hmem, hfull⟩ := foldl_feSet core (granules off len) s
    exact ⟨_, rfl, hmem, fun g hg hl => hfull g (.inr (mem_granules hlen hg hl))⟩
  case format =>
    intro core bank v
    refine ⟨fun h => congrArg Host.Outcome.next (State.fmtWrite_refused h), fun h => ⟨_, fmtTaken_getLsbD _ v, ?_⟩⟩
    exact congrArg Host.Outcome.next (State.fmtWrite_taken h)

end Sys2Proof.Machine
end

section
/-! SUPPORT. The host's writes to the scratchpads under a dual-home window (R348, R376). -/

namespace Sys2Proof.Machine

/-- Outside recovery the host's bytes for the scratchpads are written as every other write to memory is (R348). -/
theorem exec_hostWindowAccess_spad {s : State} {off : Nat} {bs : List Byte} (hp : s.boot.phase ≠ 3) (h0 : 0 < bs.length)
    (hl : off + bs.length ≤ numCores * 0x80000) :
    exec (.hostWindowAccess off true bs) s = .next { s.memWrite (spadLoc 0 off) bs with reply := some (true, []) } := by
  have hb : bar4At off bs.length = .spad (spadLoc 0 off) := by rw [bar4At, if_neg (by omega), if_pos hl]
  simp only [exec, execHostWindowAccess, if_neg hp, State.hostWindow, State.bar4Write, hb, reduceCtorEq, ↓reduceIte]

/-- A byte written in the region of the one dual-home window goes to its new frame too (R376). -/
theorem State.mirror_mem_of_window {s : State} {r loc : Nat} {w : Window} (b : Byte) (hw : s.windows = [(r, w)])
    (hlo : 65536 * r ≤ loc) (hhi : loc < 65536 * r + 65536) :
    (s.mirror loc [b]).mem = s.mem.write (w.frame + (loc - 65536 * r)) b := by
  have hmeets : meets loc 1 (65536 * r) 65536 = true := by
    simp only [meets, Bool.and_eq_true, decide_eq_true_eq]
    omega
  have hpos : 65536 * r + 65536 - loc = 65536 * r + 65535 - loc + 1 := by omega
  simp only [State.mirror, hw, List.foldl_cons, List.foldl_nil, List.length_singleton, hmeets, ↓reduceIte, Nat.max_eq_right hlo,
    Nat.sub_self, List.drop_zero, hpos, List.take_succ_cons, List.take_nil]
  rfl

/-- So does a byte written to a scratchpad, where the window's region holds it. -/
theorem State.memWrite_spad_mem_of_window {s : State} {r core off : Nat} {w : Window} (b : Byte) (hw : s.windows = [(r, w)])
    (hlo : 65536 * r ≤ spadLoc core off) (hhi : spadLoc core off < 65536 * r + 65536) :
    (s.memWrite (spadLoc core off) [b]).mem =
      (s.mem.write (spadLoc core off) b).write (w.frame + (spadLoc core off - 65536 * r)) b := by
  rw [State.memWrite, reserved_spadLoc, barOf_spadLoc]
  exact State.mirror_mem_of_window b hw hlo hhi

/-- The package after reset, but with a dual-home window from the region at the start of core 0's scratchpad to the frame at 0. -/
def windowedSpad : State :=
  { State.reset with
    windows := [(winBase / 65536, { frame := 0, die := 0, line := 0, gen := 0, copied := 0, fenced := false, due := 0 })] }

/-- The first byte of core 0's scratchpad is written at the window's frame too. -/
theorem read_memWrite_windowedSpad : (windowedSpad.memWrite (spadLoc 0 0) [1]).mem.read 0 = 1 := by
  rw [State.memWrite_spad_mem_of_window 1 rfl (by decide) (by decide)]
  exact Mem.read_write_same ..

/-- Refutes O44: the host writes one byte to a scratchpad that lies in the region of a dual-home window, and the byte is written
to the window's frame as well (R376, log entry 53). The statement asks of every state that no other byte changes; it lacks the
hypothesis `Safety.Unmirrored` of the statements about other writes. -/
theorem not_hostWritesWork : ¬ Obligations.HostWritesWork := by
  intro h
  obtain ⟨-, -, -, -, -, -, -, -, hwin⟩ := h windowedSpad
  obtain ⟨-, hspad, -⟩ := hwin 0 [1] 1 rfl
  obtain ⟨hwrite, -⟩ := hspad (by decide) (by decide) (by decide) rfl
  rw [exec_hostWindowAccess_spad (by decide) (by decide) (by decide), Host.Outcome.next.injEq] at hwrite
  have hmem : (windowedSpad.memWrite (spadLoc 0 0) [1]).mem = windowedSpad.mem.writeBytes (spadLoc 0 0) [1] :=
    congrArg State.mem hwrite
  have hread := read_memWrite_windowedSpad
  rw [hmem, Mem.read_writeBytes_other _ _ (.inl (by decide))] at hread
  exact absurd hread (by decide)

end Sys2Proof.Machine
end

section
/-! SUPPORT. The special functions and VEXT, which land after a variable latency (R138, R267, R275). -/

namespace Sys2Proof.Machine

open Sys2Proof.Safety

variable {p : Dep} {s : State} {e : QEntry}

theorem vFits_delayed {sp : VSpec} (h : VFits sp e s) : VFits sp e (delayed s) := h

/-- The types of the special functions (R263). -/
theorem tyVsf_eq : tyVsf = fun t => decide (1 ≤ t ∧ t < 4) := by
  funext t
  exact (Bool.decide_and _ _).symm

/-- A special-function word takes its latency from the cluster's unit and the next variable latency (R138). -/
theorem sfuWord_performed {i : Instr} {g a : GOp} {f : Nat → Rnd → Val → Nat × Fl}
    (hv : VFits { srcs := [a], dst := some g, types := fun t => decide (1 ≤ t ∧ t < 4) } e s) :
    sfuWord i p g a f s = .next (vEnded (delayed s) (performed (delayed s) e (some g) [g] s.ctx.vtMask
      ((mgetD s.sfu (s.key / 4 / 8) []).getLastD s.now - s.now + 8 + s.delays.headD 0)
      (masked s.ctx g fun j => ftzOut s.ctx.ftz s.ctx.t (f s.ctx.t s.ctx.m (fl s.ctx (el s.ctx e a j)))))) := by
  have ht : s.turn = .start .v := hv.1
  rw [← tyVsf_eq] at hv
  simp only [sfuWord, ht, ↓reduceIte, State.delay_eq]
  exact elemWord_performs (vFits_delayed hv) fun _ => rfl

/-- VEXT with an index that the vector has lands the element (R275). -/
theorem execVext_lands {g : GOp} {d b : SReg} (hv : VFits { srcs := [g], useMask := false, keeps := false } e s)
    (hi : e.x.toNat < perVec s.ctx.t) :
    execVext p g d b s = .next (vEnded (delayed s) (performed (delayed s) e none [] s.ctx.vtMask (6 + s.delays.headD 0)
      ([.s d (if isInt s.ctx.t then BitVec.ofInt 64 (sg s.ctx (el s.ctx e g e.x.toNat))
              else BitVec.ofNat 64 (el s.ctx e g e.x.toNat))], 0))) := by
  have ht : s.turn = .start .v := hv.1
  simp only [execVext, ht, ↓reduceIte, State.delay_eq]
  exact gridWord_performed (vFits_delayed hv) (if_neg (Nat.not_le.mpr hi))

/-- VEXT with any other index traps (R275). -/
theorem execVext_traps {g : GOp} {d b : SReg} (hv : VFits { srcs := [g], useMask := false, keeps := false } e s)
    (hi : perVec s.ctx.t ≤ e.x.toNat) :
    execVext p g d b s = .next ((delayed s).startTrap s.key .v e (wordTrap 4 (.vext p g d b))) := by
  obtain ⟨ht, ha, hb, -⟩ := hv
  have hc : (delayed s).ctx = s.ctx := rfl
  have hk : (delayed s).key = s.key := rfl
  have hturn : (delayed s).turn = .start .v := ht
  simp only [execVext, ht, ↓reduceIte, State.delay_eq, gridWord, hturn, vStart, hc, hk, ha, hb, if_pos hi]

/-- Settles O11: six words are `sfuWord` with their function, and VEXT lands or traps by its index. -/
theorem variableGridWordsPerform : Obligations.VariableGridWordsPerform := by
  refine ⟨fun i s e g a f hi hv => ?_, fun p g d b s e hv => ⟨execVext_lands hv, execVext_traps hv⟩⟩
  cases i <;> cases hi <;> exact sfuWord_performed hv

end Sys2Proof.Machine
end

section
/-! SUPPORT. The words of the serialising class at S (R315): what stands before their bodies, what their accesses read, and how they
leave S. -/

namespace Sys2Proof.Machine

open Sys2Proof.Safety

/-! ### What stands before the body -/

/-- A serialising word that the earlier LS accesses do not hold: its values, then an early read, then its body. -/
theorem tWord_quiet {i : Instr} {p : Dep} {srcs : List SReg} {bad : State → Bool} {body : State → Body} {s : State}
    (hc : CanIssue p s) (hl : s.ctx.ldaWait = false) (hq : (popped p s).ctx.lsQuiet = true) :
    tWord i p srcs bad body s = (if bad (popped p s) = true then .trap (wordTrap 4 i)
      else (s.earlyS srcs).elim (body (popped p s)) fun e => .trap (earlyTrap e) : Body).finish s := by
  have hq' : (s.ctx.popToks .s p).lsQuiet = true := hq
  rw [tWord, sWord_ready hc (by simp)]
  simp only [State.withCtx_ctx, Ctx.ldaWait_popToks, hl, hq', Bool.not_true, Bool.or_self, Bool.false_eq_true, ↓reduceIte,
    State.earlyS_popToks]
  cases s.earlyS srcs <;> rfl

/-- One whose values are refused traps (R315). -/
theorem tWord_bad {i : Instr} {p : Dep} {srcs l : List SReg} {bad : State → Bool} {body : State → Body} {s : State}
    (h : CanSerialise p l s) (hb : bad (popped p s) = true) :
    tWord i p srcs bad body s = .next (trapped s (wordTrap 4 i)) := by
  obtain ⟨hc, -, hl, hq⟩ := h
  rw [tWord_quiet hc hl hq, if_pos hb, finish_trap]

/-- One whose values pass runs its body. -/
theorem tWord_ready {i : Instr} {p : Dep} {srcs : List SReg} {bad : State → Bool} {body : State → Body} {s : State}
    (h : CanSerialise p srcs s) (hb : bad (popped p s) = false) :
    tWord i p srcs bad body s = (body (popped p s)).finish s := by
  obtain ⟨hc, hs, hl, hq⟩ := h
  have hs' : s.earlyS srcs = none := hs
  rw [tWord_quiet hc hl hq, if_neg (by simp [hb]), hs', Option.elim_none]

/-! ### How it leaves S -/

/-- The end of a word that completes as it retires, in the package that its effect has left (R28). -/
theorem finish_finished (p : Dep) {s t : State} (h : t.ctx.pc = s.ctx.pc) :
    (doneS t p).finish s = .next (finished p s t) := by
  rw [doneS, finish_done, State.pc4, h]
  rfl

/-- The end of a word whose result lands after a variable latency (R79, R315). -/
theorem finish_serialDone (i : Instr) (p : Dep) (d : SReg) (v : Word) {s t : State} (h : t.ctx.pc = s.ctx.pc) :
    (Body.done (t.landSerial i p d v) t.pc4).finish s = .next (serialDone i p d v s t) := by
  rw [finish_done, State.pc4, h, State.landSerial, State.delay_eq]
  rfl

/-! ### Accesses made at once -/

/-- Reads take nothing from the other holders. -/
@[simp] theorem touched_read (s : State) (accs : List Acc) : touched s false accs = s := rfl

theorem touched_cachesOnly (s : State) (excl : Bool) (accs : List Acc) : CachesOnly s (touched s excl accs) := by
  unfold touched State.ownAll
  split
  · exact CachesOnly.foldl _ (fun s x => s.dirty_cachesOnly _ x) _ _
  · exact .refl s

theorem CachesOnly.ctx {s t : State} (h : CachesOnly s t) : t.ctx = s.ctx := by
  unfold CachesOnly at h
  rw [h]

/-- Accesses that can be made at once are made on the package that has their sectors (R363, R371). -/
theorem State.fresh_ok {s : State} {want : Want} {accs : List Acc} {excl : Bool} (h : CanTouch s excl accs)
    (hw : (want == .write) = excl) (k : State → List Acc → Body) :
    s.fresh want accs k = k (touched s excl accs) accs := by
  obtain ⟨hg, hb⟩ := h
  have hb' : s.blocked (dieOf s.core) excl (sectorsOf accs) = false := hb
  rw [State.fresh, State.regen_passes (anew := false) s.ctx s.core want fun a ha => ⟨hg a ha, fun h => absurd h Bool.false_ne_true⟩]
  simp only [hw, hb', Bool.false_eq_true, ↓reduceIte]
  rfl

/-- Bytes read where no error stands (R418). -/
theorem State.readNow_clean {s : State} (h : s.bad = []) (accs : List Acc) :
    s.readNow accs = (s, leNat (accs.flatMap fun a => s.mem.readBytes a.loc a.len)) := by
  have hf : ∀ l : List Acc, l.foldl (fun s a => s.scrub [s.key] a.loc a.len) s = s := by
    intro l
    induction l with
    | nil => rfl
    | cons a r ih => rw [List.foldl_cons, State.scrub_clean h, ih]
  rw [State.readNow, hf]

/-- A record that can be read (R131). -/
theorem State.recordAt_ok {s t : State} {a : Word} {r : Rec} (h : RecordAt s a t r) (k : State → Rec → Body) :
    s.recordAt a k = k t r := by
  obtain ⟨accs, hspan, hcan, rfl, hbad, rfl⟩ := h
  have hl : accs.toList.length = 4 := by simp
  have hacc : ∀ j (hj : j < accs.toList.length),
      t.chkS (a + BitVec.ofNat 64 (8 * (([] : List Acc).length + j))) 8 8 .read .none 0 = .ok accs.toList[j] := by
    intro j hj
    simpa using hspan ⟨j, hl ▸ hj⟩
  have hall := fun k => State.accesses_ok (k := k) accs.toList [] hacc
  rw [hl] at hall
  rw [State.recordAt, hall, List.reverse_nil, List.nil_append, State.fresh_ok hcan rfl, touched_read, State.readNow_clean hbad]

/-- Reading a record changes nothing. -/
theorem recordAt_state {s t : State} {a : Word} {r : Rec} (h : RecordAt s a t r) : t = s := by
  obtain ⟨accs, -, -, ht, -⟩ := h
  exact ht

end Sys2Proof.Machine
end

section
/-! SUPPORT. WTARM, WTDIS and CNTWAIT at S (R137, R317). -/

namespace Sys2Proof.Machine

open Sys2Proof.Safety

variable {p : Dep} {d a b : SReg} {s : State}

/-! ### The entry number -/

theorem wtBad_eq (v : Word) : wtBad v = decide (64 ≤ v.toNat) := by
  have h := wfld_top_eq_zero (v := v) (lo := 6) (n := 58) rfl
  rw [wtBad, decide_eq_decide, ne_eq, h, Nat.not_lt]
  rfl

theorem wtEntry_eq {v : Word} (h : v.toNat < 64) : wtEntry v = v.toNat := by
  simp only [wtEntry, wfld, bitsOf]
  omega

/-- The upper half of a word below 2^32 is zero, and the lower is the word. -/
theorem wfld_halves {v : Word} (h : v.toNat < 2 ^ 32) : wfld v 32 32 = 0 ∧ wfld v 0 32 = v.toNat := by
  simp only [wfld, bitsOf]
  omega

/-! ### WTARM -/

/-- An armed entry with a record fires where its counter has reached the threshold, unless its earlier record still waits (R137). -/
theorem State.wtFire_armed {t : State} {core e : Nat} {w : WtEntry} {q : QRec} (ha : w.armed = true) (hq : w.qr = some q) :
    (t.setWt core e w).wtFire core e =
      if w.thr ≤ w.counter ∧ (mgetD t.cores core Core.reset).ready.all (fun x => x.entry != some e) then
        { t with
          wt := mput t.wt (64 * core + e) { counter := w.counter - w.thr, thr := w.thr, armed := false, qr := none },
          cores := mupd t.cores core Core.reset fun c => { c with ready := c.ready ++ [⟨q, some e⟩] } }
      else t.setWt core e w := by
  have hw : (t.setWt core e w).wtAt core e = w := mgetD_mput_same ..
  have hall : (mgetD t.cores core Core.reset).ready.all (fun x => x.entry != some e) =
      !((t.setWt core e w).coreAt core).ready.any fun x => x.entry == some e := by
    rw [List.not_any_eq_all_not]
    rfl
  simp only [State.wtFire, hw, hq, ha, true_and, hall]
  split_ifs
  · simp only [State.setWt, State.updCore, mput_mput]
  · rfl

theorem State.wtFire_ctx (s : State) (core e : Nat) : (s.wtFire core e).ctx = s.ctx := by
  unfold State.wtFire
  dsimp only
  split
  · split_ifs <;> rfl
  · rfl

/-- WTARM of a disarmed entry with a valid record (R317). -/
theorem execWtarm_arms {e : Nat} {w : WtEntry} {t : State} {r : Rec} (he : (s.ctx.reg a).toNat = e) (hlt : e < 64)
    (hw : mgetD s.wt (64 * (s.key / 4) + e) WtEntry.reset = w) (hc : CanSerialise p [a, b, d] s)
    (hd : (s.ctx.reg d).toNat < 2 ^ 32) (harm : w.armed = false) (hr : RecordAt (popped p s) (s.ctx.reg b) t r)
    (hbad : r.bad = false) :
    execWtarm p d a b s = .next (finished p s
      ((t.setWt (s.key / 4) e { w with thr := (s.ctx.reg d).toNat, armed := true, qr := some ⟨r, t.ctx.env⟩ }).wtFire
        (s.key / 4) e)) := by
  obtain ⟨hd0, hd1⟩ := wfld_halves hd
  have hent : wtEntry (s.ctx.reg a) = e := (wtEntry_eq (he ▸ hlt)).trans he
  have ht := recordAt_state hr
  subst ht
  have hpass : (wtBad (s.ctx.reg a) || decide (wfld (s.ctx.reg d) 32 32 ≠ 0) || w.armed) = false := by
    simp [wtBad_eq, he, hlt, hd0, harm]
  have hwt : (popped p s).wtAt (popped p s).core e = w := hw
  rw [execWtarm, tWord_ready hc (by simpa only [popped_ctx, Ctx.popToks_reg, hent, hwt] using hpass)]
  simp only [popped_ctx, Ctx.popToks_reg, State.recordAt_ok hr, hbad, Bool.false_eq_true, ↓reduceIte, hent, hd1, hwt]
  refine finish_finished p ?_
  rw [State.wtFire_ctx]
  exact Ctx.popToks_pc ..

/-! ### WTDIS and CNTWAIT -/

theorem execWtdis_lands {e : Nat} {w : WtEntry} (he : (s.ctx.reg a).toNat = e) (hlt : e < 64)
    (hw : mgetD s.wt (64 * (s.key / 4) + e) WtEntry.reset = w) (hc : CanSerialise p [a] s) :
    execWtdis p d a s = .next (serialDone (.wtdis p d a) p d (BitVec.ofNat 64 w.counter) s
      { popped p s with wt := mput s.wt (64 * (s.key / 4) + e) { w with armed := false, qr := none } }) := by
  have hent : wtEntry (s.ctx.reg a) = e := (wtEntry_eq (he ▸ hlt)).trans he
  have hwt : (popped p s).wtAt (popped p s).core e = w := hw
  rw [execWtdis, tWord_ready hc (by simp [wtBad_eq, he, hlt])]
  simp only [popped_ctx, Ctx.popToks_reg, hent, hwt]
  exact finish_serialDone _ p d _ (Ctx.popToks_pc ..)

/-- CNTWAIT lands a counter that has reached the threshold, and waits for any other (R317). -/
theorem execCntwait_ends {e : Nat} {w : WtEntry} (he : (s.ctx.reg a).toNat = e) (hlt : e < 64)
    (hw : mgetD s.wt (64 * (s.key / 4) + e) WtEntry.reset = w) (hc : CanSerialise p [a, b] s)
    (hb : (s.ctx.reg b).toNat < 2 ^ 32) :
    execCntwait p d a b s = .next (if (s.ctx.reg b).toNat ≤ w.counter then
        serialDone (.cntwait p d a b) p d (BitVec.ofNat 64 w.counter) s (popped p s)
      else retiring (s.ctx.pc + 4)
        (awaiting (.cntwait p d a b) p d (.cntwait s.ctx.nextId e (s.ctx.reg b).toNat) (popped p s))) := by
  obtain ⟨hb0, hb1⟩ := wfld_halves hb
  have hent : wtEntry (s.ctx.reg a) = e := (wtEntry_eq (he ▸ hlt)).trans he
  have hwt : (popped p s).wtAt (popped p s).core e = w := hw
  have hpc : (popped p s).ctx.pc = s.ctx.pc := Ctx.popToks_pc ..
  rw [execCntwait, tWord_ready hc (by simp [wtBad_eq, he, hlt, hb0])]
  simp only [popped_ctx, Ctx.popToks_reg, hent, hwt, hb1]
  split_ifs
  · exact finish_serialDone _ p d _ hpc
  · rw [finish_done, State.pc4, hpc, Ctx.popToks_nextId]
    rfl

/-- Settles O18, one word after the other. -/
theorem waitingTaskWords : Obligations.WaitingTaskWords := by
  refine ⟨fun p d a b s ha hc => ?_, fun p d a b s e w he hlt hw => ⟨fun t r hc hd harm hr hbad => ?_,
    execWtdis_lands he hlt hw, execCntwait_ends he hlt hw⟩⟩
  · have hbad : wtBad ((popped p s).ctx.reg a) = true := by simp [wtBad_eq, ha]
    have harm : execWtarm p d a b s = _ := tWord_bad hc (by rw [hbad]; rfl)
    have hdis : execWtdis p d a s = _ := tWord_bad hc hbad
    have hwait : execCntwait p d a b s = _ := tWord_bad hc (by rw [hbad]; rfl)
    exact ⟨harm, hdis, hwait⟩
  · refine (execWtarm_arms he hlt hw hc hd harm hr hbad).trans ?_
    rw [State.wtFire_armed rfl rfl, recordAt_state hr]
    rfl

end Sys2Proof.Machine
end

section
/-! SUPPORT. A write to memory leaves the focused context and the held pushes as they were, wherever it goes
(R348, R364, R376, R407, R424). -/

namespace Sys2Proof.Machine

theorem foldl_keeps {α β σ : Type} (g : σ → β) {f : σ → α → σ} (h : ∀ s a, g (f s a) = g s) (l : List α) (s : σ) :
    g (l.foldl f s) = g s := by
  induction l generalizing s with
  | nil => rfl
  | cons a r ih => exact (ih _).trans (h s a)

/-- What no write to memory touches: the focused context, and the pushes that wait for room in their queues. -/
def State.ctxHeld (s : State) : Ctx × List (QRec × Nat) := (s.ctx, s.held)

theorem ctxHeld_of_ite {s a b : State} {c : Prop} [Decidable c] (ha : a.ctxHeld = s.ctxHeld) (hb : b.ctxHeld = s.ctxHeld) :
    (if c then a else b).ctxHeld = s.ctxHeld := by
  split
  · exact ha
  · exact hb

theorem State.count_ctxHeld (s : State) (o n : Nat) : (s.count o n).ctxHeld = s.ctxHeld := rfl

theorem State.withMem_ctxHeld (s : State) (m : Mem) : ({ s with mem := m } : State).ctxHeld = s.ctxHeld := rfl

theorem State.dropResvs_ctxHeld (s : State) (loc n : Nat) : (s.dropResvs loc n).ctxHeld = s.ctxHeld := by
  unfold State.dropResvs
  split_ifs
  · rfl
  · exact foldl_keeps State.ctxHeld (f := State.dropResv) (fun _ _ => rfl) _ s

theorem State.takeSector_ctxHeld (s : State) (sec : Nat) : (s.takeSector sec).ctxHeld = s.ctxHeld := by
  refine foldl_keeps State.ctxHeld (fun s j => ?_) _ s
  unfold State.surrender
  split_ifs <;> rfl

theorem State.agentBytes_ctxHeld (s : State) (loc : Nat) (bs : List Byte) : (s.agentBytes loc bs).ctxHeld = s.ctxHeld := by
  unfold State.agentBytes
  generalize List.map _ _ = l
  exact foldl_keeps State.ctxHeld State.takeSector_ctxHeld l s

theorem State.flipLater_ctxHeld (s : State) (f : Nat) : (s.flipLater f).ctxHeld = s.ctxHeld := by
  rw [State.flipLater, State.delay_eq]
  rfl

theorem State.flipStart_ctxHeld (s : State) (f : Nat) : (s.flipStart f).ctxHeld = s.ctxHeld := by
  unfold State.flipStart
  dsimp only
  split_ifs
  · exact (State.flipLater_ctxHeld ..).trans (State.agentBytes_ctxHeld ..)
  · rfl

theorem State.pageRecWrite_ctxHeld (s : State) (f old new : Nat) : (s.pageRecWrite f old new).ctxHeld = s.ctxHeld := by
  unfold State.pageRecWrite
  refine (State.flipStart_ctxHeld ..).trans ?_
  split_ifs <;> exact State.agentBytes_ctxHeld ..

theorem State.tensorValidate_ctxHeld (s : State) (h : Nat) : (s.tensorValidate h).ctxHeld = s.ctxHeld := by
  unfold State.tensorValidate
  split_ifs <;> rfl

theorem State.powerWrite_ctxHeld (s : State) (v : Nat) : (s.powerWrite v).ctxHeld = s.ctxHeld := by
  have hoff : ∀ (u : State) (c : Prop) [Decidable c],
      (if c then { u with power := { u.power with level := [], steps := [] } } else u).ctxHeld = u.ctxHeld :=
    fun _ _ _ => ctxHeld_of_ite rfl rfl
  have hcount : ∀ (u : State) (c : Prop) [Decidable c] (o n : Nat), (if c then u.count o n else u).ctxHeld = u.ctxHeld :=
    fun u _ _ _ _ => ctxHeld_of_ite (u.count_ctxHeld ..) rfl
  unfold State.powerWrite
  dsimp only
  refine ctxHeld_of_ite (s.count_ctxHeld ..) ?_
  rw [hoff, hcount]
  exact s.withMem_ctxHeld _

/-- Nor do the page agent's own steps on a doubleword that is written. -/
theorem State.agentWord_ctxHeld (s : State) (d old new : Nat) : (s.agentWord d old new).ctxHeld = s.ctxHeld := by
  have hat : ∀ (u : State) (t : Nat) (i : Instr), (u.at_ t i).ctxHeld = u.ctxHeld := fun _ _ _ => rfl
  simp only [State.agentWord, apply_ite State.ctxHeld, State.count_ctxHeld, State.pageRecWrite_ctxHeld,
    State.tensorValidate_ctxHeld, State.powerWrite_ctxHeld, hat, State.withMem_ctxHeld, ite_self]

theorem State.mirror_ctxHeld (s : State) (loc : Nat) (bs : List Byte) : (s.mirror loc bs).ctxHeld = s.ctxHeld := by
  unfold State.mirror
  refine foldl_keeps State.ctxHeld (fun s w => ?_) _ s
  dsimp only
  split_ifs <;> rfl

theorem State.memWrite_ctxHeld (s : State) (loc : Nat) (bs : List Byte) : (s.memWrite loc bs).ctxHeld = s.ctxHeld := by
  unfold State.memWrite
  split
  · exact (foldl_keeps State.ctxHeld (fun s d => s.agentWord_ctxHeld d ..) _ _).trans (s.dropResvs_ctxHeld ..)
  · split
    · rfl
    · exact State.mirror_ctxHeld ..

theorem State.memWrite_ctx (s : State) (loc : Nat) (bs : List Byte) : (s.memWrite loc bs).ctx = s.ctx :=
  congrArg Prod.fst (s.memWrite_ctxHeld loc bs)

theorem State.memWrite_held (s : State) (loc : Nat) (bs : List Byte) : (s.memWrite loc bs).held = s.held :=
  congrArg Prod.snd (s.memWrite_ctxHeld loc bs)

end Sys2Proof.Machine
end

section
/-! SUPPORT. SPAWN, JOINDEC, RETIRE and YIELD at S (R131 to R133, R140, R319 to R322). -/

namespace Sys2Proof.Machine

open Sys2Proof.Safety

variable {p : Dep} {d a : SReg} {s t : State} {r : Rec}

/-! ### A spawned record -/

/-- Where the model puts a spawned record is where the statement says (R319). -/
theorem State.pushSpawn_eq_spawned (s : State) (q : QRec) : s.pushSpawn s.core q = spawned q s := by
  have hl : (q.r.isLocal && decide ((s.coreAt s.core).localCount < 16)) = true ↔ q.r.flags.toNat / 8 % 2 = 1 ∧
      ((mgetD s.cores (s.key / 4) Core.reset).ready.countP fun x => x.entry.isNone) < 16 := by
    simp only [Rec.isLocal, Core.localCount, List.countP_eq_length_filter, Bool.and_eq_true, beq_iff_eq]
    exact and_congr Iff.rfl decide_eq_true_iff
  unfold State.pushSpawn spawned
  simp only [hl]
  rfl

theorem overflowTrap_eq (core : Nat) (r : Rec) :
    overflowTrap core r = ⟨14, BitVec.ofNat 64 (8 * dieOf core + r.flags.toNat % 8), 0⟩ := rfl

theorem State.pushRunq_ctx {s u : State} {q : Nat} {x : QRec} (h : s.pushRunq q x = some u) : u.ctx = s.ctx := by
  unfold State.pushRunq at h
  dsimp only at h
  split at h
  · cases h
  · obtain rfl := Option.some.inj h
    exact State.memWrite_ctx ..

theorem spawned_ctx {s u : State} {q : QRec} (h : spawned q s = some u) : u.ctx = s.ctx := by
  unfold spawned at h
  split at h
  · obtain rfl := Option.some.inj h
    rfl
  · exact State.pushRunq_ctx h

/-! ### SPAWN -/

/-- SPAWN of a record that can be read. -/
theorem execSpawn_read (hc : CanSerialise p [a] s) (hr : RecordAt (popped p s) (s.ctx.reg a) t r) :
    execSpawn p a s = (if r.bad = true then .trap (wordTrap 4 (.spawn p a))
      else (spawned ⟨r, t.ctx.env⟩ t).elim (.trap (overflowTrap (s.key / 4) r)) fun u => doneS u p : Body).finish s := by
  have ht := recordAt_state hr
  rw [execSpawn, tWord_ready hc rfl]
  simp only [popped_ctx, Ctx.popToks_reg, State.recordAt_ok hr, State.pushSpawn_eq_spawned]
  rw [show t.core = s.key / 4 by rw [ht]; rfl]
  cases spawned ⟨r, t.ctx.env⟩ t <;> rfl

theorem execSpawn_good (hc : CanSerialise p [a] s) (hr : RecordAt (popped p s) (s.ctx.reg a) t r) (hb : r.bad = false) :
    exec (.spawn p a) s = .next (match spawned ⟨r, t.ctx.env⟩ t with
      | some u => finished p s u
      | none => trapped s ⟨14, BitVec.ofNat 64 (8 * dieOf (s.key / 4) + r.flags.toNat % 8), 0⟩) := by
  have hpc : t.ctx.pc = s.ctx.pc := by rw [recordAt_state hr]; exact Ctx.popToks_pc ..
  refine (execSpawn_read hc hr).trans ?_
  rw [if_neg (by simp [hb]), ← overflowTrap_eq]
  cases h : spawned ⟨r, t.ctx.env⟩ t with
  | none => rw [Option.elim_none, finish_trap]
  | some u => exact finish_finished p ((congrArg Ctx.pc (spawned_ctx h)).trans hpc)

theorem execSpawn_bad (hc : CanSerialise p [a] s) (hr : RecordAt (popped p s) (s.ctx.reg a) t r) (hb : r.bad = true) :
    exec (.spawn p a) s = .next (trapped s (wordTrap 4 (.spawn p a))) := by
  refine (execSpawn_read hc hr).trans ?_
  rw [if_pos hb, finish_trap]

/-! ### JOINDEC -/

/-- What JOINDEC does in the package `u` that holds its counter at `loc` (R320). -/
theorem State.joinStep_eq (u : State) (loc : Nat) (r : Rec) :
    u.joinStep loc r = if r.join = 0 then some (u.count (0x128 + 8 * dieOf (u.key / 4)) 1)
      else if r.join = 1 then (spawned ⟨{ r with join := 0 }, u.ctx.env⟩ u).map fun v => v.memWrite loc [0, 0, 0, 0]
      else some (u.memWrite loc (leBytes (r.join.toNat - 1) 4)) := by
  have h0 : r.join.toNat = 0 ↔ r.join = 0 := (BitVec.toNat_inj (x := r.join) (y := 0))
  have h1 : r.join.toNat = 1 ↔ r.join = 1 := (BitVec.toNat_inj (x := r.join) (y := 1))
  unfold State.joinStep
  simp only [h0, h1, State.pushSpawn_eq_spawned]
  split_ifs with hz ho
  · rfl
  · rw [ho]
    rfl
  · rfl

theorem State.joinStep_ctx {u v : State} {loc : Nat} {r : Rec} (h : u.joinStep loc r = some v) : v.ctx = u.ctx := by
  rw [State.joinStep_eq] at h
  split_ifs at h
  · obtain rfl := Option.some.inj h
    rfl
  · obtain ⟨w, hw, rfl⟩ := Option.map_eq_some_iff.mp h
    exact (State.memWrite_ctx ..).trans (spawned_ctx hw)
  · obtain rfl := Option.some.inj h
    exact State.memWrite_ctx ..

/-- JOINDEC of a record that can be read and whose counter can be written. -/
theorem execJoindec_step {acc : Acc} {u : State} (hc : CanSerialise p [a] s)
    (hr : RecordAt (popped p s) (s.ctx.reg a) t r) (ha : t.chkS (s.ctx.reg a + 16) 4 4 .write .none 0 = .ok acc)
    (ht : CanTouch t true [acc]) (hu : u = touched t true [acc]) (hb : r.join = 1 → r.bad = false) :
    exec (.joindec p d a) s = .next (match u.joinStep acc.loc r with
      | some v => serialDone (.joindec p d a) p d (r.join.setWidth 64) s v
      | none => trapped s (overflowTrap (s.key / 4) r)) := by
  have hst := recordAt_state hr
  have hco : CachesOnly t u := hu ▸ touched_cachesOnly t true [acc]
  have hctx : u.ctx = (popped p s).ctx := hco.ctx.trans (congrArg State.ctx hst)
  have hcore : u.core = s.key / 4 := by
    unfold CachesOnly at hco
    rw [hco, hst]
    rfl
  have hpc : u.ctx.pc = s.ctx.pc := (congrArg Ctx.pc hctx).trans (Ctx.popToks_pc ..)
  have ha' : t.chkS (s.ctx.reg a + BitVec.ofNat 64 16) 4 4 .write .none 0 = .ok acc := ha
  have hgood : ¬ (r.join = 1 ∧ r.bad = true) := fun h => by simp [hb h.1] at h
  refine (show exec (.joindec p d a) s = execJoindec p d a s from rfl).trans ?_
  rw [execJoindec, tWord_ready hc rfl]
  simp only [popped_ctx, Ctx.popToks_reg, State.recordAt_ok hr, joinOff, State.access_ok ha',
    State.fresh_ok (want := .write) ht rfl, ← hu,
    if_neg hgood, hcore, List.map_cons, List.headD_cons]
  cases h : u.joinStep acc.loc r with
  | none => exact finish_trap ..
  | some v => exact finish_serialDone _ p d _ ((congrArg Ctx.pc (State.joinStep_ctx h)).trans hpc)

/-! ### RETIRE -/

/-- Locks that no core has are not undone (R105). -/
theorem State.unlockIf_idle {s : State} (f : Nat × Nat → Bool) (h : ∀ x ∈ s.cores, x.2.locks = []) : s.unlockIf f = s := by
  have hm : s.cores.map (fun c : Nat × Core => (c.1, { c.2 with locks := c.2.locks.filter fun l => !(f l) })) = s.cores := by
    refine (List.map_congr_left fun c hc => ?_).trans (List.map_id _)
    have hl := h c hc
    obtain ⟨k, v⟩ := c
    simp only at hl
    simp only [hl, List.filter_nil, id_eq]
    rw [← hl]
  rw [State.unlockIf, hm]

theorem State.leaveAll_idle {s : State} (h : s.groups = []) (uid : Nat) : s.leaveAll uid = s := by
  rw [State.leaveAll, h]
  rfl

theorem State.admitAll_idle {s : State} (h : s.launches = []) : s.admitAll = s := by
  rw [State.admitAll, h]
  rfl

theorem State.dropIssuer_idle {s : State} (h : s.engines = []) (uid : Nat) :
    s.dropIssuer uid = { s with saved := s.saved.filter fun x => x.2.uid != uid } := by
  simp only [State.dropIssuer, h, List.map_nil]

/-- No core has a lock after a change of one core that makes none. -/
theorem locks_mupd {m : SMap Core} {k : Nat} {f : Core → Core} (hf : ∀ c, (f c).locks = c.locks)
    (h : ∀ x ∈ m, x.2.locks = []) : ∀ x ∈ mupd m k Core.reset f, x.2.locks = [] := by
  have hd : (mgetD m k Core.reset).locks = [] := by
    rcases mem_mgetD (m := m) (a := k) (d := Core.reset) with h0 | hmem
    · rw [h0]
      rfl
    · exact h _ hmem
  intro x hx
  rcases mem_mput hx with rfl | hx
  · exact (hf _).trans hd
  · exact h x hx

theorem execRetire_ends (hc : CanIssue p s) (hm : (popped p s).mayRetire = true) :
    exec (.retire p) s = .next ((popped p s).markS.endCtx s.key false) := by
  refine (show exec (.retire p) s = execRetire p s from rfl).trans ?_
  rw [execRetire, sWord_ready hc (by simp)]
  have hm' : (s.withCtx (s.ctx.popToks .s p)).mayRetire = true := hm
  rw [if_pos hm']
  rfl

/-- The core that the focused context leaves in its cycle of S. -/
def leaves (s : State) (c : Core) : Core :=
  { c with
    sAt := s.now + 1, full := false, run := if c.run = some (s.key % 4) then none else c.run,
    copying := if c.copying = some s.key then none else c.copying }

/-- The package with the focused berth empty: its units' work is dropped (R128, R379). -/
def departed (s : State) : State :=
  { s with
    live := false, ctx := Ctx.reset,
    agenda := s.agenda.filter (fun x => match x.2 with | .copyComplete j _ => j != s.key | _ => true),
    cores := mupd s.cores (s.key / 4) Core.reset (leaves s) }

/-- A context that no launch, group, engine or lock knows leaves its berth, and nothing else changes (R321). -/
theorem endCtx_alone (hlive : s.live = true) (hl : s.launches = []) (hg : s.groups = []) (he : s.engines = [])
    (hn : s.ctx.launch = none) (hs : s.ctx.saved = false) (hk : ∀ x ∈ s.cores, x.2.locks = []) :
    s.markS.endCtx s.key false = { s with
      live := false, ctx := Ctx.reset,
      agenda := s.agenda.filter (fun x => match x.2 with | .copyComplete j _ => j != s.key | _ => true),
      saved := s.saved.filter (fun x => x.2.uid != s.ctx.uid),
      cores := mupd s.cores (s.key / 4) Core.reset fun c => { c with
        sAt := s.now + 1, full := false, run := if c.run = some (s.key % 4) then none else c.run,
        copying := if c.copying = some s.key then none else c.copying } } := by
  have hat : s.markS.ctxAt s.key = some s.ctx := by
    simp only [State.ctxAt, State.markS_key, State.markS_live, State.markS_ctx, hlive, ↓reduceIte]
  have hdrop : (s.markS.dropUnits s.key).delCtx s.key = departed s := by
    simp only [State.dropUnits, State.updCore, State.markS_eq, mupd_mupd, State.delCtx, ↓reduceIte, he, List.map_nil, departed]
    rfl
  have hlocks : ∀ x ∈ (departed s).cores, x.2.locks = [] := locks_mupd (f := leaves s) (fun _ => rfl) hk
  have hidle : (((departed s).leaveAll s.ctx.uid).unlockIf (heldBy s.ctx.uid)).dropIssuer s.ctx.uid =
      { departed s with saved := s.saved.filter fun x => x.2.uid != s.ctx.uid } := by
    rw [State.leaveAll_idle (s := departed s) hg, State.unlockIf_idle _ hlocks, State.dropIssuer_idle (s := departed s) he]
    rfl
  simp only [State.endCtx, hat, hdrop, hs, Bool.false_and, Bool.false_eq_true, ↓reduceIte, hidle, hn]
  exact State.admitAll_idle hl

theorem execYield_ends (hc : CanIssue p s) :
    exec (.yield p) s = .next (finished p s { popped p s with
      ctx := { s.ctx.popToks .s p with readyAt := s.now },
      cores := mupd s.cores (s.key / 4) Core.reset fun c => { c with run := none } }) := by
  refine (show exec (.yield p) s = execYield p s from rfl).trans ?_
  rw [execYield, sWord_ready hc (by simp)]
  exact finish_finished p (Ctx.popToks_pc ..)

/-- Settles O19: a record that can be read and is valid goes where `spawned` says; a context that ends unknown to every unit leaves its
berth alone. -/
theorem threadsSpawnAndEnd : Obligations.ThreadsSpawnAndEnd := by
  refine ⟨fun p d a s t r hc hr => ⟨execSpawn_good hc hr, execSpawn_bad hc hr, fun acc u ha ht hu hb => ?_⟩,
    fun p s hc => ⟨execRetire_ends hc, fun hm hl hg he hn hs hk => ?_, execYield_ends hc⟩⟩
  · rw [execJoindec_step hc hr ha ht hu hb, State.joinStep_eq]
    have hco := hu ▸ touched_cachesOnly t true [acc]
    have hkey : u.key = s.key := by
      unfold CachesOnly at hco
      rw [hco, recordAt_state hr]
      rfl
    split_ifs with h0 h1
    · rw [h0, hkey]
      rfl
    · rw [h1, overflowTrap_eq]
      cases spawned ⟨{ r with join := 0 }, u.ctx.env⟩ u <;> rfl
    · rfl
  · have hn' : (popped p s).ctx.launch = none := (Ctx.popToks_launch ..).trans hn
    have hs' : (popped p s).ctx.saved = false := (Ctx.popToks_saved ..).trans hs
    have hkey : (popped p s).key = s.key := rfl
    rw [execRetire_ends hc hm, ← hkey, endCtx_alone (s := popped p s) hc.1 hl hg he hn' hs' hk, popped_ctx, Ctx.popToks_uid]
    rfl

end Sys2Proof.Machine
end

section
/-! SUPPORT. A context that waits for a result from outside its core, and the end of its wait (R139, R315, R317, R332). -/

namespace Sys2Proof.Machine

/-! ### One context -/

/-- The context waits in `b` for the result of its word `id`, one write of `d`. -/
structure Waits (b : Block) (id : Nat) (d : SReg) (c : Ctx) : Prop where
  wait : c.waitNow = b
  record : ∃ p v, c.pendOf id = some p ∧ p.wr = [.s d v]

/-- The wait has ended: the result `v` of word `id` lands in the cycle `now`. -/
structure WaitEnded (now id : Nat) (d : SReg) (v : Word) (c : Ctx) : Prop where
  wait : c.waitNow = .landing id
  record : ∃ p, c.pendOf id = some p ∧ p.act = .vals ∧ p.due = some now ∧ p.wr = [.s d v]

theorem WaitEnded.due_wr {now id : Nat} {d : SReg} {v : Word} {c : Ctx} (h : WaitEnded now id d v c) :
    (c.pendOf id).map (fun q => (q.due, q.wr)) = some (some now, [.s d v]) := by
  obtain ⟨p, hp, -, hdue, hwr⟩ := h.record
  rw [hp, Option.map_some, hdue, hwr]

/-- A change of the records under their numbers. -/
theorem Ctx.pendOf_map (c : Ctx) {f : Pend → Pend} (hf : ∀ p, (f p).id = p.id) (id : Nat) :
    (c.pend.map f).find? (fun p => p.id == id) = (c.pendOf id).map f := by
  have hid : (fun p => (f p).id == id) = fun p => p.id == id := funext fun p => by rw [hf]
  rw [List.find?_map, Function.comp_def, hid]
  rfl

theorem Ctx.waitNow_setWait (c : Ctx) {b : Block} (hb : b ≠ .none) : (c.setWait b).waitNow = b := by
  unfold Ctx.setWait Ctx.waitNow
  split_ifs <;> simp_all

/-- The result comes: the wait becomes that for its landing (R139, R317). -/
theorem Waits.waitDone {b : Block} {id : Nat} {d : SReg} {c : Ctx} (h : Waits b id d c) (now : Nat) (v : Word) :
    WaitEnded now id d v (c.waitDone now id v) := by
  obtain ⟨p, w, hp, hw⟩ := h.record
  refine ⟨Ctx.waitNow_setWait _ nofun, p.result v (some now), ?_, rfl, rfl, ?_⟩
  · have hfind := c.pendOf_map (f := fun p => if p.id == id then p.result v (some now) else p)
      (fun p => by split <;> rfl) id
    rw [hp, Option.map_some, Ctx.id_of_pendOf hp, beq_self_eq_true, if_pos rfl] at hfind
    refine Eq.trans ?_ hfind
    simp only [Ctx.waitDone, Ctx.setWait, Ctx.pendOf]
    split <;> rfl
  · rw [Pend.result, hw]
    rfl

/-- The record of a WFE that waits for an event. -/
def Pend.isWfe (p : Pend) : Bool := match p.word with | some (.wfe _) => p.act == .remote | _ => false

theorem Pend.act_of_isWfe {p : Pend} (h : p.isWfe = true) : p.act = .remote := by
  unfold Pend.isWfe at h
  split at h
  · exact beq_iff_eq.mp h
  · cases h

/-- What an event makes of the record of a WFE that waits for it. -/
def Pend.evented (p : Pend) (now : Nat) : Pend := if p.isWfe then { p with act := .vals, due := some now } else p

theorem Pend.evented_id (now : Nat) (p : Pend) : (p.evented now).id = p.id := by
  unfold Pend.evented
  split <;> rfl

theorem Ctx.wfeEnd_eq (c : Ctx) (now : Nat) : c.wfeEnd now =
    if c.block = .wfe then { c with block := .none, readyAt := now, pend := c.pend.map fun p => p.evented now } else c := rfl

/-- An event on the core ends the waits of WFEs alone (R332). -/
theorem Ctx.wfeEnd_pendOf (c : Ctx) (now id : Nat) : (c.wfeEnd now).pendOf id = c.pendOf id ∨
    ∃ p, c.pendOf id = some p ∧ p.act = .remote ∧ (c.wfeEnd now).pendOf id = some { p with act := .vals, due := some now } := by
  rw [Ctx.wfeEnd_eq]
  split
  · have hfind := c.pendOf_map (Pend.evented_id now) id
    cases hp : c.pendOf id with
    | none => exact .inl (hfind.trans (congrArg (Option.map fun p => p.evented now) hp))
    | some p =>
      have hev := hfind.trans (congrArg (Option.map fun p => p.evented now) hp)
      rw [Option.map_some] at hev
      by_cases hwfe : p.isWfe = true
      · rw [Pend.evented, if_pos hwfe] at hev
        exact .inr ⟨p, rfl, p.act_of_isWfe hwfe, hev⟩
      · rw [Pend.evented, if_neg hwfe] at hev
        exact .inl hev
  · exact .inl rfl

theorem Ctx.wfeEnd_waitNow {c : Ctx} {b : Block} (h : c.waitNow = b) (hb : b ≠ .wfe) (now : Nat) :
    (c.wfeEnd now).waitNow = b := by
  unfold Ctx.wfeEnd
  split
  · next hw =>
    unfold Ctx.waitNow at h ⊢
    split_ifs at h with hh
    · exact absurd (h.symm.trans hw) hb
    · exact (if_neg hh).trans h
  · exact h

theorem Waits.wfeEnd {b : Block} {id : Nat} {d : SReg} {c : Ctx} (h : Waits b id d c) (hb : b ≠ .wfe) (now : Nat) :
    Waits b id d (c.wfeEnd now) := by
  obtain ⟨p, w, hp, hw⟩ := h.record
  refine ⟨Ctx.wfeEnd_waitNow h.wait hb now, ?_⟩
  rcases c.wfeEnd_pendOf now id with hsame | ⟨q, hq, -, hdone⟩
  · exact ⟨p, w, hsame.trans hp, hw⟩
  · obtain rfl := Option.some.inj (hp.symm.trans hq)
    exact ⟨_, w, hdone, hw⟩

theorem WaitEnded.wfeEnd {now id : Nat} {d : SReg} {v : Word} {c : Ctx} (h : WaitEnded now id d v c) (t : Nat) :
    WaitEnded now id d v (c.wfeEnd t) := by
  obtain ⟨p, hp, hact, hdue, hwr⟩ := h.record
  refine ⟨Ctx.wfeEnd_waitNow h.wait nofun t, p, ?_, hact, hdue, hwr⟩
  rcases c.wfeEnd_pendOf t id with hsame | ⟨q, hq, hrem, -⟩
  · exact hsame.trans hp
  · obtain rfl := Option.some.inj (hp.symm.trans hq)
    exact absurd (hact.symm.trans hrem) nofun

/-! ### Its berth in the package -/

/-- The context of berth `k` satisfies `P`. -/
def HoldsAt (s : State) (k : Nat) (P : Ctx → Prop) : Prop := ∃ c, s.ctxAt k = some c ∧ P c

theorem HoldsAt.of_ctxAt {s t : State} {k : Nat} {P : Ctx → Prop} (h : HoldsAt s k P) (ht : t.ctxAt k = s.ctxAt k) :
    HoldsAt t k P := by
  obtain ⟨c, hc, hP⟩ := h
  exact ⟨c, ht.trans hc, hP⟩

/-- An update of any berth under which `P` is closed. -/
theorem HoldsAt.updCtx {s : State} {j k : Nat} {P : Ctx → Prop} {f : Ctx → Ctx} (h : HoldsAt s k P)
    (hf : j = k → ∀ c, P c → P (f c)) : HoldsAt (s.updCtx j f) k P := by
  obtain ⟨c, hc, hP⟩ := h
  rw [HoldsAt, State.ctxAt_updCtx, hc]
  split
  · next hjk => exact ⟨f c, rfl, hf hjk c hP⟩
  · exact ⟨c, rfl, hP⟩

theorem HoldsAt.foldl {α : Type} {f : State → α → State} {k : Nat} {P : Ctx → Prop}
    (hf : ∀ s a, HoldsAt s k P → HoldsAt (f s a) k P) (l : List α) {s : State} (h : HoldsAt s k P) :
    HoldsAt (l.foldl f s) k P := by
  induction l generalizing s with
  | nil => exact h
  | cons a r ih => exact ih (hf s a h)

/-- A pass over the berths in which the step `j` brings the context from `P` to `Q`, and no other takes it from either. -/
theorem HoldsAt.foldl_reaches {f : State → Nat → State} {I : State → Prop} {j k : Nat} {P Q : Ctx → Prop}
    (hI : ∀ s i, I s → I (f s i)) (hother : ∀ s i, i ≠ j → HoldsAt s k P → HoldsAt (f s i) k P)
    (hsame : ∀ s, I s → HoldsAt s k P → HoldsAt (f s j) k Q) (hkeep : ∀ s i, HoldsAt s k Q → HoldsAt (f s i) k Q)
    {l : List Nat} (hj : j ∈ l) {s : State} (hs : I s) (h : HoldsAt s k P) : HoldsAt (l.foldl f s) k Q := by
  induction l generalizing s with
  | nil => exact absurd hj List.not_mem_nil
  | cons i r ih =>
    by_cases hi : i = j
    · exact (hi ▸ hsame s hs h).foldl hkeep r
    · exact ih ((List.mem_cons.mp hj).resolve_left fun h => hi h.symm) (hI s i hs) (hother s i hi h)

theorem HoldsAt.coreEvent {s : State} {k : Nat} {P : Ctx → Prop} (h : HoldsAt s k P) (core : Nat)
    (hP : ∀ now c, P c → P (c.wfeEnd now)) : HoldsAt (s.coreEvent core) k P :=
  h.foldl (fun s _ hs => hs.updCtx fun _ c hc => hP s.now c hc) _

/-- A berth with a context is among those that are looked at. -/
theorem State.mem_liveKeys {s : State} {k : Nat} {c : Ctx} (h : s.ctxAt k = some c) : k ∈ s.liveKeys := by
  have hmem : ∀ m : SMap Ctx, mget m k = some c → k ∈ m.map Prod.fst := by
    intro m
    induction m with
    | nil => exact nofun
    | cons x r ih =>
      obtain ⟨j, w⟩ := x
      intro hm
      rw [mget] at hm
      split at hm
      · next hj => exact hj ▸ List.mem_cons_self ..
      · exact List.mem_cons_of_mem _ (ih hm)
  unfold State.ctxAt at h
  unfold State.liveKeys
  dsimp only
  by_cases hk : k = s.key
  · rw [if_pos hk] at h
    by_cases hl : s.live = true
    · rw [if_pos hl]
      exact List.mem_append_right _ (hk ▸ List.mem_cons_self ..)
    · rw [if_neg hl] at h
      cases h
  · rw [if_neg hk] at h
    have hin := hmem _ h
    by_cases hl : s.live = true
    · rw [if_pos hl]
      rcases Nat.lt_or_gt_of_ne hk with hlt | hgt
      · exact List.mem_append_left _ (List.mem_filter.mpr ⟨hin, decide_eq_true hlt⟩)
      · exact List.mem_append_right _ (List.mem_cons_of_mem _ (List.mem_filter.mpr ⟨hin, decide_eq_true hgt⟩))
    · rw [if_neg hl]
      exact hin

/-- The next word's address of the focused context, where an update of contexts keeps it. -/
theorem State.updCtx_pc {s : State} {f : Ctx → Ctx} (hf : ∀ c, (f c).pc = c.pc) (k : Nat) :
    (s.updCtx k f).ctx.pc = s.ctx.pc := by
  unfold State.updCtx State.putCtx State.ctxAt
  split
  · rfl
  · next c hc =>
    split_ifs at hc ⊢ with hk
    · obtain rfl := Option.some.inj hc
      exact hf s.ctx
    · rfl

theorem Ctx.wfeEnd_pc (c : Ctx) (now : Nat) : (c.wfeEnd now).pc = c.pc := by
  have h := c.wfeEnd_wakeOnly now
  unfold WakeOnly at h
  rw [h]

theorem Ctx.setWait_pc (c : Ctx) (b : Block) : (c.setWait b).pc = c.pc := by
  unfold Ctx.setWait
  split <;> rfl

theorem Ctx.waitDone_pc (c : Ctx) (now id : Nat) (v : Word) : (c.waitDone now id v).pc = c.pc := Ctx.setWait_pc ..

end Sys2Proof.Machine
end

section
/-! SUPPORT. The words on groups, and the completion of a phase (R139, R323, R324). -/

namespace Sys2Proof.Machine

open Sys2Proof.Safety

/-! ### What the completion of a phase leaves -/

/-- The groups, the cycle, and the next word's address of the focused context. -/
def State.frame (s : State) : SMap Group × Nat × Word := (s.groups, s.now, s.ctx.pc)

theorem State.updCtx_frame {s : State} {f : Ctx → Ctx} (hf : ∀ c, (f c).pc = c.pc) (k : Nat) : (s.updCtx k f).frame = s.frame := by
  have honly := s.updCtx_ctxOnly k f
  have hpc := s.updCtx_pc hf k
  unfold CtxOnly at honly
  rw [State.frame, State.frame, hpc, honly]

theorem State.coreEvent_frame (s : State) (core : Nat) : (s.coreEvent core).frame = s.frame :=
  foldl_keeps State.frame (fun s _ => s.updCtx_frame (fun c => c.wfeEnd_pc s.now) _) _ s

theorem State.eachSaved_keeps {β : Type} (g : State → β) {f : State → Nat → Saved → Nat → State}
    (hf : ∀ s loc sv id, g (f s loc sv id) = g s) (s : State) (gk phase : Nat) (uids : List Nat) :
    g (s.eachSaved gk phase uids f) = g s := by
  refine foldl_keeps g (fun s x => ?_) _ s
  split
  · split
    · exact hf ..
    · rfl
  · rfl

theorem State.eachSaved_nil (s : State) (gk phase : Nat) (f : State → Nat → Saved → Nat → State) :
    s.eachSaved gk phase [] f = s := by
  refine foldl_keeps (fun t => t) (fun s x => ?_) _ s
  split <;> simp

/-- The completion of a phase, in the save areas (R315). -/
def State.releaseSaved (s : State) (gk phase : Nat) (uids : List Nat) : State :=
  s.eachSaved gk phase uids fun s loc sv id => s.savedResult loc sv id (BitVec.ofNat 64 phase)

theorem State.releaseSaved_keeps {β : Type} (g : State → β) (hg : ∀ s loc sv id v, g (s.savedResult loc sv id v) = g s)
    (s : State) (gk phase : Nat) (uids : List Nat) : g (s.releaseSaved gk phase uids) = g s :=
  State.eachSaved_keeps g (f := fun s loc sv id => s.savedResult loc sv id (BitVec.ofNat 64 phase)) (fun _ _ _ _ => hg ..) s gk phase uids

/-- What a phase's completion does to the context of berth `k` (R139, R332). -/
def State.releaseAt (gk phase : Nat) (uids : List Nat) (s : State) (k : Nat) : State :=
  match s.ctxAt k with
  | none => s
  | some c =>
    match c.waitNow with
    | .gbar id home num ph =>
      if home * 4096 + num = gk ∧ ph = phase ∧ uids.contains c.uid then
        (s.putCtx k (c.waitDone s.now id (BitVec.ofNat 64 phase))).coreEvent (k / 4)
      else s
    | _ => s

theorem State.release_eq (s : State) (gk phase : Nat) (uids : List Nat) : s.release gk phase uids =
    (s.releaseSaved gk phase uids).liveKeys.foldl (State.releaseAt gk phase uids) (s.releaseSaved gk phase uids) := rfl

/-- It leaves the package, or ends the berth's wait. -/
theorem State.releaseAt_cases (gk phase : Nat) (uids : List Nat) (s : State) (k : Nat) :
    State.releaseAt gk phase uids s k = s ∨ ∃ c id home num, s.ctxAt k = some c ∧ c.waitNow = .gbar id home num phase ∧
      State.releaseAt gk phase uids s k =
        (s.updCtx k fun c => c.waitDone s.now id (BitVec.ofNat 64 phase)).coreEvent (k / 4) := by
  unfold State.releaseAt
  cases hc : s.ctxAt k with
  | none => exact .inl rfl
  | some c =>
    dsimp only
    split
    · next id home num ph hw =>
      split
      · next hcond =>
        obtain ⟨-, rfl, -⟩ := hcond
        refine .inr ⟨c, id, home, num, rfl, hw, ?_⟩
        rw [State.updCtx_eq hc]
      · exact .inl rfl
    · exact .inl rfl

theorem State.releaseAt_frame (gk phase : Nat) (uids : List Nat) (s : State) (k : Nat) :
    (State.releaseAt gk phase uids s k).frame = s.frame := by
  rcases State.releaseAt_cases gk phase uids s k with h | ⟨_, id, _, _, -, -, h⟩
  · rw [h]
  · rw [h, State.coreEvent_frame]
    exact State.updCtx_frame (fun c => c.waitDone_pc ..) _

theorem State.release_frame (s : State) (gk phase : Nat) (uids : List Nat) : (s.release gk phase uids).frame = s.frame := by
  rw [State.release_eq, foldl_keeps State.frame (State.releaseAt_frame gk phase uids)]
  exact State.releaseSaved_keeps State.frame (fun _ _ _ _ _ => rfl) ..

/-- What becomes of a waiter beyond the need (R139). -/
def Ctx.carried (gk phase : Nat) (uids : List Nat) (c : Ctx) : Ctx :=
  match c.waitNow with
  | .gbar id home num ph =>
    if home * 4096 + num = gk ∧ ph = phase ∧ uids.contains c.uid then c.setWait (.gbar id home num ((phase + 1) % 2 ^ 32)) else c
  | _ => c

theorem Ctx.carried_pc (gk phase : Nat) (uids : List Nat) (c : Ctx) : (c.carried gk phase uids).pc = c.pc := by
  unfold Ctx.carried
  split
  · split
    · exact Ctx.setWait_pc ..
    · rfl
  · rfl

theorem Ctx.carried_nil (gk phase : Nat) (c : Ctx) : c.carried gk phase [] = c := by
  unfold Ctx.carried
  split <;> simp

theorem State.carry_eq (s : State) (gk phase : Nat) (uids : List Nat) : ∃ t : State, t.frame = s.frame ∧
    (uids = [] → t = s) ∧ s.carry gk phase uids = t.liveKeys.foldl (fun s k => s.updCtx k (Ctx.carried gk phase uids)) t := by
  refine ⟨s.eachSaved gk phase uids fun s loc sv id => { s with
    mem := s.mem.writeLE (loc + 32) 8 ((phase + 1) % 2 ^ 32),
    saved := mput s.saved loc { sv with block := .gbar id (gk / 4096) (gk % 4096) ((phase + 1) % 2 ^ 32) } }, ?_, ?_, rfl⟩
  · refine State.eachSaved_keeps State.frame ?_ s gk phase uids
    exact fun _ _ _ _ => rfl
  · rintro rfl
    exact s.eachSaved_nil ..

theorem State.carry_frame (s : State) (gk phase : Nat) (uids : List Nat) : (s.carry gk phase uids).frame = s.frame := by
  obtain ⟨t, ht, -, h⟩ := s.carry_eq gk phase uids
  rw [h, foldl_keeps State.frame fun s k => State.updCtx_frame (Ctx.carried_pc gk phase uids) k, ht]

theorem State.carry_nil_holdsAt {s : State} {k : Nat} {P : Ctx → Prop} (h : HoldsAt s k P) (gk phase : Nat) :
    HoldsAt (s.carry gk phase []) k P := by
  obtain ⟨t, -, ht, hc⟩ := s.carry_eq gk phase []
  rw [hc, ht rfl]
  exact h.foldl (fun s j hs => hs.updCtx fun _ c hP => by rwa [Ctx.carried_nil]) _

/-! ### A context that waits for the phase -/

/-- Context `uid` waits at the barrier of group `home * 4096 + num` in its word `id`, one write of `d`. -/
structure AtBarrier (uid id home num phase : Nat) (d : SReg) (c : Ctx) : Prop where
  waits : Waits (.gbar id home num phase) id d c
  who : c.uid = uid

theorem AtBarrier.wfeEnd {uid id home num phase : Nat} {d : SReg} {c : Ctx} (h : AtBarrier uid id home num phase d c) (now : Nat) :
    AtBarrier uid id home num phase d (c.wfeEnd now) := by
  refine ⟨h.waits.wfeEnd nofun now, ?_⟩
  have hw := c.wfeEnd_wakeOnly now
  unfold WakeOnly at hw
  rw [hw]
  exact h.who

section
variable {gk phase : Nat} {uids : List Nat} {s : State} {k uid id home num : Nat} {d : SReg}

theorem HoldsAt.releaseAt_ended {now : Nat} {v : Word} (h : HoldsAt s k (WaitEnded now id d v)) (j : Nat) :
    HoldsAt (State.releaseAt gk phase uids s j) k (WaitEnded now id d v) := by
  rcases State.releaseAt_cases gk phase uids s j with hsame | ⟨c, i, _, _, hc, hw, hend⟩
  · rwa [hsame]
  · rw [hend]
    refine HoldsAt.coreEvent (h.updCtx fun hjk => ?_) _ fun t c hP => hP.wfeEnd t
    obtain ⟨e, he, hP⟩ := h
    obtain rfl := Option.some.inj ((hjk ▸ hc).symm.trans he)
    exact absurd (hw.symm.trans hP.wait) nofun

theorem HoldsAt.releaseAt_other (h : HoldsAt s k (AtBarrier uid id home num phase d)) {j : Nat} (hj : j ≠ k) :
    HoldsAt (State.releaseAt gk phase uids s j) k (AtBarrier uid id home num phase d) := by
  rcases State.releaseAt_cases gk phase uids s j with hsame | ⟨_, _, _, _, -, -, hend⟩
  · rwa [hsame]
  · rw [hend]
    exact HoldsAt.coreEvent (h.updCtx fun hjk => absurd hjk hj) _ fun t c hP => hP.wfeEnd t

theorem HoldsAt.releaseAt_same (h : HoldsAt s k (AtBarrier uid id home num phase d)) (hg : home * 4096 + num = gk) (hu : uid ∈ uids) :
    HoldsAt (State.releaseAt gk phase uids s k) k (WaitEnded s.now id d (BitVec.ofNat 64 phase)) := by
  obtain ⟨c, hc, hP⟩ := h
  have hcond : home * 4096 + num = gk ∧ phase = phase ∧ uids.contains c.uid = true :=
    ⟨hg, rfl, List.contains_iff_mem.mpr (hP.who ▸ hu)⟩
  rw [State.releaseAt, hc]
  dsimp only
  rw [hP.waits.wait]
  dsimp only
  rw [if_pos hcond]
  refine HoldsAt.coreEvent ⟨_, State.ctxAt_putCtx .., ?_⟩ _ fun t c hP => hP.wfeEnd t
  exact hP.waits.waitDone ..

/-- Every berth that is looked at ends its wait. -/
theorem HoldsAt.release (h : HoldsAt s k (AtBarrier uid id home num phase d)) (hg : home * 4096 + num = gk) (hu : uid ∈ uids) :
    HoldsAt (s.release gk phase uids) k (WaitEnded s.now id d (BitVec.ofNat 64 phase)) := by
  rw [State.release_eq]
  obtain ⟨c, hc, hP⟩ := h
  refine HoldsAt.foldl_reaches (j := k) (I := fun t => t.now = s.now) (fun t j ht => ?_) (fun t j hj ht => ht.releaseAt_other hj)
    (fun t ht hb => ?_) (fun t j ht => ht.releaseAt_ended j) ?_ ?_ ⟨c, ?_, hP⟩
  · exact (congrArg (fun x => x.2.1) (State.releaseAt_frame gk phase uids t j)).trans ht
  · exact ht ▸ hb.releaseAt_same hg hu
  · rw [State.releaseSaved_keeps State.liveKeys fun _ _ _ _ _ => rfl]
    exact State.mem_liveKeys hc
  · exact State.releaseSaved_keeps State.now (fun _ _ _ _ _ => rfl) ..
  · exact (State.releaseSaved_keeps (fun t => t.ctxAt k) (fun _ _ _ _ _ => rfl) ..).trans hc

end

/-! ### The phase goes -/

theorem State.group_setGroup (s : State) (gk : Nat) (g : Group) : (s.setGroup gk g).group gk = g := mgetD_mput_same ..

/-- A phase that is not open, or lacks an arrival, does not complete (R139). -/
theorem State.settleGroup_waits {s : State} {gk : Nat} {g : Group} (hg : s.group gk = g)
    (h : g.isOpen = false ∨ g.arr.length < g.needed) (fuel : Nat) : State.settleGroup fuel s gk = s := by
  cases fuel with
  | zero => rfl
  | succ n =>
    rw [State.settleGroup]
    refine if_neg ?_
    rw [hg]
    rintro ⟨ho, hn⟩
    rcases h with h | h
    · exact absurd (h.symm.trans ho) Bool.false_ne_true
    · omega

/-- The group once its open phase has completed with its last arrival, whose place the arrivals for the next one take (R139). -/
def Group.completed (g : Group) : Group :=
  { g with phase := (g.phase + 1) % 2 ^ 32, isOpen := !g.next.isEmpty,
           need := if g.next.isEmpty then g.need else g.members.length,
           members := g.members.map fun m => (m.1, false), arr := g.next, next := [] }

theorem State.settleGroup_completes {s : State} {gk : Nat} {g : Group} (hg : s.group gk = g) (ho : g.isOpen = true)
    (hn : g.arr.length = g.needed) (fuel : Nat) : State.settleGroup (fuel + 1) s gk =
      State.settleGroup fuel (((s.release gk g.phase g.arr).carry gk g.phase []).setGroup gk g.completed) gk := by
  have hcond : g.isOpen = true ∧ g.needed ≤ g.arr.length := ⟨ho, hn.ge⟩
  rw [State.settleGroup]
  dsimp only
  rw [hg, if_pos hcond, ← hn, List.take_length, List.drop_length, List.nil_append]
  congr 2
  unfold Group.completed Group.openPhase
  cases g.next <;> rfl

/-- What comes of a group whose arrivals, need or mode has changed (R139). -/
theorem State.phaseGoes_settle (s : State) (gk : Nat) (g : Group) : PhaseGoes s ((s.setGroup gk g).settle gk) gk g := by
  refine ⟨fun hw => State.settleGroup_waits (s.group_setGroup gk g) hw _, fun ho hn hnext => ?_⟩
  rw [State.settle, State.settleGroup_completes (s.group_setGroup gk g) ho hn, State.settleGroup_waits (State.group_setGroup ..)]
  · refine ⟨mgetD_mput_same .., fun k c id home num p d v hc hw hk hu hp hwr => ?_⟩
    have hat : HoldsAt (s.setGroup gk g) k (AtBarrier c.uid id home num g.phase d) := ⟨c, hc, ⟨hw, p, v, hp, hwr⟩, rfl⟩
    obtain ⟨c', hc', hend⟩ := State.carry_nil_holdsAt (hat.release (uids := g.arr) hk hu) gk g.phase
    exact ⟨c', hc', hend.wait, hend.due_wr⟩
  · unfold Group.completed Group.needed
    rcases hnext with hnil | hlt
    · exact .inl (by rw [hnil]; rfl)
    · dsimp only
      by_cases hnil : g.next.isEmpty = true
      · exact .inl (by rw [hnil]; rfl)
      · rw [if_neg hnil]
        exact .inr hlt

theorem State.setGroup_pc (s : State) (gk : Nat) (g : Group) : (s.setGroup gk g).ctx.pc = s.ctx.pc := rfl

theorem State.frame_pc {s t : State} (h : t.frame = s.frame) : t.ctx.pc = s.ctx.pc := congrArg (fun x => x.2.2) h

theorem State.settleGroup_pc (fuel : Nat) (s : State) (gk : Nat) : (State.settleGroup fuel s gk).ctx.pc = s.ctx.pc := by
  induction fuel generalizing s with
  | zero => rfl
  | succ n ih =>
    rw [State.settleGroup]
    split
    · rw [ih, State.setGroup_pc]
      exact State.frame_pc ((State.carry_frame ..).trans (State.release_frame ..))
    · rfl

/-! ### Joining, arriving, leaving, the mode -/

section
variable {s : State} {gk uid : Nat}

theorem Group.isMember_iff {g : Group} {uid : Nat} : g.isMember uid = true ↔ ∃ m ∈ g.members, m.1 = uid := by
  simp [Group.isMember]

theorem Group.isNew_iff {g : Group} {uid : Nat} : g.isNew uid = true ↔ (uid, true) ∈ g.members := by
  simp only [Group.isNew, List.any_eq_true, Bool.and_eq_true, beq_iff_eq]
  constructor
  · rintro ⟨⟨u, b⟩, hm, rfl, rfl⟩
    exact hm
  · exact fun h => ⟨_, h, rfl, rfl⟩

theorem State.join_pc (s : State) (gk uid : Nat) : (s.join gk uid).ctx.pc = s.ctx.pc := by
  unfold State.join
  dsimp only
  split <;> rfl

theorem State.leave_pc (s : State) (gk uid : Nat) : (s.leave gk uid).ctx.pc = s.ctx.pc := by
  unfold State.leave
  dsimp only
  split_ifs
  · rfl
  · exact State.settleGroup_pc ..
  · rfl

theorem State.modeSet_pc (s : State) (gk n : Nat) : (s.modeSet gk n).ctx.pc = s.ctx.pc := State.settleGroup_pc ..

theorem State.join_new (h : ∀ m ∈ (s.group gk).members, m.1 ≠ uid) :
    s.join gk uid = s.setGroup gk { s.group gk with members := (s.group gk).members ++ [(uid, (s.group gk).isOpen)] } := by
  refine if_neg fun hm => ?_
  obtain ⟨m, hm, hu⟩ := Group.isMember_iff.mp hm
  exact h m hm hu

theorem State.join_member (h : ∃ m ∈ (s.group gk).members, m.1 = uid) : s.join gk uid = s :=
  if_pos (Group.isMember_iff.mpr h)

theorem State.arrive_next (ho : (s.group gk).isOpen = true) (hn : (uid, true) ∈ (s.group gk).members) :
    s.arrive gk uid = s.setGroup gk { s.group gk with next := (s.group gk).next ++ [uid] } :=
  if_pos (Bool.and_eq_true_iff.mpr ⟨ho, Group.isNew_iff.mpr hn⟩)

theorem State.arrive_counts (h : (s.group gk).isOpen = false ∨ (uid, true) ∉ (s.group gk).members) {o : Group}
    (ho : o = if (s.group gk).isOpen then s.group gk else (s.group gk).openPhase) :
    s.arrive gk uid = (s.setGroup gk { o with arr := o.arr ++ [uid] }).settle gk := by
  subst ho
  refine if_neg fun hb => ?_
  obtain ⟨hopen, hnew⟩ := Bool.and_eq_true_iff.mp hb
  rcases h with h | h
  · exact absurd (h.symm.trans hopen) Bool.false_ne_true
  · exact h (Group.isNew_iff.mp hnew)

theorem State.leave_stranger (h : ∀ m ∈ (s.group gk).members, m.1 ≠ uid) : s.leave gk uid = s :=
  if_pos (not_isMember_iff.mpr h)

theorem State.leave_member (h : ∃ m ∈ (s.group gk).members, m.1 = uid) : s.leave gk uid =
    if ((s.group gk).isOpen && !(s.group gk).isNew uid && !(s.group gk).arr.contains uid) = true then
      (s.setGroup gk { s.group gk with members := (s.group gk).members.filter (fun m => m.1 != uid),
                                       arr := (s.group gk).arr ++ [uid] }).settle gk
    else s.setGroup gk { s.group gk with members := (s.group gk).members.filter (fun m => m.1 != uid),
                                         next := (s.group gk).next.filter (· != uid) } := by
  refine if_neg fun hn => ?_
  obtain ⟨m, hm, hu⟩ := h
  exact not_isMember_iff.mp hn m hm hu

theorem Group.counted_iff {g : Group} {uid : Nat} : (g.isOpen && !g.isNew uid && !g.arr.contains uid) = true ↔
    g.isOpen = true ∧ (uid, true) ∉ g.members ∧ uid ∉ g.arr := by
  simp only [Bool.and_eq_true, Bool.not_eq_true', ← Bool.not_eq_true, Group.isNew_iff, List.contains_iff_mem, and_assoc]

end

/-! ### The words -/

section
variable {p : Dep} {d a b : SReg} {s : State} {g : Nat}

theorem State.handle_names {h : Word} (hn : names s h g) : s.handle h = some g := by
  obtain ⟨hg, hlt, hlive⟩ := hn
  have hkey : 4096 * bitsOf h.toNat 12 3 + bitsOf h.toNat 0 12 = g := by
    simp only [bitsOf]
    omega
  have hhome : ¬ (2 ^ 15 ≤ h.toNat ∨ 4 < bitsOf h.toNat 12 3 ∨ (s.group g).live = false) := by
    rintro (hbig | hbig | hfree)
    · omega
    · simp only [bitsOf] at hbig
      omega
    · exact absurd (hlive.symm.trans hfree) (by decide)
  unfold State.handle
  dsimp only
  rw [hkey, if_neg hhome]

theorem names_popped {v : Word} (h : names s v g) : names (popped p s) v g := h

theorem popped_reg (p : Dep) (s : State) (a : SReg) : (popped p s).ctx.reg a = s.ctx.reg a := by simp

theorem popped_handle (h : names s (s.ctx.reg a) g) : (popped p s).handle ((popped p s).ctx.reg a) = some g :=
  by
  rw [popped_reg]
  exact State.handle_names (names_popped h)

theorem State.onGroup_names {i : Instr} {h : Word} (hh : s.handle h = some g) (k : Nat → Body) : s.onGroup i h k = k g := by
  rw [State.onGroup, hh]

theorem badHandle_popped (h : names s (s.ctx.reg a) g) : badHandle a (popped p s) = false := by
  rw [badHandle, popped_handle h]
  rfl

theorem State.freeGroup_first {home n : Nat} (hn : n < 4096) (hl : ∀ m < n, (s.group (4096 * home + m)).live = true)
    (hf : (s.group (4096 * home + n)).live = false) : s.freeGroup home = some (4096 * home + n) := by
  have hfind : (List.range 4096).find? ((fun g => !(s.group g).live) ∘ (4096 * home + ·)) = some n := by
    rw [List.find?_range_eq_some]
    refine ⟨by simp [hf], List.mem_range.mpr hn, fun j hj => by simp [hl j hj]⟩
  rw [State.freeGroup, List.find?_map, hfind]
  rfl

theorem State.freeGroup_none {home : Nat} (hl : ∀ m < 4096, (s.group (4096 * home + m)).live = true) : s.freeGroup home = none := by
  rw [State.freeGroup, List.find?_eq_none]
  intro g hg
  obtain ⟨m, hm, rfl⟩ := List.mem_map.mp hg
  simp [hl m (List.mem_range.mp hm)]

theorem popped_live (p : Dep) (s : State) : (popped p s).live = s.live := rfl

theorem popped_pc (p : Dep) (s : State) : (popped p s).ctx.pc = s.ctx.pc := by simp

theorem popped_uid (p : Dep) (s : State) : (popped p s).ctx.uid = s.ctx.uid := by simp

theorem popped_nextId (p : Dep) (s : State) : (popped p s).ctx.nextId = s.ctx.nextId := by simp

/-- The wait of a GBAR on the group. -/
def Block.onGroup (gk : Nat) (b : Block) : Bool := match b with | .gbar _ home num _ => home * 4096 + num == gk | _ => false

theorem State.hasWaiter_eq (s : State) (gk : Nat) : s.hasWaiter gk =
    ((s.liveKeys.any fun k => ((s.ctxAt k).map Ctx.waitNow).any (Block.onGroup gk)) ||
      s.saved.any fun x => x.2.block.onGroup gk) := by
  unfold State.hasWaiter
  dsimp only
  congr 2
  funext k
  cases s.ctxAt k <;> rfl

/-- A popped token is no wait. -/
theorem State.hasWaiter_popped (p : Dep) (s : State) (gk : Nat) : (popped p s).hasWaiter gk = s.hasWaiter gk := by
  have hctx : ∀ k, ((popped p s).ctxAt k).map Ctx.waitNow = (s.ctxAt k).map Ctx.waitNow := by
    intro k
    unfold State.ctxAt
    by_cases hk : k = s.key
    · rw [if_pos hk, popped_key, if_pos hk]
      rw [popped_ctx, popped_live]
      split <;> simp [Ctx.waitNow]
    · rw [if_neg hk, popped_key, if_neg hk]
      rfl
  rw [State.hasWaiter_eq, State.hasWaiter_eq]
  simp only [hctx]
  rfl

end

/-- Settles O20: a phase that has its arrivals releases each context that waits for it, one berth after the other. -/
theorem groupWords : Obligations.GroupWords := by
  refine ⟨fun p d a s home n hcan hhome hle => ⟨fun hn hl hf => ?_, fun hl => ?_⟩,
    fun p d a b s g hg => ⟨fun hcan hdie => ?_, fun hcan => ?_, fun hcan hm => ?_, fun hcan hb => ?_, fun hcan hw => ?_⟩,
    fun s gk uid n g o hg ho => ?_⟩
  · have hgood : decide (4 < ((popped p s).ctx.reg a).toNat) = false := by
      rw [popped_reg, hhome]
      exact decide_eq_false (by omega)
    have hfree : (popped p s).freeGroup ((popped p s).ctx.reg a).toNat = some (4096 * home + n) := by
      rw [popped_reg, hhome]
      exact State.freeGroup_first hn hl hf
    show execGnew p d a s = _
    rw [execGnew, tWord_ready hcan hgood, hfree]
    exact finish_serialDone _ p d _ (by simp [State.setGroup])
  · have hgood : decide (4 < ((popped p s).ctx.reg a).toNat) = false := by
      rw [popped_reg, hhome]
      exact decide_eq_false (by omega)
    have hfree : (popped p s).freeGroup ((popped p s).ctx.reg a).toNat = none := by
      rw [popped_reg, hhome]
      exact State.freeGroup_none hl
    show execGnew p d a s = _
    rw [execGnew, tWord_ready hcan hgood, hfree]
    exact finish_serialDone _ p d _ (by simp)
  · show execGjoin p a s = _
    rw [execGjoin, tWord_ready hcan, State.onGroup_names (popped_handle hg), popped_uid]
    · exact finish_finished p ((State.join_pc ..).trans (popped_pc ..))
    · rw [popped_handle hg]
      by_cases hd : g / 4096 < 4
      · have hsame : g / 4096 = dieOf (popped p s).core := hdie (by omega)
        simp [hsame]
      · simp [hd]
  · show execGleave p a s = _
    rw [execGleave, tWord_ready hcan (badHandle_popped hg), State.onGroup_names (popped_handle hg), popped_uid]
    exact finish_finished p ((State.leave_pc ..).trans (popped_pc ..))
  · show execGbar p d a s = _
    rw [execGbar, tWord_ready hcan, State.onGroup_names (popped_handle hg), popped_uid]
    · rw [finish_done, State.pc4, popped_pc, popped_nextId]
      rfl
    · rw [popped_handle hg, popped_uid]
      exact congrArg (!·) hm
  · have hgood : (badHandle a (popped p s) || decide (wfld ((popped p s).ctx.reg b) 32 32 ≠ 0)) = false := by
      rw [badHandle_popped hg, popped_reg, (wfld_halves hb).1]
      rfl
    show execGbcfg p a b s = _
    rw [execGbcfg, tWord_ready hcan hgood, State.onGroup_names (popped_handle hg), popped_reg, (wfld_halves hb).2]
    exact finish_finished p ((State.modeSet_pc ..).trans (popped_pc ..))
  · show execGfree p a s = _
    rw [execGfree, tWord_ready hcan, State.onGroup_names (popped_handle hg)]
    · exact finish_finished p (popped_pc ..)
    · rw [popped_handle hg]
      exact (State.hasWaiter_popped ..).trans hw
  obtain rfl : s.group gk = g := hg
  refine ⟨State.join_new, State.join_member, State.arrive_next, fun h => ?_, State.leave_stranger, fun hm hopen hnew harr => ?_,
    fun hm h => ?_, State.phaseGoes_settle ..⟩
  · rw [State.arrive_counts h ho]
    exact State.phaseGoes_settle ..
  · rw [State.leave_member hm, if_pos (Group.counted_iff.mpr ⟨hopen, hnew, harr⟩)]
    exact State.phaseGoes_settle ..
  · rw [State.leave_member hm, if_neg]
    · rfl
    · rw [Group.counted_iff]
      rintro ⟨hopen, hnew, harr⟩
      rcases h with h | h | h
      · exact absurd (h.symm.trans hopen) Bool.false_ne_true
      · exact hnew h
      · exact harr h

end Sys2Proof.Machine
end

section
/-! SUPPORT. The sequencer's choice, arrivals at a waiting-task entry, contexts from records (R113, R134, R137, R140). -/

namespace Sys2Proof.Machine

open Sys2Proof.Safety

/-! ### The sequencer -/

/-- `y` goes before `x` in R140's order: ready longer, or of the higher priority, or of the lower berth. -/
def Before (now : Nat) (y x : Nat × Ctx) : Prop := y.2.readySince now < x.2.readySince now ∨
  (y.2.readySince now = x.2.readySince now ∧ (x.2.prio < y.2.prio ∨ (x.2.prio = y.2.prio ∧ y.1 < x.1)))

/-- One berth is compared with the best of those below it. -/
def pickStep (now : Nat) (best : Option (Nat × Ctx)) (x : Nat × Ctx) : Option (Nat × Ctx) :=
  match best with
  | none => some x
  | some y =>
    if x.2.readySince now < y.2.readySince now ∨
        (x.2.readySince now = y.2.readySince now ∧ y.2.prio < x.2.prio) then some x else some y

theorem pickReady_eq_foldl (now : Nat) (l : List (Nat × Ctx)) : pickReady now l = l.foldl (pickStep now) none := rfl

theorem foldl_pickStep_mem (now : Nat) (l : List (Nat × Ctx)) {z : Nat × Ctx} (h : l.foldl (pickStep now) none = some z) : z ∈ l := by
  have hmem : ∀ (l : List (Nat × Ctx)) (best : Option (Nat × Ctx)), l.foldl (pickStep now) best = some z →
      z ∈ l ∨ best = some z := by
    intro l
    induction l with
    | nil => exact fun best h => .inr h
    | cons x r ih =>
      intro best h
      rcases ih _ h with hr | hb
      · exact .inl (List.mem_cons_of_mem _ hr)
      · unfold pickStep at hb
        split at hb
        · exact .inl (Option.some.inj hb ▸ List.mem_cons_self ..)
        · split at hb
          · exact .inl (Option.some.inj hb ▸ List.mem_cons_self ..)
          · exact .inr hb
  exact (hmem l none h).resolve_right nofun

/-- The berth that goes before every other is the choice. -/
theorem pickReady_best {now : Nat} {l : List (Nat × Ctx)} {y : Nat × Ctx} (hl : l.Pairwise fun a b => a.1 < b.1) (hy : y ∈ l)
    (hbest : ∀ x ∈ l, x.1 ≠ y.1 → Before now y x) : pickReady now l = some y := by
  obtain ⟨before, after, rfl⟩ := List.append_of_mem hy
  obtain ⟨-, hafter, hlow⟩ := List.pairwise_append.mp hl
  have hstep : pickStep now (before.foldl (pickStep now) none) y = some y := by
    cases hz : before.foldl (pickStep now) none with
    | none => rfl
    | some z =>
      have hmem := foldl_pickStep_mem now before hz
      have hlt : z.1 < y.1 := hlow z hmem y (List.mem_cons_self ..)
      have hb := hbest z (List.mem_append_left _ hmem) (by omega)
      unfold Before at hb
      exact if_pos (by omega)
  have hstay : ∀ r : List (Nat × Ctx), (∀ x ∈ r, y.1 < x.1 ∧ Before now y x) → r.foldl (pickStep now) (some y) = some y := by
    intro r
    induction r with
    | nil => exact fun _ => rfl
    | cons x r ih =>
      intro h
      obtain ⟨-, hb⟩ := h x (List.mem_cons_self ..)
      have hkeep : pickStep now (some y) x = some y := by
        unfold Before at hb
        exact if_neg (by omega)
      rw [List.foldl_cons, hkeep]
      exact ih fun x hx => h x (List.mem_cons_of_mem _ hx)
  rw [pickReady_eq_foldl, List.foldl_append, List.foldl_cons, hstep]
  refine hstay after fun x hx => ?_
  have hlt : y.1 < x.1 := (List.pairwise_cons.mp hafter).1 x hx
  exact ⟨hlt, hbest x (List.mem_append_right _ (List.mem_cons_of_mem _ hx)) (by omega)⟩

theorem State.readyOthers_sorted (s : State) (core : Nat) (b : Option Nat) : (s.readyOthers core b).Pairwise fun x y => x.1 < y.1 := by
  have hfst : ∀ x z, (if b = some x then none
      else match s.ctxAt (4 * core + x) with
        | some c => if c.isReady then some (x, c) else none
        | none => none) = some z → z.1 = x := by
    intro x z h
    split at h
    · cases h
    · split at h
      · split at h
        · cases h
          rfl
        · cases h
      · cases h
  unfold State.readyOthers
  rw [List.pairwise_filterMap]
  refine List.Pairwise.imp (fun {x y} hxy z hz w hw => ?_) List.pairwise_lt_range
  rw [hfst x z hz, hfst y w hw]
  exact hxy

/-- The sequencer goes to the berth that goes before every other (R140). -/
theorem State.switch_best {s : State} {core b : Nat} {cb : Ctx} (hm : s.mustSwitch core = true)
    (hp : pickReady s.now (s.readyOthers core (s.coreAt core).run) = some (b, cb)) :
    ∃ t, CtxOnly s t ∧ s.switch core = t.updCore core fun c => { c with run := some b, runAt := s.now, full := false } := by
  rw [State.switch, if_pos hm]
  dsimp only
  rw [hp]
  refine ⟨_, ?_, rfl⟩
  split
  · exact State.updCtx_ctxOnly ..
  · rfl

/-! ### Arrivals -/

theorem foldl_stays {α β : Type} {f : β → α → β} {l : List α} {b : β} (h : ∀ a ∈ l, f b a = b) : l.foldl f b = b := by
  induction l with
  | nil => rfl
  | cons a r ih =>
    rw [List.foldl_cons, h a (List.mem_cons_self ..)]
    exact ih fun x hx => h x (List.mem_cons_of_mem _ hx)

/-- What the counter `n` of entry `e` makes of a context: its CNTWAIT ends where its threshold is reached (R317). -/
def Ctx.counted (now e n : Nat) (c : Ctx) : Ctx :=
  match c.waitNow with
  | .cntwait id e' thr => if e' = e ∧ thr ≤ n then c.waitDone now id (BitVec.ofNat 64 n) else c
  | _ => c

/-- What it makes of a saved one (R130). -/
def State.countedSaved (core e n : Nat) (s : State) (x : Nat × Saved) : State :=
  match x.2.block with
  | .cntwait id e' thr => if x.2.core = core ∧ e' = e ∧ thr ≤ n then s.savedResult x.1 x.2 id (BitVec.ofNat 64 n) else s
  | _ => s

theorem State.wtWake_eq (s : State) (core e : Nat) : s.wtWake core e =
    (List.range 4).foldl (fun t b => t.updCtx (4 * core + b) (Ctx.counted t.now e (s.wtAt core e).counter))
      (s.saved.foldl (State.countedSaved core e (s.wtAt core e).counter) s) := rfl

theorem State.foldl_countedSaved_keeps {β : Type} (g : State → β) (hg : ∀ s loc sv id v, g (s.savedResult loc sv id v) = g s)
    (core e n : Nat) (l : List (Nat × Saved)) (s : State) : g (l.foldl (State.countedSaved core e n) s) = g s := by
  refine foldl_keeps g (fun s x => ?_) l s
  unfold State.countedSaved
  split
  · split
    · exact hg ..
    · rfl
  · rfl

/-- The entries and the cores. -/
def State.wtCores (s : State) : SMap WtEntry × SMap Core := (s.wt, s.cores)

theorem CtxOnly.wtCores {s t : State} (h : CtxOnly s t) : t.wtCores = s.wtCores := by
  unfold CtxOnly at h
  rw [h]
  rfl

/-- Its waits apart, an arrival's comparison leaves entries and cores. -/
theorem State.wtWake_wtCores (s : State) (core e : Nat) : (s.wtWake core e).wtCores = s.wtCores := by
  rw [State.wtWake_eq, foldl_keeps State.wtCores fun t b => (t.updCtx_ctxOnly _ _).wtCores]
  exact State.foldl_countedSaved_keeps State.wtCores (fun _ _ _ _ _ => rfl) ..

theorem State.wtWake_mem {s : State} {core e n : Nat} (hn : (s.wtAt core e).counter = n)
    (h : ∀ x ∈ s.saved, ∀ id thr, x.2.block = .cntwait id e thr → x.2.core ≠ core ∨ n < thr) :
    (s.wtWake core e).mem = s.mem := by
  have hsaved : s.saved.foldl (State.countedSaved core e n) s = s := by
    refine foldl_stays fun x hx => ?_
    unfold State.countedSaved
    split
    · next id e' thr hb =>
      refine if_neg ?_
      rintro ⟨hcore, rfl, hthr⟩
      rcases h x hx id thr hb with hne | hlt
      · exact hne hcore
      · omega
    · rfl
  rw [State.wtWake_eq, hn, hsaved]
  exact foldl_keeps State.mem (fun t b => (t.updCtx_ctxOnly _ _).mem) _ _

/-- Context waits for entry `e` to reach `thr`, in its word `id`, one write of `d`: the comparison ends the wait (R317). -/
theorem HoldsAt.wtWake {s : State} {core e b id thr n : Nat} {d : SReg} (hn : (s.wtAt core e).counter = n) (hb : b < 4)
    (hthr : thr ≤ n) (h : HoldsAt s (4 * core + b) (Waits (.cntwait id e thr) id d)) :
    HoldsAt (s.wtWake core e) (4 * core + b) (WaitEnded s.now id d (BitVec.ofNat 64 n)) := by
  rw [State.wtWake_eq, hn]
  obtain ⟨c, hc, hP⟩ := h
  refine HoldsAt.foldl_reaches (j := b) (I := fun t => t.now = s.now) (fun t i ht => ?_) (fun t i hi ht => ?_) (fun t ht hw => ?_)
    (fun t i ht => ?_) (List.mem_range.mpr hb) ?_ ⟨c, ?_, hP⟩
  · have honly := t.updCtx_ctxOnly (4 * core + i) (Ctx.counted t.now e n)
    unfold CtxOnly at honly
    rw [honly]
    exact ht
  · exact ht.updCtx fun hk => absurd hk (by omega)
  · obtain ⟨c, hc, hP⟩ := hw
    refine ⟨c.waitDone t.now id (BitVec.ofNat 64 n), ?_, ht ▸ hP.waitDone ..⟩
    rw [State.ctxAt_updCtx, if_pos rfl, hc, Option.map_some, Ctx.counted, hP.wait]
    exact congrArg some (if_pos ⟨rfl, hthr⟩)
  · refine ht.updCtx fun _ c hP => ?_
    rw [Ctx.counted, hP.wait]
    exact hP
  · exact State.foldl_countedSaved_keeps State.now (fun _ _ _ _ _ => rfl) ..
  · exact (State.foldl_countedSaved_keeps (fun t => t.ctxAt (4 * core + b)) (fun _ _ _ _ _ => rfl) ..).trans hc

/-- An armed entry that has reached its threshold fires (R137). -/
theorem State.wtFire_fires {s : State} {core e : Nat} {w : WtEntry} {q : QRec} (hw : s.wtAt core e = w) (ha : w.armed = true)
    (hthr : w.thr ≤ w.counter) (hq : w.qr = some q) (hall : ((s.coreAt core).ready.all fun x => x.entry != some e) = true) :
    mget (s.wtFire core e).wt (64 * core + e) = some { w with counter := w.counter - w.thr, armed := false, qr := none } ∧
      ((s.wtFire core e).coreAt core).ready = (s.coreAt core).ready ++ [⟨q, some e⟩] := by
  have hnone : (!(s.coreAt core).ready.any fun x => x.entry == some e) = true := by
    rw [List.not_any_eq_all_not]
    exact hall
  unfold State.wtFire
  rw [hw]
  simp only [hq]
  rw [if_pos ⟨ha, hthr, hnone⟩, State.coreAt_updCore, if_pos rfl]
  exact ⟨mget_mput_same .., rfl⟩

theorem State.wtFire_stays {s : State} {core e : Nat} {w : WtEntry} (hw : s.wtAt core e = w) (h : w.armed = false ∨ w.counter < w.thr) :
    s.wtFire core e = s := by
  unfold State.wtFire
  rw [hw]
  dsimp only
  split
  · refine if_neg ?_
    rintro ⟨ha, hthr, -⟩
    rcases h with h | h
    · exact absurd (h.symm.trans ha) Bool.false_ne_true
    · omega
  · rfl

theorem State.wtFire_mem (s : State) (core e : Nat) : (s.wtFire core e).mem = s.mem := by
  unfold State.wtFire
  dsimp only
  split
  · split <;> rfl
  · rfl

theorem State.wtFire_ctxAt (s : State) (core e k : Nat) : (s.wtFire core e).ctxAt k = s.ctxAt k := by
  unfold State.wtFire
  dsimp only
  split
  · split <;> rfl
  · rfl

/-- An entry with its counter raised, its waits compared, and fired where it may (R137). -/
theorem State.wtArrive_eq {s : State} {core e n m : Nat} {w : WtEntry} (hw : s.wtAt core e = w)
    (hm : m = Nat.min (w.counter + n) (2 ^ 32 - 1)) :
    s.wtArrive core e n = (((s.setWt core e { w with counter := m }).wtWake core e).wtFire core e).coreEvent core := by
  subst hw hm
  rfl

section
variable {s : State} {core e m : Nat} {w : WtEntry}

theorem State.wtAt_setWt (s : State) (core e : Nat) (w : WtEntry) : (s.setWt core e w).wtAt core e = w := mgetD_mput_same ..

theorem State.wtAt_wtWake (s : State) (core e : Nat) : (s.wtWake core e).wtAt core e = s.wtAt core e :=
  congrArg (fun x : SMap WtEntry × SMap Core => mgetD x.1 (64 * core + e) WtEntry.reset) (s.wtWake_wtCores core e)

theorem State.coreAt_wtWake (s : State) (core e : Nat) : (s.wtWake core e).coreAt core = s.coreAt core :=
  congrArg (fun x : SMap WtEntry × SMap Core => mgetD x.2 core Core.reset) (s.wtWake_wtCores core e)

theorem State.counter_setWt : ((s.setWt core e { w with counter := m }).wtAt core e).counter = m :=
  congrArg WtEntry.counter (State.wtAt_setWt ..)

/-- The package when the counter of entry `e` has become `m` and the waits are compared. -/
def State.compared (s : State) (core e m : Nat) (w : WtEntry) : State := (s.setWt core e { w with counter := m }).wtWake core e

theorem State.wtAt_compared : (s.compared core e m w).wtAt core e = { w with counter := m } :=
  (State.wtAt_wtWake ..).trans (State.wtAt_setWt ..)

theorem State.coreAt_compared : (s.compared core e m w).coreAt core = s.coreAt core := State.coreAt_wtWake ..

theorem State.mget_wt_compared : mget (s.compared core e m w).wt (64 * core + e) = some { w with counter := m } := by
  have h : (s.compared core e m w).wt = (s.setWt core e { w with counter := m }).wt := congrArg Prod.fst (State.wtWake_wtCores ..)
  rw [h]
  exact mget_mput_same ..

theorem State.wtArrive_mem (hw : s.wtAt core e = w) {n : Nat} (hm : m = Nat.min (w.counter + n) (2 ^ 32 - 1))
    (h : ∀ x ∈ s.saved, ∀ id thr, x.2.block = .cntwait id e thr → x.2.core ≠ core ∨ m < thr) :
    (s.wtArrive core e n).mem = s.mem := by
  rw [State.wtArrive_eq hw hm, (State.coreEvent_woken _ core 0).1.mem, State.wtFire_mem]
  exact State.wtWake_mem State.counter_setWt h

/-- What an arrival leaves at the entry and on the ready list is what its firing leaves. -/
theorem State.wtArrive_wtCores (hw : s.wtAt core e = w) {n : Nat} (hm : m = Nat.min (w.counter + n) (2 ^ 32 - 1)) :
    (s.wtArrive core e n).wtCores = ((s.compared core e m w).wtFire core e).wtCores := by
  rw [State.wtArrive_eq hw hm]
  exact (State.coreEvent_woken _ core 0).1.wtCores

theorem State.wtArrive_fires (hw : s.wtAt core e = w) {n : Nat} (hm : m = Nat.min (w.counter + n) (2 ^ 32 - 1)) {q : QRec}
    (ha : w.armed = true) (hthr : w.thr ≤ m) (hq : w.qr = some q)
    (hall : ((s.coreAt core).ready.all fun x => x.entry != some e) = true) :
    mget (s.wtArrive core e n).wt (64 * core + e) = some { counter := m - w.thr, thr := w.thr, armed := false, qr := none } ∧
      ((s.wtArrive core e n).coreAt core).ready = (s.coreAt core).ready ++ [⟨q, some e⟩] := by
  have h := State.wtArrive_wtCores hw hm
  have hwt : (s.wtArrive core e n).wt = _ := congrArg Prod.fst h
  have hcores : (s.wtArrive core e n).cores = _ := congrArg Prod.snd h
  obtain ⟨hentry, hready⟩ := State.wtFire_fires (w := { w with counter := m }) (q := q) State.wtAt_compared ha hthr hq
    (by rw [State.coreAt_compared]; exact hall)
  rw [State.coreAt_compared] at hready
  rw [hwt, State.coreAt, hcores]
  exact ⟨hentry, hready⟩

theorem State.wtArrive_stays (hw : s.wtAt core e = w) {n : Nat} (hm : m = Nat.min (w.counter + n) (2 ^ 32 - 1))
    (h : w.armed = false ∨ m < w.thr) : mget (s.wtArrive core e n).wt (64 * core + e) = some { w with counter := m } ∧
      ((s.wtArrive core e n).coreAt core).ready = (s.coreAt core).ready := by
  have hstay : (s.compared core e m w).wtFire core e = s.compared core e m w := State.wtFire_stays State.wtAt_compared h
  have hframe := State.wtArrive_wtCores hw hm
  rw [hstay] at hframe
  have hwt : (s.wtArrive core e n).wt = _ := congrArg Prod.fst hframe
  have hcores : (s.wtArrive core e n).cores = _ := congrArg Prod.snd hframe
  constructor
  · rw [hwt]
    exact State.mget_wt_compared
  · rw [State.coreAt, hcores]
    exact congrArg Core.ready State.coreAt_compared

theorem State.wtArrive_wakes (hw : s.wtAt core e = w) {n : Nat} (hm : m = Nat.min (w.counter + n) (2 ^ 32 - 1)) {b id thr : Nat}
    {d : SReg} (hb : b < 4) (hthr : thr ≤ m) (h : HoldsAt s (4 * core + b) (Waits (.cntwait id e thr) id d)) :
    HoldsAt (s.wtArrive core e n) (4 * core + b) (WaitEnded s.now id d (BitVec.ofNat 64 m)) := by
  rw [State.wtArrive_eq hw hm]
  exact ((HoldsAt.wtWake State.counter_setWt hb hthr h).of_ctxAt (State.wtFire_ctxAt ..)).coreEvent core fun t c hP => hP.wfeEnd t

end

/-! ### Contexts from records -/

/-- The context of a record in environment `e` (R113). -/
def State.recCtx (s : State) (q : QRec) (e : EnvEntry) : Ctx :=
  ((s.freshCtx q.env e q.r.code (roundRows q.r.rows.toNat) q.r.gran.toNat q.r.prio).setReg 2 q.r.frame).setReg 3 q.r.parent

theorem State.startRec_berth {s : State} {core b : Nat} {q : QRec} {e : EnvEntry} (hb : s.freeBerth core = some b)
    (he : s.env q.env = some e) :
    s.startRec core q = { s.putCtx (4 * core + b) (s.recCtx q e) with nextUid := s.nextUid + 1 } := by
  rw [State.startRec, he]
  dsimp only
  rw [State.place, hb]
  rfl

theorem State.putCtx_ctxOnly (s : State) (k : Nat) (c : Ctx) : CtxOnly s (s.putCtx k c) := by
  unfold State.putCtx
  split <;> rfl

theorem State.startRec_new {s : State} {core b : Nat} {q : QRec} {e : EnvEntry} (hb : s.freeBerth core = some b)
    (he : s.env q.env = some e) : (s.startRec core q).ctxAt (4 * core + b) = some (s.recCtx q e) ∧
      (s.startRec core q).mem = s.mem ∧ (s.startRec core q).runqs = s.runqs := by
  have honly := s.putCtx_ctxOnly (4 * core + b) (s.recCtx q e)
  rw [State.startRec_berth hb he]
  refine ⟨State.ctxAt_putCtx .., honly.mem, ?_⟩
  unfold CtxOnly at honly
  dsimp only
  rw [honly]

theorem State.recCtx_reg (s : State) (q : QRec) (e : EnvEntry) (r : SReg) :
    (s.recCtx q e).reg r = if r = 2 then q.r.frame else if r = 3 then q.r.parent else 0 := by
  unfold State.recCtx
  by_cases h3 : r = 3
  · subst h3
    exact Ctx.reg_setReg_same _ _ (by decide)
  · rw [Ctx.reg_setReg_other _ _ h3, if_neg h3]
    by_cases h2 : r = 2
    · subst h2
      exact Ctx.reg_setReg_same _ _ (by decide)
    · rw [Ctx.reg_setReg_other _ _ h2, if_neg h2]
      unfold Ctx.reg
      split
      · rfl
      · exact Vector.getElem_replicate _

/-- A record that leaves its list or queue becomes the context of the lowest free berth, the rest of the package aside. -/
theorem State.takeReady_new {s : State} {core b : Nat} {q : QRec} {en : Option Nat} {e : EnvEntry} (hb : s.freeBerth core = some b)
    (he : s.env q.env = some e) (hp : s.readyPick core = some ⟨q, en⟩) :
    (s.takeReady core).ctxAt (4 * core + b) = some (s.recCtx q e) ∧ (s.takeReady core).mem = s.mem := by
  obtain ⟨hc, hm, -⟩ := State.startRec_new
    (s := s.updCore core fun c => { c with ready := dropReady ⟨q, en⟩ c.ready }) (core := core) (b := b) (q := q) (e := e) hb he
  rw [State.takeReady, hp]
  dsimp only
  unfold State.readyTake
  cases en with
  | none => exact ⟨hc, hm⟩
  | some n =>
    dsimp only
    rw [State.wtFire_ctxAt, State.wtFire_mem]
    exact ⟨hc, hm⟩

theorem State.runPop_new {s : State} {core b l : Nat} {aged : Bool} {q : QRec} {e : EnvEntry} (hb : s.freeBerth core = some b)
    (he : s.env q.env = some e) (hp : s.popOk core = some (l, aged, q)) :
    (s.runPop core).ctxAt (4 * core + b) = some (s.recCtx q e) ∧ (s.runPop core).mem = s.mem ∧
      ((s.runPop core).runq (8 * dieOf core + l)).items = (s.runq (8 * dieOf core + l)).items.drop 1 := by
  obtain ⟨hc, hm, hr⟩ := State.startRec_new (s := s.popRunq (dieOf core) l aged) (core := core) (b := b) (q := q) (e := e) hb he
  rw [State.runPop, hp]
  refine ⟨hc, hm, ?_⟩
  dsimp only
  rw [State.runq, hr]
  exact congrArg RunQ.items (mgetD_mput_same ..)

/-- Settles O42: the choice of the sequencer is the minimum of R140's order over the berths in their order. -/
theorem threadsRun : Obligations.ThreadsRun := by
  refine fun core s => ⟨fun h => ?_, fun b cb hm hmem hbest => ?_, fun en n m w hw hmin => ?_, fun q b e hb he =>
    ⟨fun i hi => ?_, fun l aged hp => ?_⟩⟩
  · have hsame : s.switch core = s := if_neg (by rw [h]; exact Bool.false_ne_true)
    exact congrArg Host.Outcome.next hsame
  · obtain ⟨t, honly, ht⟩ := State.switch_best hm (pickReady_best (s.readyOthers_sorted core _) hmem hbest)
    refine ⟨_, rfl, ?_⟩
    rw [ht]
    refine ⟨?_, ?_, honly.mem⟩ <;> simp [State.coreAt]
  · obtain ⟨u, hexec, hwt, hcores, hsaved, hctx, hnow, hmem⟩ : ∃ u : State,
        exec (.waitingTaskArrival core en n) s = .next (u.wtArrive core en.toNat n) ∧ u.wt = s.wt ∧ u.cores = s.cores ∧
        u.saved = s.saved ∧ (∀ k, u.ctxAt k = s.ctxAt k) ∧ u.now = s.now ∧ u.mem = s.mem :=
      ⟨_, rfl, rfl, rfl, rfl, fun _ => rfl, rfl, rfl⟩
    have hw' : u.wtAt core en.toNat = w := by rw [State.wtAt, hwt, hw]
    have hready : s.coreAt core = u.coreAt core := by rw [State.coreAt, State.coreAt, hcores]
    rw [← hsaved, hready, ← hmem, ← hnow]
    refine ⟨_, hexec, State.wtArrive_mem hw' hmin, fun q ha hthr hq hall => State.wtArrive_fires hw' hmin ha hthr hq hall,
      fun h => State.wtArrive_stays hw' hmin h, fun b c id thr p d v hc hwait hthr hp hwr => ?_⟩
    obtain ⟨c', hc', hend⟩ := State.wtArrive_wakes hw' hmin b.isLt hthr ⟨c, (hctx _).trans hc, hwait, p, v, hp, hwr⟩
    exact ⟨c', hc', hend.wait, hend.due_wr⟩
  · obtain ⟨t, ht, hc, hmem⟩ : ∃ t, exec i s = .next t ∧ t.ctxAt (4 * core + b) = some (s.recCtx q e) ∧ t.mem = s.mem := by
      rcases hi with ⟨⟨en, hp⟩, rfl⟩ | ⟨l, aged, hp, rfl⟩
      · exact ⟨_, rfl, State.takeReady_new hb he hp⟩
      · obtain ⟨hc, hmem, -⟩ := State.runPop_new hb he hp
        exact ⟨_, rfl, hc, hmem⟩
    exact ⟨t, _, ht, hc, hmem, rfl, rfl, s.recCtx_reg q e, rfl, rfl, rfl, rfl, rfl, rfl⟩
  · exact ⟨_, rfl, (State.runPop_new hb he hp).2.2⟩

end Sys2Proof.Machine
end

section
/-! SUPPORT. The deadlock probe (R141, R383). -/

namespace Sys2Proof.Machine

open Sys2Proof.Safety

/-- The least key of a set is the one of the set that no other is below. -/
theorem leastKey_eq {l : List Nat} {v : Nat} (hv : v ∈ l) (hmin : ∀ x ∈ l, v ≤ x) : leastKey l = some v := by
  have hspec : ∀ r : List Nat, r ≠ [] → ∃ m ∈ r, leastKey r = some m ∧ ∀ x ∈ r, m ≤ x := by
    intro r
    induction r with
    | nil => exact fun h => absurd rfl h
    | cons k r ih =>
      intro _
      by_cases hr : r = []
      · subst hr
        exact ⟨k, by simp [leastKey]⟩
      · obtain ⟨m, hm, hl, hle⟩ := ih hr
        refine ⟨min k m, ?_, by rw [leastKey, hl], fun x hx => ?_⟩
        · rcases Nat.le_total k m with hkm | hmk
          · rw [Nat.min_eq_left hkm]
            exact List.mem_cons_self ..
          · rw [Nat.min_eq_right hmk]
            exact List.mem_cons_of_mem _ hm
        · rcases List.mem_cons.mp hx with rfl | hx
          · exact Nat.min_le_left ..
          · exact (Nat.min_le_right ..).trans (hle x hx)
  obtain ⟨m, hm, hl, hle⟩ := hspec l (List.ne_nil_of_mem hv)
  rw [hl, Nat.le_antisymm (hle v hv) (hmin m hm)]

/-- S stands for tokens that no word of the context's own has still to push: V, M and C keep no word that would. -/
theorem State.stationWait_tokens {s : State} {k : Nat} {c : Ctx} {p : Dep} (hb : c.block = .tokens p)
    (h : ∀ q ∈ waitsOf .s p, c.pushComing q = false) : s.stationWait k c = none := by
  have hnone : ((waitsOf .s p).find? fun q => c.tok q == 0).any c.pushComing = false := by
    cases hf : (waitsOf .s p).find? fun q => c.tok q == 0 with
    | none => rfl
    | some q => exact h q (List.mem_of_find?_eq_some hf)
  rw [State.stationWait, hb]
  dsimp only
  rw [hnone]
  rfl

/-- A wait for tokens at S is abandoned, and the trap taken at the waiting word (R382, R383). -/
theorem State.deadlockTrap_tokens {s : State} {k : Nat} {c ca : Ctx} {p : Dep} (w : Awaited) (hb : c.block = .tokens p)
    (h : ∀ q ∈ waitsOf .s p, c.pushComing q = false) (ha : (s.abandon k).ctxAt k = some ca) (hp : ca.priv = false) :
    s.deadlockTrap k c w = ((s.abandon k).drain k).updCtx k fun x => Safety.entered x 15 w.tval 0 c.pc := by
  unfold State.deadlockTrap
  rw [State.stationWait_tokens hb h, hb]
  exact takeTrap_enters _ _ ha hp

/-- Settles O43: without a closed set the probe only restarts the timer; with one, its least berth takes the trap. -/
theorem deadlockIsBroken : Obligations.DeadlockIsBroken := by
  rintro k s c fuel hc rfl
  refine ⟨fun hnone => ?_, fun set v cv w p hset hv hmin hcv hw hb hpush s1 ca ha hp hs1 => ?_⟩
  · refine congrArg Host.Outcome.next ?_
    rw [State.deadlockProbe, hc]
    dsimp only
    rw [hnone]
    exact State.updCtx_eq hc _
  · refine congrArg Host.Outcome.next ?_
    rw [State.deadlockProbe, hc]
    dsimp only
    rw [hset]
    dsimp only
    rw [leastKey_eq hv hmin]
    dsimp only
    rw [hcv, hw]
    dsimp only
    rw [State.deadlockTrap_tokens w hb hpush ha hp, hs1]

end Sys2Proof.Machine
end

section
/-! SUPPORT. A send of no bytes (R194, R198). -/

namespace Sys2Proof.Machine

open Sys2Proof.Safety

/-- A send of no bytes, to byte 1 of core 0's scratchpad, under a descriptor whose arrivals fill their granules. -/
def emptySend : RelaySend := { ctx := 1, id := 0, src := 0, len := 0, slot := none, d0 := 0, d1 := 0x80001 }

/-- A context whose RSEND is in flight as that send, alone in the package. -/
def emptySending : State :=
  { State.reset with
    live := true, ctx := { Ctx.reset with uid := 1, pend := [Pend.mk0 0 .c 0] },
    channels := [(0, { Channel.reset with sends := [emptySend] })] }

/-- The arrival of no bytes fills no granule. -/
theorem isFull_relayArrive_emptySending : (emptySending.relayArrive 0).isFull 0 0 = false := by
  rfl

/-- Refutes O39: a send of no bytes, to an address that is not a granule's, arrives and fills no granule, where the statement asks
that every granule from the address's own up to the end of the bytes be full, so the one of the address: it lacks the
hypothesis `0 < x.len` that R197's check of the length gives, and that the statement of the bands' arrivals has. -/
theorem not_relayChannels : ¬ Obligations.RelayChannels := by
  intro h
  obtain ⟨harrive, -⟩ := h 0 emptySending _ rfl
  obtain ⟨t, _, ht, -, -, -, -, -, hfull, -⟩ := harrive emptySend [] 0 _ rfl rfl rfl rfl rfl (fun _ hy => absurd hy List.not_mem_nil)
    0 1 rfl rfl rfl (fun _ hw => absurd hw List.not_mem_nil)
  obtain rfl : emptySending.relayArrive 0 = t := Host.Outcome.next.inj ht
  exact absurd ((hfull rfl 0 (by decide) (by decide)).symm.trans isFull_relayArrive_emptySending) (by decide)

end Sys2Proof.Machine
end

section
/-! SUPPORT. Records from the host's windows and from peers, and the peers' writes before them (R131, R349, R354 to R358). -/

namespace Sys2Proof.Machine

open Sys2Proof.Safety

/-! ### A push onto a queue -/

/-- The capacity and the place of the next record of queue `q` (R349). -/
def runqCapacity (s : State) (q : Nat) : Nat := s.cfg.readLE (0x2008 + 16 * q) 4
def runqPlace (s : State) (q : Nat) (rq : RunQ) : Nat :=
  (s.cfg.readLE (0x2000 + 16 * q) 8 + 64 * ((rq.head + rq.items.length) % runqCapacity s q)) % 2 ^ 52

/-- The bytes of a record in a queue's memory (R131). -/
def runqBytes (x : QRec) : List Byte := recBytes x.r ++ leBytes x.env 2 ++ List.replicate 30 0

theorem length_runqBytes (x : QRec) : (runqBytes x).length = 64 := by
  simp [runqBytes, recBytes]

theorem State.pushRunq_eq {s : State} {q : Nat} {rq : RunQ} (x : QRec) (hrq : mgetD s.runqs q RunQ.reset = rq) : s.pushRunq q x =
    if runqCapacity s q ≤ rq.items.length then none
    else some (({ s with runqs := mput s.runqs q { rq with items := rq.items ++ [x] } } : State).memWrite (runqPlace s q rq)
      (runqBytes x)) := by
  subst hrq
  rfl

theorem State.pushRunq_full {s : State} {q : Nat} {rq : RunQ} (x : QRec) (hrq : mgetD s.runqs q RunQ.reset = rq)
    (h : runqCapacity s q ≤ rq.items.length) : s.pushRunq q x = none := by
  rw [State.pushRunq_eq x hrq, if_pos h]

/-- A record stands at the tail of its queue, and its bytes in the queue's memory (R132). -/
theorem State.pushRunq_tail {s : State} {q : Nat} {rq : RunQ} (x : QRec) (hrq : mgetD s.runqs q RunQ.reset = rq)
    (h : rq.items.length < runqCapacity s q) (hres : reserved (runqPlace s q rq) = false) (hbar : barOf (runqPlace s q rq) = none)
    (hw : Unmirrored s (runqPlace s q rq) 64) : ∃ t, s.pushRunq q x = some t ∧
      t.runqs = mput s.runqs q { rq with items := rq.items ++ [x] } ∧
      t.mem = s.mem.writeBytes (runqPlace s q rq) (runqBytes x) := by
  rw [State.pushRunq_eq x hrq, if_neg (by omega), State.memWrite_eq hres hbar (by rw [length_runqBytes]; exact hw)]
  exact ⟨_, rfl, rfl, rfl⟩

/-! ### Windows -/

section
variable {s : State} {q off : Nat} {bs : List Byte} {rq : RunQ} {r : Rec}

theorem State.windowRefuse_eq (hrq : mgetD s.runqs q RunQ.reset = rq) (code : Nat) : s.windowRefuse q code =
    { s with runqs := mput s.runqs q { rq with ref := rq.ref + 1, code := BitVec.ofNat 8 code } } := by
  subst hrq
  rfl

theorem State.windowPush_shape (h : off ≠ 0 ∨ bs.length ≠ 32) : s.windowPush q off bs = s.windowRefuse q 3 := by
  rw [State.windowPush, if_pos h]

theorem State.windowPush_bad (h0 : off = 0) (hl : bs.length = 32) (h : (recOfNat (leNat bs)).bad = true) :
    s.windowPush q off bs = s.windowRefuse q 1 := by
  rw [State.windowPush, if_neg (by omega)]
  exact if_pos h

/-- A record that passes the checks is pushed, or refused for its queue is full (R354). -/
theorem State.windowPush_good (h0 : off = 0) (hl : bs.length = 32) (h : (recOfNat (leNat bs)).bad = false) :
    s.windowPush q off bs = match s.pushRunq q ⟨recOfNat (leNat bs), s.runqEnv q⟩ with
      | none => s.windowRefuse q 2
      | some t => { t with runqs := mput t.runqs q { t.runq q with acc := (t.runq q).acc + 1 } } := by
  rw [State.windowPush, if_neg (by omega)]
  dsimp only
  rw [h]
  rfl

/-! ### Peers -/

/-- A packet of a record alone: the checks in their order (R358). -/
theorem State.peerPacket_nil (peer : Nat) : s.peerPacket peer q bs [] = match s.peerEntry peer with
    | none => s.count 0x148 1
    | some e =>
      if wbit e (16 + q) = false then s.count 0x150 1
      else if 4 ≤ (recOfNat (leNat bs)).prio ∧ wbit e 49 = false then s.count 0x158 1
      else if (recOfNat (leNat bs)).bad then s.count 0x160 1
      else (s.pushRunq q ⟨recOfNat (leNat bs), s.runqEnv q⟩).getD (s.count 0x168 1) := by
  unfold State.peerPacket
  rw [List.foldl_nil]
  dsimp only
  cases s.peerEntry peer with
  | none => rfl
  | some e =>
    dsimp only
    cases s.pushRunq q ⟨recOfNat (leNat bs), s.runqEnv q⟩ <;> rfl

theorem State.peerPacket_pushed {peer : Nat} {e : Word} {t : State} (he : s.peerEntry peer = some e)
    (hq : e.getLsbD (16 + q) = true) (hp : 4 ≤ (recOfNat (leNat bs)).flags.toNat % 8 → e.getLsbD 49 = true)
    (hgood : (recOfNat (leNat bs)).bad = false) (ht : s.pushRunq q ⟨recOfNat (leNat bs), s.runqEnv q⟩ = some t) :
    s.peerPacket peer q bs [] = t := by
  have hqueue : ¬ wbit e (16 + q) = false := fun h => Bool.false_ne_true (h.symm.trans hq)
  have hprio : ¬ (4 ≤ (recOfNat (leNat bs)).prio ∧ wbit e 49 = false) := fun h => Bool.false_ne_true (h.2.symm.trans (hp h.1))
  rw [State.peerPacket_nil, he]
  dsimp only
  rw [if_neg hqueue, if_neg hprio, hgood, ht]
  rfl

/-- The counter of the first check that fails counts the packet (R358). -/
theorem State.peerPacket_refused {peer o : Nat} (hrq : mgetD s.runqs q RunQ.reset = rq)
    (ho : o = (match s.peerEntry peer with
      | none => 0x148
      | some e => if e.getLsbD (16 + q) = false then 0x150
          else if 4 ≤ (recOfNat (leNat bs)).flags.toNat % 8 ∧ e.getLsbD 49 = false then 0x158
          else if (recOfNat (leNat bs)).bad = true then 0x160
          else if s.cfg.readLE (0x2008 + 16 * q) 4 ≤ rq.items.length then 0x168 else 0)) (hne : o ≠ 0) :
    s.peerPacket peer q bs [] = s.count o 1 := by
  rw [State.peerPacket_nil]
  cases he : s.peerEntry peer with
  | none =>
    rw [he] at ho
    rw [ho]
  | some e =>
    rw [he] at ho
    dsimp only at ho ⊢
    by_cases hqueue : e.getLsbD (16 + q) = false
    · rw [ho, if_pos hqueue]
      exact if_pos hqueue
    rw [if_neg hqueue] at ho
    refine (if_neg hqueue).trans ?_
    by_cases hprio : 4 ≤ (recOfNat (leNat bs)).flags.toNat % 8 ∧ e.getLsbD 49 = false
    · rw [ho, if_pos hprio]
      exact if_pos hprio
    rw [if_neg hprio] at ho
    refine (if_neg hprio).trans ?_
    by_cases hbad : (recOfNat (leNat bs)).bad = true
    · rw [if_pos hbad] at ho
      rw [ho]
      exact if_pos hbad
    rw [if_neg hbad] at ho
    refine (if_neg hbad).trans ?_
    by_cases hfull : s.cfg.readLE (0x2008 + 16 * q) 4 ≤ rq.items.length
    · rw [ho, if_pos hfull, State.pushRunq_full _ hrq hfull]
      rfl
    · exact absurd (ho.trans (if_neg hfull)) hne

end

/-! ### What a peer writes before -/

/-- Sectors taken from their home leave memory, the queues and the windows as they are. -/
def State.peerFrame (s : State) : Mem × SMap RunQ × SMap Window := (s.mem, s.runqs, s.windows)

theorem State.surrender_peerFrame (s : State) (sec j : Nat) : (s.surrender sec j true).peerFrame = s.peerFrame := by
  unfold State.surrender
  rw [if_pos (.inl rfl)]
  split_ifs <;> rfl

theorem State.takeSector_peerFrame (s : State) (sec : Nat) : (s.takeSector sec).peerFrame = s.peerFrame :=
  foldl_keeps State.peerFrame (fun s j => s.surrender_peerFrame sec j) _ s

theorem State.surrender_dirOf_other (s : State) {sec x : Nat} (j i : Nat) (h : x ≠ sec) :
    (s.surrender sec j true).dirOf x i = s.dirOf x i := by
  unfold State.surrender
  rw [if_pos (.inl rfl)]
  refine congrArg (fun l => nthD l i Moesi.i) ((mgetD_mput_other _ _ _ h).trans ?_)
  split_ifs <;> rfl

/-- A sector that no holder has stays so while another is taken. -/
theorem State.takeSector_keeps (s : State) (sec : Nat) {x i : Nat} (hi : i < 6) (h : s.dirOf x i = .i) :
    (s.takeSector sec).dirOf x i = .i := by
  by_cases hx : x = sec
  · exact hx ▸ s.takeSector_dirOf sec hi
  · exact (foldl_keeps (fun t : State => t.dirOf x i) (fun t j => t.surrender_dirOf_other j i hx) _ s).trans h

theorem foldl_takeSector_dirOf {l : List Nat} {x i : Nat} (hi : i < 6) {s : State} (h : x ∈ l ∨ s.dirOf x i = .i) :
    (l.foldl State.takeSector s).dirOf x i = .i := by
  induction l generalizing s with
  | nil => exact h.resolve_left List.not_mem_nil
  | cons y r ih =>
    refine ih ?_
    rcases h with hm | hd
    · rcases List.mem_cons.mp hm with rfl | hr
      · exact .inr (s.takeSector_dirOf x hi)
      · exact .inl hr
    · exact .inr (s.takeSector_keeps y hi hd)

/-- A peer's write to device memory takes its sectors from their homes and changes its bytes alone (R356, R363). -/
theorem State.peerWrite_fields {s : State} {pa : Nat} {xs : List Byte} (h1 : isDevice pa = true)
    (h2 : isDevice (pa + (xs.length - 1)) = true) (hres : reserved pa = false) (hw : Unmirrored s pa xs.length) :
    (s.peerWrite (pa, xs)).mem = s.mem.writeBytes pa xs ∧ (s.peerWrite (pa, xs)).runqs = s.runqs ∧
      ∀ sec h, pa / 64 ≤ sec → sec ≤ (pa + (xs.length - 1)) / 64 → h < 6 → dirState (s.peerWrite (pa, xs)) sec h = .i := by
  have hbar : barOf pa = none := by simp only [barOf, h1, Bool.true_or, ↓reduceIte]
  obtain ⟨l, hl⟩ : ∃ l, l = (List.range ((pa + (xs.length - 1)) / 64 - pa / 64 + 1)).map (pa / 64 + ·) := ⟨_, rfl⟩
  have hdev : (isDevice pa && isDevice (pa + (xs.length - 1))) = true := by rw [h1, h2]; rfl
  have hwrite : s.peerWrite (pa, xs) = (l.foldl State.takeSector s).memWrite pa xs := by
    rw [hl]
    exact if_pos hdev
  have hframe : (l.foldl State.takeSector s).peerFrame = s.peerFrame := foldl_keeps State.peerFrame State.takeSector_peerFrame l s
  have hmem : (l.foldl State.takeSector s).mem = s.mem := congrArg Prod.fst hframe
  have hrunqs : (l.foldl State.takeSector s).runqs = s.runqs := congrArg (fun x => x.2.1) hframe
  have hwin : (l.foldl State.takeSector s).windows = s.windows := congrArg (fun x => x.2.2) hframe
  rw [hwrite, State.memWrite_eq hres hbar (by unfold Unmirrored; rw [hwin]; exact hw)]
  refine ⟨congrArg (fun m => Mem.writeBytes m pa xs) hmem, hrunqs, fun sec h hlo hhi hh => ?_⟩
  have hmem : sec ∈ l := by
    rw [hl]
    exact List.mem_map.mpr ⟨sec - pa / 64, List.mem_range.mpr (by omega), by omega⟩
  exact foldl_takeSector_dirOf hh (.inl hmem)

/-- Settles O45: each clause is the case of the push, of the checks, or of the write of one peer that it is about. -/
theorem outsideRecordsQueue : Obligations.OutsideRecordsQueue := by
  rintro s q rq r bs hphase hrq rfl
  have hexec : ∀ off, exec (.runQueueWindowPush q off bs) s = .next (s.windowPush q.toNat off bs) := fun off =>
    congrArg Host.Outcome.next (if_neg hphase)
  refine ⟨fun off code hcode => ?_, fun place env hl hgood hroom hplace hres hbar hw henv => ?_, fun peer o ho hne => ?_,
    fun peer pa xs ws h1 h2 hres hw => ?_, fun hi v => ⟨fun he => ?_, fun hne => ?_⟩⟩
  · rw [hexec, ← State.windowRefuse_eq hrq code]
    refine congrArg Host.Outcome.next ?_
    rcases hcode with ⟨rfl, h⟩ | ⟨rfl, h0, hl, h⟩ | ⟨rfl, h0, hl, h, hfull⟩
    · exact State.windowPush_shape h
    · exact State.windowPush_bad h0 hl h
    · rw [State.windowPush_good h0 hl h, State.pushRunq_full _ hrq hfull]
  · obtain rfl : place = runqPlace s q.toNat rq := hplace
    obtain ⟨t, ht, hrunqs, hmem⟩ := State.pushRunq_tail ⟨recOfNat (leNat bs), s.runqEnv q.toNat⟩ hrq hroom hres hbar hw
    obtain rfl : env = s.runqEnv q.toNat := henv
    have hrunq : t.runq q.toNat = { rq with items := rq.items ++ [⟨recOfNat (leNat bs), s.runqEnv q.toNat⟩] } := by
      rw [State.runq, hrunqs]
      exact mgetD_mput_same ..
    refine ⟨⟨_, hexec 0, ?_, ?_⟩, fun peer e he hq hp => ⟨t, ?_, hrunq, hmem⟩⟩
    · rw [State.windowPush_good rfl hl hgood, ht]
      dsimp only
      rw [hrunq]
      exact mgetD_mput_same ..
    · rw [State.windowPush_good rfl hl hgood, ht]
      exact hmem
    · exact congrArg Host.Outcome.next (State.peerPacket_pushed he hq hp hgood ht)
  · exact congrArg Host.Outcome.next (State.peerPacket_refused hrq ho hne)
  · exact ⟨_, rfl, State.peerWrite_fields h1 h2 hres hw⟩
  · have hempty : (s.runq q.toNat).items.isEmpty = true := by
      rw [State.runq, hrq, he]
      rfl
    exact congrArg Host.Outcome.next (if_pos hempty)
  · have hfull : ¬ (s.runq q.toNat).items.isEmpty = true := by
      rw [State.runq, hrq, List.isEmpty_iff]
      exact hne
    exact congrArg Host.Outcome.next (if_neg hfull)

end Sys2Proof.Machine
end

section
/-! SUPPORT. Replies to futures, their injection and their continuations (R211, R214, R215), calls in mailboxes (R393), messages
of the future service (R398). -/

namespace Sys2Proof.Machine

open Sys2Proof.Safety

/-! ### Completion, timeout, retry -/

theorem State.count_one (s : State) (o : Nat) : s.count o 1 = counted o s := rfl

/-- A push that finds room leaves the held ones as they are. -/
theorem State.pushRunq_held {s t : State} {q : Nat} {x : QRec} (h : s.pushRunq q x = some t) : t.held = s.held := by
  rw [State.pushRunq_eq x rfl] at h
  split at h
  · cases h
  · obtain rfl := Option.some.inj h
    exact State.memWrite_held ..

/-- A push by the token post, and the retry that is due once none was (R132). -/
def State.pushOrRetry (s : State) (q : QRec) (die at_ : Nat) : State :=
  match s.pushRunq (8 * die + q.r.flags.toNat % 8) q with
  | some t => t
  | none =>
    if s.held = [] then ({ s with held := [(q, die)] } : State).at_ at_ .continuationPushRetry
    else { s with held := s.held ++ [(q, die)] }

theorem State.pushPost_some {s t : State} {q : QRec} {die : Nat} (h : s.pushRunq (8 * die + q.r.flags.toNat % 8) q = some t) :
    s.pushPost q die = t := by
  unfold State.pushPost Rec.prio
  rw [h]

theorem State.pushPost_none {s : State} {q : QRec} {die : Nat} (h : s.pushRunq (8 * die + q.r.flags.toNat % 8) q = none) :
    s.pushPost q die = { s with held := s.held ++ [(q, die)] } := by
  unfold State.pushPost Rec.prio
  rw [h]

theorem State.pushPost_retry (s : State) (q : QRec) (die at_ : Nat) :
    (if (s.held.isEmpty && !(s.pushPost q die).held.isEmpty) = true then (s.pushPost q die).at_ at_ .continuationPushRetry
      else s.pushPost q die) = s.pushOrRetry q die at_ := by
  unfold State.pushOrRetry
  cases h : s.pushRunq (8 * die + q.r.flags.toNat % 8) q with
  | some t =>
    have hno : ¬ (s.held.isEmpty && !t.held.isEmpty) = true := by
      rw [State.pushRunq_held h]
      cases s.held.isEmpty <;> decide
    rw [State.pushPost_some h, if_neg hno]
  | none =>
    rw [State.pushPost_none h]
    dsimp only
    by_cases he : s.held = []
    · rw [if_pos he, he]
      rfl
    · rw [if_neg he]
      refine if_neg ?_
      rw [List.isEmpty_eq_false_iff.mpr he]
      exact Bool.false_ne_true

/-- The parked continuation is pushed, or held for a retry (R132, R211). -/
theorem State.pushParked_eq (s : State) (id d : Nat) (q : QRec) (die : Nat) : s.pushParked id d q die = continued id d q die s :=
  State.pushPost_retry _ q die _

/-- Entry `id` is done (R211). -/
def State.doneFuture (s : State) (id : Nat) : State :=
  let f := mgetD s.futures id Future.reset
  { s with futures := mput s.futures id { f with state := .done, timer := none, inj := none, again := none } }

theorem State.resolveFuture_eq (s : State) (id d : Nat) : s.resolveFuture id d =
    match (mgetD s.futures id Future.reset).parked with
    | some (q, die) => continued id d q die (s.doneFuture id)
    | none => s.doneFuture id := by
  change (match (mgetD s.futures id Future.reset).parked with
    | some (q, die) => (s.doneFuture id).pushParked id d q die
    | none => s.doneFuture id) = _
  generalize (mgetD s.futures id Future.reset).parked = x
  cases x with
  | none => rfl
  | some y => exact State.pushParked_eq ..

/-- A reply to an entry is injected, and the entry resolved, or the injection held (R211, R214, R215). -/
theorem State.deliver_eq (s : State) (id : Nat) (ids : List (BitVec 32)) (timeout : Bool) :
    s.deliver id ids timeout = delivered id ids timeout s := by
  unfold State.deliver delivered State.future
  dsimp only
  generalize s.inject (mgetD s.futures id Future.reset) ids timeout = x
  obtain ⟨t, y⟩ := x
  cases y with
  | ok d => exact t.resolveFuture_eq id d
  | fault z => rfl
  | retry => rfl

theorem State.complete_eq (s : State) (id : Nat) (gen : BitVec 16) (ids : List (BitVec 32)) :
    s.complete id gen ids = futureTakes id gen ids s := by
  unfold State.complete futureTakes State.future
  dsimp only
  generalize mgetD s.futures id Future.reset = f
  by_cases h : f.state = .pending ∧ f.gen = gen ∧ f.inj = none ∧ ids.length ≤ 4096
  · have hno : ¬ (f.state ≠ .pending ∨ f.gen ≠ gen ∨ f.inj.isSome = true ∨ 4096 < ids.length) := by
      simp [h]
    rw [if_pos h, if_neg hno, State.deliver_eq]
  · have hyes : f.state ≠ .pending ∨ f.gen ≠ gen ∨ f.inj.isSome = true ∨ 4096 < ids.length := by
      by_contra hc
      simp only [not_or, ne_eq, not_not, Bool.not_eq_true, Option.isSome_eq_false_iff, Option.isNone_iff_eq_none, not_lt] at hc
      exact h hc
    rw [if_neg h, if_pos hyes]
    rfl

theorem Future.expired_iff {f : Future} {now : Nat} : f.expired now = true ↔
    f.state = .pending ∧ ∃ t, f.timer = some t ∧ t ≤ now := by
  unfold Future.expired
  cases f.timer <;> simp

theorem State.futureTimeout_expired {s : State} {id t : Nat} {f : Future} (hf : mgetD s.futures id Future.reset = f)
    (hs : f.state = .pending) (ht : f.timer = some t) (hle : t ≤ s.now) :
    s.futureTimeout id = delivered id [] true (counted 0x108 s) := by
  subst hf
  have hexp : (s.future id).expired s.now = true := Future.expired_iff.mpr ⟨hs, t, ht, hle⟩
  rw [State.futureTimeout, if_pos hexp, State.deliver_eq, State.count_one]

theorem State.futureTimeout_waits {s : State} {id : Nat} {f : Future} (hf : mgetD s.futures id Future.reset = f)
    (h : f.state ≠ .pending ∨ f.timer = none ∨ ∃ t, f.timer = some t ∧ s.now < t) : s.futureTimeout id = s := by
  subst hf
  refine if_neg fun hexp => ?_
  obtain ⟨hs, t, ht, hle⟩ := Future.expired_iff.mp hexp
  rcases h with hne | hnone | ⟨t', ht', hlt⟩
  · exact hne hs
  · exact absurd (ht.symm.trans hnone) nofun
  · obtain rfl : t = t' := Option.some.inj (ht.symm.trans ht')
    omega

theorem State.injectionRetry_none {s : State} {id : Nat} {f : Future} (hf : mgetD s.futures id Future.reset = f) (h : f.inj = none) :
    s.injectionRetry id = s := by
  rw [State.injectionRetry, State.future, hf, h]

theorem State.injectionRetry_some {s : State} {id : Nat} {f : Future} {ids : List (BitVec 32)} {late : Bool}
    (hf : mgetD s.futures id Future.reset = f) (h : f.inj = some (ids, late)) : s.injectionRetry id = delivered id ids late s := by
  rw [State.injectionRetry, State.future, hf, h]
  exact State.deliver_eq ..

/-! ### The injection -/

theorem State.andThen_ok {α β : Type} (s : State) (v : α) (f : State → α → State × Eng β) :
    Eng.andThen (s, .ok v) f = f s v := rfl

theorem State.sd_eq_field (s : State) (d off n : Nat) : s.sd d off n = field s d off n := rfl

/-- As many tokens as the queue has room for are written, the rest counted (R214). -/
theorem State.inject_ok {s s1 s2 : State} {f : Future} {h : Hub} {d n : Nat} {ids : List (BitVec 32)}
    (hh : s.hubOf f.env [] = some h) (hl : s.hubLoc h f.desc 256 .write = (s1, .ok d))
    (hn : n = Nat.min ids.length (field s1 d 48 4 - (field s1 d 52 4 + 2 ^ 32 - field s1 d 56 4) % 2 ^ 32))
    (hp : s1.hubPuts h ((ids.take n).mapIdx fun i v => spread (BitVec.ofNat 64 (field s1 d 40 8 +
        4 * ((field s1 d 52 4 + i) % field s1 d 48 4))) (leBytes v.toNat 4)).flatten = (s2, .ok ())) :
    s.inject f ids false =
      ((s2.memWrite (d + 36) (leBytes (Nat.min (field s2 d 36 4 + (ids.length - n)) (2 ^ 32 - 1)) 4)).memWrite (d + 52)
        (leBytes ((field s1 d 52 4 + n) % 2 ^ 32) 4), .ok d) := by
  have htake : ids.take (field s1 d 48 4 - (field s1 d 52 4 + 2 ^ 32 - field s1 d 56 4) % 2 ^ 32) = ids.take n := by
    rw [hn, List.take_eq_take_iff]
    generalize field s1 d 48 4 - (field s1 d 52 4 + 2 ^ 32 - field s1 d 56 4) % 2 ^ 32 = room
    change min room ids.length = min (min ids.length room) ids.length
    omega
  have hlen : (ids.take n).length = n := by
    rw [List.length_take, hn]
    exact Nat.min_eq_left (Nat.min_le_left ..)
  unfold State.inject
  rw [hh]
  dsimp only
  rw [hl]
  rw [State.andThen_ok, if_neg Bool.false_ne_true, State.sd_eq_field, State.sd_eq_field, State.sd_eq_field,
    State.sd_eq_field, htake, hlen]
  rw [hp, State.andThen_ok, State.sd_eq_field, State.setSd, State.setSd]

theorem State.timeoutIds_eq (s : State) (slot : Nat) : s.timeoutIds slot =
    (List.range (Nat.min 16 (s.cfg.readLE (0x20000 + 128 * slot + 12) 4))).map fun i =>
      BitVec.ofNat 32 (s.cfg.readLE (0x20000 + 128 * slot + 16 + 4 * i) 4) := rfl

/-- A timeout injects the sequence of the descriptor's vocabulary (R208, R214). -/
theorem State.inject_timeout {s s1 : State} {f : Future} {h : Hub} {d o : Nat} (ids : List (BitVec 32))
    (hh : s.hubOf f.env [] = some h) (hl : s.hubLoc h f.desc 256 .write = (s1, .ok d)) (ho : o = 0x20000 + 128 * (field s1 d 0 1 % 8)) :
    s.inject f ids true = s.inject f ((List.range (Nat.min 16 (s1.cfg.readLE (o + 12) 4))).map fun i =>
        BitVec.ofNat 32 (s1.cfg.readLE (o + 16 + 4 * i) 4)) false := by
  subst ho
  unfold State.inject
  rw [hh]
  dsimp only
  rw [hl]
  rw [State.andThen_ok, State.andThen_ok, if_pos rfl, if_neg Bool.false_ne_true, State.sd_eq_field s1 d 0 1, State.timeoutIds_eq]

/-! ### Pushes tried again -/

theorem State.withHeld_self {s : State} {l : List (QRec × Nat)} (h : s.held = l) : { s with held := l } = s := by
  subst h
  rfl

theorem State.pushRetry_none {s : State} (h : s.held = []) : s.pushRetry = s := by
  rw [State.pushRetry, h, List.foldl_nil, State.withHeld_self h, h]
  rfl

theorem State.pushRetry_room {s t : State} {q : QRec} {die : Nat} (h : s.held = [(q, die)])
    (ht : ({ s with held := [] } : State).pushRunq (8 * die + q.r.flags.toNat % 8) q = some t) : s.pushRetry = t := by
  have hheld : t.held.isEmpty = true := by
    rw [State.pushRunq_held ht]
    rfl
  rw [State.pushRetry, h, List.foldl_cons, List.foldl_nil, State.pushPost_some ht]
  exact if_pos hheld

theorem State.pushRetry_full {s : State} {q : QRec} {die : Nat} (h : s.held = [(q, die)])
    (ht : ({ s with held := [] } : State).pushRunq (8 * die + q.r.flags.toNat % 8) q = none) :
    s.pushRetry = s.at_ (s.now + 1800) .continuationPushRetry := by
  have hself : ({ ({ s with held := [] } : State) with held := [] ++ [(q, die)] } : State) = s := State.withHeld_self h
  rw [State.pushRetry, h, List.foldl_cons, List.foldl_nil, State.pushPost_none ht, hself, h]
  rfl

/-! ### Calls in mailboxes -/

/-- A hart that has lost its reservation, or not. -/
def ResvMayEnd (t u : Hart) : Prop := ∃ x, (x = t.resv ∨ x = none) ∧ u = { t with resv := x }

theorem ResvMayEnd.refl (t : Hart) : ResvMayEnd t t := ⟨t.resv, .inl rfl, rfl⟩

theorem ResvMayEnd.trans {t u v : Hart} (h : ResvMayEnd t u) (g : ResvMayEnd u v) : ResvMayEnd t v := by
  obtain ⟨x, hx, rfl⟩ := h
  obtain ⟨y, hy, rfl⟩ := g
  refine ⟨y, ?_, rfl⟩
  rcases hy with rfl | rfl
  · exact hx
  · exact .inr rfl

theorem mgetD_map {β : Type} {f : β → β} (m : SMap β) (a : Nat) (d : β) (hd : f d = d) :
    mgetD (m.map fun x => (x.1, f x.2)) a d = f (mgetD m a d) := by
  induction m with
  | nil => exact hd.symm
  | cons x r ih =>
    obtain ⟨k, v⟩ := x
    rw [List.map_cons]
    unfold mgetD at ih ⊢
    rw [mget, mget]
    split
    · rfl
    · exact ih

/-- What the end of a reservation in the sector makes of a hart (R110). -/
def Hart.without (sec : Nat) (t : Hart) : Hart :=
  match t.resv with
  | some (pa, n) => if meets pa n (64 * sec) 64 then { t with resv := none } else t
  | none => t

theorem Hart.without_mayEnd (sec : Nat) (t : Hart) : ResvMayEnd t (t.without sec) := by
  unfold Hart.without
  split
  · split
    · exact ⟨none, .inr rfl, rfl⟩
    · exact .refl t
  · exact .refl t

theorem State.dropResv_hart (s : State) (sec h : Nat) :
    ResvMayEnd (mgetD s.harts h Hart.reset) (mgetD (s.dropResv sec).harts h Hart.reset) := by
  have hmap : mgetD (s.dropResv sec).harts h Hart.reset = (mgetD s.harts h Hart.reset).without sec :=
    mgetD_map (f := Hart.without sec) s.harts h Hart.reset rfl
  rw [hmap]
  exact Hart.without_mayEnd ..

theorem State.dropResvs_hart (s : State) (loc n h : Nat) :
    ResvMayEnd (mgetD s.harts h Hart.reset) (mgetD (s.dropResvs loc n).harts h Hart.reset) := by
  unfold State.dropResvs
  split
  · exact .refl _
  · next hc =>
    clear hc
    generalize List.map _ _ = l
    induction l generalizing s with
    | nil => exact .refl _
    | cons x r ih => exact (s.dropResv_hart x h).trans (ih _)

theorem State.memWrite_hart {s : State} {loc : Nat} {bs : List Byte} (hr : reserved loc = false) (hb : barOf loc = none)
    (hw : Unmirrored s loc bs.length) (h : Nat) :
    ResvMayEnd (mgetD s.harts h Hart.reset) (mgetD (s.memWrite loc bs).harts h Hart.reset) := by
  rw [State.memWrite_eq hr hb hw]
  exact s.dropResvs_hart loc _ h

theorem State.memWrite_calls {s : State} {loc : Nat} {bs : List Byte} (hr : reserved loc = false) (hb : barOf loc = none)
    (hw : Unmirrored s loc bs.length) : (s.memWrite loc bs).calls = s.calls := by
  rw [State.memWrite_eq hr hb hw]

/-- The place of the next record in a hart's mailbox (R393). -/
def mailboxPlace (s : State) (t : Hart) : Nat :=
  t.mbbase.toNat + 64 + 64 * (s.mem.readLE t.mbbase.toNat 4 % 2 ^ (t.mbcfg.toNat % 32))

theorem State.postCall_none {s : State} {c : Call} (h : s.mailboxFor ((c.bytes.getD 4 0).toNat % 8) = none) : s.postCall c = none := by
  change s.mailboxFor ((nthD c.bytes 4 0).toNat % 8) = none at h
  rw [State.postCall, h]

/-- The mailbox's interrupt becomes pending where it is enabled (R393). -/
def Hart.called (t : Hart) : Hart := { t with mbirq := t.mbirq || wbit t.mbcfg 17 }
def State.mailboxed (s : State) (h : Nat) : State := { s with harts := mupd s.harts h Hart.reset Hart.called }

theorem State.mailboxed_hart (s : State) (h : Nat) :
    mgetD (s.mailboxed h).harts h Hart.reset = (mgetD s.harts h Hart.reset).called := mgetD_mupd_same ..

/-- A call's record is written, the mailbox's index rises, and its interrupt is pending where it is enabled (R393). -/
theorem State.postCall_some {s : State} {c : Call} {h : Nat} {t : Hart} (hm : s.mailboxFor ((c.bytes.getD 4 0).toNat % 8) = some h)
    (ht : mgetD s.harts h Hart.reset = t)
    (hx : ∀ x, x = t.mbbase.toNat ∨ x = mailboxPlace s t →
      reserved x = false ∧ barOf x = none ∧ Unmirrored s x c.bytes.length ∧ Unmirrored s x 4) :
    ∃ u, s.postCall c = some u ∧ u.calls = s.calls ∧
      u.mem = (s.mem.writeBytes (mailboxPlace s t) c.bytes).writeLE t.mbbase.toNat 4
        ((s.mem.readLE t.mbbase.toNat 4 + 1) % 2 ^ 32) ∧
      ∃ x, (x = t.resv ∨ x = none) ∧
        mgetD u.harts h Hart.reset = { t with mbirq := t.mbirq || t.mbcfg.getLsbD 17, resv := x } := by
  subst ht
  obtain ⟨hr1, hb1, hu1, -⟩ := hx _ (.inr rfl)
  obtain ⟨hr2, hb2, -, hu2⟩ := hx _ (.inl rfl)
  change s.mailboxFor ((nthD c.bytes 4 0).toNat % 8) = some h at hm
  have hslot : wfld (mgetD s.harts h Hart.reset).mbcfg 0 5 = (mgetD s.harts h Hart.reset).mbcfg.toNat % 32 := by
    simp [wfld, bitsOf]
  have hpost : s.postCall c = some ((s.memWrite (mailboxPlace s (mgetD s.harts h Hart.reset)) c.bytes).memWrite
      (mgetD s.harts h Hart.reset).mbbase.toNat
      (leBytes ((s.mem.readLE (mgetD s.harts h Hart.reset).mbbase.toNat 4 + 1) % 2 ^ 32) 4) |>.mailboxed h) := by
    unfold State.postCall
    rw [hm]
    dsimp only
    rw [hslot]
    rfl
  obtain ⟨hmem1, -, -, -, hwin, -⟩ := s.memWrite_fields 0 hr1 hb1 hu1
  have hu2' : Unmirrored (s.memWrite (mailboxPlace s (mgetD s.harts h Hart.reset)) c.bytes) (mgetD s.harts h Hart.reset).mbbase.toNat
      (leBytes ((s.mem.readLE (mgetD s.harts h Hart.reset).mbbase.toNat 4 + 1) % 2 ^ 32) 4).length := by
    rw [length_leBytes]
    unfold Unmirrored
    rw [hwin]
    exact hu2
  refine ⟨_, hpost, ?_, ?_, ?_⟩
  · exact (State.memWrite_calls hr2 hb2 hu2').trans (State.memWrite_calls hr1 hb1 hu1)
  · exact (State.memWrite_mem hr2 hb2 hu2').trans (congrArg (fun m => Mem.writeBytes m _ _) hmem1)
  · obtain ⟨x, hx, heq⟩ := (State.memWrite_hart hr1 hb1 hu1 h).trans (State.memWrite_hart hr2 hb2 hu2' h)
    refine ⟨x, hx, ?_⟩
    rw [State.mailboxed_hart, heq]
    rfl

theorem State.withCalls_self {s : State} {l : List Call} (h : s.calls = l) : { s with calls := l } = s := by
  subst h
  rfl

/-- A waiting call is posted, or waits on. -/
def State.tryCall (s : State) (c : Call) : State :=
  match s.postCall c with
  | some t => t
  | none => { s with calls := s.calls ++ [c] }

/-- The post is due already. -/
def State.postDue (s : State) : Bool := s.agenda.any fun e => match e.2 with | .mailboxPost => true | _ => false

theorem State.mailboxPost_eq (s : State) : s.mailboxPost =
    if ((s.calls.foldl State.tryCall { s with calls := [] }).calls.isEmpty ||
        (s.calls.foldl State.tryCall { s with calls := [] }).postDue) = true then
      s.calls.foldl State.tryCall { s with calls := [] }
    else (s.calls.foldl State.tryCall { s with calls := [] }).at_ (s.now + 1800) .mailboxPost := rfl

theorem State.mailboxPost_none {s : State} (h : s.calls = []) : s.mailboxPost = s := by
  rw [State.mailboxPost_eq, h, List.foldl_nil, State.withCalls_self h, h]
  rfl

theorem State.mailboxPost_full {s : State} {c : Call} (h : s.calls = [c]) (hm : s.mailboxFor ((c.bytes.getD 4 0).toNat % 8) = none)
    (hag : ∀ e ∈ s.agenda, e.2 ≠ .mailboxPost) : s.mailboxPost = s.at_ (s.now + 1800) .mailboxPost := by
  have htry : ({ s with calls := [] } : State).tryCall c = s := by
    have hpost : ({ s with calls := [] } : State).postCall c = none := State.postCall_none hm
    rw [State.tryCall, hpost]
    exact State.withCalls_self h
  have hdue : s.postDue = false := by
    rw [State.postDue, List.any_eq_false]
    intro e he
    split
    · next heq => exact absurd heq (hag e he)
    · exact Bool.false_ne_true
  rw [State.mailboxPost_eq, h, List.foldl_cons, List.foldl_nil, htry, hdue, h]
  rfl

theorem State.mailboxPost_room {s u : State} {c : Call} (h : s.calls = [c]) (hu : ({ s with calls := [] } : State).postCall c = some u)
    (hc : u.calls = []) : s.mailboxPost = u := by
  have htry : ({ s with calls := [] } : State).tryCall c = u := by rw [State.tryCall, hu]
  rw [State.mailboxPost_eq, h, List.foldl_cons, List.foldl_nil, htry, hc]
  rfl

/-! ### Messages of the future service -/

section
variable {s : State} {bs : List Byte} {g : Nat → Nat → Nat}

/-- A message of another form is counted (R398). -/
theorem State.serviceMessage_form (hg : ∀ o n, g o n = leNat ((bs.drop o).take n))
    (h : bs.length ≠ 16 + 4 * g 8 4 ∨ 4096 < g 8 4 ∨ g 6 2 ≠ 0 ∨ g 12 4 ≠ 0) : s.serviceMessage bs = counted 0x170 s := by
  simp only [hg] at h
  exact if_pos h

theorem State.serviceMessage_formed (hg : ∀ o n, g o n = leNat ((bs.drop o).take n)) (h : bs.length = 16 + 4 * g 8 4)
    (hn : g 8 4 ≤ 4096) (h6 : g 6 2 = 0) (h12 : g 12 4 = 0) : s.serviceMessage bs =
      if BitVec.ofNat 16 (g 4 2) ≠ Config.futCheck s.resets (BitVec.ofNat 16 (g 0 2)) (BitVec.ofNat 16 (g 2 2)) then counted 0x178 s
      else s.complete (BitVec.ofNat 16 (g 0 2)).toNat (BitVec.ofNat 16 (g 2 2)) (idsOf (bs.drop 16)) := by
  have hno : ¬ (bs.length ≠ 16 + 4 * g 8 4 ∨ 4096 < g 8 4 ∨ g 6 2 ≠ 0 ∨ g 12 4 ≠ 0) := by omega
  simp only [hg] at hno ⊢
  exact if_neg hno

theorem ofNat_id_toNat (hg : ∀ o n, g o n = leNat ((bs.drop o).take n)) : (BitVec.ofNat 16 (g 0 2)).toNat = g 0 2 := by
  have hlt := leNat_lt ((bs.drop 0).take 2)
  have hle : 256 ^ ((bs.drop 0).take 2).length ≤ 256 ^ 2 := Nat.pow_le_pow_right (by decide) (List.length_take_le ..)
  rw [BitVec.toNat_ofNat, hg]
  exact Nat.mod_eq_of_lt (by omega)

end

/-- Settles O46: each clause is the lemma above about the part of a reply's, a call's or a message's way that it is about. -/
theorem futuresResolve : Obligations.FuturesResolve := by
  intro id s f hf
  refine ⟨fun gen ids => ?_, fun h s1 d s2 ids n hh hl hn hp => State.inject_ok hh hl hn hp,
    fun h s1 d ids o hh hl ho => State.inject_timeout ids hh hl ho, fun t hs ht hle => ?_, fun h => ?_, fun h => ?_,
    fun ids late h => ?_, fun h => ?_, fun q die s1 h hp => ?_, fun q die h hp => ?_, fun h => ?_, fun c h hm hag => ?_,
    fun c h t b hc hm ht hb hx => ?_, fun port bs g hg => ⟨fun h => ?_, fun h hn h6 h12 => ⟨fun hcheck => ?_, fun hcheck => ?_⟩⟩⟩
  · exact congrArg Host.Outcome.next (s.complete_eq ..)
  · exact congrArg Host.Outcome.next (State.futureTimeout_expired hf hs ht hle)
  · exact congrArg Host.Outcome.next (State.futureTimeout_waits hf h)
  · exact congrArg Host.Outcome.next (State.injectionRetry_none hf h)
  · exact congrArg Host.Outcome.next (State.injectionRetry_some hf h)
  · exact congrArg Host.Outcome.next (State.pushRetry_none h)
  · exact congrArg Host.Outcome.next (State.pushRetry_room h hp)
  · exact congrArg Host.Outcome.next (State.pushRetry_full h hp)
  · exact congrArg Host.Outcome.next (State.mailboxPost_none h)
  · exact congrArg Host.Outcome.next (State.mailboxPost_full h hm hag)
  · subst hb
    obtain ⟨u, hu, hcalls, hmem, hhart⟩ := State.postCall_some (s := { s with calls := [] }) hm ht hx
    exact ⟨u, congrArg Host.Outcome.next (State.mailboxPost_room hc hu hcalls), hcalls, hmem, hhart⟩
  · exact congrArg Host.Outcome.next (State.serviceMessage_form hg h)
  · refine congrArg Host.Outcome.next ((State.serviceMessage_formed hg h hn h6 h12).trans ?_)
    exact if_pos hcheck
  · refine congrArg Host.Outcome.next ((State.serviceMessage_formed hg h hn h6 h12).trans ?_)
    rw [if_neg (not_not_intro hcheck), State.complete_eq, ofNat_id_toNat hg]

end Sys2Proof.Machine
end

section
/-! SUPPORT. A value rounded into a floating-point format is a bit pattern of its width (R159, R160, R164). -/

namespace Sys2Proof.Machine

/-! ### The encoding of a rounded magnitude -/

/-- The largest exponent field of a finite value fits below the sign bit, and the largest significand has the format's bits and
no more (R159). -/
theorem floatFormat_bounds {t : Nat} (ht : t < 6) :
    (emax t + bias t + 1).toNat * 2 ^ fracBits t ≤ 2 ^ (tyWidth t - 1) ∧ 2 ≤ emax t + bias t ∧
      maxSig t < 2 ^ (fracBits t + 1) := by
  revert t
  decide

/-- A magnitude that does not overflow has an exponent within the format, also where rounding carries it to the next (R164). -/
theorem exponent_le_emax {t : Nat} {e : Int} {r c : Nat} (ht : t < 6)
    (hfit : ¬ (maxSig t : Int) * 2 ^ (emax t - e).toNat < (r : Int) * 2 ^ (e - emax t).toNat)
    (hc : c ≤ 1) (hr : 2 ^ (fracBits t + c) ≤ r) : e + c ≤ emax t := by
  obtain ⟨-, -, hmax⟩ := floatFormat_bounds ht
  by_contra hlt
  have hpow : 2 ^ (fracBits t + 1) ≤ r * 2 ^ (e - emax t).toNat :=
    calc 2 ^ (fracBits t + 1) ≤ 2 ^ (fracBits t + c + (e - emax t).toNat) := Nat.pow_le_pow_right (by decide) (by omega)
      _ = 2 ^ (fracBits t + c) * 2 ^ (e - emax t).toNat := Nat.pow_add ..
      _ ≤ r * 2 ^ (e - emax t).toNat := Nat.mul_le_mul_right _ hr
  refine hfit ?_
  rw [Int.toNat_of_nonpos (by omega), pow_zero, mul_one]
  exact_mod_cast hmax.trans_le hpow

/-- An exponent field within the format and a fraction stay below the sign bit. -/
theorem packed_lt {t n : Nat} {E : Int} (ht : t < 6) (hE : E ≤ emax t + bias t) (hn : n < 2 ^ fracBits t) :
    E.toNat * 2 ^ fracBits t + n < 2 ^ (tyWidth t - 1) := by
  obtain ⟨hmax, hrange, -⟩ := floatFormat_bounds ht
  have hle : (E.toNat + 1) * 2 ^ fracBits t ≤ (emax t + bias t + 1).toNat * 2 ^ fracBits t := Nat.mul_le_mul_right _ (by omega)
  rw [Nat.add_mul, Nat.one_mul] at hle
  omega

/-- The encoding of `r` units of 2^k stays below the sign bit: as a subnormal, a normal, or a power of two after a carry. -/
theorem encoded_lt {t r : Nat} {k : Int} (ht : t < 6)
    (hexp : ∀ c ≤ 1, 2 ^ (fracBits t + c) ≤ r → k + fracBits t + c ≤ emax t) :
    (if r < 2 ^ fracBits t then r
      else if r < 2 ^ (fracBits t + 1) then (k + fracBits t + bias t).toNat * 2 ^ fracBits t + (r - 2 ^ fracBits t)
      else (k + 1 + fracBits t + bias t).toNat * 2 ^ fracBits t) < 2 ^ (tyWidth t - 1) := by
  obtain ⟨-, hrange, -⟩ := floatFormat_bounds ht
  split_ifs with hsub hnorm
  · simpa using packed_lt (E := 0) ht (by omega) hsub
  · have := hexp 0 (by decide) (not_lt.mp hsub)
    rw [Nat.pow_succ] at hnorm
    exact packed_lt ht (by omega) (by omega)
  · have := hexp 1 le_rfl (not_lt.mp hnorm)
    exact packed_lt ht (by omega) (Nat.two_pow_pos _)

/-! ### Results -/

/-- A sign bit over a magnitude. -/
theorem signed_lt {t n : Nat} (ht : t < 6) (neg : Bool) (hn : n < 2 ^ (tyWidth t - 1)) :
    (if neg then 2 ^ (tyWidth t - 1) else 0) + n < 2 ^ tyWidth t := by
  have hw : ∀ t < 6, 2 ^ tyWidth t = 2 ^ (tyWidth t - 1) + 2 ^ (tyWidth t - 1) := by decide
  rw [hw t ht]
  split_ifs <;> omega

theorem infBits_lt {t : Nat} (ht : t < 6) (neg : Bool) : infBits t neg < 2 ^ tyWidth t := by
  refine signed_lt ht neg ?_
  revert t
  decide

theorem canonNaN_lt {t : Nat} (ht : t < 6) : canonNaN t < 2 ^ tyWidth t := by
  revert t
  decide

theorem rndQ_rne_lt {t : Nat} (ht : t < 6) (q : Q) (st : Bool) : (rndQ t .rne q st).1 < 2 ^ tyWidth t := by
  unfold rndQ
  extract_lets sign f emin e r1 tiny k r body
  obtain ⟨-, hrange, -⟩ := floatFormat_bounds ht
  split_ifs with hzero hover
  · exact signed_lt ht q.neg (Nat.two_pow_pos _)
  · exact infBits_lt ht q.neg
  · refine signed_lt ht q.neg (encoded_lt ht fun c hc hr => ?_)
    by_cases hmin : e < emin
    · have hk : k = emin - f := if_pos hmin
      omega
    · have hk : k = e - f := if_neg hmin
      have hr1 : r = r1 := congrArg (rndUnits .rne q.neg q.num q.den st) hk
      have := exponent_le_emax ht hover hc (hr1 ▸ hr)
      omega

/-- A value rounded to the nearest is a bit pattern of its format. -/
theorem rndV_rne_lt {t : Nat} (ht : t < 6) (v : Val) : (rndV t .rne v).1 < 2 ^ tyWidth t := by
  cases v with
  | nan s => exact canonNaN_lt ht
  | inf n => exact infBits_lt ht n
  | fin q => exact rndQ_rne_lt ht q false

end Sys2Proof.Machine
end

section
/-! SUPPORT. A chunk of an MMAC, element by element (R179 to R181, R187, R418). -/

namespace Sys2Proof.Machine

open Sys2Proof.Safety

/-! ### The elements of a tile -/

theorem QEntry.shapeOk_bounds {e : QEntry} (h : e.shapeOk = true) : e.mN ≤ 128 ∧ e.mAcc < 3 := by
  have hlt : e.mAcc < 4 := Nat.mod_lt _ (by decide)
  simp only [QEntry.shapeOk, Bool.and_eq_true, decide_eq_true_eq] at h
  omega

/-- The location of a tile's element in an engine's store (R181). -/
def QEntry.tileLoc (e : QEntry) (en : Nat) (x : Nat × Nat) : Nat := accLoc en (e.tile x.1 x.2).1 (e.tile x.1 x.2).2

/-- The tile's elements, row by row. -/
def QEntry.tileCells (e : QEntry) : List (Nat × Nat) := List.range e.mM ×ˢ List.range e.mN

theorem QEntry.mem_tileCells {e : QEntry} {x : Nat × Nat} : x ∈ e.tileCells ↔ x.1 < e.mM ∧ x.2 < e.mN := by
  rw [QEntry.tileCells, List.mem_product, List.mem_range, List.mem_range]

theorem QEntry.nodup_tileCells (e : QEntry) : e.tileCells.Nodup := List.nodup_range.product List.nodup_range

/-- No two elements of a tile share a byte (R181). -/
theorem QEntry.tileLoc_disjoint {e : QEntry} (en : Nat) (h : e.shapeOk = true) {x y : Nat × Nat} (hx : x ∈ e.tileCells)
    (hy : y ∈ e.tileCells) (hne : x ≠ y) : e.tileLoc en x + accBytes e.mAcc ≤ e.tileLoc en y ∨
      e.tileLoc en y + accBytes e.mAcc ≤ e.tileLoc en x := by
  obtain ⟨hN, -⟩ := QEntry.shapeOk_bounds h
  obtain ⟨-, hx⟩ := QEntry.mem_tileCells.mp hx
  obtain ⟨-, hy⟩ := QEntry.mem_tileCells.mp hy
  rw [Ne, Prod.ext_iff] at hne
  simp only [QEntry.tileLoc, QEntry.tile, accLoc, accBytes]
  split_ifs <;> dsimp only <;> omega

/-! ### An element's new value -/

theorem accAdd_lt {acc : Nat} (h : acc < 3) (old : Nat) (sum : Val) (free : Word) :
    accAdd acc old sum free < 256 ^ accBytes acc := by
  interval_cases acc
  · exact rndV_rne_lt (t := 1) (by decide) _
  · exact rndV_rne_lt (t := 0) (by decide) _
  · cases sum with
    | nan s => exact Nat.mod_lt _ (by decide)
    | inf n => exact Nat.mod_lt _ (by decide)
    | fin q => exact (Int.toNat_lt (Int.emod_nonneg _ (by decide))).mpr (Int.emod_lt_of_pos _ (by decide))

theorem accAdd_float {acc : Nat} (h : acc < 3) (h2 : acc ≠ 2) (old : Nat) (sum : Val) (free : Word) :
    accAdd acc old sum free = (rndV (if acc = 1 then 0 else 1) .rne
      (vAdd .rne (decFloat (if acc = 1 then 0 else 1) old) sum).1).1 := by
  interval_cases acc
  · rfl
  · rfl
  · exact absurd rfl h2

/-- An add in two's complement does not depend on how the old element's bits are read. -/
theorem sInt_add_emod (w old : Nat) (n : Int) : (sInt w old + n) % (2 ^ w : Nat) = (old + n) % (2 ^ w : Nat) := by
  unfold sInt
  split_ifs
  · rw [Int.natCast_mod, Int.emod_add_emod]
  · rw [Int.natCast_mod, sub_add_eq_add_sub, Int.sub_emod_right, Int.emod_add_emod]

theorem accAdd_int (old : Nat) (q : Q) (free : Word) :
    accAdd 2 old (.fin q) free = (BitVec.ofInt 32 (old + (rndInt .rne q).1)).toNat := by
  rw [BitVec.toNat_ofInt, ← sInt_add_emod]
  rfl

/-! ### One element of a chunk -/

/-- The chunk's sum for an element: of its row of A and its column of B (R179). -/
def cellSum (va vb : List (List Val)) (x : Nat × Nat) : Val :=
  chunkSum (nthD va x.1 []) (vb.map fun r => nthD r x.2 (.nan false))

/-- An element's sum is added to it. -/
def State.cellAdd (en : Nat) (e : QEntry) (va vb : List (List Val)) (s : State) (x : Nat × Nat) : State :=
  let fr : Word × State := if e.mAcc = 2 ∧ !(cellSum va vb x).isFin then s.free else (0, s)
  { fr.2 with mem := fr.2.mem.writeLE (e.tileLoc en x) (accBytes e.mAcc)
                (accAdd e.mAcc (s.tileRead en e x.1 x.2) (cellSum va vb x) fr.1) }

/-- What a chunk may change: memory, and how many free values have been taken. -/
def MemFreeOnly (s t : State) : Prop := t = { s with mem := t.mem, freeN := t.freeN }

theorem MemFreeOnly.trans {s t u : State} (h : MemFreeOnly s t) (g : MemFreeOnly t u) : MemFreeOnly s u := by
  unfold MemFreeOnly at *
  rw [g, h]

theorem MemFreeOnly.bad {s t : State} (h : MemFreeOnly s t) : t.bad = s.bad := by
  unfold MemFreeOnly at h
  rw [h]

section
variable (en : Nat) (e : QEntry) (va vb : List (List Val))

theorem State.cellAdd_memFreeOnly (s : State) (x : Nat × Nat) : MemFreeOnly s (s.cellAdd en e va vb x) := by
  unfold State.cellAdd
  split_ifs <;> rfl

theorem State.foldl_cellAdd_memFreeOnly (l : List (Nat × Nat)) (s : State) :
    MemFreeOnly s (l.foldl (State.cellAdd en e va vb) s) := by
  induction l generalizing s with
  | nil => rfl
  | cons x r ih => exact (s.cellAdd_memFreeOnly en e va vb x).trans (ih _)

theorem State.cellAdd_mem (s : State) (x : Nat × Nat) : ∃ free, (s.cellAdd en e va vb x).mem =
    s.mem.writeLE (e.tileLoc en x) (accBytes e.mAcc) (accAdd e.mAcc (s.tileRead en e x.1 x.2) (cellSum va vb x) free) := by
  unfold State.cellAdd
  split_ifs
  · exact ⟨_, rfl⟩
  · exact ⟨_, rfl⟩

theorem State.tileRead_cellAdd_same (h : e.shapeOk = true) (s : State) (x : Nat × Nat) : ∃ free,
    (s.cellAdd en e va vb x).tileRead en e x.1 x.2 = accAdd e.mAcc (s.tileRead en e x.1 x.2) (cellSum va vb x) free := by
  obtain ⟨free, hmem⟩ := s.cellAdd_mem en e va vb x
  refine ⟨free, ?_⟩
  calc (s.cellAdd en e va vb x).mem.readLE (e.tileLoc en x) (accBytes e.mAcc)
      = accAdd e.mAcc (s.tileRead en e x.1 x.2) (cellSum va vb x) free % 256 ^ accBytes e.mAcc := by
        rw [hmem, Mem.readLE_writeLE_same]
    _ = _ := Nat.mod_eq_of_lt (accAdd_lt (QEntry.shapeOk_bounds h).2 ..)

theorem State.tileRead_cellAdd_other (h : e.shapeOk = true) (s : State) {x y : Nat × Nat} (hx : x ∈ e.tileCells)
    (hy : y ∈ e.tileCells) (hne : x ≠ y) : (s.cellAdd en e va vb x).tileRead en e y.1 y.2 = s.tileRead en e y.1 y.2 := by
  obtain ⟨free, hmem⟩ := s.cellAdd_mem en e va vb x
  unfold State.tileRead
  rw [hmem]
  exact Mem.readLE_writeLE_other _ _ _ _ _ _ (QEntry.tileLoc_disjoint en h hx hy hne).symm

/-! ### The chunk -/

/-- An element that is not among those added to keeps its value. -/
theorem State.tileRead_foldl_other (h : e.shapeOk = true) {y : Nat × Nat} (hy : y ∈ e.tileCells) :
    ∀ (l : List (Nat × Nat)) (s : State), l ⊆ e.tileCells → y ∉ l →
      (l.foldl (State.cellAdd en e va vb) s).tileRead en e y.1 y.2 = s.tileRead en e y.1 y.2 := by
  intro l
  induction l with
  | nil => exact fun _ _ _ => rfl
  | cons x r ih =>
    intro s hl hn
    obtain ⟨hx, hr⟩ := List.cons_subset.mp hl
    obtain ⟨hne, hnr⟩ := List.ne_and_not_mem_of_not_mem_cons hn
    exact (ih _ hr hnr).trans (s.tileRead_cellAdd_other en e va vb h hx hy (Ne.symm hne))

/-- An element that is added to once takes its sum, whatever the order of the elements. -/
theorem State.tileRead_foldl_same (h : e.shapeOk = true) {y : Nat × Nat} : ∀ (l : List (Nat × Nat)) (s : State),
    l ⊆ e.tileCells → l.Nodup → y ∈ l → ∃ free, (l.foldl (State.cellAdd en e va vb) s).tileRead en e y.1 y.2 =
      accAdd e.mAcc (s.tileRead en e y.1 y.2) (cellSum va vb y) free := by
  intro l
  induction l with
  | nil => exact fun _ _ _ hy => absurd hy List.not_mem_nil
  | cons x r ih =>
    intro s hl hnd hy
    obtain ⟨hx, hr⟩ := List.cons_subset.mp hl
    obtain ⟨hxr, hrnd⟩ := List.nodup_cons.mp hnd
    rw [List.foldl_cons]
    rcases List.mem_cons.mp hy with rfl | hyr
    · rw [State.tileRead_foldl_other en e va vb h hx r _ hr hxr]
      exact s.tileRead_cellAdd_same en e va vb h y
    · rw [← s.tileRead_cellAdd_other en e va vb h hx (hr hyr) fun hxy => hxr (hxy ▸ hyr)]
      exact ih _ hr hrnd hyr

/-- A byte of no element keeps its value. -/
theorem State.read_foldl_cellAdd {a : Nat} : ∀ (l : List (Nat × Nat)) (s : State),
    (∀ x ∈ l, a < e.tileLoc en x ∨ e.tileLoc en x + accBytes e.mAcc ≤ a) →
      (l.foldl (State.cellAdd en e va vb) s).mem.read a = s.mem.read a := by
  intro l
  induction l with
  | nil => exact fun _ _ => rfl
  | cons x r ih =>
    intro s hl
    obtain ⟨hx, hr⟩ := List.forall_mem_cons.mp hl
    obtain ⟨free, hmem⟩ := s.cellAdd_mem en e va vb x
    rw [List.foldl_cons, ih _ hr, hmem]
    exact Mem.read_writeBytes_other _ _ (by rwa [length_leBytes])

theorem State.tileScrub_clean {s : State} (hb : s.bad = []) (u : Issuer) (i : Nat) : s.tileScrub u en e i = s := by
  simp only [State.tileScrub, State.scrubFor_clean hb, ite_self]

/-- Where no error waits in memory, a chunk adds to the elements one by one. -/
theorem State.mmacAdd_eq {s : State} (hb : s.bad = []) (u : Issuer) :
    s.mmacAdd u en e va vb = e.tileCells.foldl (State.cellAdd en e va vb) s := by
  have hcol : ∀ j ∈ List.range e.mN, nthD ((List.range e.mN).map fun j => vb.map fun r => nthD r j (.nan false)) j [] =
      vb.map fun r => nthD r j (.nan false) := by
    intro j hj
    simp [nthD, List.mem_range.mp hj]
  have hrows : e.tileCells.foldl (State.cellAdd en e va vb) s = (List.range e.mM).foldl
      (fun s i => ((List.range e.mN).map (Prod.mk i)).foldl (State.cellAdd en e va vb) s) s := List.foldl_flatMap ..
  rw [hrows]
  refine And.left (List.foldl_rel (r := fun s t : State => s = t ∧ t.bad = []) ⟨rfl, hb⟩ fun i _ s t hst => ?_)
  obtain ⟨rfl, hs⟩ := hst
  refine ⟨?_, (State.foldl_cellAdd_memFreeOnly ..).bad.trans hs⟩
  dsimp only
  rw [State.tileScrub_clean en e hs, List.foldl_map]
  refine List.foldl_ext _ _ _ fun s j hj => ?_
  rw [hcol j hj]
  rfl

end

/-- Settles O32: a chunk adds to the elements one by one; no two share a byte, and each takes its rounded sum. -/
theorem matrixChunkAccumulates : Obligations.MatrixChunkAccumulates := by
  intro s u en e va vb t hshape hb _ ht
  obtain ⟨-, hacc⟩ := QEntry.shapeOk_bounds hshape
  rw [State.mmacAdd_eq en e va vb hb u] at ht
  subst ht
  refine ⟨fun i j sum hi hj hsum => ?_, fun x hx => ?_, State.foldl_cellAdd_memFreeOnly ..⟩
  · obtain ⟨free, hread⟩ := State.tileRead_foldl_same en e va vb hshape (y := (i, j)) e.tileCells s
      (List.Subset.refl _) e.nodup_tileCells (QEntry.mem_tileCells.mpr ⟨hi, hj⟩)
    rw [show cellSum va vb (i, j) = sum from hsum] at hread
    refine ⟨fun h2 => ?_, fun h2 q hq => ?_⟩
    · rw [hread, accAdd_float hacc h2]
    · rw [hread, h2, hq, accAdd_int]
  · refine State.read_foldl_cellAdd en e va vb e.tileCells s fun y hy => ?_
    obtain ⟨hi, hj⟩ := QEntry.mem_tileCells.mp hy
    exact hx y.1 y.2 hi hj

end Sys2Proof.Machine
end

section
/-! SUPPORT. The rows of a drain and of a fill: their bytes, and what they leave alone (R181, R189, R190). -/

namespace Sys2Proof.Machine

open Sys2Proof.Safety

/-! ### Bytes of a row -/

theorem Mem.readBytes_congr {m m' : Mem} {a n : Nat} (h : ∀ i < n, m.read (a + i) = m'.read (a + i)) :
    m.readBytes a n = m'.readBytes a n := by
  refine List.ext_getElem (by simp) fun i h1 h2 => ?_
  rw [Mem.getElem_readBytes, Mem.getElem_readBytes]
  exact h i (by rwa [Mem.length_readBytes] at h1)

/-- A part of what was written is read back. -/
theorem Mem.readBytes_writeBytes_part (m : Mem) (a off n : Nat) (bs : List Byte) (h : off + n ≤ bs.length) :
    (m.writeBytes a bs).readBytes (a + off) n = (bs.drop off).take n := by
  refine List.ext_getElem (by simp; omega) fun i h1 h2 => ?_
  rw [Mem.length_readBytes] at h1
  rw [Mem.getElem_readBytes, Nat.add_assoc, Mem.read_writeBytes bs m a (off + i) (by omega)]
  simp

section
variable {α β : Type} {f : α → List β} {n : Nat} {l : List α} (hf : ∀ x, (f x).length = n)
include hf

theorem length_flatMap_pieces : (l.flatMap f).length = l.length * n := by
  simp [List.length_flatMap, hf]

/-- A piece of a list that is made of pieces of one length. -/
theorem take_drop_flatMap_pieces {j : Nat} (hj : j < l.length) : ((l.flatMap f).drop (j * n)).take n = f l[j] := by
  induction l generalizing j with
  | nil => exact absurd hj (Nat.not_lt_zero j)
  | cons x r ih =>
    rw [List.flatMap_cons]
    cases j with
    | zero => rw [Nat.zero_mul, List.drop_zero, List.take_left' (hf x), List.getElem_cons_zero]
    | succ j =>
      rw [Nat.succ_mul, ← hf x, Nat.add_comm, ← List.drop_drop, List.drop_left, hf x, List.getElem_cons_succ]
      exact ih (Nat.lt_of_succ_lt_succ hj)

end

/-- Memory after those of the elements `l` that `p` names have been written, `bs j` at `loc j`. -/
def Mem.putCells (p : Nat → Bool) (loc : Nat → Nat) (bs : Nat → List Byte) (l : List Nat) (m : Mem) : Mem :=
  l.foldl (fun m j => if p j then m.writeBytes (loc j) (bs j) else m) m

section
variable {p : Nat → Bool} {loc : Nat → Nat} {bs : Nat → List Byte} {n : Nat} {l : List Nat}

theorem Mem.read_putCells {m : Mem} {a : Nat} (hlen : ∀ j ∈ l, (bs j).length = n)
    (h : ∀ j ∈ l, p j = true → a < loc j ∨ loc j + n ≤ a) : (m.putCells p loc bs l).read a = m.read a := by
  induction l generalizing m with
  | nil => rfl
  | cons j r ih =>
    obtain ⟨hlj, hlr⟩ := List.forall_mem_cons.mp hlen
    obtain ⟨hj, hr⟩ := List.forall_mem_cons.mp h
    refine (ih hlr hr).trans ?_
    dsimp only
    split_ifs with hp
    · exact Mem.read_writeBytes_other _ _ (hlj ▸ hj hp)
    · rfl

theorem Mem.readBytes_putCells_other {m : Mem} {a k : Nat} (hlen : ∀ j ∈ l, (bs j).length = n)
    (h : ∀ j ∈ l, p j = true → a + k ≤ loc j ∨ loc j + n ≤ a) :
    (m.putCells p loc bs l).readBytes a k = m.readBytes a k :=
  Mem.readBytes_congr fun i hi => Mem.read_putCells hlen fun j hj hp => by
    have := h j hj hp
    omega

/-- Elements that share no byte each hold what was written. -/
theorem Mem.readBytes_putCells_same {m : Mem} {j : Nat} (hlen : ∀ j ∈ l, (bs j).length = n) (hnd : l.Nodup)
    (hd : ∀ i ∈ l, ∀ j ∈ l, i ≠ j → loc i + n ≤ loc j ∨ loc j + n ≤ loc i) (hj : j ∈ l) (hp : p j = true) :
    (m.putCells p loc bs l).readBytes (loc j) n = bs j := by
  induction l generalizing m with
  | nil => exact absurd hj List.not_mem_nil
  | cons x r ih =>
    obtain ⟨hx, hr⟩ := List.nodup_cons.mp hnd
    obtain ⟨hlx, hlr⟩ := List.forall_mem_cons.mp hlen
    rcases List.mem_cons.mp hj with rfl | hjr
    · calc (Mem.putCells p loc bs (j :: r) m).readBytes (loc j) n
          = (Mem.putCells p loc bs r (m.writeBytes (loc j) (bs j))).readBytes (loc j) n := by
            rw [Mem.putCells, List.foldl_cons, if_pos hp, Mem.putCells]
        _ = (m.writeBytes (loc j) (bs j)).readBytes (loc j) n :=
            Mem.readBytes_putCells_other hlr fun k hk _ =>
              (hd j hj k (List.mem_cons_of_mem _ hk) fun h => hx (h ▸ hk))
        _ = bs j := by rw [← hlx, Mem.readBytes_writeBytes_same]
    · exact ih hlr hr (fun i hi k hk => hd i (List.mem_cons_of_mem _ hi) k (List.mem_cons_of_mem _ hk)) hjr

end

/-! ### What a row may change -/

theorem reserved_accLoc (en bank off : Nat) : reserved (accLoc en bank off) = false := by
  have h : ¬ accLoc en bank off < 0x20000000000 := by
    simp only [accLoc, accBase]
    omega
  simp only [reserved, h, decide_false, Bool.and_false]

theorem barOf_accLoc (en bank off : Nat) : barOf (accLoc en bank off) = none := by
  have h : 2 ^ 52 ≤ accLoc en bank off := by
    simp only [accLoc, accBase]
    omega
  simp only [barOf, h, decide_true, Bool.or_true, ↓reduceIte]

/-- What a plain write may change. -/
def StoreOnly (s t : State) : Prop := t = { s with mem := t.mem, harts := t.harts, bad := t.bad }

theorem StoreOnly.ctxAt {s t : State} (h : StoreOnly s t) (k : Nat) : t.ctxAt k = s.ctxAt k := by
  unfold StoreOnly at h
  rw [h]
  rfl

/-- A dual-home window's copy of a write changes memory alone (R376). -/
theorem State.mirror_memOnly (s : State) (loc : Nat) (bs : List Byte) :
    s.mirror loc bs = { s with mem := (s.mirror loc bs).mem } := by
  have h : ∀ m, { s.mirror loc bs with mem := m } = { s with mem := m } := fun m => by
    unfold State.mirror
    refine foldl_keeps (fun t : State => { t with mem := m }) (fun t w => ?_) _ _
    dsimp only
    split_ifs <;> rfl
  exact h _

/-- Windows or not, a plain write changes no more than memory, reservations and the bad units. -/
theorem State.memWrite_storeOnly {s : State} {loc : Nat} {bs : List Byte} (hr : reserved loc = false) (hb : barOf loc = none) :
    StoreOnly s (s.memWrite loc bs) := by
  rw [State.memWrite, hr, hb]
  change StoreOnly s (State.mirror _ loc bs)
  rw [State.mirror_memOnly]
  rfl

theorem unmirrored_of_nil {s : State} (h : s.windows = []) (loc n : Nat) : Unmirrored s loc n := by
  simp [Unmirrored, h]

/-- What a row of a drain or a fill may change before its arrival. -/
def RowOnly (s t : State) : Prop :=
  t = { s with mem := t.mem, harts := t.harts, bad := t.bad, ctx := t.ctx, live := t.live, parked := t.parked }

theorem RowOnly.refl (s : State) : RowOnly s s := rfl

theorem RowOnly.trans {s t u : State} (h : RowOnly s t) (g : RowOnly t u) : RowOnly s u := by
  unfold RowOnly at *
  rw [g, h]

theorem StoreOnly.rowOnly {s t : State} (h : StoreOnly s t) : RowOnly s t := by
  unfold StoreOnly at h
  unfold RowOnly
  rw [h]

theorem CtxOnly.rowOnly {s t : State} (h : CtxOnly s t) : RowOnly s t := by
  unfold CtxOnly at h
  unfold RowOnly
  rw [h]

theorem RowOnly.fields {s t : State} (h : RowOnly s t) : t.engines = s.engines ∧ t.windows = s.windows ∧ t.fe = s.fe ∧
    t.arrivals = s.arrivals := by
  unfold RowOnly at h
  rw [h]
  exact ⟨rfl, rfl, rfl, rfl⟩

theorem RowOnly.engines {s t : State} (h : RowOnly s t) : t.engines = s.engines := h.fields.1

theorem RowOnly.windows {s t : State} (h : RowOnly s t) : t.windows = s.windows := by
  obtain ⟨-, hwin, -⟩ := h.fields
  exact hwin

/-! ### accu (R190) -/

/-- The issuer's context `c` as a row leaves it: accu is set where `missing`. -/
structure Flagged (missing : Prop) (c d : Ctx) : Prop where
  set : missing → d.mport = c.mport ||| 8
  kept : ¬ missing → d.mport = c.mport
  regs : d.regs = c.regs
  grid : d.grid = c.grid
  min : d.min = c.min

theorem Flagged.of_not {missing : Prop} (h : ¬ missing) (c : Ctx) : Flagged missing c c :=
  ⟨fun hm => absurd hm h, fun _ => rfl, rfl, rfl, rfl⟩

theorem Flagged.trans {p q r : Prop} {c d e : Ctx} (h : Flagged p c d) (g : Flagged q d e) (hr : r ↔ p ∨ q) :
    Flagged r c e := by
  refine ⟨fun hpq => ?_, fun hn => ?_, g.regs.trans h.regs, g.grid.trans h.grid, g.min.trans h.min⟩
  · by_cases hp : p
    · by_cases hq : q
      · rw [g.set hq, h.set hp, BitVec.or_assoc, BitVec.or_self]
      · rw [g.kept hq, h.set hp]
    · rw [g.set ((hr.mp hpq).resolve_left hp), h.kept hp]
  · obtain ⟨hp, hq⟩ := not_or.mp fun hpq => hn (hr.mpr hpq)
    rw [g.kept hq, h.kept hp]

theorem State.setAccu_flagged {s : State} {k : Nat} {c : Ctx} {missing : Prop} (id : Nat) (hc : s.ctxAt k = some c)
    (h : missing) : ∃ d, (s.setAccu k id).ctxAt k = some d ∧ Flagged missing c d := by
  obtain ⟨hregs, hgrid, -⟩ := (c.setPort_only id (· ||| 8)).fields
  obtain ⟨hport, hmin, -⟩ := c.setPort_fields id (· ||| 8)
  refine ⟨c.setPort id (· ||| 8), ?_, fun _ => hport, fun hn => absurd h hn, hregs, hgrid, hmin⟩
  rw [State.setAccu, State.ctxAt_updCtx, if_pos rfl, hc, Option.map_some]

/-! ### The elements of a row -/

/-- Element `j` of row `i` is written with `bs j` where its bank is allocated; `miss` is done where it is not. -/
def State.putCell (en : Nat) (e : QEntry) (i : Nat) (has : Nat → Bool) (bs : Nat → List Byte) (miss : State → State)
    (s : State) (j : Nat) : State :=
  if has j then s.memWrite (e.tileLoc en (i, j)) (bs j) else miss s

section
variable {en i : Nat} {e : QEntry} {has : Nat → Bool} {bs : Nat → List Byte} {miss : State → State}

theorem State.putCell_rowOnly (hm : ∀ s, CtxOnly s (miss s)) (s : State) (j : Nat) :
    RowOnly s (s.putCell en e i has bs miss j) := by
  unfold State.putCell
  split_ifs
  · exact (State.memWrite_storeOnly (reserved_accLoc ..) (barOf_accLoc ..)).rowOnly
  · exact (hm s).rowOnly

theorem State.foldl_putCell_rowOnly (hm : ∀ s, CtxOnly s (miss s)) (l : List Nat) (s : State) :
    RowOnly s (l.foldl (State.putCell en e i has bs miss) s) := by
  induction l generalizing s with
  | nil => exact .refl s
  | cons j r ih => exact (State.putCell_rowOnly hm s j).trans (ih _)

theorem State.foldl_putCell_mem (hm : ∀ s, CtxOnly s (miss s)) (l : List Nat) {s : State} (hw : s.windows = []) :
    (l.foldl (State.putCell en e i has bs miss) s).mem =
      s.mem.putCells has (fun j => e.tileLoc en (i, j)) bs l := by
  induction l generalizing s with
  | nil => rfl
  | cons j r ih =>
    have hstep : (s.putCell en e i has bs miss j).mem =
        if has j then s.mem.writeBytes (e.tileLoc en (i, j)) (bs j) else s.mem := by
      unfold State.putCell
      split_ifs
      · exact State.memWrite_mem (reserved_accLoc ..) (barOf_accLoc ..) (unmirrored_of_nil hw _ _)
      · exact (hm s).mem
    have hw' : (s.putCell en e i has bs miss j).windows = [] := (State.putCell_rowOnly hm s j).windows.trans hw
    rw [List.foldl_cons, ih hw', hstep, Mem.putCells, Mem.putCells, List.foldl_cons]

/-- The elements of a row whose banks are not allocated set accu. -/
theorem State.foldl_putCell_flagged {k : Nat} (id : Nat) (l : List Nat) {s : State} {c : Ctx} (hc : s.ctxAt k = some c) :
    ∃ d, (l.foldl (State.putCell en e i has bs (·.setAccu k id)) s).ctxAt k = some d ∧
      Flagged (∃ j ∈ l, has j = false) c d := by
  induction l generalizing s c with
  | nil => exact ⟨c, hc, .of_not (by simp) c⟩
  | cons j r ih =>
    have hstep : ∃ d, (s.putCell en e i has bs (·.setAccu k id) j).ctxAt k = some d ∧ Flagged (has j = false) c d := by
      unfold State.putCell
      split_ifs with hj
      · exact ⟨c, ((State.memWrite_storeOnly (reserved_accLoc ..) (barOf_accLoc ..)).ctxAt k).trans hc,
          .of_not (by simp [hj]) c⟩
      · exact s.setAccu_flagged id hc (Bool.eq_false_of_not_eq_true hj)
    obtain ⟨d, hd, hcd⟩ := hstep
    obtain ⟨d', hd', hdd'⟩ := ih hd
    exact ⟨d', hd', hcd.trans hdd' (by simp only [List.mem_cons, exists_eq_or_imp])⟩

end

/-! ### A row of a fill (R190) -/

/-- The bank of the element is allocated (R188). -/
def State.hasCell (s : State) (en : Nat) (e : QEntry) (i j : Nat) : Bool := (s.engine en).has (e.tile i j).1

theorem State.setAccu_ctxOnly (s : State) (k id : Nat) : CtxOnly s (s.setAccu k id) := s.updCtx_ctxOnly ..

/-- Which banks are allocated does not change in a row of a fill. -/
theorem State.fillRow_eq (s : State) (u : Issuer) (en : Nat) (e : QEntry) (i : Nat) (bs : List Byte) :
    s.fillRow u en e i bs = (List.range e.mN).foldl (State.putCell en e i (s.hasCell en e i)
      (fun j => (bs.drop (accBytes e.mAcc * j)).take (accBytes e.mAcc)) (·.setAccu u.k e.id)) s := by
  refine And.left (List.foldl_rel (r := fun t v : State => t = v ∧ v.engines = s.engines) ⟨rfl, rfl⟩ fun j _ t v htv => ?_)
  obtain ⟨rfl, hv⟩ := htv
  have hhas : t.hasCell en e i j = s.hasCell en e i j := by rw [State.hasCell, State.hasCell, State.engine, State.engine, hv]
  refine ⟨?_, (State.putCell_rowOnly (fun s => s.setAccu_ctxOnly ..) t j).engines.trans hv⟩
  rw [State.putCell, ← hhas]
  rfl

/-- No two elements of a row share a byte (R181). -/
theorem QEntry.rowLoc_disjoint {e : QEntry} {i : Nat} (en : Nat) (h : e.shapeOk = true) (hi : i < e.mM) :
    ∀ j ∈ List.range e.mN, ∀ k ∈ List.range e.mN, j ≠ k →
      e.tileLoc en (i, j) + accBytes e.mAcc ≤ e.tileLoc en (i, k) ∨
        e.tileLoc en (i, k) + accBytes e.mAcc ≤ e.tileLoc en (i, j) :=
  fun _ hj _ hk hne => QEntry.tileLoc_disjoint en h (QEntry.mem_tileCells.mpr ⟨hi, List.mem_range.mp hj⟩)
    (QEntry.mem_tileCells.mpr ⟨hi, List.mem_range.mp hk⟩) fun he => hne (Prod.mk.inj he).2

/-- The row's elements hold the row's bytes, and no other byte changes. -/
theorem State.fillRow_mem {s : State} {e : QEntry} {i : Nat} {bs : List Byte} (u : Issuer) (en : Nat) (h : e.shapeOk = true)
    (hi : i < e.mM) (hl : bs.length = e.mN * accBytes e.mAcc) (hw : s.windows = []) :
    (∀ j < e.mN, s.hasCell en e i j = true → (s.fillRow u en e i bs).mem.readBytes (e.tileLoc en (i, j)) (accBytes e.mAcc) =
      (bs.drop (j * accBytes e.mAcc)).take (accBytes e.mAcc)) ∧
    (∀ x, (∀ j < e.mN, s.hasCell en e i j = true →
        x < e.tileLoc en (i, j) ∨ e.tileLoc en (i, j) + accBytes e.mAcc ≤ x) →
      (s.fillRow u en e i bs).mem.read x = s.mem.read x) := by
  have hlen : ∀ j ∈ List.range e.mN, ((bs.drop (accBytes e.mAcc * j)).take (accBytes e.mAcc)).length = accBytes e.mAcc := by
    intro j hj
    have := Nat.mul_le_mul_right (accBytes e.mAcc) (Nat.succ_le_of_lt (List.mem_range.mp hj))
    rw [Nat.succ_mul] at this
    rw [List.length_take, List.length_drop, Nat.mul_comm]
    omega
  rw [State.fillRow_eq, State.foldl_putCell_mem (fun s => s.setAccu_ctxOnly ..) _ hw]
  refine ⟨fun j hj hp => ?_, fun x hx => Mem.read_putCells hlen fun j hj => hx j (List.mem_range.mp hj)⟩
  rw [Mem.readBytes_putCells_same (j := j) hlen List.nodup_range (QEntry.rowLoc_disjoint en h hi) (List.mem_range.mpr hj) hp,
    Nat.mul_comm]

/-! ### A row of a drain (R189, R190) -/

/-- The bytes of an element as a drain reads it: zeros where its bank is not allocated. -/
def State.cellBytes (s : State) (en : Nat) (e : QEntry) (i j : Nat) : List Byte :=
  if s.hasCell en e i j then s.mem.readBytes (e.tileLoc en (i, j)) (accBytes e.mAcc) else List.replicate (accBytes e.mAcc) 0

/-- The place of a drain's row in its band (R189). -/
def QEntry.rowPlace (e : QEntry) (i : Nat) : Nat :=
  spadLoc (e.mapCore (i / 16)) (e.mapOff (i / 16) + i % 16 * (e.mN * accBytes e.mAcc))

/-- The issuer's accu is set where an element's bank is not allocated. -/
def State.drainFlag (s : State) (u : Issuer) (en : Nat) (e : QEntry) (i : Nat) : State :=
  if (List.range e.mN).all (s.hasCell en e i) then s else s.setAccu u.k e.id

/-- The row is cleared where the command says so. -/
def State.drainClear (s : State) (u : Issuer) (en : Nat) (e : QEntry) (i : Nat) : State :=
  if e.x.toNat % 2 = 1 then (List.range e.mN).foldl
    (State.putCell en e i (s.hasCell en e i) (fun _ => List.replicate (accBytes e.mAcc) 0) id) (s.drainFlag u en e i)
  else s.drainFlag u en e i

/-- The row stands in its place. -/
def State.drainPut (s : State) (u : Issuer) (en : Nat) (e : QEntry) (i : Nat) : State :=
  (s.drainClear u en e i).memWrite (e.rowPlace i) ((List.range e.mN).flatMap (s.cellBytes en e i))

/-- A row is read, flagged, cleared and put into its place; the band's last one posts the band's arrival. -/
theorem State.drainRow_eq {s : State} (hb : s.bad = []) (u : Issuer) (en : Nat) (e : QEntry) (i : Nat) :
    s.drainRow u en e i = if i % 16 = 15 ∨ i + 1 = e.mM then
      (s.drainPut u en e i).bandArrive (e.mapCore (i / 16)) (e.mapKind (i / 16)) (e.mapWent (i / 16)) (e.mapWinc (i / 16))
        (e.mapOff (i / 16)) (e.bandRows (i / 16) * e.mN * accBytes e.mAcc)
    else s.drainPut u en e i := by
  simp only [State.drainRow, State.tileScrub_clean en e hb, List.flatMap_map, List.all_map, List.foldl_map]
  rfl

section
variable {s : State} (u : Issuer) (en : Nat) (e : QEntry) (i : Nat)

theorem State.length_cellBytes (s : State) (j : Nat) : (s.cellBytes en e i j).length = accBytes e.mAcc := by
  unfold State.cellBytes
  split_ifs
  · exact Mem.length_readBytes ..
  · exact List.length_replicate

theorem State.length_rowBytes (s : State) :
    ((List.range e.mN).flatMap (s.cellBytes en e i)).length = e.mN * accBytes e.mAcc := by
  rw [length_flatMap_pieces (s.length_cellBytes en e i), List.length_range]

theorem State.drainFlag_ctxOnly (s : State) : CtxOnly s (s.drainFlag u en e i) := by
  unfold State.drainFlag
  split_ifs
  · rfl
  · exact s.setAccu_ctxOnly ..

theorem State.drainClear_rowOnly (s : State) : RowOnly s (s.drainClear u en e i) := by
  have hflag := (s.drainFlag_ctxOnly u en e i).rowOnly
  unfold State.drainClear
  split_ifs
  · exact hflag.trans (State.foldl_putCell_rowOnly (miss := id) (fun _ => rfl) _ _)
  · exact hflag

theorem State.drainPut_rowOnly (s : State) : RowOnly s (s.drainPut u en e i) :=
  (s.drainClear_rowOnly u en e i).trans (State.memWrite_storeOnly (reserved_spadLoc ..) (barOf_spadLoc ..)).rowOnly

/-! #### Memory -/

/-- Memory with the row cleared. -/
theorem State.drainClear_mem (hw : s.windows = []) : (s.drainClear u en e i).mem = s.mem.putCells
    (fun j => decide (e.x.toNat % 2 = 1) && s.hasCell en e i j) (fun j => e.tileLoc en (i, j))
    (fun _ => List.replicate (accBytes e.mAcc) 0) (List.range e.mN) := by
  obtain ⟨hmem, -, -, -, hwin, -⟩ := (s.drainFlag_ctxOnly u en e i).fields
  unfold State.drainClear
  split_ifs with h
  · rw [State.foldl_putCell_mem (miss := id) (fun _ => rfl) _ (hwin.trans hw), hmem, decide_eq_true h]
    simp only [Bool.true_and]
  · rw [hmem, decide_eq_false h]
    exact (foldl_stays fun _ _ => rfl).symm

theorem State.drainPut_mem (hw : s.windows = []) : (s.drainPut u en e i).mem =
    (s.drainClear u en e i).mem.writeBytes (e.rowPlace i) ((List.range e.mN).flatMap (s.cellBytes en e i)) :=
  State.memWrite_mem (reserved_spadLoc ..) (barOf_spadLoc ..)
    (unmirrored_of_nil ((s.drainClear_rowOnly u en e i).windows.trans hw) _ _)

/-- An element of the row in its place. -/
theorem State.drainPut_place (hw : s.windows = []) {j : Nat} (hj : j < e.mN) :
    (s.drainPut u en e i).mem.readBytes (e.rowPlace i + j * accBytes e.mAcc) (accBytes e.mAcc) = s.cellBytes en e i j := by
  have hl := s.length_rowBytes en e i
  have hfit := Nat.mul_le_mul_right (accBytes e.mAcc) (Nat.succ_le_of_lt hj)
  rw [Nat.succ_mul] at hfit
  rw [State.drainPut_mem u en e i hw, Mem.readBytes_writeBytes_part _ _ _ _ _ (hl ▸ hfit),
    take_drop_flatMap_pieces (s.length_cellBytes en e i) (by rwa [List.length_range]), List.getElem_range]

/-- The row's place is below the engines' stores. -/
theorem QEntry.rowPlace_below {e : QEntry} {i : Nat} (h : e.shapeOk = true) (x : Nat × Nat) :
    e.rowPlace i + e.mN * accBytes e.mAcc ≤ e.tileLoc en x := by
  have hcore : e.mapCore (i / 16) < 2 ^ 11 := Nat.mod_lt _ (by decide)
  have hoff : e.mapOff (i / 16) < 2 ^ 19 := Nat.mod_lt _ (by decide)
  have hes : accBytes e.mAcc ≤ 8 := by
    unfold accBytes
    split_ifs <;> omega
  have hrow : e.mN * accBytes e.mAcc ≤ 128 * 8 := Nat.mul_le_mul (QEntry.shapeOk_bounds h).1 hes
  have hrows : i % 16 * (e.mN * accBytes e.mAcc) ≤ 15 * (128 * 8) := Nat.mul_le_mul (by omega) hrow
  simp only [QEntry.rowPlace, spadLoc, winBase, QEntry.tileLoc, accLoc, accBase]
  omega

/-- An allocated element that the drain clears. -/
theorem State.drainPut_cleared {en : Nat} {e : QEntry} {i j : Nat} (hw : s.windows = []) (h : e.shapeOk = true) (hi : i < e.mM)
    (hj : j < e.mN) (hx : e.x.toNat % 2 = 1) (hp : s.hasCell en e i j = true) :
    (s.drainPut u en e i).mem.readBytes (e.tileLoc en (i, j)) (accBytes e.mAcc) = List.replicate (accBytes e.mAcc) 0 := by
  rw [State.drainPut_mem u en e i hw, Mem.readBytes_writeBytes_other, State.drainClear_mem u en e i hw]
  · exact Mem.readBytes_putCells_same (fun _ _ => List.length_replicate) List.nodup_range (QEntry.rowLoc_disjoint en h hi)
      (List.mem_range.mpr hj) (by simp [hx, hp])
  · rw [s.length_rowBytes]
    exact .inr (QEntry.rowPlace_below en h _)

/-- A byte outside the place and the elements cleared. -/
theorem State.drainPut_read (hw : s.windows = []) {x : Nat}
    (hplace : x < e.rowPlace i ∨ e.rowPlace i + e.mN * accBytes e.mAcc ≤ x)
    (hcells : e.x.toNat % 2 = 1 → ∀ j < e.mN, s.hasCell en e i j = true →
      x < e.tileLoc en (i, j) ∨ e.tileLoc en (i, j) + accBytes e.mAcc ≤ x) :
    (s.drainPut u en e i).mem.read x = s.mem.read x := by
  rw [State.drainPut_mem u en e i hw, Mem.read_writeBytes_other _ _ (by rwa [s.length_rowBytes]), State.drainClear_mem u en e i hw]
  refine Mem.read_putCells (fun _ _ => List.length_replicate) fun j hj hp => ?_
  rw [Bool.and_eq_true, decide_eq_true_eq] at hp
  exact hcells hp.1 j (List.mem_range.mp hj) hp.2

/-! #### accu -/

theorem State.drainPut_flagged {c : Ctx} (hc : s.ctxAt u.k = some c) : ∃ d, (s.drainPut u en e i).ctxAt u.k = some d ∧
    Flagged (∃ j ∈ List.range e.mN, s.hasCell en e i j = false) c d := by
  have hkeep : (s.drainPut u en e i).ctxAt u.k = (s.drainFlag u en e i).ctxAt u.k := by
    refine ((State.memWrite_storeOnly (reserved_spadLoc ..) (barOf_spadLoc ..)).ctxAt u.k).trans ?_
    unfold State.drainClear
    split_ifs
    · refine foldl_keeps (State.ctxAt · u.k) (fun t j => ?_) _ _
      unfold State.putCell
      split_ifs
      · exact (State.memWrite_storeOnly (reserved_accLoc ..) (barOf_accLoc ..)).ctxAt u.k
      · rfl
    · rfl
  rw [hkeep]
  unfold State.drainFlag
  split_ifs with hall
  · refine ⟨c, hc, .of_not ?_ c⟩
    rintro ⟨j, hj, hn⟩
    exact Bool.false_ne_true (hn.symm.trans (List.all_eq_true.mp hall j hj))
  · exact s.setAccu_flagged e.id hc (List.all_eq_false.mp (Bool.eq_false_of_not_eq_true hall) |>.imp fun _ h =>
      ⟨h.1, Bool.eq_false_of_not_eq_true h.2⟩)

end

/-! #### The arrival of a band (R137, R151, R189) -/

theorem State.bandArrive_full (s : State) (core went winc off len : Nat) : s.bandArrive core 1 went winc off len =
    (granules off len).foldl (fun s g => s.feSet core g) s := rfl

theorem State.bandArrive_posted (s : State) (core went winc off len : Nat) : s.bandArrive core 2 went winc off len =
    s.postArrival core went winc := rfl

theorem State.bandArrive_mem (s : State) (core kind went winc off len : Nat) :
    (s.bandArrive core kind went winc off len).mem = s.mem := by
  unfold State.bandArrive
  split_ifs
  · exact (foldl_feSet ..).1
  · rfl
  · rfl

theorem State.bandArrive_ctxAt (s : State) (core went winc off len k : Nat) {kind : Nat} (h : kind ≠ 1) :
    (s.bandArrive core kind went winc off len).ctxAt k = s.ctxAt k := by
  rw [State.bandArrive, if_neg h]
  split_ifs <;> rfl

/-! #### The whole row -/

theorem State.drainRow_mem {s : State} (hb : s.bad = []) (u : Issuer) (en : Nat) (e : QEntry) (i : Nat) :
    (s.drainRow u en e i).mem = (s.drainPut u en e i).mem := by
  rw [State.drainRow_eq hb]
  split_ifs
  · exact State.bandArrive_mem ..
  · rfl

/-- The issuer's context after a row, where no event wakes it. -/
theorem rowRun_flagged {s t : State} {u : Issuer} {en i : Nat} {e : QEntry} {bs : List Byte} {c : Ctx} (hb : s.bad = [])
    (hc : s.ctxAt u.k = some c) (ht : t = s.fillRow u en e i bs ∨ t = s.drainRow u en e i ∧ e.mapKind (i / 16) ≠ 1) :
    ∃ d, t.ctxAt u.k = some d ∧ Flagged (∃ j ∈ List.range e.mN, s.hasCell en e i j = false) c d := by
  rcases ht with rfl | ⟨rfl, hkind⟩
  · rw [State.fillRow_eq]
    exact State.foldl_putCell_flagged e.id _ hc
  · have hkeep : (s.drainRow u en e i).ctxAt u.k = (s.drainPut u en e i).ctxAt u.k := by
      rw [State.drainRow_eq hb]
      split_ifs
      · exact State.bandArrive_ctxAt _ _ _ _ _ _ _ hkind
      · rfl
    rw [hkeep]
    exact State.drainPut_flagged u en e i hc

theorem QEntry.mapOff_aligned {e : QEntry} {b : Nat} (h : e.mapOk b = true) : e.mapOff b % 16 = 0 := by
  simp only [QEntry.mapOk, Bool.and_eq_true, decide_eq_true_eq] at h
  obtain ⟨⟨⟨⟨-, halign⟩, -⟩, -⟩, -⟩ := h
  exact halign

/-- The band's last row posts the band's arrival; an earlier one posts none. -/
theorem State.drainRow_posts {s t : State} {u : Issuer} {en i b : Nat} {e : QEntry} (hb : s.bad = []) (hmap : e.mapOk b = true)
    (hib : b = i / 16) (ht : s.drainRow u en e i = t) :
    (i % 16 ≠ 15 → i + 1 ≠ e.mM → t.fe = s.fe ∧ t.arrivals = s.arrivals) ∧
    (i % 16 = 15 ∨ i + 1 = e.mM → ∀ g n, g = Nat.min 16 (e.mM - 16 * b) * e.mN * accBytes e.mAcc →
      n = 64 * e.mapCore b + e.mapWent b →
      (e.mapKind b = 1 → ∀ x, e.mapOff b / 16 ≤ x → 16 * x < e.mapOff b + g → t.isFull (e.mapCore b) x = true) ∧
      (e.mapKind b = 2 → t.arrivals = mput s.arrivals n (mgetD s.arrivals n 0 + e.mapWinc b))) := by
  obtain ⟨-, -, hfe, harr⟩ := (s.drainPut_rowOnly u en e i).fields
  subst hib ht
  rw [State.drainRow_eq hb]
  refine ⟨fun h1 h2 => ?_, fun hlast g n hg hn => ?_⟩
  · rw [if_neg (not_or.mpr ⟨h1, h2⟩)]
    exact ⟨hfe, harr⟩
  rw [if_pos hlast]
  refine ⟨fun hk x hlo hhi => ?_, fun hk => ?_⟩
  · have hoff := QEntry.mapOff_aligned hmap
    rw [hk, State.bandArrive_full, show e.bandRows (i / 16) * e.mN * accBytes e.mAcc = g from hg.symm]
    exact (foldl_feSet ..).2 x (.inr (mem_granules (by omega) hlo hhi))
  · rw [hk, State.bandArrive_posted, hn, ← harr]
    rfl

end Sys2Proof.Machine
end

section
/-! SUPPORT. The commands of M at their engine, and MSTAT (R184, R185, R191, R192). -/

namespace Sys2Proof.Machine

open Sys2Proof.Safety

/-! ### What a chunk or row comes to -/

theorem matWord_served {i : Instr} {p : Dep} {cap : BitVec 3} {eff : State → Nat → Issuer → QEntry → MatOut} {s : State}
    {en k : Nat} {c : Ctx} {e : QEntry} (ht : s.turn = .engine en) (hs : s.served en = some (k, c, e)) :
    matWord i p cap eff s = .next (matRan en k e (eff s en { k := k, id := e.id, priv := e.priv } e)) := by
  simp only [matWord, ht, hs]

theorem Ctx.setMin_at_prog (c : Ctx) (id : Nat) (susp : Bool) (n : Nat) :
    c.setMin id (·.at_prog susp n) = atPoint id susp n c := by
  simp only [Ctx.setMin, beq_iff_eq]
  rfl

section
variable (en k : Nat) (e : QEntry)

theorem matRan_done (t : State) (ws : List Wr) : matRan en k e (.done t ws) = engineRan en k e ws t := by
  simp only [matRan, t.delay_eq, beq_iff_eq]
  rfl

theorem matRan_more (t : State) (n : Nat) : matRan en k e (.more t n) = engineGoesOn en k e n t := by
  simp only [matRan, t.delay_eq, Ctx.setMin_at_prog]
  rfl

theorem matRan_susp (t : State) (f : Trap) (n : Nat) : matRan en k e (.susp t f n) = engineHeld en k e f n t := by
  have hplace : ∀ c : Ctx, (c.min ++ c.mact.toList ++ c.mq).findIdx (fun x => x.id == e.id) = c.mPlace e.id := fun _ => rfl
  simp only [matRan, Ctx.setMin_at_prog, matAfrPath_eq, State.endTurn, State.updEngine, engineHeld, hplace]
  generalize t.updCtx k _ = s1
  cases h : s1.ctxAt k with
  | none => rfl
  | some c => simp only [rotate_eq_turnOver]

theorem matRan_retry (t : State) (n : Nat) : matRan en k e (.retry t n) = engineAgain en k e n t := by
  simp only [matRan, Ctx.setMin_at_prog]
  rfl

/-- After a chunk or row: the next, or the end. -/
theorem matRan_matNext (t : State) (n all : Nat) : matRan en k e (matNext t n all) = engineStep en k e n all t := by
  unfold matNext engineStep
  split_ifs
  · exact matRan_more ..
  · exact matRan_done ..

end

/-! ### Runs of banks (R185, R188) -/

theorem Engine.freeRun_of_lowestRun {g : Engine} {n b : Nat} (h : lowestRun g n b) : g.freeRun n = some b := by
  obtain ⟨hb, hfree, hlow⟩ := h
  simp only [Engine.freeRun, List.find?_range_eq_some, List.mem_range, List.all_eq_true, Engine.not_has_iff]
  refine ⟨hfree, by omega, fun b' hb' => ?_⟩
  obtain ⟨i, hi, ho⟩ := hlow b' hb'
  rw [Bool.not_eq_true', List.all_eq_false]
  exact ⟨i, List.mem_range.mpr hi, by simp [Engine.has, ho]⟩

theorem Engine.freeRun_of_not_lowestRun {g : Engine} {n : Nat} (h : ∀ b, ¬ lowestRun g n b) : g.freeRun n = none := by
  by_cases hn : n ≤ 256
  · exact Option.isNone_iff_eq_none.mp ((Engine.freeRun_isNone_iff hn).mpr h)
  · rw [Engine.freeRun, show 257 - n = 0 by omega]
    rfl

theorem spanBanks_eq_bankRun (b n : Nat) : spanBanks (b, b + n) = bankRun b n := by
  rw [spanBanks, Nat.add_sub_cancel_left, bankRun]

/-! ### The commands (R185 to R187, R189 to R192) -/

section
variable {p : Dep} {a b : SReg} {cap : BitVec 3} {s : State} {en k : Nat} {c : Ctx} {e : QEntry}
  (ht : s.turn = .engine en) (hs : s.served en = some (k, c, e))
include ht hs

theorem exec_mballoc_run {b0 : Nat} (hw : e.word = some (.mballoc p a b cap)) (h : lowestRun (s.engine en) e.y.toNat b0) :
    exec (.mballoc p a b cap) s = .next (engineRan en k e [.s a (BitVec.ofNat 64 b0)]
      { s with engines := mupd s.engines en Engine.reset fun g => { g with
        owner := (bankRun b0 e.y.toNat).foldl
          (fun m x => mput m x (4096 * (e.ms 7 / 4096 % 8) + e.ms 7 % 4096)) g.owner } }) := by
  have h0 : e.ms 7 / 2 ^ 0 = e.ms 7 := Nat.div_one _
  dsimp only [exec, execMballoc]
  rw [matWord_served ht hs]
  simp only [Engine.freeRun_of_lowestRun h, QEntry.landSa, hw, matRan_done, bankRun, List.foldl_map, bitsOf, h0]
  rfl

theorem exec_mballoc_none (hw : e.word = some (.mballoc p a b cap)) (h : ∀ b0, ¬ lowestRun (s.engine en) e.y.toNat b0) :
    exec (.mballoc p a b cap) s = .next (engineRan en k e [.s a (BitVec.allOnes 64)] s) := by
  dsimp only [exec, execMballoc]
  rw [matWord_served ht hs]
  simp only [Engine.freeRun_of_not_lowestRun h, QEntry.landSa, hw, matRan_done]

theorem exec_mbfree : exec (.mbfree p a b cap) s = .next (engineRan en k e []
    { s with engines := mupd s.engines en Engine.reset fun g => { g with
      owner := (bankRun e.x.toNat e.y.toNat).foldl mdel g.owner } }) := by
  dsimp only [exec, execMbfree]
  rw [matWord_served ht hs, matRan_done, spanBanks_eq_bankRun]
  rfl

theorem exec_mzero : exec (.mzero p a b cap) s = .next (engineRan en k e []
    ((bankRun e.x.toNat e.y.toNat).foldl (fun t x =>
      t.memWrite (2 ^ 60 + en * 2 ^ 22 + x * 16384) (List.replicate 16384 0)) s)) := by
  dsimp only [exec, execMzero]
  rw [matWord_served ht hs, matRan_done, spanBanks_eq_bankRun]
  rfl

theorem exec_mmac : exec (.mmac p a b cap) s =
    .next (match s.mmacFetch { k := k, id := e.id, priv := e.priv } e e.prog.toNat with
      | (t, .ok (va, vb)) => engineStep en k e (e.prog.toNat + 1) (e.mK / (if e.mAcc = 1 then 4 else 32))
          (t.mmacAdd { k := k, id := e.id, priv := e.priv } en e va vb)
      | (t, .fault f) => engineHeld en k e f e.prog.toNat t
      | (t, .retry) => engineAgain en k e e.prog.toNat t) := by
  dsimp only [exec, execMmac]
  rw [matWord_served ht hs]
  unfold mmacChunk
  rcases s.mmacFetch { k := k, id := e.id, priv := e.priv } e e.prog.toNat with ⟨t, ⟨va, vb⟩ | f | _⟩
  · exact congrArg _ (matRan_matNext ..)
  · exact congrArg _ (matRan_susp ..)
  · exact congrArg _ (matRan_retry ..)

theorem exec_mdrain : exec (.mdrain p a b cap) s = .next (engineStep en k e (e.prog.toNat + 1) e.mM
    (s.drainRow { k := k, id := e.id, priv := e.priv } en e e.prog.toNat)) := by
  dsimp only [exec, execMdrain]
  rw [matWord_served ht hs, matRan_matNext]

theorem exec_mfill {u : Issuer}
    (hu : u = { k := k, id := e.id, priv := e.priv, handle := e.ms 6 % 4096, view := accType e.mAcc }) :
    exec (.mfill p a b cap) s =
      .next (match s.engRead u (addI e.x (e.prog.toNat * sInt 64 e.y.toNat)) (e.mN * accBytes e.mAcc) false with
        | (t, .ok bs) => engineStep en k e (e.prog.toNat + 1) e.mM (t.fillRow u en e e.prog.toNat bs)
        | (t, .fault f) => engineHeld en k e f e.prog.toNat t
        | (t, .retry) => engineAgain en k e e.prog.toNat t) := by
  have hh : bitsOf (e.ms 6) 0 12 = e.ms 6 % 4096 := congrArg (· % 4096) (Nat.div_one _)
  dsimp only [exec, execMfill]
  rw [matWord_served ht hs]
  simp only [fillOne, hh, ← hu]
  rcases s.engRead u (addI e.x (e.prog.toNat * sInt 64 e.y.toNat)) (e.mN * accBytes e.mAcc) false with ⟨t, bs | f | _⟩
  · exact congrArg _ (matRan_matNext ..)
  · exact congrArg _ (matRan_susp ..)
  · exact congrArg _ (matRan_retry ..)

end

/-! ### MSTAT (R184) -/

theorem Ctx.portStatus_eq (c : Ctx) : c.portStatus false = (c.mport &&& ~~~5#64) |||
    (if c.min.isEmpty ∧ statusOut c = false then 0 else 1) ||| (if c.min.any (·.susp) then 4 else 0) := by
  have hbusy : (!c.min.isEmpty || statusOut c) = true ↔ ¬ (c.min.isEmpty ∧ statusOut c = false) := by
    cases c.min.isEmpty <;> cases statusOut c <;> decide
  have hstatus : c.portStatus false = (c.mport &&& ~~~5#64) ||| (if !c.min.isEmpty || statusOut c then 1 else 0) |||
      (if c.min.any (·.susp) then 4 else 0) := by
    rw [Ctx.portStatus, Bool.false_and, Bool.or_false]
    rfl
  rw [hstatus, if_congr hbusy rfl rfl, ite_not]

theorem exec_mstat {p : Dep} {a : SReg} {s : State} {e : QEntry} (ht : s.turn = .start .m) (he : s.ctx.mact = some e) :
    exec (.mstat p a) s = .next { delayed s with
      turn := .sched,
      ctx := { s.ctx.setPort e.id (· &&& 0xFFFF0000) with
        mact := none,
        pend := s.ctx.pend.map fun q => if q.id = e.id then
          { q with due := some (arrival s), ctr := some .tc, wr := [.s a (s.ctx.portStatus false)] } else q } } := by
  simp only [exec, execMstat, ht, he, s.delay_eq, beq_iff_eq, State.withCtx]
  congr 1

/-- Settles O31: each command is `matWord`'s effect as `matRan` takes it; a row writes its elements one by one, then its place. -/
theorem matrixPortWorks : Obligations.MatrixPortWorks := by
  unfold Obligations.MatrixPortWorks
  refine ⟨fun p a b cap s en k c e ht hs => ⟨fun b0 hw h => exec_mballoc_run ht hs hw h,
      fun hw h => exec_mballoc_none ht hs hw h, exec_mbfree ht hs, exec_mzero ht hs, fun n hn => ?commands⟩,
    fun p a s e ht he => ?mstat,
    fun s t u en i es b at_ e hshape hmap hi hib hes hb hw _ ht hat => ?drained,
    fun s t u en i es e bs hshape hi hes hl hw _ ht => ?filled,
    fun s u en i e bs c t hb hc ht => ?flagged⟩
  case commands =>
    subst hn
    exact ⟨exec_mmac ht hs, exec_mdrain ht hs, fun u hu => exec_mfill ht hs hu⟩
  case mstat =>
    rw [exec_mstat ht he, Ctx.portStatus_eq]
    rfl
  case drained =>
    obtain ⟨hearlier, hlast⟩ := State.drainRow_posts hb hmap hib ht
    subst hib hes hat ht
    rw [State.drainRow_mem hb]
    refine ⟨fun j hj => ⟨fun hp => ⟨?_, fun hx => State.drainPut_cleared u hw hshape hi hj hx hp⟩, fun hp => ?_⟩,
      fun x hplace hcells => State.drainPut_read u en e i hw hplace hcells, hearlier, hlast⟩
    · exact (State.drainPut_place u en e i hw hj).trans (if_pos hp)
    · exact (State.drainPut_place u en e i hw hj).trans (if_neg (Bool.eq_false_iff.mp hp))
  case filled =>
    subst hes ht
    exact State.fillRow_mem u en hshape hi hl hw
  case flagged =>
    obtain ⟨d, hd, hflag⟩ := rowRun_flagged hb hc ht
    refine ⟨d, hd, ?_, hflag.regs, hflag.grid, hflag.min⟩
    simp only [List.mem_range] at hflag
    split_ifs with hm
    · exact hflag.set hm
    · exact hflag.kept hm

end Sys2Proof.Machine
end

section
/-! SUPPORT. What the accesses of the hub's units leave alone (R206, R215, R364, R371, R378, R418). -/

namespace Sys2Proof.Machine

open Sys2Proof.Safety

/-- What no access of the hub touches: which berth is in focus, its context but for the count of errors that it has consumed, and
the calls that have lost bytes. -/
def State.hubFrame (s : State) : Nat × Ctx × List (Nat × Nat) := (s.key, { s.ctx with derr := 0 }, s.cut)

theorem hubFrame_of_ite {s a b : State} {c : Prop} [Decidable c] (ha : a.hubFrame = s.hubFrame) (hb : b.hubFrame = s.hubFrame) :
    (if c then a else b).hubFrame = s.hubFrame := by
  split
  · exact ha
  · exact hb

theorem State.count_hubFrame (s : State) (o n : Nat) : (s.count o n).hubFrame = s.hubFrame := rfl

theorem State.withMem_hubFrame (s : State) (m : Mem) : ({ s with mem := m } : State).hubFrame = s.hubFrame := rfl

/-! ### Errors that a read meets -/

theorem State.log_hubFrame (s : State) (cls st u idx : Nat) : (s.log cls st u idx).hubFrame = s.hubFrame := by
  unfold State.log
  dsimp only
  split <;> rfl

theorem State.makeLasting_hubFrame (s : State) (cls u idx : Nat) : (s.makeLasting cls u idx).hubFrame = s.hubFrame := by
  unfold State.makeLasting
  dsimp only
  split_ifs <;> exact State.log_hubFrame ..

theorem State.errorEvent_hubFrame (s : State) (cls u idx : Nat) : (s.errorEvent cls u idx).hubFrame = s.hubFrame := by
  unfold State.errorEvent
  dsimp only
  exact hubFrame_of_ite (State.makeLasting_hubFrame ..) rfl

/-- A context that consumes lost data counts it in its derr, and nothing else of it changes. -/
theorem State.countLost_hubFrame (s : State) (k : Nat) : (s.countLost k).hubFrame = s.hubFrame := by
  refine hubFrame_of_ite rfl ?_
  unfold State.updCtx State.putCtx State.ctxAt
  split
  · rfl
  · next c hc =>
    split_ifs at hc ⊢
    · obtain rfl := Option.some.inj hc
      rfl
    · rfl

theorem State.meetBad_hubFrame (s : State) (ks : List Nat) (b : Bad) : (s.meetBad ks b).hubFrame = s.hubFrame := by
  unfold State.meetBad
  dsimp only
  rw [foldl_keeps State.hubFrame State.countLost_hubFrame]
  have hset : ∀ (t : State) (l : List Bad), ({ t with bad := l } : State).hubFrame = t.hubFrame := fun _ _ => rfl
  have hclear : ∀ (t : State) (core gran : Nat), (t.clrFull core gran).hubFrame = t.hubFrame := fun _ _ _ => rfl
  rw [hset]
  refine hubFrame_of_ite rfl ?_
  cases b.bank <;>
    simp only [State.errorEvent_hubFrame, State.count_hubFrame, apply_ite State.hubFrame, hclear, State.withMem_hubFrame, ite_self]

theorem State.scrub_hubFrame (s : State) (ks : List Nat) (loc n : Nat) : (s.scrub ks loc n).hubFrame = s.hubFrame := by
  unfold State.scrub
  split
  · rfl
  · exact foldl_keeps State.hubFrame (fun s b => s.meetBad_hubFrame ks b) _ s

theorem State.walkScrub_hubFrame (s : State) (root va : Nat) : (s.walkScrub root va).hubFrame = s.hubFrame :=
  foldl_keeps State.hubFrame (fun s a => s.scrub_hubFrame [] a 8) _ s

/-! ### Writes -/

theorem State.takeSector_hubFrame (s : State) (sec : Nat) : (s.takeSector sec).hubFrame = s.hubFrame := by
  refine foldl_keeps State.hubFrame (fun s j => ?_) _ s
  unfold State.surrender
  split_ifs <;> rfl

theorem State.agentBytes_hubFrame (s : State) (loc : Nat) (bs : List Byte) : (s.agentBytes loc bs).hubFrame = s.hubFrame := by
  unfold State.agentBytes
  generalize List.map _ _ = l
  exact foldl_keeps State.hubFrame State.takeSector_hubFrame l s

theorem State.flipStart_hubFrame (s : State) (f : Nat) : (s.flipStart f).hubFrame = s.hubFrame := by
  unfold State.flipStart
  dsimp only
  refine hubFrame_of_ite ?_ rfl
  rw [State.flipLater, State.delay_eq]
  exact State.agentBytes_hubFrame ..

theorem State.pageRecWrite_hubFrame (s : State) (f old new : Nat) : (s.pageRecWrite f old new).hubFrame = s.hubFrame := by
  unfold State.pageRecWrite
  have hset : ∀ v, (s.setPageState f v).hubFrame = s.hubFrame := fun v => s.agentBytes_hubFrame (recOf f) (leBytes v 8)
  simp only [State.flipStart_hubFrame, apply_ite State.hubFrame, State.count_hubFrame, hset, ite_self]

theorem State.tensorValidate_hubFrame (s : State) (h : Nat) : (s.tensorValidate h).hubFrame = s.hubFrame := by
  unfold State.tensorValidate
  exact hubFrame_of_ite rfl rfl

theorem State.powerWrite_hubFrame (s : State) (v : Nat) : (s.powerWrite v).hubFrame = s.hubFrame := by
  have hoff : ∀ (u : State) (c : Prop) [Decidable c] (x : Power),
      (if c then { u with power := x } else u).hubFrame = u.hubFrame := fun _ _ _ _ => hubFrame_of_ite rfl rfl
  have hcount : ∀ (u : State) (c : Prop) [Decidable c] (o n : Nat), (if c then u.count o n else u).hubFrame = u.hubFrame :=
    fun u _ _ _ _ => hubFrame_of_ite (u.count_hubFrame ..) rfl
  unfold State.powerWrite
  dsimp only
  refine hubFrame_of_ite (s.count_hubFrame ..) ?_
  rw [hoff, hcount, State.withMem_hubFrame]

theorem State.agentWord_hubFrame (s : State) (d old new : Nat) : (s.agentWord d old new).hubFrame = s.hubFrame := by
  have hat : ∀ (u : State) (t : Nat) (i : Instr), (u.at_ t i).hubFrame = u.hubFrame := fun _ _ _ => rfl
  simp only [State.agentWord, apply_ite State.hubFrame, State.withMem_hubFrame, hat, State.count_hubFrame,
    State.pageRecWrite_hubFrame, State.tensorValidate_hubFrame, State.powerWrite_hubFrame, ite_self]

theorem State.dropResvs_hubFrame (s : State) (loc n : Nat) : (s.dropResvs loc n).hubFrame = s.hubFrame :=
  hubFrame_of_ite rfl (foldl_keeps State.hubFrame (f := State.dropResv) (fun _ _ => rfl) _ s)

theorem State.memWrite_hubFrame (s : State) (loc : Nat) (bs : List Byte) : (s.memWrite loc bs).hubFrame = s.hubFrame := by
  unfold State.memWrite
  split
  · exact (foldl_keeps State.hubFrame (fun s d => s.agentWord_hubFrame d ..) _ _).trans (s.dropResvs_hubFrame ..)
  · split
    · rfl
    · refine foldl_keeps State.hubFrame (fun s w => ?_) _ _
      exact hubFrame_of_ite rfl rfl

/-- A write loses no call's bytes. -/
theorem State.memWrite_cut (s : State) (loc : Nat) (bs : List Byte) : (s.memWrite loc bs).cut = s.cut :=
  congrArg (fun x => x.2.2) (s.memWrite_hubFrame loc bs)

/-! ### Translations and accesses -/

theorem State.growApply_hubFrame (s : State) (root asid pte desc : Nat) :
    (s.growApply root asid pte desc).1.hubFrame = s.hubFrame := by
  unfold State.growApply
  dsimp only
  split_ifs
  · rfl
  split
  · rfl
  · split_ifs
    · rfl
    split
    · rfl
    · split
      · rfl
      · split_ifs
        · exact (State.agentBytes_hubFrame ..).trans (State.agentBytes_hubFrame ..)
        · rfl
      · rfl
    · rfl
  · rfl

theorem State.hubXl_hubFrame (s : State) (root asid va : Nat) (want : Want) :
    (s.hubXl root asid va want).1.hubFrame = s.hubFrame := by
  have hwalk := s.walkScrub_hubFrame root va
  unfold State.hubXl
  dsimp only
  split
  · next pte desc _ =>
    have hgrow := ((s.walkScrub root va).growApply_hubFrame root asid pte desc).trans hwalk
    split <;> next ha => rw [ha] at hgrow; exact hgrow
  · exact hwalk

theorem State.hubLoc_hubFrame (s : State) (h : Hub) (va : Word) (n : Nat) (want : Want) :
    (s.hubLoc h va n want).1.hubFrame = s.hubFrame := by
  have hx := s.hubXl_hubFrame h.root h.asid va.toNat want
  unfold State.hubLoc
  split
  · rfl
  · split <;> next ha => rw [ha] at hx; exact hx

/-- What a step of the hub's work keeps, and every work that goes on from it, the whole keeps. -/
theorem Eng.andThen_keeps {α β γ : Type} {g : State → γ} {s : State} {x : State × Eng α}
    {f : State → α → State × Eng β} (hx : g x.1 = g s) (hf : ∀ t v, g (f t v).1 = g t) : g (Eng.andThen x f).1 = g s := by
  obtain ⟨t, v | z | _⟩ := x
  · exact (hf t v).trans hx
  · exact hx
  · exact hx

theorem State.hubReadGo_hubFrame (h : Hub) (fuel : Nat) (s : State) (va : Word) (n : Nat) (acc : List Byte) :
    (State.hubReadGo h fuel s va n acc).1.hubFrame = s.hubFrame := by
  induction fuel generalizing s va n acc with
  | zero => rfl
  | succ fuel ih =>
    have hl := s.hubLoc_hubFrame h va (pagePart va n) .read
    unfold State.hubReadGo
    split_ifs
    · rfl
    dsimp only
    generalize s.hubLoc h va (pagePart va n) .read = x at hl ⊢
    obtain ⟨t, pa | z | _⟩ := x
    · exact (ih ..).trans ((State.scrub_hubFrame ..).trans hl)
    · exact hl
    · exact hl

theorem State.hubRead_hubFrame (s : State) (h : Hub) (va : Word) (n : Nat) : (s.hubRead h va n).1.hubFrame = s.hubFrame :=
  State.hubReadGo_hubFrame ..

theorem State.hubPuts_hubFrame (h : Hub) (puts : List (Word × Byte)) (s : State) : (s.hubPuts h puts).1.hubFrame = s.hubFrame := by
  induction puts generalizing s with
  | nil => rfl
  | cons x r ih =>
    obtain ⟨va, b⟩ := x
    have hl := s.hubLoc_hubFrame h va 1 .write
    unfold State.hubPuts
    generalize s.hubLoc h va 1 .write = x at hl ⊢
    obtain ⟨t, pa | z | _⟩ := x
    · exact (ih _).trans ((State.memWrite_hubFrame ..).trans hl)
    · exact hl
    · exact hl

end Sys2Proof.Machine
end

section
/-! SUPPORT. The descriptor and the request block of a serving word, and what their checks leave alone (R206, R215, R325, R327). -/

namespace Sys2Proof.Machine

open Sys2Proof.Safety

/-! ### What a serving word keeps -/

/-- The context in focus but for the count of errors that it has consumed. -/
def State.servedCtx (s : State) : Ctx := { s.ctx with derr := 0 }

theorem servedCtx_of_hubFrame {s t : State} (h : t.hubFrame = s.hubFrame) : t.servedCtx = s.servedCtx := congrArg (fun x => x.2.1) h

theorem key_of_hubFrame {s t : State} (h : t.hubFrame = s.hubFrame) : t.key = s.key := congrArg Prod.fst h

theorem pc_of_servedCtx {s t : State} (h : t.servedCtx = s.servedCtx) : t.ctx.pc = s.ctx.pc := (congrArg Ctx.pc h :)

theorem env_of_servedCtx {s t : State} (h : t.servedCtx = s.servedCtx) : t.ctx.env = s.ctx.env := (congrArg Ctx.env h :)

theorem reg_of_servedCtx {s t : State} (h : t.servedCtx = s.servedCtx) (a : SReg) : t.ctx.reg a = s.ctx.reg a :=
  (congrArg (Ctx.reg · a) h :)

theorem popped_env (p : Dep) (s : State) : (popped p s).ctx.env = s.ctx.env := by simp

/-! ### The checks -/

/-- Only a unit's work that ended well leaves S. -/
theorem Eng.body_left {α : Type} {x : State × Eng α} {k : State → α → Body} {u : State} (h : Eng.body x k = .left u) :
    ∃ v, x = (x.1, .ok v) ∧ k x.1 v = .left u := by
  obtain ⟨t, v | z | _⟩ := x
  · exact ⟨v, rfl, h⟩
  · cases h
  · cases h

theorem State.onHub_left {s u : State} {va : Word} {k : Hub → Body} (h : s.onHub va k = .left u) : ∃ g, k g = .left u := by
  unfold State.onHub at h
  split at h
  · exact ⟨_, h⟩
  · cases h

/-- The checks of a descriptor that passes are accesses of the hub. -/
theorem hubFrame_of_descriptor {s s1 : State} {i : Instr} {va : Word} {h : Hub} {d : Nat} (hd : Descriptor s i va s1 h d) :
    s1.hubFrame = s.hubFrame := by
  have hk := hd fun t _ _ => .left t
  unfold State.onDesc at hk
  split at hk
  · cases hk
  · obtain ⟨g, hg⟩ := State.onHub_left hk
    obtain ⟨v, -, hv⟩ := Eng.body_left hg
    dsimp only at hv
    split_ifs at hv
    obtain rfl := Body.left.inj hv
    exact (State.scrub_hubFrame ..).trans (s.hubLoc_hubFrame g va 256 .write)

/-- The checks of a request block that passes are accesses of the hub. -/
theorem hubFrame_of_pxRequest {s s1 : State} {i : Instr} {va : Word} {limit : Nat} {uses : Bool} {h : Hub} {r : PxReq}
    (hr : PxRequest s i va limit uses s1 h r) : s1.hubFrame = s.hubFrame := by
  have hk := hr fun t _ _ => .left t
  unfold State.onPx at hk
  split at hk
  · cases hk
  · obtain ⟨g, hg⟩ := State.onHub_left hk
    obtain ⟨v, -, hv⟩ := Eng.body_left hg
    dsimp only at hv
    split_ifs at hv
    obtain rfl := Body.left.inj hv
    exact s.hubRead_hubFrame g va 32

end Sys2Proof.Machine
end

section
/-! SUPPORT. FWAIT (R211, R213, R326). -/

namespace Sys2Proof.Machine

open Sys2Proof.Safety

variable {p : Dep} {a : SReg} {s s1 : State} {h : Hub} {g : Nat}

theorem State.fwaitRec_eq (s : State) : s.fwaitRec = parkedRec s := rfl

/-- FWAIT of an entry that takes its continuation: the entry parks it where it is pending, and pushes it else (R213). -/
theorem execFwait_takes {f : Nat} {e : Future} (hc : CanIssue p s) (hs : Settled [a] s) (hm : (popped p s).mayRetire = true)
    (hd : Descriptor (popped p s) (.fwait p a) (s.ctx.reg a) s1 h g) (hf : field s1 g 104 2 = f) (hf0 : f ≠ 0)
    (h2 : field s1 g 1 1 = 2) (he : mgetD s1.futures f Future.reset = e) (hst : e.state ≠ .free) (hp : e.parked = none) :
    exec (.fwait p a) s = .next ((if e.state = .pending then
        s1.setFuture f { e with parked := some (parkedRec s1, dieOf (s.key / 4)) }
      else continued f g (parkedRec s1) (dieOf (s.key / 4)) s1).markS.endCtx s1.key false) := by
  subst hf he
  have hcore : s1.core = s.key / 4 := congrArg (· / 4) ((key_of_hubFrame (hubFrame_of_descriptor hd)).trans (popped_key p s))
  have hs' : s.earlyS [a] = none := hs
  have hm' : (s.withCtx (s.ctx.popToks .s p)).mayRetire = true := hm
  have htakes : ¬ (field s1 g 104 2 = 0 ∨ field s1 g 1 1 ≠ 2 ∨ (s1.future (field s1 g 104 2)).state = .free ∨
      (s1.future (field s1 g 104 2)).parked.isSome = true) := by
    simp [hf0, h2, State.future, hst, hp]
  dsimp only [exec]
  rw [execFwait, sWord_ready hc (by simp)]
  dsimp only
  rw [State.earlyS_popToks, hs']
  dsimp only
  rw [hm', State.withCtx_ctx, Ctx.popToks_reg]
  refine (congrArg (Body.finish · s) ((if_neg Bool.false_ne_true).trans (hd _))).trans ?_
  rw [hcore, State.pushParked_eq, State.fwaitRec_eq]
  exact congrArg (Body.finish · s) (if_neg htakes)

/-- Settles O22: a pending entry and a done one are the two branches of an FWAIT that its entry takes. -/
theorem futureWait : Obligations.FutureWait := by
  refine fun p a s s1 h g f e hc hs hm hd hf hf0 h2 he hp => ⟨fun hst => ?_, fun hst => ?_⟩
  · rw [execFwait_takes hc hs hm hd hf hf0 h2 he (by simp [hst]) hp, if_pos hst]
    rfl
  · rw [execFwait_takes hc hs hm hd hf hf0 h2 he (by simp [hst]) hp, if_neg (by simp [hst])]

end Sys2Proof.Machine
end

section
/-! SUPPORT. The index of cached blocks: what its words leave alone, which entry a search finds, and PXLOOK, PXINS, PXREL (R217 to
R221, R315, R327). -/

namespace Sys2Proof.Machine

open Sys2Proof.Safety

/-! ### What the words leave alone -/

theorem State.refUp_hubFrame (s : State) (d : Nat) : (s.refUp d).hubFrame = s.hubFrame := by
  simp only [State.refUp, apply_ite State.hubFrame, State.count_hubFrame, State.memWrite_hubFrame, ite_self]

theorem State.refDown_hubFrame (s : State) (d : Nat) (block : Word) : (s.refDown d block).hubFrame = s.hubFrame := by
  have hfree : ∀ (t : State) (l : List Word), ({ t with freeBlocks := l } : State).hubFrame = t.hubFrame := fun _ _ => rfl
  simp only [State.refDown, apply_ite State.hubFrame, State.count_hubFrame, hfree, State.memWrite_hubFrame, ite_self]

theorem useBlock_hubFrame (st : Nat) (s : State) (m : Nat × Nat) : (useBlock st s m).hubFrame = s.hubFrame :=
  (State.refUp_hubFrame ..).trans (hubFrame_of_ite rfl rfl)

theorem releaseBlock_hubFrame (s : State) (m : Nat × Nat) : (releaseBlock s m).hubFrame = s.hubFrame :=
  (State.refDown_hubFrame ..).trans (hubFrame_of_ite rfl rfl)

theorem State.pxIds_hubFrame (s : State) (h : Hub) (r : PxReq) (i : Nat) : (s.pxIds h r i).1.hubFrame = s.hubFrame :=
  Eng.andThen_keeps (s.hubRead_hubFrame ..) fun _ _ => rfl

theorem State.pxScan_hubFrame (h : Hub) (r : PxReq) (left : Nat) (s : State) (i : Nat) (hash : Word) (acc : List (Nat × Nat)) :
    (State.pxScan h r left s i hash acc).1.hubFrame = s.hubFrame := by
  induction left generalizing s i hash acc with
  | zero => rfl
  | succ left ih =>
    refine Eng.andThen_keeps (s.pxIds_hubFrame h r i) fun t ids => ?_
    dsimp only
    split
    · rfl
    · refine Eng.andThen_keeps (t.hubRead_hubFrame ..) fun u bs => ?_
      split_ifs
      · exact Eng.andThen_keeps (u.hubLoc_hubFrame ..) fun _ _ => ih ..
      · rfl

theorem State.pxBlocks_hubFrame (h : Hub) (r : PxReq) (left : Nat) (s : State) (i : Nat) (hash : Word)
    (acc : List (Nat × Word × Word × List (BitVec 32))) : (State.pxBlocks h r left s i hash acc).1.hubFrame = s.hubFrame := by
  induction left generalizing s i hash acc with
  | zero => rfl
  | succ left ih =>
    refine Eng.andThen_keeps (s.pxIds_hubFrame h r i) fun t ids => ?_
    refine Eng.andThen_keeps (t.hubRead_hubFrame ..) fun u bs => ?_
    dsimp only
    split_ifs
    · rfl
    · exact Eng.andThen_keeps (u.hubLoc_hubFrame ..) fun _ _ => ih ..

theorem State.pxNamed_hubFrame (h : Hub) (arr : Word) (left : Nat) (s : State) (i : Nat) (acc : List (Nat × Nat)) :
    (State.pxNamed h arr left s i acc).1.hubFrame = s.hubFrame := by
  induction left generalizing s i acc with
  | zero => rfl
  | succ left ih =>
    refine Eng.andThen_keeps (s.hubRead_hubFrame ..) fun t bs => ?_
    dsimp only
    split
    · exact ih ..
    · exact Eng.andThen_keeps (t.hubLoc_hubFrame ..) fun _ _ => ih ..

theorem State.pxVerified_hubFrame (h : Hub) (ids : List (BitVec 32)) (l : List Nat) (s : State) :
    (State.pxVerified h ids l s).1.hubFrame = s.hubFrame := by
  induction l generalizing s with
  | nil => rfl
  | cons e r ih =>
    refine Eng.andThen_keeps (s.hubRead_hubFrame ..) fun t bs => ?_
    split_ifs
    · rfl
    · exact ih t

theorem State.pxEvict_hubFrame (s : State) (h : Hub) (e : Prefix) : (s.pxEvict h e).1.hubFrame = s.hubFrame := by
  unfold State.pxEvict
  split
  · rfl
  · exact Eng.andThen_keeps (s.hubLoc_hubFrame ..) fun _ _ => State.refDown_hubFrame ..

theorem State.pxHeader_hubFrame (s : State) (d slot : Nat) (hash : Word) (ids : List (BitVec 32)) :
    (s.pxHeader d slot hash ids).hubFrame = s.hubFrame := by
  simp only [State.pxHeader, State.memWrite_hubFrame]

theorem State.pxInsert_hubFrame (h : Hub) (slot st : Nat) (l : List (Nat × Word × Word × List (BitVec 32))) (s : State)
    (n : Nat) : (State.pxInsert h slot st l s n).1.hubFrame = s.hubFrame := by
  induction l generalizing s n with
  | nil => rfl
  | cons x r ih =>
    obtain ⟨d, block, hash, ids⟩ := x
    refine Eng.andThen_keeps ((State.pxVerified_hubFrame ..).trans (s.pxHeader_hubFrame d slot hash ids)) fun t old => ?_
    cases old with
    | some e => exact ih ..
    | none =>
      dsimp only
      split
      · rfl
      · refine Eng.andThen_keeps ?_ fun u _ => (ih ..).trans (State.refUp_hubFrame ..)
        split_ifs
        · exact t.pxEvict_hubFrame ..
        · rfl

/-! ### Which entry a search finds -/

section
variable {s : State} {f : Prefix → Bool} {P : Nat → Prop}
  (hP : ∀ e, P e ↔ e < 64 ∧ f (mgetD s.index e Prefix.reset) = true)
include hP

theorem State.pxFind_none (h : ∀ e, ¬ P e) : s.pxFind f = none := by
  refine List.find?_range_eq_none.mpr fun e he => ?_
  rw [Bool.not_eq_true']
  exact Bool.eq_false_iff.mpr fun hf => h e ((hP e).mpr ⟨he, hf⟩)

/-- The lowest entry that satisfies the test is found. -/
theorem State.pxFind_lowest {e : Nat} (h : P e) (hlow : ∀ j < e, ¬ P j) : s.pxFind f = some e := by
  obtain ⟨he, hf⟩ := (hP e).mp h
  refine List.find?_range_eq_some.mpr ⟨hf, List.mem_range.mpr he, fun j hj => ?_⟩
  rw [Bool.not_eq_true']
  exact Bool.eq_false_iff.mpr fun hf => hlow j hj ((hP j).mpr ⟨hj.trans he, hf⟩)

end

theorem indexed_iff (s : State) (hash : Word) (slot asid e : Nat) :
    indexed s hash slot asid e ↔ e < 64 ∧ pxMatch hash slot asid (mgetD s.index e Prefix.reset) = true := by
  simp only [indexed, pxMatch, Bool.and_eq_true, beq_iff_eq, and_assoc]

/-- The lowest free entry is where a new one goes (R220). -/
theorem State.pxPlace_free {s : State} {e : Nat} (h : lowestFree s e) : s.pxPlace = some (e, false) := by
  obtain ⟨he, hfree, hlow⟩ := h
  have hfind : s.pxFind (fun x => !x.valid) = some e :=
    State.pxFind_lowest (P := fun j => j < 64 ∧ (mgetD s.index j Prefix.reset).valid = false) (fun j => by rw [Bool.not_eq_true'])
      ⟨he, hfree⟩ fun j hj hn => Bool.false_ne_true (hn.2.symm.trans (hlow j hj))
  rw [State.pxPlace, hfind]

/-- The entries without a pin, in ascending order. -/
def State.unpinned (s : State) : List Nat := (List.range 64).filter fun i => (mgetD s.index i Prefix.reset).pins == 0

theorem State.mem_unpinned {s : State} {i : Nat} : i ∈ s.unpinned ↔ i < 64 ∧ (mgetD s.index i Prefix.reset).pins = 0 := by
  rw [State.unpinned, List.mem_filter, List.mem_range, beq_iff_eq]

/-- The better of a candidate for eviction and the next entry: the older stamp, the lower number of equals (R220). -/
def State.elder (s : State) (best : Option (Nat × Bool)) (i : Nat) : Option (Nat × Bool) :=
  match best with
  | none => some (i, true)
  | some (j, b) =>
    if (mgetD s.index i Prefix.reset).stamp < (mgetD s.index j Prefix.reset).stamp then some (i, true) else some (j, b)

theorem State.pxPlace_full {s : State} (h : ∀ j < 64, (mgetD s.index j Prefix.reset).valid = true) :
    s.pxPlace = s.unpinned.foldl s.elder none := by
  have hfind : s.pxFind (fun x => !x.valid) = none :=
    State.pxFind_none (P := fun j => j < 64 ∧ (mgetD s.index j Prefix.reset).valid = false) (fun j => by rw [Bool.not_eq_true'])
      fun j hn => Bool.false_ne_true (hn.2.symm.trans (h j hn.1))
  rw [State.pxPlace, hfind]
  rfl

/-- Entry `e` has an older stamp than `j`, or the same and is not the higher of the two. -/
def State.elderOrSame (s : State) (e j : Nat) : Prop :=
  (mgetD s.index e Prefix.reset).stamp < (mgetD s.index j Prefix.reset).stamp ∨
    (mgetD s.index e Prefix.reset).stamp = (mgetD s.index j Prefix.reset).stamp ∧ e ≤ j

/-- Of ascending entries the search ends at the one with the oldest stamp, the lowest of equals (R220). -/
theorem State.foldl_elder {s : State} {e : Nat} (l : List Nat) (j : Nat) (hs : (j :: l).Pairwise (· < ·)) (he : e ∈ j :: l)
    (hmin : ∀ x ∈ j :: l, s.elderOrSame e x) : l.foldl s.elder (some (j, true)) = some (e, true) := by
  induction l generalizing j with
  | nil => rw [List.mem_singleton.mp he, List.foldl_nil]
  | cons i r ih =>
    obtain ⟨hj, hi, hr⟩ := by simpa only [List.pairwise_cons] using hs
    have hji : j < i := hj i List.mem_cons_self
    have hmin_j : s.elderOrSame e j := hmin j List.mem_cons_self
    have hmin_i : s.elderOrSame e i := hmin i (List.mem_cons_of_mem _ List.mem_cons_self)
    unfold State.elderOrSame at hmin_j hmin_i
    rw [List.foldl_cons]
    by_cases hlt : (mgetD s.index i Prefix.reset).stamp < (mgetD s.index j Prefix.reset).stamp
    · have hne : e ≠ j := by
        rintro rfl
        omega
      rw [State.elder, if_pos hlt]
      exact ih i (List.pairwise_cons.mpr ⟨hi, hr⟩) ((List.mem_cons.mp he).resolve_left hne)
        fun x hx => hmin x (List.mem_cons_of_mem _ hx)
    · have hne : e ≠ i := by
        rintro rfl
        omega
      rw [State.elder, if_neg hlt]
      refine ih j (List.pairwise_cons.mpr ⟨fun x hx => hj x (List.mem_cons_of_mem _ hx), hr⟩) ?_ fun x hx => hmin x ?_
      · simp only [List.mem_cons, hne, false_or] at he ⊢
        exact he
      · rcases List.mem_cons.mp hx with rfl | hx
        · exact List.mem_cons_self
        · exact List.mem_cons_of_mem _ (List.mem_cons_of_mem _ hx)

/-- A full index gives up the unpinned entry with the oldest stamp (R220). -/
theorem State.pxPlace_givenUp {s : State} {e : Nat} (h : givenUp s e) : s.pxPlace = some (e, true) := by
  obtain ⟨he, hpins, hvalid, hold⟩ := h
  have hsort : s.unpinned.Pairwise (· < ·) := List.pairwise_lt_range.filter _
  have hmem : e ∈ s.unpinned := State.mem_unpinned.mpr ⟨he, hpins⟩
  have hmin : ∀ x ∈ s.unpinned, s.elderOrSame e x := fun x hx =>
    have ⟨hlt, hp⟩ := State.mem_unpinned.mp hx
    hold x hlt hp
  rw [State.pxPlace_full hvalid]
  cases hl : s.unpinned with
  | nil => exact absurd (hl ▸ hmem) List.not_mem_nil
  | cons j l =>
    rw [hl] at hsort hmem hmin
    exact State.foldl_elder l j hsort hmem hmin

/-- An index of pinned entries alone has no place (R220). -/
theorem State.pxPlace_pinned {s : State} (h : ∀ j < 64, (mgetD s.index j Prefix.reset).valid = true ∧
    (mgetD s.index j Prefix.reset).pins ≠ 0) : s.pxPlace = none := by
  have hnil : s.unpinned = [] := List.eq_nil_iff_forall_not_mem.mpr fun i hi =>
    have ⟨hlt, hp⟩ := State.mem_unpinned.mp hi
    (h i hlt).2 hp
  rw [State.pxPlace_full fun j hj => (h j hj).1, hnil, List.foldl_nil]

/-! ### Reference counts -/

section
variable {s : State} {d v : Nat} {block : Word}

theorem refCount_lt (hv : s.mem.readLE (d + 64) 2 = v) : v < 65536 := by
  have h := leNat_lt (s.mem.readBytes (d + 64) 2)
  rw [Mem.length_readBytes] at h
  exact hv ▸ h

theorem State.refUp_eq (hv : s.mem.readLE (d + 64) 2 = v) : s.refUp d =
    if v % 4096 = 4095 then
      if v / 32768 = 1 then s else counted 0x118 (s.memWrite (d + 64) (leBytes (v + 32768) 2))
    else s.memWrite (d + 64) (leBytes (v + 1) 2) := by
  subst hv
  rfl

theorem State.refDown_eq (hv : s.mem.readLE (d + 64) 2 = v) : s.refDown d block =
    if v / 32768 = 1 then s
    else if v % 4096 = 0 then counted 0x120 s
    else if v % 4096 = 1 then { s.memWrite (d + 64) (leBytes (v - 1) 2) with
      freeBlocks := (s.memWrite (d + 64) (leBytes (v - 1) 2)).freeBlocks ++ [block] }
    else s.memWrite (d + 64) (leBytes (v - 1) 2) := by
  subst hv
  rfl

end

/-! ### The words -/

section
variable {p : Dep} {d a : SReg} {s s1 s2 : State} {h : Hub} {r : PxReq}

theorem Eng.body_ok {α : Type} (s : State) (v : α) (k : State → α → Body) : Eng.body (s, .ok v) k = k s v := rfl

/-- A word on the index whose request passes its checks, and whose work leaves the package `t` with the result `v`. -/
theorem tWord_px {i : Instr} {limit : Nat} {uses : Bool} {k : State → Hub → PxReq → Body} {t : State} {v : Word}
    (hc : CanSerialise p [a] s) (hr : PxRequest (popped p s) i (s.ctx.reg a) limit uses s1 h r)
    (hk : k s1 h r = .done (t.landSerial i p d v) t.pc4) (ht : t.hubFrame = s1.hubFrame) :
    tWord i p [a] (fun _ => false) (fun s => s.onPx i (s.ctx.reg a) limit uses k) s = .next (serialDone i p d v s t) := by
  have hpc : t.ctx.pc = s.ctx.pc :=
    (pc_of_servedCtx (servedCtx_of_hubFrame (ht.trans (hubFrame_of_pxRequest hr)))).trans (popped_pc p s)
  rw [tWord_ready hc rfl, popped_reg, hr, hk]
  exact finish_serialDone i p d v hpc

theorem execPxlook_lands {s3 : State} {ms : List (Nat × Nat)} (hc : CanSerialise p [a] s)
    (hr : PxRequest (popped p s) (.pxlook p d a) (s.ctx.reg a) (2 ^ 20) true s1 h r)
    (hms : State.pxScan h r (r.n / 16) s1 0 (s1.seed r.slot) [] = (s2, .ok ms))
    (hput : s2.hubPuts h (ms.mapIdx fun j (m : Nat × Nat) => spread (r.arr + BitVec.ofNat 64 (8 * j))
      (leBytes (mgetD s2.index m.1 Prefix.reset).block.toNat 8)).flatten = (s3, .ok ())) :
    exec (.pxlook p d a) s = .next (serialDone (.pxlook p d a) p d (BitVec.ofNat 64 ms.length) s
      (ms.foldl (useBlock (s3.stamp + 1)) { s3 with stamp := s3.stamp + 1 })) := by
  have h2 : s2.hubFrame = s1.hubFrame := by
    have hf := State.pxScan_hubFrame h r (r.n / 16) s1 0 (s1.seed r.slot) []
    rwa [hms] at hf
  have h3 : s3.hubFrame = s2.hubFrame := by
    have hf := s2.hubPuts_hubFrame h (ms.mapIdx fun j (m : Nat × Nat) => spread (r.arr + BitVec.ofNat 64 (8 * j))
      (leBytes (mgetD s2.index m.1 Prefix.reset).block.toNat 8)).flatten
    rwa [hput] at hf
  refine tWord_px hc hr ?_ ((foldl_keeps State.hubFrame (useBlock_hubFrame _) ms _).trans (h3.trans h2))
  rw [hms, Eng.body_ok]
  refine (congrArg (Eng.body · _) hput).trans ?_
  rfl

theorem execPxins_lands {t : State} {bs : List (Nat × Word × Word × List (BitVec 32))} {n : Nat} (hc : CanSerialise p [a] s)
    (hr : PxRequest (popped p s) (.pxins p d a) (s.ctx.reg a) (2 ^ 20) true s1 h r)
    (hbs : State.pxBlocks h r (r.n / 16) s1 0 (s1.seed r.slot) [] = (s2, .ok (some bs)))
    (hn : State.pxInsert h r.slot (s2.stamp + 1) bs { s2 with stamp := s2.stamp + 1 } 0 = (t, .ok n)) :
    exec (.pxins p d a) s = .next (serialDone (.pxins p d a) p d (BitVec.ofNat 64 n) s t) := by
  have h2 : s2.hubFrame = s1.hubFrame := by
    have hf := State.pxBlocks_hubFrame h r (r.n / 16) s1 0 (s1.seed r.slot) []
    rwa [hbs] at hf
  have ht : t.hubFrame = s2.hubFrame := by
    have hf := State.pxInsert_hubFrame h r.slot (s2.stamp + 1) bs { s2 with stamp := s2.stamp + 1 } 0
    rwa [hn] at hf
  refine tWord_px hc hr ?_ (ht.trans h2)
  rw [hbs, Eng.body_ok]
  dsimp only
  rw [hn, Eng.body_ok]

theorem execPxrel_lands {ms : List (Nat × Nat)} (hc : CanSerialise p [a] s)
    (hr : PxRequest (popped p s) (.pxrel p d a) (s.ctx.reg a) 64 false s1 h r)
    (hms : State.pxNamed h r.arr r.n s1 0 [] = (s2, .ok ms)) :
    exec (.pxrel p d a) s = .next (serialDone (.pxrel p d a) p d (BitVec.ofNat 64 ms.length) s (ms.foldl releaseBlock s2)) := by
  have h2 : s2.hubFrame = s1.hubFrame := by
    have hf := State.pxNamed_hubFrame h r.arr r.n s1 0 []
    rwa [hms] at hf
  refine tWord_px hc hr ?_ ((foldl_keeps State.hubFrame releaseBlock_hubFrame ms _).trans h2)
  rw [hms, Eng.body_ok]
  rfl

end

/-! ### A block of a scan -/

section
variable {h : Hub} {r : PxReq} {left i e : Nat} {s s1 s2 : State} {hash : Word} {acc : List (Nat × Nat)} {ids : List (BitVec 32)}

theorem State.pxScan_step (hi : s.pxIds h r i = (s1, .ok ids)) : State.pxScan h r (left + 1) s i hash acc =
    match s1.pxFind (pxMatch (mix hash ids) r.slot h.asid) with
    | none => (s1, .ok acc)
    | some e => Eng.andThen (s1.hubRead h (mgetD s1.index e Prefix.reset).block 64) fun s2 bs =>
        if idsOf bs = ids then
          Eng.andThen (s2.hubLoc h (mgetD s2.index e Prefix.reset).block 128 .write) fun s3 d =>
            State.pxScan h r left s3 (i + 1) (mix hash ids) (acc ++ [(e, d)])
        else (counted 0x110 s2, .ok acc) := by
  rw [State.pxScan, hi, State.andThen_ok]
  rfl

theorem State.pxScan_miss (hi : s.pxIds h r i = (s1, .ok ids)) (hn : ∀ e, ¬ indexed s1 (mix hash ids) r.slot h.asid e) :
    State.pxScan h r (left + 1) s i hash acc = (s1, .ok acc) := by
  rw [State.pxScan_step hi, State.pxFind_none (indexed_iff s1 _ _ _) hn]

/-- The header of the lowest entry of the hash is read and compared (R219). -/
theorem State.pxScan_hit {bs : List Byte} (hi : s.pxIds h r i = (s1, .ok ids)) (he : indexed s1 (mix hash ids) r.slot h.asid e)
    (hlow : ∀ j < e, ¬ indexed s1 (mix hash ids) r.slot h.asid j)
    (hb : s1.hubRead h (mgetD s1.index e Prefix.reset).block 64 = (s2, .ok bs)) :
    State.pxScan h r (left + 1) s i hash acc =
      if idsOf bs = ids then
        Eng.andThen (s2.hubLoc h (mgetD s2.index e Prefix.reset).block 128 .write) fun s3 d =>
          State.pxScan h r left s3 (i + 1) (mix hash ids) (acc ++ [(e, d)])
      else (counted 0x110 s2, .ok acc) := by
  rw [State.pxScan_step hi, State.pxFind_lowest (indexed_iff s1 _ _ _) he hlow]
  dsimp only
  rw [hb, State.andThen_ok]

end

/-! ### A block of an insertion -/

section
variable {h : Hub} {slot st d n e : Nat} {block hash : Word} {ids : List (BitVec 32)} {s s2 : State}
  {more : List (Nat × Word × Word × List (BitVec 32))}

/-- The entries that PXINS compares with a block (R220). -/
def State.alike (s : State) (hash : Word) (slot asid : Nat) : List Nat :=
  (List.range 64).filter fun i => pxMatch hash slot asid (mgetD s.index i Prefix.reset)

theorem State.pxInsert_cons : State.pxInsert h slot st ((d, block, hash, ids) :: more) s n =
    Eng.andThen (State.pxVerified h ids ((headed s d slot hash ids).alike hash slot h.asid) (headed s d slot hash ids)) fun t old =>
      match old with
      | some e => State.pxInsert h slot st more
          { t with index := mput t.index e { mgetD t.index e Prefix.reset with stamp := st } } (n + 1)
      | none => match t.pxPlace with
        | none => (t, .ok n)
        | some (e, evict) =>
          Eng.andThen (if evict then t.pxEvict h (mgetD t.index e Prefix.reset) else (t, .ok ())) fun u _ =>
            State.pxInsert h slot st more (entryMade u e d hash block slot h.asid st) (n + 1) := rfl

/-- A block that the lowest entry of its hash holds stamps that entry (R220). -/
theorem State.pxInsert_verified {bs : List Byte} (he : indexed (headed s d slot hash ids) hash slot h.asid e)
    (hlow : ∀ j < e, ¬ indexed (headed s d slot hash ids) hash slot h.asid j)
    (hb : (headed s d slot hash ids).hubRead h (mgetD (headed s d slot hash ids).index e Prefix.reset).block 64 = (s2, .ok bs))
    (hids : idsOf bs = ids) :
    State.pxInsert h slot st ((d, block, hash, ids) :: more) s n = State.pxInsert h slot st more
      { s2 with index := mput s2.index e { mgetD s2.index e Prefix.reset with stamp := st } } (n + 1) := by
  obtain ⟨r, hr⟩ : ∃ r, (headed s d slot hash ids).alike hash slot h.asid = e :: r := by
    rw [← List.head?_eq_some_iff, State.alike, List.head?_filter]
    exact State.pxFind_lowest (indexed_iff (headed s d slot hash ids) hash slot h.asid) he hlow
  have hver : State.pxVerified h ids (e :: r) (headed s d slot hash ids) = (s2, .ok (some e)) := by
    rw [State.pxVerified, State.pxAt, hb, State.andThen_ok, if_pos hids]
  rw [State.pxInsert_cons, hr, hver, State.andThen_ok]

/-- A block of which no entry has the hash goes where the index has a place (R220). -/
theorem State.pxInsert_unknown (hn : ∀ j, ¬ indexed (headed s d slot hash ids) hash slot h.asid j) :
    State.pxInsert h slot st ((d, block, hash, ids) :: more) s n =
      match (headed s d slot hash ids).pxPlace with
      | none => (headed s d slot hash ids, .ok n)
      | some (e, evict) =>
        Eng.andThen (if evict then
            (headed s d slot hash ids).pxEvict h (mgetD (headed s d slot hash ids).index e Prefix.reset)
          else (headed s d slot hash ids, .ok ())) fun u _ =>
          State.pxInsert h slot st more (entryMade u e d hash block slot h.asid st) (n + 1) := by
  have hnil : (headed s d slot hash ids).alike hash slot h.asid = [] := List.filter_eq_nil_iff.mpr fun j hj hm =>
    hn j ((indexed_iff ..).mpr ⟨List.mem_range.mp hj, hm⟩)
  rw [State.pxInsert_cons, hnil]
  rfl

/-- An entry of the issuer's address space is evicted: its block loses the index's reference (R220). -/
theorem State.pxEvict_own {d2 : Nat} {x : Prefix} (ha : x.asid = h.asid) (hl : s.hubLoc h x.block 128 .write = (s2, .ok d2)) :
    s.pxEvict h x = (s2.refDown d2 x.block, .ok ()) := by
  rw [State.pxEvict, if_pos ha]
  dsimp only
  rw [hl]
  rfl

end

/-! ### An address of a release -/

section
variable {h : Hub} {arr block : Word} {left i e : Nat} {s s1 s2 : State} {acc : List (Nat × Nat)} {bs : List Byte}

/-- An entry of the issuer's address space that holds the block (R327). -/
def holdsBlock (s : State) (h : Hub) (block : Word) (e : Nat) : Prop :=
  e < 64 ∧ (mgetD s.index e Prefix.reset).valid = true ∧ (mgetD s.index e Prefix.reset).asid = h.asid ∧
    (mgetD s.index e Prefix.reset).block = block

theorem holdsBlock_iff (s : State) (h : Hub) (block : Word) (e : Nat) : holdsBlock s h block e ↔ e < 64 ∧
    ((mgetD s.index e Prefix.reset).valid && (mgetD s.index e Prefix.reset).asid == h.asid &&
      (mgetD s.index e Prefix.reset).block == block) = true := by
  simp only [holdsBlock, Bool.and_eq_true, beq_iff_eq, and_assoc]

theorem State.pxNamed_step (hb : s.hubRead h (arr + BitVec.ofNat 64 (8 * i)) 8 = (s1, .ok bs))
    (hblock : block = BitVec.ofNat 64 (leNat bs)) : State.pxNamed h arr (left + 1) s i acc =
      match s1.pxFind fun x => x.valid && x.asid == h.asid && x.block == block with
      | none => State.pxNamed h arr left (counted 0x120 s1) (i + 1) acc
      | some e => Eng.andThen (s1.hubLoc h block 128 .write) fun s2 d => State.pxNamed h arr left s2 (i + 1) (acc ++ [(e, d)]) := by
  subst hblock
  rw [State.pxNamed, hb, State.andThen_ok]
  rfl

theorem State.pxNamed_miss (hb : s.hubRead h (arr + BitVec.ofNat 64 (8 * i)) 8 = (s1, .ok bs))
    (hblock : block = BitVec.ofNat 64 (leNat bs)) (hn : ∀ e, ¬ holdsBlock s1 h block e) :
    State.pxNamed h arr (left + 1) s i acc = State.pxNamed h arr left (counted 0x120 s1) (i + 1) acc := by
  rw [State.pxNamed_step hb hblock, State.pxFind_none (holdsBlock_iff s1 h block) hn]

theorem State.pxNamed_hit {d : Nat} (hb : s.hubRead h (arr + BitVec.ofNat 64 (8 * i)) 8 = (s1, .ok bs))
    (hblock : block = BitVec.ofNat 64 (leNat bs)) (he : holdsBlock s1 h block e) (hlow : ∀ j < e, ¬ holdsBlock s1 h block j)
    (hl : s1.hubLoc h block 128 .write = (s2, .ok d)) :
    State.pxNamed h arr (left + 1) s i acc = State.pxNamed h arr left s2 (i + 1) (acc ++ [(e, d)]) := by
  rw [State.pxNamed_step hb hblock, State.pxFind_lowest (holdsBlock_iff s1 h block) he hlow]
  dsimp only
  rw [hl, State.andThen_ok]

end

/-- Settles O23: the words' ends, and one block of a scan, of an insertion and of a release after the other; a reference count
is a number of 16 bits. -/
theorem prefixWords : Obligations.PrefixWords := by
  refine ⟨fun p d a s s1 s2 h r hc => ⟨fun ms s3 => execPxlook_lands hc, fun bs t n => execPxins_lands hc,
      fun ms => execPxrel_lands hc⟩,
    fun h r left i s s1 hash x acc ids hi hx => ?scan, fun h slot st d n e block hash ids s s1 x more hs1 hx => ?insert,
    fun h arr block left i s s1 acc bs hb hblock => ⟨State.pxNamed_miss hb hblock, fun e s2 d => State.pxNamed_hit hb hblock⟩,
    fun s d v block hv => ?counts⟩
  case scan =>
    subst hx
    refine ⟨State.pxScan_miss hi, fun e s2 bs he hlow hb => ⟨fun hne => ?_, fun s3 d heq hl => ?_⟩⟩
    · rw [State.pxScan_hit hi he hlow hb, if_neg hne]
    · rw [State.pxScan_hit hi he hlow hb, if_pos heq, hl, State.andThen_ok]
  case insert =>
    subst hs1 hx
    refine ⟨fun s2 bs => State.pxInsert_verified, fun hn => ⟨fun hfree => ?_, fun s2 d2 hold ha hl => ?_, fun hall => ?_⟩⟩
    · rw [State.pxInsert_unknown hn, State.pxPlace_free hfree]
      rfl
    · rw [State.pxInsert_unknown hn, State.pxPlace_givenUp hold]
      dsimp only
      rw [if_pos rfl, State.pxEvict_own ha hl, State.andThen_ok]
    · rw [State.pxInsert_unknown hn, State.pxPlace_pinned hall]
  case counts =>
    have hlt := refCount_lt hv
    rw [State.refUp_eq hv, State.refDown_eq hv]
    refine ⟨fun h => if_neg h, fun h hs => ?_, fun h hs => ?_, fun hs => if_pos (by omega), fun hs h => ?_, fun hs h => ?_,
      fun hs h => ?_⟩
    · rw [if_pos h, if_pos (by omega)]
    · rw [if_pos h, if_neg (by omega)]
    · rw [if_neg (by omega), if_pos h]
    · rw [if_neg (by omega), if_neg (by omega), if_neg (by omega)]
    · rw [if_neg (by omega), if_neg (by omega), if_pos h]

end Sys2Proof.Machine
end

section
/-! SUPPORT. The token post: what it leaves alone, the holdback table, and EMIT (R208 to R212, R325). -/

namespace Sys2Proof.Machine

open Sys2Proof.Safety

/-! ### What the token post leaves alone -/

theorem State.setSd_hubFrame (s : State) (d off n v : Nat) : (s.setSd d off n v).hubFrame = s.hubFrame := State.memWrite_hubFrame ..

theorem State.setHold_hubFrame (s : State) (d : Nat) (hb : HoldBack) : (s.setHold d hb).hubFrame = s.hubFrame := by
  simp only [State.setHold, State.setSd_hubFrame]

theorem State.tokenScrub_hubFrame (s : State) (ks : List Nat) (slot id : Nat) : (s.tokenScrub ks slot id).hubFrame = s.hubFrame :=
  (State.scrub_hubFrame ..).trans (State.scrub_hubFrame ..)

theorem State.textPut_hubFrame (s : State) (h : Hub) (d : Nat) (bs : List Byte) : (s.textPut h d bs).1.hubFrame = s.hubFrame :=
  Eng.andThen_keeps (State.hubPuts_hubFrame ..) fun _ _ => State.setSd_hubFrame ..

theorem State.postCall_hubFrame {s t : State} {c : Call} (h : s.postCall c = some t) : t.hubFrame = s.hubFrame := by
  unfold State.postCall at h
  split at h
  · cases h
  · next k _ =>
    obtain rfl := Option.some.inj h
    exact (State.memWrite_hubFrame ..).trans (State.memWrite_hubFrame ..)

theorem State.tryCall_hubFrame (s : State) (c : Call) : (s.tryCall c).hubFrame = s.hubFrame := by
  unfold State.tryCall
  split
  · next h => exact State.postCall_hubFrame h
  · rfl

theorem State.mailboxPost_hubFrame (s : State) : s.mailboxPost.hubFrame = s.hubFrame := by
  have hcalls : (s.calls.foldl State.tryCall { s with calls := [] }).hubFrame = s.hubFrame :=
    foldl_keeps State.hubFrame State.tryCall_hubFrame _ _
  rw [State.mailboxPost_eq]
  exact hubFrame_of_ite hcalls hcalls

/-- A call that closes changes nothing of the context (R212). -/
theorem State.callClose_servedCtx (s : State) (h : Hub) (env va d : Nat) : (s.callClose h env va d).1.servedCtx = s.servedCtx := by
  unfold State.callClose
  split
  · rfl
  · refine (servedCtx_of_hubFrame (State.mailboxPost_hubFrame _)).trans ?_
    refine servedCtx_of_hubFrame (s := s) (t := ((s.setSd d 104 2 _).setSd d 106 2 _).setSd d 1 1 2) ?_
    simp only [State.setSd_hubFrame]

/-! ### The branches of EMIT (R209) -/

/-- The call of a descriptor begins, its ring written already. -/
def State.callBegun (s : State) (h : Hub) (va d : Nat) : State :=
  let s1 := ((s.setHold d ⟨[], 0⟩).setSd d 1 1 1).setSd d 100 4 0
  { s1 with cut := s1.cut.filter (· != (h.asid, va)) }

/-- The opening id: `out` stands for the held bytes in the ring, and the call begins. -/
def State.emitOpening (s : State) (h : Hub) (va d : Nat) (out : List Byte) : State × Eng Word :=
  if s.textFree d < out.length then (s, .ok (emitResult 3 0 0))
  else Eng.andThen (s.textPut h d out) fun t _ => (t.callBegun h va d, .ok (emitResult 1 out.length 0))

/-- `n` more bytes of `all` stand in the call buffer. -/
def State.captured (s : State) (h : Hub) (va d clen n all : Nat) : State :=
  let s1 := s.setSd d 100 4 (clen + n)
  if decide (n < all) && !(s1.cut.contains (h.asid, va)) then { s1 with cut := s1.cut ++ [(h.asid, va)] } else s1

/-- Another token of a call: its bytes go to the call buffer, as far as it has room. -/
def State.emitCapturing (s : State) (h : Hub) (va d : Nat) (bs : List Byte) : State × Eng Word :=
  let n := s.sd d 100 4
  let took := bs.take (s.sd d 96 4 - n)
  Eng.andThen (s.hubPuts h (spread (BitVec.ofNat 64 (s.sd d 88 8 + n)) took)) fun t _ =>
    (t.captured h va d n took.length bs.length, .ok (emitResult 1 took.length 0))

/-- A token of text: its bytes go through the holdback table into the ring. -/
def State.emitText (s : State) (h : Hub) (d : Nat) (bs : List Byte) : State × Eng Word :=
  if s.textFree d < 3 * (bs.length + 3) then (s, .ok (emitResult 3 0 0))
  else Eng.andThen (s.textPut h d (holdAll (s.holdOf d) bs).1) fun t _ =>
    (t.setHold d (holdAll (s.holdOf d) bs).2, .ok (emitResult 0 (holdAll (s.holdOf d) bs).1.length 0))

theorem State.emit_eq (s : State) (h : Hub) (env va d id : Nat) : s.emit h env va d id =
    let slot := s.sd d 0 1 % 8
    let t := s.tokenScrub h.ks slot id
    if s.sd d 1 1 = 2 then (t, .ok (emitResult 4 0 0))
    else if s.sd d 1 1 = 0 ∧ id = t.cfgLE (vocOff slot + 4) 4 then
      t.emitOpening h va d (if (t.holdOf d).held.isEmpty then [] else fffd)
    else if s.sd d 1 1 = 1 ∧ id = t.cfgLE (vocOff slot + 8) 4 then
      ((t.callClose h env va d).1, .ok (t.callClose h env va d).2)
    else if s.sd d 1 1 = 1 then t.emitCapturing h va d (t.tokenBytes slot id)
    else t.emitText h d (t.tokenBytes slot id) := rfl

theorem State.withCut_servedCtx (s : State) (l : List (Nat × Nat)) : ({ s with cut := l } : State).servedCtx = s.servedCtx := rfl

theorem State.callBegun_servedCtx (s : State) (h : Hub) (va d : Nat) : (s.callBegun h va d).servedCtx = s.servedCtx := by
  rw [State.callBegun, State.withCut_servedCtx]
  refine servedCtx_of_hubFrame ?_
  rw [State.setSd_hubFrame, State.setSd_hubFrame, State.setHold_hubFrame]

theorem State.emitOpening_servedCtx (s : State) (h : Hub) (va d : Nat) (out : List Byte) :
    (s.emitOpening h va d out).1.servedCtx = s.servedCtx := by
  unfold State.emitOpening
  split_ifs
  · rfl
  · exact Eng.andThen_keeps (servedCtx_of_hubFrame (s.textPut_hubFrame ..)) fun t _ => t.callBegun_servedCtx ..

theorem State.captured_servedCtx (s : State) (h : Hub) (va d clen n all : Nat) :
    (s.captured h va d clen n all).servedCtx = s.servedCtx := by
  have hset := servedCtx_of_hubFrame (s.setSd_hubFrame d 100 4 (clen + n))
  unfold State.captured
  dsimp only
  split
  · rw [State.withCut_servedCtx, hset]
  · exact hset

theorem State.emitCapturing_servedCtx (s : State) (h : Hub) (va d : Nat) (bs : List Byte) :
    (s.emitCapturing h va d bs).1.servedCtx = s.servedCtx :=
  Eng.andThen_keeps (servedCtx_of_hubFrame (State.hubPuts_hubFrame ..)) fun t _ => t.captured_servedCtx ..

theorem State.emitText_servedCtx (s : State) (h : Hub) (d : Nat) (bs : List Byte) :
    (s.emitText h d bs).1.servedCtx = s.servedCtx := by
  unfold State.emitText
  split_ifs
  · rfl
  · exact Eng.andThen_keeps (servedCtx_of_hubFrame (s.textPut_hubFrame ..)) fun t _ =>
      servedCtx_of_hubFrame (t.setHold_hubFrame ..)

theorem fst_ite_keeps {α β γ : Type} {g : α → γ} {c : Prop} [Decidable c] {x y : α × β} {z : γ} (hx : g x.1 = z)
    (hy : g y.1 = z) : g (if c then x else y).1 = z := by
  split
  · exact hx
  · exact hy

/-- A token changes nothing of the context but the count of errors (R209). -/
theorem State.emit_servedCtx (s : State) (h : Hub) (env va d id : Nat) : (s.emit h env va d id).1.servedCtx = s.servedCtx := by
  have hscrub := servedCtx_of_hubFrame (s.tokenScrub_hubFrame h.ks (s.sd d 0 1 % 8) id)
  rw [State.emit_eq]
  refine fst_ite_keeps hscrub (fst_ite_keeps ?_ (fst_ite_keeps ?_ (fst_ite_keeps ?_ ?_)))
  · exact (State.emitOpening_servedCtx ..).trans hscrub
  · exact (State.callClose_servedCtx ..).trans hscrub
  · exact (State.emitCapturing_servedCtx ..).trans hscrub
  · exact (State.emitText_servedCtx ..).trans hscrub

/-! ### The holdback table (R210) -/

/-- The bytes of a token add to those already released. -/
theorem foldl_holdStep (xs : List Byte) (out : List Byte) (hb : HoldBack) :
    xs.foldl (fun acc x => ((acc.1 ++ (holdStep acc.2 x).1, (holdStep acc.2 x).2) : List Byte × HoldBack)) (out, hb) =
      (out ++ (holdAll hb xs).1, (holdAll hb xs).2) := by
  induction xs generalizing out hb with
  | nil => simp [holdAll]
  | cons x r ih =>
    have hrest : holdAll hb (x :: r) = ((holdStep hb x).1 ++ (holdAll (holdStep hb x).2 r).1, (holdAll (holdStep hb x).2 r).2) :=
      ih (holdStep hb x).1 (holdStep hb x).2
    rw [List.foldl_cons, ih, hrest, ← List.append_assoc]

theorem holdAll_cons (x : Byte) (hb : HoldBack) (bs : List Byte) : holdAll hb (x :: bs) =
    ((holdStep hb x).1 ++ (holdAll (holdStep hb x).2 bs).1, (holdAll (holdStep hb x).2 bs).2) := by
  conv_lhs => rw [holdAll, List.foldl_cons]
  exact foldl_holdStep bs _ _

/-- With nothing held, a byte goes by its class. -/
theorem holdStep_empty {hb : HoldBack} (h : hb.held = []) (x : Byte) : holdStep hb x = hold0 x := by
  rw [holdStep, h]

theorem hold0_ascii {x : Byte} (h : x < 0x80) : hold0 x = ([x], ⟨[], 0⟩) := if_pos h

theorem hold0_lead2 {x : Byte} (h1 : 0xC2 ≤ x) (h2 : x < 0xE0) : hold0 x = ([], ⟨[x], 1⟩) := by
  have h1' : 0xC2 ≤ x.toNat := h1
  have h2' : x.toNat < 0xE0 := h2
  simp only [hold0]
  rw [if_neg (by omega), if_pos (by omega)]

theorem hold0_lead3 {x : Byte} (h1 : 0xE0 ≤ x) (h2 : x < 0xF0) : hold0 x = ([], ⟨[x], 2⟩) := by
  have h1' : 0xE0 ≤ x.toNat := h1
  have h2' : x.toNat < 0xF0 := h2
  simp only [hold0]
  rw [if_neg (by omega), if_neg (by omega), if_pos (by omega)]

theorem hold0_lead4 {x : Byte} (h1 : 0xF0 ≤ x) (h2 : x ≤ 0xF4) : hold0 x = ([], ⟨[x], 3⟩) := by
  have h1' : 0xF0 ≤ x.toNat := h1
  have h2' : x.toNat ≤ 0xF4 := h2
  simp only [hold0]
  rw [if_neg (by omega), if_neg (by omega), if_neg (by omega), if_pos (by omega)]

theorem hold0_stray {x : Byte} (h1 : 0x80 ≤ x) (h2 : x < 0xC2 ∨ 0xF4 < x) : hold0 x = ([0xEF, 0xBF, 0xBD], ⟨[], 0⟩) := by
  have h1' : 0x80 ≤ x.toNat := h1
  have h2' : x.toNat < 0xC2 ∨ 0xF4 < x.toNat := h2
  simp only [hold0]
  rw [if_neg (by omega), if_neg (by omega), if_neg (by omega), if_neg (by omega)]
  rfl

/-- The continuation bytes that may follow the held ones. -/
theorem contRange_eq {held : List Byte} {lo hi : Byte} (h : (lo, hi) = (if held = [0xE0] then (0xA0, 0xBF)
      else if held = [0xED] then (0x80, 0x9F) else if held = [0xF0] then (0x90, 0xBF)
      else if held = [0xF4] then (0x80, 0x8F) else (0x80, 0xBF))) : contRange held = (lo.toNat, hi.toNat) := by
  unfold contRange
  split
  · next l =>
    have hl : ∀ n : Byte, [l] = [n] ↔ l.toNat = n.toNat := fun n => by rw [List.singleton_inj, BitVec.toNat_inj]
    simp only [hl] at h
    split <;> simp_all
  · next hne =>
    have hl : ∀ n : Byte, ¬ held = [n] := hne
    simp only [hl, ↓reduceIte, Prod.mk.injEq] at h
    obtain ⟨rfl, rfl⟩ := h
    rfl

section
variable {hb : HoldBack} {x lo hi : Byte} (hne : hb.held ≠ []) (hr : contRange hb.held = (lo.toNat, hi.toNat))
include hne hr

theorem holdStep_held : holdStep hb x = if lo ≤ x ∧ x ≤ hi then
      if hb.need ≤ 1 then (hb.held ++ [x], ⟨[], 0⟩) else ([], ⟨hb.held ++ [x], hb.need - 1⟩)
    else ([0xEF, 0xBF, 0xBD] ++ (holdStep ⟨[], 0⟩ x).1, (holdStep ⟨[], 0⟩ x).2) := by
  unfold holdStep
  split
  · next h => exact absurd h hne
  · rw [hr]
    rfl

end

end Sys2Proof.Machine
end

section
/-! SUPPORT. EMIT by the state of its descriptor (R209, R210, R212, R325). -/

namespace Sys2Proof.Machine

open Sys2Proof.Safety

section
variable {s t : State} {h : Hub} {env va d id slot : Nat} {bs out : List Byte}

/-! ### The branch that a token takes -/

theorem State.tokenScrub_clean (hb : s.bad = []) (ks : List Nat) (slot id : Nat) : s.tokenScrub ks slot id = s := by
  simp only [State.tokenScrub, State.scrub_clean hb]

section
variable (hb : s.bad = []) (hslot : slot = field s d 0 1 % 8)
include hb hslot

/-- Where no read meets an error, the token's own reads change nothing. -/
theorem State.emit_clean : s.emit h env va d id =
    if field s d 1 1 = 2 then (s, .ok 4)
    else if field s d 1 1 = 0 ∧ id = s.cfgLE (vocOff slot + 4) 4 then
      s.emitOpening h va d (if (s.holdOf d).held.isEmpty then [] else fffd)
    else if field s d 1 1 = 1 ∧ id = s.cfgLE (vocOff slot + 8) 4 then
      ((s.callClose h env va d).1, .ok (s.callClose h env va d).2)
    else if field s d 1 1 = 1 then s.emitCapturing h va d (s.tokenBytes slot id)
    else s.emitText h d (s.tokenBytes slot id) := by
  subst hslot
  rw [State.emit_eq]
  dsimp only
  rw [State.tokenScrub_clean hb]
  rfl

theorem State.emit_called (hst : field s d 1 1 = 2) : s.emit h env va d id = (s, .ok 4) := by
  rw [State.emit_clean hb hslot, if_pos hst]

theorem State.emit_opening (hst : field s d 1 1 = 0) (hid : id = s.cfgLE (vocOff slot + 4) 4) :
    s.emit h env va d id = s.emitOpening h va d (if (s.holdOf d).held.isEmpty then [] else fffd) := by
  rw [State.emit_clean hb hslot, if_neg (by omega), if_pos ⟨hst, hid⟩]

theorem State.emit_text (hst : field s d 1 1 = 0) (hid : id ≠ s.cfgLE (vocOff slot + 4) 4) :
    s.emit h env va d id = s.emitText h d (s.tokenBytes slot id) := by
  rw [State.emit_clean hb hslot, if_neg (by omega), if_neg fun h => hid h.2, if_neg (by omega), if_neg (by omega)]

theorem State.emit_closing (hst : field s d 1 1 = 1) (hid : id = s.cfgLE (vocOff slot + 8) 4) :
    s.emit h env va d id = ((s.callClose h env va d).1, .ok (s.callClose h env va d).2) := by
  rw [State.emit_clean hb hslot, if_neg (by omega), if_neg (by omega), if_pos ⟨hst, hid⟩]

theorem State.emit_capturing (hst : field s d 1 1 = 1) (hid : id ≠ s.cfgLE (vocOff slot + 8) 4) :
    s.emit h env va d id = s.emitCapturing h va d (s.tokenBytes slot id) := by
  rw [State.emit_clean hb hslot, if_neg (by omega), if_neg (by omega), if_neg fun h => hid h.2, if_pos hst]

end

/-! ### Text -/

theorem emitResult_call (status n : Nat) : emitResult status n 0 = BitVec.ofNat 64 (status + 256 * n) := by
  rw [emitResult, Nat.mul_zero, Nat.add_zero]

theorem emitResult_text (n : Nat) : emitResult 0 n 0 = BitVec.ofNat 64 (256 * n) := by
  rw [emitResult_call, Nat.zero_add]

theorem emitResult_future (id : Nat) : emitResult 2 0 id = BitVec.ofNat 64 (2 + 2 ^ 32 * id) := rfl

/-- Where bytes go in the text ring (R206). -/
def textPuts (s : State) (d : Nat) (bs : List Byte) : List (Word × Byte) :=
  bs.mapIdx fun i x => (BitVec.ofNat 64 (field s d 64 8) + BitVec.ofNat 64 ((field s d 76 4 + i) % field s d 72 4), x)

theorem State.textPut_ok (hp : s.hubPuts h (textPuts s d bs) = (t, .ok ())) :
    s.textPut h d bs = (t.setSd d 76 4 ((field s d 76 4 + bs.length) % 2 ^ 32), .ok ()) :=
  congrArg (fun x => Eng.andThen x fun (u : State) (_ : Unit) =>
    ((u.setSd d 76 4 ((field s d 76 4 + bs.length) % 2 ^ 32), .ok ()) : State × Eng Unit)) hp

theorem holdOf_eq (s : State) (d : Nat) :
    s.holdOf d = ⟨s.mem.readBytes (d + 4) (Nat.min 3 (field s d 2 1)), field s d 3 1⟩ := rfl

theorem State.holdOf_none (h0 : field s d 2 1 = 0) : (s.holdOf d).held.isEmpty = true := by
  rw [holdOf_eq, h0]
  rfl

theorem State.holdOf_some (h0 : field s d 2 1 ≠ 0) : (s.holdOf d).held.isEmpty = false := by
  rw [List.isEmpty_eq_false_iff, ← List.length_pos_iff, holdOf_eq, Mem.length_readBytes]
  exact Nat.lt_min.mpr ⟨by decide, Nat.pos_of_ne_zero h0⟩

theorem State.emitText_full (hr : s.textFree d < 3 * (bs.length + 3)) : s.emitText h d bs = (s, .ok 3) :=
  if_pos hr

theorem State.emitText_ok {o : List Byte × HoldBack} (hr : 3 * (bs.length + 3) ≤ s.textFree d) (ho : o = holdAll (s.holdOf d) bs)
    (hp : s.hubPuts h (textPuts s d o.1) = (t, .ok ())) :
    s.emitText h d bs = (textKept t d (field s d 76 4 + o.1.length) o.2, .ok (BitVec.ofNat 64 (256 * o.1.length))) := by
  subst ho
  rw [State.emitText, if_neg (by omega), State.textPut_ok hp, State.andThen_ok, emitResult_text]
  rfl

/-! ### A call begins -/

theorem State.callOpened_eq (s : State) (h : Hub) (va d p : Nat) :
    callOpened s h va d p = (s.setSd d 76 4 (p % 2 ^ 32)).callBegun h va d := by
  obtain ⟨t, ht⟩ : ∃ t, t = ((s.setSd d 76 4 (p % 2 ^ 32)).setHold d ⟨[], 0⟩).setSd d 1 1 1 := ⟨_, rfl⟩
  have hcut : t.cut = (t.memWrite (d + 100) [0, 0, 0, 0]).cut := (t.memWrite_cut ..).symm
  have hopened : callOpened s h va d p =
      { t.memWrite (d + 100) [0, 0, 0, 0] with cut := t.cut.filter (· != (h.asid, va)) } := ht ▸ rfl
  rw [hopened, hcut, State.callBegun, ← ht]
  rfl

theorem State.emitOpening_full (hr : s.textFree d < out.length) : s.emitOpening h va d out = (s, .ok 3) := if_pos hr

theorem State.emitOpening_ok (hr : out.length ≤ s.textFree d) (hp : s.hubPuts h (textPuts s d out) = (t, .ok ())) :
    s.emitOpening h va d out =
      (callOpened t h va d (field s d 76 4 + out.length), .ok (BitVec.ofNat 64 (1 + 256 * out.length))) := by
  rw [State.emitOpening, if_neg (by omega), State.textPut_ok hp, State.andThen_ok, emitResult_call, State.callOpened_eq]

/-! ### A call goes on -/

theorem State.captured_eq (s : State) (h : Hub) (va d clen n all : Nat) : s.captured h va d clen n all =
    let u := s.memWrite (d + 100) (leBytes (clen + n) 4)
    { u with cut := if n < all ∧ (h.asid, va) ∉ u.cut then u.cut ++ [(h.asid, va)] else u.cut } := by
  unfold State.captured State.setSd
  dsimp only
  simp only [Bool.and_eq_true, decide_eq_true_eq, Bool.not_eq_true', List.contains_eq_mem, decide_eq_false_iff_not]
  split_ifs <;> rfl

theorem State.emitCapturing_ok {n : Nat} {took : List Byte} (hn : n = field s d 100 4) (ht : took = bs.take (field s d 96 4 - n))
    (hp : s.hubPuts h (spread (BitVec.ofNat 64 (field s d 88 8 + n)) took) = (t, .ok ())) :
    s.emitCapturing h va d bs = (t.captured h va d n took.length bs.length, .ok (BitVec.ofNat 64 (1 + 256 * took.length))) := by
  subst hn ht
  rw [State.emitCapturing]
  simp only [State.sd_eq_field]
  rw [hp, State.andThen_ok, emitResult_call]

/-! ### A call closes -/

theorem State.freeFuture_none {n i : Nat}
    (hall : ∀ j, i ≤ j → j < i + n → (mgetD s.futures j Future.reset).state ≠ .free) : s.freeFuture n i = none := by
  induction n generalizing i with
  | zero => rfl
  | succ n ih =>
    rw [State.freeFuture, State.future, if_neg (hall i le_rfl (by omega))]
    exact ih fun j h1 h2 => hall j (by omega) (by omega)

theorem State.freeFuture_lowest {n i f : Nat} (h1 : i ≤ f) (h2 : f < i + n) (hf : (mgetD s.futures f Future.reset).state = .free)
    (hlow : ∀ j, i ≤ j → j < f → (mgetD s.futures j Future.reset).state ≠ .free) : s.freeFuture n i = some f := by
  induction n generalizing i with
  | zero => omega
  | succ n ih =>
    rw [State.freeFuture, State.future]
    rcases Nat.eq_or_lt_of_le h1 with rfl | hlt
    · exact if_pos hf
    · rw [if_neg (hlow i le_rfl hlt)]
      exact ih hlt (by omega) fun j hj => hlow j (by omega)

/-- The bytes of a call's record (R212). -/
theorem State.callRecord_eq (s : State) (h : Hub) (va d f : Nat) (g : BitVec 16) : s.callRecord h va d f g =
    ⟨leBytes f 2 ++ leBytes g.toNat 2 ++ leBytes (field s d 0 1 % 8) 1 ++ leBytes (if (h.asid, va) ∈ s.cut then 1 else 0) 1 ++
      [0, 0] ++ leBytes (field s d 100 4) 4 ++ leBytes (field s d 108 4) 4 ++ leBytes va 8 ++ leBytes (field s d 88 8) 8 ++
      leBytes h.asid 4 ++ List.replicate 28 0⟩ := by
  simp only [State.callRecord, List.contains_iff_mem]
  rfl

theorem State.callClose_none (hf : s.freeFuture 65535 1 = none) : s.callClose h env va d = (s, 5) := by
  rw [State.callClose, hf]
  rfl

theorem State.callClose_some {f : Nat} (hf : s.freeFuture 65535 1 = some f) :
    s.callClose h env va d = ((callClosed s h env va d f).mailboxPost, BitVec.ofNat 64 (2 + 2 ^ 32 * f)) := by
  rw [State.callClose, hf, callClosed]
  simp only [State.callRecord_eq, State.setSd, State.memWrite_cut, State.setFuture, State.future, State.sd_eq_field, nextGen,
    emitResult_future]
  rfl

end

end Sys2Proof.Machine
end

section
/-! SUPPORT. EMIT at S (R315, R325). -/

namespace Sys2Proof.Machine

open Sys2Proof.Safety

/-- EMIT of a token that its vocabulary has lands the token post's answer (R325). -/
theorem execEmit_lands {p : Dep} {d a b : SReg} {s s1 t : State} {h : Hub} {g id : Nat} {v : Word} (hc : CanSerialise p [a, b] s)
    (hid : (s.ctx.reg b).toNat = id) (hlt : id < 2 ^ 32) (hd : Descriptor (popped p s) (.emit p d a b) (s.ctx.reg a) s1 h g)
    (hvoc : id < s1.cfgLE (vocOff (field s1 g 0 1 % 8)) 4)
    (he : s1.emit h s.ctx.env (s.ctx.reg a).toNat g id = (t, .ok v)) :
    exec (.emit p d a b) s = .next (serialDone (.emit p d a b) p d v s t) := by
  obtain ⟨hb0, hb1⟩ := wfld_halves (hid.trans_lt hlt)
  have hs1 := servedCtx_of_hubFrame (hubFrame_of_descriptor hd)
  have ht : t.servedCtx = s1.servedCtx := by
    have hf := s1.emit_servedCtx h s.ctx.env (s.ctx.reg a).toNat g id
    rwa [he] at hf
  have hpc : t.ctx.pc = s.ctx.pc := (pc_of_servedCtx (ht.trans hs1)).trans (popped_pc p s)
  have henv : s1.ctx.env = s.ctx.env := (env_of_servedCtx hs1).trans (popped_env p s)
  have hreg : ∀ x, s1.ctx.reg x = s.ctx.reg x := fun x => (reg_of_servedCtx hs1 x).trans (popped_reg p s x)
  have hbad : decide (wfld ((popped p s).ctx.reg b) 32 32 ≠ 0) = false := by
    rw [popped_reg, hb0]
    rfl
  dsimp only [exec]
  rw [execEmit, tWord_ready hc hbad, popped_reg, hd]
  dsimp only
  rw [hreg, hreg, hb1, hid, henv, he, State.sd_eq_field, if_neg (Nat.not_le.mpr hvoc), Eng.body_ok]
  exact finish_serialDone _ p d v hpc

/-- Settles O21: each clause is the branch of EMIT that it is about; the holdback table is its rows. -/
theorem emitWord : Obligations.EmitWord := by
  refine ⟨fun p d a b s s1 h g id slot n prod bs hc hid hlt hd hslot hvoc hbs hn hprod => ?_, fun x hb bs =>
    ⟨by rw [holdAll_cons], by rw [holdAll_cons], fun hnil => ?_, fun lo hi hne hr => ?_⟩⟩
  · have hlands : ∀ {t v}, s1.emit h s.ctx.env (s.ctx.reg a).toNat g id = (t, .ok v) →
        exec (.emit p d a b) s = .next (serialDone (.emit p d a b) p d v s t) :=
      fun he => execEmit_lands hc hid hlt hd (hslot ▸ hvoc) he
    refine ⟨fun t v => hlands, fun hbad => ⟨fun hst => ?called, fun hst hopen => ⟨fun h0 => ?opens, fun h0 hr => ?held,
        fun h0 hr t hp => ?released⟩, fun hst hopen => ⟨fun hr => ?full, fun hr out t hout hp => ?text⟩,
      fun hst hclose took t htook hp => ?captured, fun hst hclose => ⟨fun hall => ?taken, fun f hf hfree hlow => ?closed⟩⟩⟩
    case called => exact hlands (State.emit_called hbad hslot hst)
    case opens =>
      refine hlands ?_
      have hp : s1.hubPuts h (textPuts s1 g []) = (s1, .ok ()) := rfl
      rw [State.emit_opening hbad hslot hst hopen, if_pos (State.holdOf_none h0), State.emitOpening_ok (Nat.zero_le _) hp, hprod]
      rfl
    case held =>
      refine hlands ((State.emit_opening hbad hslot hst hopen).trans ?_)
      rw [if_neg (by simp [State.holdOf_some h0]), State.emitOpening_full hr]
    case released =>
      subst hprod
      refine hlands ?_
      rw [State.emit_opening hbad hslot hst hopen, if_neg (by simp [State.holdOf_some h0]),
        State.emitOpening_ok (out := fffd) hr hp]
      rfl
    case full => exact hlands ((State.emit_text hbad hslot hst hopen).trans (State.emitText_full (hbs ▸ hr)))
    case text =>
      subst hprod hbs
      exact hlands ((State.emit_text hbad hslot hst hopen).trans (State.emitText_ok hr hout hp))
    case captured =>
      subst hbs
      rw [hlands ((State.emit_capturing hbad hslot hst hclose).trans (State.emitCapturing_ok hn htook hp)), State.captured_eq]
    case taken =>
      refine hlands ((State.emit_closing hbad hslot hst hclose).trans ?_)
      rw [State.callClose_none (State.freeFuture_none fun j h1 h2 => hall ⟨j, by omega⟩ (by simp [Fin.ext_iff]; omega))]
    case closed =>
      refine hlands ((State.emit_closing hbad hslot hst hclose).trans ?_)
      have hpos : 1 ≤ f.val := Nat.pos_of_ne_zero fun h0 => hf (Fin.ext h0)
      rw [State.callClose_some (State.freeFuture_lowest hpos (by omega) hfree fun j h1 h2 =>
        hlow ⟨j, by omega⟩ h2 (by simp [Fin.ext_iff]; omega))]
  · rw [holdStep_empty hnil]
    exact ⟨hold0_ascii, hold0_lead2, hold0_lead3, hold0_lead4, hold0_stray⟩
  · rw [holdStep_held hne (contRange_eq hr)]
    refine ⟨fun h1 h2 hneed => ?_, fun h1 h2 hneed => ?_, fun hout => if_neg fun hin => ?_⟩
    · rw [if_pos ⟨h1, h2⟩, if_pos hneed.le]
    · rw [if_pos ⟨h1, h2⟩, if_neg (Nat.not_le.mpr hneed)]
    · exact hout.elim (fun h => absurd hin.1 (BitVec.not_le.mpr h)) fun h => absurd hin.2 (BitVec.not_le.mpr h)

end Sys2Proof.Machine
end

section
/-! SUPPORT. What the integer words of S compute, in whole numbers (R224 to R228, R232, R233, R237). -/

namespace Sys2Proof.Machine

open Sys2Proof.Safety

/-! ### Sums, products and shifts -/

theorem sub_eq_ofInt (x y : Word) : x - y = BitVec.ofInt 64 (x.toInt - y.toInt) := by
  apply BitVec.eq_of_toInt_eq
  rw [BitVec.toInt_sub, BitVec.toInt_ofInt]

theorem signExtend_eq_ofInt {n : Nat} (i : BitVec n) : i.signExtend 64 = BitVec.ofInt 64 i.toInt := rfl

theorem add_signExtend_eq_ofInt {n : Nat} (x : Word) (i : BitVec n) :
    x + i.signExtend 64 = BitVec.ofInt 64 (x.toInt + i.toInt) := by
  rw [signExtend_eq_ofInt, BitVec.ofInt_add, BitVec.ofInt_toInt]

/-- A sign-extended number of units of `2 ^ k` bytes, as bytes. -/
theorem signExtend_shiftLeft_eq_ofInt {n : Nat} (i : BitVec n) (k : Nat) :
    i.signExtend 64 <<< k = BitVec.ofInt 64 (i.toInt * 2 ^ k) := by
  have h : BitVec.twoPow 64 k = BitVec.ofInt 64 (2 ^ k) := by
    apply BitVec.eq_of_toNat_eq
    rw [BitVec.toNat_twoPow, BitVec.toNat_ofInt]
    norm_cast
  rw [BitVec.shiftLeft_eq_mul_twoPow, BitVec.ofInt_mul, signExtend_eq_ofInt, h]

theorem shiftLeft_eq_ofNat (x : Word) (n : Nat) : x <<< n = BitVec.ofNat 64 (x.toNat * 2 ^ n) := by
  rw [← Nat.shiftLeft_eq]
  rfl

theorem shiftRight_eq_ofNat (x : Word) (n : Nat) : x >>> n = BitVec.ofNat 64 (x.toNat / 2 ^ n) := by
  apply BitVec.eq_of_toNat_eq
  have h : x.toNat / 2 ^ n < 2 ^ 64 := (Nat.div_le_self ..).trans_lt x.isLt
  rw [BitVec.toNat_ushiftRight, BitVec.toNat_ofNat, Nat.mod_eq_of_lt h, Nat.shiftRight_eq_div_pow]

theorem sshiftRight_eq_ofInt (x : Word) (n : Nat) : x.sshiftRight n = BitVec.ofInt 64 (x.toInt / 2 ^ n) := by
  rw [BitVec.sshiftRight_eq, Int.shiftRight_eq_div_pow]
  norm_cast

/-! ### Bitwise words -/

theorem ofNat_toNat_of {x : Word} {n : Nat} (h : x.toNat = n) : x = BitVec.ofNat 64 n := by
  rw [← h, BitVec.ofNat_toNat, BitVec.setWidth_eq]

/-! ### Comparisons -/

theorem b2w_eq_oneIf {b : Bool} {c : Prop} [Decidable c] (h : b = true ↔ c) : b2w b = oneIf c := by
  simp only [b2w, oneIf, h]

theorem minSigned_eq (x y : Word) : (if x.sle y then x else y) = BitVec.ofInt 64 (Min.min x.toInt y.toInt) := by
  rw [BitVec.sle_eq_decide]
  by_cases h : x.toInt ≤ y.toInt
  · simp [h]
  · simp [h, min_eq_right (not_le.mp h).le]

theorem maxSigned_eq (x y : Word) : (if y.sle x then x else y) = BitVec.ofInt 64 (Max.max x.toInt y.toInt) := by
  rw [BitVec.sle_eq_decide]
  by_cases h : y.toInt ≤ x.toInt
  · simp [h]
  · simp [h, max_eq_right (not_le.mp h).le]

theorem minUnsigned_eq (x y : Word) : (if x.ule y then x else y) = BitVec.ofNat 64 (Min.min x.toNat y.toNat) := by
  rw [BitVec.ule_eq_decide]
  by_cases h : x.toNat ≤ y.toNat
  · simp [h]
  · simp [h, min_eq_right (not_le.mp h).le]

theorem maxUnsigned_eq (x y : Word) : (if y.ule x then x else y) = BitVec.ofNat 64 (Max.max x.toNat y.toNat) := by
  rw [BitVec.ule_eq_decide]
  by_cases h : y.toNat ≤ x.toNat
  · simp [h]
  · simp [h, max_eq_right (not_le.mp h).le]

/-! ### Counts of bits -/

/-- Of the first `n` numbers, those below `k` are `min k n` many. -/
theorem countP_range_lt (k n : Nat) : (List.range n).countP (fun i => decide (i < k)) = min k n := by
  induction n with
  | zero => simp
  | succ n ih =>
    rw [List.range_succ, List.countP_append, ih, List.countP_singleton]
    by_cases h : n < k <;> simp only [h, decide_true, decide_false, if_true, Bool.false_eq_true, if_false] <;> omega

theorem countP_range_ge (k n : Nat) : (List.range n).countP (fun i => decide (k ≤ i)) = n - k := by
  have h := List.length_eq_countP_add_countP (fun i => decide (i < k)) (l := List.range n)
  simp only [decide_eq_true_eq, not_lt, countP_range_lt, List.length_range, min_def] at h
  split at h <;> omega

/-- The leading zeros are the powers of two above the number. -/
theorem clz_eq_countBits (x : Word) : clz x = countBits fun n => decide (x.toNat < 2 ^ n) := by
  by_cases h : x = 0
  · subst h
    decide
  · have hx : x.toNat ≠ 0 := fun h0 => h (BitVec.eq_of_toNat_eq h0)
    have hlog : ∀ n, x.toNat < 2 ^ n ↔ x.toNat.log2 + 1 ≤ n := fun n => (Nat.log2_lt hx).symm
    simp only [clz, countBits, if_neg h, hlog, countP_range_ge]
    congr 1
    omega

/-- The bit that `find?` meets first: below it no power of two fails to divide. -/
theorem dvd_iff_of_lowest {m t n : Nat} (ht : m.testBit t = true) (hlow : ∀ j < t, m.testBit j = false) :
    m % 2 ^ (n + 1) = 0 ↔ n < t := by
  constructor
  · intro h
    by_contra hn
    have hbit : (m % 2 ^ (n + 1)).testBit t = true := by
      rw [Nat.testBit_mod_two_pow, ht]
      simp
      omega
    simp [h] at hbit
  · intro h
    apply Nat.eq_of_testBit_eq
    intro i
    rw [Nat.testBit_mod_two_pow, Nat.zero_testBit]
    by_cases hi : i < n + 1
    · rw [hlow i (by omega), Bool.and_false]
    · simp [hi]

/-- The trailing zeros are the powers of two that divide the number. -/
theorem ctz_eq_countBits (x : Word) : ctz x = countBits fun n => decide (x.toNat % 2 ^ (n + 1) = 0) := by
  unfold ctz countBits
  cases h : (List.range 64).find? fun i => wbit x i with
  | none =>
    have h0 : x = 0 := by
      apply BitVec.eq_of_getLsbD_eq
      intro i hi
      simpa [wbit] using List.find?_eq_none.mp h i (List.mem_range.mpr hi)
    subst h0
    decide
  | some t =>
    obtain ⟨ht, hlow⟩ := List.find?_range_eq_some.mp h
    have hdvd : ∀ n, x.toNat % 2 ^ (n + 1) = 0 ↔ n < t := fun n =>
      dvd_iff_of_lowest ht fun j hj => by simpa [wbit, BitVec.getLsbD] using hlow.2 j hj
    simp only [hdvd, countP_range_lt, Option.getD_some]
    congr 1
    have := List.mem_range.mp hlow.1
    exact (min_eq_left this.le).symm

theorem popc_eq_countBits (x : Word) : popc x = countBits fun n => decide (x.toNat / 2 ^ n % 2 = 1) := by
  unfold popc countBits
  rw [← List.countP_eq_length_filter]
  congr 2
  funext n
  rw [wbit, BitVec.getLsbD, Nat.testBit_eq_decide_div_mod_eq]

/-! ### Division -/

theorem divS_eq (x y : Word) :
    divS x y = if y = 0 then BitVec.ofInt 64 (-1) else BitVec.ofInt 64 (x.toInt.tdiv y.toInt) := by
  unfold divS
  split
  · rfl
  · apply BitVec.eq_of_toInt_eq
    rw [BitVec.toInt_sdiv, BitVec.toInt_ofInt]

theorem divU_eq (x y : Word) :
    divU x y = if y = 0 then BitVec.ofInt 64 (-1) else BitVec.ofNat 64 (x.toNat / y.toNat) := by
  unfold divU
  split
  · rfl
  · exact ofNat_toNat_of (BitVec.toNat_udiv ..)

theorem remS_eq (x y : Word) : remS x y = if y = 0 then x else BitVec.ofInt 64 (x.toInt.tmod y.toInt) := by
  unfold remS
  split
  · rfl
  · rw [← BitVec.toInt_srem, BitVec.ofInt_toInt]

theorem remU_eq (x y : Word) : remU x y = if y = 0 then x else BitVec.ofNat 64 (x.toNat % y.toNat) := by
  unfold remU
  split
  · rfl
  · exact ofNat_toNat_of (BitVec.toNat_umod ..)

end Sys2Proof.Machine
end

section
/-! SUPPORT. The integer words, the divisions, the branches and the jumps of S (R222 to R228, R232, R233, R237). -/

namespace Sys2Proof.Machine

open Sys2Proof.Safety

/-! ### Integer words -/

/-- A word of scalar registers that reads nothing early lands its value. -/
theorem sAlu_lands {i : Instr} {p : Dep} {d : SReg} {l : List SReg} {lat : Nat} {f : State → Word × Fl} {s : State}
    (hc : CanIssue p s) (hs : Settled l s) :
    sAlu i p d l lat f s = .next (landed s i p d (f (popped p s)).1 (f (popped p s)).2 lat (s.ctx.pc + 4)) := by
  have he : (popped p s).earlyS l = none := (State.earlyS_popToks ..).trans hs
  rw [sAlu, sWord_ready hc (by simp), ← popped, he]
  dsimp only
  rw [finish_landS]
  simp only [State.pc4, popped, State.withCtx_ctx, Ctx.popToks_pc]

/-- The answer `x` of the integer word `i` lands the value of its row. -/
def LandsRow (x : Res) (i : Instr) (r : SRow) (s : State) : Prop :=
  x = .next (landed s i r.p r.d (r.val s) 0 r.lat (s.ctx.pc + 4))

/-- A row of two registers is what `alu2` lands. -/
theorem alu2_landsRow {i : Instr} {p : Dep} {d a b : SReg} {lat : Nat} {f g : Word → Word → Word} {s : State}
    (hc : CanIssue p s) (hs : Settled [a, b] s) (hv : ∀ x y, f x y = g x y) :
    LandsRow (alu2 i p d a b lat f s) i (row2 p d a b lat g) s := by
  rw [LandsRow, alu2, sAlu_lands hc hs]
  simp only [popped_reg, hv, row2]

/-- A row of one register is what `alu1` lands. -/
theorem alu1_landsRow {i : Instr} {p : Dep} {d a : SReg} {lat : Nat} {f g : Word → Word} {s : State}
    (hc : CanIssue p s) (hs : Settled [a] s) (hv : ∀ x, f x = g x) :
    LandsRow (alu1 i p d a lat f s) i (row1 p d a lat g) s := by
  rw [LandsRow, alu1, sAlu_lands hc hs]
  simp only [popped_reg, hv, row1]

theorem settled_nil (s : State) : Settled [] s := by
  simp [Settled, State.earlyS, Ctx.early, Ctx.firstPending]

/-- A row without registers is what `sAlu` lands. -/
theorem sAlu_landsRow {i : Instr} {p : Dep} {d : SReg} {lat : Nat} {f : State → Word × Fl} {g : State → Word} {s : State}
    (hc : CanIssue p s) (hv : f (popped p s) = (g s, 0)) :
    LandsRow (sAlu i p d [] lat f s) i ⟨p, d, [], lat, g⟩ s := by
  rw [LandsRow, sAlu_lands hc (settled_nil s), hv]

/-- Settles O1: every integer word is `alu2`, `alu1` or `sAlu`, and its function is its row's. -/
theorem integerWordsLand : Obligations.IntegerWordsLand := by
  intro i r s hr hc hs
  change LandsRow (exec i s) i r s
  cases i <;> cases hr <;> dsimp only [exec]
  case add => exact alu2_landsRow hc hs fun x y => by simp [BitVec.ofNat_add]
  case sub => exact alu2_landsRow hc hs sub_eq_ofInt
  case mul => exact alu2_landsRow hc hs fun x y => by simp [BitVec.ofNat_mul]
  case mulh | mulhu => exact alu2_landsRow hc hs fun _ _ => rfl
  case and => exact alu2_landsRow hc hs fun x y => ofNat_toNat_of (BitVec.toNat_and ..)
  case or => exact alu2_landsRow hc hs fun x y => ofNat_toNat_of (BitVec.toNat_or ..)
  case xor => exact alu2_landsRow hc hs fun x y => ofNat_toNat_of (BitVec.toNat_xor ..)
  case sll => exact alu2_landsRow hc hs fun x y => shiftLeft_eq_ofNat x _
  case srl => exact alu2_landsRow hc hs fun x y => shiftRight_eq_ofNat x _
  case sra => exact alu2_landsRow hc hs fun x y => sshiftRight_eq_ofInt x _
  case slt => exact alu2_landsRow hc hs fun x y => b2w_eq_oneIf BitVec.slt_iff_toInt_lt
  case sltu => exact alu2_landsRow hc hs fun x y => b2w_eq_oneIf BitVec.ult_iff_lt
  case min => exact alu2_landsRow hc hs minSigned_eq
  case max => exact alu2_landsRow hc hs maxSigned_eq
  case minu => exact alu2_landsRow hc hs minUnsigned_eq
  case maxu => exact alu2_landsRow hc hs maxUnsigned_eq
  case clz => exact alu1_landsRow hc hs clz_eq_countBits
  case ctz => exact alu1_landsRow hc hs ctz_eq_countBits
  case popc => exact alu1_landsRow hc hs popc_eq_countBits
  case addi => exact alu1_landsRow hc hs fun x => add_signExtend_eq_ofInt x _
  case andi => exact alu1_landsRow hc hs fun x => ofNat_toNat_of (BitVec.toNat_and ..)
  case ori => exact alu1_landsRow hc hs fun x => ofNat_toNat_of (BitVec.toNat_or ..)
  case xori => exact alu1_landsRow hc hs fun x => ofNat_toNat_of (BitVec.toNat_xor ..)
  case slti =>
    exact alu1_landsRow hc hs fun x => b2w_eq_oneIf (by rw [BitVec.slt_iff_toInt_lt, BitVec.toInt_signExtend_of_le (by decide)])
  case slli => exact alu1_landsRow hc hs fun x => shiftLeft_eq_ofNat x _
  case srli => exact alu1_landsRow hc hs fun x => shiftRight_eq_ofNat x _
  case srai => exact alu1_landsRow hc hs fun x => sshiftRight_eq_ofInt x _
  case lui => exact sAlu_landsRow hc (by rw [signExtend_shiftLeft_eq_ofInt]; rfl)
  case auipc => exact sAlu_landsRow hc (by rw [popped_pc, signExtend_shiftLeft_eq_ofInt]; rfl)
  case getid =>
    refine sAlu_landsRow hc ?_
    simp only [State.ident, popped, State.core, State.withCtx_key, State.withCtx_ctx, Ctx.popToks_thread, Ctx.popToks_team,
      Ctx.popToks_first, Ctx.popToks_count] <;> rfl

/-! ### Divisions -/

/-- A division word past S's own checks. -/
theorem divWord_ready {i : Instr} {p : Dep} {d a b : SReg} {f : Word → Word → Word} {s : State} (hc : CanIssue p s) :
    divWord i p d a b f s = Body.finish
      (if s.now < (s.coreAt (s.key / 4)).sdiv then .hold true false
       else (s.earlyS [a, b]).elim
         (.done ((popped p s).landS i p d (f (s.ctx.reg a) (s.ctx.reg b)) 0 22).takeDiv (s.ctx.pc + 4))
         fun e => .trap (earlyTrap e)) s := by
  have hb : (popped p s).divBusy = decide (s.now < (s.coreAt (s.key / 4)).sdiv) := rfl
  have he : (popped p s).earlyS [a, b] = s.earlyS [a, b] := State.earlyS_popToks ..
  rw [divWord, sWord_ready hc (by simp), ← popped]
  simp only [hb, decide_eq_true_eq, he, popped_reg]
  cases s.earlyS [a, b] <;> simp [State.pc4, popped]

/-- The answer `x` of the division word `i` is what the statement says at its row. -/
def DividesRow (x : Res) (i : Instr) (r : SRow) (s : State) : Prop :=
  ((s.coreAt (s.key / 4)).sdiv ≤ s.now → Settled r.srcs s →
    x = .next (withDivider s (landed s i r.p r.d (r.val s) 0 r.lat (s.ctx.pc + 4)))) ∧
  (s.now < (s.coreAt (s.key / 4)).sdiv → x = .next (heldAt true s))

/-- A row is what `divWord` does with its function. -/
theorem divWord_dividesRow {i : Instr} {p : Dep} {d a b : SReg} {f g : Word → Word → Word} {s : State}
    (hc : CanIssue p s) (hv : ∀ x y, f x y = g x y) :
    DividesRow (divWord i p d a b f s) i (row2 p d a b 22 g) s := by
  refine ⟨fun hfree hs => ?_, fun hbusy => ?_⟩
  · have hs' : s.earlyS [a, b] = none := hs
    rw [divWord_ready hc, if_neg (Nat.not_lt.mpr hfree), hs', hv]
    exact finish_landS_takeDiv ..
  · rw [divWord_ready hc, if_pos hbusy, finish_hold (by simp)]

/-- Settles O2: every division word is `divWord` with its row's function. -/
theorem divisionWords : Obligations.DivisionWords := by
  intro i r s hr hc
  change DividesRow (exec i s) i r s
  cases i <;> cases hr <;> dsimp only [exec]
  case div => exact divWord_dividesRow hc divS_eq
  case divu => exact divWord_dividesRow hc divU_eq
  case rem => exact divWord_dividesRow hc remS_eq
  case remu => exact divWord_dividesRow hc remU_eq

/-! ### Branches and jumps -/

/-- A signed distance in words is shifted to bytes. -/
theorem signExtend_shiftLeft_eq_wordsAway {n : Nat} (o : BitVec n) : o.signExtend 64 <<< 2 = wordsAway o.toInt := by
  rw [signExtend_shiftLeft_eq_ofInt, wordsAway, mul_comm]
  rfl

/-- A word that completes as it retires, and goes on at `pc`. -/
theorem finish_completeS (p : Dep) (s s0 : State) (pc : Word) :
    (Body.done ((popped p s).completeS p) pc).finish s0 = .next (issued s (completed p pc s.ctx)) := by
  simp only [finish_done, State.completeS, popped, State.retire, State.withCtx, State.markS_eq, issued, completed,
    Ctx.popToks_nextId, Ctx.complete_retired, Ctx.complete_nextId, Ctx.popToks_retired]

/-- The answer `x` of a branch goes where its row says. -/
def Branches (x : Res) (r : BRow) (s : State) : Prop :=
  x = .next (issued s (completed r.p
    (if r.taken (s.ctx.reg r.a) (s.ctx.reg r.b) then s.ctx.pc + wordsAway r.o.toInt else s.ctx.pc + 4) s.ctx))

/-- A row is what `branch` does with its condition. -/
theorem branch_branches {i : Instr} {p : Dep} {a b : SReg} {o : BitVec 12} {c t : Word → Word → Bool} {s : State}
    (hc : CanIssue p s) (hs : Settled [a, b] s) (ht : ∀ x y, c x y = t x y) :
    Branches (branch i p a b o c s) ⟨p, a, b, o, t⟩ s := by
  have he : (popped p s).earlyS [a, b] = none := (State.earlyS_popToks ..).trans hs
  rw [Branches, branch, sWord_ready hc (by simp), ← popped, he]
  dsimp only
  rw [finish_completeS]
  simp only [popped_reg, ht, popped_pc, State.pc4, signExtend_shiftLeft_eq_wordsAway]

/-- JAL lands the next word's address and goes to its target. -/
theorem jal_lands {p : Dep} {d : SReg} {o : BitVec 17} {s : State} (hc : CanIssue p s) :
    exec (.jal p d o) s = .next (landed s (.jal p d o) p d (s.ctx.pc + 4) 0 1 (s.ctx.pc + wordsAway o.toInt)) := by
  dsimp only [exec]
  rw [execJal, sWord_ready hc (by simp), ← popped, finish_landS, State.pc4, popped_pc, signExtend_shiftLeft_eq_wordsAway]

/-- JALR reads its target before the link lands. -/
theorem jalr_lands {p : Dep} {d a : SReg} {imm : BitVec 12} {s : State} (hc : CanIssue p s) (hs : Settled [a] s) :
    exec (.jalr p d a imm) s = .next (landed s (.jalr p d a imm) p d (s.ctx.pc + 4) 0 1
      (BitVec.ofInt 64 ((s.ctx.reg a).toInt + imm.toInt))) := by
  have he : (popped p s).earlyS [a] = none := (State.earlyS_popToks ..).trans hs
  dsimp only [exec]
  rw [execJalr, sWord_ready hc (by simp), ← popped, he]
  dsimp only
  rw [finish_landS, State.pc4, popped_pc, popped_reg, add_signExtend_eq_ofInt]

theorem beq_eq_decide_toNat (x y : Word) : (x == y) = decide (x.toNat = y.toNat) := by
  rw [Bool.beq_eq_decide_eq, decide_eq_decide, BitVec.toNat_eq]

/-- Settles O4: every branch is `branch` with its row's condition; the two jumps land their link. -/
theorem branchesAndJumps : Obligations.BranchesAndJumps := by
  refine ⟨fun i r s hr hc hs => ?_, fun p d o s hc => jal_lands hc, fun p d a imm s hc hs => jalr_lands hc hs⟩
  change Branches (exec i s) r s
  cases i <;> cases hr <;> dsimp only [exec]
  case beq => exact branch_branches hc hs beq_eq_decide_toNat
  case bne => exact branch_branches hc hs fun x y => by rw [bne, beq_eq_decide_toNat, decide_not]
  case blt => exact branch_branches hc hs fun x y => BitVec.slt_eq_decide
  case bge => exact branch_branches hc hs fun x y => BitVec.sle_eq_decide
  case bltu => exact branch_branches hc hs fun x y => rfl
  case bgeu => exact branch_branches hc hs fun x y => BitVec.ule_eq_decide

end Sys2Proof.Machine
end

section
/-! SUPPORT. Walks (R368 to R370): one table after the other, and the leaf at the end. -/

namespace Sys2Proof.Machine

open Sys2Proof.Safety

/-! ### The fields of an entry (R368, R369) -/

theorem pteFld_valid (e : Nat) : pteFld e 0 1 = e % 2 := by rw [pteFld, bitsOf, Nat.pow_zero, Nat.div_one, Nat.pow_one]
theorem pteFld_leaf (e : Nat) : pteFld e 1 1 = e / 2 % 2 := rfl
theorem pteFld_reserved (e : Nat) : pteFld e 2 18 = e / 4 % 2 ^ 18 := rfl
theorem pteFld_grow (e : Nat) : pteFld e 7 1 = e / 2 ^ 7 % 2 := rfl
theorem pteFld_frame (e : Nat) : pteFld e 20 40 = e / 2 ^ 20 % 2 ^ 40 := rfl
theorem pteFld_top {e : Nat} (h : e < 2 ^ 64) : pteFld e 60 4 = e / 2 ^ 60 := by
  rw [pteFld, bitsOf]
  omega

/-! ### Tables -/

theorem levelBits_fst (level : Nat) :
    (levelBits level).1 = if level = 3 then 42 else if level = 2 then 30 else if level = 1 then 21 else 12 := by
  unfold levelBits
  split_ifs <;> rfl

theorem levelBits_snd (level : Nat) : (levelBits level).2 = if level = 3 then 15 else if level = 2 then 12 else 9 := by
  unfold levelBits
  split_ifs <;> rfl

theorem tableGood_eq_false_iff (level tab : Nat) :
    tableGood level tab = false ↔ (!isDevice tab) = true ∨ tab % (8 * 2 ^ (levelBits level).2) ≠ 0 := by
  simp only [tableGood, Bool.and_eq_false_iff, Bool.not_eq_true', beq_eq_false_iff_ne, ne_eq]

/-- The model's choice among the levels names the entry of R368. -/
theorem entryLoc_eq (va level tab : Nat) : tab + 8 * bitsOf va
      (if level = 3 then 42 else if level = 2 then 30 else if level = 1 then 21 else 12)
      (if level = 3 then 15 else if level = 2 then 12 else 9) = entryLoc va level tab := by
  rw [entryLoc, bitsOf, levelBits_fst, levelBits_snd]

/-- How a walk ends at one table, or goes on at the table that its entry names by `next` (R368 to R370). -/
def atTable (m : Mem) (asid va level tab : Nat) (next : Nat → Walk) : Walk :=
  let loc := entryLoc va level tab
  let e := m.readLE loc 8
  if tableGood level tab = false then .malformed
  else if e % 2 = 0 then if level = 0 ∧ e / 2 ^ 7 % 2 = 1 then .grow loc (e / 256 * 256) else .page
  else if e / 2 % 2 = 1 then leafEnd m asid va level loc e
  else if level = 0 ∨ e / 4 % 2 ^ 18 ≠ 0 ∨ e / 2 ^ 60 ≠ 0 then .malformed
  else next (e / 2 ^ 20 % 2 ^ 40 * 4096)

theorem walkFrom_zero (m : Mem) (asid va tab : Nat) (next : Nat → Walk) :
    walkFrom m asid va 0 tab = atTable m asid va 0 tab next := by
  have h : walkFrom m asid va 0 tab =
      let loc := tab + 8 * bitsOf va 12 9
      let e := m.readLE loc 8
      if !(isDevice tab) ∨ tab % (8 * 2 ^ 9) ≠ 0 then .malformed
      else if pteFld e 0 1 = 0 then if 0 = 0 ∧ pteFld e 7 1 = 1 then .grow loc (e / 256 * 256) else .page
      else if pteFld e 1 1 = 1 then leafEnd m asid va 0 loc e
      else .malformed := rfl
  have hloc : tab + 8 * bitsOf va 12 9 = entryLoc va 0 tab := entryLoc_eq va 0 tab
  have hbits : (levelBits 0).2 = 9 := rfl
  rw [h, hloc]
  simp only [atTable, tableGood_eq_false_iff, hbits, pteFld_valid, pteFld_leaf, pteFld_grow]
  rw [if_pos (c := True ∨ _) (.inl trivial)]
  rfl

theorem walkFrom_succ (m : Mem) (asid va l tab : Nat) :
    walkFrom m asid va (l + 1) tab = atTable m asid va (l + 1) tab (walkFrom m asid va l) := by
  have h : walkFrom m asid va (l + 1) tab =
      let lo := if l + 1 = 3 then 42 else if l + 1 = 2 then 30 else if l + 1 = 1 then 21 else 12
      let n := if l + 1 = 3 then 15 else if l + 1 = 2 then 12 else 9
      let loc := tab + 8 * bitsOf va lo n
      let e := m.readLE loc 8
      if !(isDevice tab) ∨ tab % (8 * 2 ^ n) ≠ 0 then .malformed
      else if pteFld e 0 1 = 0 then if l + 1 = 0 ∧ pteFld e 7 1 = 1 then .grow loc (e / 256 * 256) else .page
      else if pteFld e 1 1 = 1 then leafEnd m asid va (l + 1) loc e
      else if pteFld e 2 18 ≠ 0 ∨ pteFld e 60 4 ≠ 0 then .malformed
      else walkFrom m asid va l (pteFld e 20 40 * 4096) := rfl
  rw [h]
  dsimp only
  rw [entryLoc_eq]
  simp only [atTable, tableGood_eq_false_iff, levelBits_snd, pteFld_valid, pteFld_leaf, pteFld_grow, pteFld_reserved, pteFld_frame,
    pteFld_top (m.readLE_lt _ 8), Nat.succ_ne_zero, false_or]

/-- A walk that has followed `n` pointers goes on at the table that the last of them names. -/
theorem walkFrom_tableAfter {m : Mem} {asid va root n tab : Nat} (h : tableAfter m va root n = some tab) :
    walkFrom m asid va 3 root = walkFrom m asid va (3 - n) tab := by
  induction n generalizing tab with
  | zero =>
    cases h
    rfl
  | succ n ih =>
    obtain ⟨t, ht, hnext⟩ := Option.bind_eq_some_iff.mp h
    dsimp only at hnext
    split at hnext
    · next hgo =>
      obtain ⟨hgood, hn, he, hres, htop⟩ := hgo
      cases hnext
      have hv : ¬ m.readLE (entryLoc va (3 - n) t) 8 % 2 = 0 := by omega
      have hp : ¬ m.readLE (entryLoc va (3 - n) t) 8 / 2 % 2 = 1 := by omega
      have hr : ¬ (3 - n = 0 ∨ m.readLE (entryLoc va (3 - n) t) 8 / 4 % 2 ^ 18 ≠ 0 ∨
          m.readLE (entryLoc va (3 - n) t) 8 / 2 ^ 60 ≠ 0) := by omega
      have hl : 3 - n = 3 - (n + 1) + 1 := by omega
      rw [ih ht, hl, walkFrom_succ, ← hl, atTable]
      rw [if_neg (by simp [hgood]), if_neg hv, if_neg hp, if_neg hr]
    · cases hnext

/-! ### Leaves -/

/-- What a leaf of the page at `base` gives for one address (R369). -/
theorem leafTlb_use (e asid base size va : Nat) (want : Want) (priv : Bool) :
    (leafTlb e asid base size).use va want priv =
      if leafLets e want priv = true then .ok (e / 2 ^ 20 % 2 ^ 40 * 4096 + (va - base)) (BitVec.ofNat 12 (e / 256))
      else .fault 12 false := by
  have hgen : BitVec.ofNat 12 (e / 2 ^ 8 % 2 ^ 12) = BitVec.ofNat 12 (e / 256) :=
    BitVec.eq_of_toNat_eq (by simp only [BitVec.toNat_ofNat]; omega)
  have hlets : (leafTlb e asid base size).allows want priv = leafLets e want priv := by
    cases want <;> rfl
  rw [Tlb.use, hlets]
  simp only [leafTlb, pteFld, bitsOf, hgen]

/-- The entries of a group give the same rights and the same generation, each its own page. -/
theorem leafLets_of_group {e e0 i : Nat} (h : e = e0 + i * 2 ^ 20) (want : Want) (priv : Bool) :
    leafLets e0 want priv = leafLets e want priv := by
  have h2 : e0 / 4 % 2 = e / 4 % 2 := by omega
  have h3 : e0 / 8 % 2 = e / 8 % 2 := by omega
  have h4 : e0 / 16 % 2 = e / 16 % 2 := by omega
  have h5 : e0 / 32 % 2 = e / 32 % 2 := by omega
  simp only [leafLets, h2, h3, h4, h5]

/-- The entries of a leaf line that agree (R368). -/
theorem groupOk_iff (m : Mem) (line : Nat) : groupOk m line = true ↔
    lineEntry m line 0 / 2 ^ 20 % 16 = 0 ∧ ∀ i < 16, lineEntry m line i = lineEntry m line 0 + i * 2 ^ 20 := by
  have h16 : m.readLE line 8 / 2 ^ 20 % 2 ^ 40 % 16 = m.readLE line 8 / 2 ^ 20 % 16 := by omega
  simp only [groupOk, lineEntry, pteFld_frame, h16, Bool.and_eq_true, beq_iff_eq, List.all_eq_true, List.mem_range, Nat.mul_zero,
    Nat.add_zero]

/-- What is malformed in a leaf itself (R368 to R370). -/
def LeafFaulty (level e : Nat) : Prop :=
  let pa := e / 2 ^ 20 % 2 ^ 40 * 4096
  e / 2 ^ 60 ≠ 0 ∨ level = 3 ∨ pa % leafSize level ≠ 0 ∨ (!(isDevice pa || isHost pa)) = true ∨ (e / 8 % 2 = 1 ∧ e / 4 % 2 = 0)

theorem leafBad_iff (m : Mem) (level loc e : Nat) : leafBad m level loc e = true ↔
    LeafFaulty level e ∨ e / 64 % 2 = 1 ∧ (level ≠ 0 ∨ ¬ groupOk m (loc / 128 * 128) = true) := by
  rw [groupOk_iff]
  simp only [leafBad, LeafFaulty, Bool.or_eq_true, Bool.and_eq_true, decide_eq_true_eq, beq_iff_eq, bne_iff_ne, Bool.not_eq_true',
    Bool.eq_false_iff, ne_eq, List.all_eq_true, List.mem_range, not_and_or, or_assoc]

/-- A malformed leaf, one of a 64 KiB group, and one of a page of its level's own size (R368). -/
theorem leafEnd_eq {m : Mem} {asid va level loc e : Nat} (he : e < 2 ^ 64) : leafEnd m asid va level loc e =
    if leafBad m level loc e = true then .malformed
    else if e / 64 % 2 = 1 then .leaf (leafTlb (lineEntry m (loc / 128 * 128) 0) asid (va / 65536 * 65536) 65536)
    else .leaf (leafTlb e asid (va / leafSize level * leafSize level) (leafSize level)) := by
  have h : leafEnd m asid va level loc e =
      let pa := e / 2 ^ 20 % 2 ^ 40 * 4096
      if pteFld e 60 4 ≠ 0 ∨ level = 3 ∨ pa % leafSize level ≠ 0 ∨ (!(isDevice pa || isHost pa)) = true ∨
          (e / 8 % 2 = 1 ∧ e / 4 % 2 = 0) ∨ (level ≠ 0 ∧ e / 64 % 2 = 1) then .malformed
      else if e / 64 % 2 = 1 then
        if groupOk m (loc / 128 * 128) = true then
          .leaf (leafTlb (lineEntry m (loc / 128 * 128) 0) asid (va / 65536 * 65536) 65536)
        else .malformed
      else .leaf (leafTlb e asid (va / leafSize level * leafSize level) (leafSize level)) := rfl
  have hc : (e / 2 ^ 60 ≠ 0 ∨ level = 3 ∨ e / 2 ^ 20 % 2 ^ 40 * 4096 % leafSize level ≠ 0 ∨
      (!(isDevice (e / 2 ^ 20 % 2 ^ 40 * 4096) || isHost (e / 2 ^ 20 % 2 ^ 40 * 4096))) = true ∨
      (e / 8 % 2 = 1 ∧ e / 4 % 2 = 0) ∨ (level ≠ 0 ∧ e / 64 % 2 = 1)) ↔ LeafFaulty level e ∨ (level ≠ 0 ∧ e / 64 % 2 = 1) := by
    simp only [LeafFaulty, or_assoc]
  rw [h, pteFld_top he]
  dsimp only
  by_cases hb : leafBad m level loc e = true
  · rw [if_pos hb]
    rcases (leafBad_iff ..).mp hb with hf | ⟨h6, hl | hg⟩
    · rw [if_pos (hc.mpr (.inl hf))]
    · rw [if_pos (hc.mpr (.inr ⟨hl, h6⟩))]
    · rw [if_pos h6, if_neg hg, ite_self]
  · obtain ⟨hf, hgrp⟩ := not_or.mp fun hx => hb ((leafBad_iff ..).mpr hx)
    rw [if_neg hb, if_neg fun hx => (hc.mp hx).elim hf fun ⟨hl, h6⟩ => hgrp ⟨h6, .inl hl⟩]
    by_cases h6 : e / 64 % 2 = 1
    · rw [if_pos h6, if_pos h6, if_pos (not_not.mp fun hg => hgrp ⟨h6, .inr hg⟩)]
    · rw [if_neg h6, if_neg h6]

/-- The entries of a group give the same rights and the same generation, each its own page. -/
theorem leafTlb_use_group {m : Mem} {asid va tab loc e : Nat} (hg : tableGood 0 tab = true)
    (hloc : loc = entryLoc va 0 tab) (he : e = m.readLE loc 8) (h : groupOk m (loc / 128 * 128) = true) (want : Want) (priv : Bool) :
    (leafTlb (lineEntry m (loc / 128 * 128) 0) asid (va / 65536 * 65536) 65536).use va want priv =
      if leafLets e want priv = true then .ok (e / 2 ^ 20 % 2 ^ 40 * 4096 + va % 4096) (BitVec.ofNat 12 (e / 256))
      else .fault 12 false := by
  have htab : tab % 4096 = 0 := by
    simp only [tableGood, Bool.and_eq_true, beq_iff_eq] at hg
    exact hg.2
  have hentry : loc = tab + 8 * (va / 4096 % 512) := hloc
  obtain ⟨h16, hall⟩ := (groupOk_iff m (loc / 128 * 128)).mp h
  have hi : va / 4096 % 16 < 16 := Nat.mod_lt _ (by decide)
  have hsum : e = lineEntry m (loc / 128 * 128) 0 + va / 4096 % 16 * 2 ^ 20 := by
    rw [← hall _ hi, he, lineEntry]
    congr 1
    omega
  have hgen : BitVec.ofNat 12 (lineEntry m (loc / 128 * 128) 0 / 256) = BitVec.ofNat 12 (e / 256) :=
    BitVec.eq_of_toNat_eq (by simp only [BitVec.toNat_ofNat]; omega)
  have hlt : e < 2 ^ 64 := he ▸ m.readLE_lt loc 8
  have hpa : lineEntry m (loc / 128 * 128) 0 / 2 ^ 20 % 2 ^ 40 * 4096 + (va - va / 65536 * 65536) =
      e / 2 ^ 20 % 2 ^ 40 * 4096 + va % 4096 := by omega
  rw [leafTlb_use, leafLets_of_group hsum, hgen, hpa]

/-- What a leaf gives for one address (R368, R369). -/
theorem leafEnd_use {m : Mem} {asid va level tab loc e : Nat} (hg : tableGood level tab = true)
    (hloc : loc = entryLoc va level tab) (he : e = m.readLE loc 8) (h : leafBad m level loc e = false) (want : Want) (priv : Bool) :
    (leafEnd m asid va level loc e).use va want priv =
      if leafLets e want priv = true then .ok (e / 2 ^ 20 % 2 ^ 40 * 4096 + va % leafSize level) (BitVec.ofNat 12 (e / 256))
      else .fault 12 false := by
  have hlt : e < 2 ^ 64 := he ▸ m.readLE_lt loc 8
  rw [leafEnd_eq hlt, if_neg (by simp [h])]
  by_cases h6 : e / 64 % 2 = 1
  · obtain ⟨-, hgrp⟩ := not_or.mp (fun hb => Bool.eq_false_iff.mp h ((leafBad_iff ..).mpr hb))
    obtain ⟨hl, hok⟩ := not_or.mp fun hb => hgrp ⟨h6, hb⟩
    obtain rfl := not_not.mp hl
    rw [if_pos h6]
    exact leafTlb_use_group hg hloc he (not_not.mp hok) want priv
  · have hoff : va - va / leafSize level * leafSize level = va % leafSize level := by
      rw [Nat.mod_eq_sub_mul_div, Nat.mul_comm]
    rw [if_neg h6, Walk.use, leafTlb_use, hoff]

/-! ### The end of a walk -/

/-- What a walk gives where it stands at a table (R370). -/
theorem walk_use_of_tableAfter {s : State} {root asid va n tab : Nat}
    (h : tableAfter s.mem va root n = some tab) :
    ∃ next, s.walk root asid va = atTable s.mem asid va (3 - n) tab next := by
  rw [State.walk, walkFrom_tableAfter h]
  obtain hz | ⟨l, hl⟩ : 3 - n = 0 ∨ ∃ l, 3 - n = l + 1 := by
    cases h3 : 3 - n
    · exact .inl rfl
    · exact .inr ⟨_, rfl⟩
  · rw [hz]
    exact ⟨fun _ => .page, walkFrom_zero ..⟩
  · rw [hl]
    exact ⟨_, walkFrom_succ ..⟩

/-- The first clause of the statement, at one table. -/
theorem atTable_use {m : Mem} {asid va level tab loc e pa : Nat} {want : Want} {priv : Bool} {w : Xl} {next : Nat → Walk}
    (hloc : loc = entryLoc va level tab) (he : e = m.readLE loc 8) (hpa : pa = e / 2 ^ 20 % 2 ^ 40 * 4096)
    (hw : w = (atTable m asid va level tab next).use va want priv) :
    (tableGood level tab = false → w = .fault 12 true) ∧
    (tableGood level tab = true → e % 2 = 0 →
      (level = 0 → e / 2 ^ 7 % 2 = 1 → w = if want = .write then .grow loc (e / 256 * 256) else .fault 11 false) ∧
      (level ≠ 0 ∨ e / 2 ^ 7 % 2 = 0 → w = .fault 11 false)) ∧
    (tableGood level tab = true → e % 4 = 1 → level = 0 ∨ e / 4 % 2 ^ 18 ≠ 0 ∨ e / 2 ^ 60 ≠ 0 → w = .fault 12 true) ∧
    (tableGood level tab = true → e % 4 = 3 →
      (leafBad m level loc e = true → w = .fault 12 true) ∧
      (leafBad m level loc e = false → leafLets e want priv = false → w = .fault 12 false) ∧
      (leafBad m level loc e = false → leafLets e want priv = true →
        w = .ok (pa + va % leafSize level) (BitVec.ofNat 12 (e / 256)))) := by
  have hlt : e < 2 ^ 64 := he ▸ m.readLE_lt loc 8
  subst hw hpa
  simp only [atTable, ← hloc, ← he]
  refine ⟨fun hg => by rw [if_pos hg]; rfl, fun hg h0 => ?_, fun hg h1 hbad => ?_, fun hg h3 => ?_⟩
  all_goals rw [if_neg (by simp [hg])]
  · rw [if_pos h0]
    refine ⟨fun hl h7 => by rw [if_pos ⟨hl, h7⟩]; rfl, fun hno => ?_⟩
    rw [if_neg fun hb => hno.elim (fun h => h hb.1) fun h => by omega]
    rfl
  · have hv : ¬ e % 2 = 0 := by omega
    have hp : ¬ e / 2 % 2 = 1 := by omega
    rw [if_neg hv, if_neg hp, if_pos hbad]
    rfl
  · have hv : ¬ e % 2 = 0 := by omega
    have hp : e / 2 % 2 = 1 := by omega
    rw [if_neg hv, if_pos hp]
    refine ⟨fun hb => ?_, fun hb hlets => ?_, fun hb hlets => ?_⟩
    · rw [leafEnd_eq hlt, if_pos hb]
      rfl
    · rw [leafEnd_use hg hloc he hb, hlets]
      rfl
    · rw [leafEnd_use hg hloc he hb, if_pos hlets]

end Sys2Proof.Machine
end

section
/-! SUPPORT. What a walk's end does to its context and its core (R234, R241, R361, R370, R382). -/

namespace Sys2Proof.Machine

open Sys2Proof.Safety

/-! ### The end of a context's walk -/

/-- The context as its walk ends: it issues the word again. -/
def Ctx.walkEnded (c : Ctx) (now : Nat) : Ctx := { c with block := .none, readyAt := now }

theorem State.walked_eq {s : State} {k : Nat} {c : Ctx} (h : s.ctxAt k = some c) : s.walked k = s.putCtx k (c.walkEnded s.now) :=
  State.updCtx_eq h _

/-- A walk's fault is its word's trap (R234, R241, R382). -/
theorem State.walkTrap_eq {s s1 : State} {k : Nat} {c c1 : Ctx} (t : Trap) (h : s.ctxAt k = some c) (hp : c.priv = false)
    (h1 : s1 = (s.putCtx k (c.walkEnded s.now)).drain k) (hc1 : s1.ctxAt k = some c1) :
    s.walkTrap k c t = s1.putCtx k (Safety.entered c1 t.cause t.tval t.tinfo c.pc) := by
  have hk : (s.putCtx k (c.walkEnded s.now)).ctxAt k = some (c.walkEnded s.now) := State.ctxAt_putCtx ..
  rw [State.walkTrap, State.walked_eq h, takeTrap_enters t c.pc hk hp, ← h1, State.updCtx_eq hc1]

theorem State.walkScrub_clean {s : State} (h : s.bad = []) (root va : Nat) : s.walkScrub root va = s := by
  unfold State.walkScrub
  induction walkReads s.mem va 3 root with
  | nil => rfl
  | cons a r ih => rw [List.foldl_cons, State.scrub_clean h, ih]

/-! ### PAGE_WALK_COMPLETE -/

section
variable {s : State} {k lane : Nat} {c : Ctx} {va : Word} {want : Want} (hk : s.ctxAt k = some c)
  (hw : c.block = .walk va want lane)
include hk hw

/-- The die lacks a sector of the walk and asks for it (R361). -/
theorem walkComplete_lacks (hb : s.blocked (dieOf (k / 4)) false (s.walkSecs c.root.toNat va.toNat) = true) :
    s.walkComplete k = s.queueAsks (dieOf (k / 4)) false (s.walkSecs c.root.toNat va.toNat) := by
  rw [State.walkComplete, hk]
  dsimp only
  rw [hw]
  dsimp only
  rw [if_pos hb]

section
variable (hb : s.blocked (dieOf (k / 4)) false (s.walkSecs c.root.toNat va.toNat) = false) (hbad : s.bad = [])
include hb hbad

/-- A translation enters the core's TLB, and the word goes on (R370). -/
theorem walkComplete_leaf {t : Tlb} {pa : Nat} {g : BitVec 12} (ht : s.walk c.root.toNat c.asid.toNat va.toNat = .leaf t)
    (hx : (s.walk c.root.toNat c.asid.toNat va.toNat).use va.toNat want c.priv = .ok pa g) :
    s.walkComplete k = ({ s with
      cores := mupd s.cores (k / 4) Core.reset fun x => { x with tlb := t :: x.tlb } } : State).putCtx k (c.walkEnded s.now) := by
  have hfill : (s.tlbFill (k / 4) t).ctxAt k = some c := hk
  rw [State.walkComplete, hk]
  dsimp only
  rw [hw]
  dsimp only
  rw [if_neg (by simp [hb]), State.walkScrub_clean hbad, hx, ht]
  exact State.walked_eq hfill

/-- A fault is the word's trap, but for a cache word's that is no page fault (R382). -/
theorem walkComplete_fault {cause : Nat} {b : Bool}
    (hx : (s.walk c.root.toNat c.asid.toNat va.toNat).use va.toNat want c.priv = .fault cause b) :
    s.walkComplete k = if want = .cache ∧ cause ≠ 11 then s.walked k else s.walkTrap k c (walkFault va want lane cause b) := by
  rw [State.walkComplete, hk]
  dsimp only
  rw [hw]
  dsimp only
  rw [if_neg (by simp [hb]), State.walkScrub_clean hbad, hx]

end
end

/-- The second clause of the statement. -/
theorem walkComplete_ends {k : Nat} {s : State} {c : Ctx} {va : Word} {lane : Nat} {want : Want} {w : Xl} (hk : s.ctxAt k = some c)
    (hw : c.block = .walk va want lane) (hx : w = (s.walk c.root.toNat c.asid.toNat va.toNat).use va.toNat want c.priv) :
    (s.blocked (dieOf (k / 4)) false (s.walkSecs c.root.toNat va.toNat) = true →
      exec (.pageWalkComplete k) s = .next (s.queueAsks (dieOf (k / 4)) false (s.walkSecs c.root.toNat va.toNat))) ∧
    (s.blocked (dieOf (k / 4)) false (s.walkSecs c.root.toNat va.toNat) = false → s.bad = [] →
      (∀ t pa g, s.walk c.root.toNat c.asid.toNat va.toNat = .leaf t → w = .ok pa g →
        exec (.pageWalkComplete k) s = .next
          (({ s with cores := mupd s.cores (k / 4) Core.reset fun x => { x with tlb := t :: x.tlb } } : State).putCtx k
            { c with block := .none, readyAt := s.now })) ∧
      (∀ cause b s1 c1, w = .fault cause b → c.priv = false → (want = .cache → cause = 11) →
        s1 = (s.putCtx k { c with block := .none, readyAt := s.now }).drain k → s1.ctxAt k = some c1 →
        exec (.pageWalkComplete k) s = .next (s1.putCtx k
          (if want = .fetch then Safety.entered c1 7 va (if cause = 11 then 3 else 4) c.pc
           else Safety.entered c1 cause va (faultInfo want b lane) c.pc))) ∧
      (∀ cause b, want = .cache → cause ≠ 11 → w = .fault cause b →
        exec (.pageWalkComplete k) s = .next (s.putCtx k { c with block := .none, readyAt := s.now }))) := by
  subst hx
  refine ⟨fun hb => ?_, fun hb hbad => ⟨fun t pa g ht hok => ?_, fun cause b s1 c1 hf hp hc hs1 hc1 => ?_,
    fun cause b hc h11 hf => ?_⟩⟩
  · exact congrArg Host.Outcome.next (walkComplete_lacks hk hw hb)
  · exact congrArg Host.Outcome.next (walkComplete_leaf hk hw hb hbad ht hok)
  · refine congrArg Host.Outcome.next ((walkComplete_fault hk hw hb hbad hf).trans ?_)
    rw [if_neg fun h => h.2 (hc h.1), State.walkTrap_eq _ hk hp hs1 hc1]
    unfold walkFault
    split <;> rfl
  · refine congrArg Host.Outcome.next ((walkComplete_fault hk hw hb hbad hf).trans ?_)
    rw [if_pos ⟨hc, h11⟩, State.walked_eq hk]
    rfl

end Sys2Proof.Machine
end

section
/-! SUPPORT. The page agent's writes (R364, R374, R378): what they leave alone, and the answer to a grow request. -/

namespace Sys2Proof.Machine

open Sys2Proof.Safety

/-! ### Writes of the agent -/

/-- The states differ in memory, in the copies of sectors at most, and in reservations. -/
def AgentOnly (s t : State) : Prop := t = { s with mem := t.mem, cores := t.cores, dir := t.dir, harts := t.harts }

theorem AgentOnly.refl (s : State) : AgentOnly s s := rfl

theorem AgentOnly.trans {s t u : State} (h : AgentOnly s t) (g : AgentOnly t u) : AgentOnly s u := by
  unfold AgentOnly at *
  rw [g, h]

theorem AgentOnly.foldl {α : Type} {f : State → α → State} (hf : ∀ s a, AgentOnly s (f s a)) (l : List α) (s : State) :
    AgentOnly s (l.foldl f s) := by
  induction l generalizing s with
  | nil => exact .refl s
  | cons a r ih => exact (hf s a).trans (ih (f s a))

/-- What the agent's writes keep. -/
theorem AgentOnly.fields {s t : State} (h : AgentOnly s t) : t.windows = s.windows ∧ t.saved = s.saved ∧
    t.counters = s.counters ∧ t.delays = s.delays ∧ t.now = s.now := by
  unfold AgentOnly at h
  rw [h]
  exact ⟨rfl, rfl, rfl, rfl, rfl⟩

theorem AgentOnly.ctxAt {s t : State} (h : AgentOnly s t) (k : Nat) : t.ctxAt k = s.ctxAt k := by
  unfold AgentOnly at h
  rw [h]
  rfl

theorem State.surrender_agentOnly (s : State) (sec j : Nat) (excl : Bool) : AgentOnly s (s.surrender sec j excl) := by
  unfold State.surrender
  split_ifs <;> rfl

theorem State.takeSector_agentOnly (s : State) (sec : Nat) : AgentOnly s (s.takeSector sec) :=
  AgentOnly.foldl (fun s j => s.surrender_agentOnly sec j true) _ s

theorem State.agentBytes_agentOnly (s : State) (loc : Nat) (bs : List Byte) : AgentOnly s (s.agentBytes loc bs) :=
  AgentOnly.trans (AgentOnly.foldl State.takeSector_agentOnly _ s) rfl

theorem State.agentPut_agentOnly (s : State) (loc n v : Nat) : AgentOnly s (s.agentPut loc n v) := s.agentBytes_agentOnly ..

theorem State.agentBytes_mem (s : State) (loc : Nat) (bs : List Byte) : (s.agentBytes loc bs).mem = s.mem.writeBytes loc bs := by
  have h : ∀ l : List Nat, (l.foldl State.takeSector s).mem = s.mem := fun l =>
    congrArg Prod.fst (foldl_keeps State.peerFrame State.takeSector_peerFrame l s)
  exact congrArg (fun m : Mem => m.writeBytes loc bs) (h _)

theorem State.agentPut_mem (s : State) (loc n v : Nat) : (s.agentPut loc n v).mem = s.mem.writeLE loc n v := s.agentBytes_mem ..

/-! ### GROW_REQUEST (R378) -/

theorem frameGen_toNat (s : State) (pa : Nat) : (s.frameGen pa).toNat = s.mem.readLE (0x1FE00000000 + 8 * (pa / 4096)) 8 / 16 % 4096 :=
  BitVec.toNat_ofNat ..

theorem goodFrame_iff (f : Nat) : goodFrame f = true ↔ f % 65536 = 0 ∧ isDevice f = true ∧ f < 0x1FE00000000 := by
  simp only [goodFrame, Bool.and_eq_true, beq_iff_eq, decide_eq_true_eq, and_assoc]

/-- A leaf is no grow request. -/
theorem leafEnd_ne_grow {m : Mem} {asid va level loc e pte desc : Nat} (he : e < 2 ^ 64) :
    leafEnd m asid va level loc e ≠ .grow pte desc := by
  rw [leafEnd_eq he]
  split_ifs <;> nofun

/-- A grow request names the entry of its table, or is that of the table after it. -/
theorem atTable_grow {m : Mem} {asid va level tab pte desc : Nat} {next : Nat → Walk}
    (h : atTable m asid va level tab next = .grow pte desc) :
    m.readLE pte 8 % 2 = 0 ∨ ∃ t, next t = .grow pte desc := by
  unfold atTable at h
  dsimp only at h
  split_ifs at h with _ hv
  · cases h
    exact .inl hv
  · exact absurd h (leafEnd_ne_grow (m.readLE_lt _ 8))
  · exact .inr ⟨_, h⟩

/-- The entry that a walk's grow request names is not valid (R369). -/
theorem walkFrom_grow_invalid {m : Mem} {asid va level tab pte desc : Nat}
    (h : walkFrom m asid va level tab = .grow pte desc) : m.readLE pte 8 % 2 = 0 := by
  induction level generalizing tab with
  | zero =>
    rw [walkFrom_zero m asid va tab fun _ => .page] at h
    exact (atTable_grow h).resolve_right fun ⟨_, hp⟩ => nomatch hp
  | succ l ih =>
    rw [walkFrom_succ] at h
    exact (atTable_grow h).elim id fun ⟨_, hn⟩ => ih hn

section
variable {s : State} {root asid pte desc : Nat} {x : Nat → Xl} (hpte : s.mem.readLE pte 8 % 2 = 0)
  (hx : ∀ a, x a = s.xlateHub root asid a .read true)
include hpte hx

/-- The descriptor cannot be read. -/
theorem growApply_fault {z : Nat} {b : Bool} (h : x (desc + 32) = .fault z b) :
    s.growApply root asid pte desc = (s, .malformed) := by
  rw [State.growApply, pteFld_valid, if_neg (by omega), ← hx, h]

/-- The descriptor supplies no frame. -/
theorem growApply_empty {pc : Nat} {g : BitVec 12} (h : x (desc + 32) = .ok pc g) (hn : s.mem.readLE pc 4 = 0) :
    s.growApply root asid pte desc = (s, .empty) := by
  rw [State.growApply, pteFld_valid, if_neg (by omega), ← hx, h]
  exact if_pos hn

/-- The descriptor's last frame is taken, or is none that a region can have. -/
theorem growApply_frame {pc pp pf n f : Nat} {g0 g1 g2 : BitVec 12} (h : x (desc + 32) = .ok pc g0) (hn : n = s.mem.readLE pc 4)
    (hn0 : n ≠ 0) (h1 : x (desc + 24) = .ok pp g1) (h2 : x (s.mem.readLE pp 8 + 8 * (n - 1)) = .ok pf g2)
    (hf : f = s.mem.readLE pf 8) :
    s.growApply root asid pte desc = if goodFrame f = true then
      ((s.agentBytes (pte / 128 * 128) (growLine f (s.frameGen f))).agentPut pc 4 (n - 1), .mapped) else (s, .malformed) := by
  subst hn hf
  rw [State.growApply, pteFld_valid, if_neg (by omega), ← hx, h]
  dsimp only
  rw [if_neg hn0, ← hx, h1]
  dsimp only
  rw [← hx, h2]

end

/-- The third clause of the statement. -/
theorem growRequest_ends {k : Nat} {s : State} {c : Ctx} {va : Word} {lane pte desc : Nat} {x : Nat → Xl} (hk : s.ctxAt k = some c)
    (hw : c.block = .walk va .write lane) (hg : s.walk c.root.toNat c.asid.toNat va.toNat = .grow pte desc)
    (hx : ∀ a, x a = s.xlateHub c.root.toNat c.asid.toNat a .read true) :
    (∀ pc pp pf n f g0 g1 g2, x (desc + 32) = .ok pc g0 → n = s.mem.readLE pc 4 → n ≠ 0 → x (desc + 24) = .ok pp g1 →
      x (s.mem.readLE pp 8 + 8 * (n - 1)) = .ok pf g2 → f = s.mem.readLE pf 8 → f % 65536 = 0 → isDevice f = true →
      f < 0x1FE00000000 →
      ∃ t, exec (.growRequest k) s = .next t ∧ t.ctxAt k = some c ∧
        t.mem = (s.mem.writeBytes (pte / 128 * 128) ((List.range 16).flatMap fun i =>
          leBytes (0x6F + 256 * (s.mem.readLE (0x1FE00000000 + 8 * (f / 4096)) 8 / 16 % 4096) + (f / 4096 + i) * 2 ^ 20) 8)).writeLE
            pc 4 (n - 1)) ∧
    (∀ s1 c1 malformed, c.priv = false → s1 = (s.putCtx k { c with block := .none, readyAt := s.now }).drain k →
      s1.ctxAt k = some c1 →
      ((∃ pc g, x (desc + 32) = .ok pc g ∧ s.mem.readLE pc 4 = 0) ∧ malformed = false ∨
       ((∃ z b, x (desc + 32) = .fault z b) ∨
        (∃ pc pp pf g0 g1 g2 n f, x (desc + 32) = .ok pc g0 ∧ n = s.mem.readLE pc 4 ∧ n ≠ 0 ∧ x (desc + 24) = .ok pp g1 ∧
          x (s.mem.readLE pp 8 + 8 * (n - 1)) = .ok pf g2 ∧ f = s.mem.readLE pf 8 ∧
          (f % 65536 ≠ 0 ∨ isDevice f = false ∨ 0x1FE00000000 ≤ f))) ∧ malformed = true) →
      exec (.growRequest k) s = .next (s1.putCtx k
        (Safety.entered c1 (if malformed then 12 else 11) va (faultInfo .write true lane) c.pc))) := by
  have hpte := walkFrom_grow_invalid hg
  have hwant : s.growWanted k = some (c, va, lane, pte, desc) := by
    rw [State.growWanted, hk]
    dsimp only
    rw [hw]
    dsimp only
    rw [hg]
  refine ⟨fun pc pp pf n f g0 g1 g2 h0 hn hn0 h1 h2 hf hal hdev hlt => ?_, fun s1 c1 malformed hp hs1 hc1 hwhy => ?_⟩
  · have hgrow := growApply_frame hpte hx h0 hn hn0 h1 h2 hf
    rw [if_pos ((goodFrame_iff f).mpr ⟨hal, hdev, hlt⟩)] at hgrow
    have hgo : s.growRequest k = (s.agentBytes (pte / 128 * 128) (growLine f (s.frameGen f))).agentPut pc 4 (n - 1) := by
      rw [State.growRequest, hwant]
      dsimp only
      rw [hgrow]
    refine ⟨_, congrArg Host.Outcome.next hgo, ?_, ?_⟩
    · exact (((s.agentBytes_agentOnly ..).trans (State.agentPut_agentOnly ..)).ctxAt k).trans hk
    · rw [State.agentPut_mem, State.agentBytes_mem, growLine, frameGen_toNat]
  · have htrap : ∀ t : Trap, s.walkTrap k c t = s1.putCtx k (Safety.entered c1 t.cause t.tval t.tinfo c.pc) := fun t =>
      State.walkTrap_eq t hk hp hs1 hc1
    refine congrArg Host.Outcome.next ?_
    rw [State.growRequest, hwant]
    dsimp only
    rcases hwhy with ⟨⟨pc, g, h0, hn⟩, rfl⟩ | ⟨⟨z, b, h0⟩ | ⟨pc, pp, pf, g0, g1, g2, n, f, h0, hn, hn0, h1, h2, hf, hbad⟩, rfl⟩
    · rw [growApply_empty hpte hx h0 hn]
      exact htrap _
    · rw [growApply_fault hpte hx h0]
      exact htrap _
    · have hno : ¬ goodFrame f = true := by
        rw [goodFrame_iff]
        rintro ⟨hal, hdev, hlt⟩
        simp [hal, hdev] at hbad
        omega
      rw [growApply_frame hpte hx h0 hn hn0 h1 h2 hf, if_neg hno]
      exact htrap _

end Sys2Proof.Machine
end

section
/-! SUPPORT. Page state records in memory, and the leaf line of a region (R364, R368, R376). -/

namespace Sys2Proof.Machine

open Sys2Proof.Safety

/-! ### Reads beside a write -/

theorem Mem.readBytes_writeLE_other (m : Mem) (a c n k v : Nat) (h : c + k ≤ a ∨ a + n ≤ c) :
    (m.writeLE a n v).readBytes c k = m.readBytes c k :=
  Mem.readBytes_writeBytes_other m a c k _ (by rwa [length_leBytes])

theorem Mem.readLE_writeBytes_other (m : Mem) (a c k : Nat) (bs : List Byte) (h : c + k ≤ a ∨ a + bs.length ≤ c) :
    (m.writeBytes a bs).readLE c k = m.readLE c k := congrArg leNat (Mem.readBytes_writeBytes_other m a c k bs h)

/-- A part of the bytes of a range. -/
theorem Mem.readBytes_part (m : Mem) (a off n k : Nat) (h : off + n ≤ k) :
    ((m.readBytes a k).drop off).take n = m.readBytes (a + off) n := by
  refine List.ext_getElem (by simp; omega) fun i h1 h2 => ?_
  rw [Mem.getElem_readBytes, List.getElem_take, List.getElem_drop, Mem.getElem_readBytes, Nat.add_assoc]

/-! ### Records -/

/-- Memory after the records of the frames `l` have been changed by `g`, one after the other. -/
def Mem.mapRecs (g : Nat → Nat) (l : List Nat) (m : Mem) : Mem :=
  l.foldl (fun m f => m.writeLE (0x1FE00000000 + 8 * f) 8 (g (pageRecord m f))) m

/-- The records of the frames `l` as the agent changes them. -/
def State.mapRecs (g : Nat → Nat) (l : List Nat) (s : State) : State :=
  l.foldl (fun s f => s.setPageState f (g (s.pageState f))) s

theorem State.mapRecs_agentOnly (g : Nat → Nat) (l : List Nat) (s : State) : AgentOnly s (s.mapRecs g l) :=
  AgentOnly.foldl (fun _ _ => State.agentPut_agentOnly ..) l s

theorem State.mapRecs_mem (g : Nat → Nat) (l : List Nat) (s : State) : (s.mapRecs g l).mem = s.mem.mapRecs g l := by
  induction l generalizing s with
  | nil => rfl
  | cons f r ih => exact (ih _).trans (congrArg (Mem.mapRecs g r) (State.agentPut_mem ..))

theorem Mem.readBytes_mapRecs_other {g : Nat → Nat} {l : List Nat} {m : Mem} {a n : Nat}
    (h : ∀ f ∈ l, a + n ≤ 0x1FE00000000 + 8 * f ∨ 0x1FE00000000 + 8 * f + 8 ≤ a) :
    (m.mapRecs g l).readBytes a n = m.readBytes a n := by
  induction l generalizing m with
  | nil => rfl
  | cons f r ih =>
    obtain ⟨hf, hr⟩ := List.forall_mem_cons.mp h
    exact (ih hr).trans (Mem.readBytes_writeLE_other m _ _ _ _ _ hf)

/-- Each frame's record is changed once. -/
theorem Mem.pageRecord_mapRecs {g : Nat → Nat} {l : List Nat} {m : Mem} {f : Nat} (hnd : l.Nodup) (hf : f ∈ l) :
    pageRecord (m.mapRecs g l) f = g (pageRecord m f) % 2 ^ 64 := by
  induction l generalizing m with
  | nil => exact absurd hf List.not_mem_nil
  | cons x r ih =>
    obtain ⟨hx, hr⟩ := List.nodup_cons.mp hnd
    rcases List.mem_cons.mp hf with rfl | hfr
    · have hother : pageRecord (Mem.mapRecs g (f :: r) m) f =
          pageRecord (m.writeLE (0x1FE00000000 + 8 * f) 8 (g (pageRecord m f))) f :=
        congrArg leNat (Mem.readBytes_mapRecs_other (a := 0x1FE00000000 + 8 * f) (n := 8) fun j hj => by
          have : j ≠ f := fun h => hx (h ▸ hj)
          omega)
      rw [hother, pageRecord, Mem.readLE_writeLE_same, ← Nat.pow_mul 2 8 8]
    · refine (ih hr hfr).trans ?_
      have hne : f ≠ x := fun h => hx (h ▸ hfr)
      have hkeep : pageRecord (m.writeLE (0x1FE00000000 + 8 * x) 8 (g (pageRecord m x))) f = pageRecord m f :=
        Mem.readLE_writeLE_other _ _ _ _ _ _ (by omega)
      exact congrArg (fun v => g v % 2 ^ 64) hkeep

/-- The 16 frames from `b` on. -/
def blockFrames (b : Nat) : List Nat := (List.range 16).map (b + ·)

theorem mem_blockFrames {b f : Nat} : f ∈ blockFrames b ↔ b ≤ f ∧ f < b + 16 := by
  simp only [blockFrames, List.mem_map, List.mem_range]
  exact ⟨fun ⟨i, hi, he⟩ => by omega, fun h => ⟨f - b, by omega, by omega⟩⟩

theorem nodup_blockFrames (b : Nat) : (blockFrames b).Nodup :=
  List.Nodup.map (fun _ _ h => Nat.add_left_cancel h) List.nodup_range

theorem regionFrames_eq (region : Nat) : regionFrames region = blockFrames (16 * region) := rfl

/-- Bytes beside the records of a block. -/
theorem Mem.readBytes_block_other (m : Mem) (g : Nat → Nat) (b a n : Nat)
    (h : a + n ≤ 0x1FE00000000 + 8 * b ∨ 0x1FE00000000 + 8 * b + 128 ≤ a) :
    (m.mapRecs g (blockFrames b)).readBytes a n = m.readBytes a n :=
  Mem.readBytes_mapRecs_other fun f hf => by
    have := mem_blockFrames.mp hf
    omega

theorem Mem.readLE_block_other (m : Mem) (g : Nat → Nat) (b a n : Nat)
    (h : a + n ≤ 0x1FE00000000 + 8 * b ∨ 0x1FE00000000 + 8 * b + 128 ≤ a) :
    (m.mapRecs g (blockFrames b)).readLE a n = m.readLE a n := congrArg leNat (Mem.readBytes_block_other m g b a n h)

/-- The records of a block. -/
theorem Mem.pageRecord_block (m : Mem) (g : Nat → Nat) (b : Nat) {i : Nat} (hi : i < 16) :
    pageRecord (m.mapRecs g (blockFrames b)) (b + i) = g (pageRecord m (b + i)) % 2 ^ 64 :=
  Mem.pageRecord_mapRecs (nodup_blockFrames b) (mem_blockFrames.mpr (by omega))

theorem pageRecord_lt (m : Mem) (f : Nat) : pageRecord m f < 2 ^ 64 := m.readLE_lt _ 8

theorem raisedGen_mod (v : Nat) : raisedGen v % 2 ^ 64 = raisedGen v := by
  unfold raisedGen
  omega

theorem undual_mod {v : Nat} (h : v < 2 ^ 64) : undual v % 2 ^ 64 = undual v := by
  unfold undual
  omega

/-- The records of a fenced region, those of a region whose window has ended (R376). -/
theorem Mem.pageRecord_block_raisedGen (m : Mem) (b : Nat) {i : Nat} (hi : i < 16) :
    pageRecord (m.mapRecs raisedGen (blockFrames b)) (b + i) = raisedGen (pageRecord m (b + i)) := by
  rw [Mem.pageRecord_block m _ b hi, raisedGen_mod]

theorem Mem.pageRecord_block_undual (m : Mem) (b : Nat) {i : Nat} (hi : i < 16) :
    pageRecord (m.mapRecs undual (blockFrames b)) (b + i) = undual (pageRecord m (b + i)) := by
  rw [Mem.pageRecord_block m _ b hi, undual_mod (pageRecord_lt ..)]

/-! ### The leaf line of a region -/

/-- The leaf line maps the region to its own frame with the generation `gen` (R376). -/
theorem lineMaps_iff (m : Mem) (line region gen : Nat) : lineMaps (m.readBytes line 128) (65536 * region) gen = true ↔
    ∀ i < 16, lineEntry m line i % 4 = 3 ∧ lineEntry m line i / 2 ^ 20 % 2 ^ 40 = 16 * region + i ∧
      lineEntry m line i / 256 % 4096 = gen := by
  have hfr : 65536 * region / 4096 = 16 * region := by omega
  simp only [lineMaps, List.all_eq_true, List.mem_range, Bool.and_eq_true, decide_eq_true_eq, hfr, and_assoc]
  refine forall₂_congr fun i hi => ?_
  rw [Mem.readBytes_part m line (8 * i) 8 128 (by omega)]
  have h0 : pteFld (lineEntry m line i) 0 2 = lineEntry m line i % 4 := by
    simp only [pteFld, bitsOf, Nat.reducePow, Nat.div_one]
  rw [← h0]
  rfl

/-- Entry `e` of a leaf line, mapped to the page `p` with the generation `g` (R376). -/
def remapped (e p g : Nat) : Nat := e % 256 + 256 * g + p * 2 ^ 20 + e / 2 ^ 60 * 2 ^ 60

theorem length_remapLine (old : List Byte) (fr gen : Nat) : (remapLine old fr gen).length = 128 := by
  rw [remapLine, length_flatMap_pieces fun _ => length_leBytes .., List.length_range]

/-- The entries of a line that the agent has replaced. -/
theorem lineEntry_writeBytes_remapLine (m m' : Mem) (line fr gen : Nat) {i : Nat} (hi : i < 16) :
    lineEntry (m.writeBytes line (remapLine (m'.readBytes line 128) fr gen)) line i =
      remapped (lineEntry m' line i) (fr / 4096 + i) gen % 2 ^ 64 := by
  have hlen := length_remapLine (m'.readBytes line 128) fr gen
  rw [lineEntry, Mem.readLE, Mem.readBytes_writeBytes_part m line (8 * i) 8 _ (by omega), remapLine, Nat.mul_comm 8 i,
    take_drop_flatMap_pieces (fun _ => length_leBytes ..) (by rwa [List.length_range]), List.getElem_range, leNat_leBytes,
    Mem.readBytes_part m' line (8 * i) 8 128 (by omega)]
  rfl

end Sys2Proof.Machine
end

section
/-! SUPPORT. Migrations (R374 to R376): their opening, their window, their switch. -/

namespace Sys2Proof.Machine

open Sys2Proof.Safety

/-! ### The opening (R375) -/

theorem calledFor_iff (s : State) (region die : Nat) : s.calledFor region die = true ↔ callsFor s region die := by
  have hown : (∀ d, dieHolding (65536 * region) = some d → 2 * regionHits s region d ≤ regionHits s region die) ↔
      2 * (match dieHolding (65536 * region) with | some d => s.hits region d | none => 0) ≤ s.hits region die := by
    cases dieHolding (65536 * region) with
    | none => simp
    | some d => simp only [Option.some.injEq, forall_eq'] <;> rfl
  simp only [State.calledFor, callsFor, hown, Bool.and_eq_true, decide_eq_true_eq, and_assoc] <;> rfl

theorem mayMigrate_iff (s : State) (region die : Nat) : s.mayMigrate region die = true ↔ mayMove s region die := by
  have hgen : ∀ f, (s.pageState f % 16 == 0 && !(s.genSpent f)) = true ↔
      pageRecord s.mem f % 16 = 0 ∧ pageRecord s.mem f / 16 % 4096 < 4095 := by
    intro f
    have hp : s.pageState f = pageRecord s.mem f := rfl
    rw [State.genSpent, hp, Bool.and_eq_true, beq_iff_eq, Bool.not_eq_true', beq_eq_false_iff_ne]
    omega
  have hall : ((regionFrames region).all fun f => s.pageState f % 16 == 0 && !(s.genSpent f)) = true ↔
      ∀ i < 16, pageRecord s.mem (16 * region + i) % 16 = 0 ∧ pageRecord s.mem (16 * region + i) / 16 % 4096 < 4095 := by
    simp only [List.all_eq_true, hgen, regionFrames, List.forall_mem_map, List.mem_range]
  simp only [State.mayMigrate, mayMove, hall, Bool.and_eq_true, decide_eq_true_eq, and_assoc] <;> rfl

theorem migrationOpen_stays {s : State} {region die : Nat}
    (h : ¬ (callsFor s region die ∧ mayMove s region die) ∨ (mget s.windows region).isSome = true) :
    s.migrationOpen region die = s := by
  have hc : s.calledFor region die = false ∨ s.mayMigrate region die = false ∨ (mget s.windows region).isSome = true := by
    rcases h with h | h
    · rw [← calledFor_iff, ← mayMigrate_iff, not_and_or, Bool.not_eq_true, Bool.not_eq_true] at h
      exact h.imp_right .inl
    · exact .inr (.inr h)
  rw [State.migrationOpen, if_pos hc]

/-- The window that a migration opens: of a region, to a die (R376). -/
def State.openedWindow (s : State) (region die : Nat) : Window :=
  { frame := phys (s.mem.readLE (phys (s.mem.readLE (dieCtl die) 8 + 8 * (s.mem.readLE (dieCtl die + 8) 4 - 1))) 8), die := die,
    line := phys (s.mem.readLE (ctrRec region + 16) 8), gen := s.pageState (16 * region) / 16 % 4096, copied := 0,
    fenced := false, due := s.now + 1 + s.delays.headD 0 }

/-- The package after the frame has left the die's array and dual has been set (R376). -/
def State.dualSet (s : State) (region die : Nat) : State :=
  (s.agentPut (dieCtl die + 8) 4 (s.mem.readLE (dieCtl die + 8) 4 - 1)).mapRecs (· + 8) (blockFrames (16 * region))

theorem State.dualSet_agentOnly (s : State) (region die : Nat) : AgentOnly s (s.dualSet region die) :=
  (State.agentPut_agentOnly ..).trans (State.mapRecs_agentOnly ..)

/-- The opening, with the state that the frame's removal and dual leave written once. -/
theorem migrationOpen_eq {s : State} {region die : Nat} (hc : callsFor s region die) (hm : mayMove s region die)
    (hw : mget s.windows region = none) : s.migrationOpen region die =
      ({ (s.dualSet region die).delay.2 with
        windows := mput (s.dualSet region die).delay.2.windows region
          { s.openedWindow region die with due := s.now + 1 + (s.dualSet region die).delay.1 } } : State).clearHits region := by
  have hno : ¬ (s.calledFor region die = false ∨ s.mayMigrate region die = false ∨ (mget s.windows region).isSome = true) := by
    rw [(calledFor_iff ..).mpr hc, (mayMigrate_iff ..).mpr hm, hw]
    simp
  rw [State.migrationOpen, if_neg hno]
  simp only [State.openedWindow]
  rfl

theorem migrationOpen_windows {s : State} {region die : Nat} (hc : callsFor s region die) (hm : mayMove s region die)
    (hw : mget s.windows region = none) :
    (s.migrationOpen region die).windows = mput s.windows region (s.openedWindow region die) := by
  obtain ⟨hwin, -, -, hdel, -⟩ := (s.dualSet_agentOnly region die).fields
  obtain ⟨hkeep, -⟩ := (State.agentPut_agentOnly ({ (s.dualSet region die).delay.2 with
    windows := mput (s.dualSet region die).delay.2.windows region
      { s.openedWindow region die with due := s.now + 1 + (s.dualSet region die).delay.1 } } : State) (ctrRec region) 12 0).fields
  rw [migrationOpen_eq hc hm hw]
  refine hkeep.trans ?_
  simp only [State.delay_eq, hdel]
  exact congrArg (mput · region (s.openedWindow region die)) hwin

/-- Memory after the opening. -/
theorem migrationOpen_mem {s : State} {region die : Nat} (hc : callsFor s region die) (hm : mayMove s region die)
    (hw : mget s.windows region = none) : (s.migrationOpen region die).mem =
      ((s.mem.writeLE (dieCtl die + 8) 4 (s.mem.readLE (dieCtl die + 8) 4 - 1)).mapRecs (· + 8) (blockFrames (16 * region))).writeLE
        (ctrRec region) 12 0 := by
  have hmem : (s.dualSet region die).delay.2.mem = (s.dualSet region die).mem := by rw [State.delay_eq] <;> rfl
  rw [migrationOpen_eq hc hm hw, State.clearHits, State.agentPut_mem]
  refine congrArg (Mem.writeLE · (ctrRec region) 12 0) (hmem.trans ?_)
  rw [State.dualSet, State.mapRecs_mem, State.agentPut_mem]

/-- What stands in memory after the opening: the array without its last frame, cleared counters, records with dual. -/
theorem migrationOpen_reads {s : State} {region die d n : Nat} (hc : callsFor s region die) (hm : mayMove s region die)
    (hw : mget s.windows region = none) (hr : 16 * region + 16 ≤ 2 ^ 29) (hd : d = 0x1FF40000000 + 64 + 32 * die)
    (hn : n = s.mem.readLE (d + 8) 4) :
    (s.migrationOpen region die).mem.readLE (d + 8) 4 = n - 1 ∧
    (s.migrationOpen region die).mem.readBytes (0x1FF00000000 + 32 * region) 12 = List.replicate 12 0 ∧
    ∀ i < 16, pageRecord (s.migrationOpen region die).mem (16 * region + i) = pageRecord s.mem (16 * region + i) + 8 := by
  have hdie : die < 4 := hc.2.1
  have hctl : dieCtl die = d := hd.symm
  have hrec : ctrRec region = 0x1FF00000000 + 32 * region := rfl
  rw [migrationOpen_mem hc hm hw, hctl, hrec, ← hn]
  have hlt : n < 2 ^ 32 := hn ▸ s.mem.readLE_lt (d + 8) 4
  refine ⟨?_, ?_, fun i hi => ?_⟩
  · rw [Mem.readLE_writeLE_other _ _ _ _ _ _ (by omega), Mem.readLE_block_other _ _ _ _ _ (by omega), Mem.readLE_writeLE_same]
    omega
  · exact Mem.readBytes_writeBytes_same _ _ (leBytes 0 12)
  · have hz := (hm.2.1 i hi).1
    have hv := pageRecord_lt s.mem (16 * region + i)
    have hkeep : pageRecord (s.mem.writeLE (d + 8) 4 (n - 1)) (16 * region + i) = pageRecord s.mem (16 * region + i) :=
      Mem.readLE_writeLE_other _ _ _ _ _ _ (by omega)
    have hlast : ∀ m : Mem, pageRecord (m.writeLE (0x1FF00000000 + 32 * region) 12 0) (16 * region + i) =
        pageRecord m (16 * region + i) := fun m => Mem.readLE_writeLE_other _ _ _ _ _ _ (by omega)
    rw [hlast, Mem.pageRecord_block _ _ _ hi, hkeep]
    omega

end Sys2Proof.Machine
end

section
/-! SUPPORT. The window of a migration (R376): a drive's mirrored write, its copies, its fence. -/

namespace Sys2Proof.Machine

open Sys2Proof.Safety

/-! ### A drive's write to a region whose window is open (R376, R395) -/

theorem barOf_of_device {pa : Nat} (h : isDevice pa = true) : barOf pa = none := by
  simp only [barOf, h, Bool.true_or, ↓reduceIte]

/-- A transfer within one sector has one part. -/
theorem bySector_one {pa : Nat} {bs : List Byte} (hne : bs ≠ []) (hlen : pa % 64 + bs.length ≤ 64) :
    bySector pa bs = [(pa, bs)] := by
  have hpos := List.length_pos_iff.mpr hne
  have hone : (pa + (bs.length - 1)) / 64 - pa / 64 + 1 = 1 := by omega
  have hmax : Nat.max pa (64 * (pa / 64 + 0)) = pa := Nat.max_eq_left (by omega)
  have htake : bs.take (64 * (pa / 64 + 0 + 1) - pa) = bs := List.take_of_length_le (by omega)
  simp only [bySector, hone, List.range_one, List.map_cons, List.map_nil, hmax, Nat.sub_self, List.drop_zero, htake]

/-- The one window, that of the region written, mirrors the write whole. -/
theorem State.mirror_single {s : State} {region loc : Nat} {w : Window} {bs : List Byte} (hw : s.windows = [(region, w)])
    (hne : bs ≠ []) (hr : loc / 65536 = region) (hlen : loc % 64 + bs.length ≤ 64) :
    s.mirror loc bs = { s with mem := s.mem.writeBytes (w.frame + loc % 65536) bs } := by
  have hpos := List.length_pos_iff.mpr hne
  have hmeets : meets loc bs.length (65536 * region) 65536 = true := by
    simp only [meets, Bool.and_eq_true, decide_eq_true_eq]
    omega
  have hmax : Nat.max (65536 * region) loc = loc := Nat.max_eq_right (by omega)
  have htake : bs.take (65536 * region + 65536 - loc) = bs := List.take_of_length_le (by omega)
  have hoff : loc - 65536 * region = loc % 65536 := by omega
  simp only [State.mirror, hw, List.foldl_cons, List.foldl_nil, hmeets, ↓reduceIte, hmax, Nat.sub_self, List.drop_zero, htake, hoff]

/-- A write to memory in the region is made in both frames. -/
theorem State.memWrite_mirrored {s : State} {region loc : Nat} {w : Window} {bs : List Byte} (hw : s.windows = [(region, w)])
    (hne : bs ≠ []) (hr : loc / 65536 = region) (hlen : loc % 64 + bs.length ≤ 64) (hres : reserved loc = false)
    (hbar : barOf loc = none) :
    (s.memWrite loc bs).mem = (s.mem.writeBytes loc bs).writeBytes (w.frame + loc % 65536) bs := by
  obtain ⟨u, hu⟩ : ∃ u : State, u = { s with
    mem := s.mem.writeBytes loc bs, harts := (s.dropResvs loc bs.length).harts,
    bad := s.bad.filter fun b => decide (b.loc < loc) || decide (loc + bs.length < b.loc + b.size) } := ⟨_, rfl⟩
  have hrun : s.memWrite loc bs = u.mirror loc bs := by
    rw [State.memWrite, hres, hbar, hu]
    rfl
  have huw : u.windows = [(region, w)] := by rw [hu]; exact hw
  rw [hrun, State.mirror_single huw hne hr hlen, hu]

theorem driveDma_mirrored {s : State} {region pa : Nat} {w : Window} {bs : List Byte} (hw : s.windows = [(region, w)])
    (hne : bs ≠ []) (hlen : pa % 64 + bs.length ≤ 64) (hr : pa / 65536 = region) (hdev : isDevice pa = true)
    (hres : reserved pa = false) (hidle : s.idle (pa / 64) = true) :
    (s.driveDma pa true bs).mem = (s.mem.writeBytes pa bs).writeBytes (w.frame + pa % 65536) bs := by
  obtain ⟨u, hu⟩ : ∃ u : State, u = { s with driveReply := some (true, []) } := ⟨_, rfl⟩
  obtain ⟨a, ha⟩ : ∃ a, a = u.newAsk 7 pa true bs := ⟨_, rfl⟩
  obtain ⟨v, hv⟩ : ∃ v, v = (u.needs a).foldl (fun s j => s.surrender a.sec j true) u := ⟨_, rfl⟩
  have hok : ¬ ((bySector pa bs).any fun x => !(isDevice x.1) || reserved x.1) = true := by
    rw [bySector_one hne hlen]
    simp [hdev, hres]
  have hrun : s.driveDma pa true bs = v.memWrite pa bs := by
    have hidle' : u.idle (pa / 64) = true := by rw [hu]; exact hidle
    have hgrant : v.grant a = v.memWrite pa bs := by
      have hemp : ¬ bs.isEmpty = true := by simpa using hne
      rw [ha]
      exact if_neg hemp
    rw [State.driveDma, if_neg hok, bySector_one hne hlen, List.foldl_cons, List.foldl_nil, ← hu, if_pos hidle',
      State.driveAt, ← ha, ← hv, hgrant]
  have hvw : v.windows = [(region, w)] := by
    rw [hv, (AgentOnly.foldl (fun s j => s.surrender_agentOnly a.sec j true) _ u).fields.1, hu]
    exact hw
  have hvm : v.mem = s.mem := by
    have hfold : ∀ (l : List Nat) (t : State), (l.foldl (fun s j => s.surrender a.sec j true) t).mem = t.mem := by
      intro l
      induction l with
      | nil => exact fun t => rfl
      | cons j r ih => exact fun t => (ih _).trans (t.surrender_mem ..)
    rw [hv, hfold, hu]
  rw [hrun, State.memWrite_mirrored hvw hne hr hlen hres (barOf_of_device hdev), hvm]

/-! ### The copies and the fence (R376) -/

theorem Mem.readBytes_one (m : Mem) (a : Nat) : m.readBytes a 1 = [m.read a] := rfl

theorem State.migrateOn_copies {s : State} {region : Nat} {w : Window} (hw : mget s.windows region = some w)
    (hc : w.copied < 512) (hb : s.bad = []) :
    (s.migrateOn region).windows = mput s.windows region { w with copied := w.copied + 1, due := s.now + 1 } ∧
    (s.migrateOn region).mem =
      s.mem.writeBytes (w.frame + 128 * w.copied) (s.mem.readBytes (65536 * region + 128 * w.copied) 128) := by
  have hrun : s.migrateOn region = s.copyLine region w := by
    rw [State.migrateOn, hw]
    exact if_pos hc
  rw [hrun, State.copyLine, State.scrub_clean hb]
  exact ⟨congrArg (mput · region _) (State.agentBytes_agentOnly ..).fields.1, State.agentBytes_mem ..⟩

theorem State.fence_eq (s : State) (region : Nat) (w : Window) : s.fence region w =
    { s.mapRecs raisedGen (blockFrames (16 * region)) with
      windows := mput s.windows region { w with fenced := true, due := s.now + 1 } } := by
  obtain ⟨hwin, -⟩ := (s.mapRecs_agentOnly raisedGen (blockFrames (16 * region))).fields
  rw [← hwin]
  rfl

theorem State.migrateOn_fences {s : State} {region : Nat} {w : Window} (hw : mget s.windows region = some w)
    (hc : 512 ≤ w.copied) (hf : w.fenced = false) : s.migrateOn region = s.fence region w := by
  have hno : ¬ w.copied < 512 := by omega
  rw [State.migrateOn, hw]
  exact (if_neg hno).trans (if_neg (by rw [hf]; exact Bool.false_ne_true))

/-- What the fence leaves in memory. -/
theorem State.fence_reads (s : State) (region : Nat) (w : Window) :
    (∀ i < 16, pageRecord (s.fence region w).mem (16 * region + i) = raisedGen (pageRecord s.mem (16 * region + i))) ∧
    ∀ a, a < 0x1FE00000000 → (s.fence region w).mem.read a = s.mem.read a := by
  have hmem : (s.fence region w).mem = s.mem.mapRecs raisedGen (blockFrames (16 * region)) := by
    rw [State.fence_eq]
    exact State.mapRecs_mem ..
  rw [hmem]
  refine ⟨fun i hi => Mem.pageRecord_block_raisedGen _ _ hi, fun a ha => ?_⟩
  have h := Mem.readBytes_block_other s.mem raisedGen (16 * region) a 1 (by omega)
  simpa only [Mem.readBytes_one, List.cons.injEq, and_true] using h

/-- The step that a window takes before its switch. -/
theorem step_migrateOn {s : State} {region : Nat} (ht : s.turn = .sched) (hj : s.nextJob = .migrateOn region) :
    step s = .next (s.migrateOn region) := by
  rw [step_sched ht, hj]
  rfl

end Sys2Proof.Machine
end

section
/-! SUPPORT. The switch that ends a migration (R376, steps 4 to 6). -/

namespace Sys2Proof.Machine

open Sys2Proof.Safety

theorem mdel_mput {β : Type} (m : SMap β) (a : Nat) (v : β) : mdel (mput m a v) a = mdel m a := by
  induction m with
  | nil => simp [mput, mdel]
  | cons x r ih =>
    obtain ⟨k, w⟩ := x
    simp only [mput]
    split_ifs with h1 h2
    · simp [mdel]
    · simp [mdel, h2]
    · simp [mdel, h2, ih]

theorem undual_eq (v : Nat) : v - v / 8 % 2 * 8 = undual v := by
  unfold undual
  omega

/-! ### The end of a window -/

/-- The package where a window has ended: its region fenced, its records without dual (R376). -/
def State.windowEnded (s : State) (region : Nat) (w : Window) : State :=
  let s1 := if w.fenced then s else s.fence region w
  ({ s1 with windows := mdel s1.windows region } : State).mapRecs undual (blockFrames (16 * region))

/-- What a window's end keeps, and the windows that it leaves. -/
theorem State.windowEnded_fields (s : State) (region : Nat) (w : Window) :
    (s.windowEnded region w).windows = mdel s.windows region ∧ (s.windowEnded region w).saved = s.saved ∧
    (s.windowEnded region w).counters = s.counters := by
  obtain ⟨s1, hs1⟩ : ∃ s1 : State, s1 = if w.fenced then s else s.fence region w := ⟨_, rfl⟩
  obtain ⟨hwin, hsav, hctr, -⟩ :=
    (({ s1 with windows := mdel s1.windows region } : State).mapRecs_agentOnly undual (blockFrames (16 * region))).fields
  have h1 : mdel s1.windows region = mdel s.windows region ∧ s1.saved = s.saved ∧ s1.counters = s.counters := by
    rw [hs1]
    split_ifs with hf
    · exact ⟨rfl, rfl, rfl⟩
    · obtain ⟨-, hsav1, hctr1, -⟩ := (s.mapRecs_agentOnly raisedGen (blockFrames (16 * region))).fields
      rw [State.fence_eq]
      exact ⟨mdel_mput .., hsav1, hctr1⟩
  rw [State.windowEnded, ← hs1]
  exact ⟨hwin.trans h1.1, hsav.trans h1.2.1, hctr.trans h1.2.2⟩

/-- Memory after a window's end. -/
theorem State.windowEnded_mem (s : State) (region : Nat) (w : Window) : (s.windowEnded region w).mem =
    (if w.fenced then s.mem else s.mem.mapRecs raisedGen (blockFrames (16 * region))).mapRecs undual
      (blockFrames (16 * region)) := by
  rw [State.windowEnded, State.mapRecs_mem]
  refine congrArg (Mem.mapRecs undual (blockFrames (16 * region))) ?_
  split_ifs with hf
  · rfl
  · rw [State.fence_eq]
    exact State.mapRecs_mem ..

/-- Bytes beside the region's records. -/
theorem State.windowEnded_other (s : State) (region : Nat) (w : Window) {a n : Nat}
    (h : a + n ≤ 0x1FE00000000 + 128 * region ∨ 0x1FE00000000 + 128 * region + 128 ≤ a) :
    (s.windowEnded region w).mem.readBytes a n = s.mem.readBytes a n := by
  rw [State.windowEnded_mem, Mem.readBytes_block_other _ _ _ _ _ (by omega)]
  split_ifs with hf
  · rfl
  · exact Mem.readBytes_block_other _ _ _ _ _ (by omega)

theorem State.windowEnded_record (s : State) (region : Nat) (w : Window) {i : Nat} (hi : i < 16) :
    pageRecord (s.windowEnded region w).mem (16 * region + i) =
      undual (if w.fenced then pageRecord s.mem (16 * region + i) else raisedGen (pageRecord s.mem (16 * region + i))) := by
  rw [State.windowEnded_mem, Mem.pageRecord_block_undual _ _ hi]
  split_ifs with hf
  · rfl
  · rw [Mem.pageRecord_block_raisedGen _ _ hi]

/-! ### A frame put on an array of the die's controls -/

/-- The package after the frame `f` has been put on the array whose place is at `arr`, its count at `cnt` (R374, R376). -/
def State.pushFrame (s : State) (arr cnt f : Nat) : State :=
  (s.agentPut (phys (s.mem.readLE arr 8 + 8 * s.mem.readLE cnt 4)) 8 f).agentPut cnt 4 (s.mem.readLE cnt 4 + 1)

theorem State.pushFrame_agentOnly (s : State) (arr cnt f : Nat) : AgentOnly s (s.pushFrame arr cnt f) :=
  (State.agentPut_agentOnly ..).trans (State.agentPut_agentOnly ..)

theorem State.pushFrame_mem {s : State} {arr cnt f n p : Nat} (hn : n = s.mem.readLE cnt 4)
    (hp : p = (s.mem.readLE arr 8 + 8 * n) % 2 ^ 52) : (s.pushFrame arr cnt f).mem = (s.mem.writeLE p 8 f).writeLE cnt 4 (n + 1) := by
  rw [State.pushFrame, State.agentPut_mem, State.agentPut_mem, ← hn, phys, ← hp]

/-! ### MIGRATION_SWITCH -/

theorem migrationSwitch_stays {s : State} {region : Nat}
    (h : mget s.windows region = none ∨ ∃ w, mget s.windows region = some w ∧ w.copied < 512) :
    s.migrationSwitch region = s := by
  rcases h with hn | ⟨w, hw, hc⟩
  · rw [State.migrationSwitch, hn]
  · have hdone : w.copyDone = false := decide_eq_false (by omega)
    rw [State.migrationSwitch, hw]
    exact if_pos hdone

/-- The package after the leaf line has been replaced and the new frame's records written (R376, step 5). -/
def State.remappedTo (s : State) (w : Window) : State :=
  (s.agentBytes w.line (remapLine (s.mem.readBytes w.line 128) w.frame ((w.gen + 1) % 4096))).mapRecs
    (fun _ => 16 * ((w.gen + 1) % 4096)) (blockFrames (w.frame / 4096))

/-- The package after a switch that maps the region to its new frame. -/
def State.switched (s : State) (region : Nat) (w : Window) : State :=
  let t := (s.remappedTo w).pushFrame (dieCtl w.die + 16) (dieCtl w.die + 24) (65536 * region)
  { t with saved := moveSaved (65536 * region) w.frame t.saved }

/-- The package after a switch that gives the new frame back. -/
def State.givenBack (s : State) (w : Window) : State :=
  (s.pushFrame (dieCtl w.die) (dieCtl w.die + 8) w.frame).count 0x190 1

/-- The switch ends the window, and maps the region or gives the frame back. -/
theorem migrationSwitch_eq {s : State} {region : Nat} {w : Window} (hw : mget s.windows region = some w)
    (hc : 512 ≤ w.copied) : s.migrationSwitch region =
      if lineMaps ((s.windowEnded region w).mem.readBytes w.line 128) (65536 * region) w.gen then
        (s.windowEnded region w).switched region w
      else (s.windowEnded region w).givenBack w := by
  have hdone : ¬ w.copyDone = false := by
    simpa [Window.copyDone] using hc
  have hend : (regionFrames region).foldl (fun s f => s.setPageState f (s.pageState f - s.pageState f / 8 % 2 * 8))
      { (if w.fenced then s else s.fence region w) with
        windows := mdel (if w.fenced then s else s.fence region w).windows region } = s.windowEnded region w := by
    simp only [undual_eq]
    rfl
  have hnew : ∀ (t : State) (v : Nat), (List.range 16).foldl (fun s i => s.setPageState (w.frame / 4096 + i) v) t =
      t.mapRecs (fun _ => v) (blockFrames (w.frame / 4096)) := fun t v => by
    rw [State.mapRecs, blockFrames, List.foldl_map]
  rw [State.migrationSwitch, hw]
  dsimp only
  rw [if_neg hdone, hend]
  simp only [hnew]
  rfl

end Sys2Proof.Machine
end

section
/-! SUPPORT. What the switch of a migration leaves in memory (R376), and the settled statement about pages (R234, R361 to R378). -/

namespace Sys2Proof.Machine

open Sys2Proof.Safety

/-! ### The reads after a frame has been put on an array -/

/-- The place after the last frame, and the count. -/
theorem State.pushFrame_reads {s : State} {arr cnt f n p : Nat} (hn : n = s.mem.readLE cnt 4)
    (hp : p = (s.mem.readLE arr 8 + 8 * n) % 2 ^ 52) (hlow : p + 8 ≤ 0x1FE00000000) (hcnt : 0x1FF40000000 ≤ cnt) :
    (s.pushFrame arr cnt f).mem.readLE p 8 = f % 2 ^ 64 ∧ (s.pushFrame arr cnt f).mem.readLE cnt 4 = (n + 1) % 2 ^ 32 := by
  rw [State.pushFrame_mem hn hp, Mem.readLE_writeLE_other _ _ _ _ _ _ (by omega), Mem.readLE_writeLE_same, Mem.readLE_writeLE_same]
  exact ⟨rfl, rfl⟩

theorem State.pushFrame_other {s : State} {arr cnt f n p a k : Nat} (hn : n = s.mem.readLE cnt 4)
    (hp : p = (s.mem.readLE arr 8 + 8 * n) % 2 ^ 52) (hcnt : 0x1FF40000000 ≤ cnt) (ha : a + k ≤ 0x1FF00000000)
    (hap : a + k ≤ p ∨ p + 8 ≤ a) : (s.pushFrame arr cnt f).mem.readBytes a k = s.mem.readBytes a k := by
  rw [State.pushFrame_mem hn hp, Mem.readBytes_writeLE_other _ _ _ _ _ _ (by omega), Mem.readBytes_writeLE_other _ _ _ _ _ _ hap]

/-! ### The reads after the leaf line has been replaced -/

theorem State.remappedTo_agentOnly (s : State) (w : Window) : AgentOnly s (s.remappedTo w) :=
  (State.agentBytes_agentOnly ..).trans (State.mapRecs_agentOnly ..)

theorem State.remappedTo_mem (s : State) (w : Window) : (s.remappedTo w).mem =
    (s.mem.writeBytes w.line (remapLine (s.mem.readBytes w.line 128) w.frame ((w.gen + 1) % 4096))).mapRecs
      (fun _ => 16 * ((w.gen + 1) % 4096)) (blockFrames (w.frame / 4096)) := by
  rw [State.remappedTo, State.mapRecs_mem, State.agentBytes_mem]

/-- Bytes beside the leaf line and the records of the new frame. -/
theorem State.remappedTo_other {s : State} {w : Window} {a k : Nat} (hl : a + k ≤ w.line ∨ w.line + 128 ≤ a)
    (hr : a + k ≤ 0x1FE00000000 + 8 * (w.frame / 4096) ∨ 0x1FE00000000 + 8 * (w.frame / 4096) + 128 ≤ a) :
    (s.remappedTo w).mem.readBytes a k = s.mem.readBytes a k := by
  rw [State.remappedTo_mem, Mem.readBytes_block_other _ _ _ _ _ hr,
    Mem.readBytes_writeBytes_other _ _ _ _ _ (by rwa [length_remapLine])]

theorem State.remappedTo_record (s : State) (w : Window) {i : Nat} (hi : i < 16) :
    pageRecord (s.remappedTo w).mem (w.frame / 4096 + i) = 16 * ((w.gen + 1) % 4096) := by
  rw [State.remappedTo_mem, Mem.pageRecord_block _ _ _ hi]
  omega

theorem remapped_lt {e p g : Nat} (he : e < 2 ^ 64) (hp : p < 2 ^ 40) (hg : g < 4096) : remapped e p g < 2 ^ 64 := by
  unfold remapped
  omega

theorem lineEntry_lt (m : Mem) (line i : Nat) : lineEntry m line i < 2 ^ 64 := m.readLE_lt _ 8

/-- The entries of the leaf line, mapped to the new frame. -/
theorem State.remappedTo_entry {s : State} {w : Window} (hline : w.line + 128 ≤ 0x1FE00000000)
    (hframe : w.frame + 65536 ≤ 0x1FE00000000) {i : Nat} (hi : i < 16) :
    lineEntry (s.remappedTo w).mem w.line i =
      remapped (lineEntry s.mem w.line i) (w.frame / 4096 + i) ((w.gen + 1) % 4096) := by
  have hlt := remapped_lt (lineEntry_lt s.mem w.line i) (show w.frame / 4096 + i < 2 ^ 40 by omega) (Nat.mod_lt (w.gen + 1) (by omega))
  have hrec : lineEntry (s.remappedTo w).mem w.line i =
      lineEntry (s.mem.writeBytes w.line (remapLine (s.mem.readBytes w.line 128) w.frame ((w.gen + 1) % 4096))) w.line i := by
    rw [State.remappedTo_mem]
    exact Mem.readLE_block_other _ _ _ _ _ (by omega)
  rw [hrec, lineEntry_writeBytes_remapLine _ _ _ _ _ hi, Nat.mod_eq_of_lt hlt]

/-! ### The two ends of a switch -/

/-- The fields of the die's controls are beside the records of a region whose window has ended. -/
theorem State.windowEnded_ctl {s : State} {region a : Nat} {w : Window} (hreg : 16 * region + 16 ≤ 2 ^ 29)
    (ha : 0x1FF40000000 ≤ a) (k : Nat) : (s.windowEnded region w).mem.readLE a k = s.mem.readLE a k :=
  congrArg leNat (State.windowEnded_other s region w (by omega))

/-- The leaf line is beside them too. -/
theorem State.windowEnded_line {s : State} {region i : Nat} {w : Window} (hline : w.line + 128 ≤ 0x1FE00000000) (hi : i < 16) :
    lineEntry (s.windowEnded region w).mem w.line i = lineEntry s.mem w.line i :=
  congrArg leNat (State.windowEnded_other s region w (by omega))

section Switch

variable {s : State} {region d n p : Nat} {w : Window} (hreg : 16 * region + 16 ≤ 2 ^ 29) (hd : d = 0x1FF40000000 + 64 + 32 * w.die)
  (hline : w.line + 128 ≤ 0x1FE00000000)

include hreg hd hline

/-- The region is served from its new frame (R376, step 5). -/
theorem State.switched_reads (hframe : w.frame + 65536 ≤ 0x1FE00000000) (halign : w.frame % 65536 = 0)
    (hne : w.frame ≠ 65536 * region) (hlf : w.line + 128 ≤ w.frame ∨ w.frame + 65536 ≤ w.line)
    (hn : n = s.mem.readLE (d + 24) 4) (hp : p = (s.mem.readLE (d + 16) 8 + 8 * n) % 2 ^ 52) (hlow : p + 8 ≤ 0x1FE00000000)
    (hpf : p + 8 ≤ w.frame ∨ w.frame + 65536 ≤ p) (hpl : p + 8 ≤ w.line ∨ w.line + 128 ≤ p) :
    let t := (s.windowEnded region w).switched region w
    t.windows = mdel s.windows region ∧ t.saved = moveSaved (65536 * region) w.frame s.saved ∧
    t.mem.readBytes w.frame 65536 = s.mem.readBytes w.frame 65536 ∧
    (∀ i < 16, lineEntry t.mem w.line i = remapped (lineEntry s.mem w.line i) (w.frame / 4096 + i) ((w.gen + 1) % 4096)) ∧
    (∀ i < 16, pageRecord t.mem (w.frame / 4096 + i) = 16 * ((w.gen + 1) % 4096) ∧ pageRecord t.mem (16 * region + i) =
      undual (if w.fenced then pageRecord s.mem (16 * region + i) else raisedGen (pageRecord s.mem (16 * region + i)))) ∧
    t.mem.readLE p 8 = 65536 * region ∧ t.mem.readLE (d + 24) 4 = (n + 1) % 2 ^ 32 := by
  intro t
  obtain ⟨u, hu⟩ : ∃ u, u = s.windowEnded region w := ⟨_, rfl⟩
  obtain ⟨v, hv⟩ : ∃ v, v = u.remappedTo w := ⟨_, rfl⟩
  have hctl : ∀ a k, d ≤ a → v.mem.readLE a k = s.mem.readLE a k := fun a k ha => by
    rw [hv, ← State.windowEnded_ctl (s := s) (w := w) hreg (by omega) k, ← hu]
    exact congrArg leNat (State.remappedTo_other (by omega) (by omega))
  have hn' : n = v.mem.readLE (d + 24) 4 := hn.trans (hctl _ _ (by omega)).symm
  have hp' : p = (v.mem.readLE (d + 16) 8 + 8 * n) % 2 ^ 52 := by rw [hctl _ _ (by omega)]; exact hp
  have hcnt : 0x1FF40000000 ≤ d + 24 := by omega
  have ht : t = { v.pushFrame (d + 16) (d + 24) (65536 * region) with
      saved := moveSaved (65536 * region) w.frame (v.pushFrame (d + 16) (d + 24) (65536 * region)).saved } := by
    have hctlEq : dieCtl w.die = d := hd.symm
    rw [hv, hu, ← hctlEq]
    rfl
  have hother : ∀ {a k}, a + k ≤ 0x1FF00000000 → (a + k ≤ p ∨ p + 8 ≤ a) → t.mem.readBytes a k = v.mem.readBytes a k :=
    fun ha hap => by
      rw [ht]
      exact State.pushFrame_other hn' hp' hcnt ha hap
  obtain ⟨hplace, hcount⟩ := State.pushFrame_reads (f := 65536 * region) hn' hp' hlow hcnt
  obtain ⟨hpw, hps, -⟩ := (v.pushFrame_agentOnly (d + 16) (d + 24) (65536 * region)).fields
  obtain ⟨hvw, hvs, -⟩ := (u.remappedTo_agentOnly w).fields
  obtain ⟨huw, hus, -⟩ := s.windowEnded_fields region w
  rw [← hv] at hvw hvs
  rw [← hu] at huw hus
  refine ⟨?_, ?_, ?_, fun i hi => ?_, fun i hi => ⟨?_, ?_⟩, ?_, ?_⟩
  · rw [ht]
    exact hpw.trans (hvw.trans huw)
  · rw [ht]
    exact congrArg (moveSaved (65536 * region) w.frame) (hps.trans (hvs.trans hus))
  · rw [hother (by omega) (by omega), hv, State.remappedTo_other (by omega) (by omega), hu, State.windowEnded_other _ _ _ (by omega)]
  · have hkeep : lineEntry t.mem w.line i = lineEntry v.mem w.line i := congrArg leNat (hother (by omega) (by omega))
    rw [hkeep, hv, State.remappedTo_entry hline hframe hi, hu, State.windowEnded_line hline hi]
  · have hkeep : pageRecord t.mem (w.frame / 4096 + i) = pageRecord v.mem (w.frame / 4096 + i) :=
      congrArg leNat (hother (by omega) (by omega))
    rw [hkeep, hv, State.remappedTo_record _ _ hi]
  · have hkeep : pageRecord t.mem (16 * region + i) = pageRecord u.mem (16 * region + i) :=
      congrArg leNat ((hother (by omega) (by omega)).trans (by rw [hv]; exact State.remappedTo_other (by omega) (by omega)))
    rw [hkeep, hu, State.windowEnded_record _ _ _ hi]
  · rw [ht]
    exact hplace.trans (Nat.mod_eq_of_lt (by omega))
  · rw [ht]
    exact hcount

/-- The new frame goes back to the die (R376, step 6). -/
theorem State.givenBack_reads (hn : n = s.mem.readLE (d + 8) 4) (hp : p = (s.mem.readLE d 8 + 8 * n) % 2 ^ 52)
    (hlow : p + 8 ≤ 0x1FE00000000) (hpl : p + 8 ≤ w.line ∨ w.line + 128 ≤ p) (hfr : w.frame < 2 ^ 64) :
    let t := (s.windowEnded region w).givenBack w
    t.windows = mdel s.windows region ∧ t.saved = s.saved ∧ t.mem.readBytes w.line 128 = s.mem.readBytes w.line 128 ∧
    (∀ i < 16, pageRecord t.mem (16 * region + i) =
      undual (if w.fenced then pageRecord s.mem (16 * region + i) else raisedGen (pageRecord s.mem (16 * region + i)))) ∧
    t.mem.readLE p 8 = w.frame ∧ t.mem.readLE (d + 8) 4 = (n + 1) % 2 ^ 32 ∧ t.counters = (counted 0x190 s).counters := by
  intro t
  obtain ⟨u, hu⟩ : ∃ u, u = s.windowEnded region w := ⟨_, rfl⟩
  have hn' : n = u.mem.readLE (d + 8) 4 := by rw [hu, State.windowEnded_ctl hreg (by omega), hn]
  have hp' : p = (u.mem.readLE d 8 + 8 * n) % 2 ^ 52 := by rw [hu, State.windowEnded_ctl hreg (by omega), hp]
  have hcnt : 0x1FF40000000 ≤ d + 8 := by omega
  have ht : t = (u.pushFrame d (d + 8) w.frame).count 0x190 1 := by
    have hctlEq : dieCtl w.die = d := hd.symm
    rw [hu, ← hctlEq]
    rfl
  obtain ⟨hplace, hcount⟩ := State.pushFrame_reads (f := w.frame) hn' hp' hlow hcnt
  obtain ⟨hpw, hps, hpc, -⟩ := (u.pushFrame_agentOnly d (d + 8) w.frame).fields
  obtain ⟨huw, hus, huc⟩ := s.windowEnded_fields region w
  rw [← hu] at huw hus huc
  rw [ht]
  simp only [State.count_mem, State.count_saved]
  refine ⟨hpw.trans huw, hps.trans hus, ?_, fun i hi => ?_, hplace.trans (Nat.mod_eq_of_lt hfr), hcount, ?_⟩
  · rw [State.pushFrame_other hn' hp' hcnt (by omega) (by omega), hu, State.windowEnded_other _ _ _ (by omega)]
  · have hkeep : pageRecord (u.pushFrame d (d + 8) w.frame).mem (16 * region + i) = pageRecord u.mem (16 * region + i) :=
      congrArg leNat (State.pushFrame_other hn' hp' hcnt (by omega) (by omega))
    rw [hkeep, hu, State.windowEnded_record _ _ _ hi]
  · exact congrArg (fun c => mupd c 0x190 0 fun v => Nat.min (v + 1) (2 ^ 64 - 1)) (hpc.trans huc)

end Switch

end Sys2Proof.Machine
end

section
/-! SUPPORT. The settled statement about pages (R234, R241, R361 to R378). -/

namespace Sys2Proof.Machine

open Sys2Proof.Safety

/-- A migration opens. -/
theorem migrationOpen_opens {s : State} {region die d n : Nat} (hc : callsFor s region die) (hm : mayMove s region die)
    (hw : mget s.windows region = none) (hr : 16 * region + 16 ≤ 2 ^ 29) (hd : d = 0x1FF40000000 + 64 + 32 * die)
    (hn : n = s.mem.readLE (d + 8) 4) :
    ∃ t w, exec (.migrationOpen region die) s = .next t ∧ t.windows = mput s.windows region w ∧ w.die = die ∧
      w.frame = s.mem.readLE ((s.mem.readLE d 8 + 8 * (n - 1)) % 2 ^ 52) 8 % 2 ^ 52 ∧
      w.line = s.mem.readLE (0x1FF00000000 + 32 * region + 16) 8 % 2 ^ 52 ∧
      w.gen = s.mem.readLE (0x1FE00000000 + 128 * region) 8 / 16 % 4096 ∧ w.copied = 0 ∧ w.fenced = false ∧ s.now < w.due ∧
      t.mem.readLE (d + 8) 4 = n - 1 ∧ t.mem.readBytes (0x1FF00000000 + 32 * region) 12 = List.replicate 12 0 ∧
      (∀ i < 16, pageRecord t.mem (16 * region + i) = pageRecord s.mem (16 * region + i) + 8) := by
  have hdue : s.now < s.now + 1 + s.delays.headD 0 := by omega
  have hgen : s.pageState (16 * region) / 16 % 4096 = s.mem.readLE (0x1FE00000000 + 128 * region) 8 / 16 % 4096 := by
    rw [State.pageState, recOf, ← Nat.mul_assoc]
  have hframe : (s.openedWindow region die).frame = s.mem.readLE ((s.mem.readLE d 8 + 8 * (n - 1)) % 2 ^ 52) 8 % 2 ^ 52 := by
    have hctl : dieCtl die = d := hd.symm
    rw [State.openedWindow, hctl, ← hn]
    rfl
  exact ⟨_, s.openedWindow region die, rfl, migrationOpen_windows hc hm hw, rfl, hframe, rfl, hgen, rfl, rfl, hdue,
    migrationOpen_reads hc hm hw hr hd hn⟩

/-- A window's next step. -/
theorem step_window {s : State} {region : Nat} {w : Window} (ht : s.turn = .sched) (hj : s.nextJob = .migrateOn region)
    (hw : mget s.windows region = some w) :
    (w.copied < 512 → s.bad = [] → ∃ t, step s = .next t ∧
      t.windows = mput s.windows region { w with copied := w.copied + 1, due := s.now + 1 } ∧
      t.mem = s.mem.writeBytes (w.frame + 128 * w.copied) (s.mem.readBytes (65536 * region + 128 * w.copied) 128)) ∧
    (512 ≤ w.copied → w.fenced = false → 16 * region + 16 ≤ 2 ^ 29 → ∃ t, step s = .next t ∧
      t.windows = mput s.windows region { w with fenced := true, due := s.now + 1 } ∧
      (∀ i < 16, pageRecord t.mem (16 * region + i) = raisedGen (pageRecord s.mem (16 * region + i))) ∧
      (∀ a, a < 0x1FE00000000 → t.mem.read a = s.mem.read a)) := by
  rw [step_migrateOn ht hj]
  refine ⟨fun hc hb => ⟨_, rfl, State.migrateOn_copies hw hc hb⟩, fun hc hf _ => ⟨_, rfl, ?_⟩⟩
  rw [State.migrateOn_fences hw hc hf]
  refine ⟨?_, s.fence_reads region w⟩
  rw [State.fence_eq]

/-- Settles O50: a walk by what its entry says, a grow request by what the descriptor supplies, and a migration by the step that
its window stands at. -/
theorem pagesMove : Obligations.PagesMove := by
  refine ⟨fun s root asid va n tab level loc e pa want priv w _ hlev htab hloc he hpa hw => ?_,
    fun k s c va lane want w hk hc hw => walkComplete_ends hk hc hw,
    fun k s c va lane pte desc x hk hc hg hx => growRequest_ends hk hc hg hx,
    fun region die s => ⟨fun h => congrArg Host.Outcome.next (migrationOpen_stays h),
      fun d n hc hm hw hr hd hn => migrationOpen_opens hc hm hw hr hd hn,
      fun h => congrArg Host.Outcome.next (migrationSwitch_stays h),
      fun w pa bs hw hne hlen hr hdev hres hidle => ⟨_, rfl, driveDma_mirrored hw hne hlen hr hdev hres hidle⟩,
      fun w ht hj hw => step_window ht hj hw,
      fun w d n p g hw hc hreg _ hd hg hline => ⟨fun hmaps hframe halign hne hlf hn hp hlow hpf hpl => ?_,
        fun hmaps hn hp hlow hpl hfr => ?_⟩⟩⟩
  · obtain ⟨next, hwalk⟩ := walk_use_of_tableAfter (s := s) (asid := asid) htab
    rw [hwalk, ← hlev] at hw
    exact atTable_use hloc he hpa hw
  all_goals
    have hbytes : (s.windowEnded region w).mem.readBytes w.line 128 = s.mem.readBytes w.line 128 :=
      State.windowEnded_other s region w (by omega)
  · have hrun : s.migrationSwitch region = (s.windowEnded region w).switched region w := by
      rw [migrationSwitch_eq hw hc, hbytes, if_pos ((lineMaps_iff ..).mpr hmaps)]
    subst hg
    exact ⟨_, congrArg Host.Outcome.next hrun, State.switched_reads hreg hd hline hframe halign hne hlf hn hp hlow hpf hpl⟩
  · have hno : ¬ lineMaps (s.mem.readBytes w.line 128) (65536 * region) w.gen = true := fun h => by
      obtain ⟨i, hi, hbad⟩ := hmaps
      exact hbad ((lineMaps_iff ..).mp h i hi)
    have hrun : s.migrationSwitch region = (s.windowEnded region w).givenBack w := by
      rw [migrationSwitch_eq hw hc, hbytes, if_neg hno]
    exact ⟨_, congrArg Host.Outcome.next hrun, State.givenBack_reads hreg hd hline hn hp hlow hpl hfr⟩

end Sys2Proof.Machine
end
